-- ==== Sys2Proof/Word.lean ====
section
/-! DEFINITION. The word types of the module: bytes, register words, and tables of entries by number. -/

namespace Sys2Proof

/-- One byte. Structures in host and module memory are little-endian (R6). -/
abbrev Byte := BitVec 8

/-- The contents of a register, 32 or 64 bits wide (R12); a 32-bit register uses the low half. -/
abbrev Word := BitVec 64

/-- A table of entries by number: strictly rising numbers, no entry for a number that holds nothing. -/
abbrev Tab (α : Type) := List (Nat × α)

end Sys2Proof
end

