-- ==== Sys2Proof/Syntax.lean ====
section
/-! DEFINITION. The commands the module takes, one constructor per row of spec/opcode_table.json, and the data they carry:
what arrives from outside (a packet, a frame, a request, a measured value) or the name of the thing an event happens to.
Numbers are Nat or Fin; `WellFormed.lean` says which values of the Nat operands a command may carry. -/

namespace Sys2Proof

/-- Where a command packet came in (R49). -/
inductive Transport where
  | admin (ring : Nat)
  | mailbox (c : Nat)
  | oob (station : Nat)
  | jexdor (origin : Nat)
  deriving DecidableEq, Repr

/-- One TLV parameter of a command packet (R45): TYPE with its OPTIONAL bit, and the LEN bytes of value. -/
structure Tlv where
  typ : Nat
  val : List Byte
  deriving DecidableEq, Repr

/-- A command packet as the Cutter holds it (R44): the requester's master identity as the module derived it (R42), and the
header fields and TLVs as they were sent. -/
structure Cmd where
  src : Transport
  mid : Nat
  unordered : Bool := false
  opcode : Nat
  tag : Nat := 0
  target : Nat := 0xFF
  inst : Nat := 0xFFFF
  gen : Nat := 0
  txn : Nat := 0
  seq : Nat := 0
  timeoutUs : Nat := 0
  tlvs : List Tlv := []
  deriving DecidableEq, Repr

/-- A requester of a register access: its master identity, and whether the access is made by REG_READ or REG_WRITE (R66). -/
structure Req where
  mid : Nat
  viaCmd : Bool := false
  deriving DecidableEq, Repr

/-- A function of a host endpoint: the PF, or a VF by number. -/
structure Fn where
  ep : Nat
  vf : Option Nat := none
  deriving DecidableEq, Repr

/-- What an Announce message tells (R117, R120, R136): the grandmaster's data set and its time properties. -/
structure AnnounceData where
  gmIdentity : Nat
  priority1 : Nat
  clockClass : Nat
  accuracy : Nat
  variance : Nat
  priority2 : Nat
  stepsRemoved : Nat
  utcOffset : Int
  utcValid : Bool
  leap61 : Bool
  leap59 : Bool
  timeTraceable : Bool
  freqTraceable : Bool
  domain : Nat
  deriving DecidableEq, Repr

/-- A PTP message on a port (R117, R118): the kinds the module handles, and the ones it ignores. -/
inductive PtpMsg where
  | announce (ds : AnnounceData)
  | sync (domain : Nat)
  | followUp (domain : Nat)
  | delayReq (domain : Nat)
  | delayResp (domain : Nat)
  | unicastRequest (domain clock seconds : Nat)
  | ignored
  deriving DecidableEq, Repr

/-- What the standard microcode set sends on a PTP port at a timer (R206). -/
inductive PtpSend where
  | announce | sync | delayReq
  deriving DecidableEq, Repr

/-- What a loop-back test measured (R70): frames sent, received correct, in error; FEC codewords corrected and uncorrected; least
and greatest latency in ns. -/
structure LoopResult where
  sent : Nat := 0
  good : Nat := 0
  bad : Nat := 0
  corrected : Nat := 0
  uncorrected : Nat := 0
  least : Nat := 0
  greatest : Nat := 0
  deriving DecidableEq, Repr

/-- What the OOB port saw of a frame and before it (R51): `fcsOk`, its FCS is right; `lost`, the frames of the module's own that sixteen
collisions have stopped since the last one received. -/
structure OobRx where
  fcsOk : Bool
  lost : Nat := 0
  deriving DecidableEq, Repr

/-- What the module read of a Bobbin's identity block (R196): the 128 bytes, the serial number, the beginning-of-life bias and the
hours field of each laser, the part number; `ok` says that the CRC is right. -/
structure BobbinIdent where
  block : List Byte
  serial : List Byte
  bol : List Nat := []
  hours : List Nat := []
  part : List Byte := []
  ok : Bool := true
  deriving DecidableEq, Repr

/-- A link of the system as the link reports give it (R490, R499): module and link, peer module and peer link, state; the peer's serial
and SYSTEM_ID as its HELLO told them. -/
structure TopoRec where
  mod : Nat
  link : Nat
  peer : Nat
  peerLink : Nat
  state : Nat := 3
  serial : List Byte := []
  systemId : Nat := 0
  deriving DecidableEq, Repr

/-- A configuration request of a host to a function (R365): a read of a dword, or a write to a register that the module acts on,
with the fields it sets. -/
inductive CfgReq where
  | read (off : Nat)
  | command (v : Nat)
  | bar (n v : Nat)
  | powerState (d3hot : Bool)
  | msixCtl (enable fmask : Bool)
  | devCtl (mps mrrs : Nat) (ro flr : Bool)
  | devCtl2 (cto tags : Nat)
  | ptm (enable : Bool)
  | pasid (enable : Bool)
  | ats (enable : Bool)
  | sriov (vfEnable : Bool) (numVfs : Nat)
  | other (off v : Nat)
  deriving DecidableEq, Repr

/-- An SPDM or IDE_KM message over DOE (R377, R376): what it asks. IDE messages name a stream (0 link, 1 to 8 selective) and the
functions its association blocks cover: 0 for the PF, v + 1 for VF v. -/
inductive SpdmMsg where
  | discovery (index : Nat)
  | certificate (slot : Nat)
  | challenge (nonce : List Byte)
  | measurements (index : Nat) (nonce : List Byte)
  | keyExchange (share : List Byte)
  | endSession
  | keySetGo (stream : Nat) (fns : List Nat)
  | keySetStop (stream : Nat)
  | other
  deriving DecidableEq, Repr

/-- A PDU from a storage target, decoded (R466, R469): read data of a command at an offset, a ready-to-transfer, a response with its
status (SCT and SC, DNR) and Dword 0, or one that breaks the protocol. The command is named by instance, queue and identifier; queue
0x8000 names the flush of a shutdown, with the namespace as identifier. -/
inductive TargetPdu where
  | data (inst sq cid off : Nat) (bytes : List Byte)
  | r2t (inst sq cid off len : Nat)
  | resp (inst sq cid status dw0 : Nat)
  | malformed
  deriving DecidableEq, Repr

/-- What a completed step of CONNECTING told (R465): the digests granted, the controller identifier, IOCCSZ and the volatile write cache
of the controller, and of each namespace identified its number, size and capacity in blocks, log2 of the block size, and whether its
format has neither metadata nor protection. -/
structure StepInfo where
  hdgst : Bool := true
  ddgst : Bool := true
  cntlid : Nat := 0
  ioccsz : Nat := 4
  vwc : Bool := false
  ns : List (Nat × Nat × Nat × Nat × Bool) := []
  deriving DecidableEq, Repr

/-- What a completion for a tag brought (R378, R379): the next of its data, or an error. -/
inductive ReadResult where
  | data (bs : List Byte)
  | poisoned
  | urCa
  | ecrc
  deriving DecidableEq, Repr


/-- An uncorrectable or corrected memory error met in a stitch (R565): a corrected one of a memory kind (R566); a control-store word;
a rule slot of a slice; line `way` of a flow-cache set; a telemetry accumulator; other HBM and other Chalk; a slot of a log or of the
Golide log; a counter of Chalk with no valid slot left; a configuration bank; 8 bytes of an image block; a Seam context or lane; a Pleat
entry of an egress queue, not started; the frame a sub-port is sending. -/
inductive EccHit where
  | corrected (kind : Fin 7)
  | control (s : Fin 8) (c : Fin 10) (a : Fin 16384)
  | rule (s : Fin 8) (n : Fin 65536)
  | cacheLine (set way : Nat)
  | accum (i : Fin 4194304)
  | hbm (addr : Nat)
  | chalk (addr : Nat)
  | logSlot (isError : Bool) (seq : Nat)
  | golide (seq : Nat)
  | counter (k : Nat)
  | bank (second : Bool)
  | image (block word : Nat)
  | seamCtx (s : Fin 8) (seq : Nat)
  | seamLane (s : Fin 8) (l : Fin 4096)
  | pleat (queue id : Nat)
  | sending (n : Fin 96) (k : Fin 8)
  deriving DecidableEq, Repr

/-- What one shared unit meets up to a stitch boundary (R107 to R110): the unit; the ns at which the foreground requests that no command
of the host brings (spill, backing reads) reached it since the last boundary; the background requests pending, each a class and a
number of its requester; the errors that the stitch finds. -/
structure UnitStitch where
  unit : Fin 154
  fg : List Nat := []
  bg : List (Nat × Nat) := []
  hits : List EccHit := []
  deriving DecidableEq, Repr

/-- What the FEC of sub-port `sub` of port `port` did in a turn (R189): codewords with corrected symbols, codewords that could not be
corrected, corrected symbols. -/
structure FecCount where
  port : Fin 96
  sub : Fin 8
  fixed : Nat
  lost : Nat
  symbols : Nat
  deriving DecidableEq, Repr

/-- What the power manager and the tempo monitors measured over the turn that ends (R86, R543, R550): the laps of the twelve monitors of
each slice and of the hub's four; VIN in mV, the input current in 10 mA, module power in W; the hottest junctions in °C; whether the current limit
acted and whether storage was drawn on; the fall of the common ceiling that the manager's estimate requires, in µV (R546); what the FEC
of the ports did (R189). -/
structure TurnMeas where
  laps : List (List Nat)
  hub : List Nat
  vin : Nat
  iin : Nat
  power : Nat
  tj : List Nat
  tjHub : Nat
  curLimit : Bool
  ride : Bool
  cut : Nat
  fec : List FecCount := []
  deriving DecidableEq, Repr

/-- How a CONFIG_COMMIT ends (R510): written whole; a Chalk write failed; power failed or a COLD reset fell before the header. -/
inductive CommitFate where
  | done | fails | cut
  deriving DecidableEq, Repr

/-- The commands of the module, one constructor per row of spec/opcode_table.json. -/
inductive Instr where
  /-- INPUT_VALID (R541): VIN at or above the rising threshold with MOD_EN high for 10 ms starts a COLD start. -/
  | inputValid (low : Nat)
  /-- POWER_LOSS (R542): VIN below the power-loss threshold for 20 µs, or MOD_EN low: laser drive is cut, Chalk writes stop, host links drop and the rails go down. -/
  | powerLoss (ride : Bool)
  /-- THERMAL_TRIP (R550): A junction at 110 °C or more cuts laser drive, turns every rail off and holds MOD_ALERT_N low. -/
  | thermalTrip
  /-- OE_OVERTEMP (R550): An optical engine at 80 °C or more is gated, and the gate lifts when it falls below 75 °C. -/
  | oeOvertemp (k : Fin 12) (hot : Bool)
  /-- ROM (R501): The Basting ROM advances BOOT, reads the directory and journal, notes a pending factory clear and resumes a cut install. -/
  | rom (dirBad : Bool) (cut : Option Nat)
  /-- IMAGE_CHECK (R523): The image in the image area is checked, and a failure ends the start in RECOVERY. -/
  | imageCheck
  /-- CONFIG (R513): The module carries out a pending factory clear, restores and checks a configuration bank, locks the mailbox bindings and applies the pin functions. -/
  | config (eccA eccB : Bool) (cut : Option Nat)
  /-- LOADING (R501): The Cutter loads the control stores, vectors, timers and sequencers, checks the retained banks, and then sets READY. -/
  | loading (ok : Bool) (t : Nat)
  /-- INITIAL_TIME_TIMEOUT (R113): Ten seconds after READY with no phase source qualified, device time is stepped to the newest Golide record plus 60 s. -/
  | initialTimeTimeout (t : Nat)
  /-- STITCH_BOUNDARY (R108): At each 32 ns boundary every shared unit grants its stitch to foreground or to a background class. -/
  | stitchBoundary (t : Nat) (us : List UnitStitch)
  /-- TURN_BOUNDARY (R86): Every 8.192 µs the tempos are measured and reported, and the per-turn status refreshes take place. -/
  | turnBoundary (t : Nat) (x : TurnMeas)
  /-- BAND_RISE (R545): VIN at least 1.0 V above the next band's lower limit for 1 s raises the band by one. -/
  | bandRise
  /-- GATE_LIFT (R546): A gated engine is lifted, highest priority first, once its band or power condition allows and its wait has passed. -/
  | gateLift (cause : Fin 3)
  /-- SELECTION_TICK (R127): Every 125 ms Tapeline applies the losses, table changes and gains that arrived and selects the phase and frequency sources. -/
  | selectionTick (t : Nat) (offs : Tab Int)
  /-- SERVO_SECOND (R131): Each second the servo judges the mean offset against STEP_NS and LOCK_NS and moves between its states. -/
  | servoSecond (t : Nat) (off : Int) (delay : Nat) (temp : Int)
  /-- HOLDOVER_LIMIT (R131): Time in HOLDOVER reaching HOLD_MAX_MIN sends the servo to FREERUN. -/
  | holdoverLimit (t : Nat)
  /-- LEAP_AT (R137): Device time reaching LEAP_AT applies the new UTC offset and clears the leap flags. -/
  | leapAt (t : Nat)
  /-- PTP_MESSAGE_RECEIVED (R117): A PTP event or general message on a PTP port is stamped and handled by the BMCA and the servo. -/
  | ptpMessageReceived (n : Fin 96) (msg : PtpMsg) (t : Nat)
  /-- PTP_ANNOUNCE_TIMEOUT (R117): announceReceiptTimeout Announce intervals pass without an Announce, and the parent is lost. -/
  | ptpAnnounceTimeout (n : Fin 96)
  /-- ESMC_RECEIVED (R122): An ESMC message updates the QL of a SyncE source. -/
  | esmcReceived (n : Fin 96) (ql : Fin 16) (ok : Bool)
  /-- ESMC_TIMEOUT (R122): No ESMC arrives for 5 s, and the SyncE source loses its qualification. -/
  | esmcTimeout (n : Fin 96)
  /-- PPS_INPUT_EDGE (R123): A rising edge on the 1PPS input is stamped at its Tack point. -/
  | ppsInputEdge (stamp : Nat)
  /-- TOD_SENTENCE_RECEIVED (R125): A time-of-day sentence is checked and counts towards the qualification or loss of a PPS_TOD source. -/
  | todSentenceReceived (bytes : List Byte) (t : Nat)
  /-- REF10M_LOSS (R123): Loss of the 10 MHz input is detected within 100 µs. -/
  | ref10mLoss
  /-- PPS_OUT_RISE (R168): An enabled 1PPS output drives its pin high at k s minus COMP. -/
  | ppsOutRise (j : Fin 8) (k : Nat)
  /-- PPS_OUT_FALL (R168): WIDTH_US after its rising edge, the 1PPS output drives its pin low. -/
  | ppsOutFall (j : Fin 8)
  /-- TOD_OUTPUT_SENTENCE (R124): One time-of-day sentence is sent for each second of device time. -/
  | todOutputSentence (k : Nat)
  /-- GOLIDE_RECORD (R170): At each minute boundary a signed Golide record is written into Chalk and the head advances. -/
  | golideRecord (min : Nat)
  /-- TIME_PAIR_UPDATE (R164): At each millisecond a pair is formed and every enabled time-pair page is updated with three posted writes. -/
  | timePairUpdate (k : Nat)
  /-- PTM_DIALOG_START (R158): Every 62.5 µs the endpoint sends a PTM Request. -/
  | ptmDialogStart (e : Fin 32)
  /-- PTM_RESPONSE (R158): A PTM ResponseD is stamped and gives one dialog sample. -/
  | ptmResponse (e : Fin 32) (stamp master delay : Nat)
  /-- PTM_DIALOG_TIMEOUT (R158): A dialog without a response within 10 µs counts in DIALOG_TIMEOUTS. -/
  | ptmDialogTimeout (e : Fin 32)
  /-- FRAME_RECEIVED (R178): A frame that ends at a port is stamped and checked, passed through the elastic buffer and admitted to Pleat. -/
  | frameReceived (n : Fin 96) (k : Fin 8) (d : List Byte) (fcsOk : Bool) (stamp : Nat) (full : Bool)
  /-- PFC_FRAME_RECEIVED (R179): A received PFC frame pauses or resumes the priorities it names. -/
  | pfcFrameReceived (n : Fin 96) (k : Fin 8) (d : List Byte) (fcsOk : Bool) (t : Nat)
  /-- PFC_REFRESH (R300): While XOFF holds, the pause frames are repeated at half the pause time. -/
  | pfcRefresh (n : Fin 96) (k : Fin 8)
  /-- PFC_WATCHDOG (R302): XOFF held for WD_MS is released, and the class is treated as lossy. -/
  | pfcWatchdog (n : Fin 96) (c : Fin 8)
  /-- LANE_LOCK_ACQUIRED (R184): Lock and alignment on every lane take a TRAINING sub-port to UP. -/
  | laneLockAcquired (n : Fin 96) (lanes : Fin 256)
  /-- LANE_LOCK_LOST (R184): Lock or alignment lost takes an UP sub-port to LOCAL_FAULT. -/
  | laneLockLost (n : Fin 96) (lanes : Fin 256)
  /-- REMOTE_FAULT_RECEIVED (R184): Remote Fault received takes an UP sub-port to REMOTE_FAULT. -/
  | remoteFaultReceived (n : Fin 96) (k : Fin 8)
  /-- FAULT_CLEAR (R184): A fault clear for 10 ms returns the sub-port to UP. -/
  | faultClear (n : Fin 96) (k : Fin 8)
  /-- TRAINING_TIMEOUT (R184): No alignment within 500 ms restarts training. -/
  | trainingTimeout (n : Fin 96) (k : Fin 8)
  /-- LIGHT_LOST (R195): A lane loses light, and its sub-ports go to NO_LIGHT. -/
  | lightLost (n : Fin 96) (tx rx : Fin 256)
  /-- LIGHT_PRESENT (R184): Light on all of a sub-port's lanes takes it from NO_LIGHT to TRAINING. -/
  | lightPresent (n : Fin 96) (tx rx : Fin 256)
  /-- TRANSMIT_UNDERRUN (R188): The egress elastic buffer empties mid-frame, the frame is cut with a bad FCS and THRESH rises. -/
  | transmitUnderrun (n : Fin 96) (k : Fin 8)
  /-- THRESH_DECAY (R188): After DECAY_S seconds without an underrun THRESH falls by STEP. -/
  | threshDecay (n : Fin 96)
  /-- FRAME_BOUNDARY (R311): At a sub-port's frame boundary the Hem selects and starts the next frame. -/
  | frameBoundary (n : Fin 96) (k : Fin 8)
  /-- FRAME_TRANSMIT_END (R413): A frame finishes transmission, its transmit stamp is taken and the fate of a send is settled. -/
  | frameTransmitEnd (n : Fin 96) (k : Fin 8)
  /-- CALENDAR_ENTRY_BOUNDARY (R315): A calendar entry or cycle begins and the port's gate states change. -/
  | calendarEntryBoundary (n : Fin 96) (t : Nat)
  /-- CALENDAR_ACTIVATION (R320): At WHEN the calendar banks swap, or the calendar stops. -/
  | calendarActivation (n : Fin 96)
  /-- TIMED_FRAME_DUE (R324): At L − 1 µs a timed frame is moved to the elastic buffer and the timed hold begins, or the frame is treated as late. -/
  | timedFrameDue (n : Fin 96)
  /-- BOBBIN_PRESENCE_GAINED (R199): A Bobbin is seated and its slot enters IDENTIFYING. -/
  | bobbinPresenceGained (k : Fin 12)
  /-- BOBBIN_PRESENCE_LOST (R199): A Bobbin is removed, laser drive is cut and the slot becomes ABSENT. -/
  | bobbinPresenceLost (k : Fin 12)
  /-- BOBBIN_IDENTIFIED (R196): The identity block has been read and is accepted or rejected. -/
  | bobbinIdentified (k : Fin 12) (x : BobbinIdent)
  /-- BOBBIN_WARMED (R199): The lasers reach power and wavelength, calibration passes or fails, and the Bobbin becomes ACTIVE or FAILED. -/
  | bobbinWarmed (k : Fin 12) (bias : List Nat) (pass : Bool)
  /-- LASER_SERVO (R193): Each millisecond the sequencer holds the power and wavelength of every laser. -/
  | laserServo (k : Fin 12) (bias : List Nat) (fault : Fin 1048576) (temp engine : Fin 256)
  /-- SPARE_SWITCH_DONE (R198): The spare is warm, the light path moves and the old laser is retired. -/
  | spareSwitchDone (k : Fin 12) (j : Fin 16)
  /-- BOBBIN_HOURS_WRITE (R196): Every hour laser hours are written to the Bobbin and to Chalk. -/
  | bobbinHoursWrite (k : Fin 12)
  /-- LIFE_PREDICTION (R197): Once per equivalent hour the remaining life is predicted and WARN is judged. -/
  | lifePrediction (k : Fin 12) (j : Fin 20)
  /-- DISPATCH (R204): The dispatcher takes a packet from an input queue, gives it a Seam sequence and lane, and hands it to an idle thread. -/
  | dispatch (sl : Fin 8)
  /-- SHUTTLE_TIMER_FIRE (R206): A slice timer fires and places a timer event in the control class, or counts an overrun. -/
  | shuttleTimerFire (sl : Fin 8) (k : Fin 64) (t : Nat) (ptp : List (PtpSend × Fin 96)) (esmc : List (Fin 96))
  /-- MICROWORD_ISSUE (R225): An engine issues one microword of the chosen thread, and all of its units act at once. -/
  | microwordIssue (sl : Fin 8) (e : Fin 160) (err : Fin 3)
  /-- SHU_BANK_SWITCH (R209): An accepted shadow bank of slots, weights and shares becomes active at the engine's step with i = 0. -/
  | shuBankSwitch (sl : Fin 8) (e : Fin 160)
  /-- CHANNEL_RESPONSE (R212): A channel response arrives at its tag and wakes a BLOCKED thread or completes a FAULTED thread's clean-up. -/
  | channelResponse (sl : Fin 8) (e : Fin 160) (t : Fin 16) (tag : Fin 8)
  /-- CREDIT_AVAILABLE (R213): A channel credit frees and a STALLED thread becomes READY. -/
  | creditAvailable (sl : Fin 8) (e : Fin 160) (t : Fin 16)
  /-- RESIDENCY_EXPIRY (R216): RESIDENCY_US passes without END and the thread faults with RESIDENCY_LIMIT. -/
  | residencyExpiry (sl : Fin 8) (e : Fin 160) (t : Fin 16)
  /-- CS_ECC_REWRITE (R218): After an uncorrectable control-store error the Cutter rewrites the word, and the cluster returns to dispatch. -/
  | csEccRewrite (sl : Fin 8) (c : Fin 10) (a : Fin 16384) (ok : Bool)
  /-- END (R239): A pass ends with its disposition once its outstanding tags and any request carried with END have answered. -/
  | endPass (sl : Fin 8) (e : Fin 160) (t : Fin 16)
  /-- TRAP (R227): The TRAP sequencer operation faults the thread with cause TRAP. -/
  | trap (sl : Fin 8) (e : Fin 160)
  /-- EXACT (R253): Exact-match lookup in the flow cache, waiting for a fill on a miss. -/
  | exactMatch (sl : Fin 8) (e : Fin 160) (t : Fin 16) (tag : Fin 8) (bad : Bool)
  /-- EXACT_NOWAIT (R253): Exact-match lookup that takes the miss action at once on a miss. -/
  | exactNowait (sl : Fin 8) (e : Fin 160) (t : Fin 16) (tag : Fin 8) (bad : Bool)
  /-- RULE (R257): Rule-table lookup with masked and Gauge range fields. -/
  | ruleMatch (sl : Fin 8) (e : Fin 160) (t : Fin 16) (tag : Fin 8) (bad : Option (Fin 65536))
  /-- DATA_READ (R235): Reads 8 to 64 bytes in the microcode data region. -/
  | dataRead (sl : Fin 8) (e : Fin 160) (t : Fin 16) (tag : Fin 8) (bad : Bool)
  /-- DATA_WRITE (R235): Writes 8 to 64 bytes in the microcode data region. -/
  | dataWrite (sl : Fin 8) (e : Fin 160) (t : Fin 16) (tag : Fin 8) (bad : Bool)
  /-- DATA_ADD (R235): Adds to words in the microcode data region and returns the old words. -/
  | dataAdd (sl : Fin 8) (e : Fin 160) (t : Fin 16) (tag : Fin 8) (bad : Bool)
  /-- DATA_CAS (R235): Compare-and-swap of one word in the microcode data region. -/
  | dataCas (sl : Fin 8) (e : Fin 160) (t : Fin 16) (tag : Fin 8) (bad : Bool)
  /-- LOCAL_READ (R235): Reads cluster scratch. -/
  | localRead (sl : Fin 8) (e : Fin 160) (t : Fin 16) (tag : Fin 8) (bad : Bool)
  /-- LOCAL_WRITE (R235): Writes cluster scratch. -/
  | localWrite (sl : Fin 8) (e : Fin 160) (t : Fin 16) (tag : Fin 8) (bad : Bool)
  /-- LOCAL_ADD (R235): Adds in cluster scratch. -/
  | localAdd (sl : Fin 8) (e : Fin 160) (t : Fin 16) (tag : Fin 8) (bad : Bool)
  /-- LOCAL_CAS (R235): Compare-and-swap in cluster scratch. -/
  | localCas (sl : Fin 8) (e : Fin 160) (t : Fin 16) (tag : Fin 8) (bad : Bool)
  /-- COUNT (R267): Updates a compressed or pinned counter through a meter and returns the colour. -/
  | countUpdate (sl : Fin 8) (e : Fin 160) (t : Fin 16) (tag : Fin 8)
  /-- WRITEBACK (R236): Writes back the window's pending changes to the packet. -/
  | writeback (sl : Fin 8) (e : Fin 160) (t : Fin 16) (tag : Fin 8)
  /-- INSERT (R237): Inserts zero bytes into the packet at an offset. -/
  | insertBytes (sl : Fin 8) (e : Fin 160) (t : Fin 16) (tag : Fin 8)
  /-- STRIP (R237): Removes bytes from the packet at an offset. -/
  | stripBytes (sl : Fin 8) (e : Fin 160) (t : Fin 16) (tag : Fin 8)
  /-- REWRITE_READ (R236): Reads 8 to 64 bytes of the packet at any offset. -/
  | rewriteRead (sl : Fin 8) (e : Fin 160) (t : Fin 16) (tag : Fin 8)
  /-- REWRITE_WRITE (R237): Writes 8 to 64 bytes of the packet below LEN. -/
  | rewriteWrite (sl : Fin 8) (e : Fin 160) (t : Fin 16) (tag : Fin 8)
  /-- CELL_ALLOC (R236): Reserves cells for later INSERT and COPY in the pass. -/
  | cellAlloc (sl : Fin 8) (e : Fin 160) (t : Fin 16) (tag : Fin 8)
  /-- COPY (R236): Makes a copy of the packet to be produced at Seam release. -/
  | copyCell (sl : Fin 8) (e : Fin 160) (t : Fin 16) (tag : Fin 8)
  /-- MIRROR (R236): Makes a truncated copy of the packet to be produced at Seam release. -/
  | mirrorPass (sl : Fin 8) (e : Fin 160) (t : Fin 16) (tag : Fin 8)
  /-- RECIRC (R236): Marks the packet for recirculation to a slice and vector at END. -/
  | recircPass (sl : Fin 8) (e : Fin 160) (t : Fin 16) (tag : Fin 8)
  /-- SEAL (R335): Encrypts and tags data under a GENERIC context with the next counter. -/
  | sealData (sl : Fin 8) (e : Fin 160) (t : Fin 16) (tag : Fin 8)
  /-- OPEN (R335): Decrypts data under a GENERIC context and checks the tag at FINAL. -/
  | openData (sl : Fin 8) (e : Fin 160) (t : Fin 16) (tag : Fin 8)
  /-- ESP_OUT (R351): Seals an outbound ESP packet and writes SPI, sequence, IV and ICV. -/
  | espOut (sl : Fin 8) (e : Fin 160) (t : Fin 16) (tag : Fin 8)
  /-- ESP_IN (R351): Checks replay, decrypts and checks an inbound ESP packet. -/
  | espIn (sl : Fin 8) (e : Fin 160) (t : Fin 16) (tag : Fin 8)
  /-- TLS_OUT (R352): Seals one TLS record with a given sequence. -/
  | tlsOut (sl : Fin 8) (e : Fin 160) (t : Fin 16) (tag : Fin 8)
  /-- TLS_IN (R337): Opens one TLS record, whole or in parts. -/
  | tlsIn (sl : Fin 8) (e : Fin 160) (t : Fin 16) (tag : Fin 8)
  /-- XTS_ENC (R335): Encrypts data units under AES-XTS. -/
  | xtsEnc (sl : Fin 8) (e : Fin 160) (t : Fin 16) (tag : Fin 8)
  /-- XTS_DEC (R335): Decrypts data units under AES-XTS. -/
  | xtsDec (sl : Fin 8) (e : Fin 160) (t : Fin 16) (tag : Fin 8)
  /-- QDEPTH (R328): Reads the queue depth of a class at an egress sub-port. -/
  | qdepth (sl : Fin 8) (e : Fin 160) (t : Fin 16) (tag : Fin 8)
  /-- GATE (R328): Reads the gate states and calendar running flag of a port. -/
  | gateQuery (sl : Fin 8) (e : Fin 160) (t : Fin 16) (tag : Fin 8)
  /-- CALPOS (R328): Reads the cycle number and entry index of a port's calendar. -/
  | calpos (sl : Fin 8) (e : Fin 160) (t : Fin 16) (tag : Fin 8)
  /-- FLOW_FILL_DONE (R263): A flow-cache fill returns from HBM and installs lines, answers its lookups, or is reissued. -/
  | flowFillDone (sl : Fin 8) (i : Nat) (bad : Bool)
  /-- THIMBLE_OP_DONE (R331): A cipher operation finishes on its core and responds. -/
  | thimbleOpDone (sl : Fin 8) (i : Fin 4096) (fail : Bool)
  /-- EPOCH_KEY_DERIVE (R359): GUARD_MS + 1 ms before an epoch's end, the key of the next epoch is derived. -/
  | epochKeyDerive (k : Fin 262144) (t : Nat)
  /-- EPOCH_KEY_ERASE (R359): When the after-boundary guard ends, the previous epoch's key is erased. -/
  | epochKeyErase (k : Fin 262144) (t : Nat)
  /-- SEAM_RELEASE (R279): A releasable pass leaves its lane in order and its packet and copies are placed in their queues. -/
  | seamRelease (sl : Fin 8) (busy : Bool)
  /-- LANE_REBUILD_DONE (R282): A lane's state rebuilt after an ECC error lets releases resume. -/
  | laneRebuildDone (sl : Fin 8) (lane : Fin 4096)
  /-- CROSSBAR_CELL (R29): A crossbar output grants one cell from a virtual output queue, and the cell crosses. -/
  | crossbarCell (b : Fin 8)
  /-- SPILL_READBACK (R296): The oldest HBM-held packets of an egress queue are read back on die. -/
  | spillReadback (sl : Fin 8) (e : Fin 100) (c : Fin 8)
  /-- RECEIVE_DELIVERY (R414): A packet at the head of a ring's delivery queue is written into receive buffers. -/
  | receiveDelivery (e : Fin 32) (stamp : Nat)
  /-- RX_WAIT_EXPIRY (R304): A packet that has waited WAIT_US under WAIT is dropped from the head. -/
  | rxWaitExpiry (n : Fin 65536)
  /-- SPOOL_POLL (R406): The Spool reads an owner's summary line and reads doorbell records and entries of the groups that changed. -/
  | spoolPoll (o : Fin 4128)
  /-- ENTRY_TIMEOUT (R402): An entry still not visible 1 ms after it was first found puts the ring in ERROR. -/
  | entryTimeout (kind : Fin 4) (n : Fin 65536)
  /-- SEND_DATA_READ (R303): Once admission admits a send entry's whole length, the Spool reads its data. -/
  | sendDataRead (e : Fin 32)
  /-- ADMIN_ENTRY_TAKE (R400): An admin entry is copied to the Cutter when it has room, and CONSUMED is written. -/
  | adminEntryTake (e : Fin 32)
  /-- COMPLETION_WRITE (R416): A completion or reply is written to its completion ring once room exists. -/
  | completionWrite (kind : Fin 4) (n : Fin 65536) (last : Bool)
  /-- MODERATION_TIMER (R421): MOD_US after the first unannounced entry, the completion ring's message is sent. -/
  | moderationTimer (n : Fin 65536)
  /-- RING_DRAIN_DONE (R426): The last outstanding entry of a DRAINING ring resolves, the ring becomes FREE and RING_DESTROY replies. -/
  | ringDrainDone (kind : Fin 4) (n : Fin 65536)
  /-- HOST_CONFIG_REQUEST (R365): A configuration request from the host is served. -/
  | hostConfigRequest (f : Fn) (q : CfgReq)
  /-- HOST_MEMORY_REQUEST (R369): A memory request into a BAR window is translated and reaches its internal target. -/
  | hostMemoryRequest (f : Fn) (bar2 : Bool) (off n : Nat) (data : Option Nat)
  /-- MSIX_UNMASK (R372): A vector is unmasked and a pending message is sent once. -/
  | msixUnmask (f : Fn) (v : Fin 2048)
  /-- HOST_READ_COMPLETION (R379): A completion for one of the module's reads arrives and its data is used or discarded. -/
  | hostReadCompletion (e : Fin 32) (t : Fin 16384) (res : ReadResult) (stamp : Nat)
  /-- COMPLETION_TIMEOUT (R379): A read times out, its tag is freed and the function freezes unless the read is stale. -/
  | completionTimeout (e : Fin 32) (t : Fin 16384)
  /-- PCIE_ERROR (R378): A link or completion error freezes its endpoint or function. -/
  | pcieError (f : Fn) (cause : Fin 16)
  /-- ATS_INVALIDATE (R374): An Invalidate Request is completed once the reads and writes using the range are done. -/
  | atsInvalidate (f : Fn) (lo hi : Nat)
  /-- SPDM_REQUEST (R377): An SPDM or IDE_KM message over DOE is answered. -/
  | spdmRequest (e : Fin 32) (q : SpdmMsg)
  /-- PERST_ASSERT (R384): PERST_N assertion resets the link, and every function on it dies. -/
  | perstAssert (e : Fin 32)
  /-- PERST_DEASSERT (R364): De-assertion of PERST_N samples SPLIT and VECTORS and starts training. -/
  | perstDeassert (e : Fin 32)
  /-- HOT_RESET (R384): A link hot reset resets the endpoint's functions. -/
  | hotReset (e : Fin 32)
  /-- LINK_DOWN (R386): The data link layer goes down, the link is reset, and a surprise down freezes the endpoint. -/
  | linkDown (e : Fin 32) (ordered : Bool)
  /-- FLR (R385): A Function Level Reset of a PF or VF takes effect at its reset point. -/
  | flr (f : Fn)
  /-- VF_ENABLE_CLEAR (R373): VF Enable cleared resets every VF of the PF. -/
  | vfEnableClear (e : Fin 32)
  /-- D3HOT_TO_D0 (R384): A function moving from D3hot to D0 is reset. -/
  | d3hotToD0 (f : Fn)
  /-- FUNCTION_RESET_DONE (R385): The reset of a function completes and the instance leaves RESETTING. -/
  | functionResetDone (f : Fn)
  /-- LINK_RELEASE_DONE (R383): The release steps complete and the scope returns to RUNNING. -/
  | linkReleaseDone (e : Fin 32)
  /-- INST_DRAIN_DONE (R445): A freezing instance's drain completes, and INST_FREEZE replies. -/
  | instDrainDone (i : Fin 4096)
  /-- BOOT_BLOCK_READ (R437): The boot block arrives and the admin and reply rings are created or refused. -/
  | bootBlockRead (i : Fin 4096) (res : ReadResult) (stamp : Nat)
  /-- COMMAND_RECEIVED (R58): A command packet is checked and queued on its channel or answered at once. -/
  | commandReceived (src : Transport) (bs : List Byte)
  /-- COMMAND_START (R60): A queued command takes a free execution place and its objects. -/
  | commandStart
  /-- OBJECT_WAIT_TIMEOUT (R61): A command waiting for held objects reaches TIMEOUT_US and fails BUSY. -/
  | objectWaitTimeout (i : Nat)
  /-- LOCK_WAIT_TIMEOUT (R82): A queued LOCK_ACQUIRE reaches TIMEOUT_US and gets BUSY. -/
  | lockWaitTimeout (n : Fin 1024) (i : Nat)
  /-- TXN_IDLE_LIMIT (R74): A transaction named by no command for TXN_IDLE_MS is aborted. -/
  | txnIdleLimit (slot : Fin 64) (t : Nat)
  /-- OOB_FRAME_RECEIVED (R53): A command frame on the OOB port is learned by station, checked for duplicates and passed to the Cutter. -/
  | oobFrameReceived (from_ to_ : Nat) (ether : Fin 65536) (rx : OobRx) (bs : List Byte)
  /-- OOB_LEASE_EXPIRY (R54): A station silent for LEASE_MS is forgotten and dies. -/
  | oobLeaseExpiry (k : Fin 16)
  /-- OOB_LINK_DOWN (R54): The OOB link goes down and the station table is cleared. -/
  | oobLinkDown
  /-- JXL_HELLO_TIMER (R478): Every HELLO_US a HELLO frame is sent on a link. -/
  | jxlHelloTimer (l : Fin 32)
  /-- JXL_HELLO_RECEIVED (R478): A HELLO moves the link between HELLO, UP and MISMATCH. -/
  | jxlHelloReceived (l : Fin 32) (d : List Byte) (answered refused : Fin 256)
  /-- JXL_HELLO_TIMEOUT (R478): No HELLO for 4 × HELLO_US returns an UP link to HELLO. -/
  | jxlHelloTimeout (l : Fin 32) (t : Nat)
  /-- JXL_CREDIT_TIMER (R479): Every 1 µs, or sooner, a CREDIT frame reports FREED and HELD. -/
  | jxlCreditTimer (l : Fin 32)
  /-- JXL_CREDIT_RECEIVED (R479): A CREDIT frame updates the sender's credit and confirms dictionary entries. -/
  | jxlCreditReceived (l : Fin 32) (d : List Byte)
  /-- JXL_MARK_TIMER (R480): Every MARK_US a MARK frame carries the SENT counts. -/
  | jxlMarkTimer (l : Fin 32)
  /-- JXL_MARK_RECEIVED (R480): A MARK reconciles RECEIVED with SENT and returns lost cells. -/
  | jxlMarkReceived (l : Fin 32) (d : List Byte)
  /-- JXL_DICT_RECEIVED (R485): A DICT NAK invalidates an entry, or a RESET clears the receive dictionary. -/
  | jxlDictReceived (l : Fin 32) (d : List Byte)
  /-- JXL_DATA_RECEIVED (R491): A credited frame is expanded and delivered to the program or forwarded towards DST. -/
  | jxlDataReceived (l : Fin 32) (d : List Byte) (stamp : Nat) (bad : Bool)
  /-- JXL_COMMAND_RECEIVED (R492): A COMMAND frame reaches the Cutter of its target. -/
  | jxlCommandReceived (l : Fin 32) (d : List Byte) (stamp : Nat)
  /-- JXL_REPLY_RECEIVED (R492): A REPLY frame returns a forwarded command's reply or an image transfer. -/
  | jxlReplyReceived (l : Fin 32) (d : List Byte) (stamp : Nat)
  /-- JXL_TIME_TIMER (R495): Sixteen times a second a TIME frame is sent on each UP link. -/
  | jxlTimeTimer (l : Fin 32)
  /-- JXL_TIME_RECEIVED (R495): A TIME frame gives offset, path delay and the parent's state. -/
  | jxlTimeReceived (l : Fin 32) (d : List Byte) (stamp : Nat)
  /-- JXL_BROADCAST_RECEIVED (R497): A BROADCAST is acted on once per sequence and flooded on. -/
  | jxlBroadcastReceived (l : Fin 32) (d : List Byte) (stamp : Nat)
  /-- JXL_BEACON_TIMER (R493): The anchor floods a beacon every 100 ms. -/
  | jxlBeaconTimer
  /-- JXL_BEACON_LEASE_EXPIRY (R493): No beacon for LEASE_MS, and origin M00 dies at the member. -/
  | jxlBeaconLeaseExpiry (t : Nat)
  /-- JXL_ORPHAN_EXPIRY (R493): No beacon for ORPHAN_S, and the member leaves the system. -/
  | jxlOrphanExpiry (t : Nat)
  /-- JXL_ROUTE_UPDATE (R490): The anchor recomputes routes and writes JXL_ROUTE after a link change. -/
  | jxlRouteUpdate (topo : List TopoRec)
  /-- JXL_FORWARD_TIMEOUT (R492): A forwarded command without a reply after FWD_TIMEOUT_MS gets ABORTED. -/
  | jxlForwardTimeout (i t : Nat)
  /-- FIT_TAI_TRIGGER (R577): Device time reaches the WHEN of a TAI slot, and a Fitting fires. -/
  | fitTaiTrigger (n : Fin 8)
  /-- PIN_INPUT_EDGE (R556): A selected edge on an INPUT or FIT_IN pin sets PIN_EDGE or triggers a Fitting. -/
  | pinInputEdge (p : Fin 24) (level : Bool)
  /-- PIN_TAKEOVER (R558): After the 8.192 µs hold, the new pin function takes the pin and PIN_FUNCTION_SET replies. -/
  | pinTakeover (p : Fin 24) (inputs : BitVec 24)
  /-- NVME_POLL (R460): At each poll the module takes SQ tails and CQ heads from doorbells or the shadow page and reads new entries. -/
  | nvmePoll (i : Fin 4096)
  /-- NVME_DOORBELL_WRITE (R460): A doorbell register write stores a tail or head, and an invalid value stops the controller. -/
  | nvmeDoorbellWrite (i : Fin 4096) (d : Fin 130) (v : BitVec 32)
  /-- NVME_ENABLE (R456): CC.EN set to 1 reads the admin queues and sets RDY, or sets CFS. -/
  | nvmeEnable (i : Fin 4096) (v : BitVec 32)
  /-- NVME_DISABLE (R456): CC.EN cleared resets the storage instance. -/
  | nvmeDisable (i : Fin 4096) (v : BitVec 32)
  /-- NVME_SHUTDOWN (R456): CC.SHN set drains, flushes and sets SHST. -/
  | nvmeShutdown (i : Fin 4096) (v : BitVec 32)
  /-- DELETE_IO_SQ (R459): NVMe admin command deleting an I/O submission queue. -/
  | deleteIoSq (e : Fin 32)
  /-- CREATE_IO_SQ (R459): NVMe admin command creating an I/O submission queue. -/
  | createIoSq (e : Fin 32)
  /-- GET_LOG_PAGE (R457): NVMe admin command reading a log page. -/
  | getLogPage (e : Fin 32)
  /-- DELETE_IO_CQ (R459): NVMe admin command deleting an I/O completion queue. -/
  | deleteIoCq (e : Fin 32)
  /-- CREATE_IO_CQ (R459): NVMe admin command creating an I/O completion queue. -/
  | createIoCq (e : Fin 32)
  /-- IDENTIFY (R457): NVMe admin command returning controller or namespace data. -/
  | identify (e : Fin 32)
  /-- ABORT (R463): NVMe admin command aborting a command not yet sent to a target. -/
  | abortCmd (e : Fin 32)
  /-- SET_FEATURES (R457): NVMe admin command setting a supported feature. -/
  | setFeatures (e : Fin 32)
  /-- GET_FEATURES (R457): NVMe admin command reading a supported feature. -/
  | getFeatures (e : Fin 32)
  /-- ASYNCHRONOUS_EVENT_REQUEST (R457): NVMe admin command waiting for a namespace attribute notice. -/
  | asynchronousEventRequest (e : Fin 32)
  /-- DOORBELL_BUFFER_CONFIG (R460): NVMe admin command setting the shadow doorbell and EventIdx pages. -/
  | doorbellBufferConfig (e : Fin 32)
  /-- NVME_FLUSH (R458): NVMe I/O Flush forwarded to the target. -/
  | nvmeFlush (e : Fin 32)
  /-- NVME_WRITE (R458): NVMe I/O Write forwarded to the target. -/
  | nvmeWrite (e : Fin 32)
  /-- NVME_READ (R458): NVMe I/O Read forwarded to the target. -/
  | nvmeRead (e : Fin 32)
  /-- WRITE_ZEROES (R458): NVMe I/O Write Zeroes forwarded to the target. -/
  | writeZeroes (e : Fin 32)
  /-- DATASET_MANAGEMENT (R458): NVMe I/O Dataset Management deallocate forwarded to the target. -/
  | datasetManagement (e : Fin 32)
  /-- TARGET_PDU_RECEIVED (R469): A PDU or TLS record from a target delivers data, a ready-to-transfer or a response, with digest and tag checks. -/
  | targetPduReceived (sl : Fin 8) (t : Fin 64) (k : Fin 33) (p : TargetPdu) (check : Fin 4)
  /-- TARGET_CONNECTION_LOSS (R466): A target connection is lost, the association is closed and the held commands are handled. -/
  | targetConnectionLoss (sl : Fin 8) (t : Fin 64) (cause : Fin 10)
  /-- TARGET_CONNECT_STEP (R465): A step of CONNECTING completes, and the association becomes LIVE after the last one. -/
  | targetConnectStep (sl : Fin 8) (t : Fin 64) (ok : Bool) (x : StepInfo)
  /-- TARGET_RETRY_TIMER (R465): The retry wait ends and the association enters CONNECTING. -/
  | targetRetryTimer (sl : Fin 8) (t : Fin 64)
  /-- TARGET_CONNECT_TIMEOUT (R465): CONNECTING that lasts 10 s returns to RETRY_WAIT. -/
  | targetConnectTimeout (sl : Fin 8) (t : Fin 64)
  /-- TARGET_KEEP_ALIVE (R465): Every 5 s a Keep Alive is sent on the admin connection. -/
  | targetKeepAlive (sl : Fin 8) (t : Fin 64)
  /-- IO_WAIT_EXPIRY (R468): A held command that has waited IO_WAIT_S completes with Transient Transport Error. -/
  | ioWaitExpiry (i : Fin 4096) (q : Fin 65) (cid : Fin 65536)
  /-- CTRL_LOSS_EXPIRY (R465): CTRL_LOSS_S after a loss, the association becomes LOST. -/
  | ctrlLossExpiry (sl : Fin 8) (t : Fin 64)
  /-- TARGET_ENABLE (R465): Setting STO_TGT_CFG.ENABLE starts an association. -/
  | targetEnable (sl : Fin 8) (t : Fin 64) (v : BitVec 63)
  /-- TARGET_DISABLE (R465): Clearing STO_TGT_CFG.ENABLE closes the association and completes its commands. -/
  | targetDisable (sl : Fin 8) (t : Fin 64) (v : BitVec 63)
  /-- LCK_TRY_READ (R80): A read of LCK_TRY is one acquire attempt on the lock. -/
  | lckTryRead (r : Req) (n : Fin 1024)
  /-- LCK_TRY_RELEASE (R83): Writing RELEASE releases the lock to free or the head waiter. -/
  | lckTryRelease (r : Req) (n : Fin 1024)
  /-- FORCE_RELEASE (R83): Writing LCK_CFG.FORCE_RELEASE makes a HELD lock BROKEN. -/
  | forceRelease (r : Req) (n : Fin 1024)
  /-- LCK_CFG_CLEAR (R83): Writing LCK_CFG.CLEAR makes the lock FREE and empties its queue with ABORTED. -/
  | lckCfgClear (r : Req) (n : Fin 1024)
  /-- MBX_RING_WRITE (R78): The sender rings doorbell bits, and a command mailbox starts a command. -/
  | mbxRingWrite (r : Req) (c : Fin 64) (v : BitVec 32)
  /-- MBX_PENDING_CLEAR (R78): The receiver clears pending bits, and the last one returns the channel to IDLE. -/
  | mbxPendingClear (r : Req) (c : Fin 64) (v : BitVec 32)
  /-- MBX_MASK_WRITE (R78): The receiver writes the mask, and unmasking a pending bit raises RX_VECTOR. -/
  | mbxMaskWrite (r : Req) (c : Fin 64) (v : BitVec 32)
  /-- MBX_PAYLOAD_WRITE (R76): A payload write by the owning party, or refused with REFUSED set. -/
  | mbxPayloadWrite (r : Req) (c w : Fin 64) (v : BitVec 32)
  /-- STW_APPLY (R106): Writing STW_UNIT_CTL.APPLY checks the shadow ownership table for the next turn boundary. -/
  | stwApply (r : Req) (u : Fin 154)
  /-- SHU_APPLY (R209): Writing SHU_ENGINE_CTL.APPLY checks the engine's shadow bank. -/
  | shuApply (r : Req) (sl : Fin 8) (e : Fin 160)
  /-- QUARANTINE_RELEASE (R217): Writing 1 to QUARANTINED returns the engine to dispatch. -/
  | quarantineRelease (r : Req) (sl : Fin 8) (e : Fin 160)
  /-- CS_PATCH_GO (R244): Writing SHU_CS_COMMIT.GO patches one control-store word in the named clusters. -/
  | csPatchGo (r : Req) (sl : Fin 8) (addr : Fin 16384) (clusters : BitVec 10)
  /-- INST_BOOT_GO (R437): Writing INST_BOOT.GO starts reading the boot block. -/
  | instBootGo (i : Fin 4096) (manager : Bool) (addr : BitVec 58)
  /-- FIT_FIRE (R575): Writing FIT_FIRE.FIRE makes a Fitting of source WRITE. -/
  | fitFire (r : Req) (clear : Bool)
  /-- LOW_RESTART (R87): Writing LOW_RESTART restarts TEMPO_LOW from the next turn. -/
  | lowRestart (r : Req) (u : Fin 9)
  /-- TPL_NOW_READ (R112): A read of TPL_NOW latches the whole of device time. -/
  | tplNowRead (r : Req) (t : Nat)
  /-- RC_FIELD_READ (R14): A read of a register with RC fields returns and clears them, latching the high word for 32-bit reads. -/
  | rcFieldRead (r : Req) (addr : Nat) (wide : Bool)
  /-- REGISTER_WRITE (R14): A write to a register without a row of its own, under its access codes, or logged as refused. -/
  | registerWrite (r : Req) (addr : Nat) (wide : Bool) (v : BitVec 64)
  /-- MOD_IDENTIFY (R65): Returns the identity, capabilities, serial and addresses. -/
  | modIdentify (c : Cmd)
  /-- MOD_STATUS (R65): Returns readiness, tempo, power and traceability summary. -/
  | modStatus (c : Cmd)
  /-- MOD_RESET (R502): Replies and then COLD-resets the module. -/
  | modReset (c : Cmd)
  /-- REG_READ (R66): Reads internal registers as manager accesses. -/
  | regRead (c : Cmd)
  /-- REG_WRITE (R66): Writes internal registers as manager accesses. -/
  | regWrite (c : Cmd)
  /-- CONFIG_COMMIT (R510): Snapshots every retained field into the other configuration bank. -/
  | configCommit (c : Cmd) (fate : CommitFate)
  /-- FACTORY_CLEAR (R517): Sets or cancels a factory clear for the next start. -/
  | factoryClear (c : Cmd)
  /-- TEMPO_TARGET_SET (R89): Sets the tempo target and alarm threshold. -/
  | tempoTargetSet (c : Cmd)
  /-- PIN_FUNCTION_SET (R557): Changes the function of multi-function pins through a release and hold. -/
  | pinFunctionSet (c : Cmd)
  /-- CMD_CANCEL (R62): Cancels the requester's commands that carry a TAG. -/
  | cmdCancel (c : Cmd)
  /-- EVENT_LOG_READ (R570): Reads entries of the event log. -/
  | eventLogRead (c : Cmd)
  /-- LINK_RELEASE_RESET (R382): Releases a frozen scope by resetting its functions. -/
  | linkReleaseReset (c : Cmd)
  /-- LINK_RELEASE_RESUME (R382): Releases a frozen scope after writing aborted completions, sweeping and raising vectors. -/
  | linkReleaseResume (c : Cmd)
  /-- INST_CREATE (R442): Creates an instance bound to an endpoint and VF. -/
  | instCreate (c : Cmd)
  /-- INST_DESTROY (R443): Destroys an instance and frees its resources. -/
  | instDestroy (c : Cmd)
  /-- INST_RESIZE (R434): Changes an instance's quotas. -/
  | instResize (c : Cmd)
  /-- INST_RESET (R444): Resets the instance's VF as a function-level reset. -/
  | instReset (c : Cmd)
  /-- INST_QUERY (R444): Returns an instance's state, generation, quotas and use. -/
  | instQuery (c : Cmd)
  /-- INST_FREEZE (R445): Pauses an instance's rings and starts its drain. -/
  | instFreeze (c : Cmd)
  /-- INST_SAVE (R447): Writes a frozen instance's image to its save slot. -/
  | instSave (c : Cmd)
  /-- INST_RESTORE (R450): Loads a saved image into a frozen instance. -/
  | instRestore (c : Cmd) (bs : List Byte)
  /-- INST_RESUME (R452): Writes pending completions, activates rings, sweeps and resumes the instance. -/
  | instResume (c : Cmd)
  /-- RING_CREATE (R422): Creates a ring of a kind for its owner. -/
  | ringCreate (c : Cmd)
  /-- RING_DESTROY (R423): Drains and frees a ring. -/
  | ringDestroy (c : Cmd)
  /-- RING_MODIFY (R424): Changes a ring's group, policy, moderation, vector or size. -/
  | ringModify (c : Cmd)
  /-- RING_QUERY (R425): Returns a ring's state and counts. -/
  | ringQuery (c : Cmd)
  /-- SUMMARY_SET (R404): Registers an owner's summary line. -/
  | summarySet (c : Cmd)
  /-- POLL_INTERVAL_SET (R407): Sets an owner's poll exponent. -/
  | pollIntervalSet (c : Cmd)
  /-- TBL_WRITE (R264): Writes entries, rules or meters, or stages them into a transaction. -/
  | tblWrite (c : Cmd)
  /-- TBL_DELETE (R264): Deletes an entry, rule or meter, or stages the deletion. -/
  | tblDelete (c : Cmd)
  /-- TBL_READ (R264): Reads one stored entry, rule or meter. -/
  | tblRead (c : Cmd)
  /-- TXN_BEGIN (R71): Opens a staged transaction on a table scope. -/
  | txnBegin (c : Cmd)
  /-- TXN_COMMIT (R73): Validates and publishes a staged transaction slice by slice. -/
  | txnCommit (c : Cmd)
  /-- TXN_ABORT (R74): Aborts a staged transaction. -/
  | txnAbort (c : Cmd)
  /-- TXN_QUERY (R67): Returns a transaction's state. -/
  | txnQuery (c : Cmd)
  /-- DEFAULT_ACTION_SET (R261): Sets the default action of ports or endpoints. -/
  | defaultActionSet (c : Cmd)
  /-- MALFORMED_ACTION_SET (R261): Sets the malformed-packet action of ports. -/
  | malformedActionSet (c : Cmd)
  /-- COUNTER_PIN (R271): Allocates contiguous pinned exact counters for a scope. -/
  | counterPin (c : Cmd)
  /-- COUNTER_UNPIN (R271): Releases pinned counters and returns their final values. -/
  | counterUnpin (c : Cmd)
  /-- TELEMETRY_READ (R273): Reads counters or a histogram, optionally clearing them. -/
  | telemetryRead (c : Cmd)
  /-- TBL_SCOPE_ASSIGN (R248): Assigns kind, owner, quotas and Gauge fields to table scopes. -/
  | tblScopeAssign (c : Cmd)
  /-- TIME_GET (R142): Returns device time, servo state, traceability and bound. -/
  | timeGet (c : Cmd) (t : Nat)
  /-- TIME_SOURCE_SET (R130): Changes the source table and selection settings at the next tick. -/
  | timeSourceSet (c : Cmd)
  /-- PTP_PORT_SET (R121): Configures the PTP clock and ports. -/
  | ptpPortSet (c : Cmd)
  /-- SERVO_STATUS (R143): Returns servo state, statistics, holdover and sources. -/
  | servoStatus (c : Cmd)
  /-- TIME_LOSS_POLICY_SET (R139): Sets the policies for loss of traceable time. -/
  | timeLossPolicySet (c : Cmd)
  /-- GOLIDE_READ (R174): Returns Golide records from a SEQ onward. -/
  | golideRead (c : Cmd)
  /-- HOST_TIME_SET (R162): Registers or releases a time-pair page. -/
  | hostTimeSet (c : Cmd)
  /-- PPS_OUT_SET (R167): Configures the 1PPS outputs. -/
  | ppsOutSet (c : Cmd)
  /-- CAL_WRITE (R318): Writes a port's shadow calendar. -/
  | calWrite (c : Cmd)
  /-- CAL_ACTIVATE (R319): Arms the activation or stop of calendars at an instant. -/
  | calActivate (c : Cmd)
  /-- CAL_QUERY (R330): Returns a calendar bank's state and entries. -/
  | calQuery (c : Cmd)
  /-- KEY_ROOT_INSTALL_CLEAR (R339): Installs a root given in clear over a protected path. -/
  | keyRootInstallClear (c : Cmd) (secure : Bool)
  /-- KEY_ROOT_INSTALL_WRAPPED (R339): Unwraps and installs a root under another slot's wrap key. -/
  | keyRootInstallWrapped (c : Cmd)
  /-- AGREE_START (R339): Generates an ephemeral P-384 key pair and returns its public point. -/
  | agreeStart (c : Cmd)
  /-- AGREE_FINISH (R340): Derives and installs a root from the peer's point. -/
  | agreeFinish (c : Cmd)
  /-- KEY_ROOT_ERASE (R339): Erases a root slot. -/
  | keyRootErase (c : Cmd)
  /-- INCARNATION_ADVANCE (R344): Raises a slot's incarnation counter. -/
  | incarnationAdvance (c : Cmd)
  /-- KEY_CTX_CREATE (R346): Creates a key context, drawing an incarnation when encrypting. -/
  | keyCtxCreate (c : Cmd) (fail : Bool)
  /-- KEY_CTX_DESTROY (R348): Destroys a key context once its operations finish. -/
  | keyCtxDestroy (c : Cmd)
  /-- EPOCH_KEY_SET (R357): Configures epoch keys for a context. -/
  | epochKeySet (c : Cmd)
  /-- SA_CREATE (R351): Creates an ESP security association. -/
  | saCreate (c : Cmd)
  /-- TLS_CREATE (R353): TLS step 1 creates a TLS SA and its early secret. -/
  | tlsCreate (c : Cmd)
  /-- KEYSHARE (R353): TLS step 2 generates an ephemeral share. -/
  | keyshare (c : Cmd)
  /-- BINDER (R353): TLS step 3 computes or checks the PSK binder. -/
  | binder (c : Cmd)
  /-- HANDSHAKE (R353): TLS step 4 computes the handshake secret and traffic keys. -/
  | handshake (c : Cmd)
  /-- FINISHED (R353): TLS step 5 computes or checks Finished verify_data. -/
  | finished (c : Cmd)
  /-- APPLICATION (R353): TLS step 6 moves directions to application traffic secrets. -/
  | application (c : Cmd)
  /-- KEY_UPDATE (R353): TLS step 7 moves directions to the next traffic secret. -/
  | keyUpdate (c : Cmd)
  /-- SA_DESTROY (R348): Destroys a security association. -/
  | saDestroy (c : Cmd)
  /-- MACSEC_SA_SET (R355): Configures or reads MACsec SAs on a sub-port. -/
  | macsecSaSet (c : Cmd)
  /-- PORT_CONFIG (R183): Sets port mode, PCS options and cut-through settings. -/
  | portConfig (c : Cmd)
  /-- PORT_ENABLE (R184): Enables ports. -/
  | portEnable (c : Cmd)
  /-- PORT_DISABLE (R184): Disables ports. -/
  | portDisable (c : Cmd)
  /-- PORT_STATUS (R183): Returns port state. -/
  | portStatus (c : Cmd)
  /-- PORT_STATS_READ (R190): Returns and optionally clears a sub-port's counters. -/
  | portStatsRead (c : Cmd)
  /-- BREAKOUT_SET (R186): Sets a disabled port's breakout. -/
  | breakoutSet (c : Cmd)
  /-- OPT_CALIBRATE (R194): Runs an optical engine calibration. -/
  | optCalibrate (c : Cmd)
  /-- BOBBIN_STATUS (R200): Returns a Bobbin's identity, state and lasers. -/
  | bobbinStatus (c : Cmd)
  /-- BOBBIN_SPARE_SWITCH (R198): Switches an active laser to its wavelength's spare. -/
  | bobbinSpareSwitch (c : Cmd)
  /-- BOBBIN_REMOVE_PREPARE (R199): Ramps a Bobbin's lasers off for removal, or cancels. -/
  | bobbinRemovePrepare (c : Cmd)
  /-- JXL_LINK_SET (R474): Configures Jexdor links and grants. -/
  | jxlLinkSet (c : Cmd)
  /-- JXL_JOIN (R489): Makes a module the anchor or joins a member. -/
  | jxlJoin (c : Cmd)
  /-- JXL_LEAVE (R489): Returns a member, or a lone anchor, to STANDALONE. -/
  | jxlLeave (c : Cmd)
  /-- JXL_TOPOLOGY_READ (R499): Returns records of every UP link in the system. -/
  | jxlTopologyRead (c : Cmd)
  /-- JXL_DICT_RESET (R487): Clears a link's transmit dictionary and sends a DICT RESET. -/
  | jxlDictReset (c : Cmd)
  /-- JXL_SLOT_SET (R488): Makes a link class time-slotted. -/
  | jxlSlotSet (c : Cmd)
  /-- IMG_STAGE_OPEN (R526): Opens or resumes the staging area. -/
  | imgStageOpen (c : Cmd)
  /-- IMG_CHUNK_WRITE (R527): Writes a piece of one 64 KiB chunk. -/
  | imgChunkWrite (c : Cmd) (host : List Byte)
  /-- IMG_STAGE_STATUS (R528): Returns the staging state and chunk bitmap. -/
  | imgStageStatus (c : Cmd)
  /-- IMG_STAGE_VERIFY (R529): Checks the staged image's digest and signatures. -/
  | imgStageVerify (c : Cmd)
  /-- IMG_INSTALL (R530): Has the Baste loader wipe and write the image area from the stage. -/
  | imgInstall (c : Cmd) (cut : Option Nat)
  /-- IMG_STAGE_DISCARD (R528): Discards the staging area. -/
  | imgStageDiscard (c : Cmd)
  /-- IMG_QUERY (R540): Returns image versions and slot states. -/
  | imgQuery (c : Cmd)
  /-- FIT_ARM (R580): Arms a Fitting trigger slot. -/
  | fitArm (c : Cmd)
  /-- FIT_TRIGGER (R580): Fires a Fitting now, optionally broadcasting it. -/
  | fitTrigger (c : Cmd)
  /-- FIT_READ (R579): Reads a snapshot bank, optionally releasing it. -/
  | fitRead (c : Cmd)
  /-- FIT_DISARM (R580): Disarms a Fitting trigger slot. -/
  | fitDisarm (c : Cmd)
  /-- ERR_LOG_READ (R570): Reads entries of the error log. -/
  | errLogRead (c : Cmd)
  /-- ACCESS_LOG_READ (R572): Reads, and optionally empties, the access-error log. -/
  | accessLogRead (c : Cmd)
  /-- PORT_LOCAL (R70): DIAG_LOOPBACK kind that loops a sub-port's PCS locally and checks test frames. -/
  | portLocal (c : Cmd)
  /-- PORT_REMOTE (R70): DIAG_LOOPBACK kind that returns received blocks to the partner. -/
  | portRemote (c : Cmd)
  /-- HOST_DMA (R70): DIAG_LOOPBACK kind that copies and compares host memory. -/
  | hostDma (c : Cmd)
  /-- LOCK_ACQUIRE (R82): Acquires a lock, waiting in its queue up to TIMEOUT_US. -/
  | lockAcquire (c : Cmd)
  /-- LOCK_RELEASE (R83): Releases a lock held by the requester. -/
  | lockRelease (c : Cmd)
  /-- LOCK_QUERY (R68): Returns a lock's state and configuration. -/
  | lockQuery (c : Cmd)
  /-- LOCK_CONFIG (R68): Sets lock scope, forces release or clears locks. -/
  | lockConfig (c : Cmd)
  /-- MBX_BIND_SET (R69): Stores mailbox bindings for the next start. -/
  | mbxBindSet (c : Cmd)
  /-- MBX_QUERY (R69): Returns the state of a mailbox channel. -/
  | mbxQuery (c : Cmd)
  /-- DIAG_LOOPBACK_END (R70): At the end of DURATION_MS, or after COUNT transfers, the loop-back test ends, a looped sub-port returns to TRAINING and DIAG_LOOPBACK replies with its results. -/
  | diagLoopbackEnd (host : Bool) (n : Fin 96) (r : LoopResult)
  /-- FULL_CALIBRATION_DONE (R194): A calibration started by OPT_CALIBRATE completes, the engine's ports return from NO_LIGHT to TRAINING and the command replies. -/
  | fullCalibrationDone (k : Fin 12) (pass : Bool)
  /-- LINK_UP (R158): The data link layer of a host endpoint comes up after training, setting LINK_UP and letting PTM dialogs, requests and LINK_RELEASE proceed. -/
  | linkUp (e : Fin 32) (rate : Fin 3) (width : Fin 17) (flit : Bool)
  /-- REF10M_INPUT_RETURN (R123): The 10 MHz input returns and starts the 10 s within ±1 ppm after which a FREQ_10M source qualifies. -/
  | ref10mInputReturn (t : Nat)
  /-- OVEN_STABLE (R503): The oven oscillator reaches the stability of R114 after a cold start and GLB_START.OSC_WARM becomes 1. -/
  | ovenStable
  /-- BOBBIN_IDENTIFY_TIMEOUT (R560): A Bobbin in IDENTIFYING whose identity cannot be read because the I3C bus is unavailable counts as rejected after 50 ms and becomes FAILED. -/
  | bobbinIdentifyTimeout (k : Fin 12)
  /-- TCP_RTO_EXPIRY (R466): A TCP retransmission timer of a target connection expires, the segment is retransmitted, and the eighth unacknowledged retransmission loses the connection. -/
  | tcpRtoExpiry (sl : Fin 8) (t : Fin 64) (k : Fin 33)
  /-- SHUTDOWN_TIMEOUT (R456): CAP.TO after CC.SHN is set with flushes still failing or outstanding, the controller sets SHST to 10b. -/
  | shutdownTimeout (i : Fin 4096)
  /-- PLCA_BEACON_LOSS (R52): PLCA beacons go missing on the OOB segment and the port falls back to CSMA/CD. -/
  | plcaBeaconLoss
  /-- PLCA_BEACON_RETURN (R52): PLCA beacons return on the OOB segment and the port resumes PLCA. -/
  | plcaBeaconReturn
  deriving DecidableEq, Repr

end Sys2Proof
end

