-- ==== Sys2Proof/Decode.lean ====
section
/-! DEFINITION. The decoder over the opcode table's words. The module is a block: its commands arrive as packets, frames, register
accesses and events, and spec/opcode_table.json gives no row any bits, so no word spells a command. The packets' own formats (R44 to
R47) are read by `Machine.parsePacket` in `Machine/Command.lean`. -/

namespace Sys2Proof

/-- The command that a table word of `nbits` bits spells: none, for no row of the table gives bits. -/
def decodeTableWord (_nbits _w : Nat) : Option Instr := none

end Sys2Proof
end

