-- ==== Sys2Proof/Config.lean ====
section
/-! DEFINITION. What one module is built with (fixed at manufacture), the cryptographic functions the spec takes from
published standards, and the free values the spec leaves open. Everything here is opaque: no proof can see a value. -/

namespace Sys2Proof.Config

/-- STEP_MINOR of GLB_ID: "per part". (DESIGN CHOICE, log 8) -/
opaque stepMinor : BitVec 4

/-- STEP_MAJOR of GLB_ID: "per part". (DESIGN CHOICE, log 8) -/
opaque stepMajor : BitVec 4

/-- Byte `i` of the module's 16-byte serial number (R65), fixed at manufacture. (DESIGN CHOICE, log 8) -/
opaque serialByte : Nat → Byte

/-- PORT_MAC_BASE without its low 10 bits and its group and local bits, which are zero (R65: a globally administered unicast address):
6 bits of the first octet, then 30 bits. (DESIGN CHOICE, log 8) -/
opaque portMacHigh : BitVec 36

/-- The EUI-64 of the PTP clock (R65), fixed at manufacture. (DESIGN CHOICE, log 8) -/
opaque clockIdentity : BitVec 64

/-- The version of the Basting ROM (R540). (DESIGN CHOICE, log 8) -/
opaque romVersion : BitVec 64

/-- The first hash seed the part is made with (PAT_HASH: "ret (random)"). (DESIGN CHOICE, log 8) -/
opaque hashSeed1 : BitVec 32

/-- How far the second hash seed lies above the first, less one: the two always differ (PAT_HASH). (DESIGN CHOICE, log 8) -/
opaque hashSeed2 : BitVec 32

/-- The free values: `freeValue n` is the n-th value the spec leaves open or random that a run draws. State counts the
draws; nothing constrains a value. (DESIGN CHOICE, log 6) -/
opaque freeValue : Nat → Nat

/-- A one-way function of a published standard, by number, over bytes; its result as bytes. The numbers are named in
`Machine/Crypto.lean`; the spec takes each function from its standard, and no proof can see one of its values. (DESIGN CHOICE, log 7) -/
opaque cryptoFn : Nat → List Byte → List Byte

/-- A check of a published standard (a signature or a tag), by number, over bytes. (DESIGN CHOICE, log 7) -/
opaque cryptoCheck : Nat → List Byte → Bool

/-- Byte `i` of the SHA-384 digest of the Basting ROM (R377). (DESIGN CHOICE, log 8) -/
opaque romDigest : Nat → Byte

/-- Byte `i` of the certificate chain of slot 0 (R172, R377); its length. (DESIGN CHOICE, log 8) -/
opaque certByte : Nat → Byte
/-- The length of the certificate chain. (DESIGN CHOICE, log 8) -/
opaque certLength : Nat

/-- A dword of configuration space that R365 to R367 do not name: the value the PCI Express Base Specification requires of a function
of kind 0 PF, 1 network VF, 2 storage VF, 3 recovery function, at an offset. (PRESUMED, log 51) -/
opaque cfgWord : Nat → Nat → BitVec 32

/-- A byte of the Identify Controller data that R457 does not state (0 to 4095), and of the Namespace Identification Descriptor list of a
namespace (4096 on): what the NVM Express Base Specification requires there. -/
opaque identifyByte : Nat → Byte

end Sys2Proof.Config
end

