-- ==== Sys2Proof/Machine/RegMap.lean ====
section
/-! DEFINITION. The register map: every register kind that a table of spec/ gives the module, its address, width, reset
domain, fields, access codes and reset values (R10, R12, R14, R15, R16 and the register tables of every chapter). -/

namespace Sys2Proof.Machine

/-- Access codes of register fields (R14). -/
inductive Access where
  | rw | ro | rc | w1c | rwl | rt
  deriving DecidableEq, Repr

/-- Reset domains (R15): COLD is wider than LINK, LINK wider than FN. -/
inductive Domain where
  | cold | link | fn
  deriving DecidableEq, Repr

/-- The register kinds, one per register table of the spec (a table that gives several addresses is split, one kind for
each: SEL_FREEZE, SEL_WIN, SPL_OWNER, SPL_RING, PLT_EG_DROP). -/
inductive Reg where
  | GLB_ID | GLB_CAPS | CUT_CFG | CUT_DISCARD | CUT_OOB_CFG | CUT_OOB_ERR
  | CUT_STATUS | MBX_BIND | MBX_BIND_LOCK | MBX_PAYLOAD | MBX_RING | MBX_PENDING
  | MBX_MASK | MBX_STATUS | LCK_TRY | LCK_CFG | PWR_TEMPO_SLICE | PWR_TEMPO_HUB
  | PWR_TEMPO_TARGET | PWR_TEMPO_STATUS | STW_POS | STW_STATUS | STW_CFG | STW_OWN
  | STW_UNIT_CTL | STW_STATS | TPL_NOW | TPL_NOW_EXT | TPL_PTP_CFG | TPL_PTP_PORT
  | TPL_SRC | TPL_SEL | TPL_STATE | TPL_CFG | TPL_UTC | TPL_LOSS_POLICY
  | TCK_HIST_CFG | TCK_HOST_CFG | TCK_HOST_STATUS | TCK_PPS_OUT | TPL_GOLIDE | PRT_CFG
  | PRT_STATUS | PRT_CT_CFG | PRT_CT_STATUS | PRT_STAT | OPT_STATUS | BOB_POLICY
  | BOB_STATUS | BOB_LASER | SHU_SLICE_CFG | SHU_FAULT_LAST | SHU_DISPATCH_STATUS | SHU_CNT
  | SHU_ENTRY | SHU_TIMER | SHU_ENGINE_CTL | SHU_THREAD_CFG | SHU_SHARE | SHU_THREAD_STATE
  | SHU_SLOT | SHU_DISP_CNT | SHU_CS_STAGE | SHU_CS_COMMIT | PAT_SCOPE_CFG | PAT_SCOPE_CTR
  | PAT_SCOPE_GAUGE | PAT_SCOPE_PINS | PAT_SCOPE_USE | PAT_HASH | PAT_CACHE_STATUS | PAT_CACHE_CNT
  | PAT_RULE_STATUS | PAT_PORT_ACT | PAT_MALFORMED_CNT | PAT_EPOCH | PAT_PARKED | PAT_TEL_CFG
  | PAT_TEL_STATUS | SEA_CFG | SEA_MODE | SEA_STATUS | SEA_LANE_STATUS | SEA_CNT
  | PLT_PORT_CLASS | PLT_DSCP_MAP | PLT_CFG | PLT_ING_CLASS | PLT_EG_CLASS | PLT_SPILL_CFG
  | PLT_ECN_CFG | PLT_PFC_CFG | PLT_RX_WAIT | PLT_OVERLOAD | PLT_STATUS | PLT_CNT
  | PLT_IN_DROP | PLT_EG_DROP | HEM_SCHED | HEM_SHAPE | HEM_XBAR_W | HEM_LAUNCH_CFG
  | HEM_CAL_STATUS | HEM_CNT | THM_STATUS | THM_CNT | THM_ROOT | THM_ROOT_ID
  | SEL_LINK_CFG | SEL_EP_STATUS | SEL_PF_CFG | SEL_VF_CFG | SEL_CNT | SPL_CFG
  | SPL_CNT | INST_STATUS | INST_EVENT | INST_BOOT | INST_BOOT_STATUS | STO_TGT_CFG
  | STO_TGT_NET | STO_TGT_NQN | STO_TGT_STATUS | STO_NS | STO_CNT | JXL_SYS
  | JXL_CFG | JXL_LINK_CFG | JXL_LINK_STATUS | JXL_CREDIT | JXL_ROUTE | JXL_CNT
  | GLB_START | IMG_STATUS | PWR_INPUT | PWR_CFG | PWR_THERM_CFG | PWR_GATE_STATUS
  | PWR_STATS | PIN_CFG | PIN_STATUS | PIN_EDGE | GLB_ERR_STATUS | GLB_ERR_CFG
  | GLB_ECC_CNT | GLB_LOG_STATUS | FIT_CFG | FIT_STATUS | FIT_FIRE | FIT_TRIG
  | FIT_WHEN | SEL_FREEZE_EP | SEL_FREEZE_PF | SEL_FREEZE_VF | SEL_WIN_PF | SEL_WIN_VF
  | SPL_OWNER_PF | SPL_OWNER_INST | SPL_RING_SEND | SPL_RING_RECV | SPL_RING_CPL | SPL_RING_ADMIN
  | PLT_EG_DROP_H
  deriving DecidableEq, Repr

/-- Where a register kind lies: the first instance's address, the strides and counts of its indices from the widest
stride to the narrowest, its width in bits and its reset domain. -/
structure RegInfo where
  base : Nat
  dims : List (Nat × Nat)
  width : Nat
  dom : Domain
  deriving DecidableEq, Repr

/-- One field of a register: least significant bit, width, access code. -/
structure FieldInfo where
  lo : Nat
  w : Nat
  acc : Access
  deriving DecidableEq, Repr

/-- A named field of a register kind. -/
structure Fld where
  reg : Reg
  lo : Nat
  w : Nat
  deriving DecidableEq, Repr

/-- One register: its kind and the values of its indices, in the order of `RegInfo.dims`. -/
structure RegKey where
  reg : Reg
  ix : List Nat
  deriving DecidableEq, Repr

/-- Addresses, widths and reset domains of the register kinds. -/
def Reg.info : Reg → RegInfo
  | .GLB_ID => ⟨0x0, [], 32, .cold⟩
  | .GLB_CAPS => ⟨0x8, [], 64, .cold⟩
  | .CUT_CFG => ⟨0x8000000, [], 64, .cold⟩
  | .CUT_DISCARD => ⟨0x8000020, [], 32, .cold⟩
  | .CUT_OOB_CFG => ⟨0x8000010, [], 32, .cold⟩
  | .CUT_OOB_ERR => ⟨0x8000018, [], 64, .cold⟩
  | .CUT_STATUS => ⟨0x8000008, [], 32, .cold⟩
  | .MBX_BIND => ⟨0xE0000110, [(0x1000, 64)], 64, .cold⟩
  | .MBX_BIND_LOCK => ⟨0xE0040000, [], 32, .cold⟩
  | .MBX_PAYLOAD => ⟨0xE0000000, [(0x1000, 64), (0x4, 64)], 32, .fn⟩
  | .MBX_RING => ⟨0xE0000100, [(0x1000, 64)], 32, .fn⟩
  | .MBX_PENDING => ⟨0xE0000104, [(0x1000, 64)], 32, .fn⟩
  | .MBX_MASK => ⟨0xE0000108, [(0x1000, 64)], 32, .fn⟩
  | .MBX_STATUS => ⟨0xE000010C, [(0x1000, 64)], 32, .fn⟩
  | .LCK_TRY => ⟨0xE0100000, [(0x8, 1024)], 32, .cold⟩
  | .LCK_CFG => ⟨0xE0110000, [(0x8, 1024)], 32, .cold⟩
  | .PWR_TEMPO_SLICE => ⟨0xD0000080, [(0x8, 8)], 64, .cold⟩
  | .PWR_TEMPO_HUB => ⟨0xD00000C0, [], 64, .cold⟩
  | .PWR_TEMPO_TARGET => ⟨0xD0000040, [], 32, .cold⟩
  | .PWR_TEMPO_STATUS => ⟨0xD0000048, [], 32, .cold⟩
  | .STW_POS => ⟨0xC0000010, [], 64, .cold⟩
  | .STW_STATUS => ⟨0xC0000008, [], 32, .cold⟩
  | .STW_CFG => ⟨0xC0000000, [], 32, .cold⟩
  | .STW_OWN => ⟨0xC0100000, [(0x80, 154), (0x4, 32)], 32, .cold⟩
  | .STW_UNIT_CTL => ⟨0xC0001000, [(0x8, 154)], 32, .cold⟩
  | .STW_STATS => ⟨0xC0002000, [(0x8, 154)], 64, .cold⟩
  | .TPL_NOW => ⟨0x80000000, [], 64, .cold⟩
  | .TPL_NOW_EXT => ⟨0x80000008, [], 32, .cold⟩
  | .TPL_PTP_CFG => ⟨0x80000100, [], 64, .cold⟩
  | .TPL_PTP_PORT => ⟨0x80001000, [(0x8, 96)], 64, .cold⟩
  | .TPL_SRC => ⟨0x80002000, [(0x8, 16)], 64, .cold⟩
  | .TPL_SEL => ⟨0x80000028, [], 32, .cold⟩
  | .TPL_STATE => ⟨0x80000010, [], 64, .cold⟩
  | .TPL_CFG => ⟨0x80000020, [], 64, .cold⟩
  | .TPL_UTC => ⟨0x80000030, [], 64, .cold⟩
  | .TPL_LOSS_POLICY => ⟨0x80000040, [], 32, .cold⟩
  | .TCK_HIST_CFG => ⟨0x88100000, [(0x4, 4096)], 32, .cold⟩
  | .TCK_HOST_CFG => ⟨0x88000000, [(0x8, 32)], 64, .cold⟩
  | .TCK_HOST_STATUS => ⟨0x88000100, [(0x8, 32)], 64, .link⟩
  | .TCK_PPS_OUT => ⟨0x88000200, [(0x8, 8)], 64, .cold⟩
  | .TPL_GOLIDE => ⟨0x80000050, [], 64, .cold⟩
  | .PRT_CFG => ⟨0x90000000, [(0x40, 96)], 64, .cold⟩
  | .PRT_STATUS => ⟨0x90000008, [(0x40, 96)], 64, .cold⟩
  | .PRT_CT_CFG => ⟨0x90000010, [(0x40, 96)], 32, .cold⟩
  | .PRT_CT_STATUS => ⟨0x90000018, [(0x40, 96)], 32, .cold⟩
  | .PRT_STAT => ⟨0x91000000, [(0x800, 96), (0x100, 8), (0x8, 32)], 64, .cold⟩
  | .OPT_STATUS => ⟨0x94000000, [(0x40, 12)], 64, .cold⟩
  | .BOB_POLICY => ⟨0x98000000, [], 32, .cold⟩
  | .BOB_STATUS => ⟨0x98001000, [(0x200, 12)], 64, .cold⟩
  | .BOB_LASER => ⟨0x98001100, [(0x200, 12), (0x8, 20)], 64, .cold⟩
  | .SHU_SLICE_CFG => ⟨0x30000000, [(0x2000000, 8)], 64, .cold⟩
  | .SHU_FAULT_LAST => ⟨0x30000008, [(0x2000000, 8)], 64, .cold⟩
  | .SHU_DISPATCH_STATUS => ⟨0x30000010, [(0x2000000, 8)], 64, .cold⟩
  | .SHU_CNT => ⟨0x30000100, [(0x2000000, 8), (0x8, 32)], 64, .cold⟩
  | .SHU_ENTRY => ⟨0x30000400, [(0x2000000, 8), (0x4, 32)], 32, .cold⟩
  | .SHU_TIMER => ⟨0x30000800, [(0x2000000, 8), (0x8, 64)], 64, .cold⟩
  | .SHU_ENGINE_CTL => ⟨0x30100000, [(0x2000000, 8), (0x100, 160)], 32, .cold⟩
  | .SHU_THREAD_CFG => ⟨0x30100008, [(0x2000000, 8), (0x100, 160)], 64, .cold⟩
  | .SHU_SHARE => ⟨0x30100010, [(0x2000000, 8), (0x100, 160)], 32, .cold⟩
  | .SHU_THREAD_STATE => ⟨0x30100018, [(0x2000000, 8), (0x100, 160)], 64, .cold⟩
  | .SHU_SLOT => ⟨0x30100020, [(0x2000000, 8), (0x100, 160), (0x4, 4)], 32, .cold⟩
  | .SHU_DISP_CNT => ⟨0x30000200, [(0x2000000, 8), (0x8, 8)], 64, .cold⟩
  | .SHU_CS_STAGE => ⟨0x30000C00, [(0x2000000, 8), (0x8, 4)], 64, .cold⟩
  | .SHU_CS_COMMIT => ⟨0x30000C20, [(0x2000000, 8)], 64, .cold⟩
  | .PAT_SCOPE_CFG => ⟨0x41900000, [(0x40, 4352)], 64, .cold⟩
  | .PAT_SCOPE_CTR => ⟨0x41900008, [(0x40, 4352)], 64, .cold⟩
  | .PAT_SCOPE_GAUGE => ⟨0x41900010, [(0x40, 4352), (0x8, 2)], 64, .cold⟩
  | .PAT_SCOPE_PINS => ⟨0x41900020, [(0x40, 4352)], 64, .cold⟩
  | .PAT_SCOPE_USE => ⟨0x41900028, [(0x40, 4352)], 64, .cold⟩
  | .PAT_HASH => ⟨0x41800000, [], 64, .cold⟩
  | .PAT_CACHE_STATUS => ⟨0x40000000, [(0x2000000, 8)], 64, .cold⟩
  | .PAT_CACHE_CNT => ⟨0x40000100, [(0x2000000, 8), (0x8, 16)], 64, .cold⟩
  | .PAT_RULE_STATUS => ⟨0x40000008, [(0x2000000, 8)], 32, .cold⟩
  | .PAT_PORT_ACT => ⟨0x41801000, [(0x40, 128), (0x8, 8)], 64, .cold⟩
  | .PAT_MALFORMED_CNT => ⟨0x41803000, [(0x8, 96)], 64, .cold⟩
  | .PAT_EPOCH => ⟨0x41800008, [], 64, .cold⟩
  | .PAT_PARKED => ⟨0x41800020, [], 64, .cold⟩
  | .PAT_TEL_CFG => ⟨0x41800010, [], 32, .cold⟩
  | .PAT_TEL_STATUS => ⟨0x41800018, [], 64, .cold⟩
  | .SEA_CFG => ⟨0x50000000, [(0x2000000, 8)], 32, .cold⟩
  | .SEA_MODE => ⟨0x50000008, [(0x2000000, 8)], 32, .cold⟩
  | .SEA_STATUS => ⟨0x50000010, [(0x2000000, 8)], 64, .cold⟩
  | .SEA_LANE_STATUS => ⟨0x50000018, [(0x2000000, 8)], 64, .cold⟩
  | .SEA_CNT => ⟨0x50000100, [(0x2000000, 8), (0x8, 16)], 64, .cold⟩
  | .PLT_PORT_CLASS => ⟨0x60000600, [(0x2000000, 8), (0x8, 12)], 64, .cold⟩
  | .PLT_DSCP_MAP => ⟨0x60000680, [(0x2000000, 8), (0x8, 4)], 64, .cold⟩
  | .PLT_CFG => ⟨0x60000000, [(0x2000000, 8)], 64, .cold⟩
  | .PLT_ING_CLASS => ⟨0x60000100, [(0x2000000, 8), (0x8, 8)], 64, .cold⟩
  | .PLT_EG_CLASS => ⟨0x60000200, [(0x2000000, 8), (0x8, 8)], 64, .cold⟩
  | .PLT_SPILL_CFG => ⟨0x60000010, [(0x2000000, 8)], 64, .cold⟩
  | .PLT_ECN_CFG => ⟨0x60000280, [(0x2000000, 8), (0x8, 8)], 64, .cold⟩
  | .PLT_PFC_CFG => ⟨0x60000300, [(0x2000000, 8), (0x8, 8)], 64, .cold⟩
  | .PLT_RX_WAIT => ⟨0x60000020, [(0x2000000, 8)], 32, .cold⟩
  | .PLT_OVERLOAD => ⟨0x60000028, [(0x2000000, 8)], 32, .cold⟩
  | .PLT_STATUS => ⟨0x60000030, [(0x2000000, 8)], 64, .cold⟩
  | .PLT_CNT => ⟨0x60000400, [(0x2000000, 8), (0x8, 64)], 64, .cold⟩
  | .PLT_IN_DROP => ⟨0x60000800, [(0x2000000, 8), (0x40, 17), (0x8, 8)], 64, .cold⟩
  | .PLT_EG_DROP => ⟨0x60001000, [(0x2000000, 8), (0x200, 12), (0x40, 8), (0x8, 8)], 64, .cold⟩
  | .HEM_SCHED => ⟨0x61000000, [(0x2000000, 8), (0x1000, 12)], 64, .cold⟩
  | .HEM_SHAPE => ⟨0x61000040, [(0x2000000, 8), (0x1000, 12), (0x8, 7)], 64, .cold⟩
  | .HEM_XBAR_W => ⟨0x6100F000, [(0x2000000, 8)], 64, .cold⟩
  | .HEM_LAUNCH_CFG => ⟨0x61000008, [(0x2000000, 8), (0x1000, 12)], 32, .cold⟩
  | .HEM_CAL_STATUS => ⟨0x61000010, [(0x2000000, 8), (0x1000, 12)], 64, .cold⟩
  | .HEM_CNT => ⟨0x61000100, [(0x2000000, 8), (0x1000, 12), (0x80, 8), (0x8, 16)], 64, .cold⟩
  | .THM_STATUS => ⟨0x70000000, [(0x2000000, 8)], 64, .cold⟩
  | .THM_CNT => ⟨0x70000100, [(0x2000000, 8), (0x8, 16)], 64, .cold⟩
  | .THM_ROOT => ⟨0x70001000, [(0x2000000, 8), (0x8, 64)], 64, .cold⟩
  | .THM_ROOT_ID => ⟨0x70001200, [(0x2000000, 8), (0x4, 64)], 32, .cold⟩
  | .SEL_LINK_CFG => ⟨0x10000000, [(0x2000000, 8), (0x1000000, 2)], 32, .cold⟩
  | .SEL_EP_STATUS => ⟨0x10000010, [(0x2000000, 8), (0x1000000, 2), (0x800000, 2)], 32, .cold⟩
  | .SEL_PF_CFG => ⟨0x10000030, [(0x2000000, 8), (0x1000000, 2), (0x800000, 2)], 64, .cold⟩
  | .SEL_VF_CFG => ⟨0x10100020, [(0x2000000, 8), (0x1000000, 2), (0x800000, 2), (0x40, 1024)], 32, .fn⟩
  | .SEL_CNT => ⟨0x10000100, [(0x2000000, 8), (0x1000000, 2), (0x800000, 2), (0x8, 32)], 64, .cold⟩
  | .SPL_CFG => ⟨0x20000000, [(0x2000000, 8)], 32, .cold⟩
  | .SPL_CNT => ⟨0x20000100, [(0x2000000, 8), (0x8, 32)], 64, .cold⟩
  | .INST_STATUS => ⟨0x4000000, [(0x1000, 4096)], 64, .cold⟩
  | .INST_EVENT => ⟨0x4000008, [(0x1000, 4096)], 32, .fn⟩
  | .INST_BOOT => ⟨0x4000010, [(0x1000, 4096)], 64, .fn⟩
  | .INST_BOOT_STATUS => ⟨0x4000018, [(0x1000, 4096)], 64, .fn⟩
  | .STO_TGT_CFG => ⟨0x20C00000, [(0x2000000, 8), (0x400, 64)], 64, .cold⟩
  | .STO_TGT_NET => ⟨0x20C00008, [(0x2000000, 8), (0x400, 64), (0x8, 6)], 64, .cold⟩
  | .STO_TGT_NQN => ⟨0x20C00100, [(0x2000000, 8), (0x400, 64), (0x8, 32)], 64, .cold⟩
  | .STO_TGT_STATUS => ⟨0x20C00040, [(0x2000000, 8), (0x400, 64)], 64, .cold⟩
  | .STO_NS => ⟨0x20D00000, [(0x2000000, 8), (0x80, 4096), (0x8, 16)], 64, .cold⟩
  | .STO_CNT => ⟨0x20E00000, [(0x2000000, 8), (0x8, 16)], 64, .cold⟩
  | .JXL_SYS => ⟨0xA0000000, [], 64, .cold⟩
  | .JXL_CFG => ⟨0xA0000008, [], 64, .cold⟩
  | .JXL_LINK_CFG => ⟨0xA0001000, [(0x40, 32)], 64, .cold⟩
  | .JXL_LINK_STATUS => ⟨0xA0001008, [(0x40, 32)], 64, .cold⟩
  | .JXL_CREDIT => ⟨0xA0002000, [(0x40, 32), (0x8, 8)], 64, .cold⟩
  | .JXL_ROUTE => ⟨0xA0003000, [(0x4, 64)], 32, .cold⟩
  | .JXL_CNT => ⟨0xA0004000, [(0x100, 32), (0x8, 32)], 64, .cold⟩
  | .GLB_START => ⟨0x10, [], 64, .cold⟩
  | .IMG_STATUS => ⟨0x18, [], 64, .cold⟩
  | .PWR_INPUT => ⟨0xD0000000, [], 64, .cold⟩
  | .PWR_CFG => ⟨0xD0000008, [], 64, .cold⟩
  | .PWR_THERM_CFG => ⟨0xD0000010, [], 32, .cold⟩
  | .PWR_GATE_STATUS => ⟨0xD0000018, [], 64, .cold⟩
  | .PWR_STATS => ⟨0xD0000020, [], 64, .cold⟩
  | .PIN_CFG => ⟨0xD8000000, [(0x4, 24)], 32, .cold⟩
  | .PIN_STATUS => ⟨0xD8000100, [], 64, .cold⟩
  | .PIN_EDGE => ⟨0xD8000108, [], 32, .cold⟩
  | .GLB_ERR_STATUS => ⟨0x20, [], 64, .cold⟩
  | .GLB_ERR_CFG => ⟨0x28, [], 32, .cold⟩
  | .GLB_ECC_CNT => ⟨0x100, [(0x8, 16)], 64, .cold⟩
  | .GLB_LOG_STATUS => ⟨0x30, [], 64, .cold⟩
  | .FIT_CFG => ⟨0xC8000000, [], 32, .cold⟩
  | .FIT_STATUS => ⟨0xC8000008, [], 64, .cold⟩
  | .FIT_FIRE => ⟨0xC8000010, [], 32, .cold⟩
  | .FIT_TRIG => ⟨0xC8000100, [(0x10, 8)], 64, .cold⟩
  | .FIT_WHEN => ⟨0xC8000108, [(0x10, 8)], 64, .cold⟩
  | .SEL_FREEZE_EP => ⟨0x10000018, [(0x2000000, 8), (0x1000000, 2), (0x800000, 2)], 32, .cold⟩
  | .SEL_FREEZE_PF => ⟨0x10000040, [(0x2000000, 8), (0x1000000, 2), (0x800000, 2)], 32, .cold⟩
  | .SEL_FREEZE_VF => ⟨0x10100030, [(0x2000000, 8), (0x1000000, 2), (0x800000, 2), (0x40, 1024)], 32, .cold⟩
  | .SEL_WIN_PF => ⟨0x10001000, [(0x2000000, 8), (0x1000000, 2), (0x800000, 2), (0x8, 64)], 64, .cold⟩
  | .SEL_WIN_VF => ⟨0x10100000, [(0x2000000, 8), (0x1000000, 2), (0x800000, 2), (0x40, 1024), (0x8, 4)], 64, .cold⟩
  | .SPL_OWNER_PF => ⟨0x20000800, [(0x2000000, 8), (0x40, 4)], 64, .fn⟩
  | .SPL_OWNER_INST => ⟨0x20100000, [(0x2000000, 8), (0x40, 4096)], 64, .fn⟩
  | .SPL_RING_SEND => ⟨0x20400000, [(0x2000000, 8), (0x20, 65536)], 64, .cold⟩
  | .SPL_RING_RECV => ⟨0x20600000, [(0x2000000, 8), (0x20, 65536)], 64, .cold⟩
  | .SPL_RING_CPL => ⟨0x20800000, [(0x2000000, 8), (0x20, 65536)], 64, .cold⟩
  | .SPL_RING_ADMIN => ⟨0x20A00000, [(0x2000000, 8), (0x20, 4096)], 64, .cold⟩
  | .PLT_EG_DROP_H => ⟨0x60002800, [(0x2000000, 8), (0x40, 4), (0x8, 8)], 64, .cold⟩

/-- The fields of each register kind, with their access codes. Bits that no field holds are reserved (R8). -/
def Reg.fields : Reg → List FieldInfo
  | .GLB_ID => [⟨0, 16, .ro⟩, ⟨16, 4, .ro⟩, ⟨20, 4, .ro⟩]
  | .GLB_CAPS => [⟨0, 8, .ro⟩, ⟨8, 8, .ro⟩, ⟨16, 8, .ro⟩, ⟨24, 8, .ro⟩, ⟨32, 5, .ro⟩, ⟨40, 8, .ro⟩, ⟨48, 9, .ro⟩]
  | .CUT_CFG => [⟨0, 16, .rt⟩, ⟨16, 1, .rt⟩, ⟨17, 15, .rt⟩, ⟨32, 16, .rt⟩, ⟨48, 16, .rt⟩]
  | .CUT_DISCARD => [⟨0, 16, .rc⟩]
  | .CUT_OOB_CFG => [⟨0, 1, .rt⟩, ⟨1, 8, .rt⟩, ⟨9, 8, .rt⟩, ⟨17, 8, .rt⟩]
  | .CUT_OOB_ERR => [⟨0, 16, .rc⟩, ⟨16, 16, .rc⟩, ⟨32, 16, .rc⟩, ⟨48, 16, .rc⟩]
  | .CUT_STATUS => [⟨0, 11, .ro⟩, ⟨11, 7, .ro⟩, ⟨18, 5, .ro⟩, ⟨23, 7, .ro⟩, ⟨31, 1, .ro⟩]
  | .MBX_BIND => [⟨0, 16, .rwl⟩, ⟨16, 16, .rwl⟩, ⟨32, 11, .rwl⟩, ⟨43, 11, .rwl⟩, ⟨54, 1, .rwl⟩]
  | .MBX_BIND_LOCK => [⟨0, 1, .ro⟩]
  | .MBX_PAYLOAD => [⟨0, 32, .rw⟩]
  | .MBX_RING => [⟨0, 32, .rw⟩]
  | .MBX_PENDING => [⟨0, 32, .w1c⟩]
  | .MBX_MASK => [⟨0, 32, .rw⟩]
  | .MBX_STATUS => [⟨0, 1, .ro⟩, ⟨1, 1, .w1c⟩, ⟨2, 1, .w1c⟩, ⟨3, 1, .w1c⟩, ⟨16, 16, .ro⟩]
  | .LCK_TRY => [⟨0, 1, .ro⟩, ⟨1, 1, .ro⟩, ⟨2, 1, .ro⟩, ⟨3, 1, .rw⟩, ⟨16, 16, .ro⟩]
  | .LCK_CFG => [⟨0, 2, .rt⟩, ⟨2, 1, .rw⟩, ⟨3, 1, .rw⟩, ⟨4, 12, .rt⟩]
  | .PWR_TEMPO_SLICE => [⟨0, 13, .ro⟩, ⟨13, 13, .ro⟩, ⟨26, 1, .rw⟩, ⟨27, 10, .ro⟩, ⟨37, 7, .ro⟩, ⟨44, 1, .ro⟩]
  | .PWR_TEMPO_HUB => [⟨0, 13, .ro⟩, ⟨13, 13, .ro⟩, ⟨26, 1, .rw⟩, ⟨27, 10, .ro⟩, ⟨37, 7, .ro⟩]
  | .PWR_TEMPO_TARGET => [⟨0, 13, .rt⟩, ⟨13, 13, .rt⟩]
  | .PWR_TEMPO_STATUS => [⟨0, 13, .ro⟩, ⟨13, 1, .ro⟩, ⟨14, 1, .ro⟩, ⟨15, 1, .ro⟩, ⟨16, 1, .w1c⟩]
  | .STW_POS => [⟨0, 8, .ro⟩, ⟨8, 56, .ro⟩]
  | .STW_STATUS => [⟨0, 16, .rc⟩, ⟨16, 1, .w1c⟩]
  | .STW_CFG => [⟨0, 1, .rt⟩, ⟨1, 1, .rt⟩]
  | .STW_OWN => [⟨0, 4, .rt⟩, ⟨4, 4, .rt⟩, ⟨8, 4, .rt⟩, ⟨12, 4, .rt⟩, ⟨16, 4, .rt⟩, ⟨20, 4, .rt⟩, ⟨24, 4, .rt⟩, ⟨28, 4, .rt⟩]
  | .STW_UNIT_CTL => [⟨0, 1, .rw⟩, ⟨1, 1, .ro⟩, ⟨2, 3, .ro⟩, ⟨5, 1, .rw⟩, ⟨16, 9, .ro⟩]
  | .STW_STATS => [⟨0, 16, .rc⟩, ⟨16, 16, .rc⟩, ⟨32, 16, .rc⟩, ⟨48, 8, .rc⟩]
  | .TPL_NOW => [⟨0, 32, .ro⟩, ⟨32, 32, .ro⟩]
  | .TPL_NOW_EXT => [⟨0, 16, .ro⟩, ⟨16, 16, .ro⟩]
  | .TPL_PTP_CFG => [⟨0, 2, .rt⟩, ⟨2, 8, .rt⟩, ⟨10, 8, .rt⟩, ⟨18, 8, .rt⟩, ⟨26, 8, .rt⟩, ⟨34, 1, .rt⟩, ⟨35, 1, .rt⟩]
  | .TPL_PTP_PORT => [⟨0, 1, .rt⟩, ⟨1, 3, .rt⟩, ⟨4, 2, .rt⟩, ⟨6, 1, .rt⟩, ⟨8, 8, .rt⟩, ⟨16, 4, .rt⟩, ⟨20, 4, .rt⟩, ⟨24, 4, .rt⟩, ⟨28, 20, .rt⟩, ⟨48, 4, .ro⟩]
  | .TPL_SRC => [⟨0, 1, .rt⟩, ⟨1, 3, .rt⟩, ⟨4, 7, .rt⟩, ⟨11, 4, .rt⟩, ⟨15, 1, .rt⟩, ⟨16, 1, .rt⟩, ⟨17, 15, .rt⟩, ⟨32, 1, .ro⟩, ⟨33, 1, .ro⟩, ⟨34, 3, .ro⟩, ⟨37, 11, .ro⟩]
  | .TPL_SEL => [⟨0, 16, .rt⟩, ⟨16, 11, .rt⟩, ⟨27, 1, .rt⟩]
  | .TPL_STATE => [⟨0, 2, .ro⟩, ⟨2, 1, .ro⟩, ⟨3, 1, .ro⟩, ⟨4, 1, .ro⟩, ⟨5, 4, .ro⟩, ⟨9, 1, .ro⟩, ⟨10, 4, .ro⟩, ⟨14, 1, .ro⟩, ⟨15, 1, .w1c⟩, ⟨16, 16, .ro⟩, ⟨32, 16, .rc⟩, ⟨48, 16, .ro⟩]
  | .TPL_CFG => [⟨0, 16, .rt⟩, ⟨16, 8, .rt⟩, ⟨24, 8, .rt⟩, ⟨32, 10, .rt⟩, ⟨42, 10, .rt⟩, ⟨52, 9, .rt⟩]
  | .TPL_UTC => [⟨0, 16, .rt⟩, ⟨16, 1, .ro⟩, ⟨17, 1, .ro⟩, ⟨18, 1, .ro⟩, ⟨20, 32, .ro⟩]
  | .TPL_LOSS_POLICY => [⟨0, 2, .rt⟩, ⟨2, 2, .rt⟩, ⟨4, 2, .rt⟩, ⟨6, 1, .rt⟩, ⟨7, 1, .rt⟩]
  | .TCK_HIST_CFG => [⟨0, 1, .rt⟩, ⟨1, 3, .rt⟩, ⟨4, 12, .rt⟩, ⟨16, 1, .rt⟩]
  | .TCK_HOST_CFG => [⟨0, 1, .rt⟩, ⟨1, 16, .rt⟩, ⟨17, 12, .rt⟩]
  | .TCK_HOST_STATUS => [⟨0, 1, .ro⟩, ⟨1, 1, .ro⟩, ⟨2, 16, .rc⟩, ⟨18, 32, .ro⟩]
  | .TCK_PPS_OUT => [⟨0, 1, .rt⟩, ⟨1, 5, .rt⟩, ⟨6, 19, .rt⟩, ⟨25, 20, .rt⟩, ⟨45, 1, .ro⟩]
  | .TPL_GOLIDE => [⟨0, 32, .ro⟩, ⟨32, 32, .ro⟩]
  | .PRT_CFG => [⟨0, 1, .rt⟩, ⟨1, 2, .rt⟩, ⟨3, 8, .rt⟩, ⟨11, 14, .rt⟩, ⟨25, 8, .rt⟩]
  | .PRT_STATUS => [⟨0, 24, .ro⟩, ⟨24, 8, .ro⟩, ⟨32, 1, .ro⟩, ⟨33, 1, .ro⟩, ⟨34, 8, .ro⟩]
  | .PRT_CT_CFG => [⟨0, 1, .rt⟩, ⟨1, 6, .rt⟩, ⟨7, 6, .rt⟩, ⟨13, 6, .rt⟩, ⟨19, 13, .rt⟩]
  | .PRT_CT_STATUS => [⟨0, 6, .ro⟩, ⟨6, 16, .rc⟩]
  | .PRT_STAT => [⟨0, 64, .rc⟩]
  | .OPT_STATUS => [⟨0, 8, .ro⟩, ⟨8, 8, .ro⟩, ⟨16, 2, .ro⟩, ⟨18, 8, .ro⟩]
  | .BOB_POLICY => [⟨0, 1, .rt⟩, ⟨1, 8, .rt⟩, ⟨9, 16, .rt⟩]
  | .BOB_STATUS => [⟨0, 3, .ro⟩, ⟨3, 20, .ro⟩, ⟨23, 4, .ro⟩, ⟨27, 16, .ro⟩, ⟨43, 1, .ro⟩, ⟨44, 1, .w1c⟩, ⟨45, 8, .ro⟩]
  | .BOB_LASER => [⟨0, 10, .ro⟩, ⟨10, 10, .ro⟩, ⟨20, 17, .ro⟩, ⟨37, 16, .ro⟩, ⟨53, 2, .ro⟩, ⟨55, 4, .ro⟩, ⟨59, 1, .ro⟩]
  | .SHU_SLICE_CFG => [⟨0, 16, .rt⟩, ⟨16, 16, .rt⟩, ⟨32, 8, .rt⟩]
  | .SHU_FAULT_LAST => [⟨0, 8, .ro⟩, ⟨8, 4, .ro⟩, ⟨12, 3, .ro⟩, ⟨15, 1, .w1c⟩, ⟨16, 14, .ro⟩, ⟨30, 5, .ro⟩, ⟨35, 1, .ro⟩, ⟨36, 6, .ro⟩]
  | .SHU_DISPATCH_STATUS => [⟨0, 12, .ro⟩, ⟨12, 8, .ro⟩, ⟨20, 16, .ro⟩, ⟨36, 1, .ro⟩]
  | .SHU_CNT => [⟨0, 64, .rc⟩]
  | .SHU_ENTRY => [⟨0, 14, .rw⟩, ⟨14, 1, .rw⟩]
  | .SHU_TIMER => [⟨0, 1, .rw⟩, ⟨1, 24, .rw⟩, ⟨25, 24, .rw⟩, ⟨49, 14, .rw⟩]
  | .SHU_ENGINE_CTL => [⟨0, 1, .rt⟩, ⟨1, 1, .w1c⟩, ⟨2, 1, .rw⟩, ⟨3, 1, .ro⟩, ⟨4, 3, .ro⟩, ⟨7, 1, .rw⟩]
  | .SHU_THREAD_CFG => (List.range 16).map fun t => ⟨4 * t, 4, .rt⟩
  | .SHU_SHARE => [⟨0, 1, .rt⟩, ⟨1, 3, .rt⟩, ⟨4, 4, .rt⟩, ⟨8, 3, .rt⟩, ⟨11, 6, .rt⟩]
  | .SHU_THREAD_STATE => (List.range 16).map fun t => ⟨3 * t, 3, .ro⟩
  | .SHU_SLOT => [⟨0, 4, .rt⟩, ⟨4, 4, .rt⟩, ⟨8, 4, .rt⟩, ⟨12, 4, .rt⟩, ⟨16, 4, .rt⟩, ⟨20, 4, .rt⟩, ⟨24, 4, .rt⟩, ⟨28, 4, .rt⟩]
  | .SHU_DISP_CNT => [⟨0, 64, .rc⟩]
  | .SHU_CS_STAGE => [⟨0, 64, .rw⟩]
  | .SHU_CS_COMMIT => [⟨0, 14, .rw⟩, ⟨14, 10, .rw⟩, ⟨24, 1, .rw⟩, ⟨25, 2, .ro⟩, ⟨27, 11, .ro⟩]
  | .PAT_SCOPE_CFG => [⟨0, 2, .ro⟩, ⟨2, 3, .ro⟩, ⟨5, 1, .ro⟩, ⟨6, 12, .ro⟩, ⟨18, 8, .ro⟩, ⟨32, 32, .ro⟩]
  | .PAT_SCOPE_CTR => [⟨0, 22, .ro⟩, ⟨22, 23, .ro⟩]
  | .PAT_SCOPE_GAUGE => (List.range 4).flatMap fun j => [⟨16 * j, 9, .ro⟩, ⟨16 * j + 9, 5, .ro⟩, ⟨16 * j + 14, 1, .ro⟩]
  | .PAT_SCOPE_PINS => [⟨0, 21, .ro⟩, ⟨32, 21, .ro⟩]
  | .PAT_SCOPE_USE => [⟨0, 32, .ro⟩, ⟨32, 8, .ro⟩]
  | .PAT_HASH => [⟨0, 32, .ro⟩, ⟨32, 32, .ro⟩]
  | .PAT_CACHE_STATUS => [⟨0, 13, .ro⟩, ⟨13, 21, .ro⟩, ⟨34, 21, .ro⟩]
  | .PAT_CACHE_CNT => [⟨0, 64, .rc⟩]
  | .PAT_RULE_STATUS => [⟨0, 17, .ro⟩]
  | .PAT_PORT_ACT => [⟨0, 64, .ro⟩]
  | .PAT_MALFORMED_CNT => [⟨0, 64, .rc⟩]
  | .PAT_EPOCH => [⟨0, 32, .ro⟩, ⟨32, 32, .ro⟩]
  | .PAT_PARKED => [⟨0, 29, .ro⟩, ⟨29, 21, .ro⟩, ⟨50, 7, .ro⟩]
  | .PAT_TEL_CFG => [⟨0, 4, .rt⟩]
  | .PAT_TEL_STATUS => [⟨0, 16, .rc⟩, ⟨16, 16, .rc⟩, ⟨32, 16, .rc⟩]
  | .SEA_CFG => [⟨0, 16, .rt⟩]
  | .SEA_MODE => (List.range 32).map fun t => ⟨1 * t, 1, .rt⟩
  | .SEA_STATUS => [⟨0, 16, .ro⟩, ⟨16, 24, .ro⟩, ⟨40, 24, .ro⟩]
  | .SEA_LANE_STATUS => [⟨0, 16, .ro⟩, ⟨16, 12, .ro⟩, ⟨28, 1, .ro⟩, ⟨32, 16, .rc⟩]
  | .SEA_CNT => [⟨0, 64, .rc⟩]
  | .PLT_PORT_CLASS => [⟨0, 3, .rt⟩, ⟨3, 2, .rt⟩, ⟨5, 24, .rt⟩, ⟨29, 16, .rt⟩]
  | .PLT_DSCP_MAP => (List.range 16).map fun t => ⟨3 * t, 3, .rt⟩
  | .PLT_CFG => [⟨0, 14, .rt⟩, ⟨14, 3, .rt⟩, ⟨17, 3, .rt⟩, ⟨20, 18, .rt⟩, ⟨38, 18, .rt⟩]
  | .PLT_ING_CLASS => [⟨0, 12, .rt⟩, ⟨12, 18, .rt⟩, ⟨30, 18, .rt⟩, ⟨48, 16, .rt⟩]
  | .PLT_EG_CLASS => [⟨0, 12, .rt⟩, ⟨12, 24, .rt⟩]
  | .PLT_SPILL_CFG => [⟨0, 1, .rt⟩, ⟨1, 18, .rt⟩, ⟨19, 18, .rt⟩]
  | .PLT_ECN_CFG => [⟨0, 24, .rt⟩, ⟨24, 24, .rt⟩, ⟨48, 8, .rt⟩, ⟨56, 1, .rt⟩]
  | .PLT_PFC_CFG => [⟨0, 1, .rt⟩, ⟨1, 16, .rt⟩, ⟨17, 16, .rt⟩]
  | .PLT_RX_WAIT => [⟨0, 16, .rt⟩]
  | .PLT_OVERLOAD => [⟨0, 1, .ro⟩, ⟨1, 1, .ro⟩, ⟨2, 1, .ro⟩, ⟨3, 1, .ro⟩, ⟨4, 1, .ro⟩, ⟨5, 1, .ro⟩, ⟨6, 1, .ro⟩, ⟨7, 1, .ro⟩, ⟨8, 8, .ro⟩, ⟨16, 1, .w1c⟩]
  | .PLT_STATUS => [⟨0, 19, .ro⟩, ⟨19, 14, .ro⟩, ⟨33, 25, .ro⟩]
  | .PLT_CNT => [⟨0, 64, .rc⟩]
  | .PLT_IN_DROP => [⟨0, 64, .rc⟩]
  | .PLT_EG_DROP => [⟨0, 64, .rc⟩]
  | .HEM_SCHED => (List.range 7).flatMap fun c => [⟨8 * c, 7, .rt⟩, ⟨8 * c + 7, 1, .rt⟩]
  | .HEM_SHAPE => [⟨0, 21, .rt⟩, ⟨21, 24, .rt⟩]
  | .HEM_XBAR_W => [⟨0, 8, .rt⟩, ⟨8, 8, .rt⟩, ⟨16, 8, .rt⟩, ⟨24, 8, .rt⟩, ⟨32, 8, .rt⟩, ⟨40, 8, .rt⟩, ⟨48, 8, .rt⟩]
  | .HEM_LAUNCH_CFG => [⟨0, 1, .rt⟩, ⟨1, 10, .rt⟩, ⟨11, 1, .rt⟩]
  | .HEM_CAL_STATUS => [⟨0, 1, .ro⟩, ⟨1, 1, .ro⟩, ⟨2, 1, .ro⟩, ⟨3, 1, .ro⟩, ⟨4, 12, .ro⟩, ⟨16, 32, .ro⟩, ⟨48, 8, .ro⟩]
  | .HEM_CNT => [⟨0, 64, .rc⟩]
  | .THM_STATUS => [⟨0, 13, .ro⟩, ⟨13, 5, .ro⟩, ⟨18, 16, .ro⟩]
  | .THM_CNT => [⟨0, 64, .rc⟩]
  | .THM_ROOT => [⟨0, 2, .ro⟩, ⟨2, 32, .ro⟩, ⟨34, 1, .ro⟩, ⟨35, 19, .ro⟩]
  | .THM_ROOT_ID => [⟨0, 32, .ro⟩]
  | .SEL_LINK_CFG => [⟨0, 1, .rt⟩, ⟨1, 2, .rt⟩]
  | .SEL_EP_STATUS => [⟨0, 1, .ro⟩, ⟨1, 2, .ro⟩, ⟨3, 5, .ro⟩, ⟨8, 1, .ro⟩, ⟨9, 1, .ro⟩]
  | .SEL_PF_CFG => [⟨0, 2, .rt⟩, ⟨2, 1, .rt⟩, ⟨3, 12, .rt⟩, ⟨15, 9, .rt⟩, ⟨24, 16, .rt⟩]
  | .SEL_VF_CFG => [⟨0, 2, .rw⟩, ⟨2, 1, .rw⟩, ⟨3, 7, .ro⟩, ⟨10, 9, .rw⟩]
  | .SEL_CNT => [⟨0, 64, .rc⟩]
  | .SPL_CFG => [⟨0, 10, .rt⟩]
  | .SPL_CNT => [⟨0, 64, .rc⟩]
  | .INST_STATUS => [⟨0, 12, .ro⟩, ⟨12, 1, .ro⟩, ⟨13, 1, .ro⟩, ⟨14, 3, .ro⟩, ⟨32, 16, .ro⟩, ⟨48, 5, .ro⟩, ⟨53, 10, .ro⟩]
  | .INST_EVENT => [⟨0, 1, .w1c⟩, ⟨1, 1, .w1c⟩, ⟨2, 1, .w1c⟩, ⟨3, 1, .w1c⟩, ⟨16, 6, .rw⟩, ⟨22, 1, .rw⟩]
  | .INST_BOOT => [⟨0, 1, .rw⟩, ⟨6, 58, .rw⟩]
  | .INST_BOOT_STATUS => [⟨0, 16, .ro⟩, ⟨16, 12, .ro⟩, ⟨32, 16, .ro⟩]
  | .STO_TGT_CFG => [⟨0, 1, .rt⟩, ⟨1, 7, .rt⟩, ⟨8, 3, .rt⟩, ⟨11, 3, .rt⟩, ⟨14, 1, .rt⟩, ⟨15, 6, .rt⟩, ⟨21, 1, .rt⟩, ⟨22, 1, .rt⟩, ⟨23, 1, .rt⟩, ⟨24, 6, .rt⟩, ⟨30, 13, .rt⟩, ⟨43, 10, .rt⟩, ⟨53, 11, .rt⟩]
  | .STO_TGT_NET => [⟨0, 64, .rt⟩]
  | .STO_TGT_NQN => [⟨0, 64, .rt⟩]
  | .STO_TGT_STATUS => [⟨0, 3, .ro⟩, ⟨3, 6, .ro⟩, ⟨9, 1, .ro⟩, ⟨10, 1, .ro⟩, ⟨11, 16, .ro⟩, ⟨27, 16, .rc⟩, ⟨43, 4, .ro⟩]
  | .STO_NS => [⟨0, 1, .rw⟩, ⟨1, 6, .rw⟩, ⟨7, 1, .rw⟩, ⟨8, 32, .rw⟩]
  | .STO_CNT => [⟨0, 64, .rc⟩]
  | .JXL_SYS => [⟨0, 6, .ro⟩, ⟨6, 2, .ro⟩, ⟨8, 32, .ro⟩, ⟨40, 1, .ro⟩, ⟨41, 7, .ro⟩]
  | .JXL_CFG => [⟨0, 16, .rt⟩, ⟨16, 16, .rt⟩, ⟨32, 16, .rt⟩, ⟨48, 16, .rt⟩]
  | .JXL_LINK_CFG => [⟨0, 1, .rt⟩, ⟨1, 7, .rt⟩, ⟨8, 3, .rt⟩, ⟨11, 1, .rt⟩, ⟨12, 20, .rt⟩, ⟨32, 12, .rt⟩]
  | .JXL_LINK_STATUS => [⟨0, 3, .ro⟩, ⟨3, 6, .ro⟩, ⟨9, 1, .ro⟩, ⟨10, 5, .ro⟩, ⟨15, 9, .ro⟩, ⟨24, 1, .ro⟩, ⟨32, 32, .ro⟩]
  | .JXL_CREDIT => [⟨0, 18, .rt⟩, ⟨18, 1, .ro⟩, ⟨19, 18, .ro⟩, ⟨37, 1, .ro⟩, ⟨38, 18, .ro⟩]
  | .JXL_ROUTE => [⟨0, 5, .ro⟩, ⟨5, 1, .ro⟩, ⟨6, 4, .ro⟩]
  | .JXL_CNT => [⟨0, 64, .rc⟩]
  | .GLB_START => [⟨0, 3, .ro⟩, ⟨3, 1, .ro⟩, ⟨4, 1, .ro⟩, ⟨5, 1, .ro⟩, ⟨6, 1, .ro⟩, ⟨7, 1, .ro⟩, ⟨8, 1, .ro⟩, ⟨16, 16, .ro⟩, ⟨32, 32, .ro⟩]
  | .IMG_STATUS => [⟨0, 4, .ro⟩, ⟨4, 1, .ro⟩, ⟨5, 1, .ro⟩, ⟨6, 1, .ro⟩, ⟨8, 8, .ro⟩, ⟨32, 32, .ro⟩]
  | .PWR_INPUT => [⟨0, 16, .ro⟩, ⟨16, 16, .ro⟩, ⟨32, 12, .ro⟩, ⟨44, 3, .ro⟩, ⟨47, 1, .ro⟩, ⟨48, 1, .w1c⟩]
  | .PWR_CFG => [⟨0, 48, .rt⟩, ⟨48, 12, .rt⟩]
  | .PWR_THERM_CFG => [⟨0, 7, .rt⟩, ⟨7, 7, .rt⟩]
  | .PWR_GATE_STATUS => [⟨0, 12, .ro⟩, ⟨12, 4, .ro⟩, ⟨16, 1, .ro⟩, ⟨17, 1, .ro⟩, ⟨18, 1, .ro⟩, ⟨19, 1, .ro⟩, ⟨20, 1, .w1c⟩]
  | .PWR_STATS => [⟨0, 16, .rc⟩, ⟨16, 16, .rc⟩, ⟨32, 16, .rc⟩]
  | .PIN_CFG => [⟨0, 4, .rt⟩, ⟨4, 1, .rt⟩, ⟨5, 2, .rt⟩, ⟨7, 3, .rt⟩, ⟨10, 7, .rt⟩, ⟨17, 2, .rt⟩]
  | .PIN_STATUS => [⟨0, 24, .ro⟩, ⟨24, 24, .ro⟩]
  | .PIN_EDGE => [⟨0, 24, .w1c⟩, ⟨24, 1, .rw⟩, ⟨25, 7, .rw⟩]
  | .GLB_ERR_STATUS => [⟨1, 6, .w1c⟩, ⟨7, 1, .w1c⟩, ⟨8, 1, .w1c⟩]
  | .GLB_ERR_CFG => [⟨0, 11, .rt⟩, ⟨11, 1, .rt⟩, ⟨12, 16, .rt⟩]
  | .GLB_ECC_CNT => [⟨0, 64, .rc⟩]
  | .GLB_LOG_STATUS => [⟨0, 11, .ro⟩, ⟨32, 16, .rc⟩]
  | .FIT_CFG => [⟨0, 1, .rt⟩]
  | .FIT_STATUS => [⟨0, 2, .ro⟩, ⟨2, 1, .ro⟩, ⟨3, 8, .ro⟩, ⟨32, 16, .rc⟩]
  | .FIT_FIRE => [⟨0, 1, .rw⟩, ⟨1, 1, .rw⟩]
  | .FIT_TRIG => [⟨0, 3, .ro⟩, ⟨3, 1, .ro⟩, ⟨4, 1, .ro⟩, ⟨32, 32, .ro⟩]
  | .FIT_WHEN => [⟨0, 32, .ro⟩, ⟨32, 32, .ro⟩]
  | .SEL_FREEZE_EP => [⟨0, 2, .ro⟩, ⟨2, 4, .ro⟩]
  | .SEL_FREEZE_PF => [⟨0, 2, .ro⟩, ⟨2, 4, .ro⟩]
  | .SEL_FREEZE_VF => [⟨0, 2, .ro⟩, ⟨2, 4, .ro⟩]
  | .SEL_WIN_PF => [⟨0, 1, .rt⟩, ⟨1, 1, .rt⟩, ⟨18, 22, .rt⟩]
  | .SEL_WIN_VF => [⟨0, 1, .rw⟩, ⟨1, 1, .rw⟩, ⟨18, 22, .rw⟩]
  | .SPL_OWNER_PF => [⟨0, 1, .ro⟩, ⟨1, 4, .ro⟩, ⟨5, 8, .rt⟩, ⟨13, 1, .ro⟩, ⟨14, 10, .ro⟩]
  | .SPL_OWNER_INST => [⟨0, 1, .ro⟩, ⟨1, 4, .ro⟩, ⟨5, 8, .ro⟩, ⟨13, 1, .ro⟩, ⟨14, 10, .ro⟩]
  | .SPL_RING_SEND => [⟨0, 3, .ro⟩, ⟨3, 3, .ro⟩, ⟨6, 5, .ro⟩, ⟨11, 6, .ro⟩, ⟨17, 3, .ro⟩, ⟨20, 16, .ro⟩, ⟨36, 12, .ro⟩, ⟨48, 1, .ro⟩, ⟨49, 5, .ro⟩]
  | .SPL_RING_RECV => [⟨0, 3, .ro⟩, ⟨3, 3, .ro⟩, ⟨6, 5, .ro⟩, ⟨11, 6, .ro⟩, ⟨17, 3, .ro⟩, ⟨20, 16, .ro⟩, ⟨36, 12, .ro⟩, ⟨48, 1, .ro⟩, ⟨49, 5, .ro⟩]
  | .SPL_RING_CPL => [⟨0, 3, .ro⟩, ⟨3, 3, .ro⟩, ⟨6, 5, .ro⟩, ⟨11, 6, .ro⟩, ⟨17, 3, .ro⟩, ⟨20, 16, .ro⟩, ⟨36, 12, .ro⟩, ⟨48, 1, .ro⟩, ⟨49, 5, .ro⟩]
  | .SPL_RING_ADMIN => [⟨0, 3, .ro⟩, ⟨3, 3, .ro⟩, ⟨6, 5, .ro⟩, ⟨11, 6, .ro⟩, ⟨17, 3, .ro⟩, ⟨20, 16, .ro⟩, ⟨36, 12, .ro⟩, ⟨48, 1, .ro⟩, ⟨49, 5, .ro⟩]
  | .PLT_EG_DROP_H => [⟨0, 64, .rc⟩]

/-- The class code that the factory ownership table of shared unit `u` gives stitch `i` (R102, R105): 0 FG, 1 SCRUB,
2 CAL, 3 SERVO, 4 TELEM, 5 TBLM, 6 LOG. -/
def stwFactory (u i : Nat) : Nat :=
  if u < 64 then
    if i % 16 = 15 then (match i / 16 % 4 with | 0 => 1 | 1 => 5 | 2 => 4 | _ => 5) else 0
  else if u = 64 then
    if i % 4 = 3 then (match i / 4 % 4 with | 0 => 3 | 1 => 1 | 2 => 2 | _ => 6) else 0
  else if u < 145 then
    if i % 32 = 31 then 1 else 0
  else if u < 153 then
    if i % 8 = 7 then (match i / 8 % 4 with | 0 => 5 | 1 => 1 | 2 => 4 | _ => 5) else 0
  else if i % 2 = 1 then 4 else 0

/-- The value of register `r` at the indices `ix` (`ix k` is index `k`) after a reset: the Reset column of its table; a
retained field reads its bracketed factory value (R16). -/
def Reg.resetVal (r : Reg) (ix : Nat → Nat) : Nat :=
  match r with
  | .GLB_ID => 38422 + (Config.stepMinor.toNat) * 2 ^ 16 + (Config.stepMajor.toNat) * 2 ^ 20
  | .GLB_CAPS => 255 + (160) * 2 ^ 8 + (24) * 2 ^ 16 + (96) * 2 ^ 24 + (16) * 2 ^ 32 + (64) * 2 ^ 40 + (256) * 2 ^ 48
  | .CUT_CFG => 4096 + (1) * 2 ^ 16 + (1000) * 2 ^ 17 + (100) * 2 ^ 32 + (1000) * 2 ^ 48
  | .CUT_OOB_CFG => (1) * 2 ^ 1 + (9) * 2 ^ 9 + (32) * 2 ^ 17
  | .MBX_BIND => (if ix 0 < 32 then 0x1000 + ix 0 else 0xF000) + ((if ix 0 < 32 then 0xF000 else 0x1000 + (ix 0 - 32))) * 2 ^ 16 + (1) * 2 ^ 43 + (1) * 2 ^ 54
  | .LCK_CFG => 1
  | .PWR_TEMPO_SLICE => (8191) * 2 ^ 13
  | .PWR_TEMPO_HUB => (8191) * 2 ^ 13
  | .PWR_TEMPO_TARGET => 2600 + (2443) * 2 ^ 13
  | .STW_CFG => 1 + (1) * 2 ^ 1
  | .STW_OWN => (stwFactory (ix 0) (8 * ix 1 + 0)) + ((stwFactory (ix 0) (8 * ix 1 + 1))) * 2 ^ 4 + ((stwFactory (ix 0) (8 * ix 1 + 2))) * 2 ^ 8 + ((stwFactory (ix 0) (8 * ix 1 + 3))) * 2 ^ 12 + ((stwFactory (ix 0) (8 * ix 1 + 4))) * 2 ^ 16 + ((stwFactory (ix 0) (8 * ix 1 + 5))) * 2 ^ 20 + ((stwFactory (ix 0) (8 * ix 1 + 6))) * 2 ^ 24 + ((stwFactory (ix 0) (8 * ix 1 + 7))) * 2 ^ 28
  | .TPL_PTP_CFG => (24) * 2 ^ 2 + (128) * 2 ^ 10 + (128) * 2 ^ 18 + (7) * 2 ^ 26
  | .TPL_PTP_PORT => (128) * 2 ^ 8 + (12) * 2 ^ 16 + (12) * 2 ^ 20 + (13) * 2 ^ 24
  | .TPL_SRC => (if ix 0 = 0 then 1 else 0) + ((ix 0)) * 2 ^ 11 + ((if ix 0 = 0 then 1 else 0)) * 2 ^ 15 + ((if ix 0 = 0 then 1 else 0)) * 2 ^ 16
  | .TPL_SEL => 1000 + (300) * 2 ^ 16 + (1) * 2 ^ 27
  | .TPL_STATE => (65535) * 2 ^ 16
  | .TPL_CFG => 1000 + (10) * 2 ^ 16 + (16) * 2 ^ 24 + (49) * 2 ^ 32 + (82) * 2 ^ 42 + (480) * 2 ^ 52
  | .TPL_UTC => 37
  | .TCK_HOST_CFG => 1 + (2000) * 2 ^ 17
  | .TCK_PPS_OUT => (100000) * 2 ^ 6
  | .PRT_CFG => (255) * 2 ^ 3 + (9216) * 2 ^ 11
  | .PRT_CT_CFG => 1 + (4) * 2 ^ 1 + (4) * 2 ^ 7 + (38) * 2 ^ 13 + (10) * 2 ^ 19
  | .PRT_CT_STATUS => 4
  | .BOB_POLICY => 1 + (150) * 2 ^ 1 + (2000) * 2 ^ 9
  | .BOB_STATUS => (65535) * 2 ^ 27
  | .BOB_LASER => (65535) * 2 ^ 37
  | .SHU_SLICE_CFG => 4096 + (100) * 2 ^ 16 + (16) * 2 ^ 32
  | .SHU_ENGINE_CTL => 1
  | .SHU_THREAD_CFG => 0x1111111111111111
  | .SHU_SHARE => (2) * 2 ^ 1 + (8) * 2 ^ 4 + (2) * 2 ^ 8 + (16) * 2 ^ 11
  | .SHU_SLOT => ((8 * ix 2 + 0) % 16) + (((8 * ix 2 + 1) % 16)) * 2 ^ 4 + (((8 * ix 2 + 2) % 16)) * 2 ^ 8 + (((8 * ix 2 + 3) % 16)) * 2 ^ 12 + (((8 * ix 2 + 4) % 16)) * 2 ^ 16 + (((8 * ix 2 + 5) % 16)) * 2 ^ 20 + (((8 * ix 2 + 6) % 16)) * 2 ^ 24 + (((8 * ix 2 + 7) % 16)) * 2 ^ 28
  | .PAT_HASH => Config.hashSeed1.toNat + (Config.hashSeed1.toNat + 1 + Config.hashSeed2.toNat % (2 ^ 32 - 1)) % 2 ^ 32 * 2 ^ 32
  | .PAT_TEL_CFG => 10
  | .SEA_CFG => 8192
  | .PLT_PORT_CLASS => (1) * 2 ^ 3 + (14337672) * 2 ^ 5 + (64) * 2 ^ 29
  | .PLT_CFG => 4096 + (5) * 2 ^ 14 + (4) * 2 ^ 17 + (16384) * 2 ^ 20 + (8192) * 2 ^ 38
  | .PLT_ING_CLASS => 64 + (4096) * 2 ^ 12 + (2048) * 2 ^ 30 + (512) * 2 ^ 48
  | .PLT_EG_CLASS => 64 + (1048576) * 2 ^ 12
  | .PLT_SPILL_CFG => 1 + (8192) * 2 ^ 1 + (1024) * 2 ^ 19
  | .PLT_ECN_CFG => 1024 + (8192) * 2 ^ 24 + (64) * 2 ^ 48 + ((if ix 1 < 7 then 1 else 0)) * 2 ^ 56
  | .PLT_PFC_CFG => (4096) * 2 ^ 1 + (100) * 2 ^ 17
  | .PLT_RX_WAIT => 100
  | .HEM_SCHED => 0x01010101010101
  | .HEM_SHAPE => (16384) * 2 ^ 21
  | .HEM_XBAR_W => 0x01010101010101
  | .HEM_LAUNCH_CFG => 1 + (1000) * 2 ^ 1 + (1) * 2 ^ 11
  | .HEM_CAL_STATUS => (255) * 2 ^ 48
  | .THM_STATUS => (24) * 2 ^ 13
  | .SEL_LINK_CFG => (2) * 2 ^ 1
  | .SEL_PF_CFG => (1) * 2 ^ 2 + (64) * 2 ^ 3 + (32) * 2 ^ 15
  | .SEL_VF_CFG => (1) * 2 ^ 2 + (32) * 2 ^ 10
  | .SPL_CFG => 256
  | .STO_TGT_CFG => (1) * 2 ^ 21 + (1) * 2 ^ 22 + (8) * 2 ^ 24 + (128) * 2 ^ 30 + (30) * 2 ^ 43 + (600) * 2 ^ 53
  | .STO_TGT_NET => (if ix 2 = 1 then 4420 * 2 ^ 48 else 0)
  | .JXL_CFG => 100 + (200) * 2 ^ 16 + (100) * 2 ^ 48
  | .JXL_LINK_CFG => (1) * 2 ^ 11 + (2000) * 2 ^ 32
  | .JXL_CREDIT => (if ix 1 = 0 then 4096 else 512)
  | .GLB_START => 1
  | .PWR_CFG => 199572709282656 + (2400) * 2 ^ 48
  | .PWR_THERM_CFG => 100 + (105) * 2 ^ 7
  | .PWR_GATE_STATUS => (12) * 2 ^ 12
  | .PIN_CFG => (if ix 0 = 20 ∨ ix 0 = 21 then 5 else if ix 0 = 22 then 6 else if ix 0 = 23 then 7 else 0) + ((if ix 0 = 20 then 1 else if ix 0 = 21 then 2 else 0)) * 2 ^ 7
  | .GLB_ERR_CFG => (64) * 2 ^ 12
  | .FIT_CFG => 1
  | .SEL_WIN_PF => (if ix 3 < 2 then 1 else 0) + ((if ix 3 = 0 then 1 else 0)) * 2 ^ 1 + ((if ix 3 = 1 then 0x3800 else 0)) * 2 ^ 18
  | .SPL_OWNER_PF => (4) * 2 ^ 1 + (16) * 2 ^ 5 + (1023) * 2 ^ 14
  | .SPL_OWNER_INST => (4) * 2 ^ 1 + (1023) * 2 ^ 14
  | .CUT_DISCARD | .CUT_OOB_ERR | .CUT_STATUS | .MBX_BIND_LOCK | .MBX_PAYLOAD | .MBX_RING
  | .MBX_PENDING | .MBX_MASK | .MBX_STATUS | .LCK_TRY | .PWR_TEMPO_STATUS | .STW_POS
  | .STW_STATUS | .STW_UNIT_CTL | .STW_STATS | .TPL_NOW | .TPL_NOW_EXT | .TPL_LOSS_POLICY
  | .TCK_HIST_CFG | .TCK_HOST_STATUS | .TPL_GOLIDE | .PRT_STATUS | .PRT_STAT | .OPT_STATUS
  | .SHU_FAULT_LAST | .SHU_DISPATCH_STATUS | .SHU_CNT | .SHU_ENTRY | .SHU_TIMER | .SHU_THREAD_STATE
  | .SHU_DISP_CNT | .SHU_CS_STAGE | .SHU_CS_COMMIT | .PAT_SCOPE_CFG | .PAT_SCOPE_CTR | .PAT_SCOPE_GAUGE
  | .PAT_SCOPE_PINS | .PAT_SCOPE_USE | .PAT_CACHE_STATUS | .PAT_CACHE_CNT | .PAT_RULE_STATUS | .PAT_PORT_ACT
  | .PAT_MALFORMED_CNT | .PAT_EPOCH | .PAT_PARKED | .PAT_TEL_STATUS | .SEA_MODE | .SEA_STATUS
  | .SEA_LANE_STATUS | .SEA_CNT | .PLT_DSCP_MAP | .PLT_OVERLOAD | .PLT_STATUS | .PLT_CNT
  | .PLT_IN_DROP | .PLT_EG_DROP | .HEM_CNT | .THM_CNT | .THM_ROOT | .THM_ROOT_ID
  | .SEL_EP_STATUS | .SEL_CNT | .SPL_CNT | .INST_STATUS | .INST_EVENT | .INST_BOOT
  | .INST_BOOT_STATUS | .STO_TGT_NQN | .STO_TGT_STATUS | .STO_NS | .STO_CNT | .JXL_SYS
  | .JXL_LINK_STATUS | .JXL_ROUTE | .JXL_CNT | .IMG_STATUS | .PWR_INPUT | .PWR_STATS
  | .PIN_STATUS | .PIN_EDGE | .GLB_ERR_STATUS | .GLB_ECC_CNT | .GLB_LOG_STATUS | .FIT_STATUS
  | .FIT_FIRE | .FIT_TRIG | .FIT_WHEN | .SEL_FREEZE_EP | .SEL_FREEZE_PF | .SEL_FREEZE_VF
  | .SEL_WIN_VF | .SPL_RING_SEND | .SPL_RING_RECV | .SPL_RING_CPL | .SPL_RING_ADMIN | .PLT_EG_DROP_H => 0

def F.GLB_ID_PART : Fld := ⟨.GLB_ID, 0, 16⟩
def F.GLB_ID_STEP_MINOR : Fld := ⟨.GLB_ID, 16, 4⟩
def F.GLB_ID_STEP_MAJOR : Fld := ⟨.GLB_ID, 20, 4⟩
def F.GLB_CAPS_SLICE_MASK : Fld := ⟨.GLB_CAPS, 0, 8⟩
def F.GLB_CAPS_ENGINES_PER_SLICE : Fld := ⟨.GLB_CAPS, 8, 8⟩
def F.GLB_CAPS_CORES_PER_SLICE : Fld := ⟨.GLB_CAPS, 16, 8⟩
def F.GLB_CAPS_PORTS : Fld := ⟨.GLB_CAPS, 24, 8⟩
def F.GLB_CAPS_HOST_LINKS : Fld := ⟨.GLB_CAPS, 32, 5⟩
def F.GLB_CAPS_HBM_GIB_DIV2 : Fld := ⟨.GLB_CAPS, 40, 8⟩
def F.GLB_CAPS_CHALK_MIB : Fld := ⟨.GLB_CAPS, 48, 9⟩
def F.CUT_CFG_MANAGER_MID : Fld := ⟨.CUT_CFG, 0, 16⟩
def F.CUT_CFG_OOB_ENABLE : Fld := ⟨.CUT_CFG, 16, 1⟩
def F.CUT_CFG_TXN_IDLE_MS : Fld := ⟨.CUT_CFG, 17, 15⟩
def F.CUT_CFG_WAIT_MS : Fld := ⟨.CUT_CFG, 32, 16⟩
def F.CUT_CFG_LEASE_MS : Fld := ⟨.CUT_CFG, 48, 16⟩
def F.CUT_DISCARD_HEADER : Fld := ⟨.CUT_DISCARD, 0, 16⟩
def F.CUT_OOB_CFG_PLCA_EN : Fld := ⟨.CUT_OOB_CFG, 0, 1⟩
def F.CUT_OOB_CFG_NODE_ID : Fld := ⟨.CUT_OOB_CFG, 1, 8⟩
def F.CUT_OOB_CFG_NODE_COUNT : Fld := ⟨.CUT_OOB_CFG, 9, 8⟩
def F.CUT_OOB_CFG_TO_TIMER : Fld := ⟨.CUT_OOB_CFG, 17, 8⟩
def F.CUT_OOB_ERR_EXCESS_COLLISIONS : Fld := ⟨.CUT_OOB_ERR, 0, 16⟩
def F.CUT_OOB_ERR_UNKNOWN_STATION : Fld := ⟨.CUT_OOB_ERR, 16, 16⟩
def F.CUT_OOB_ERR_FCS_ERRORS : Fld := ⟨.CUT_OOB_ERR, 32, 16⟩
def F.CUT_OOB_ERR_DUPLICATES : Fld := ⟨.CUT_OOB_ERR, 48, 16⟩
def F.CUT_STATUS_QUEUED : Fld := ⟨.CUT_STATUS, 0, 11⟩
def F.CUT_STATUS_TXN_OPEN : Fld := ⟨.CUT_STATUS, 11, 7⟩
def F.CUT_STATUS_OOB_STATIONS : Fld := ⟨.CUT_STATUS, 18, 5⟩
def F.CUT_STATUS_MBX_CMDS : Fld := ⟨.CUT_STATUS, 23, 7⟩
def F.CUT_STATUS_READY : Fld := ⟨.CUT_STATUS, 31, 1⟩
def F.MBX_BIND_SENDER_MID : Fld := ⟨.MBX_BIND, 0, 16⟩
def F.MBX_BIND_RECEIVER_MID : Fld := ⟨.MBX_BIND, 16, 16⟩
def F.MBX_BIND_RX_VECTOR : Fld := ⟨.MBX_BIND, 32, 11⟩
def F.MBX_BIND_TX_VECTOR : Fld := ⟨.MBX_BIND, 43, 11⟩
def F.MBX_BIND_ENABLE : Fld := ⟨.MBX_BIND, 54, 1⟩
def F.MBX_BIND_LOCK_LOCKED : Fld := ⟨.MBX_BIND_LOCK, 0, 1⟩
def F.MBX_PAYLOAD_DATA : Fld := ⟨.MBX_PAYLOAD, 0, 32⟩
def F.MBX_RING_BITS : Fld := ⟨.MBX_RING, 0, 32⟩
def F.MBX_PENDING_BITS : Fld := ⟨.MBX_PENDING, 0, 32⟩
def F.MBX_MASK_BITS : Fld := ⟨.MBX_MASK, 0, 32⟩
def F.MBX_STATUS_STATE : Fld := ⟨.MBX_STATUS, 0, 1⟩
def F.MBX_STATUS_ABORTED : Fld := ⟨.MBX_STATUS, 1, 1⟩
def F.MBX_STATUS_SENDER_GONE : Fld := ⟨.MBX_STATUS, 2, 1⟩
def F.MBX_STATUS_REFUSED : Fld := ⟨.MBX_STATUS, 3, 1⟩
def F.MBX_STATUS_LAST_RESULT : Fld := ⟨.MBX_STATUS, 16, 16⟩
def F.LCK_TRY_GRANTED : Fld := ⟨.LCK_TRY, 0, 1⟩
def F.LCK_TRY_BROKEN : Fld := ⟨.LCK_TRY, 1, 1⟩
def F.LCK_TRY_SELF : Fld := ⟨.LCK_TRY, 2, 1⟩
def F.LCK_TRY_RELEASE : Fld := ⟨.LCK_TRY, 3, 1⟩
def F.LCK_TRY_OWNER_MID : Fld := ⟨.LCK_TRY, 16, 16⟩
def F.LCK_CFG_SCOPE : Fld := ⟨.LCK_CFG, 0, 2⟩
def F.LCK_CFG_FORCE_RELEASE : Fld := ⟨.LCK_CFG, 2, 1⟩
def F.LCK_CFG_CLEAR : Fld := ⟨.LCK_CFG, 3, 1⟩
def F.LCK_CFG_INSTANCE : Fld := ⟨.LCK_CFG, 4, 12⟩
def F.PWR_TEMPO_SLICE_TEMPO : Fld := ⟨.PWR_TEMPO_SLICE, 0, 13⟩
def F.PWR_TEMPO_SLICE_TEMPO_LOW : Fld := ⟨.PWR_TEMPO_SLICE, 13, 13⟩
def F.PWR_TEMPO_SLICE_LOW_RESTART : Fld := ⟨.PWR_TEMPO_SLICE, 26, 1⟩
def F.PWR_TEMPO_SLICE_VCORE : Fld := ⟨.PWR_TEMPO_SLICE, 27, 10⟩
def F.PWR_TEMPO_SLICE_TJ : Fld := ⟨.PWR_TEMPO_SLICE, 37, 7⟩
def F.PWR_TEMPO_SLICE_BELOW_ALARM : Fld := ⟨.PWR_TEMPO_SLICE, 44, 1⟩
def F.PWR_TEMPO_HUB_TEMPO : Fld := ⟨.PWR_TEMPO_HUB, 0, 13⟩
def F.PWR_TEMPO_HUB_TEMPO_LOW : Fld := ⟨.PWR_TEMPO_HUB, 13, 13⟩
def F.PWR_TEMPO_HUB_LOW_RESTART : Fld := ⟨.PWR_TEMPO_HUB, 26, 1⟩
def F.PWR_TEMPO_HUB_VCORE : Fld := ⟨.PWR_TEMPO_HUB, 27, 10⟩
def F.PWR_TEMPO_HUB_TJ : Fld := ⟨.PWR_TEMPO_HUB, 37, 7⟩
def F.PWR_TEMPO_TARGET_TARGET : Fld := ⟨.PWR_TEMPO_TARGET, 0, 13⟩
def F.PWR_TEMPO_TARGET_ALARM : Fld := ⟨.PWR_TEMPO_TARGET, 13, 13⟩
def F.PWR_TEMPO_STATUS_MODULE_TEMPO : Fld := ⟨.PWR_TEMPO_STATUS, 0, 13⟩
def F.PWR_TEMPO_STATUS_TARGET_UNREACHED : Fld := ⟨.PWR_TEMPO_STATUS, 13, 1⟩
def F.PWR_TEMPO_STATUS_POWER_CAPPED : Fld := ⟨.PWR_TEMPO_STATUS, 14, 1⟩
def F.PWR_TEMPO_STATUS_THERMAL_LIMITED : Fld := ⟨.PWR_TEMPO_STATUS, 15, 1⟩
def F.PWR_TEMPO_STATUS_ALARM : Fld := ⟨.PWR_TEMPO_STATUS, 16, 1⟩
def F.STW_POS_STITCH : Fld := ⟨.STW_POS, 0, 8⟩
def F.STW_POS_TURN : Fld := ⟨.STW_POS, 8, 56⟩
def F.STW_STATUS_REALIGNS : Fld := ⟨.STW_STATUS, 0, 16⟩
def F.STW_STATUS_TABLE_FALLBACK : Fld := ⟨.STW_STATUS, 16, 1⟩
def F.STW_CFG_BORROW_EN : Fld := ⟨.STW_CFG, 0, 1⟩
def F.STW_CFG_LEND_EN : Fld := ⟨.STW_CFG, 1, 1⟩
def F.STW_OWN_E0 : Fld := ⟨.STW_OWN, 0, 4⟩
def F.STW_OWN_E1 : Fld := ⟨.STW_OWN, 4, 4⟩
def F.STW_OWN_E2 : Fld := ⟨.STW_OWN, 8, 4⟩
def F.STW_OWN_E3 : Fld := ⟨.STW_OWN, 12, 4⟩
def F.STW_OWN_E4 : Fld := ⟨.STW_OWN, 16, 4⟩
def F.STW_OWN_E5 : Fld := ⟨.STW_OWN, 20, 4⟩
def F.STW_OWN_E6 : Fld := ⟨.STW_OWN, 24, 4⟩
def F.STW_OWN_E7 : Fld := ⟨.STW_OWN, 28, 4⟩
def F.STW_UNIT_CTL_APPLY : Fld := ⟨.STW_UNIT_CTL, 0, 1⟩
def F.STW_UNIT_CTL_ACTIVE_BANK : Fld := ⟨.STW_UNIT_CTL, 1, 1⟩
def F.STW_UNIT_CTL_REJECT : Fld := ⟨.STW_UNIT_CTL, 2, 3⟩
def F.STW_UNIT_CTL_READ_ACTIVE : Fld := ⟨.STW_UNIT_CTL, 5, 1⟩
def F.STW_UNIT_CTL_BG_OWNED : Fld := ⟨.STW_UNIT_CTL, 16, 9⟩
def F.STW_STATS_BORROWED : Fld := ⟨.STW_STATS, 0, 16⟩
def F.STW_STATS_LENT : Fld := ⟨.STW_STATS, 16, 16⟩
def F.STW_STATS_FG_DELAYED : Fld := ⟨.STW_STATS, 32, 16⟩
def F.STW_STATS_MAX_WAIT : Fld := ⟨.STW_STATS, 48, 8⟩
def F.TPL_NOW_NS : Fld := ⟨.TPL_NOW, 0, 32⟩
def F.TPL_NOW_SEC_LO : Fld := ⟨.TPL_NOW, 32, 32⟩
def F.TPL_NOW_EXT_FRAC : Fld := ⟨.TPL_NOW_EXT, 0, 16⟩
def F.TPL_NOW_EXT_SEC_HI : Fld := ⟨.TPL_NOW_EXT, 16, 16⟩
def F.TPL_PTP_CFG_PROFILE : Fld := ⟨.TPL_PTP_CFG, 0, 2⟩
def F.TPL_PTP_CFG_DOMAIN : Fld := ⟨.TPL_PTP_CFG, 2, 8⟩
def F.TPL_PTP_CFG_PRIORITY1 : Fld := ⟨.TPL_PTP_CFG, 10, 8⟩
def F.TPL_PTP_CFG_PRIORITY2 : Fld := ⟨.TPL_PTP_CFG, 18, 8⟩
def F.TPL_PTP_CFG_MAX_CLASS : Fld := ⟨.TPL_PTP_CFG, 26, 8⟩
def F.TPL_PTP_CFG_TWO_STEP : Fld := ⟨.TPL_PTP_CFG, 34, 1⟩
def F.TPL_PTP_CFG_ENABLE : Fld := ⟨.TPL_PTP_CFG, 35, 1⟩
def F.TPL_PTP_PORT_ENABLE : Fld := ⟨.TPL_PTP_PORT, 0, 1⟩
def F.TPL_PTP_PORT_SUBPORT : Fld := ⟨.TPL_PTP_PORT, 1, 3⟩
def F.TPL_PTP_PORT_TRANSPORT : Fld := ⟨.TPL_PTP_PORT, 4, 2⟩
def F.TPL_PTP_PORT_MASTER_ONLY : Fld := ⟨.TPL_PTP_PORT, 6, 1⟩
def F.TPL_PTP_PORT_LOCAL_PRIORITY : Fld := ⟨.TPL_PTP_PORT, 8, 8⟩
def F.TPL_PTP_PORT_LOG_SYNC : Fld := ⟨.TPL_PTP_PORT, 16, 4⟩
def F.TPL_PTP_PORT_LOG_DELAY : Fld := ⟨.TPL_PTP_PORT, 20, 4⟩
def F.TPL_PTP_PORT_LOG_ANNOUNCE : Fld := ⟨.TPL_PTP_PORT, 24, 4⟩
def F.TPL_PTP_PORT_ASYMMETRY : Fld := ⟨.TPL_PTP_PORT, 28, 20⟩
def F.TPL_PTP_PORT_PORT_STATE : Fld := ⟨.TPL_PTP_PORT, 48, 4⟩
def F.TPL_SRC_ENABLE : Fld := ⟨.TPL_SRC, 0, 1⟩
def F.TPL_SRC_KIND : Fld := ⟨.TPL_SRC, 1, 3⟩
def F.TPL_SRC_PORT : Fld := ⟨.TPL_SRC, 4, 7⟩
def F.TPL_SRC_RANK : Fld := ⟨.TPL_SRC, 11, 4⟩
def F.TPL_SRC_USE_PHASE : Fld := ⟨.TPL_SRC, 15, 1⟩
def F.TPL_SRC_USE_FREQ : Fld := ⟨.TPL_SRC, 16, 1⟩
def F.TPL_SRC_DELAY_COMP : Fld := ⟨.TPL_SRC, 17, 15⟩
def F.TPL_SRC_QUALIFIED : Fld := ⟨.TPL_SRC, 32, 1⟩
def F.TPL_SRC_TRACEABLE_SRC : Fld := ⟨.TPL_SRC, 33, 1⟩
def F.TPL_SRC_FAIL : Fld := ⟨.TPL_SRC, 34, 3⟩
def F.TPL_SRC_WTR_LEFT : Fld := ⟨.TPL_SRC, 37, 11⟩
def F.TPL_SEL_HOLD_OFF_MS : Fld := ⟨.TPL_SEL, 0, 16⟩
def F.TPL_SEL_WTR_S : Fld := ⟨.TPL_SEL, 16, 11⟩
def F.TPL_SEL_PREFER_TRACEABLE : Fld := ⟨.TPL_SEL, 27, 1⟩
def F.TPL_STATE_SERVO : Fld := ⟨.TPL_STATE, 0, 2⟩
def F.TPL_STATE_TRACEABLE : Fld := ⟨.TPL_STATE, 2, 1⟩
def F.TPL_STATE_HOLD_READY : Fld := ⟨.TPL_STATE, 3, 1⟩
def F.TPL_STATE_HOLD_GRADE_A : Fld := ⟨.TPL_STATE, 4, 1⟩
def F.TPL_STATE_PHASE_SRC : Fld := ⟨.TPL_STATE, 5, 4⟩
def F.TPL_STATE_PHASE_SRC_VALID : Fld := ⟨.TPL_STATE, 9, 1⟩
def F.TPL_STATE_FREQ_SRC : Fld := ⟨.TPL_STATE, 10, 4⟩
def F.TPL_STATE_FREQ_SRC_VALID : Fld := ⟨.TPL_STATE, 14, 1⟩
def F.TPL_STATE_TRACE_EVENT : Fld := ⟨.TPL_STATE, 15, 1⟩
def F.TPL_STATE_BOUND_NS : Fld := ⟨.TPL_STATE, 16, 16⟩
def F.TPL_STATE_STEPS : Fld := ⟨.TPL_STATE, 32, 16⟩
def F.TPL_STATE_LOCK_AGE_H : Fld := ⟨.TPL_STATE, 48, 16⟩
def F.TPL_CFG_STEP_NS : Fld := ⟨.TPL_CFG, 0, 16⟩
def F.TPL_CFG_LOCK_NS : Fld := ⟨.TPL_CFG, 16, 8⟩
def F.TPL_CFG_LOCK_S : Fld := ⟨.TPL_CFG, 24, 8⟩
def F.TPL_CFG_UPSTREAM_NS : Fld := ⟨.TPL_CFG, 32, 10⟩
def F.TPL_CFG_TRACE_LIMIT_NS : Fld := ⟨.TPL_CFG, 42, 10⟩
def F.TPL_CFG_HOLD_MAX_MIN : Fld := ⟨.TPL_CFG, 52, 9⟩
def F.TPL_UTC_OFFSET : Fld := ⟨.TPL_UTC, 0, 16⟩
def F.TPL_UTC_VALID : Fld := ⟨.TPL_UTC, 16, 1⟩
def F.TPL_UTC_LEAP61 : Fld := ⟨.TPL_UTC, 17, 1⟩
def F.TPL_UTC_LEAP59 : Fld := ⟨.TPL_UTC, 18, 1⟩
def F.TPL_UTC_LEAP_AT : Fld := ⟨.TPL_UTC, 20, 32⟩
def F.TPL_LOSS_POLICY_CAL : Fld := ⟨.TPL_LOSS_POLICY, 0, 2⟩
def F.TPL_LOSS_POLICY_LAUNCH : Fld := ⟨.TPL_LOSS_POLICY, 2, 2⟩
def F.TPL_LOSS_POLICY_EPOCH : Fld := ⟨.TPL_LOSS_POLICY, 4, 2⟩
def F.TPL_LOSS_POLICY_FIT : Fld := ⟨.TPL_LOSS_POLICY, 6, 1⟩
def F.TPL_LOSS_POLICY_PPS : Fld := ⟨.TPL_LOSS_POLICY, 7, 1⟩
def F.TCK_HIST_CFG_ENABLE : Fld := ⟨.TCK_HIST_CFG, 0, 1⟩
def F.TCK_HIST_CFG_KIND : Fld := ⟨.TCK_HIST_CFG, 1, 3⟩
def F.TCK_HIST_CFG_OWNER : Fld := ⟨.TCK_HIST_CFG, 4, 12⟩
def F.TCK_HIST_CFG_OWNER_VALID : Fld := ⟨.TCK_HIST_CFG, 16, 1⟩
def F.TCK_HOST_CFG_PTM_EN : Fld := ⟨.TCK_HOST_CFG, 0, 1⟩
def F.TCK_HOST_CFG_ASYM_PS : Fld := ⟨.TCK_HOST_CFG, 1, 16⟩
def F.TCK_HOST_CFG_ASYM_UNC_PS : Fld := ⟨.TCK_HOST_CFG, 17, 12⟩
def F.TCK_HOST_STATUS_CORR_VALID : Fld := ⟨.TCK_HOST_STATUS, 0, 1⟩
def F.TCK_HOST_STATUS_PTM_ENABLED : Fld := ⟨.TCK_HOST_STATUS, 1, 1⟩
def F.TCK_HOST_STATUS_DIALOG_TIMEOUTS : Fld := ⟨.TCK_HOST_STATUS, 2, 16⟩
def F.TCK_HOST_STATUS_LINK_DELAY_PS : Fld := ⟨.TCK_HOST_STATUS, 18, 32⟩
def F.TCK_PPS_OUT_ENABLE : Fld := ⟨.TCK_PPS_OUT, 0, 1⟩
def F.TCK_PPS_OUT_PIN : Fld := ⟨.TCK_PPS_OUT, 1, 5⟩
def F.TCK_PPS_OUT_WIDTH_US : Fld := ⟨.TCK_PPS_OUT, 6, 19⟩
def F.TCK_PPS_OUT_COMP : Fld := ⟨.TCK_PPS_OUT, 25, 20⟩
def F.TCK_PPS_OUT_SQUELCHED : Fld := ⟨.TCK_PPS_OUT, 45, 1⟩
def F.TPL_GOLIDE_NEWEST_SEQ : Fld := ⟨.TPL_GOLIDE, 0, 32⟩
def F.TPL_GOLIDE_OLDEST_SEQ : Fld := ⟨.TPL_GOLIDE, 32, 32⟩
def F.PRT_CFG_ENABLE : Fld := ⟨.PRT_CFG, 0, 1⟩
def F.PRT_CFG_BREAKOUT : Fld := ⟨.PRT_CFG, 1, 2⟩
def F.PRT_CFG_SUB_EN : Fld := ⟨.PRT_CFG, 3, 8⟩
def F.PRT_CFG_MAX_FRAME : Fld := ⟨.PRT_CFG, 11, 14⟩
def F.PRT_CFG_PFC_EN : Fld := ⟨.PRT_CFG, 25, 8⟩
def F.PRT_STATUS_SUB_STATE : Fld := ⟨.PRT_STATUS, 0, 24⟩
def F.PRT_STATUS_MACSEC_ACTIVE : Fld := ⟨.PRT_STATUS, 24, 8⟩
def F.PRT_STATUS_LIGHT : Fld := ⟨.PRT_STATUS, 32, 1⟩
def F.PRT_STATUS_RX_SIGNAL : Fld := ⟨.PRT_STATUS, 33, 1⟩
def F.PRT_STATUS_LANE_LOCK : Fld := ⟨.PRT_STATUS, 34, 8⟩
def F.PRT_CT_CFG_ENABLE : Fld := ⟨.PRT_CT_CFG, 0, 1⟩
def F.PRT_CT_CFG_BASE : Fld := ⟨.PRT_CT_CFG, 1, 6⟩
def F.PRT_CT_CFG_STEP : Fld := ⟨.PRT_CT_CFG, 7, 6⟩
def F.PRT_CT_CFG_MAX : Fld := ⟨.PRT_CT_CFG, 13, 6⟩
def F.PRT_CT_CFG_DECAY_S : Fld := ⟨.PRT_CT_CFG, 19, 13⟩
def F.PRT_CT_STATUS_THRESH : Fld := ⟨.PRT_CT_STATUS, 0, 6⟩
def F.PRT_CT_STATUS_RAISES : Fld := ⟨.PRT_CT_STATUS, 6, 16⟩
def F.PRT_STAT_COUNT : Fld := ⟨.PRT_STAT, 0, 64⟩
def F.OPT_STATUS_TX_LIGHT : Fld := ⟨.OPT_STATUS, 0, 8⟩
def F.OPT_STATUS_RX_SIGNAL : Fld := ⟨.OPT_STATUS, 8, 8⟩
def F.OPT_STATUS_CAL : Fld := ⟨.OPT_STATUS, 16, 2⟩
def F.OPT_STATUS_TEMP : Fld := ⟨.OPT_STATUS, 18, 8⟩
def F.BOB_POLICY_AUTO_SPARE : Fld := ⟨.BOB_POLICY, 0, 1⟩
def F.BOB_POLICY_EOL_PCT : Fld := ⟨.BOB_POLICY, 1, 8⟩
def F.BOB_POLICY_WARN_H : Fld := ⟨.BOB_POLICY, 9, 16⟩
def F.BOB_STATUS_STATE : Fld := ⟨.BOB_STATUS, 0, 3⟩
def F.BOB_STATUS_LASER_OK : Fld := ⟨.BOB_STATUS, 3, 20⟩
def F.BOB_STATUS_SPARE_USED : Fld := ⟨.BOB_STATUS, 23, 4⟩
def F.BOB_STATUS_WORST_REMAIN_H : Fld := ⟨.BOB_STATUS, 27, 16⟩
def F.BOB_STATUS_WARN : Fld := ⟨.BOB_STATUS, 43, 1⟩
def F.BOB_STATUS_UNPREPARED_REMOVAL : Fld := ⟨.BOB_STATUS, 44, 1⟩
def F.BOB_STATUS_TEMP : Fld := ⟨.BOB_STATUS, 45, 8⟩
def F.BOB_LASER_BIAS : Fld := ⟨.BOB_LASER, 0, 10⟩
def F.BOB_LASER_BOL_BIAS : Fld := ⟨.BOB_LASER, 10, 10⟩
def F.BOB_LASER_EQ_HOURS : Fld := ⟨.BOB_LASER, 20, 17⟩
def F.BOB_LASER_REMAIN_H : Fld := ⟨.BOB_LASER, 37, 16⟩
def F.BOB_LASER_ROLE : Fld := ⟨.BOB_LASER, 53, 2⟩
def F.BOB_LASER_SERVING : Fld := ⟨.BOB_LASER, 55, 4⟩
def F.BOB_LASER_FAULT : Fld := ⟨.BOB_LASER, 59, 1⟩
def F.SHU_SLICE_CFG_STEP_LIMIT : Fld := ⟨.SHU_SLICE_CFG, 0, 16⟩
def F.SHU_SLICE_CFG_RESIDENCY_US : Fld := ⟨.SHU_SLICE_CFG, 16, 16⟩
def F.SHU_SLICE_CFG_FAULT_LIMIT : Fld := ⟨.SHU_SLICE_CFG, 32, 8⟩
def F.SHU_FAULT_LAST_ENGINE : Fld := ⟨.SHU_FAULT_LAST, 0, 8⟩
def F.SHU_FAULT_LAST_THREAD : Fld := ⟨.SHU_FAULT_LAST, 8, 4⟩
def F.SHU_FAULT_LAST_CAUSE : Fld := ⟨.SHU_FAULT_LAST, 12, 3⟩
def F.SHU_FAULT_LAST_VALID : Fld := ⟨.SHU_FAULT_LAST, 15, 1⟩
def F.SHU_FAULT_LAST_UPC : Fld := ⟨.SHU_FAULT_LAST, 16, 14⟩
def F.SHU_FAULT_LAST_VECTOR : Fld := ⟨.SHU_FAULT_LAST, 30, 5⟩
def F.SHU_FAULT_LAST_TIMER : Fld := ⟨.SHU_FAULT_LAST, 35, 1⟩
def F.SHU_FAULT_LAST_TIMER_NUM : Fld := ⟨.SHU_FAULT_LAST, 36, 6⟩
def F.SHU_DISPATCH_STATUS_IDLE_THREADS : Fld := ⟨.SHU_DISPATCH_STATUS, 0, 12⟩
def F.SHU_DISPATCH_STATUS_ENGINES_DISPATCHING : Fld := ⟨.SHU_DISPATCH_STATUS, 12, 8⟩
def F.SHU_DISPATCH_STATUS_WAITING : Fld := ⟨.SHU_DISPATCH_STATUS, 20, 16⟩
def F.SHU_DISPATCH_STATUS_SEAM_FULL : Fld := ⟨.SHU_DISPATCH_STATUS, 36, 1⟩
def F.SHU_CNT_COUNT : Fld := ⟨.SHU_CNT, 0, 64⟩
def F.SHU_ENTRY_ADDR : Fld := ⟨.SHU_ENTRY, 0, 14⟩
def F.SHU_ENTRY_ENABLE : Fld := ⟨.SHU_ENTRY, 14, 1⟩
def F.SHU_TIMER_ENABLE : Fld := ⟨.SHU_TIMER, 0, 1⟩
def F.SHU_TIMER_PERIOD_US : Fld := ⟨.SHU_TIMER, 1, 24⟩
def F.SHU_TIMER_PHASE_US : Fld := ⟨.SHU_TIMER, 25, 24⟩
def F.SHU_TIMER_ADDR : Fld := ⟨.SHU_TIMER, 49, 14⟩
def F.SHU_ENGINE_CTL_DISPATCH_EN : Fld := ⟨.SHU_ENGINE_CTL, 0, 1⟩
def F.SHU_ENGINE_CTL_QUARANTINED : Fld := ⟨.SHU_ENGINE_CTL, 1, 1⟩
def F.SHU_ENGINE_CTL_APPLY : Fld := ⟨.SHU_ENGINE_CTL, 2, 1⟩
def F.SHU_ENGINE_CTL_ACTIVE_BANK : Fld := ⟨.SHU_ENGINE_CTL, 3, 1⟩
def F.SHU_ENGINE_CTL_REJECT : Fld := ⟨.SHU_ENGINE_CTL, 4, 3⟩
def F.SHU_ENGINE_CTL_READ_ACTIVE : Fld := ⟨.SHU_ENGINE_CTL, 7, 1⟩
def F.SHU_THREAD_CFG_WEIGHT (t : Nat) : Fld := ⟨.SHU_THREAD_CFG, 4 * t, 4⟩
def F.SHU_SHARE_MODE : Fld := ⟨.SHU_SHARE, 0, 1⟩
def F.SHU_SHARE_CREDIT_MIN : Fld := ⟨.SHU_SHARE, 1, 3⟩
def F.SHU_SHARE_CREDIT_MAX : Fld := ⟨.SHU_SHARE, 4, 4⟩
def F.SHU_SHARE_CELL_MIN : Fld := ⟨.SHU_SHARE, 8, 3⟩
def F.SHU_SHARE_CELL_MAX : Fld := ⟨.SHU_SHARE, 11, 6⟩
def F.SHU_THREAD_STATE_STATE (t : Nat) : Fld := ⟨.SHU_THREAD_STATE, 3 * t, 3⟩
def F.SHU_SLOT_E0 : Fld := ⟨.SHU_SLOT, 0, 4⟩
def F.SHU_SLOT_E1 : Fld := ⟨.SHU_SLOT, 4, 4⟩
def F.SHU_SLOT_E2 : Fld := ⟨.SHU_SLOT, 8, 4⟩
def F.SHU_SLOT_E3 : Fld := ⟨.SHU_SLOT, 12, 4⟩
def F.SHU_SLOT_E4 : Fld := ⟨.SHU_SLOT, 16, 4⟩
def F.SHU_SLOT_E5 : Fld := ⟨.SHU_SLOT, 20, 4⟩
def F.SHU_SLOT_E6 : Fld := ⟨.SHU_SLOT, 24, 4⟩
def F.SHU_SLOT_E7 : Fld := ⟨.SHU_SLOT, 28, 4⟩
def F.SHU_DISP_CNT_COUNT : Fld := ⟨.SHU_DISP_CNT, 0, 64⟩
def F.SHU_CS_STAGE_DATA : Fld := ⟨.SHU_CS_STAGE, 0, 64⟩
def F.SHU_CS_COMMIT_ADDR : Fld := ⟨.SHU_CS_COMMIT, 0, 14⟩
def F.SHU_CS_COMMIT_CLUSTERS : Fld := ⟨.SHU_CS_COMMIT, 14, 10⟩
def F.SHU_CS_COMMIT_GO : Fld := ⟨.SHU_CS_COMMIT, 24, 1⟩
def F.SHU_CS_COMMIT_RESULT : Fld := ⟨.SHU_CS_COMMIT, 25, 2⟩
def F.SHU_CS_COMMIT_PATCHES : Fld := ⟨.SHU_CS_COMMIT, 27, 11⟩
def F.PAT_SCOPE_CFG_KIND : Fld := ⟨.PAT_SCOPE_CFG, 0, 2⟩
def F.PAT_SCOPE_CFG_KEY_WORDS : Fld := ⟨.PAT_SCOPE_CFG, 2, 3⟩
def F.PAT_SCOPE_CFG_OWNER_VALID : Fld := ⟨.PAT_SCOPE_CFG, 5, 1⟩
def F.PAT_SCOPE_CFG_OWNER : Fld := ⟨.PAT_SCOPE_CFG, 6, 12⟩
def F.PAT_SCOPE_CFG_SLICE_MASK : Fld := ⟨.PAT_SCOPE_CFG, 18, 8⟩
def F.PAT_SCOPE_CFG_QUOTA : Fld := ⟨.PAT_SCOPE_CFG, 32, 32⟩
def F.PAT_SCOPE_CTR_CTR_BASE : Fld := ⟨.PAT_SCOPE_CTR, 0, 22⟩
def F.PAT_SCOPE_CTR_CTR_COUNT : Fld := ⟨.PAT_SCOPE_CTR, 22, 23⟩
def F.PAT_SCOPE_GAUGE_OFF (t : Nat) : Fld := ⟨.PAT_SCOPE_GAUGE, 16 * t, 9⟩
def F.PAT_SCOPE_GAUGE_WIDTH (t : Nat) : Fld := ⟨.PAT_SCOPE_GAUGE, 16 * t + 9, 5⟩
def F.PAT_SCOPE_GAUGE_EN (t : Nat) : Fld := ⟨.PAT_SCOPE_GAUGE, 16 * t + 14, 1⟩
def F.PAT_SCOPE_PINS_PIN_QUOTA : Fld := ⟨.PAT_SCOPE_PINS, 0, 21⟩
def F.PAT_SCOPE_PINS_PINS_USED : Fld := ⟨.PAT_SCOPE_PINS, 32, 21⟩
def F.PAT_SCOPE_USE_USED : Fld := ⟨.PAT_SCOPE_USE, 0, 32⟩
def F.PAT_SCOPE_USE_RULE_LOST : Fld := ⟨.PAT_SCOPE_USE, 32, 8⟩
def F.PAT_HASH_SEED1 : Fld := ⟨.PAT_HASH, 0, 32⟩
def F.PAT_HASH_SEED2 : Fld := ⟨.PAT_HASH, 32, 32⟩
def F.PAT_CACHE_STATUS_FILLS_OUT : Fld := ⟨.PAT_CACHE_STATUS, 0, 13⟩
def F.PAT_CACHE_STATUS_LINES : Fld := ⟨.PAT_CACHE_STATUS, 13, 21⟩
def F.PAT_CACHE_STATUS_NEG_LINES : Fld := ⟨.PAT_CACHE_STATUS, 34, 21⟩
def F.PAT_CACHE_CNT_COUNT : Fld := ⟨.PAT_CACHE_CNT, 0, 64⟩
def F.PAT_RULE_STATUS_RULES_USED : Fld := ⟨.PAT_RULE_STATUS, 0, 17⟩
def F.PAT_PORT_ACT_WORD : Fld := ⟨.PAT_PORT_ACT, 0, 64⟩
def F.PAT_MALFORMED_CNT_COUNT : Fld := ⟨.PAT_MALFORMED_CNT, 0, 64⟩
def F.PAT_EPOCH_CURRENT : Fld := ⟨.PAT_EPOCH, 0, 32⟩
def F.PAT_EPOCH_OLDEST_LIVE : Fld := ⟨.PAT_EPOCH, 32, 32⟩
def F.PAT_PARKED_SLOTS : Fld := ⟨.PAT_PARKED, 0, 29⟩
def F.PAT_PARKED_PINS : Fld := ⟨.PAT_PARKED, 29, 21⟩
def F.PAT_PARKED_TAGS : Fld := ⟨.PAT_PARKED, 50, 7⟩
def F.PAT_TEL_CFG_FLUSH_EXP : Fld := ⟨.PAT_TEL_CFG, 0, 4⟩
def F.PAT_TEL_STATUS_FLUSH_LATE : Fld := ⟨.PAT_TEL_STATUS, 0, 16⟩
def F.PAT_TEL_STATUS_SATURATED : Fld := ⟨.PAT_TEL_STATUS, 16, 16⟩
def F.PAT_TEL_STATUS_STRAY : Fld := ⟨.PAT_TEL_STATUS, 32, 16⟩
def F.SEA_CFG_LANE_LIMIT : Fld := ⟨.SEA_CFG, 0, 16⟩
def F.SEA_MODE_FREE (t : Nat) : Fld := ⟨.SEA_MODE, 1 * t, 1⟩
def F.SEA_STATUS_IN_USE : Fld := ⟨.SEA_STATUS, 0, 16⟩
def F.SEA_STATUS_NEXT_SEQ : Fld := ⟨.SEA_STATUS, 16, 24⟩
def F.SEA_STATUS_OLDEST_SEQ : Fld := ⟨.SEA_STATUS, 40, 24⟩
def F.SEA_LANE_STATUS_FULLEST : Fld := ⟨.SEA_LANE_STATUS, 0, 16⟩
def F.SEA_LANE_STATUS_FULLEST_LANE : Fld := ⟨.SEA_LANE_STATUS, 16, 12⟩
def F.SEA_LANE_STATUS_AT_LIMIT : Fld := ⟨.SEA_LANE_STATUS, 28, 1⟩
def F.SEA_LANE_STATUS_HOLD_MAX : Fld := ⟨.SEA_LANE_STATUS, 32, 16⟩
def F.SEA_CNT_COUNT : Fld := ⟨.SEA_CNT, 0, 64⟩
def F.PLT_PORT_CLASS_DEFAULT_TC : Fld := ⟨.PLT_PORT_CLASS, 0, 3⟩
def F.PLT_PORT_CLASS_TRUST : Fld := ⟨.PLT_PORT_CLASS, 3, 2⟩
def F.PLT_PORT_CLASS_PCP_MAP : Fld := ⟨.PLT_PORT_CLASS, 5, 24⟩
def F.PLT_PORT_CLASS_CTRL_KPPS : Fld := ⟨.PLT_PORT_CLASS, 29, 16⟩
def F.PLT_DSCP_MAP_CLASS (t : Nat) : Fld := ⟨.PLT_DSCP_MAP, 3 * t, 3⟩
def F.PLT_CFG_CTRL_RESERVE : Fld := ⟨.PLT_CFG, 0, 14⟩
def F.PLT_CFG_IN_ALPHA : Fld := ⟨.PLT_CFG, 14, 3⟩
def F.PLT_CFG_EG_ALPHA : Fld := ⟨.PLT_CFG, 17, 3⟩
def F.PLT_CFG_VOQ_MAX : Fld := ⟨.PLT_CFG, 20, 18⟩
def F.PLT_CFG_RECIRC_MAX : Fld := ⟨.PLT_CFG, 38, 18⟩
def F.PLT_ING_CLASS_IN_MIN : Fld := ⟨.PLT_ING_CLASS, 0, 12⟩
def F.PLT_ING_CLASS_IN_MAX : Fld := ⟨.PLT_ING_CLASS, 12, 18⟩
def F.PLT_ING_CLASS_XOFF : Fld := ⟨.PLT_ING_CLASS, 30, 18⟩
def F.PLT_ING_CLASS_XON_GAP : Fld := ⟨.PLT_ING_CLASS, 48, 16⟩
def F.PLT_EG_CLASS_EG_MIN : Fld := ⟨.PLT_EG_CLASS, 0, 12⟩
def F.PLT_EG_CLASS_EG_MAX : Fld := ⟨.PLT_EG_CLASS, 12, 24⟩
def F.PLT_SPILL_CFG_SPILL_EN : Fld := ⟨.PLT_SPILL_CFG, 0, 1⟩
def F.PLT_SPILL_CFG_SPILL_DEPTH : Fld := ⟨.PLT_SPILL_CFG, 1, 18⟩
def F.PLT_SPILL_CFG_REFILL : Fld := ⟨.PLT_SPILL_CFG, 19, 18⟩
def F.PLT_ECN_CFG_KMIN : Fld := ⟨.PLT_ECN_CFG, 0, 24⟩
def F.PLT_ECN_CFG_KMAX : Fld := ⟨.PLT_ECN_CFG, 24, 24⟩
def F.PLT_ECN_CFG_PMAX : Fld := ⟨.PLT_ECN_CFG, 48, 8⟩
def F.PLT_ECN_CFG_ECN_EN : Fld := ⟨.PLT_ECN_CFG, 56, 1⟩
def F.PLT_PFC_CFG_LOSSLESS : Fld := ⟨.PLT_PFC_CFG, 0, 1⟩
def F.PLT_PFC_CFG_HEADROOM : Fld := ⟨.PLT_PFC_CFG, 1, 16⟩
def F.PLT_PFC_CFG_WD_MS : Fld := ⟨.PLT_PFC_CFG, 17, 16⟩
def F.PLT_RX_WAIT_WAIT_US : Fld := ⟨.PLT_RX_WAIT, 0, 16⟩
def F.PLT_OVERLOAD_DISPATCH_BOUND : Fld := ⟨.PLT_OVERLOAD, 0, 1⟩
def F.PLT_OVERLOAD_SEAM_BOUND : Fld := ⟨.PLT_OVERLOAD, 1, 1⟩
def F.PLT_OVERLOAD_CROSS_BOUND : Fld := ⟨.PLT_OVERLOAD, 2, 1⟩
def F.PLT_OVERLOAD_EGRESS_BOUND : Fld := ⟨.PLT_OVERLOAD, 3, 1⟩
def F.PLT_OVERLOAD_SPILL_BOUND : Fld := ⟨.PLT_OVERLOAD, 4, 1⟩
def F.PLT_OVERLOAD_HOST_WAIT : Fld := ⟨.PLT_OVERLOAD, 5, 1⟩
def F.PLT_OVERLOAD_TEMPO_LOW : Fld := ⟨.PLT_OVERLOAD, 6, 1⟩
def F.PLT_OVERLOAD_PFC_ACTIVE : Fld := ⟨.PLT_OVERLOAD, 7, 1⟩
def F.PLT_OVERLOAD_DROP_CLASSES : Fld := ⟨.PLT_OVERLOAD, 8, 8⟩
def F.PLT_OVERLOAD_EVENT : Fld := ⟨.PLT_OVERLOAD, 16, 1⟩
def F.PLT_STATUS_SHARED_FREE : Fld := ⟨.PLT_STATUS, 0, 19⟩
def F.PLT_STATUS_CTRL_USED : Fld := ⟨.PLT_STATUS, 19, 14⟩
def F.PLT_STATUS_SPILL_USED : Fld := ⟨.PLT_STATUS, 33, 25⟩
def F.PLT_CNT_COUNT : Fld := ⟨.PLT_CNT, 0, 64⟩
def F.PLT_IN_DROP_COUNT : Fld := ⟨.PLT_IN_DROP, 0, 64⟩
def F.PLT_EG_DROP_COUNT : Fld := ⟨.PLT_EG_DROP, 0, 64⟩
def F.HEM_SCHED_WEIGHT (t : Nat) : Fld := ⟨.HEM_SCHED, 8 * t, 7⟩
def F.HEM_SCHED_STRICT (t : Nat) : Fld := ⟨.HEM_SCHED, 8 * t + 7, 1⟩
def F.HEM_SHAPE_RATE_MBPS : Fld := ⟨.HEM_SHAPE, 0, 21⟩
def F.HEM_SHAPE_BURST : Fld := ⟨.HEM_SHAPE, 21, 24⟩
def F.HEM_XBAR_W_W (t : Nat) : Fld := ⟨.HEM_XBAR_W, 8 * t, 8⟩
def F.HEM_LAUNCH_CFG_LATE : Fld := ⟨.HEM_LAUNCH_CFG, 0, 1⟩
def F.HEM_LAUNCH_CFG_HORIZON_MS : Fld := ⟨.HEM_LAUNCH_CFG, 1, 10⟩
def F.HEM_LAUNCH_CFG_GUARD_EN : Fld := ⟨.HEM_LAUNCH_CFG, 11, 1⟩
def F.HEM_CAL_STATUS_ACTIVE : Fld := ⟨.HEM_CAL_STATUS, 0, 1⟩
def F.HEM_CAL_STATUS_PENDING : Fld := ⟨.HEM_CAL_STATUS, 1, 1⟩
def F.HEM_CAL_STATUS_OVERRIDE : Fld := ⟨.HEM_CAL_STATUS, 2, 1⟩
def F.HEM_CAL_STATUS_REALIGNING : Fld := ⟨.HEM_CAL_STATUS, 3, 1⟩
def F.HEM_CAL_STATUS_ENTRY : Fld := ⟨.HEM_CAL_STATUS, 4, 12⟩
def F.HEM_CAL_STATUS_CYCLE_NUM : Fld := ⟨.HEM_CAL_STATUS, 16, 32⟩
def F.HEM_CAL_STATUS_GATES : Fld := ⟨.HEM_CAL_STATUS, 48, 8⟩
def F.HEM_CNT_COUNT : Fld := ⟨.HEM_CNT, 0, 64⟩
def F.THM_STATUS_IN_FLIGHT : Fld := ⟨.THM_STATUS, 0, 13⟩
def F.THM_STATUS_CORES_OK : Fld := ⟨.THM_STATUS, 13, 5⟩
def F.THM_STATUS_CTX_USED : Fld := ⟨.THM_STATUS, 18, 16⟩
def F.THM_CNT_COUNT : Fld := ⟨.THM_CNT, 0, 64⟩
def F.THM_ROOT_STATE : Fld := ⟨.THM_ROOT, 0, 2⟩
def F.THM_ROOT_INCARNATION : Fld := ⟨.THM_ROOT, 2, 32⟩
def F.THM_ROOT_EXHAUSTED : Fld := ⟨.THM_ROOT, 34, 1⟩
def F.THM_ROOT_CONTEXTS : Fld := ⟨.THM_ROOT, 35, 19⟩
def F.THM_ROOT_ID_ROOT_ID : Fld := ⟨.THM_ROOT_ID, 0, 32⟩
def F.SEL_LINK_CFG_SPLIT : Fld := ⟨.SEL_LINK_CFG, 0, 1⟩
def F.SEL_LINK_CFG_MAX_RATE : Fld := ⟨.SEL_LINK_CFG, 1, 2⟩
def F.SEL_EP_STATUS_LINK_UP : Fld := ⟨.SEL_EP_STATUS, 0, 1⟩
def F.SEL_EP_STATUS_RATE : Fld := ⟨.SEL_EP_STATUS, 1, 2⟩
def F.SEL_EP_STATUS_WIDTH : Fld := ⟨.SEL_EP_STATUS, 3, 5⟩
def F.SEL_EP_STATUS_FLIT : Fld := ⟨.SEL_EP_STATUS, 8, 1⟩
def F.SEL_EP_STATUS_PRESENT : Fld := ⟨.SEL_EP_STATUS, 9, 1⟩
def F.SEL_PF_CFG_FENCE : Fld := ⟨.SEL_PF_CFG, 0, 2⟩
def F.SEL_PF_CFG_RO_DATA : Fld := ⟨.SEL_PF_CFG, 2, 1⟩
def F.SEL_PF_CFG_VECTORS : Fld := ⟨.SEL_PF_CFG, 3, 12⟩
def F.SEL_PF_CFG_FENCE_BATCH : Fld := ⟨.SEL_PF_CFG, 15, 9⟩
def F.SEL_PF_CFG_SUBSYS_ID : Fld := ⟨.SEL_PF_CFG, 24, 16⟩
def F.SEL_VF_CFG_FENCE : Fld := ⟨.SEL_VF_CFG, 0, 2⟩
def F.SEL_VF_CFG_RO_DATA : Fld := ⟨.SEL_VF_CFG, 2, 1⟩
def F.SEL_VF_CFG_VECTORS : Fld := ⟨.SEL_VF_CFG, 3, 7⟩
def F.SEL_VF_CFG_FENCE_BATCH : Fld := ⟨.SEL_VF_CFG, 10, 9⟩
def F.SEL_CNT_COUNT : Fld := ⟨.SEL_CNT, 0, 64⟩
def F.SPL_CFG_POLL_MAX : Fld := ⟨.SPL_CFG, 0, 10⟩
def F.SPL_CNT_COUNT : Fld := ⟨.SPL_CNT, 0, 64⟩
def F.INST_STATUS_INSTANCE : Fld := ⟨.INST_STATUS, 0, 12⟩
def F.INST_STATUS_KIND : Fld := ⟨.INST_STATUS, 12, 1⟩
def F.INST_STATUS_FIXED_SHARE : Fld := ⟨.INST_STATUS, 13, 1⟩
def F.INST_STATUS_STATE : Fld := ⟨.INST_STATUS, 14, 3⟩
def F.INST_STATUS_GENERATION : Fld := ⟨.INST_STATUS, 32, 16⟩
def F.INST_STATUS_ENDPOINT : Fld := ⟨.INST_STATUS, 48, 5⟩
def F.INST_STATUS_VF : Fld := ⟨.INST_STATUS, 53, 10⟩
def F.INST_EVENT_RESIZED : Fld := ⟨.INST_EVENT, 0, 1⟩
def F.INST_EVENT_RESUMED : Fld := ⟨.INST_EVENT, 1, 1⟩
def F.INST_EVENT_RESTORED : Fld := ⟨.INST_EVENT, 2, 1⟩
def F.INST_EVENT_BOOT_DONE : Fld := ⟨.INST_EVENT, 3, 1⟩
def F.INST_EVENT_VECTOR : Fld := ⟨.INST_EVENT, 16, 6⟩
def F.INST_EVENT_VEC_EN : Fld := ⟨.INST_EVENT, 22, 1⟩
def F.INST_BOOT_GO : Fld := ⟨.INST_BOOT, 0, 1⟩
def F.INST_BOOT_ADDR : Fld := ⟨.INST_BOOT, 6, 58⟩
def F.INST_BOOT_STATUS_STATUS : Fld := ⟨.INST_BOOT_STATUS, 0, 16⟩
def F.INST_BOOT_STATUS_ADMIN : Fld := ⟨.INST_BOOT_STATUS, 16, 12⟩
def F.INST_BOOT_STATUS_REPLY : Fld := ⟨.INST_BOOT_STATUS, 32, 16⟩
def F.STO_TGT_CFG_ENABLE : Fld := ⟨.STO_TGT_CFG, 0, 1⟩
def F.STO_TGT_CFG_PORT : Fld := ⟨.STO_TGT_CFG, 1, 7⟩
def F.STO_TGT_CFG_SUB : Fld := ⟨.STO_TGT_CFG, 8, 3⟩
def F.STO_TGT_CFG_CLASS : Fld := ⟨.STO_TGT_CFG, 11, 3⟩
def F.STO_TGT_CFG_TLS : Fld := ⟨.STO_TGT_CFG, 14, 1⟩
def F.STO_TGT_CFG_PSK_SLOT : Fld := ⟨.STO_TGT_CFG, 15, 6⟩
def F.STO_TGT_CFG_HDGST : Fld := ⟨.STO_TGT_CFG, 21, 1⟩
def F.STO_TGT_CFG_DDGST : Fld := ⟨.STO_TGT_CFG, 22, 1⟩
def F.STO_TGT_CFG_REQUIRE_DGST : Fld := ⟨.STO_TGT_CFG, 23, 1⟩
def F.STO_TGT_CFG_IOQ : Fld := ⟨.STO_TGT_CFG, 24, 6⟩
def F.STO_TGT_CFG_QDEPTH : Fld := ⟨.STO_TGT_CFG, 30, 13⟩
def F.STO_TGT_CFG_IO_WAIT_S : Fld := ⟨.STO_TGT_CFG, 43, 10⟩
def F.STO_TGT_CFG_CTRL_LOSS_S : Fld := ⟨.STO_TGT_CFG, 53, 11⟩
def F.STO_TGT_NET_WORD : Fld := ⟨.STO_TGT_NET, 0, 64⟩
def F.STO_TGT_NQN_NQN : Fld := ⟨.STO_TGT_NQN, 0, 64⟩
def F.STO_TGT_STATUS_STATE : Fld := ⟨.STO_TGT_STATUS, 0, 3⟩
def F.STO_TGT_STATUS_LIVE_IOQ : Fld := ⟨.STO_TGT_STATUS, 3, 6⟩
def F.STO_TGT_STATUS_HDGST_ON : Fld := ⟨.STO_TGT_STATUS, 9, 1⟩
def F.STO_TGT_STATUS_DDGST_ON : Fld := ⟨.STO_TGT_STATUS, 10, 1⟩
def F.STO_TGT_STATUS_REMOTE_CNTLID : Fld := ⟨.STO_TGT_STATUS, 11, 16⟩
def F.STO_TGT_STATUS_RETRIES : Fld := ⟨.STO_TGT_STATUS, 27, 16⟩
def F.STO_TGT_STATUS_LAST_LOSS : Fld := ⟨.STO_TGT_STATUS, 43, 4⟩
def F.STO_NS_VALID : Fld := ⟨.STO_NS, 0, 1⟩
def F.STO_NS_TARGET : Fld := ⟨.STO_NS, 1, 6⟩
def F.STO_NS_READ_ONLY : Fld := ⟨.STO_NS, 7, 1⟩
def F.STO_NS_REMOTE_NSID : Fld := ⟨.STO_NS, 8, 32⟩
def F.STO_CNT_COUNT : Fld := ⟨.STO_CNT, 0, 64⟩
def F.JXL_SYS_MODULE : Fld := ⟨.JXL_SYS, 0, 6⟩
def F.JXL_SYS_ROLE : Fld := ⟨.JXL_SYS, 6, 2⟩
def F.JXL_SYS_SYSTEM_ID : Fld := ⟨.JXL_SYS, 8, 32⟩
def F.JXL_SYS_ANCHOR_SEEN : Fld := ⟨.JXL_SYS, 40, 1⟩
def F.JXL_SYS_MEMBERS : Fld := ⟨.JXL_SYS, 41, 7⟩
def F.JXL_CFG_HELLO_US : Fld := ⟨.JXL_CFG, 0, 16⟩
def F.JXL_CFG_FWD_TIMEOUT_MS : Fld := ⟨.JXL_CFG, 16, 16⟩
def F.JXL_CFG_ORPHAN_S : Fld := ⟨.JXL_CFG, 32, 16⟩
def F.JXL_CFG_MARK_US : Fld := ⟨.JXL_CFG, 48, 16⟩
def F.JXL_LINK_CFG_ENABLE : Fld := ⟨.JXL_LINK_CFG, 0, 1⟩
def F.JXL_LINK_CFG_PORT : Fld := ⟨.JXL_LINK_CFG, 1, 7⟩
def F.JXL_LINK_CFG_SUB : Fld := ⟨.JXL_LINK_CFG, 8, 3⟩
def F.JXL_LINK_CFG_DICT_EN : Fld := ⟨.JXL_LINK_CFG, 11, 1⟩
def F.JXL_LINK_CFG_ASYM_PS : Fld := ⟨.JXL_LINK_CFG, 12, 20⟩
def F.JXL_LINK_CFG_ASYM_UNC_PS : Fld := ⟨.JXL_LINK_CFG, 32, 12⟩
def F.JXL_LINK_STATUS_STATE : Fld := ⟨.JXL_LINK_STATUS, 0, 3⟩
def F.JXL_LINK_STATUS_PEER_MODULE : Fld := ⟨.JXL_LINK_STATUS, 3, 6⟩
def F.JXL_LINK_STATUS_PEER_IN_SYSTEM : Fld := ⟨.JXL_LINK_STATUS, 9, 1⟩
def F.JXL_LINK_STATUS_PEER_LINK : Fld := ⟨.JXL_LINK_STATUS, 10, 5⟩
def F.JXL_LINK_STATUS_TX_CONFIRMED : Fld := ⟨.JXL_LINK_STATUS, 15, 9⟩
def F.JXL_LINK_STATUS_TOWARD_ANCHOR : Fld := ⟨.JXL_LINK_STATUS, 24, 1⟩
def F.JXL_LINK_STATUS_PATH_DELAY_PS : Fld := ⟨.JXL_LINK_STATUS, 32, 32⟩
def F.JXL_CREDIT_GRANT : Fld := ⟨.JXL_CREDIT, 0, 18⟩
def F.JXL_CREDIT_SLOTTED : Fld := ⟨.JXL_CREDIT, 18, 1⟩
def F.JXL_CREDIT_SLOT_CELLS : Fld := ⟨.JXL_CREDIT, 19, 18⟩
def F.JXL_CREDIT_SLOT_REFUSED : Fld := ⟨.JXL_CREDIT, 37, 1⟩
def F.JXL_CREDIT_AVAIL : Fld := ⟨.JXL_CREDIT, 38, 18⟩
def F.JXL_ROUTE_NEXT_LINK : Fld := ⟨.JXL_ROUTE, 0, 5⟩
def F.JXL_ROUTE_VALID : Fld := ⟨.JXL_ROUTE, 5, 1⟩
def F.JXL_ROUTE_HOPS : Fld := ⟨.JXL_ROUTE, 6, 4⟩
def F.JXL_CNT_COUNT : Fld := ⟨.JXL_CNT, 0, 64⟩
def F.GLB_START_PHASE : Fld := ⟨.GLB_START, 0, 3⟩
def F.GLB_START_CFG_BANK : Fld := ⟨.GLB_START, 3, 1⟩
def F.GLB_START_CFG_FACTORY : Fld := ⟨.GLB_START, 4, 1⟩
def F.GLB_START_CFG_PARTIAL : Fld := ⟨.GLB_START, 5, 1⟩
def F.GLB_START_FACTORY_CLEARED : Fld := ⟨.GLB_START, 6, 1⟩
def F.GLB_START_CLEAR_PENDING : Fld := ⟨.GLB_START, 7, 1⟩
def F.GLB_START_OSC_WARM : Fld := ⟨.GLB_START, 8, 1⟩
def F.GLB_START_READY_MS : Fld := ⟨.GLB_START, 16, 16⟩
def F.GLB_START_BOOT : Fld := ⟨.GLB_START, 32, 32⟩
def F.IMG_STATUS_CHECK : Fld := ⟨.IMG_STATUS, 0, 4⟩
def F.IMG_STATUS_INSTALL_RESUMED : Fld := ⟨.IMG_STATUS, 4, 1⟩
def F.IMG_STATUS_RECOVERY : Fld := ⟨.IMG_STATUS, 5, 1⟩
def F.IMG_STATUS_INSTALL_DONE : Fld := ⟨.IMG_STATUS, 6, 1⟩
def F.IMG_STATUS_KEY_ID : Fld := ⟨.IMG_STATUS, 8, 8⟩
def F.IMG_STATUS_IMAGE_GEN : Fld := ⟨.IMG_STATUS, 32, 32⟩
def F.PWR_INPUT_VIN_MV : Fld := ⟨.PWR_INPUT, 0, 16⟩
def F.PWR_INPUT_IIN : Fld := ⟨.PWR_INPUT, 16, 16⟩
def F.PWR_INPUT_POWER_W : Fld := ⟨.PWR_INPUT, 32, 12⟩
def F.PWR_INPUT_BAND : Fld := ⟨.PWR_INPUT, 44, 3⟩
def F.PWR_INPUT_CUR_LIMIT : Fld := ⟨.PWR_INPUT, 47, 1⟩
def F.PWR_INPUT_BAND_EVENT : Fld := ⟨.PWR_INPUT, 48, 1⟩
def F.PWR_CFG_OE_ORDER : Fld := ⟨.PWR_CFG, 0, 48⟩
def F.PWR_CFG_POWER_CAP_W : Fld := ⟨.PWR_CFG, 48, 12⟩
def F.PWR_THERM_CFG_TJ_LIMIT : Fld := ⟨.PWR_THERM_CFG, 0, 7⟩
def F.PWR_THERM_CFG_TJ_GATE : Fld := ⟨.PWR_THERM_CFG, 7, 7⟩
def F.PWR_GATE_STATUS_GATED_OE : Fld := ⟨.PWR_GATE_STATUS, 0, 12⟩
def F.PWR_GATE_STATUS_OE_CEILING : Fld := ⟨.PWR_GATE_STATUS, 12, 4⟩
def F.PWR_GATE_STATUS_BAND : Fld := ⟨.PWR_GATE_STATUS, 16, 1⟩
def F.PWR_GATE_STATUS_CAP : Fld := ⟨.PWR_GATE_STATUS, 17, 1⟩
def F.PWR_GATE_STATUS_THERMAL : Fld := ⟨.PWR_GATE_STATUS, 18, 1⟩
def F.PWR_GATE_STATUS_RIDE_THROUGH : Fld := ⟨.PWR_GATE_STATUS, 19, 1⟩
def F.PWR_GATE_STATUS_GATE_EVENT : Fld := ⟨.PWR_GATE_STATUS, 20, 1⟩
def F.PWR_STATS_GATINGS : Fld := ⟨.PWR_STATS, 0, 16⟩
def F.PWR_STATS_CUR_LIMIT_TURNS : Fld := ⟨.PWR_STATS, 16, 16⟩
def F.PWR_STATS_THERMAL_TURNS : Fld := ⟨.PWR_STATS, 32, 16⟩
def F.PIN_CFG_FUNC : Fld := ⟨.PIN_CFG, 0, 4⟩
def F.PIN_CFG_LEVEL : Fld := ⟨.PIN_CFG, 4, 1⟩
def F.PIN_CFG_EDGE : Fld := ⟨.PIN_CFG, 5, 2⟩
def F.PIN_CFG_LED_SRC : Fld := ⟨.PIN_CFG, 7, 3⟩
def F.PIN_CFG_LED_PORT : Fld := ⟨.PIN_CFG, 10, 7⟩
def F.PIN_CFG_LED_PAT : Fld := ⟨.PIN_CFG, 17, 2⟩
def F.PIN_STATUS_IN : Fld := ⟨.PIN_STATUS, 0, 24⟩
def F.PIN_STATUS_HOLD : Fld := ⟨.PIN_STATUS, 24, 24⟩
def F.PIN_EDGE_EDGE : Fld := ⟨.PIN_EDGE, 0, 24⟩
def F.PIN_EDGE_VEC_EN : Fld := ⟨.PIN_EDGE, 24, 1⟩
def F.PIN_EDGE_VECTOR : Fld := ⟨.PIN_EDGE, 25, 7⟩
def F.GLB_ERR_STATUS_CLASS : Fld := ⟨.GLB_ERR_STATUS, 1, 6⟩
def F.GLB_ERR_STATUS_LOG_LOST : Fld := ⟨.GLB_ERR_STATUS, 7, 1⟩
def F.GLB_ERR_STATUS_ACCESS : Fld := ⟨.GLB_ERR_STATUS, 8, 1⟩
def F.GLB_ERR_CFG_VECTOR : Fld := ⟨.GLB_ERR_CFG, 0, 11⟩
def F.GLB_ERR_CFG_VEC_EN : Fld := ⟨.GLB_ERR_CFG, 11, 1⟩
def F.GLB_ERR_CFG_CE_THRESH : Fld := ⟨.GLB_ERR_CFG, 12, 16⟩
def F.GLB_ECC_CNT_COUNT : Fld := ⟨.GLB_ECC_CNT, 0, 64⟩
def F.GLB_LOG_STATUS_QUEUED : Fld := ⟨.GLB_LOG_STATUS, 0, 11⟩
def F.GLB_LOG_STATUS_LOST : Fld := ⟨.GLB_LOG_STATUS, 32, 16⟩
def F.FIT_CFG_KEEP : Fld := ⟨.FIT_CFG, 0, 1⟩
def F.FIT_STATUS_FULL : Fld := ⟨.FIT_STATUS, 0, 2⟩
def F.FIT_STATUS_NEWER : Fld := ⟨.FIT_STATUS, 2, 1⟩
def F.FIT_STATUS_ARMED : Fld := ⟨.FIT_STATUS, 3, 8⟩
def F.FIT_STATUS_MISSED : Fld := ⟨.FIT_STATUS, 32, 16⟩
def F.FIT_FIRE_FIRE : Fld := ⟨.FIT_FIRE, 0, 1⟩
def F.FIT_FIRE_CLEAR : Fld := ⟨.FIT_FIRE, 1, 1⟩
def F.FIT_TRIG_SOURCE : Fld := ⟨.FIT_TRIG, 0, 3⟩
def F.FIT_TRIG_CLEAR : Fld := ⟨.FIT_TRIG, 3, 1⟩
def F.FIT_TRIG_ONE_SHOT : Fld := ⟨.FIT_TRIG, 4, 1⟩
def F.FIT_TRIG_PARAM : Fld := ⟨.FIT_TRIG, 32, 32⟩
def F.FIT_WHEN_NS : Fld := ⟨.FIT_WHEN, 0, 32⟩
def F.FIT_WHEN_SEC_LO : Fld := ⟨.FIT_WHEN, 32, 32⟩
def F.SEL_FREEZE_EP_STATE : Fld := ⟨.SEL_FREEZE_EP, 0, 2⟩
def F.SEL_FREEZE_EP_CAUSE : Fld := ⟨.SEL_FREEZE_EP, 2, 4⟩
def F.SEL_FREEZE_PF_STATE : Fld := ⟨.SEL_FREEZE_PF, 0, 2⟩
def F.SEL_FREEZE_PF_CAUSE : Fld := ⟨.SEL_FREEZE_PF, 2, 4⟩
def F.SEL_FREEZE_VF_STATE : Fld := ⟨.SEL_FREEZE_VF, 0, 2⟩
def F.SEL_FREEZE_VF_CAUSE : Fld := ⟨.SEL_FREEZE_VF, 2, 4⟩
def F.SEL_WIN_PF_EN : Fld := ⟨.SEL_WIN_PF, 0, 1⟩
def F.SEL_WIN_PF_RO : Fld := ⟨.SEL_WIN_PF, 1, 1⟩
def F.SEL_WIN_PF_BASE : Fld := ⟨.SEL_WIN_PF, 18, 22⟩
def F.SEL_WIN_VF_EN : Fld := ⟨.SEL_WIN_VF, 0, 1⟩
def F.SEL_WIN_VF_RO : Fld := ⟨.SEL_WIN_VF, 1, 1⟩
def F.SEL_WIN_VF_BASE : Fld := ⟨.SEL_WIN_VF, 18, 22⟩
def F.SPL_OWNER_PF_SUM_EN : Fld := ⟨.SPL_OWNER_PF, 0, 1⟩
def F.SPL_OWNER_PF_K : Fld := ⟨.SPL_OWNER_PF, 1, 4⟩
def F.SPL_OWNER_PF_WEIGHT : Fld := ⟨.SPL_OWNER_PF, 5, 8⟩
def F.SPL_OWNER_PF_STRETCHED : Fld := ⟨.SPL_OWNER_PF, 13, 1⟩
def F.SPL_OWNER_PF_POLLS_TO_SWEEP : Fld := ⟨.SPL_OWNER_PF, 14, 10⟩
def F.SPL_OWNER_INST_SUM_EN : Fld := ⟨.SPL_OWNER_INST, 0, 1⟩
def F.SPL_OWNER_INST_K : Fld := ⟨.SPL_OWNER_INST, 1, 4⟩
def F.SPL_OWNER_INST_WEIGHT : Fld := ⟨.SPL_OWNER_INST, 5, 8⟩
def F.SPL_OWNER_INST_STRETCHED : Fld := ⟨.SPL_OWNER_INST, 13, 1⟩
def F.SPL_OWNER_INST_POLLS_TO_SWEEP : Fld := ⟨.SPL_OWNER_INST, 14, 10⟩
def F.SPL_RING_SEND_STATE : Fld := ⟨.SPL_RING_SEND, 0, 3⟩
def F.SPL_RING_SEND_CAUSE : Fld := ⟨.SPL_RING_SEND, 3, 3⟩
def F.SPL_RING_SEND_LOG2_SIZE : Fld := ⟨.SPL_RING_SEND, 6, 5⟩
def F.SPL_RING_SEND_GROUP : Fld := ⟨.SPL_RING_SEND, 11, 6⟩
def F.SPL_RING_SEND_ATTR : Fld := ⟨.SPL_RING_SEND, 17, 3⟩
def F.SPL_RING_SEND_PEER : Fld := ⟨.SPL_RING_SEND, 20, 16⟩
def F.SPL_RING_SEND_OWNER : Fld := ⟨.SPL_RING_SEND, 36, 12⟩
def F.SPL_RING_SEND_OWNER_PF : Fld := ⟨.SPL_RING_SEND, 48, 1⟩
def F.SPL_RING_SEND_ENDPOINT : Fld := ⟨.SPL_RING_SEND, 49, 5⟩
def F.SPL_RING_RECV_STATE : Fld := ⟨.SPL_RING_RECV, 0, 3⟩
def F.SPL_RING_RECV_CAUSE : Fld := ⟨.SPL_RING_RECV, 3, 3⟩
def F.SPL_RING_RECV_LOG2_SIZE : Fld := ⟨.SPL_RING_RECV, 6, 5⟩
def F.SPL_RING_RECV_GROUP : Fld := ⟨.SPL_RING_RECV, 11, 6⟩
def F.SPL_RING_RECV_ATTR : Fld := ⟨.SPL_RING_RECV, 17, 3⟩
def F.SPL_RING_RECV_PEER : Fld := ⟨.SPL_RING_RECV, 20, 16⟩
def F.SPL_RING_RECV_OWNER : Fld := ⟨.SPL_RING_RECV, 36, 12⟩
def F.SPL_RING_RECV_OWNER_PF : Fld := ⟨.SPL_RING_RECV, 48, 1⟩
def F.SPL_RING_RECV_ENDPOINT : Fld := ⟨.SPL_RING_RECV, 49, 5⟩
def F.SPL_RING_CPL_STATE : Fld := ⟨.SPL_RING_CPL, 0, 3⟩
def F.SPL_RING_CPL_CAUSE : Fld := ⟨.SPL_RING_CPL, 3, 3⟩
def F.SPL_RING_CPL_LOG2_SIZE : Fld := ⟨.SPL_RING_CPL, 6, 5⟩
def F.SPL_RING_CPL_GROUP : Fld := ⟨.SPL_RING_CPL, 11, 6⟩
def F.SPL_RING_CPL_ATTR : Fld := ⟨.SPL_RING_CPL, 17, 3⟩
def F.SPL_RING_CPL_PEER : Fld := ⟨.SPL_RING_CPL, 20, 16⟩
def F.SPL_RING_CPL_OWNER : Fld := ⟨.SPL_RING_CPL, 36, 12⟩
def F.SPL_RING_CPL_OWNER_PF : Fld := ⟨.SPL_RING_CPL, 48, 1⟩
def F.SPL_RING_CPL_ENDPOINT : Fld := ⟨.SPL_RING_CPL, 49, 5⟩
def F.SPL_RING_ADMIN_STATE : Fld := ⟨.SPL_RING_ADMIN, 0, 3⟩
def F.SPL_RING_ADMIN_CAUSE : Fld := ⟨.SPL_RING_ADMIN, 3, 3⟩
def F.SPL_RING_ADMIN_LOG2_SIZE : Fld := ⟨.SPL_RING_ADMIN, 6, 5⟩
def F.SPL_RING_ADMIN_GROUP : Fld := ⟨.SPL_RING_ADMIN, 11, 6⟩
def F.SPL_RING_ADMIN_ATTR : Fld := ⟨.SPL_RING_ADMIN, 17, 3⟩
def F.SPL_RING_ADMIN_PEER : Fld := ⟨.SPL_RING_ADMIN, 20, 16⟩
def F.SPL_RING_ADMIN_OWNER : Fld := ⟨.SPL_RING_ADMIN, 36, 12⟩
def F.SPL_RING_ADMIN_OWNER_PF : Fld := ⟨.SPL_RING_ADMIN, 48, 1⟩
def F.SPL_RING_ADMIN_ENDPOINT : Fld := ⟨.SPL_RING_ADMIN, 49, 5⟩
def F.PLT_EG_DROP_H_COUNT : Fld := ⟨.PLT_EG_DROP_H, 0, 64⟩

/-- Index `k` of a list of indices; 0 where there is none. -/
def ixGet (ix : List Nat) (k : Nat) : Nat := ix.getD k 0

/-- The value a register holds after a reset. -/
def RegKey.resetVal (k : RegKey) : Word := BitVec.ofNat 64 (k.reg.resetVal (ixGet k.ix))

/-- The sum of strides times indices. -/
def strideSum : List (Nat × Nat) → List Nat → Nat
  | d :: ds, i :: is => d.1 * i + strideSum ds is
  | _, _ => 0

/-- The internal address of a register (R10). -/
def RegKey.addr (k : RegKey) : Nat := k.reg.info.base + strideSum k.reg.info.dims k.ix

/-- Takes an offset apart over strides, widest first: the indices, and what is left. `none` when an index is out of
range. -/
def splitOffset : List (Nat × Nat) → Nat → Option (List Nat × Nat)
  | [], off => some ([], off)
  | d :: ds, off =>
    if off / d.1 < d.2 then
      match splitOffset ds (off % d.1) with
      | some (is, r) => some ((off / d.1) :: is, r)
      | none => none
    else none

/-- Every register kind. -/
def Reg.all : List Reg :=
  [.GLB_ID, .GLB_CAPS, .CUT_CFG, .CUT_DISCARD, .CUT_OOB_CFG, .CUT_OOB_ERR,
   .CUT_STATUS, .MBX_BIND, .MBX_BIND_LOCK, .MBX_PAYLOAD, .MBX_RING, .MBX_PENDING,
   .MBX_MASK, .MBX_STATUS, .LCK_TRY, .LCK_CFG, .PWR_TEMPO_SLICE, .PWR_TEMPO_HUB,
   .PWR_TEMPO_TARGET, .PWR_TEMPO_STATUS, .STW_POS, .STW_STATUS, .STW_CFG, .STW_OWN,
   .STW_UNIT_CTL, .STW_STATS, .TPL_NOW, .TPL_NOW_EXT, .TPL_PTP_CFG, .TPL_PTP_PORT,
   .TPL_SRC, .TPL_SEL, .TPL_STATE, .TPL_CFG, .TPL_UTC, .TPL_LOSS_POLICY,
   .TCK_HIST_CFG, .TCK_HOST_CFG, .TCK_HOST_STATUS, .TCK_PPS_OUT, .TPL_GOLIDE, .PRT_CFG,
   .PRT_STATUS, .PRT_CT_CFG, .PRT_CT_STATUS, .PRT_STAT, .OPT_STATUS, .BOB_POLICY,
   .BOB_STATUS, .BOB_LASER, .SHU_SLICE_CFG, .SHU_FAULT_LAST, .SHU_DISPATCH_STATUS, .SHU_CNT,
   .SHU_ENTRY, .SHU_TIMER, .SHU_ENGINE_CTL, .SHU_THREAD_CFG, .SHU_SHARE, .SHU_THREAD_STATE,
   .SHU_SLOT, .SHU_DISP_CNT, .SHU_CS_STAGE, .SHU_CS_COMMIT, .PAT_SCOPE_CFG, .PAT_SCOPE_CTR,
   .PAT_SCOPE_GAUGE, .PAT_SCOPE_PINS, .PAT_SCOPE_USE, .PAT_HASH, .PAT_CACHE_STATUS, .PAT_CACHE_CNT,
   .PAT_RULE_STATUS, .PAT_PORT_ACT, .PAT_MALFORMED_CNT, .PAT_EPOCH, .PAT_PARKED, .PAT_TEL_CFG,
   .PAT_TEL_STATUS, .SEA_CFG, .SEA_MODE, .SEA_STATUS, .SEA_LANE_STATUS, .SEA_CNT,
   .PLT_PORT_CLASS, .PLT_DSCP_MAP, .PLT_CFG, .PLT_ING_CLASS, .PLT_EG_CLASS, .PLT_SPILL_CFG,
   .PLT_ECN_CFG, .PLT_PFC_CFG, .PLT_RX_WAIT, .PLT_OVERLOAD, .PLT_STATUS, .PLT_CNT,
   .PLT_IN_DROP, .PLT_EG_DROP, .HEM_SCHED, .HEM_SHAPE, .HEM_XBAR_W, .HEM_LAUNCH_CFG,
   .HEM_CAL_STATUS, .HEM_CNT, .THM_STATUS, .THM_CNT, .THM_ROOT, .THM_ROOT_ID,
   .SEL_LINK_CFG, .SEL_EP_STATUS, .SEL_PF_CFG, .SEL_VF_CFG, .SEL_CNT, .SPL_CFG,
   .SPL_CNT, .INST_STATUS, .INST_EVENT, .INST_BOOT, .INST_BOOT_STATUS, .STO_TGT_CFG,
   .STO_TGT_NET, .STO_TGT_NQN, .STO_TGT_STATUS, .STO_NS, .STO_CNT, .JXL_SYS,
   .JXL_CFG, .JXL_LINK_CFG, .JXL_LINK_STATUS, .JXL_CREDIT, .JXL_ROUTE, .JXL_CNT,
   .GLB_START, .IMG_STATUS, .PWR_INPUT, .PWR_CFG, .PWR_THERM_CFG, .PWR_GATE_STATUS,
   .PWR_STATS, .PIN_CFG, .PIN_STATUS, .PIN_EDGE, .GLB_ERR_STATUS, .GLB_ERR_CFG,
   .GLB_ECC_CNT, .GLB_LOG_STATUS, .FIT_CFG, .FIT_STATUS, .FIT_FIRE, .FIT_TRIG,
   .FIT_WHEN, .SEL_FREEZE_EP, .SEL_FREEZE_PF, .SEL_FREEZE_VF, .SEL_WIN_PF, .SEL_WIN_VF,
   .SPL_OWNER_PF, .SPL_OWNER_INST, .SPL_RING_SEND, .SPL_RING_RECV, .SPL_RING_CPL, .SPL_RING_ADMIN,
   .PLT_EG_DROP_H]

/-- The register of kind `r` that holds the aligned address `a`, with the offset of `a` inside it (0, or 4 for the high
word of a 64-bit register). -/
def Reg.at? (r : Reg) (a : Nat) : Option (RegKey × Nat) :=
  if a < r.info.base then none
  else match splitOffset r.info.dims (a - r.info.base) with
    | some (is, off) => if off < r.info.width / 8 then some (⟨r, is⟩, off) else none
    | none => none

/-- The register that holds internal address `a` (R10, R12); `none` at an unused address (R11). -/
def regAt (a : Nat) : Option (RegKey × Nat) := Reg.all.findSome? (·.at? a)

/-- The mask of the defined fields of a register kind: every other bit reads zero (R8). -/
def Reg.mask (r : Reg) : Nat := (r.fields.map fun f => (2 ^ f.w - 1) * 2 ^ f.lo).foldl (· + ·) 0

end Sys2Proof.Machine
end

