-- ==== Sys2Proof/Machine/StateCut.lean ====
section
/-! DEFINITION. State of the hub: what the module has sent out, replies, the command pool of the Cutter, OOB stations,
staged transactions, locks, mailboxes, the access-error log, the event and error logs and the Fitting. -/

namespace Sys2Proof.Machine

/-- A field of one register: the key of the register store. -/
structure FKey where
  fld : Fld
  ix : List Nat
  deriving DecidableEq, Repr

/-- A reply packet (R44): the echoed header, the status, the error fields, the device time at which the command finished
and the reply's TLVs. `held`: its command keeps its place among the 1,024 until the reply ring has taken the reply (R58, R416); false for
a command answered at once, which holds none. -/
structure Reply where
  src : Transport
  mid : Nat
  unordered : Bool
  opcode : Nat
  tag : Nat
  status : Nat
  target : Nat
  inst : Nat
  gen : Nat
  txn : Nat
  seq : Nat
  timeoutUs : Nat
  doneTime : Nat
  errTlv : Nat
  errDetail : Nat
  tlvs : List Tlv
  held : Bool := false
  deriving DecidableEq, Repr

/-- What the data of a read of host memory is for: an owner's summary line, a ring's doorbell record, a ring's entries, a segment
of the send entry that starts at a count, a fence with what a VERIFY expects, a boot block, a loop-back transfer, a command's
BUFFER, a line of a shadow doorbell page, entries of a submission queue, a PRP list of an NVMe command, its data. -/
inductive ReadFor where
  | summary (o : Nat)
  | doorbell (key : Nat)
  | entries (key : Nat)
  | send (key at_ seg : Nat)
  | fence (verify : Bool) (expect : List Byte)
  | boot (i : Nat)
  | loopback
  | buffer
  | shadow (i line : Nat)
  | sqes (i q : Nat)
  | prps (i q cid : Nat)
  | nvmeData (i q cid part : Nat)
  deriving DecidableEq, Repr

/-- What the module does to the outside world, one item each, newest first in `Mod.outs`. -/
inductive Out where
  /-- A reply frame to an OOB station (R49, R53). -/
  | oobReply (station : Nat) (r : Reply)
  /-- A reply handed to its reply ring (R49, R400). -/
  | ringReply (admin : Nat) (r : Reply)
  /-- A reply written over a mailbox payload (R79). -/
  | mbxReply (c : Nat) (r : Reply)
  /-- A posted write into host memory; `relaxed`: with Relaxed Ordering (R380). -/
  | hostWrite (fn : Fn) (addr : Nat) (pasid : Option Nat) (bytes : List Byte) (relaxed : Bool := false)
  /-- A read request into host memory, with its tag where the module holds one (R379). -/
  | hostRead (tag : Option Nat) (fn : Fn) (addr len : Nat) (pasid : Option Nat)
  /-- An MSI-X message of a vector, with the address and the data of its table entry (R372). -/
  | msix (fn : Fn) (vector addr data : Nat)
  /-- The completion of a configuration or memory request (R365, R369). -/
  | completion (ep : Nat) (data : Nat)
  /-- A configuration request answered with Request Retry Status (R504), or as for a function that does not exist (R373). -/
  | cfgRetry (ep : Nat)
  | cfgNone (ep : Nat)
  /-- An AER message (R378). -/
  | aer (ep : Nat) (cause : Nat)
  /-- A PTM request (R158), an ATS completion (R374), a DOE answer (R377). -/
  | ptm (ep : Nat)
  | atsDone (fn : Fn)
  | doe (ep : Nat) (bytes : List Byte)
  /-- A frame sent at a sub-port. -/
  | frame (port sub : Nat) (bytes : List Byte)
  /-- A frame cut at a sub-port: what was sent of it and the bad FCS (R188, R547). -/
  | cutFrame (port sub : Nat) (bytes : List Byte)
  /-- A sub-port has come from TRAINING to UP (R184). -/
  | linkUp (port sub : Nat)
  /-- A PFC frame: the priorities it names, their pause time in quanta (R300). -/
  | pfc (port sub prios time : Nat)
  /-- Remote Fault sent (1) or stopped (0) on a sub-port (R184). -/
  | remoteFault (port sub : Nat) (on : Bool)
  /-- Laser drive of Bobbin `k` cut or restored. -/
  | laser (k : Nat) (on : Bool)
  /-- Laser `j` of Bobbin `k`: bias set by the servo (R193). -/
  | bias (k j v : Nat)
  /-- Bobbin management bus: identity read, hours written (R196). -/
  | i3cRead (k : Nat)
  | i3cHours (k j hours : Nat)
  /-- A PTP message sent on a port (R117), with its messageType (IEEE 1588) and the device time that it carries, zero where it carries none;
  the Announce of a master port; an ESMC message, a time-of-day sentence, a 1PPS edge, a pin level. -/
  | ptp (port kind stamp : Nat)
  | announce (port : Nat) (ds : AnnounceData)
  | esmc (port ql : Nat)
  | tod (sentence : List Byte)
  | pps (j : Nat) (level : Bool)
  | pin (p : Nat) (level : Bool)
  /-- Every rail off. -/
  | railsOff
  /-- Host link surprise-down seen by the host of an endpoint (R542), or training started (R364). -/
  | linkDrop (ep : Nat)
  | linkTrain (ep : Nat)
  /-- A Jexdor frame of a kind on a link, with its payload. -/
  | jxl (link kind : Nat) (payload : List Byte)
  /-- A PDU to a storage target's connection, a connection opened, closed or a segment retransmitted. -/
  | target (slice t conn : Nat) (kind : Nat) (bytes : List Byte)
  /-- A test frame, or a loop-back transfer (R70). -/
  | loopFrame (port sub count len : Nat)
  deriving DecidableEq, Repr

/-- The objects a command or a transaction can hold (R61). -/
inductive Obj where
  | inst (i : Nat)
  | ring (kind n : Nat)
  | scope (q : Nat)
  | port (n : Nat)
  | endpoint (e : Nat)
  | fn (f : Fn)
  | lock (n : Nat)
  | calendar (n : Nat)
  | ctx (k : Nat)
  | root (s k : Nat)
  | pin (p : Nat)
  | oe (k : Nat)
  | bobbin (k : Nat)
  | link (l : Nat)
  | image
  | config
  | stage
  | timeSources
  | owner (f : Fn)
  | system
  | pps (j : Nat)
  | tempo
  | policy
  deriving DecidableEq, Repr

/-- Where a command of the pool stands: queued on its channel, waiting for objects in its execution place, or executing. -/
inductive Stage where
  | queued | waiting | executing
  deriving DecidableEq, Repr

/-- One command the Cutter holds (R58), with the objects it holds (R61); `dead` when its requester died and its reply is
to be discarded (R84). -/
structure PoolEntry where
  cmd : Cmd
  stage : Stage := .queued
  objs : List Obj := []
  dead : Bool := false
  deriving DecidableEq, Repr

/-- An OOB station the module has learned (R54), with the replies of its last eight completed commands (R55). -/
structure Station where
  mac : Nat
  cache : List Reply := []
  deriving DecidableEq, Repr

/-- A running loop-back test (R70): its command, when it began (ns), DURATION_MS and COUNT, and what it has reached; for host memory the
transfers left, whether the data is being read back, the data read at the source. -/
structure LoopTest where
  cmd : Cmd
  kind : Nat
  port : Nat
  sub : Nat
  since : Nat := 0
  dur : Nat := 0
  count : Nat := 0
  src : Nat := 0
  dst : Nat := 0
  len : Nat := 0
  left : Nat := 0
  back : Bool := false
  data : List Byte := []
  good : Nat := 0
  bad : Nat := 0
  deriving DecidableEq, Repr

/-- The Cutter (R54 to R61): the pool in order of arrival, the credits of the three service classes and the channel each
class served last, OOB stations by number, the OOB link, and the seconds in which an R585 event was written, per transport. -/
structure Cut where
  pool : List PoolEntry := []
  credit : List Nat := [8, 4, 1]
  ptr : List Nat := [0, 0, 0]
  stations : Tab Station := []
  oobUp : Bool := true
  plcaFallback : Bool := false
  discardSec : Tab Nat := []
  loops : List LoopTest := []
  deriving DecidableEq, Repr

/-- One waiter of a lock's queue (R82): the LOCK_ACQUIRE that waits. -/
structure Waiter where
  mid : Nat
  cmd : Cmd
  deriving DecidableEq, Repr

/-- A hardware lock (R83): HELD when it has an owner, BROKEN when it has none and carries the broken mark, else FREE. -/
structure Lock where
  owner : Option Nat := none
  broken : Bool := false
  queue : List Waiter := []
  deriving DecidableEq, Repr

/-- One entry of the access-error log (R571). -/
structure AccessEntry where
  addr : Nat
  write : Bool
  wide : Bool
  mid : Nat
  time : Nat
  cause : Nat
  index : Nat
  deriving DecidableEq, Repr

/-- The access-error log (R571, R572): the last 256 refused accesses, newest first, their running count, and the entries
overwritten before any read. -/
structure AccessLog where
  entries : List AccessEntry := []
  count : Nat := 0
  overwritten : Nat := 0
  seen : Nat := 0
  deriving DecidableEq, Repr

/-- One entry of the event log or the error log (R567). `time` is the device time of the happening. -/
structure LogEntry where
  seq : Nat := 0
  time : Nat
  boot : Nat
  cls : Nat
  code : Nat
  traceable : Bool := false
  stepped : Bool := false
  source : Nat := 0
  detail : List Byte := []
  deriving DecidableEq, Repr

/-- The queue of log entries on die, oldest first (R568). -/
structure LogQueue where
  queue : List LogEntry := []
  lostEvents : Nat := 0
  lostErrors : Nat := 0
  deriving DecidableEq, Repr

/-- The two logs in Chalk (R567), newest first, and the SEQ that each gives next. -/
structure Logs where
  events : List LogEntry := []
  errors : List LogEntry := []
  eventSeq : Nat := 0
  errorSeq : Nat := 0
  deriving DecidableEq, Repr

/-- An armed Fitting trigger slot (R580). -/
structure FitSlot where
  source : Nat
  clear : Bool
  oneShot : Bool
  param : Nat
  whenNs : Nat := 0
  deriving DecidableEq, Repr

/-- One snapshot bank (R578, R579): its header and the registers latched, by address; a register not listed reads zero. -/
structure FitBank where
  full : Bool := false
  snapSeq : Nat := 0
  traceable : Bool := false
  stepped : Bool := false
  merged : Bool := false
  cleared : Bool := false
  sources : Nat := 0
  fireTime : Nat := 0
  slots : Nat := 0
  tag : Nat := 0
  errSeq : Nat := 0
  vals : Tab Nat := []
  deriving DecidableEq, Repr

/-- A trigger that this step detected and the end of the step fires (R575). -/
structure FitPend where
  source : Nat
  slot : Option Nat := none
  clear : Bool := false
  tag : Nat := 0
  errSeq : Nat := 0
  stepped : Bool := false
  deriving DecidableEq, Repr

/-- The Fitting (R573 to R581). -/
structure Fit where
  slots : Tab FitSlot := []
  bank0 : FitBank := {}
  bank1 : FitBank := {}
  newer : Nat := 0
  snapSeq : Nat := 0
  lastFire : Option (Nat × Nat) := none
  seenSeqs : List Nat := []
  sentSeq : Nat := 0
  pend : List FitPend := []
  deriving DecidableEq, Repr

/-- A high word latched by a low-word read of a 64-bit register (R13), per requester. -/
structure Latch where
  mid : Nat
  addr : Nat
  high : Nat
  deriving DecidableEq, Repr

end Sys2Proof.Machine
end

