-- ==== Sys2Proof/Machine/StateTime.lean ====
section
/-! DEFINITION. State of Tapeline, the Tack points and the Stitch wheel (chapters 03 to 05). Times are device time in units of
2^-16 ns (R111) unless a name says otherwise. -/

namespace Sys2Proof.Machine

/-- The servo's states (R131). -/
inductive Servo where
  | freerun | acquiring | locked | holdover
  deriving DecidableEq, Repr

/-- A foreign master a PTP port has heard (R117): its last Announce and how many it has sent. -/
structure Foreign where
  ds : AnnounceData
  count : Nat := 1
  deriving DecidableEq, Repr

/-- A unicast grant served as master (R117): port, requester and the second at which it ends. -/
structure PtpGrant where
  port : Nat
  clock : Nat
  until_ : Nat
  deriving DecidableEq, Repr

/-- The PTP clock (R117 to R121): the foreign master of each port, the port whose parent the BMCA chose, whether Sync has come
from it, and the unicast grants. -/
structure Ptp where
  foreign : Tab Foreign := []
  parent : Option Nat := none
  synced : Bool := false
  grants : List PtpGrant := []
  deriving DecidableEq, Repr

/-- A PPS_TOD source's tests (R125): the last edge, whether it came on time and still waits for its sentence, the last sentence's
second, and the runs of good and bad seconds. `due` is when a missing edge makes the next bad second. -/
structure PpsTod where
  lastEdge : Option Nat := none
  onTime : Bool := false
  waits : Bool := false
  lastSec : Option Nat := none
  goodRun : Nat := 0
  badRun : Nat := 0
  due : Option Nat := none
  deriving DecidableEq, Repr

/-- A change of the source table that waits for the next tick (R129, R130), with the command to be answered. -/
structure SrcChange where
  cmd : Option Cmd
  entries : List (Nat × Nat)
  sel : Option Nat
  deriving DecidableEq, Repr

/-- The interval a Golide record will cover (R171). Offsets are in units of 2^-16 ns. -/
structure GolideAcc where
  start : Nat := 0
  first : Bool := true
  lost : Bool := false
  gained : Bool := false
  leap : Bool := false
  seen : Nat := 0
  count : Nat := 0
  sum : Int := 0
  sumSq : Nat := 0
  min : Int := 0
  max : Int := 0
  boundMax : Nat := 0
  tempoMin : Option Nat := none
  deriving DecidableEq, Repr

/-- A Golide record (R171, R172): its SEQ and its 128 bytes. -/
structure GolideRec where
  seq : Nat
  endTime : Nat
  bytes : List Byte
  deriving DecidableEq, Repr

/-- A registered time-pair page (R162 to R164); `stepTag`: the steps of device time before its latest pair. -/
structure TimePair where
  addr : Nat
  pasid : Option Nat
  seq : Nat := 0
  first : Bool := true
  stepTag : Nat := 0
  pairs : Nat := 0
  deriving DecidableEq, Repr

/-- PTM of one endpoint (R158, R159). `outstanding`: the Tack stamp of the Request of the dialog under way; `began`: when the latest
dialog was due; `last`: the Request and Response stamps of the dialog before, when it was answered; `samples`: this millisecond's valid
dialogs (device time and host PTM time in 2^-16 ns, link delay in ps); `validRun`: the run of valid pairs; `pairs`: its pairs of the last
64 ms, newest first (device time, host time); `rate`: RATE. -/
structure Ptm where
  outstanding : Option Nat := none
  began : Option Nat := none
  last : Option (Nat × Nat) := none
  samples : List (Nat × Int × Nat) := []
  validRun : Nat := 0
  pairs : List (Nat × Int) := []
  rate : Int := 0
  deriving DecidableEq, Repr

/-- A latency histogram (R151, R152). -/
structure Hist where
  buckets : Tab Nat := []
  stepped : Nat := 0
  mismatch : Nat := 0
  deriving DecidableEq, Repr

/-- The servo, selection and qualification. A source is known by its kind and its port: 128 times the kind, plus the port of a
SYNCE or JEXDOR entry. `good` lists the sources that pass their kind's tests, with the device time from which they do; `lost`
the entries that lost their qualification since the start (R505); `losses` those of the present interval (R129); `lossSrc` the phase entry
lost last, its source and when (R128); `offsets` the servo's seconds, newest first: when each ended, the offset, the path delay. -/
structure Tapeline where
  timeSet : Bool := false
  steps : Nat := 0
  readyAt : Option Nat := none
  lockRun : Nat := 0
  farRun : Nat := 0
  lockedSecs : Nat := 0
  holdAt : Nat := 0
  lockedBound : Nat := 0
  holdTrace : Bool := false
  ovenTemps : List Int := []
  offsets : List (Nat × Int × Nat) := []
  good : Tab Nat := []
  traced : List Nat := []
  fail : Tab Nat := []
  qualTicks : Tab Nat := []
  lost : List Nat := []
  losses : List Nat := []
  lossSrc : Option (Nat × Nat × Nat) := none
  changes : List SrcChange := []
  ref10 : Option Nat := none
  synce : Tab Nat := []
  ptp : Ptp := {}
  ppsTod : PpsTod := {}
  leapNew : Option Int := none
  epochHold : Option Nat := none
  epochBack : Option (Nat × Nat) := none
  jxBound : Nat := 0
  deriving DecidableEq, Repr

/-- Host time, pulses, histograms and Golide intervals. `hostWas`: the TCK_HOST_CFG that an endpoint's change replaced, which holds up to
the end of the millisecond it came in (R161); `ppsHigh`: when a pulse under way ends. -/
structure Tack where
  ptm : Tab Ptm := []
  hostWas : Tab (Nat × Nat) := []
  pairs : List (Fn × TimePair) := []
  ppsHigh : Tab Nat := []
  hists : Tab Hist := []
  golide : GolideAcc := {}
  deriving DecidableEq, Repr

/-- A foreground request that waits for its shared unit (R109): the ns at which it came, and whether a background class made it wait. -/
structure FgWait where
  at_ : Nat
  behind : Bool
  deriving DecidableEq, Repr

/-- What waits for a stitch of Chalk (R102): one of the two 64-byte writes of a Golide record (R173), the hours of a Bobbin's lasers, or the
biases that a calibration settled (R193). -/
inductive ChalkWrite where
  | golide (r : GolideRec) (second : Bool)
  | hours (serial : List Byte) (eq : List Nat)
  | calib (serial : List Byte) (bias : List Nat)
  deriving DecidableEq, Repr

/-- The class whose stitch a write of Chalk takes (R102): SERVO or CAL. -/
def ChalkWrite.cls : ChalkWrite → Nat
  | .golide _ _ => 3
  | _ => 2

/-- The Stitch wheel (R97 to R110): the active ownership tables of the units whose active table is not the factory one, units with an
apply pending, and the class that holds each unit's stitch, with the number of that stitch (`cur`, of 32 ns). `waits` holds the
foreground requests that wait; `lent` the stitch of each unit last counted in LENT; `rr` the requester of each unit and class served
last, under eight times the unit plus the class. After a step of device time `realign` is set, and the stitch under way ends at `tail` ns.
`chalkq` holds what waits to be written to Chalk. -/
structure Wheel where
  active : Tab (List Nat) := []
  pending : Tab (List Nat) := []
  holder : Tab Nat := []
  cur : Nat := 0
  waits : Tab (List FgWait) := []
  lent : Tab Nat := []
  rr : Tab Nat := []
  realign : Bool := false
  tail : Nat := 0
  chalkq : List ChalkWrite := []
  deriving DecidableEq, Repr

end Sys2Proof.Machine
end

