-- ==== Sys2Proof/Machine/StateChk.lean ====
section
/-! DEFINITION. State of Chalk (chapters 19 and 20): what survives a start, region by region (R507), and the state of an
image delivery that does not survive it. -/

namespace Sys2Proof.Machine

/-- The directory (R509). -/
structure Directory where
  clearPending : Bool := false
  role : Nat := 0
  module : Nat := 0
  systemId : Nat := 0
  members : Nat := 0
  seq : Nat := 0
  deriving DecidableEq, Repr

/-- A record of a configuration bank (R512): a run of registers, its layout version and the values. -/
structure CfgRec where
  addr : Nat
  width : Nat
  count : Nat
  stride : Nat
  layout : Nat
  vals : List Nat
  deriving DecidableEq, Repr

/-- A configuration bank (R511): its header and its records. -/
structure Bank where
  valid : Bool := false
  commitSeq : Nat := 0
  schema : Nat := 0
  boot : Nat := 0
  committedAt : Nat := 0
  length : Nat := 0
  digest : List Byte := []
  records : List CfgRec := []
  deriving DecidableEq, Repr

/-- A root slot of the sealed root store (R338): its identifier, the root and what it is for. -/
structure RootSlot where
  rootId : Nat
  root : List Byte
  state : Nat
  deriving DecidableEq, Repr

/-- A Bobbin's record (R196, R197): equivalent hours per laser, by laser number; lasers retired (R198). -/
structure BobbinRec where
  serial : List Byte
  hours : Tab Nat := []
  retired : List Nat := []
  deriving DecidableEq, Repr

/-- A record of the calibration store (R193): the biases that the last calibration of a Bobbin settled. -/
structure CalibRec where
  serial : List Byte
  bias : List Nat
  deriving DecidableEq, Repr

/-- A present chunk of the staging area (R525). -/
structure Chunk where
  crc : Nat
  data : List Byte
  deriving DecidableEq, Repr

/-- The staging area (R525): `id` 0 when its header copies are discarded or were never written; `lastId` is the STAGE_ID that
the next stage is one higher than. -/
structure Staging where
  id : Nat := 0
  lastId : Nat := 0
  verified : Bool := false
  length : Nat := 0
  seq : Nat := 0
  digest : List Byte := []
  openedAt : Nat := 0
  chunks : Tab Chunk := []
  deriving DecidableEq, Repr

/-- The wipe journal (R530). -/
structure Journal where
  valid : Bool := false
  install : Bool := false
  phase : Nat := 0
  seq : Nat := 0
  gen : Nat := 0
  blocks : Nat := 0
  wipeBlocks : Nat := 0
  stageId : Nat := 0
  digest : List Byte := []
  deriving DecidableEq, Repr

/-- States of a block header of the image area (R530); TORN when its MAGIC or CRC fails. -/
inductive BlockState where
  | torn | wiping | wiped | writing | written
  deriving DecidableEq, Repr

/-- One block of the image area with its header (R530); no data stands for zeros. -/
structure Block where
  state : BlockState := .torn
  gen : Nat := 0
  crc : Nat := 0
  jseq : Nat := 0
  data : List Byte := []
  deriving DecidableEq, Repr

/-- Chalk (R507). (DESIGN CHOICE, log 4) -/
structure Chalk where
  dir : Directory := {}
  boot : Nat := 0
  incarnations : Tab Nat := []
  exhausted : List Nat := []
  golide : List GolideRec := []
  golideNext : Nat := 0
  roots : Tab RootSlot := []
  bobbins : List BobbinRec := []
  calib : List CalibRec := []
  bankA : Bank := {}
  bankB : Bank := {}
  logs : Logs := {}
  journal : Journal := {}
  blocks : Tab Block := []
  stage : Staging := {}
  deriving DecidableEq, Repr

/-- Pieces received of an incomplete chunk (R527): not retained. -/
structure Pieces where
  crc : Nat
  got : List (Nat × Nat) := []
  data : List Byte
  deriving DecidableEq, Repr

/-- What the running image is (R540), and whether an install runs; not retained. -/
structure Img where
  loaded : Option (List Byte) := none
  file : List Byte := []
  pieces : Tab Pieces := []
  installing : Bool := false
  failed : Bool := false
  patchLock : Bool := false
  resetAfter : Bool := false
  deriving DecidableEq, Repr

end Sys2Proof.Machine
end

