-- ==== Sys2Proof/Machine/StateSel.lean ====
section
/-! DEFINITION. State of the Selvedge (chapter 14). -/

namespace Sys2Proof.Machine

/-- One MSI-X table entry (R372). -/
structure MsixVec where
  addr : Nat := 0
  data : Nat := 0
  mask : Bool := true
  pending : Bool := false
  deriving DecidableEq, Repr

/-- MSI-X of one function (R371, R372): the enable and function mask of its capability, its table size, and its table. -/
structure Msix where
  enable : Bool := false
  fmask : Bool := false
  size : Nat := 0
  vecs : Tab MsixVec := []
  deriving DecidableEq, Repr

/-- What the host has configured in a function's configuration space (R363 to R375); the endpoint's own settings stand in its
PF's. `command`: the command register; `ro`: Enable Relaxed Ordering; `mps`, `mrrs` in bytes; `tags`: 0 8-bit, 1 10-bit, 2 14-bit
tags; `cto`: Completion Timeout Value; `bar`: the BAR addresses as written. -/
structure FnCfg where
  command : Nat := 0
  d3 : Bool := false
  ro : Bool := true
  mps : Nat := 128
  mrrs : Nat := 512
  tags : Nat := 0
  cto : Nat := 0
  pasid : Bool := false
  ats : Bool := false
  numVfs : Nat := 0
  vfEnable : Bool := false
  bar : Tab Nat := []
  deriving DecidableEq, Repr

/-- A read of host memory under way (R379): its function, what its data is for, address, length, PASID; whether its completions are
stale (R385) or come from before a freeze (R381); the data that has come, by offset; the pieces that have not; the host-link stamp of
its first completion with data, and its STEP_TAG (R145, R149). -/
structure HostRead where
  fn : Fn
  why : ReadFor
  addr : Nat
  len : Nat
  pasid : Option Nat := none
  stale : Bool := false
  gone : Bool := false
  got : List (Nat × List Byte) := []
  left : Nat
  stamp : Option (Nat × Nat) := none
  deriving DecidableEq, Repr

/-- A piece of a read: the read, its offset, its length, the data that its completions have brought, the instant of its request. -/
structure Piece where
  read : Nat
  off : Nat
  len : Nat
  got : List Byte := []
  at_ : Nat := 0
  deriving DecidableEq, Repr

/-- Fences of a function (R387): completion entries since the last, those outstanding. -/
structure Fences where
  since : Nat := 0
  out : Nat := 0
  deriving DecidableEq, Repr

/-- A LINK_RELEASE at work (R382): the command, the scope (no function for the endpoint), RESUME or RESET, the cause of an error
that came meanwhile (R383). -/
structure Release where
  cmd : Cmd
  ep : Nat
  fn : Option Fn
  resume : Bool
  again : Option Nat := none
  deriving DecidableEq, Repr

/-- An ATS invalidation that waits for reads of its range (R374). -/
structure AtsWait where
  fn : Fn
  lo : Nat
  hi : Nat
  deriving DecidableEq, Repr

/-- An IDE stream of an endpoint (R376): number 0 is the link stream, 1 to 8 the selective ones. `secure`: in the Secure state;
`fns`: the functions whose requester IDs a selective stream covers. -/
structure IdeStream where
  num : Nat
  secure : Bool := false
  fns : List Nat := []
  deriving DecidableEq, Repr

/-- The Selvedge. `split`: links that run as two endpoints; `inReset`: functions whose reset has not ended (R385); `ide`: endpoints
whose traffic is under an active IDE stream (R339); `waiting`: pieces that wait for a tag, by endpoint; tags by endpoint ×
16,384 + tag; fences and configuration by function. -/
structure Sel where
  split : List Nat := []
  inReset : List Fn := []
  ide : List Nat := []
  streams : Tab (List IdeStream) := []
  sessions : Tab Nat := []
  cfg : Tab FnCfg := []
  reads : Tab HostRead := []
  nextRead : Nat := 0
  tags : Tab Piece := []
  waiting : Tab (List Piece) := []
  fences : Tab Fences := []
  releases : List Release := []
  ats : List AtsWait := []
  deriving DecidableEq, Repr

end Sys2Proof.Machine
end

