-- ==== Sys2Proof/Machine/StateJxl.lean ====
section
/-! DEFINITION. State of the Jexdor links and of a multi-module system (chapter 18). -/

namespace Sys2Proof.Machine

/-- A dictionary entry (R483): prefix, version, IPV4_FIX and IP_OFF; at the sender whether the entry is confirmed, the ns of its
LEARN and its last use. -/
structure DictEntry where
  bytes : List Byte
  version : Nat
  fix : Bool
  ipOff : Nat
  confirmed : Bool := false
  learnAt : Nat := 0
  used : Nat := 0
  deriving DecidableEq, Repr

/-- What the last HELLO told of the peer (R476). -/
structure Peer where
  serial : List Byte := []
  module : Nat := 0xFF
  role : Nat := 0
  link : Nat := 0
  systemId : Nat := 0
  slots : List Nat := []
  dictEn : Bool := false
  deriving DecidableEq, Repr

/-- One Jexdor link (R477 to R488, R495). Counts go by class. `versions`: the version last given to each transmit entry;
`session`: how often the link has left UP, so that cells of an earlier session return to no count; `left`: what is left of a
slotted class's allowance in the cycle; `slotFrom`: SLOT_CELLS requested by the peer and set aside here; `slotBad`: classes whose
request is refused here; `stamps`: the neighbour's last transmit stamp and its receive stamp here; `delays`: path delays of the
last exchanges in units of device time. -/
structure Link where
  tx : Tab DictEntry := []
  rx : Tab DictEntry := []
  versions : Tab Nat := []
  uses : Nat := 0
  session : Nat := 0
  sent : Tab Nat := []
  recvd : Tab Nat := []
  freed : Tab Nat := []
  repFreed : Tab Nat := []
  repHeld : Tab Nat := []
  acks : List (Nat × Nat) := []
  agree : Nat := 0
  helloAt : Nat := 0
  peer : Peer := {}
  left : Tab Nat := []
  slotFrom : Tab Nat := []
  slotBad : Nat := 0
  stamps : Option (Nat × Nat) := none
  delays : List Int := []
  offset : Int := 0
  deriving DecidableEq, Repr

/-- A command forwarded to a member that has not been answered (R492), and the ns at which it was sent. -/
structure Fwd where
  cmd : Cmd
  target : Nat
  at_ : Nat
  deriving DecidableEq, Repr

/-- A slotted class asked for by JXL_SLOT_SET that the neighbour has not answered (R488). -/
structure SlotReq where
  cmd : Cmd
  link : Nat
  cls : Nat
  cells : Nat
  deriving DecidableEq, Repr

/-- A COMMAND frame that waits for a place in the Cutter (R58, R492): its cells stay in the input account of its link and class, so that
credit holds its sender back. -/
structure HeldCmd where
  link : Nat
  cls : Nat
  cells : Nat
  session : Nat
  origin : Nat
  bytes : List Byte
  deriving DecidableEq, Repr

/-- Jexdor: links, COMMAND frames that wait for the Cutter, oldest first, commands forwarded, replies that have not joined their class queue yet, slot requests that wait with the commands
one of whose requests was refused, the link reports, the ns of the last beacon (member). -/
structure Jxl where
  links : Tab Link := []
  held : List HeldCmd := []
  fwd : List Fwd := []
  outq : List (Nat × Reply) := []
  slots : List SlotReq := []
  slotBad : List Cmd := []
  topo : List TopoRec := []
  beaconAt : Nat := 0
  deriving DecidableEq, Repr

end Sys2Proof.Machine
end

