-- ==== Sys2Proof/Machine/StatePwr.lean ====
section
/-! DEFINITION. State of power, pins and correctable-error accounting (chapters 03, 21 and 22). -/

namespace Sys2Proof.Machine

/-- A pin in the hold of R558: the configuration it takes over, the level held, the command to be answered, and the ns of the stitch
boundary at which the old function released it. -/
structure Hold where
  cfg : Nat
  level : Bool
  cmd : Option Cmd
  s0 : Nat := 0
  deriving DecidableEq, Repr

/-- Correctable errors of one memory kind in the current hour of device time (R566). -/
structure EccHour where
  hour : Nat := 0
  count : Nat := 0
  logged : Bool := false
  deriving DecidableEq, Repr

/-- What gates an optical engine (R545, R546, R550, R547): the band, the power cap, the rails' heat, its own heat. -/
structure Gates where
  band : Bool := false
  cap : Bool := false
  thermal : Bool := false
  hot : Bool := false
  deriving DecidableEq, Repr

/-- The engine is gated. -/
def Gates.any (g : Gates) : Bool := g.band || g.cap || g.thermal || g.hot

/-- One core rail (R90, R550): voltage and thermal ceiling in µV, and the turns above target since the last lowering. -/
structure Rail where
  uv : Nat := 750000
  ceiling : Nat := 850000
  high : Nat := 0
  deriving DecidableEq, Repr

/-- The power manager: turns below the band, the common ceiling in µV, the turns it waits before it judges again, the turns
that the hottest junction has stayed at TJ_GATE, gates by engine, and the rails (0 to 3 compute dies, 4 the hub); the ns since which VIN
has stayed 1.0 V above the next band's lower limit, and module power below 90 % of p_avail; the earliest ns of the next lift of a gate of
the band, and of another gate (R545, R546). (DESIGN CHOICE, log 72) -/
structure Pwr where
  below : Nat := 0
  ceiling : Nat := 850000
  wait : Nat := 0
  hotTurns : Nat := 0
  gates : Tab Gates := []
  rails : Tab Rail := []
  riseFrom : Option Nat := none
  lowFrom : Option Nat := none
  liftAt : Nat := 0
  otherLiftAt : Nat := 0
  deriving DecidableEq, Repr

/-- A step of device time by `d` ns: what is measured in elapsed time keeps its intervals. -/
def Pwr.shift (p : Pwr) (d : Int) : Pwr :=
  let by' := fun (t : Nat) => (t + d).toNat
  { p with riseFrom := p.riseFrom.map by', lowFrom := p.lowFrom.map by', liftAt := by' p.liftAt, otherLiftAt := by' p.otherLiftAt }

end Sys2Proof.Machine
end

