-- ==== Sys2Proof/Machine/StatePat.lean ====
section
/-! DEFINITION. State of the tables (chapters 02 and 09): staged transactions. -/

namespace Sys2Proof.Machine

/-- One change to a table: an entry TLV or a key TLV of R264. -/
inductive TblOp where
  | putExact (scope flags : Nat) (key act : List Nat)
  | putRule (scope prio : Nat) (value mask : List Nat) (ranges : List (Nat × Nat)) (act : List Nat)
  | putMeter (scope idx cir pir cbs pbs : Nat)
  | delExact (scope : Nat) (drain : Bool) (key : List Nat)
  | delRule (scope prio : Nat)
  | delMeter (scope idx : Nat)
  deriving DecidableEq, Repr

/-- The states of a staged transaction (R75). -/
inductive TxnState where
  | opened | publishing | committed | aborted
  deriving DecidableEq, Repr

/-- A transaction slot in use (R67, R72 to R75): serial, scope, owner, state, the cause of an abort, the operations staged (none
once it has ended) and how many there were, the nanosecond at which a command last named it, its place in the order of ends. -/
structure Txn where
  serial : Nat
  scope : Nat
  owner : Nat
  state : TxnState := .opened
  cause : Nat := 0
  ops : List TblOp := []
  count : Nat := 0
  named : Nat := 0
  ended : Nat := 0
  deriving DecidableEq, Repr

/-- It holds its scope (R71): open or publishing. -/
def Txn.holds (t : Txn) : Bool := t.state = .opened || t.state = .publishing

end Sys2Proof.Machine
end

