-- ==== Sys2Proof/Machine/StatePipe.lean ====
section
/-! DEFINITION. State of the packet path: ports (chapter 06), Shuttle engines (07, 08), Pattern (09), Seam (10), Pleat (11) and
Hem (12). -/

namespace Sys2Proof.Machine

/-! ### Packets -/

/-- Where a packet's first pass came from (R222, R260, R281): a sub-port, a send ring with the generation and the record of the
send, or a timer. -/
inductive Origin where
  | port (n sub : Nat)
  | host (ep inst ring gen send : Nat)
  | timer (s k : Nat)
  deriving DecidableEq, Repr

/-- Cells charged to an account of a slice, by the source they came from (R290): 0 control reserve, 1 minimum, 2 shared pool,
3 headroom, 4 HBM, 5 an engine's pool. Charges of one `ref` that is not 0 are for the same cells (R38, R289). -/
structure Charge where
  slice : Nat
  acct : Nat
  n : Nat
  src : Nat
  ref : Nat := 0
  deriving DecidableEq, Repr

/-- A packet in Pleat: its bytes without FCS, what its context carries from pass to pass (R223), its epoch (R266) and the cells
charged to it. `cls` is the class of the account that holds it; `waited`, `laneWaited`: its wait for a context, and for its lane, is counted. -/
structure Pkt where
  bytes : List Byte := []
  origin : Origin := .timer 0 0
  stamp : Nat := 0
  stepTag : Nat := 0
  passes : Nat := 0
  epoch : Option Nat := none
  vector : Nat := 0
  cls : Nat := 0
  tc : Nat := 0
  histEn : Bool := false
  hist : Nat := 0
  flow : Nat := 0
  user : Nat := 0
  launch : Option Nat := none
  reason : Option Nat := none
  untrusted : Bool := false
  charges : List Charge := []
  waited : Bool := false
  laneWaited : Bool := false
  deriving DecidableEq, Repr

/-- Where a release places a packet (R279). -/
inductive Dest where
  | port (n sub : Nat)
  | ring (r : Nat)
  | recirc (s v : Nat)
  deriving DecidableEq, Repr

/-! ### Pleat -/

/-- An account (R288). -/
structure Acct where
  depth : Nat := 0
  minUsed : Nat := 0
  sharedUsed : Nat := 0
  headUsed : Nat := 0
  hbm : Nat := 0
  deriving DecidableEq, Repr

/-- A packet in an egress queue: its number, its ring for a half, the cells of it present on the egress slice, whether it lies
in HBM (R296), the ns at which it was admitted, and whether the guard or the timed hold has held it back (GUARD_HELD). -/
structure EgEntry where
  id : Nat
  pkt : Pkt
  ring : Nat := 0
  present : Nat
  hbm : Bool := false
  at_ : Nat := 0
  guarded : Bool := false
  deriving DecidableEq, Repr

/-- A packet in a virtual output queue (R29): the egress entry its cells go to, and the cells still to cross; further entries of the same
egress slice that share its crossing, and the number of that group (R38). -/
structure VoqEntry where
  queue : Nat
  id : Nat
  left : Nat
  charge : Charge
  also : List (Nat × Nat) := []
  ref : Nat := 0
  deriving DecidableEq, Repr

/-- Cells of a slice that several charges of one source share (R38, R289): how many, and by how many charges. -/
structure CellRef where
  slice : Nat := 0
  n : Nat := 0
  count : Nat := 0
  deriving DecidableEq, Repr

/-- A send whose fate is not settled (R413): its ring and entry, the copies of its frame in the module, the stamp of the first
copy delivered, the first cause of a loss. -/
structure SendRec where
  ring : Nat
  entry : Nat
  copies : Nat := 1
  stamp : Option Nat := none
  cause : Option Nat := none
  deriving DecidableEq, Repr

/-- PFC of one port and class (R300 to R302): since when XOFF is asserted; whether the watchdog holds the class lossy. -/
structure Xoff where
  since : Option Nat := none
  tripped : Bool := false
  deriving DecidableEq, Repr

/-- The control-class bucket of a port (R294), in millionths of a frame. (DEDUCED, log 31) -/
structure CtrlBucket where
  tokens : Nat := 64000000
  at_ : Nat := 0
  deriving DecidableEq, Repr

/-- What a turn of a slice saw, for PLT_OVERLOAD (R308). -/
structure TurnSeen where
  dispatch : Bool := false
  seam : Bool := false
  cross : Bool := false
  egress : Bool := false
  spill : Bool := false
  hostWait : Bool := false
  pfc : Bool := false
  classes : Nat := 0
  deriving DecidableEq, Repr

/-- Pleat of all slices. Queues and accounts go by numbers that carry the slice; shared cells by 8 × their group plus the source. -/
structure Pleat where
  accts : Tab Acct := []
  ctrlUsed : Tab Nat := []
  pool : Tab Nat := []
  inq : Tab (List Pkt) := []
  voq : Tab (List VoqEntry) := []
  egr : Tab (List EgEntry) := []
  nextId : Nat := 0
  sends : Tab SendRec := []
  nextSend : Nat := 0
  xoff : Tab Xoff := []
  buckets : Tab CtrlBucket := []
  seen : Tab TurnSeen := []
  xbarRr : Tab (List Nat) := []
  refs : Tab CellRef := []
  nextRef : Nat := 0
  instCells : Tab Nat := []
  deriving DecidableEq, Repr

/-! ### Hem -/

/-- A calendar (R315): base in ns, cycle in units of 8 ns, length; entries by index. -/
structure Cal where
  base : Nat := 0
  cycle : Nat := 0
  length : Nat := 0
  entries : Tab Nat := []
  deriving DecidableEq, Repr

/-- An armed activation (R319): its instant in ns, whether it stops the calendar, the command. -/
structure CalArm where
  whenNs : Nat
  stop : Bool
  cmd : Cmd
  deriving DecidableEq, Repr

/-- How a packet of a timed list leaves: at its launch instant; late, at the next frame boundary (R325); at once in list order
under IMMEDIATE (R326). -/
inductive Leave where
  | onTime | late | immediate
  deriving DecidableEq, Repr

/-- A packet on a timed list (R323): its launch instant in ns; whether its preparation has begun; how it leaves. -/
structure Timed where
  entry : EgEntry
  sub : Nat
  launch : Nat
  due : Bool := false
  leave : Leave := .onTime
  deriving DecidableEq, Repr

/-- Hem state of a port: calendars, timed list, the gate states held after a step with the instant that ends the hold
(R322), and the loss policy that governs the gates (R327: 1 OPEN, 2 CLOSE). A bank with CYCLE 0 is empty. -/
structure HemPort where
  active : Option Cal := none
  shadow : Cal := {}
  arm : Option CalArm := none
  timed : List Timed := []
  held : Option (Nat × Nat) := none
  override_ : Option Nat := none
  gates : Nat := 255
  deriving DecidableEq, Repr

/-- A frame under way at a sub-port: its class; how it left the timed list; when its first bit crosses the transmit Tack plane,
in units of device time, and STEP_TAG at its start; its bytes as transmitted, without FCS; whether it was started under the guard. -/
structure Tx where
  entry : EgEntry
  cls : Nat
  timed : Option Leave := none
  start : Nat := 0
  tag : Nat := 0
  wire : List Byte := []
  guard : Bool := false
  deriving DecidableEq, Repr

/-- Hem state of a sub-port (R311, R313, R179): deficits, the class whose turn it is, shaper tokens in 1/8000 byte with the ns
of their last filling, the frame under way, the pause of each priority from a device time until another. (DEDUCED, log 31) -/
structure HemSub where
  deficit : Tab Nat := []
  turn : Nat := 6
  tokens : Tab (Int × Nat) := []
  tx : Option Tx := none
  paused : Tab (Nat × Nat) := []
  deriving DecidableEq, Repr

/-- What the Hem copies on the home slices hold since the last turn (R328): queue depths by (port × 8 + sub-port) × 8 + class,
GATE and CALPOS by port; a number not listed has depth 0, all gates open, no calendar. -/
structure HemCopy where
  depth : Tab Nat := []
  gate : Tab Nat := []
  pos : Tab Nat := []
  deriving DecidableEq, Repr

/-! ### Ports and Bobbins -/

/-- A port: transmit lanes dark from causes outside the Bobbin's lasers, receive lanes on which light is detected, sub-ports that
go DISABLED once their frame ends, the PORT_DISABLE commands that wait for that, and the ns from which the port has had no
underrun and no decay (R188). -/
structure PortSt where
  txDark : Nat := 0
  rxLit : Nat := 0
  closing : Nat := 0
  waits : List Cmd := []
  quietAt : Nat := 0
  deriving DecidableEq, Repr

/-- A Bobbin slot: its identity block, the lasers whose spare is being warmed with the commands to be answered, a prepare that
waits for them (R199), the bias history of a laser as pairs of equivalent hours and bias (R197), the full calibration that runs; `dark`: a gate cut the drive and the lasers
are not yet back (R547); `seated`: it was in its slot at the start (R504); `aged`: what each laser has aged since its EQ_HOURS moved (R197);
`due`: its hours wait for the bus (R560). -/
structure BobbinSt where
  ident : List Byte := []
  serial : List Byte := []
  switching : Tab (Option Cmd) := []
  prepare : Option Cmd := none
  history : Tab (List (Nat × Nat)) := []
  calCmd : Option Cmd := none
  dark : Bool := false
  seated : Bool := false
  aged : Tab Nat := []
  due : Bool := false
  deriving DecidableEq, Repr

/-! ### Pattern -/

/-- An exact entry in an HBM slot or a cache line (R249): key words, role and tag of a publication, WSEQ, action words. -/
structure ExEntry where
  scope : Nat
  key : List Nat
  role : Nat := 0
  tag : Nat := 0
  wseq : Nat := 0
  act : List Nat
  deriving DecidableEq, Repr

/-- A line of a flow cache (R252): its way, and whether it is negative. -/
structure Line where
  way : Nat
  absent : Bool := false
  e : ExEntry
  deriving DecidableEq, Repr

/-- A rule in a slot (R256). -/
structure Rule where
  scope : Nat
  priority : Nat
  role : Nat := 0
  tag : Nat := 0
  wseq : Nat := 0
  value : List Nat
  mask : List Nat
  ranges : List (Nat × Nat)
  act : List Nat
  deriving DecidableEq, Repr

/-- A thread: slice, local engine, thread. -/
structure ThreadRef where
  s : Nat
  e : Nat
  t : Nat
  deriving DecidableEq, Repr

/-- A fill outstanding (R253): its key, the lookups it answers, the sequence each sees by; an update since its read. -/
structure Fill where
  slice : Nat
  scope : Nat
  key : List Nat
  waits : List (ThreadRef × Nat)
  stale : Bool := false
  deriving DecidableEq, Repr

/-- A publication that holds a tag (R73, R265): the switch sequences of the slices that have switched, S0 first, the epoch of the last
switch, the commit with the slot of its transaction, whether a deletion of it carried DRAIN, so that the commit is answered at clean-up,
and the rules that it writes or deletes. -/
structure Pub where
  seqs : List Nat := []
  epoch : Nat := 0
  cmd : Option Cmd := none
  slot : Nat := 0
  drain : Bool := false
  rules : List (Nat × Nat) := []
  deriving DecidableEq, Repr

/-- What is parked (R266): an HBM slot, a rule slot of a slice, pins with their final values. -/
inductive Parked where
  | slot (n : Nat)
  | rule (s n : Nat)
  | pins (first : Nat) (vals : List (Nat × Nat))
  deriving DecidableEq, Repr

/-- A parked resource. -/
structure Park where
  what : Parked
  scope : Nat
  epoch : Nat
  cmd : Option Cmd := none
  deriving DecidableEq, Repr

/-- A compressed counter on a slice (R268, R273). -/
structure Ctr where
  pk : Nat := 0
  by_ : Nat := 0
  pkMax : Nat := 0
  byMax : Nat := 0
  sat : Bool := false
  queued : Bool := false
  deriving DecidableEq, Repr

/-- A meter on a slice (R272): rates in Mb/s, depths in bytes, tokens in 1/8000 byte, the ns of their last filling. -/
structure Meter where
  scope : Nat
  cir : Nat
  pir : Nat
  cbs : Nat
  pbs : Nat
  tc : Nat
  tp : Nat
  at_ : Nat
  deriving DecidableEq, Repr

/-- A pin (R271): its scope, its totals in HBM, and by slice the packets and bytes counted on die since the last flush. -/
structure Pin where
  scope : Nat
  pk : Nat := 0
  by_ : Nat := 0
  parts : Tab (Nat × Nat) := []
  deriving DecidableEq, Repr

/-- Pattern. HBM slots by number; flow-cache lines by slice and set, most recently used first; rules by slice and slot;
compressed counters and meters by slice and index; `lost`: slice, scope and priority of the rules lost to errors (R257). -/
structure Pat where
  hbm : Tab ExEntry := []
  cache : Tab (List Line) := []
  fills : List Fill := []
  rules : Tab Rule := []
  pubs : Tab Pub := []
  parked : List Park := []
  ctrs : Tab Ctr := []
  accum : Tab (Nat × Nat) := []
  meters : Tab Meter := []
  pins : Tab Pin := []
  flushQ : List Nat := []
  lost : List (Nat × Nat × Nat) := []
  deriving DecidableEq, Repr

/-! ### Shuttle and Seam -/

/-- A channel request of a thread (R231): channel, operation, operand words, its place in the thread's order of issue; the
packet's LEN, context word 4 and the window bytes to be written back, as the end of its word left them (R221, R236). -/
structure ChanReq where
  ch : Nat
  op : Nat
  args : List Nat
  order : Nat
  len : Nat
  w4 : Nat
  back : List (Nat × Byte) := []
  full : Bool := false
  deriving DecidableEq, Repr

/-- A response (R232, R237): status, result word, data words; the packet bytes it installs in the window from an offset; the
new LEN, with which the whole window is new. -/
structure Resp where
  status : Nat := 0
  result : Nat := 0
  data : List Nat := []
  install : Option (Nat × List Byte) := none
  len : Option Nat := none
  deriving DecidableEq, Repr

/-- A tag in use (R212): issued and not yet taken by its unit, at work in its unit, answered with the response on its way, or
holding a response. -/
inductive TagSt where
  | out (q : ChanReq)
  | busy (ch : Nat)
  | flying (ch : Nat) (r : Resp)
  | held (r : Resp)
  deriving DecidableEq, Repr

/-- A thread (R201, R213) with the pass it runs. Registers that the pass has not written hold free values from number
`free_` of the run's draws. `arrived`: LEN as the packet came; `dirty`: window bytes that deposits have changed since the last write-back; `held`, `reserved`:
cells allocated in the pass, in use and reserved; `ending`: the disposition of an END that waits for the request it carried;
`ctxEcc`: its Seam context was invalidated (R282). -/
structure Thread where
  state : Nat := 0
  vector : Nat := 0
  timer : Option Nat := none
  free_ : Nat := 0
  regs : Tab Nat := []
  window : List Byte := []
  dirty : List Nat := []
  ctx : List Nat := []
  pkt : Pkt := {}
  tags : Tab TagSt := []
  upc : Nat := 0
  words : Nat := 0
  orders : Nat := 0
  arrived : Nat := 0
  start : Nat := 0
  seq : Nat := 0
  copies : List (Pkt × Dest) := []
  recirc : Option (Nat × Nat) := none
  held : Nat := 0
  reserved : Nat := 0
  ending : Option Nat := none
  awaits : Option Nat := none
  ctxEcc : Bool := false
  deriving DecidableEq, Repr

/-- A bank of slots, weights and shares (R209). -/
structure EngBank where
  slots : List Nat
  weights : List Nat
  share : Nat
  deriving DecidableEq, Repr

/-- An engine (R207 to R217): its step count, round pointer and credits, its threads, its pool of new cells, its active bank
where that is not the factory one, the bank that waits for a step with i = 0, and its faults of the present second. -/
structure Engine where
  step : Nat := 0
  wrr : Nat := 15
  credit : List Nat := List.replicate 16 0
  threads : Tab Thread := []
  pool : Nat := 64
  bank : Option EngBank := none
  apply : Option EngBank := none
  sec : Nat := 0
  faults : Nat := 0
  logged : Bool := false
  deriving DecidableEq, Repr

/-- A Seam context (R274 to R282): sequence, lane (none for a FREE vector), whether the pass has ended, what its release
places, the ns of its end, the slice and thread that run it. -/
structure SeamCtx where
  seq : Nat
  lane : Option Nat
  ended : Bool := false
  place : List (Pkt × Dest) := []
  input : List Charge := []
  endNs : Nat := 0
  origin : Origin := .timer 0 0
  deriving DecidableEq, Repr

/-- The Seam of a slice: the next sequence, live contexts in order of dispatch, releasable passes in order, lanes being
rebuilt. -/
structure Seam where
  next : Nat := 0
  ctxs : List SeamCtx := []
  ready : List Nat := []
  rebuild : List Nat := []
  deriving DecidableEq, Repr

/-- A control-store patch under way (R244): the clusters of the slice whose word is not yet written. -/
structure CsPatch where
  slice : Nat
  addr : Nat
  word : Nat
  left : List Nat
  deriving DecidableEq, Repr

/-- The Shuttle. Engines by slice × 160 + local number; control-store words that differ from the image, by cluster × 16,384 +
address; words with an uncorrectable error, and those whose rewrite failed; patch lists by slice and the patches under way; scratch words by cluster; clusters out of dispatch; timer
events under way. -/
structure Shuttle where
  engines : Tab Engine := []
  lastEng : Tab Nat := []
  lastQ : Tab Nat := []
  lastCtl : Tab Nat := []
  words : Tab Nat := []
  bad : List Nat := []
  stuck : List Nat := []
  patches : Tab (Tab Nat) := []
  csq : List CsPatch := []
  scratch : Tab Nat := []
  outClusters : List Nat := []
  timersLive : List Nat := []
  seam : Tab Seam := []
  deriving DecidableEq, Repr

end Sys2Proof.Machine
end

