-- ==== Sys2Proof/Machine/StateSpool.lean ====
section
/-! DEFINITION. State of the Spool's rings (chapter 15) and of tenant instances (chapter 16). -/

namespace Sys2Proof.Machine

/-- What a completion entry of a NORMAL ring reports (R412), without its control word and CONSUMED; `notify`: its message goes at
once (R421). -/
structure Cpl where
  kind : Nat
  status : Nat := 0
  flags : Nat := 0
  nbuf : Nat := 0
  ring : Nat
  count : Nat := 0
  stamp : Nat := 0
  reason : Nat := 0
  cookie : Nat := 0
  gen : Nat := 0
  consumed : Option Nat := none
  deriving DecidableEq, Repr

/-- Where an entry of a host-produced ring stands: read; its data being fetched; in the packet path, or its command in the
Cutter, or its buffer taken by a frame; its fate settled. -/
inductive EntryStage where
  | read | fetching | busy | done
  deriving DecidableEq, Repr

/-- An entry that the module has read and that is not yet consumed (R402, R418). `at_` is the count at which it starts; `waited`:
its wait for admission has been counted; `charge`: the cells admission gave it (R303); `segs`: the data of the segments that
have come; `stamp`: that of its first data read completion, with its STEP_TAG (R148, R149). -/
structure RingEntry where
  at_ : Nat
  units : Nat
  pad : Bool := false
  gen : Nat := 0
  raw : List Byte := []
  stage : EntryStage := .read
  waited : Bool := false
  charge : List Charge := []
  segs : Tab (List Byte) := []
  stamp : Option (Nat × Nat) := none
  cpl : Option Cpl := none
  deriving DecidableEq, Repr

/-- A ring (R390 to R394, R422, R426). The owner is an instance, or 4096 + e for the PF of endpoint e. State codes are those
of SPL_RING. `produced`: the PRODUCED last read, or the module's own for a COMPLETION ring; `consumed`: the module's own, or
that last read for a COMPLETION ring; `reading`: entries are being read; `asked`: the doorbell record is being read; `events`:
RING_EVENTs of this ring that wait to be written (R415); `pend`: completions kept for a frozen instance (R446); `unsent`,
`firstAt`: entries written since the last message, and the ns of the first (R421). -/
structure Ring where
  owner : Nat
  log2 : Nat
  group : Nat := 0
  attr : Nat := 0
  peer : Nat := 0
  addr : Nat
  record : Nat
  pasid : Option Nat := none
  vector : Option Nat := none
  modCount : Nat := 1
  modUs : Nat := 0
  state : Nat := 1
  cause : Nat := 0
  before : Nat := 1
  produced : Nat := 0
  read : Nat := 0
  consumed : Nat := 0
  eseq : Nat := 0
  hiddenAt : Option Nat := none
  reading : Bool := false
  asked : Bool := false
  entries : List RingEntry := []
  events : List Cpl := []
  pend : List Cpl := []
  unsent : Nat := 0
  firstAt : Nat := 0
  destroy : Option Cmd := none
  deriving DecidableEq, Repr

/-- An owner of rings (R404 to R409): its summary line, the counters last read, whether the line is being read, its deficit
and its round-robin places by priority level and by group, for sends and for deliveries. -/
structure Owner where
  summary : Option (Nat × Option Nat) := none
  last : Option (List Nat) := none
  asked : Bool := false
  deficit : Nat := 0
  groups : Tab Nat := []
  rings : Tab Nat := []
  rxDeficit : Nat := 0
  rxRing : Nat := 0
  deriving DecidableEq, Repr

/-- The quotas of an instance (R431), in the order of the mask of R434. -/
structure Quota where
  send : Nat := 64
  recv : Nat := 64
  cpl : Nat := 64
  admin : Nat := 2
  ctx : Nat := 256
  cap : Nat := 16384
  weight : Nat := 16
  deriving DecidableEq, Repr

/-- What an instance holds beside its registers (R431, R441, R445): the INST_FREEZE or INST_RESET that waits, the state it
takes when its reset ends. -/
structure Inst where
  quota : Quota := {}
  freeze : Option Cmd := none
  resetCmd : Option Cmd := none
  back : Nat := 1
  deriving DecidableEq, Repr

/-- The Spool of all slices, and the instances. Rings by kind × 65,536 + number; `served`, `delivered`: the owner each endpoint
served last for sends and for deliveries; the last generation of each owner; save slots. -/
structure Spool where
  rings : Tab Ring := []
  owners : Tab Owner := []
  served : Tab Nat := []
  delivered : Tab Nat := []
  insts : Tab Inst := []
  lastGen : Tab Nat := []
  saves : Tab (List Byte) := []
  deriving DecidableEq, Repr

end Sys2Proof.Machine
end

