-- ==== Sys2Proof/Machine/StateSto.lean ====
section
/-! DEFINITION. State of the storage offload (chapter 17). -/

namespace Sys2Proof.Machine

/-- A submission queue of a controller (R459, R461): the number it takes from the ring pool, its memory, its completion queue, the module's head, the tail last taken, the
entry up to which entries are being read, whether its deletion waits (with the admin command's identifier). -/
structure Sq where
  num : Nat := 0
  base : Nat
  size : Nat
  cq : Nat := 0
  head : Nat := 0
  tail : Nat := 0
  asked : Nat := 0
  delete : Option Nat := none
  deriving DecidableEq, Repr

/-- A completion that waits in its queue (R461): the command's queue and identifier, Dword 0, status (SCT and SC, DNR), the SQ head
it reports. -/
structure NvCpl where
  sq : Nat
  cid : Nat
  dw0 : Nat := 0
  status : Nat := 0
  deriving DecidableEq, Repr

/-- A completion queue of a controller: its memory, the module's tail and phase, the host's head last taken, the interrupt, the
completions that wait for room, and those written since the last message with the ns of the first. -/
structure Cq where
  num : Nat := 0
  base : Nat
  size : Nat
  tail : Nat := 0
  phase : Bool := true
  head : Nat := 0
  ien : Bool := true
  vector : Nat := 0
  wait : List NvCpl := []
  unsent : Nat := 0
  firstAt : Nat := 0
  deriving DecidableEq, Repr

/-- Where a command that the module has read stands (R458 to R471): read; its PRP list or its data being fetched; waiting for its
association or connection; at the target; an Asynchronous Event Request that waits; a deletion of an SQ that waits for its commands. -/
inductive NvStage where
  | read | list | data | wait | sent | aer | deleting
  deriving DecidableEq, Repr

/-- A command that the module has read: its queue, its 64 bytes, the ns at which it was read, the mapping it took (R464: target,
READ_ONLY, remote namespace), with the target and the namespace at it, the pages of its buffer, the list pointer still to be read, its data by part, whether read data has been
written, and its place in the order in which commands were first sent. -/
structure NvCmd where
  sq : Nat
  raw : List Byte
  at_ : Nat
  stage : NvStage := .read
  map : Option (Nat × Bool × Nat) := none
  target : Nat := 0
  nsid : Nat := 0
  conn : Nat := 0
  pages : List Nat := []
  list : Nat := 0
  got : Tab (List Byte) := []
  left : Nat := 0
  wrote : Bool := false
  order : Option Nat := none
  deriving DecidableEq, Repr

/-- The NVMe controller of a storage instance (R453 to R463): CC, CSTS, AQA, ASQ, ACQ; doorbell values by doorbell number; queues;
shadow doorbell and EventIdx pages; features; Asynchronous Event Requests and changed namespaces; commands read; logs; a
shutdown under way with the flushes it waits for (by namespace), once they are sent, and the ns at which SHN was set. -/
structure Nvme where
  cc : Nat := 0
  rdy : Bool := false
  cfs : Bool := false
  shst : Nat := 0
  aqa : Nat := 0
  asq : Nat := 0
  acq : Nat := 0
  bells : Tab Nat := []
  sqs : Tab Sq := []
  cqs : Tab Cq := []
  shadow : Option (Nat × Nat) := none
  arb : Nat := 0
  queues : Nat := 0x003F003F
  coal : Nat := 0
  cds : List Nat := []
  aec : Nat := 0
  notice : Bool := false
  changed : List Nat := []
  cmds : List NvCmd := []
  errors : List (List Byte) := []
  errCount : Nat := 0
  unitsRead : Nat := 0
  unitsWritten : Nat := 0
  hostReads : Nat := 0
  hostWrites : Nat := 0
  lastSq : Nat := 0
  flushes : Option (List Nat) := none
  shutAt : Nat := 0
  deriving DecidableEq, Repr

/-- What Identify Namespace of a remote namespace told (R457, R464): size and capacity in blocks, log2 of the block size, whether
its format has metadata or protection, whether the target reports a volatile write cache. -/
structure NsInfo where
  size : Nat := 0
  cap : Nat := 0
  lbads : Nat := 9
  plain : Bool := true
  deriving DecidableEq, Repr

/-- The association with a target (R465, R466): the step of CONNECTING under way and its I/O connection, when CONNECTING and the
retry wait began, consecutive failures, the ns of the loss that left LIVE, IOCCSZ and VWC of the target, identified
namespaces, retransmissions of the segment under way by connection. -/
structure Assoc where
  step : Nat := 0
  conn : Nat := 0
  since : Nat := 0
  fails : Nat := 0
  lossAt : Option Nat := none
  ioccsz : Nat := 0
  vwc : Bool := false
  ns : Tab NsInfo := []
  retx : Tab Nat := []
  alive : Nat := 0
  deriving DecidableEq, Repr

/-- The storage offload: controllers by instance; associations by slice × 64 + target; the number of the next first sending. -/
structure Sto where
  ctls : Tab Nvme := []
  assocs : Tab Assoc := []
  orders : Nat := 0
  deriving DecidableEq, Repr

end Sys2Proof.Machine
end

