-- ==== Sys2Proof/Machine/StateThm.lean ====
section
/-! DEFINITION. State of the Thimble cipher cluster (chapter 13). -/

namespace Sys2Proof.Machine

/-- Epoch keys of a context (R357): period and base in seconds, guard in ms. -/
structure EpochSet where
  period : Nat
  base : Nat
  guard : Nat
  deriving DecidableEq, Repr

/-- A record in progress (R337): nonce, epoch, AAD and the ciphertext of its parts so far. -/
structure PartRec where
  nonce : List Byte
  epoch : Int
  alt : Bool
  aad : List Byte
  acc : List Byte := []
  seq : Nat := 0
  deriving DecidableEq, Repr

/-- A replay window (R351) of one epoch: the highest sequence validated, and those seen. -/
structure Replay where
  epoch : Int
  top : Nat := 0
  seen : List Nat := []
  deriving DecidableEq, Repr

/-- A direction of a TLS SA (R352): its traffic secret, the highest sequence used, and those used of the record below it. -/
structure TlsDir where
  secret : List Byte
  high : Option Nat := none
  used : List Nat := []
  deriving DecidableEq, Repr

/-- A TLS SA (R353): role, suite, PSK slot; the last step; how many key shares; the ephemeral key; the secrets. -/
structure TlsSa where
  role : Nat
  suite : Nat
  psk : Option Nat
  step : Nat := 1
  shares : Nat := 0
  group : Nat := 0
  priv : List Byte := []
  early : List Byte
  hs : List Byte := []
  hsOwn : List Byte := []
  hsPeer : List Byte := []
  apOwn : List Byte := []
  apPeer : List Byte := []
  tx : Option TlsDir := none
  rx : Option TlsDir := none
  deriving DecidableEq, Repr

/-- What a handle names (R345): a key context, an ESP SA over one, a TLS SA. -/
inductive ThmKind where
  | ctx
  | esp (ctx spi window : Nat) (replay : List Replay)
  | tls (t : TlsSa)
  deriving DecidableEq, Repr

/-- A context or an SA (R345 to R347, R357): its serial, owner and root slot; the label's fields; the next counter; whether it
has accepted an operation; epochs; the record in progress of a direction; commands that wait to destroy it. Keys are functions of the root and
the label (R340), so none is held beside them; `keys` names the epochs whose keys are derived. -/
structure ThmObj where
  serial : Nat
  inst : Nat
  root : Option Nat
  kind : ThmKind := .ctx
  purpose : Nat := 0
  alg : Nat := 0
  dir : Nat := 0
  ctxId : Nat := 0
  incarnation : Nat := 0
  origin : List Byte := []
  counter : Nat := 1
  used : Bool := false
  epoch : Option EpochSet := none
  eHigh : Option Int := none
  keys : List Int := []
  rec_ : Option PartRec := none
  destroy : List Cmd := []
  dying : Bool := false
  deriving DecidableEq, Repr

/-- An accepted operation (R331): who waits, the object, what it will write into the packet and answer; the ESP sequence to
be recorded; data bytes it encrypts or decrypts. -/
structure ThmOp where
  who : ThreadRef
  tag : Nat
  obj : Nat
  write : Option (Nat × List Byte) := none
  resp : Resp
  replay : Option (Int × Nat) := none
  sealed_ : Nat := 0
  opened : Nat := 0
  deriving DecidableEq, Repr

/-- A MACsec SA (R355): its next PN, for receive the window and the lowest PN it was set to accept, its eight counters without the
PN. -/
structure MacSa where
  enable : Bool
  suite : Nat
  sci : Nat
  ssci : Nat
  ctx : Nat
  pn : Nat
  window : Nat
  floor : Nat := 0
  counts : List Nat := List.replicate 8 0
  deriving DecidableEq, Repr

/-- Thimble: contexts and SAs by slice × 32,768 + index; the last serial of each; operations by slice in order of acceptance;
ephemeral keys of AGREE_START by slot; MACsec SAs by ((port × 8 + sub-port) × 2 + direction) × 4 + AN, and the transmitting
AN by port × 8 + sub-port. -/
structure Thimble where
  objs : Tab ThmObj := []
  serials : Tab Nat := []
  ops : Tab (List ThmOp) := []
  agree : Tab (List Byte) := []
  macsec : Tab MacSa := []
  txAn : Tab Nat := []
  deriving DecidableEq, Repr

end Sys2Proof.Machine
end

