-- ==== Sys2Proof/Machine/State.lean ====
section
/-! DEFINITION. The module's state: everything the spec gives the machine, as plain data, the queue of waiting commands, the
reasons a step can stop, and the state right after reset. -/

namespace Sys2Proof.Machine

/-- The module without its command queue and its HBM. `perst`: the endpoints whose PERST_N pin is high (R552). A register field not listed in `regs` reads its reset value
(R15, R16). -/
structure Mod where
  regs : List (FKey × Nat) := []
  latches : List Latch := []
  outs : List Out := []
  drawn : Nat := 0
  powered : Bool := false
  tripped : Bool := false
  perst : List Nat := []
  ownReset : Bool := false
  holds : Tab Hold := []
  pwr : Pwr := {}
  ecc : Tab EccHour := []
  now : Nat := 0
  alog : AccessLog := {}
  logq : LogQueue := {}
  fit : Fit := {}
  cut : Cut := {}
  locks : Tab Lock := []
  mbxStored : Tab Nat := []
  mbxGone : List Nat := []
  tl : Tapeline := {}
  tack : Tack := {}
  wheel : Wheel := {}
  replies : List Reply := []
  txns : Tab Txn := []
  txnEnds : Nat := 0
  plt : Pleat := {}
  hem : Tab HemPort := []
  hsub : Tab HemSub := []
  hcopy : HemCopy := {}
  prt : Tab PortSt := []
  bob : Tab BobbinSt := []
  pat : Pat := {}
  shu : Shuttle := {}
  spl : Spool := {}
  thm : Thimble := {}
  msix : Tab Msix := []
  sel : Sel := {}
  sto : Sto := {}
  jxl : Jxl := {}
  chalk : Chalk := {}
  img : Img := {}
  deriving DecidableEq, Repr

/-- Faults: none is raised. Every rule of the spec that stops an access or an operation says what the module does
instead, and the model does that. -/
inductive Fault where
  /-- Never raised; a closed type needs a constructor. Safe: no step answers it. -/
  | never
  deriving DecidableEq, Repr

/-- Refusals. -/
inductive Refusal where
  /-- A command without a meaning yet; raised by its arm of `exec` alone. Safe: the machine stops. -/
  | notModelled (mnemonic : String)
  deriving DecidableEq, Repr

/-- The machine: the commands that are waiting, first in first out; the microcode data region of HBM by internal address
(R30, R32); everything else. -/
structure State where
  pending : List Instr
  mem : List Host.Cell
  m : Mod
  deriving DecidableEq, Repr

/-- The machine right after reset: the power-up state of a part as it is made, before the input is valid (R541). (DESIGN CHOICE, log 4) -/
def State.reset : State := ⟨[], [], {}⟩

end Sys2Proof.Machine
end

