-- ==== Sys2Proof/Machine/Ops.lean ====
section
/-! DEFINITION. The named operations over the state that the meanings share: tables, register fields, bytes, outputs, free
values, device time, the logs, MSI-X. -/

namespace Sys2Proof.Machine

/-! ### Tables -/

/-- The entry of number `k`. -/
def tget {α : Type} : Tab α → Nat → Option α
  | [], _ => none
  | (j, a) :: t, k => if j = k then some a else tget t k

/-- The entry of number `k`, or `d` where there is none. -/
def tgetD {α : Type} (t : Tab α) (k : Nat) (d : α) : α := (tget t k).getD d

/-- Takes the entry of number `k` out. -/
def tdel {α : Type} (t : Tab α) (k : Nat) : Tab α := t.filter (·.1 ≠ k)

/-- Puts an entry in, in the place its number gives it. -/
def tput {α : Type} : Tab α → Nat → α → Tab α
  | [], k, a => [(k, a)]
  | (j, b) :: t, k, a =>
    if k < j then (k, a) :: (j, b) :: t
    else if k = j then (k, a) :: t
    else (j, b) :: tput t k a

/-- Changes the entry of number `k`, starting from `d` where there is none. -/
def tmod {α : Type} (t : Tab α) (k : Nat) (d : α) (f : α → α) : Tab α := tput t k (f (tgetD t k d))

/-- Changes the entry of number `k` where there is one. -/
def tadj {α : Type} (t : Tab α) (k : Nat) (f : α → α) : Tab α :=
  match tget t k with
  | some a => tput t k (f a)
  | none => t

/-- The lowest number below `n` that the table does not hold. -/
def tfree {α : Type} (t : Tab α) (n : Nat) : Option Nat := (List.range n).find? fun k => (tget t k).isNone

/-! ### Bytes -/

/-- The `n` low bytes of `v`, least significant first (R6). -/
def leBytes : Nat → Nat → List Byte
  | 0, _ => []
  | n + 1, v => BitVec.ofNat 8 (v % 256) :: leBytes n (v / 256)

/-- The number that bytes hold, least significant first (R6). -/
def leNat : List Byte → Nat
  | [] => 0
  | b :: bs => b.toNat + 256 * leNat bs

/-- The `n` low bytes of `v` in wire order, most significant first. -/
def beBytes (n v : Nat) : List Byte := (leBytes n v).reverse

/-- The number that bytes hold in wire order. -/
def beNat (bs : List Byte) : Nat := leNat bs.reverse

/-- `n` bytes from offset `o`; zeros past the end. -/
def slice (bs : List Byte) (o n : Nat) : List Byte :=
  let s := (bs.drop o).take n
  s ++ List.replicate (n - s.length) 0

/-- The little-endian number in `n` bytes at offset `o`. -/
def leAt (bs : List Byte) (o n : Nat) : Nat := leNat (slice bs o n)

/-- Puts `new` over the bytes from offset `o`, keeping the length. -/
def overlay (bs : List Byte) (o : Nat) (new : List Byte) : List Byte :=
  (bs.take o ++ new ++ bs.drop (o + new.length)).take bs.length

/-- Bit `i` of a number. -/
def bit (v i : Nat) : Bool := v / 2 ^ i % 2 = 1

/-- Bits `lo + w − 1` to `lo` of a number. -/
def bits (v lo w : Nat) : Nat := v / 2 ^ lo % 2 ^ w

/-- 1 or 0. -/
def b2n (b : Bool) : Nat := if b then 1 else 0

/-- A signed number from its `w`-bit two's complement. -/
def signed (w v : Nat) : Int := if v % 2 ^ w < 2 ^ (w - 1) then (v % 2 ^ w : Int) else (v % 2 ^ w : Int) - 2 ^ w

/-- The `w`-bit two's complement of a number. -/
def unsigned (w : Nat) (i : Int) : Nat := (i % 2 ^ w).toNat

/-- A sum of powers of two. -/
def bitSum (l : List Nat) : Nat := (l.map (2 ^ ·)).foldl (· + ·) 0

/-- A quotient rounded up. -/
def ceilDiv (a b : Nat) : Nat := (a + b - 1) / b

/-- A list with entry `i` changed. -/
def lset {α : Type} (l : List α) (i : Nat) (a : α) : List α := l.set i a

/-! ### Register fields -/

/-- The reset value of a field. -/
def FKey.resetVal (k : FKey) : Nat := k.fld.reg.resetVal (ixGet k.ix) / 2 ^ k.fld.lo % 2 ^ k.fld.w

/-- The value of field `f` of the register at indices `ix`, in the bits the field has. -/
def Mod.get (m : Mod) (f : Fld) (ix : List Nat := []) : Nat :=
  match m.regs.find? (·.1 = ⟨f, ix⟩) with
  | some (_, v) => v % 2 ^ f.w
  | none => (FKey.mk f ix).resetVal

/-- Puts a value into a field; the field keeps the bits it has room for. -/
def Mod.set (m : Mod) (f : Fld) (ix : List Nat) (v : Nat) : Mod :=
  let k : FKey := ⟨f, ix⟩
  let w := v % 2 ^ f.w
  let rest := m.regs.filter (·.1 ≠ k)
  { m with regs := if w = k.resetVal then rest else (k, w) :: rest }

/-- A field as a flag. -/
def Mod.flag (m : Mod) (f : Fld) (ix : List Nat := []) : Bool := m.get f ix = 1

/-- Puts a flag. -/
def Mod.setFlag (m : Mod) (f : Fld) (ix : List Nat) (b : Bool) : Mod := m.set f ix (b2n b)

/-- Counts `n` in a field that wraps (R190). (DESIGN CHOICE, log 80) -/
def Mod.count (m : Mod) (f : Fld) (ix : List Nat := []) (n : Nat := 1) : Mod := m.set f ix (m.get f ix + n)

/-- Counts `n` in a field that saturates. (DESIGN CHOICE, log 80) -/
def Mod.countSat (m : Mod) (f : Fld) (ix : List Nat := []) (n : Nat := 1) : Mod :=
  m.set f ix (min (m.get f ix + n) (2 ^ f.w - 1))

/-- The stored contents of a whole register: its fields in their places; reserved bits are zero (R8). -/
def Mod.stored (m : Mod) (r : Reg) (ix : List Nat := []) : Nat :=
  (r.fields.map fun f => m.get ⟨r, f.lo, f.w⟩ ix * 2 ^ f.lo).foldl (· + ·) 0

/-- Puts every field of a register from a whole value. -/
def Mod.setStored (m : Mod) (r : Reg) (ix : List Nat) (v : Nat) : Mod :=
  r.fields.foldl (fun m f => m.set ⟨r, f.lo, f.w⟩ ix (bits v f.lo f.w)) m

/-- Returns every register of a kind under leading indices `pre` to its reset value. -/
def Mod.resetReg (m : Mod) (r : Reg) (pre : List Nat) : Mod :=
  { m with regs := m.regs.filter fun e => !(e.1.fld.reg = r && e.1.ix.take pre.length = pre) }

/-! ### Outputs, free values, device time -/

/-- Sends something out. (DESIGN CHOICE, log 10) -/
def Mod.emit (m : Mod) (o : Out) : Mod := { m with outs := o :: m.outs }

/-- Draws the next free value, below `n`. (DESIGN CHOICE, log 6) -/
def Mod.draw (m : Mod) (n : Nat) : Nat × Mod := (Config.freeValue m.drawn % n, { m with drawn := m.drawn + 1 })

/-- One nanosecond in units of device time. (DESIGN CHOICE, log 2) -/
def nsUnit : Nat := 65536

/-- Device time in whole nanoseconds. -/
def Mod.ns (m : Mod) : Nat := m.now / nsUnit

/-- TAI seconds of a device time. -/
def secOf (t : Nat) : Nat := t / (nsUnit * 1000000000)

/-- Nanoseconds of a device time. -/
def nsOf (t : Nat) : Nat := t / nsUnit % 1000000000

/-- [63:32] low 32 bits of the TAI seconds, [31:0] nanoseconds: the form of DONE_TIME (R44) and of the access-error log. -/
def time64 (t : Nat) : Nat := secOf t % 2 ^ 32 * 2 ^ 32 + nsOf t

/-- Device time runs to `t` (never back; R113 to R115 give the steps). (DESIGN CHOICE, log 2) -/
def Mod.runTo (m : Mod) (t : Nat) : Mod := { m with now := max m.now t }

/-- Device time runs to `ns` nanoseconds. (DESIGN CHOICE, log 2) -/
def Mod.runToNs (m : Mod) (ns : Nat) : Mod := m.runTo (ns * nsUnit)

/-- A host-link stamp: device time cut to the resolution of 125 ps (R147, R148). -/
def hostStamp (t : Nat) : Nat := t / 8192 * 8192

/-- STEP_TAG now (R148). -/
def Mod.stepTag (m : Mod) : Nat := m.tl.steps % 16

/-- The internal address of a register. -/
def regAddr (r : Reg) (ix : List Nat := []) : Nat := (RegKey.mk r ix).addr

/-! ### The COLD reset -/

/-- A COLD reset that the module carries out itself (R15, R502, R516): what Chalk holds stays, every other state takes its
reset value; every host link drops, and device time starts from zero (R113). -/
def Mod.coldReset (m : Mod) : Mod :=
  { chalk := m.chalk, ownReset := true, powered := m.powered, drawn := m.drawn, perst := m.perst,
    outs := (List.range 32).map (fun e => Out.linkDrop e) ++ m.outs }

/-! ### Sub-ports -/

/-- Sub-ports of port `n` in its breakout (R177). -/
def Mod.subCount (m : Mod) (n : Nat) : Nat := 2 ^ m.get F.PRT_CFG_BREAKOUT [n]

/-- The state code of sub-port `k` of port `n` (R184). -/
def Mod.subState (m : Mod) (n k : Nat) : Nat := bits (m.get F.PRT_STATUS_SUB_STATE [n]) (3 * k) 3

/-- Puts a sub-port's state. -/
def Mod.setSub (m : Mod) (n k st : Nat) : Mod :=
  let v := m.get F.PRT_STATUS_SUB_STATE [n]
  m.set F.PRT_STATUS_SUB_STATE [n] (v - bits v (3 * k) 3 * 8 ^ k + st * 8 ^ k)

/-! ### MSI-X, the logs, the access-error log -/

/-- Indices of an endpoint's registers: slice, link of the slice, half. -/
def epIx (e : Nat) : List Nat := [e / 4, e / 2 % 2, e % 2]

/-- Indices of a port's Hem registers, and of its Pleat registers: slice, local port. -/
def portIx (n : Nat) : List Nat := [n / 12, n % 12]

/-- The number by which tables know a function. -/
def fnKey (f : Fn) : Nat := match f.vf with | none => f.ep * 2048 | some v => f.ep * 2048 + v + 1

/-- The PF of endpoint `e`. -/
def pf (e : Nat) : Fn := ⟨e, none⟩

/-- A function is frozen: its own scope, or its endpoint's (R381). RELEASING counts: the release has not ended. -/
def Mod.frozen (m : Mod) (f : Fn) : Bool :=
  m.get F.SEL_FREEZE_EP_STATE (epIx f.ep) ≠ 0 ||
    (match f.vf with
     | none => m.get F.SEL_FREEZE_PF_STATE (epIx f.ep) ≠ 0
     | some v => m.get F.SEL_FREEZE_VF_STATE (epIx f.ep ++ [v]) ≠ 0)

/-- What the host has configured of a function. -/
def Mod.fnCfg (m : Mod) (f : Fn) : FnCfg := tgetD m.sel.cfg (fnKey f) {}

/-- The function exists (R364, R373): its endpoint does; a VF needs VF Enable and a number below NumVFs. -/
def Mod.fnExists (m : Mod) (f : Fn) : Bool :=
  m.flag F.SEL_EP_STATUS_PRESENT (epIx f.ep) &&
    (match f.vf with
     | none => true
     | some v => (m.fnCfg (pf f.ep)).vfEnable && decide (v < (m.fnCfg (pf f.ep)).numVfs))

/-- The data link layer of an endpoint is up. -/
def Mod.linkUp (m : Mod) (e : Nat) : Bool := m.flag F.SEL_EP_STATUS_LINK_UP (epIx e)

/-- A function is in reset (R385). -/
def Mod.fnInReset (m : Mod) (f : Fn) : Bool := m.sel.inReset.contains f

/-- The module may issue requests as a function: it exists, its link is up, it is neither frozen nor in reset (R373, R381,
R385). (DEDUCED, log 53) -/
def Mod.issues (m : Mod) (f : Fn) : Bool := m.fnExists f && m.linkUp f.ep && !m.frozen f && !m.fnInReset f

/-- Counts in SEL_CNT of an endpoint. -/
def Mod.selCount (m : Mod) (e i : Nat) (n : Nat := 1) : Mod := m.count F.SEL_CNT_COUNT (epIx e ++ [i]) n

/-- A posted write into host memory. One generated for a frozen function, or for one in reset, is discarded, its TLPs counted
(R381, R384). (DESIGN CHOICE, log 10) -/
def Mod.hostWrite (m : Mod) (f : Fn) (addr : Nat) (pasid : Option Nat) (bs : List Byte) (relaxed : Bool := false) : Mod :=
  let tlps := max 1 (ceilDiv bs.length (m.fnCfg (pf f.ep)).mps)
  if m.issues f then m.emit (.hostWrite f addr pasid bs relaxed)
  else if m.fnInReset f then m.selCount f.ep 2 tlps
  else if m.frozen f then m.selCount f.ep 4 tlps
  else m

/-- Data writes of a function carry Relaxed Ordering: Enable Relaxed Ordering and RO_DATA are both 1 (R380). -/
def Mod.relaxes (m : Mod) (f : Fn) : Bool :=
  (m.fnCfg f).ro && (match f.vf with | none => m.flag F.SEL_PF_CFG_RO_DATA (epIx f.ep) | some v => m.flag F.SEL_VF_CFG_RO_DATA (epIx f.ep ++ [v]))

/-- A write of data into host memory (R380). -/
def Mod.dataWrite (m : Mod) (f : Fn) (addr : Nat) (pasid : Option Nat) (bs : List Byte) : Mod := m.hostWrite f addr pasid bs (m.relaxes f)

/-- The function of an instance (R437: endpoint and VF of INST_STATUS). -/
def Mod.instFn (m : Mod) (i : Nat) : Fn := ⟨m.get F.INST_STATUS_ENDPOINT [i], some (m.get F.INST_STATUS_VF [i])⟩

/-- An event on an MSI-X vector (R372): a message, or the Pending bit while the vector is masked or the function's MSI-X is
off; nothing while the function is frozen (R381). -/
def Mod.raise (m : Mod) (f : Fn) (v : Nat) : Mod :=
  if m.frozen f then m
  else
    let x := tgetD m.msix (fnKey f) {}
    let e := tgetD x.vecs v {}
    if x.enable && !x.fmask && !e.mask then m.emit (.msix f v e.addr e.data)
    else { m with msix := tput m.msix (fnKey f) { x with vecs := tput x.vecs v { e with pending := true } } }

/-- The function of a master identity: a PF, or an instance's VF (R42). -/
def Mod.midFn (m : Mod) (mid : Nat) : Option Fn :=
  if mid / 4096 = 1 then some (pf (mid % 32))
  else if mid / 4096 = 2 then some (m.instFn (mid % 4096))
  else none

/-- The answer to a host's read, where the requester is a function. -/
def Mod.answerRead (m : Mod) (r : Req) (v : Nat) : Mod :=
  match if r.viaCmd then none else m.midFn r.mid with
  | some f => m.emit (.completion f.ep v)
  | none => m

/-- The manager's master identity. -/
def Mod.managerMid (m : Mod) : Nat := m.get F.CUT_CFG_MANAGER_MID

/-- A vector of the manager's PF. -/
def Mod.raiseManager (m : Mod) (v : Nat) : Mod :=
  match m.midFn m.managerMid with
  | some f => m.raise f v
  | none => m

/-- Sets bits of GLB_ERR_STATUS; a bit that becomes set raises GLB_ERR_CFG.VECTOR when VEC_EN is 1 (R564). -/
def Mod.errStatus (m : Mod) (f : Fld) (bitIdx : Nat) : Mod :=
  let old := m.get f
  if bit old bitIdx then m
  else
    let m := m.set f [] (old + 2 ^ bitIdx)
    if m.flag F.GLB_ERR_CFG_VEC_EN then m.raiseManager (m.get F.GLB_ERR_CFG_VECTOR) else m

/-- Logs a refused access (R11, R571): at most 256 entries held, GLB_ERR_STATUS.ACCESS set (R572). (DEDUCED, log 14) -/
def Mod.refuse (m : Mod) (mid addr : Nat) (write wide : Bool) (cause : Nat) : Mod :=
  let n := m.alog.count + 1
  let e : AccessEntry := ⟨addr, write, wide, mid, time64 m.now, cause, n⟩
  let full := m.alog.entries.length ≥ 256 && m.alog.seen + 256 < n
  let m := { m with alog := { m.alog with entries := (e :: m.alog.entries).take 256, count := n,
                                          overwritten := m.alog.overwritten + b2n full } }
  m.errStatus F.GLB_ERR_STATUS_ACCESS 0

/-- Queues an entry for the event log or the error log (R568): at most 1,024 wait; one that finds the queue full is lost,
counted in LOST and sets LOG_LOST. (DESIGN CHOICE, log 79) -/
def Mod.queueLog (m : Mod) (cls code source : Nat) (detail : List Byte) : Mod :=
  if m.logq.queue.length ≥ 1024 then
    let m := (m.countSat F.GLB_LOG_STATUS_LOST).errStatus F.GLB_ERR_STATUS_LOG_LOST 0
    { m with logq := if cls < 16 then { m.logq with lostErrors := m.logq.lostErrors + 1 }
                     else { m.logq with lostEvents := m.logq.lostEvents + 1 } }
  else
    let e : LogEntry := { time := m.now, boot := m.chalk.boot, cls := cls, code := code,
                          traceable := m.flag F.TPL_STATE_TRACEABLE, source := source, detail := detail.take 24 }
    { m with logq := { m.logq with queue := m.logq.queue ++ [e] } }

/-- Writes an event (classes 16 to 21, R563). -/
def Mod.event (m : Mod) (cls code : Nat) (source : Nat := 0) (detail : List Byte := []) : Mod :=
  m.queueLog cls code source detail

/-- The SEQ that the next entry of the error log will have once the queue is written. -/
def Mod.nextErrSeq (m : Mod) : Nat := m.chalk.logs.errorSeq + b2n (m.logq.lostErrors > 0) + (m.logq.queue.filter (·.cls < 16)).length

/-- Writes an error-log entry (classes 1 to 6, R563): its GLB_ERR_STATUS bit, and a Fitting trigger of source ERROR for
each armed slot whose class mask names it (R575). -/
def Mod.error (m : Mod) (cls code : Nat) (source : Nat := 0) (detail : List Byte := []) : Mod :=
  let seq := m.nextErrSeq
  let m := (m.queueLog cls code source detail).errStatus F.GLB_ERR_STATUS_CLASS (cls - 1)
  let hit := m.fit.slots.filter fun s => s.2.source = 2 && bit s.2.param cls
  { m with fit := { m.fit with pend := m.fit.pend ++ hit.map fun s =>
      { source := 2, slot := some s.1, clear := s.2.clear, errSeq := seq } } }

end Sys2Proof.Machine
end

