-- ==== Sys2Proof/Machine/Foreground.lean ====
section
/-! DEFINITION. Foreground requests to the shared units of the wheel (*The wheel of stitches*): who holds a unit at an instant, and what a
request then meets (R97 to R100, R107 to R109). -/

namespace Sys2Proof.Machine

/-- The active ownership table of shared unit `u` (R105, R106). -/
def Mod.stwTable (m : Mod) (u : Nat) : List Nat :=
  match tget m.wheel.active u with
  | some t => t
  | none => (List.range 256).map (stwFactory u)

/-- The owner of the stitch of unit `u` at `t` ns (R97, R102). -/
def Mod.stwOwner (m : Mod) (u t : Nat) : Nat := (m.stwTable u).getD (t % 8192 / 32) 0

/-- A background class holds unit `u` at `t` ns (R107): through the stitch it was granted; after a step, to the end of that one (R98). -/
def Mod.held (m : Mod) (u t : Nat) : Bool :=
  (tget m.wheel.holder u).isSome && (if m.wheel.realign then decide (t < m.wheel.tail) else decide (t / 32 = m.wheel.cur))

/-- `t` ns lies before the end of a realign gap (R98). -/
def Mod.inGap (m : Mod) (t : Nat) : Bool := m.wheel.realign && decide (t < ceilDiv m.wheel.tail 32 * 32)

/-- A foreground request waits for unit `u`. -/
def Mod.fgWait (m : Mod) (u t : Nat) (behind : Bool) : Mod :=
  { m with wheel := { m.wheel with waits := tmod m.wheel.waits u [] (· ++ [⟨t, behind⟩]) } }

/-- Foreground uses a stitch of unit `u` that background owns: LENT counts the stitch once. -/
def Mod.lend (m : Mod) (u t : Nat) : Mod :=
  if tget m.wheel.lent u = some (t / 32) then m
  else { m with wheel := { m.wheel with lent := tput m.wheel.lent u (t / 32) } }.countSat F.STW_STATS_LENT [u]

/-- A foreground request reaches unit `u` at `t` ns (R107 to R109): behind a holder it waits, counted; in a realign gap, on a stitch
of its own and, with LEND_EN, on one that background owns and nobody holds it starts; otherwise it waits for a boundary. (DEDUCED, log 71) -/
def Mod.fgAt (m : Mod) (u t : Nat) : Mod :=
  if m.held u t then (m.fgWait u t true).countSat F.STW_STATS_FG_DELAYED [u]
  else if m.inGap t || m.stwOwner u t = 0 then m
  else if m.flag F.STW_CFG_LEND_EN then m.lend u t
  else m.fgWait u t false

/-- What a command does puts a foreground request to each of these units now (R100). (DESIGN CHOICE, log 71) -/
def Mod.fgUse (m : Mod) (us : List Nat) : Mod := let t := m.ns; us.foldl (fun m u => m.fgAt u t) m

/-- The table ports of the eight slices (R100). -/
def tablePorts : List Nat := (List.range 8).map (145 + ·)

/-- The units that a command's own work uses as foreground (R100): the channels of the save region, which a slot spreads over; Chalk for
commits, chunks, incarnations and log reads; the export path. (DEDUCED, log 71) -/
def commandUnits (op : Nat) : List Nat :=
  if op = 0x0107 || op = 0x0108 then List.range 64
  else if op = 0x0006 || op = 0x0802 || op = 0x0502 || op = 0x000B || op = 0x0905 then [64]
  else if op = 0x030C then [153]
  else []

end Sys2Proof.Machine
end

