-- ==== Sys2Proof/Machine/Operands.lean ====
section
/-! DEFINITION. The operand forms of commands: the command packet and its TLVs (R44 to R47), the opcode table with roles and
TLVs (R64), the checks at receipt (R20, R58), replies (R48, R49) and the objects a command holds (R61). -/

namespace Sys2Proof

namespace Machine

/-! ### Status codes (R19) -/

/-- OK. -/
def stOk : Nat := 0
/-- BUSY. -/
def stBusy : Nat := 1
/-- INVALID. -/
def stInvalid : Nat := 2
/-- NO_RESOURCE. -/
def stNoResource : Nat := 3
/-- ABORTED. -/
def stAborted : Nat := 4
/-- STALE_GENERATION. -/
def stStale : Nat := 5
/-- BROKEN_LOCK. -/
def stBroken : Nat := 6
/-- NOT_TRACEABLE. -/
def stNotTraceable : Nat := 7
/-- AUTH_FAIL. -/
def stAuthFail : Nat := 8
/-- FROZEN. -/
def stFrozen : Nat := 9

/-- What a command answers: its status, the error fields, the reply's TLVs; `late` when a failure came up in the work itself
and what the work did stands. -/
structure Ans where
  status : Nat := 0
  late : Bool := false
  errTlv : Nat := 0
  errDetail : Nat := 0
  tlvs : List Tlv := []
  deriving DecidableEq, Repr

/-- INVALID for a fault in the header. -/
def badHeader (detail : Nat := 0) : Ans := { status := stInvalid, errDetail := detail }

/-- INVALID for the TLV at a position. -/
def badTlv (pos : Nat) (detail : Nat := 0) : Ans := { status := stInvalid, errTlv := pos, errDetail := detail }

/-- INVALID for a TLV that is required and absent (R45). -/
def missing : Ans := { status := stInvalid, errTlv := 0xFFFF }

/-- OK with reply TLVs. -/
def okWith (ts : List Tlv) : Ans := { tlvs := ts }

/-! ### TLVs -/

end Machine

/-- The type number of a TLV, without its OPTIONAL bit (R45). -/
def Tlv.num (t : Tlv) : Nat := t.typ % 32768

/-- The OPTIONAL bit. -/
def Tlv.optional (t : Tlv) : Bool := t.typ ≥ 32768

namespace Machine

/-- The TLVs of one type with their 1-based positions. -/
def tlvsAt (n pos : Nat) : List Tlv → List (Nat × List Byte)
  | [] => []
  | t :: ts => if t.num = n then (pos, t.val) :: tlvsAt n (pos + 1) ts else tlvsAt n (pos + 1) ts

end Machine

/-- The TLVs of type `n` of a command, with their positions. -/
def Cmd.all (c : Cmd) (n : Nat) : List (Nat × List Byte) := Machine.tlvsAt n 1 c.tlvs

/-- The first TLV of type `n`. -/
def Cmd.tlv (c : Cmd) (n : Nat) : Option (Nat × List Byte) := (c.all n).head?

/-- The bytes of the first TLV of type `n`; none when absent. -/
def Cmd.val (c : Cmd) (n : Nat) : List Byte := match c.tlv n with | some (_, v) => v | none => []

/-- The position of the first TLV of type `n`. -/
def Cmd.pos (c : Cmd) (n : Nat) : Nat := match c.tlv n with | some (p, _) => p | none => 0xFFFF

/-- INVALID for the first TLV of type 0x0100. -/
def Cmd.bad (c : Cmd) (detail : Nat := 0) : Machine.Ans := Machine.badTlv (c.pos 0x100) detail

/-- INVALID for the TLS step TLV. -/
def Cmd.badStep (c : Cmd) (detail : Nat := 0) : Machine.Ans := Machine.badTlv (c.pos 0x110) detail

/-- The BUFFER TLV (R46): host address, length, PASID. (DESIGN CHOICE, log 11) -/
def Cmd.buffer (c : Cmd) : Option (Nat × Nat × Option Nat) :=
  match c.tlv 1 with
  | some (_, v) => some (Machine.leAt v 0 8, Machine.leAt v 8 4,
      if Machine.bit (Machine.leAt v 12 4) 31 then some (Machine.leAt v 12 4 % 2 ^ 20) else none)
  | none => none

/-- The bytes a TLV occupies: type, length, value, padding to 8 (R45). -/
def Tlv.bytes (t : Tlv) : List Byte :=
  Machine.leBytes 2 t.typ ++ Machine.leBytes 2 t.val.length ++ t.val ++ List.replicate ((8 - (4 + t.val.length) % 8) % 8) 0

namespace Machine

/-- A reply TLV. -/
def tlv (n : Nat) (v : List Byte) : Tlv := ⟨n, v⟩

/-- Reads the TLVs of a packet body; `none` when they end before or after it (R45). -/
def parseTlvs : Nat → List Byte → Option (List Tlv)
  | _, [] => some []
  | 0, _ => none
  | fuel + 1, bs =>
    let len := leAt bs 2 2
    let room := ceilDiv (4 + len) 8 * 8
    if bs.length < room then none
    else match parseTlvs fuel (bs.drop room) with
      | some ts => some (⟨leAt bs 0 2, slice bs 4 len⟩ :: ts)
      | none => none

/-! ### The opcode table (R64) -/

/-- Who may issue an opcode (R64): A, D, M, L, or every requester. -/
inductive RoleKind where
  | a | d | m | l | own
  deriving DecidableEq, Repr

/-- One TLV an opcode takes: type, least and greatest length, whether it may repeat, whether it is required (R45). -/
structure TlvSpec where
  typ : Nat
  lo : Nat
  hi : Nat
  many : Bool := false
  req : Bool := false
  deriving DecidableEq, Repr

/-- One row of the opcode table with its parameters. -/
structure OpSpec where
  code : Nat
  role : RoleKind
  tlvs : List TlvSpec := []
  buffer : Bool := false
  deriving DecidableEq, Repr

/-- A TLV that must be present once. -/
def req (t lo : Nat) (hi : Nat := lo) : TlvSpec := ⟨t, lo, hi, false, true⟩
/-- A TLV that may be present once. -/
def opt (t lo : Nat) (hi : Nat := lo) : TlvSpec := ⟨t, lo, hi, false, false⟩
/-- A TLV that must be present and may repeat. -/
def reqMany (t lo : Nat) (hi : Nat := lo) : TlvSpec := ⟨t, lo, hi, true, true⟩
/-- A TLV that may repeat. -/
def optMany (t lo : Nat) (hi : Nat := lo) : TlvSpec := ⟨t, lo, hi, true, false⟩

/-- The opcodes of chapter 02 (R62, R65 to R70). -/
def ops02 : List OpSpec :=
  [⟨0x0001, .a, [], false⟩, ⟨0x0002, .a, [], false⟩,
   ⟨0x0004, .m, [reqMany 0x100 16], true⟩, ⟨0x0005, .m, [reqMany 0x100 16 8192], false⟩,
   ⟨0x000A, .own, [req 0x100 4], false⟩,
   ⟨0x0304, .d, [req 0x100 4], false⟩, ⟨0x0305, .d, [], false⟩, ⟨0x0306, .d, [], false⟩, ⟨0x0307, .d, [], false⟩,
   ⟨0x0A01, .l, [req 0x100 4], false⟩, ⟨0x0A02, .l, [req 0x100 4], false⟩, ⟨0x0A03, .l, [req 0x100 4], false⟩,
   ⟨0x0A04, .m, [reqMany 0x100 8], false⟩, ⟨0x0A05, .m, [reqMany 0x100 12], false⟩, ⟨0x0A06, .m, [req 0x100 4], false⟩,
   ⟨0x0907, .m, [req 0x100 32], false⟩]

/-- The opcodes of chapters 19 and 20. -/
def ops20 : List OpSpec :=
  [⟨0x0003, .m, [], false⟩, ⟨0x0006, .m, [], false⟩, ⟨0x0007, .m, [req 0x100 4], false⟩,
   ⟨0x0801, .m, [req 0x100 32], false⟩, ⟨0x0802, .m, [req 0x100 16, opt 0x101 0 8192], true⟩, ⟨0x0803, .m, [], false⟩,
   ⟨0x0804, .m, [], false⟩, ⟨0x0805, .m, [req 0x100 4], false⟩, ⟨0x0806, .m, [], false⟩, ⟨0x0807, .a, [], false⟩]

/-- The opcodes of chapters 21 and 22 (R557, R570, R572, R579, R580). -/
def ops22 : List OpSpec :=
  [⟨0x0009, .m, [reqMany 0x100 8], false⟩, ⟨0x000B, .m, [req 0x100 12], true⟩, ⟨0x0901, .m, [req 0x100 24], false⟩,
   ⟨0x0902, .m, [req 0x100 8], false⟩, ⟨0x0903, .m, [req 0x100 16], true⟩, ⟨0x0904, .m, [req 0x100 4], false⟩,
   ⟨0x0905, .a, [req 0x100 12], true⟩, ⟨0x0906, .m, [opt 0x102 4], false⟩]

/-- The opcodes of chapters 03 to 05 (R89, R121, R130, R139, R142, R143, R162, R167, R174). -/
def ops04 : List OpSpec :=
  [⟨0x0008, .m, [opt 0x100 4, opt 0x101 4], false⟩, ⟨0x0401, .a, [], false⟩,
   ⟨0x0402, .m, [optMany 0x100 8, opt 0x101 4], false⟩, ⟨0x0403, .m, [optMany 0x100 12, opt 0x101 8], false⟩,
   ⟨0x0404, .a, [], false⟩, ⟨0x0405, .m, [req 0x100 4], false⟩, ⟨0x0406, .a, [req 0x100 8], true⟩,
   ⟨0x0407, .d, [req 0x100 16], false⟩, ⟨0x0408, .m, [reqMany 0x100 12], false⟩]

/-- The opcodes of chapter 09 (R248, R261, R264, R271, R273). The lengths of table TLVs depend on the scope: R264 judges them, with an
ERR_DETAIL of its own. -/
def ops09 : List OpSpec :=
  [⟨0x0301, .d, [optMany 0x100 0 8192, optMany 0x101 0 8192, optMany 0x102 0 8192], false⟩,
   ⟨0x0302, .d, [optMany 0x103 0 8192, optMany 0x104 0 8192, optMany 0x105 0 8192], false⟩,
   ⟨0x0303, .d, [opt 0x103 0 8192, opt 0x104 0 8192, opt 0x105 0 8192], false⟩,
   ⟨0x0308, .m, [reqMany 0x100 40], false⟩, ⟨0x0309, .m, [reqMany 0x100 40], false⟩, ⟨0x030A, .d, [req 0x100 8], false⟩,
   ⟨0x030B, .d, [req 0x100 8], true⟩, ⟨0x030C, .d, [opt 0x100 12, opt 0x180 8], true⟩, ⟨0x030D, .m, [reqMany 0x100 48], false⟩]

/-- The opcodes of chapter 13 (R339, R344, R346, R348, R351, R353, R355, R357). -/
def ops13 : List OpSpec :=
  [⟨0x0501, .m, [req 0x100 4 101], false⟩, ⟨0x0502, .m, [req 0x100 8], false⟩, ⟨0x0503, .d, [req 0x100 40], false⟩,
   ⟨0x0504, .d, [req 0x100 4], false⟩, ⟨0x0505, .d, [req 0x100 24], false⟩,
   ⟨0x0506, .d, [opt 0x100 16, opt 0x110 8 8192], false⟩, ⟨0x0507, .d, [req 0x100 4], false⟩,
   ⟨0x0508, .m, [reqMany 0x100 40], false⟩]

/-- The opcodes of chapter 06 (R183, R194, R198 to R200). -/
def ops06 : List OpSpec :=
  [⟨0x0601, .m, [optMany 0x100 12, optMany 0x101 8], false⟩, ⟨0x0602, .m, [req 0x100 12], false⟩, ⟨0x0603, .m, [req 0x100 12], false⟩,
   ⟨0x0604, .a, [req 0x100 12], false⟩, ⟨0x0605, .m, [req 0x100 4], false⟩, ⟨0x0606, .m, [req 0x100 4], false⟩,
   ⟨0x0607, .m, [req 0x100 4], false⟩, ⟨0x0608, .a, [req 0x100 4], false⟩, ⟨0x0609, .m, [req 0x100 4], false⟩,
   ⟨0x060A, .m, [req 0x100 4], false⟩]

/-- The opcodes of chapter 12 (R318, R319, R330). -/
def ops12 : List OpSpec :=
  [⟨0x0409, .m, [req 0x100 4, opt 0x101 24, optMany 0x102 4 4100], false⟩, ⟨0x040A, .m, [reqMany 0x100 16], false⟩,
   ⟨0x040B, .m, [req 0x100 8], false⟩]

/-- The opcodes of chapter 18 (R499). -/
def ops18 : List OpSpec :=
  [⟨0x0701, .m, [optMany 0x100 12, optMany 0x101 8], false⟩, ⟨0x0702, .m, [req 0x100 20], false⟩, ⟨0x0703, .m, [req 0x100 4], false⟩,
   ⟨0x0704, .m, [req 0x100 4], true⟩, ⟨0x0705, .m, [req 0x100 4], false⟩, ⟨0x0706, .m, [reqMany 0x100 12], false⟩]

/-- The opcodes of chapters 14 to 16 (R382, R404, R407, R422 to R425, R434, R442 to R452). -/
def ops16 : List OpSpec :=
  [⟨0x000C, .m, [req 0x100 8], false⟩,
   ⟨0x0201, .d, [req 0x100 32], false⟩, ⟨0x0202, .d, [req 0x100 4], false⟩, ⟨0x0203, .d, [req 0x100 4, req 0x102 24], false⟩,
   ⟨0x0204, .d, [req 0x100 4], false⟩, ⟨0x0205, .d, [req 0x100 16], false⟩, ⟨0x0206, .d, [req 0x100 4], false⟩,
   ⟨0x0101, .m, [req 0x100 16, opt 0x101 24, opt 0x102 24], false⟩, ⟨0x0102, .m, [], false⟩, ⟨0x0103, .m, [req 0x101 24], false⟩,
   ⟨0x0104, .d, [], false⟩, ⟨0x0105, .d, [], false⟩, ⟨0x0106, .m, [], false⟩, ⟨0x0107, .m, [], true⟩,
   ⟨0x0108, .m, [req 0x100 8], true⟩, ⟨0x0109, .m, [], false⟩]

/-- The opcode table (R64). -/
def opTable : List OpSpec := ops02 ++ ops04 ++ ops06 ++ ops09 ++ ops12 ++ ops13 ++ ops16 ++ ops18 ++ ops20 ++ ops22

/-- The row of an opcode; `none` when it is not defined (R21). -/
def opSpec (code : Nat) : Option OpSpec := opTable.find? (·.code = code)

end Machine

/-- The largest packet of a transport (R49). -/
def Transport.limit : Transport → Nat
  | .admin _ => 2048
  | .mailbox _ => 256
  | .oob _ => 1496
  | .jexdor _ => 8192

/-- Whether a BUFFER TLV is valid on a transport (R47): admin rings, and mailboxes whose sender is a host function. -/
def Transport.takesBuffer : Transport → Bool
  | .admin _ => true
  | .mailbox _ => true
  | _ => false

namespace Machine

/-- The first TLV that breaks R45 or R46, by position. -/
def tlvFault (sp : OpSpec) (src : Transport) : List Tlv → Nat → List Nat → Option Nat
  | [], _, _ => none
  | t :: ts, p, seen =>
    let again := seen.contains t.num
    let next := tlvFault sp src ts (p + 1) (t.num :: seen)
    if t.num = 3 then (if again || t.val.length ≠ 8 then some p else next)
    else if t.num = 1 && sp.buffer then
      (if again || t.val.length ≠ 16 || !src.takesBuffer then some p else next)
    else match sp.tlvs.find? (·.typ = t.num) with
      | some s => if (again && !s.many) || t.val.length < s.lo || s.hi < t.val.length then some p else next
      | none => if t.optional then next else some p

/-- The TLV checks of R45: the fault's ERR_TLV. -/
def tlvCheck (sp : OpSpec) (c : Cmd) : Option Nat :=
  match tlvFault sp c.src c.tlvs 1 [] with
  | some p => some p
  | none => if sp.tlvs.any fun s => s.req && (c.all s.typ).isEmpty then some 0xFFFF else none

/-! ### Roles (R43, R64) -/

/-- The module is a member of a Jexdor system: no local function is the manager (R43). -/
def Mod.isMember (m : Mod) : Bool := m.chalk.dir.role = 2

/-- The requester has manager rights (R43): on a member it is the anchor, M00, alone, whose manager's commands it forwards (R56, R489). -/
def Mod.isManager (m : Mod) (mid : Nat) : Bool :=
  if m.isMember then mid = 0x4000 else mid = m.managerMid

/-- The requester is a driver, and of which instance. -/
def driverOf (mid : Nat) : Option Nat := if mid / 4096 = 2 then some (mid % 4096) else none

/-- The requester has the A role of R64. -/
def Mod.hasA (m : Mod) (mid : Nat) : Bool :=
  m.isManager mid || mid / 4096 = 1 || (mid / 4096 = 3 && m.flag F.CUT_CFG_OOB_ENABLE)

/-- Lock `n` (R83). -/
def Mod.lock (m : Mod) (n : Nat) : Lock := tgetD m.locks n {}

/-- LCK_CFG.SCOPE of lock `n` admits a requester (R80, R81). -/
def Mod.lockAdmits (m : Mod) (n mid : Nat) : Bool :=
  m.isManager mid ||
    match m.get F.LCK_CFG_SCOPE [n] with
    | 1 => mid / 4096 = 1
    | 2 => mid = 0x2000 + m.get F.LCK_CFG_INSTANCE [n]
    | _ => false

/-- Role L (R64): the scope of the lock that the command names, or for LOCK_RELEASE its ownership (R81), admits the requester. A command
that names no lock fails its TLV checks instead. -/
def Mod.lockRole (m : Mod) (c : Cmd) : Bool :=
  match c.tlv 0x100 with
  | some (_, v) =>
    let n := leAt v 0 2
    decide (1024 ≤ n) || m.lockAdmits n c.mid || decide (c.opcode = 0x0A02 ∧ (m.lock n).owner = some c.mid)
  | none => true

/-- The role of a requester admits an opcode (R64). -/
def Mod.admits (m : Mod) (k : RoleKind) (c : Cmd) : Bool :=
  match k with
  | .a => m.hasA c.mid
  | .d => m.isManager c.mid || driverOf c.mid = some c.inst
  | .m => m.isManager c.mid
  | .l => m.lockRole c
  | .own => true

/-- The state code of an instance (R441): 0 FREE, 1 ACTIVE, 2 FREEZING, 3 FROZEN, 4 RESETTING. -/
def Mod.instState (m : Mod) (i : Nat) : Nat := m.get F.INST_STATUS_STATE [i]

/-- An instance number carries an instance (R44). -/
def Mod.instExists (m : Mod) (i : Nat) : Bool := i < 4096 && m.instState i ≠ 0

/-- The present generation of an instance (R438). -/
def Mod.instGen (m : Mod) (i : Nat) : Nat := m.get F.INST_STATUS_GENERATION [i]

/-- The opcodes every requester on H00 and on the OOB port may issue in RECOVERY (R537). (DEDUCED, log 20) -/
def recoveryOps : List Nat := [0x0001, 0x0003, 0x0801, 0x0802, 0x0803, 0x0804, 0x0805, 0x0806, 0x0807]

/-- The phase of the start (R501). -/
def Mod.phase (m : Mod) : Nat := m.get F.GLB_START_PHASE

/-- The requester is frozen (R381, R441): its function, or its instance while FREEZING or FROZEN, except for INST_QUERY. -/
def Mod.requesterFrozen (m : Mod) (c : Cmd) : Bool :=
  (match m.midFn c.mid with | some f => m.frozen f | none => false) ||
    (match driverOf c.mid with
     | some i => (m.instState i = 2 || m.instState i = 3) && c.opcode ≠ 0x0105
     | none => false)

/-- What is answered before anything else of a command is judged: BUSY before READY (R33, R504), then FROZEN and STALE_GENERATION (R20).
(DEDUCED, log 20) -/
def Mod.firstCheck (m : Mod) (c : Cmd) : Option Ans :=
  if m.phase < 5 && c.opcode ≠ 0x0001 then some { status := stBusy }
  else if m.phase = 6 then none
  else if m.requesterFrozen c then some { status := stFrozen }
  else if c.inst ≠ 0xFFFF && m.instExists c.inst && c.gen ≠ m.instGen c.inst then some { status := stStale }
  else none

/-- The checks that a command meets before it is queued or executed, in the order of R20: the answer to a command that
fails one of them. (DEDUCED, log 20) -/
def Mod.cmdCheck (m : Mod) (c : Cmd) : Option Ans :=
  if m.phase = 6 then
    (if recoveryOps.contains c.opcode && (c.mid = 0x1000 || c.mid / 4096 = 3) then
      match opSpec c.opcode with
      | some sp => (tlvCheck sp c).map badTlv
      | none => some (badHeader 0xFF)
     else some (badHeader 0xFF))
  else match m.firstCheck c with
    | some a => some a
    | none =>
      if c.inst ≠ 0xFFFF && !m.instExists c.inst then some badHeader
      else match opSpec c.opcode with
        | none => some badHeader
        | some sp => if m.admits sp.role c then (tlvCheck sp c).map badTlv else some badHeader

/-! ### Replies (R44, R48, R49, R79) -/

/-- A reply as the packet of R44. -/
def Reply.bytes (r : Reply) : List Byte :=
  let body := (r.tlvs.map Tlv.bytes).flatten
  leBytes 1 1 ++ leBytes 1 (1 + 2 * b2n r.unordered) ++ leBytes 2 r.opcode ++ leBytes 2 r.tag ++ leBytes 2 r.status ++
    leBytes 4 (64 + body.length) ++ leBytes 2 r.mid ++ leBytes 1 r.target ++ leBytes 1 0 ++ leBytes 2 r.inst ++
    leBytes 2 r.gen ++ leBytes 4 r.txn ++ leBytes 4 r.seq ++ leBytes 4 r.timeoutUs ++ leBytes 8 r.doneTime ++
    leBytes 2 r.errTlv ++ leBytes 2 r.errDetail ++ List.replicate 20 0 ++ body

/-- The reply to a command: the header echoed, the status, DONE_TIME, the reply's TLVs, and CHECKPOINT back as the last one
(R44, R46). -/
def Mod.mkReply (m : Mod) (c : Cmd) (a : Ans) : Reply :=
  { src := c.src, mid := c.mid, unordered := c.unordered, opcode := c.opcode, tag := c.tag, status := a.status,
    target := m.chalk.dir.module, inst := c.inst,
    gen := if m.instExists c.inst then m.instGen c.inst else 0,
    txn := c.txn, seq := c.seq, timeoutUs := c.timeoutUs, doneTime := time64 m.now, errTlv := a.errTlv,
    errDetail := a.errDetail,
    tlvs := a.tlvs ++ (match c.tlv 3 with | some (_, v) => [⟨3, v⟩] | none => []),
    held := m.cut.pool.any (·.cmd = c) }

/-- An answer whose reply would pass the limit of its transport (R49) is INVALID instead, and the command has done nothing. (DESIGN CHOICE, log 21) -/
def Mod.inLimit (m : Mod) (c : Cmd) (a : Ans) : Ans := if c.src.limit < (m.mkReply c a).bytes.length then badHeader else a

/-- Writes bytes over a mailbox payload, zeros beyond them, and takes its channel back to IDLE. (DEDUCED, log 21) -/
def Mod.mbxFill (m : Mod) (ch : Nat) (bs : List Byte) : Mod :=
  (((List.range 64).foldl (fun m w => m.set F.MBX_PAYLOAD_DATA [ch, w] (leAt bs (4 * w) 4)) m).set F.MBX_PENDING_BITS [ch] 0).set
    F.MBX_STATUS_STATE [ch] 0

/-- The end of a command mailbox's command (R79): the reply over the payload, zeros beyond it, every pending bit cleared;
the channel returns to IDLE and TX_VECTOR is raised (R78). (DEDUCED, log 21) -/
def Mod.mbxReply (m : Mod) (ch : Nat) (r : Reply) : Mod :=
  let m := (m.mbxFill ch r.bytes).emit (.mbxReply ch r)
  match m.midFn (m.get F.MBX_BIND_SENDER_MID [ch]) with
  | some f => m.raise f (m.get F.MBX_BIND_TX_VECTOR [ch])
  | none => m

/-- Sends a reply on the transport its command came in by (R48, R49). A reply for an admin ring waits for its reply ring
(R416); a reply to an OOB station is cached, that of a command answered at once as well (R55). (DESIGN CHOICE, log 81) -/
def Mod.sendReply (m : Mod) (r : Reply) : Mod :=
  match r.src with
  | .oob k =>
    let m := m.emit (.oobReply k r)
    { m with cut := { m.cut with stations := tadj m.cut.stations k fun s => { s with cache := (r :: s.cache).take 8 } } }
  | .mailbox ch => m.mbxReply ch r
  | .admin _ => { m with replies := m.replies ++ [r] }
  | .jexdor o => { m with jxl := { m.jxl with outq := m.jxl.outq ++ [(o, r)] } }

/-- Changes the first entry of a pool that passes a test. Two commands alike in every field are two entries; what a row does to one of them
it does to the older. -/
def changeFirst (p : PoolEntry → Bool) (f : PoolEntry → PoolEntry) : List PoolEntry → List PoolEntry
  | [] => []
  | e :: es => if p e then f e :: es else e :: changeFirst p f es

/-- Takes the first pool entry of a command out. -/
def dropEntry (c : Cmd) : List PoolEntry → List PoolEntry
  | [] => []
  | e :: es => if e.cmd = c then es else e :: dropEntry c es

/-- The requester of a command has died, and its reply is to be discarded (R84). -/
def Mod.isDead (m : Mod) (c : Cmd) : Bool := match m.cut.pool.find? (·.cmd = c) with | some e => e.dead | none => false

/-- A command leaves the pool. -/
def Mod.leave (m : Mod) (c : Cmd) : Mod := { m with cut := { m.cut with pool := dropEntry c m.cut.pool } }

/-- Answers a command: it leaves the pool, and its reply goes out unless its requester has died (R48, R84). -/
def Mod.reply (m : Mod) (c : Cmd) (a : Ans) : Mod :=
  if m.isDead c then m.leave c else (m.leave c).sendReply (m.mkReply c a)

/-- The function that a requester's BUFFER access is made for (R46). -/
def Mod.bufferFn (m : Mod) (c : Cmd) : Fn := (m.midFn c.mid).getD (pf 0)

/-- Reads the memory that a BUFFER TLV names (R46): the request goes out; the bytes come from the environment. (DESIGN CHOICE, log 11) -/
def Mod.bufferRead (m : Mod) (c : Cmd) : Mod :=
  match c.buffer with
  | some (a, n, p) => m.emit (.hostRead none (m.bufferFn c) a n p)
  | none => m

/-- Writes bytes into the memory that a BUFFER TLV names (R46). (DESIGN CHOICE, log 11) -/
def Mod.bufferWrite (m : Mod) (c : Cmd) (bs : List Byte) : Mod :=
  match c.buffer with
  | some (a, _, p) => m.dataWrite (m.bufferFn c) a p bs
  | none => m

/-! ### Objects (R61) -/

/-- Puts a command into the pool at a stage, with the objects it holds or waits for. (DESIGN CHOICE, log 9) -/
def Mod.place (m : Mod) (c : Cmd) (st : Stage) (objs : List Obj) : Mod :=
  let pool :=
    if m.cut.pool.any (·.cmd = c) then changeFirst (·.cmd = c) (fun e => { e with stage := st, objs := objs }) m.cut.pool
    else m.cut.pool ++ [{ cmd := c, stage := st, objs := objs }]
  { m with cut := { m.cut with pool := pool } }

/-- Who holds one of the objects: another command that executes, or an open transaction; `some true` when it is the same
requester. -/
def Mod.holder (m : Mod) (c : Cmd) (objs : List Obj) : Option Bool :=
  let inPool := m.cut.pool.filter fun e => e.stage = .executing && e.cmd ≠ c && e.objs.any objs.contains
  let mids := inPool.map (·.cmd.mid) ++ (m.txns.filterMap fun t =>
    if t.2.holds && objs.contains (Obj.scope t.2.scope) then some t.2.owner else none)
  if mids.isEmpty then none else some (mids.contains c.mid)

/-- Runs a command whose checks it makes first (R20, R58): a failing status without effect is answered at once; objects that
the same requester holds give BUSY, objects that another holds make it wait; `none` as an answer leaves it executing with
its objects (R61). What it does uses its shared units as foreground (R100). (DESIGN CHOICE, log 9) -/
def Mod.runCmd (m : Mod) (c : Cmd) (op : Nat) (objs : List Obj) (body : Mod → Mod × Option Ans) : Mod :=
  let c := { c with opcode := op }
  match m.cmdCheck c with
  | some a => m.reply c a
  | none =>
    match body m with
    | (m', some a) =>
      if !a.late && (a.status = stInvalid || a.status = stNoResource || a.status = stNotTraceable) then m.reply c a
      else match m.holder c objs with
        | some true => m.reply c { status := stBusy }
        | some false => m.place c .waiting objs
        | none => (m'.fgUse (commandUnits op)).reply c a
    | (m', none) =>
      match m.holder c objs with
      | some true => m.reply c { status := stBusy }
      | some false => m.place c .waiting objs
      | none => m'.place c .executing objs

/-- A command that reads and changes nothing but what its reply carries. -/
def Mod.query (m : Mod) (c : Cmd) (op : Nat) (body : Mod → Ans) : Mod :=
  m.runCmd c op [] fun m => (m, some (body m))

end Machine

end Sys2Proof
end

