-- ==== Sys2Proof/Machine/Crypto.lean ====
section
/-! DEFINITION. CRC-32C (R584) and the functions the spec takes from published standards. -/

namespace Sys2Proof.Machine

/-- One bit of the CRC register (R584). -/
def crcBit (r : Nat) : Nat := if r % 2 = 1 then (r / 2) ^^^ 0x82F63B78 else r / 2

/-- One byte folded into the CRC register. -/
def crcByte (r d : Nat) : Nat := crcBit (crcBit (crcBit (crcBit (crcBit (crcBit (crcBit (crcBit (r ^^^ d))))))))

/-- crc32c(s, x) (R584). -/
def crc32c (s : Nat) (x : List Byte) : Nat := x.foldl (fun r d => crcByte r d.toNat) s

/-- The standard CRC-32C of a byte string (R584, RFC 3720). -/
def crcOf (x : List Byte) : Nat := crc32c 0xFFFFFFFF x ^^^ 0xFFFFFFFF

/-- One bit of the CRC-32 of IEEE 802.3, reflected. (PRESUMED, log 33) -/
def fcsBit (r : Nat) : Nat := if r % 2 = 1 then (r / 2) ^^^ 0xEDB88320 else r / 2

/-- The FCS of a frame (IEEE 802.3). (PRESUMED, log 33) -/
def fcsOf (x : List Byte) : Nat :=
  (x.foldl (fun r d => (List.range 8).foldl (fun r _ => fcsBit r) (r ^^^ d.toNat)) 0xFFFFFFFF) ^^^ 0xFFFFFFFF

/-- Function `k` of a published standard, `n` bytes of result. (DESIGN CHOICE, log 7) -/
def stdFn (k n : Nat) (x : List Byte) : List Byte := slice (Config.cryptoFn k x) 0 n

/-- SHA-384. -/
def sha384 (x : List Byte) : List Byte := stdFn 1 48 x

/-- HKDF-Expand and HKDF-Expand-Label with SHA-384: secret and info, `n` bytes. -/
def hkdf (secret info : List Byte) (n : Nat) : List Byte := stdFn 2 n (leBytes 2 secret.length ++ secret ++ info)

/-- The P-384 public key of a private key. -/
def p384Public (priv : List Byte) : List Byte := stdFn 3 97 priv

/-- The P-384 shared secret. -/
def p384Agree (priv peer : List Byte) : List Byte := stdFn 4 48 (priv ++ peer)

/-- The Ed25519 signature of the module over a message. -/
def ed25519Sign (x : List Byte) : List Byte := stdFn 5 64 x

/-- AES-256 key unwrap (the plaintext under a root). -/
def keyUnwrap (root x : List Byte) : List Byte := stdFn 6 x.length (root ++ x)

/-- The integrity check of a key unwrap with padding. -/
def keyUnwrapOk (root x : List Byte) : Bool := Config.cryptoCheck 5 (root ++ x)

/-- HMAC with SHA-384, or with SHA-256 (1). -/
def hmac (alg : Nat) (key msg : List Byte) : List Byte :=
  stdFn (7 + alg) (if alg = 0 then 48 else 32) (leBytes 2 key.length ++ key ++ msg)

/-- HKDF-Expand with SHA-384, or with SHA-256 (1). -/
def hkdfExpand (alg : Nat) (secret info : List Byte) (n : Nat) : List Byte :=
  if alg = 0 then hkdf secret info n else stdFn 9 n (leBytes 2 secret.length ++ secret ++ info)

/-- The hash of no bytes, with SHA-384 or SHA-256 (1). -/
def emptyHash (alg : Nat) : List Byte := if alg = 0 then sha384 [] else stdFn 10 32 []

/-- The X25519 public key of a private key. -/
def x25519Public (priv : List Byte) : List Byte := stdFn 11 32 priv

/-- The X25519 shared secret. -/
def x25519Agree (priv peer : List Byte) : List Byte := stdFn 12 32 (priv ++ peer)

/-- AES-XTS-256 encryption (0) or decryption (1) of one data unit: data key and tweak key, tweak, data. -/
def xts (dec : Nat) (key : List Byte) (tweak : Nat) (x : List Byte) : List Byte := stdFn (48 + dec) x.length (key ++ leBytes 16 tweak ++ x)

/-- An AEAD encryption under a key: nonce, additional data, plaintext; ciphertext followed by a 16-byte tag. -/
def aeadSeal (alg : Nat) (key nonce aad x : List Byte) : List Byte :=
  stdFn (16 + alg) (x.length + 16) (key ++ nonce ++ leBytes 4 aad.length ++ aad ++ x)

/-- The decryption under a key. -/
def aeadOpen (alg : Nat) (key nonce aad x : List Byte) : List Byte :=
  stdFn (32 + alg) x.length (key ++ nonce ++ leBytes 4 aad.length ++ aad ++ x)

/-- The tag check of a decryption. -/
def aeadCheck (alg : Nat) (key nonce aad x tag : List Byte) : Bool :=
  Config.cryptoCheck (32 + alg) (key ++ nonce ++ leBytes 4 aad.length ++ aad ++ x ++ tag)

/-- ML-DSA-87 under a ROM key pair (R522). -/
def romMlDsa (key : Nat) (msg sig : List Byte) : Bool := Config.cryptoCheck 1 (leBytes 1 key ++ leBytes 4 msg.length ++ msg ++ sig)

/-- ECDSA P-384 under a ROM key pair (R522). -/
def romEcdsa (key : Nat) (msg sig : List Byte) : Bool := Config.cryptoCheck 2 (leBytes 1 key ++ leBytes 4 msg.length ++ msg ++ sig)

/-- ML-DSA-87 under a public key. -/
def mlDsa (pk msg sig : List Byte) : Bool := Config.cryptoCheck 3 (pk ++ leBytes 4 msg.length ++ msg ++ sig)

/-- ECDSA P-384 under a public key. -/
def ecdsa (pk msg sig : List Byte) : Bool := Config.cryptoCheck 4 (pk ++ leBytes 4 msg.length ++ msg ++ sig)

/-- ASCII text as bytes. -/
def ascii (s : String) : List Byte := s.toList.map fun c => BitVec.ofNat 8 c.toNat

end Sys2Proof.Machine
end

