-- ==== Sys2Proof/Machine/Views.lean ====
section
/-! DEFINITION. What the registers of the packet path show, computed from state: accounts of Pleat, engines and Seam, tables of
Pattern. -/

namespace Sys2Proof.Machine

/-! ### Pleat (R288 to R291) -/

/-- Number of input account (q, c) of slice `s`. -/
def inAcct (s q c : Nat) : Nat := (s * 17 + q) * 8 + c

/-- Number of crossing account (b, c) of slice `s`. -/
def xAcct (s b c : Nat) : Nat := 2000 + (s * 8 + b) * 8 + c

/-- Number of egress account (e, c) of slice `s`: e is 8 × lp + k for a sub-port, 96 + hq for a half. -/
def egAcct (s e c : Nat) : Nat := 3000 + (s * 100 + e) * 8 + c

/-- The slice of an account. -/
def acctSlice (a : Nat) : Nat := if a < 2000 then a / 136 else if a < 3000 then (a - 2000) / 64 else (a - 3000) / 800

/-- The state of an account. -/
def Mod.acct (m : Mod) (a : Nat) : Acct := tgetD m.plt.accts a {}

/-- A sum over a list. -/
def sumOf {α : Type} (l : List α) (f : α → Nat) : Nat := (l.map f).foldl (· + ·) 0

/-- A present host-link half (endpoint). -/
def Mod.present (m : Mod) (e : Nat) : Bool := m.flag F.SEL_EP_STATUS_PRESENT (epIx e)

/-- Sub-port `k` of port `n` exists and is enabled. -/
def Mod.subOn (m : Mod) (n k : Nat) : Bool :=
  m.flag F.PRT_CFG_ENABLE [n] && bit (m.get F.PRT_CFG_SUB_EN [n]) k && decide (k < m.subCount n)

/-- The enabled Jexdor links on port `n` (R474). -/
def Mod.linksOn (m : Mod) (n : Nat) : List Nat :=
  (List.range 32).filter fun l => m.flag F.JXL_LINK_CFG_ENABLE [l] && decide (m.get F.JXL_LINK_CFG_PORT [l] = n)

/-- The enabled Jexdor link on sub-port `k` of port `n`. -/
def Mod.linkAt (m : Mod) (n k : Nat) : Option Nat := (m.linksOn n).find? fun l => m.get F.JXL_LINK_CFG_SUB [l] = k

/-- Cells that the links of port `n` set aside in its input account of class `c` (R481, R488). -/
def Mod.linkCells (m : Mod) (n c : Nat) : Nat :=
  sumOf (m.linksOn n) fun l => m.get F.JXL_CREDIT_GRANT [l, c] +
    2 * tgetD (tgetD m.jxl.links l {}).slotFrom c 0

/-- Cells of slice `s` set aside when it has `egr` egress queues and, per class, `ports` ports of headroom (R291); on a port with
Jexdor links their cells stand in place of IN_MIN, where they are more (R481). (DEDUCED, log 30) -/
def Mod.setAsideFor (m : Mod) (s egr ports : Nat) : Nat :=
  m.get F.PLT_CFG_CTRL_RESERVE [s] +
    17 * sumOf (List.range 8) (fun c => m.get F.PLT_ING_CLASS_IN_MIN [s, c]) +
    sumOf ((List.range 12).filter fun lp => !(m.linksOn (12 * s + lp)).isEmpty) (fun lp =>
      sumOf (List.range 8) fun c => m.linkCells (12 * s + lp) c - m.get F.PLT_ING_CLASS_IN_MIN [s, c]) +
    egr * sumOf (List.range 8) (fun c => m.get F.PLT_EG_CLASS_EG_MIN [s, c]) +
    ports * sumOf (List.range 8) (fun c =>
      if m.flag F.PLT_PFC_CFG_LOSSLESS [s, c] then m.get F.PLT_PFC_CFG_HEADROOM [s, c] else 0)

/-- Egress queues of slice `s`: enabled sub-ports of its ports and present halves (R288). -/
def Mod.egQueues (m : Mod) (s : Nat) : Nat :=
  sumOf (List.range 12) (fun lp => (List.range 8).countP fun k => m.subOn (12 * s + lp) k) +
    (List.range 4).countP fun h => m.present (4 * s + h)

/-- Cells set aside now. -/
def Mod.setAside (m : Mod) (s : Nat) : Nat :=
  m.setAsideFor s (m.egQueues s) ((List.range 12).countP fun lp => m.flag F.PRT_CFG_ENABLE [12 * s + lp])

/-- Shared cells of slice `s` that engine pools hold; they start full (R288). (DEDUCED, log 30) -/
def Mod.poolCells (m : Mod) (s : Nat) : Nat := tgetD m.plt.pool s 10240

/-- Cells of slice `s` that are charged more than once: those of one packet, to several egress accounts (R289). -/
def Mod.refSaved (m : Mod) (s src : Nat) : Nat :=
  sumOf (m.plt.refs.filter fun r => decide (r.1 % 8 = src) && decide (r.2.slice = s)) fun r => r.2.n * (r.2.count - 1)

/-- Shared cells in use. -/
def Mod.sharedUsed (m : Mod) (s : Nat) : Nat :=
  sumOf (m.plt.accts.filter fun a => acctSlice a.1 = s) (fun a => a.2.sharedUsed) - m.refSaved s 2 + m.poolCells s

/-- Free cells of the shared pool. -/
def Mod.sharedFree (m : Mod) (s : Nat) : Nat := 262144 - m.setAside s - m.sharedUsed s

/-- Cells of a slice in HBM. -/
def Mod.spillUsed (m : Mod) (s : Nat) : Nat := sumOf (m.plt.accts.filter fun a => acctSlice a.1 = s) (fun a => a.2.hbm) - m.refSaved s 4

/-- The key of an egress queue. -/
def egKey (s e c : Nat) : Nat := (s * 100 + e) * 8 + c

/-- The key of the packets on the way to the recirculation input of slice `b`. -/
def reKey (b : Nat) : Nat := 10000 + b

/-- The entries of an egress queue, in admission order. -/
def Mod.egq (m : Mod) (k : Nat) : List EgEntry := tgetD m.plt.egr k []

/-- PLT_STATUS of a slice: zero until the start has ended. -/
def Mod.viewPlt (m : Mod) (s : Nat) : Nat :=
  if m.phase < 5 then 0 else m.sharedFree s + tgetD m.plt.ctrlUsed s 0 * 2 ^ 19 + m.spillUsed s * 2 ^ 33

/-! ### Engines and Seam (R204, R209, R274) -/

/-- The factory bank (R209). -/
def factoryBank : EngBank :=
  { slots := (List.range 32).map (· % 16), weights := List.replicate 16 1,
    share := 2 * 2 + 8 * 2 ^ 4 + 2 * 2 ^ 8 + 16 * 2 ^ 11 }

/-- The engine `e` of slice `s`. -/
def Mod.eng (m : Mod) (s e : Nat) : Engine := tgetD m.shu.engines (s * 160 + e) {}

/-- Puts an engine. -/
def Mod.putEng (m : Mod) (s e : Nat) (x : Engine) : Mod :=
  { m with shu := { m.shu with engines := tput m.shu.engines (s * 160 + e) x } }

/-- The active bank of an engine. -/
def Engine.act (x : Engine) : EngBank := x.bank.getD factoryBank

/-- The weight of a thread. -/
def Engine.weight (x : Engine) (t : Nat) : Nat := x.act.weights.getD t 0

/-- A thread of an engine; one that has not run is IDLE, or DISABLED with weight 0. -/
def Engine.thread (x : Engine) (t : Nat) : Thread := tgetD x.threads t { state := if x.weight t = 0 then 5 else 0 }

/-- An engine accepts dispatch: DISPATCH_EN, not quarantined, its cluster in dispatch (R204, R217, R218). -/
def Mod.accepts (m : Mod) (s e : Nat) : Bool :=
  m.flag F.SHU_ENGINE_CTL_DISPATCH_EN [s, e] && !m.flag F.SHU_ENGINE_CTL_QUARANTINED [s, e] &&
    !m.shu.outClusters.contains (s * 10 + e / 16)

/-- The lowest thread of an engine that can take a dispatch. -/
def Engine.idleThread (x : Engine) : Option Nat :=
  (List.range 16).find? fun t => (x.thread t).state = 0 && x.weight t ≠ 0

/-- Some thread of the slice is IDLE with a non-zero weight on an engine that accepts dispatch. -/
def Mod.anyIdle (m : Mod) (s : Nat) : Bool :=
  (List.range 160).any fun e => m.accepts s e && (m.eng s e).idleThread.isSome

/-- The Seam of a slice. -/
def Mod.seamOf (m : Mod) (s : Nat) : Seam := tgetD m.shu.seam s {}

/-- Passes that a lane holds. -/
def Seam.laneCount (x : Seam) (l : Nat) : Nat := x.ctxs.countP fun c => c.lane = some l

/-- Packets and events that await dispatch on a slice. -/
def Mod.waiting (m : Mod) (s : Nat) : Nat := sumOf (m.plt.inq.filter fun q => q.1 / 36 = s) fun q => q.2.length

/-- SHU_DISPATCH_STATUS of a slice. -/
def Mod.viewDispatch (m : Mod) (s : Nat) : Nat :=
  let es := (List.range 160).filter fun e => m.accepts s e
  if m.phase < 5 then 0
  else
    sumOf es (fun e => (List.range 16).countP fun t => ((m.eng s e).thread t).state = 0 && (m.eng s e).weight t ≠ 0) +
      ((List.range 160).countP fun e => m.flag F.SHU_ENGINE_CTL_DISPATCH_EN [s, e] && !m.flag F.SHU_ENGINE_CTL_QUARANTINED [s, e]) *
        2 ^ 12 +
      min (m.waiting s) 0xFFFF * 2 ^ 20 + b2n (decide (32768 ≤ (m.seamOf s).ctxs.length)) * 2 ^ 36

/-- SHU_THREAD_STATE of an engine. -/
def Mod.viewThreads (m : Mod) (s e : Nat) : Nat :=
  sumOf (List.range 16) fun t => ((m.eng s e).thread t).state * 8 ^ t

/-- SEA_STATUS of a slice. -/
def Mod.viewSeam (m : Mod) (s : Nat) : Nat :=
  let x := m.seamOf s
  x.ctxs.length + x.next * 2 ^ 16 + (match x.ctxs with | [] => x.next | c :: _ => c.seq) * 2 ^ 40

/-- SEA_LANE_STATUS of a slice without HOLD_MAX: the fullest lane, the lowest on a tie, and AT_LIMIT. -/
def Mod.viewLanes (m : Mod) (s : Nat) : Nat :=
  let x := m.seamOf s
  let best := x.ctxs.foldl (fun (b : Nat × Nat) c =>
    match c.lane with
    | some l => let n := x.laneCount l; if b.1 < n || (b.1 = n && l < b.2) then (n, l) else b
    | none => b) (0, 0)
  best.1 + best.2 * 2 ^ 16 + b2n (decide (m.get F.SEA_CFG_LANE_LIMIT [s] ≤ best.1)) * 2 ^ 28

/-! ### Pattern (R246, R266) -/

/-- A scope's kind: 0 unused, 1 EXACT, 2 RULE, 3 METER; numbers above 0x10FF name none. -/
def Mod.scopeKind (m : Mod) (q : Nat) : Nat := if q < 0x1100 then m.get F.PAT_SCOPE_CFG_KIND [q] else 0

/-- The slices it is on. -/
def Mod.scopeSlices (m : Mod) (q : Nat) : List Nat :=
  (List.range 8).filter fun s => bit (m.get F.PAT_SCOPE_CFG_SLICE_MASK [q]) s

/-- Slots that an entry takes (R249). -/
def slotsOf (key : List Nat) : Nat := if key.length ≥ 4 then 2 else 1

/-- The rules of a slice. -/
def Mod.rulesOn (m : Mod) (s : Nat) : Tab Rule := m.pat.rules.filter fun r => r.1 / 65536 = s

/-- A scope has lost a rule on a slice. -/
def Mod.ruleLost (m : Mod) (s q : Nat) : Bool := m.pat.lost.any fun l => l.1 = s && l.2.1 = q

/-- The present epoch: the wheel's turn number (R97), whose low 32 bits PAT_EPOCH shows. -/
def Mod.epoch (m : Mod) : Nat := m.ns / 8192

/-- A thread's pass has not ended. -/
def Thread.running (t : Thread) : Bool := t.state = 1 || t.state = 2 || t.state = 3

/-- The epochs of live passes, and of recirculated packets between their passes. -/
def Mod.liveEpochs (m : Mod) : List Nat :=
  let th := m.shu.engines.flatMap fun e => e.2.threads.filterMap fun t => if t.2.running then t.2.pkt.epoch else none
  let held := m.shu.seam.flatMap fun x => x.2.ctxs.flatMap fun c => c.place.filterMap fun p =>
    match p.2 with | .recirc _ _ => p.1.epoch | _ => none
  let waiting := m.plt.inq.flatMap fun q => q.2.filterMap (·.epoch)
  let crossing := (List.range 8).flatMap fun b => (m.egq (reKey b)).filterMap (·.pkt.epoch)
  th ++ held ++ waiting ++ crossing

/-- No live pass carries epoch `e` or an earlier one. -/
def Mod.drained (m : Mod) (e : Nat) : Bool := m.liveEpochs.all fun x => decide (e < x)

/-- PAT_EPOCH. -/
def Mod.viewEpoch (m : Mod) : Nat :=
  let l := m.liveEpochs
  m.epoch % 2 ^ 32 + (l.foldl min m.epoch) % 2 ^ 32 * 2 ^ 32

/-- HBM slots of a scope in use; for a RULE scope, the rules on its fullest slice; parked slots count in both (R248). -/
def Mod.scopeUsed (m : Mod) (q : Nat) : Nat :=
  if m.scopeKind q = 2 then
    (m.scopeSlices q).foldl (fun a s => max a (((m.rulesOn s).countP fun r => r.2.scope = q) +
      m.pat.parked.countP fun p => p.scope = q && (match p.what with | .rule x _ => x = s | _ => false))) 0
  else
    sumOf (m.pat.hbm.filter fun e => e.2.scope = q) (fun e => slotsOf e.2.key) +
      m.pat.parked.countP fun p => p.scope = q && (match p.what with | .slot _ => true | _ => false)

/-- Pins of a scope, parked ones included. -/
def Mod.pinsUsed (m : Mod) (q : Nat) : Nat :=
  (m.pat.pins.countP fun p => p.2.scope = q) + sumOf m.pat.parked fun p =>
    if p.scope = q then (match p.what with | .pins _ v => v.length | _ => 0) else 0

/-- PAT_CACHE_STATUS of a slice. -/
def Mod.viewCache (m : Mod) (s : Nat) : Nat :=
  let ls := (m.pat.cache.filter fun c => c.1 / 2 ^ 18 = s).flatMap (·.2)
  (m.pat.fills.countP fun f => f.slice = s) + ls.length * 2 ^ 13 + (ls.countP (·.absent)) * 2 ^ 34

/-- PAT_RULE_STATUS of a slice. -/
def Mod.viewRules (m : Mod) (s : Nat) : Nat :=
  (m.rulesOn s).length + m.pat.parked.countP fun p => match p.what with | .rule x _ => x = s | _ => false

/-- PAT_PARKED. -/
def Mod.viewParked (m : Mod) : Nat :=
  (m.pat.parked.countP fun p => match p.what with | .slot _ => true | .rule _ _ => true | _ => false) +
    (sumOf m.pat.parked fun p => match p.what with | .pins _ v => v.length | _ => 0) * 2 ^ 29 + m.pat.pubs.length * 2 ^ 50

/-- PAT_SCOPE_USE. -/
def Mod.viewScopeUse (m : Mod) (q : Nat) : Nat :=
  m.scopeUsed q + bitSum ((List.range 8).filter fun s => m.ruleLost s q) * 2 ^ 32

/-! ### Thimble (R362) -/

/-- THM_STATUS of a slice without CORES_OK. -/
def Mod.viewThm (m : Mod) (s : Nat) : Nat :=
  (tgetD m.thm.ops s []).length + (m.thm.objs.countP fun o => o.1 / 32768 = s) * 2 ^ 18

/-- THM_ROOT of a slot. -/
def Mod.viewRoot (m : Mod) (k : Nat) : Nat :=
  (if (tget m.thm.agree k).isSome then 1 else if (tget m.chalk.roots k).isSome then 2 else 0) +
    tgetD m.chalk.incarnations k 0 * 2 ^ 2 + b2n (m.chalk.exhausted.contains k) * 2 ^ 34 +
    (m.thm.objs.countP fun o => o.2.root = some k) * 2 ^ 35

/-- THM_ROOT_ID of a slot: 0 while it is not READY. -/
def Mod.viewRootId (m : Mod) (k : Nat) : Nat :=
  match tget m.thm.agree k, tget m.chalk.roots k with
  | none, some r => r.rootId
  | _, _ => 0

end Sys2Proof.Machine
end

