-- ==== Sys2Proof/Machine/Calendar.lean ====
section
/-! DEFINITION. Calendars and gates (*Hem scheduling, calendars and launch time*): the entry that runs at an instant, the gates
of a port at an instant as the present state foretells them, the status register. -/

namespace Sys2Proof.Machine

/-- Entry `i` of a calendar (R314). -/
def Cal.entry (c : Cal) (i : Nat) : Nat := tgetD c.entries i 0

/-- GATES of an entry. -/
def entryGates (e : Nat) : Nat := e % 256

/-- INTERVAL of an entry, in units of 8 ns. -/
def entryInterval (e : Nat) : Nat := bits e 8 23

/-- The offset of instant `t` (ns) in the cycle, in ns (R315). -/
def Cal.offset (c : Cal) (t : Nat) : Nat := (((t : Int) - c.base) % (8 * c.cycle : Nat)).toNat

/-- The cycle number at `t`. -/
def Cal.cycleNum (c : Cal) (t : Nat) : Nat := ((((t : Int) - c.base) / (8 * c.cycle : Nat)) % (2 ^ 32 : Nat)).toNat

/-- The first instant at or after `t` at which a cycle begins. -/
def Cal.cycleAt (c : Cal) (t : Nat) : Nat := if c.offset t = 0 then t else t + (8 * c.cycle - c.offset t)

/-- The first instant after `t` at which a cycle begins. -/
def Cal.cycleAfter (c : Cal) (t : Nat) : Nat := t + (8 * c.cycle - c.offset t)

/-- The entry in which offset `o` (units of 8 ns) lies: entry 0 first, in index order, the last one until the cycle ends. -/
def Cal.find (c : Cal) (o : Nat) : Nat → Nat → Nat → Nat
  | 0, i, _ => i
  | fuel + 1, i, acc =>
    let stop := acc + entryInterval (c.entry i)
    if c.length ≤ i + 1 || o < stop then i else c.find o fuel (i + 1) stop

/-- The index of the entry that runs at `t`. -/
def Cal.index (c : Cal) (t : Nat) : Nat := c.find (c.offset t / 8) c.length 0 0

/-- The gates that the calendar gives at `t`. -/
def Cal.gates (c : Cal) (t : Nat) : Nat := entryGates (c.entry (c.index t))

/-- The offset at which the entry that runs at `t` begins, in units of 8 ns. -/
def Cal.startOf (c : Cal) (i : Nat) : Nat := ((List.range i).map fun j => entryInterval (c.entry j)).foldl (· + ·) 0

/-- An entry begins at `t`. -/
def Cal.begins (c : Cal) (t : Nat) : Bool := c.offset t = 8 * c.startOf (c.index t)

/-- The gates under a loss policy (R327). -/
def overrideGates (p : Nat) : Nat := if p = 1 then 255 else 128

/-- The loss policy that governs calendars from their next cycle boundary (R327). -/
def Mod.calPolicy (m : Mod) : Option Nat :=
  let p := m.get F.TPL_LOSS_POLICY_CAL
  if m.flag F.TPL_STATE_TRACEABLE || (p ≠ 1 && p ≠ 2) then none else some p

/-- Hem state of a port. -/
def Mod.hemOf (m : Mod) (n : Nat) : HemPort := tgetD m.hem n {}

/-- Puts it. -/
def Mod.putHem (m : Mod) (n : Nat) (h : HemPort) : Mod := { m with hem := tput m.hem n h }

/-- The calendar that applies at `t`: from WHEN on, the one armed (R320). -/
def HemPort.calAt (h : HemPort) (t : Nat) : Option Cal :=
  match h.arm with
  | some a => if a.whenNs ≤ t then (if a.stop then none else some h.shadow) else h.active
  | none => h.active

/-- The loss policy in force at `t`, seen from `now`: the present one until the next cycle boundary, `pol` from there on. -/
def HemPort.policyAt (h : HemPort) (pol : Option Nat) (now t : Nat) : Option Nat :=
  match h.active with
  | some c => if t < c.cycleAfter now then h.override_ else pol
  | none => none

/-- The gates at `t`, seen from `now` (R315, R320, R322, R327). -/
def HemPort.gatesAt (h : HemPort) (pol : Option Nat) (now t : Nat) : Nat :=
  let free := match h.calAt t with
    | none => 255
    | some c => match h.policyAt pol now t with
      | some p => overrideGates p
      | none => c.gates t
  match h.held with
  | some (g, u) => if t < u then g else free
  | none => free

/-- The gates of a port now. -/
def Mod.gatesNow (m : Mod) (n : Nat) : Nat := (m.hemOf n).gatesAt m.calPolicy m.ns m.ns

/-- The calendar holds its gate states after a step (R322). -/
def HemPort.realigning (h : HemPort) (now : Nat) : Bool := match h.held with | some (_, u) => decide (now < u) | none => false

/-- HEM_CAL_STATUS of a port. -/
def Mod.viewCal (m : Mod) (n : Nat) : Nat :=
  let h := m.hemOf n
  let run := match h.active with | some c => c.index m.ns * 2 ^ 4 + c.cycleNum m.ns * 2 ^ 16 | none => 0
  b2n h.active.isSome + 2 * b2n h.arm.isSome + 4 * b2n h.override_.isSome + 8 * b2n (h.realigning m.ns) + run +
    m.gatesNow n * 2 ^ 48

/-- GATE of R328. -/
def Mod.gateWord (m : Mod) (n : Nat) : Nat :=
  let h := m.hemOf n
  m.gatesNow n + b2n (h.active.isSome && h.override_.isNone && !h.realigning m.ns) * 2 ^ 8

/-- CALPOS of R328. -/
def Mod.calPos (m : Mod) (n : Nat) : Nat :=
  match (m.hemOf n).active with
  | some c => c.cycleNum m.ns + c.index m.ns * 2 ^ 32
  | none => 0

/-! ### Jexdor credit (R479, R488) -/

/-- State of a link. -/
def Mod.linkOf (m : Mod) (l : Nat) : Link := tgetD m.jxl.links l {}

/-- Puts it. -/
def Mod.putLink (m : Mod) (l : Nat) (x : Link) : Mod := { m with jxl := { m.jxl with links := tput m.jxl.links l x } }

/-- A difference of two free-running counts. -/
def sub32 (a b : Nat) : Nat := (a % 2 ^ 32 + 2 ^ 32 - b % 2 ^ 32) % 2 ^ 32

/-- Credit now available to class `c` of link `l`: of the grant, or of a slotted class's allowance. The peer's GRANT is taken to
equal the link's own GRANT register. (DEDUCED, log 68) -/
def Mod.credit (m : Mod) (l c : Nat) : Nat :=
  let x := m.linkOf l
  if m.get F.JXL_LINK_STATUS_STATE [l] ≠ 3 then 0
  else if m.flag F.JXL_CREDIT_SLOTTED [l, c] then tgetD x.left c 0
  else sub32 (m.get F.JXL_CREDIT_GRANT [l, c] + tgetD x.repFreed c 0) (tgetD x.sent c 0)

/-- JXL_CREDIT. -/
def Mod.viewCredit (m : Mod) (l c : Nat) : Nat :=
  let v := m.stored .JXL_CREDIT [l, c]
  v - bits v 38 18 * 2 ^ 38 + min (m.credit l c) 0x3FFFF * 2 ^ 38

/-- JXL_LINK_STATUS with TX_CONFIRMED. -/
def Mod.viewLink (m : Mod) (l : Nat) : Nat :=
  let v := m.stored .JXL_LINK_STATUS [l]
  v - bits v 15 9 * 2 ^ 15 + ((m.linkOf l).tx.countP fun e => e.2.confirmed) * 2 ^ 15

end Sys2Proof.Machine
end

