-- ==== Sys2Proof/Machine/Flags.lean ====
section
/-! DEFINITION. Status computed from state: register views, ECC accounting, Fitting firings, the end of a step. -/

namespace Sys2Proof.Machine

/-! ### Register views -/

/-- Pins: the function in effect, INPUT before CONFIG has applied the retained functions; `none` during a hold (R556, R558,
R559). -/
def Mod.pinFunc (m : Mod) (p : Nat) : Option Nat :=
  if (tget m.holds p).isSome then none else if m.phase < 4 then some 0 else some (m.get F.PIN_CFG_FUNC [p])

/-- A module in the pool's mailbox places (R58). -/
def PoolEntry.inMailbox (e : PoolEntry) : Bool := match e.cmd.src with | .mailbox _ => true | _ => false

/-- The commands that count in the pool of 1,024 (R58): those it holds, and those whose reply waits for its reply ring (R416). -/
def Mod.poolCount (m : Mod) : Nat := (m.cut.pool.filter fun e => !e.inMailbox).length + (m.replies.filter (·.held)).length

/-- CUT_STATUS (R58, R33). -/
def Mod.viewCut (m : Mod) : Nat :=
  let q := m.poolCount
  let x := (m.cut.pool.filter PoolEntry.inMailbox).length
  let t := (m.txns.filter fun t => t.2.state = .opened).length
  q + t * 2 ^ 11 + m.cut.stations.length * 2 ^ 18 + x * 2 ^ 23 + b2n (m.phase = 5) * 2 ^ 31

/-- FIT_STATUS (R578). -/
def Mod.viewFit (m : Mod) : Nat :=
  b2n m.fit.bank0.full + 2 * b2n m.fit.bank1.full + 4 * m.fit.newer + 8 * bitSum (m.fit.slots.map (·.1)) +
    m.get F.FIT_STATUS_MISSED * 2 ^ 32

/-- FIT_TRIG of slot `n`. -/
def Mod.viewTrig (m : Mod) (n : Nat) : Nat :=
  match tget m.fit.slots n with
  | some s => s.source + 8 * b2n s.clear + 16 * b2n s.oneShot + s.param * 2 ^ 32
  | none => 0

/-- FIT_WHEN of slot `n`. -/
def Mod.viewWhen (m : Mod) (n : Nat) : Nat :=
  match tget m.fit.slots n with
  | some s => if s.source = 5 then s.whenNs % 1000000000 + s.whenNs / 1000000000 % 2 ^ 32 * 2 ^ 32 else 0
  | none => 0

/-- GLB_ID (R17). -/
def glbId : Nat := 0x9616 + Config.stepMinor.toNat * 2 ^ 16 + Config.stepMajor.toNat * 2 ^ 20

/-- JXL_SYS (R509): the directory. -/
def Mod.viewSys (m : Mod) : Nat :=
  m.chalk.dir.module % 64 + m.chalk.dir.role % 4 * 2 ^ 6 + m.chalk.dir.systemId % 2 ^ 32 * 2 ^ 8

/-- The envelope of holdover (R133) at `s` units of device time after entry, in ns rounded up; none beyond 28,800 s. -/
def envelope (s : Nat) : Option Nat :=
  let sec := nsUnit * 1000000000
  let rows : List (Nat × Nat × Nat × Nat) :=
    [(0, 60, 0, 2), (60, 300, 2, 15), (300, 900, 15, 100), (900, 3600, 100, 400), (3600, 14400, 400, 1000),
     (14400, 28800, 1000, 1500)]
  (rows.find? fun r => s ≤ r.2.1 * sec).map fun r =>
    r.2.2.1 + ceilDiv ((s - r.1 * sec) * (r.2.2.2 - r.2.2.1)) ((r.2.1 - r.1) * sec)

/-- The offsets and path delays of the servo's seconds that ended in the last `n` s. -/
def Mod.offsetsOf (m : Mod) (n : Nat) : List (Int × Nat) :=
  (m.tl.offsets.filter fun x => decide (m.now < x.1 + n * nsUnit * 1000000000)).map (·.2)

/-- The magnitude of the mean offset over the last 16 s, in whole ns rounded up. -/
def Mod.meanOffset (m : Mod) : Nat :=
  let l := (m.offsetsOf 16).map (·.1)
  if l.isEmpty then 0 else ceilDiv (l.foldl (· + ·) 0).natAbs (l.length * nsUnit)

/-- The bound of device time in ns (R135, R496); none when it is undefined. -/
def Mod.bound (m : Mod) : Option Nat :=
  match m.get F.TPL_STATE_SERVO with
  | 2 => some ((if m.isMember then m.tl.jxBound else m.get F.TPL_CFG_UPSTREAM_NS) + 4 + m.meanOffset)
  | 3 => (envelope (m.now - m.tl.holdAt)).map (m.tl.lockedBound + ·)
  | _ => none

/-- A bound in a 16-bit field: 0xFFFF when undefined or 65,535 ns or more. -/
def bound16 (b : Option Nat) : Nat := match b with | some n => min n 0xFFFF | none => 0xFFFF

/-- TPL_GOLIDE (R173): the newest and the oldest SEQ held; the oldest reads 0 in an empty log. (DESIGN CHOICE, log 49) -/
def Mod.viewGolide (m : Mod) : Nat :=
  match m.chalk.golide.getLast? with
  | none => 0xFFFFFFFF
  | some r => (m.chalk.golideNext - 1) + r.seq * 2 ^ 32

/-- What a read of a register returns, before the read itself changes anything. -/
def Mod.view (m : Mod) (r : Reg) (ix : List Nat) : Nat :=
  match r with
  | .GLB_ID => glbId
  | .CUT_STATUS => m.viewCut
  | .FIT_STATUS => m.viewFit
  | .FIT_TRIG => m.viewTrig (ixGet ix 0)
  | .FIT_WHEN => m.viewWhen (ixGet ix 0)
  | .GLB_LOG_STATUS => m.logq.queue.length + m.get F.GLB_LOG_STATUS_LOST * 2 ^ 32
  | .PIN_STATUS => m.get F.PIN_STATUS_IN + bitSum (m.holds.map (·.1)) * 2 ^ 24
  | .JXL_SYS => m.viewSys + m.stored .JXL_SYS ix / 2 ^ 40 * 2 ^ 40
  | .TPL_NOW => nsOf m.now + secOf m.now % 2 ^ 32 * 2 ^ 32
  | .TPL_NOW_EXT => m.now % nsUnit + secOf m.now / 2 ^ 32 % 2 ^ 16 * 2 ^ 16
  | .TPL_STATE => m.stored .TPL_STATE ix - m.get F.TPL_STATE_BOUND_NS * 2 ^ 16 + bound16 m.bound * 2 ^ 16
  | .TPL_GOLIDE => m.viewGolide
  | .STW_POS => m.ns % 8192 / 32 + m.ns / 8192 % 2 ^ 56 * 2 ^ 8
  | .STW_UNIT_CTL => m.stored .STW_UNIT_CTL ix + (m.stwTable (ixGet ix 0)).countP (· ≠ 0) * 2 ^ 16
  | .PLT_STATUS => m.viewPlt (ixGet ix 0)
  | .SHU_DISPATCH_STATUS => m.viewDispatch (ixGet ix 0)
  | .SHU_THREAD_STATE => m.viewThreads (ixGet ix 0) (ixGet ix 1)
  | .SEA_STATUS => m.viewSeam (ixGet ix 0)
  | .SEA_LANE_STATUS => m.viewLanes (ixGet ix 0) + m.get F.SEA_LANE_STATUS_HOLD_MAX ix * 2 ^ 32
  | .PAT_SCOPE_USE => m.viewScopeUse (ixGet ix 0)
  | .PAT_SCOPE_PINS => m.get F.PAT_SCOPE_PINS_PIN_QUOTA ix + m.pinsUsed (ixGet ix 0) * 2 ^ 32
  | .PAT_CACHE_STATUS => m.viewCache (ixGet ix 0)
  | .PAT_RULE_STATUS => m.viewRules (ixGet ix 0)
  | .PAT_EPOCH => m.viewEpoch
  | .PAT_PARKED => m.viewParked
  | .THM_STATUS => m.viewThm (ixGet ix 0) + m.stored .THM_STATUS ix
  | .THM_ROOT => m.viewRoot (ixGet ix 1)
  | .THM_ROOT_ID => m.viewRootId (ixGet ix 1)
  | .HEM_CAL_STATUS => m.viewCal (12 * ixGet ix 0 + ixGet ix 1)
  | .JXL_CREDIT => m.viewCredit (ixGet ix 0) (ixGet ix 1)
  | .JXL_LINK_STATUS => m.viewLink (ixGet ix 0)
  | .PWR_TEMPO_SLICE => m.stored .PWR_TEMPO_SLICE ix - m.get F.PWR_TEMPO_SLICE_LOW_RESTART ix * 2 ^ 26
  | .PWR_TEMPO_HUB => m.stored .PWR_TEMPO_HUB ix - m.get F.PWR_TEMPO_HUB_LOW_RESTART ix * 2 ^ 26
  | .MBX_RING | .LCK_TRY | .FIT_FIRE => 0
  | r => m.stored r ix

/-! ### ECC (R565, R566) -/

/-- A corrected error in memory kind `k`: counted; more than CE_THRESH in one hour of device time writes one event. (DEDUCED, log 28) -/
def Mod.eccCorrected (m : Mod) (k : Nat) : Mod :=
  let m := m.count F.GLB_ECC_CNT_COUNT [k]
  let hour := secOf m.now / 3600
  let e := tgetD m.ecc k {}
  let e : EccHour := if e.hour = hour then { e with count := e.count + 1 } else { hour := hour, count := 1 }
  let thr := m.get F.GLB_ERR_CFG_CE_THRESH
  if thr ≠ 0 && e.count > thr && !e.logged then
    { m with ecc := tput m.ecc k { e with logged := true } }.event 19 3 (regAddr .GLB_ECC_CNT [k])
  else { m with ecc := tput m.ecc k e }

/-- An uncorrectable error in memory kind `k` (0 control store, 1 rule slots, 2 flow cache, 3 HBM, 4 Chalk, 5 Seam,
6 Pleat): counted and logged in class 1. (DEDUCED, log 28) -/
def Mod.eccFatal (m : Mod) (k : Nat) (detail : List Byte := []) : Mod :=
  (m.count F.GLB_ECC_CNT_COUNT [k + 7]).error 1 ([1, 2, 7, 5, 6, 3, 4].getD k 7) (regAddr .GLB_ECC_CNT [k + 7]) detail

/-! ### The Fitting (R573 to R578) -/

/-- Every index list of a register kind. -/
def allIx : List (Nat × Nat) → List (List Nat)
  | [] => [[]]
  | d :: ds => (List.range d.2).flatMap fun i => (allIx ds).map (i :: ·)

/-- A register kind has a field of access code RC. -/
def Reg.hasRc (r : Reg) : Bool := r.fields.any fun f => f.acc = .rc

/-- The status registers of the snapshot set (R573). -/
def snapStatus : List Reg :=
  [.PRT_STATUS, .OPT_STATUS, .BOB_STATUS, .PLT_STATUS, .PLT_OVERLOAD, .SEA_STATUS, .SEA_LANE_STATUS, .SHU_DISPATCH_STATUS,
   .PAT_CACHE_STATUS, .PAT_PARKED, .HEM_CAL_STATUS, .THM_STATUS, .TPL_STATE, .TPL_UTC, .PWR_INPUT, .PWR_TEMPO_STATUS,
   .PWR_TEMPO_SLICE, .PWR_GATE_STATUS, .SEL_FREEZE_EP, .SEL_FREEZE_PF, .SEL_FREEZE_VF, .SEL_EP_STATUS, .JXL_LINK_STATUS,
   .JXL_CREDIT, .CUT_STATUS]

/-- The snapshot set, by address, less the registers that read zero. -/
def Mod.snapshot (m : Mod) : Tab Nat :=
  (Reg.all.filter fun r => r.hasRc || snapStatus.contains r).flatMap fun r =>
    (allIx r.info.dims).filterMap fun ix =>
      let v := m.view r ix
      if v = 0 then none else some ((RegKey.mk r ix).addr, v)

/-- The access code of a field. -/
def Fld.access (f : Fld) : Access :=
  match f.reg.fields.find? fun i => i.lo = f.lo && i.w = f.w with
  | some i => i.acc
  | none => .ro

/-- Clears every RC field (R574). -/
def Mod.clearRc (m : Mod) : Mod := { m with regs := m.regs.filter fun e => e.1.fld.access ≠ .rc }

/-- A firing drives a pulse on every FIT_OUT pin (R556). -/
def Mod.fitPulse (m : Mod) : Mod :=
  (List.range 24).foldl (fun m p => if m.pinFunc p = some 4 then (m.emit (.pin p true)).emit (.pin p false) else m) m

/-- A slot's firing: a TAI slot and a ONE_SHOT slot disarm (R577). -/
def Mod.slotFired (m : Mod) (n : Nat) (made : Bool) : Mod :=
  match tget m.fit.slots n with
  | some s => if s.source = 5 || (made && s.oneShot) then { m with fit := { m.fit with slots := tdel m.fit.slots n } } else m
  | none => m

/-- The bank of a number. -/
def Fit.bank (f : Fit) (b : Nat) : FitBank := if b = 0 then f.bank0 else f.bank1

/-- Puts a bank. -/
def Fit.putBank (f : Fit) (b : Nat) (x : FitBank) : Fit := if b = 0 then { f with bank0 := x } else { f with bank1 := x }

/-- The slot of a trigger, where it has one, has fired. -/
def Mod.pendFired (m : Mod) (p : FitPend) (made : Bool) : Mod :=
  match p.slot with
  | some n => m.slotFired n made
  | none => m

/-- The slot of a trigger in the SLOTS mask. -/
def FitPend.mask (p : FitPend) : Nat := match p.slot with | some n => 2 ^ n | none => 0

/-- FIRE_TIME of a trigger (R575): the next multiple of 8 ns, or a TAI slot's own instant when that has not passed. -/
def Mod.fireTime (m : Mod) (p : FitPend) : Nat :=
  let t := ceilDiv m.now nsUnit
  match p.slot.bind (tget m.fit.slots) with
  | some s => if s.source = 5 && !p.stepped && t ≤ s.whenNs then s.whenNs else ceilDiv t 8 * 8
  | none => ceilDiv t 8 * 8

/-- A firing that joins the one in bank `b` (R578). -/
def Mod.fireJoin (m : Mod) (p : FitPend) (b : Nat) : Mod :=
  let x := m.fit.bank b
  let x := { x with sources := x.sources ||| 2 ^ p.source, merged := true, slots := x.slots ||| p.mask,
                    tag := if p.tag ≠ 0 then p.tag else x.tag, errSeq := if p.errSeq ≠ 0 then p.errSeq else x.errSeq }
  ({ m with fit := m.fit.putBank b x } : Mod).pendFired p true

/-- The bank a new firing takes (R578): a FREE one, or under KEEP 0 the older one. -/
def Mod.fireBank (m : Mod) : Option Nat :=
  if !m.fit.bank0.full then some 0 else if !m.fit.bank1.full then some 1
  else if m.flag F.FIT_CFG_KEEP then none else some (1 - m.fit.newer)

/-- What a firing latches (R578, R579). -/
def Mod.fireFit (m : Mod) (p : FitPend) (ft b : Nat) : Fit :=
  let seq := m.fit.snapSeq + 1
  let x : FitBank :=
    { full := true, snapSeq := seq % 2 ^ 32, traceable := m.flag F.TPL_STATE_TRACEABLE, stepped := p.stepped,
      cleared := p.clear, sources := 2 ^ p.source, fireTime := ft, slots := p.mask, tag := p.tag, errSeq := p.errSeq,
      vals := m.snapshot }
  { (m.fit.putBank b x) with newer := b, snapSeq := seq, lastFire := some (ft, b) }

/-- A firing of its own. -/
def Mod.fireNew (m : Mod) (p : FitPend) (ft : Nat) : Mod :=
  match m.fireBank with
  | none => (m.countSat F.FIT_STATUS_MISSED).pendFired p false
  | some b =>
    let m : Mod := { m with fit := m.fireFit p ft b }
    ((if p.clear then m.clearRc else m).pendFired p true).fitPulse

/-- A trigger fires (R575, R578): it joins a firing when it comes within 100 ns after its FIRE_TIME, or makes one into a FREE bank,
or under KEEP 0 over the older one, or is missed. -/
def Mod.fire (m : Mod) (p : FitPend) : Mod :=
  let ft := m.fireTime p
  match m.fit.lastFire with
  | some (last, b) =>
    if last ≤ ft && ceilDiv m.now nsUnit ≤ last + 100 && (m.fit.bank b).full then m.fireJoin p b else m.fireNew p ft
  | none => m.fireNew p ft

/-- A trigger that an event detected; it fires at the end of the step. -/
def Mod.trigger (m : Mod) (p : FitPend) : Mod := { m with fit := { m.fit with pend := m.fit.pend ++ [p] } }

/-! ### The end of a step -/

/-- What the end of a step does: the Fitting triggers it detected fire (R575). -/
def settle (m : Mod) : Mod :=
  let m' := m.fit.pend.foldl Mod.fire m
  if m.fit.pend = [] then m else { m' with fit := { m'.fit with pend := [] } }

/-- The effect of a command on the module. (DESIGN CHOICE, log 3) -/
def run (s : State) (f : Mod → Mod) : Host.Outcome State Fault Refusal := .next { s with m := settle (f s.m) }

end Sys2Proof.Machine
end

