-- ==== Sys2Proof/Machine/Cutter.lean ====
section
/-! DEFINITION. Hardware locks, mailboxes, staged transactions' ends, the death of an owner, OOB stations
(*Commands, mailboxes and hardware locks*). -/

namespace Sys2Proof.Machine

/-- Changes the Cutter's state. -/
def Mod.setCut (m : Mod) (f : Cut → Cut) : Mod := { m with cut := f m.cut }

/-! ### Locks (R80 to R83) -/

/-- Puts lock `n`; a FREE lock without waiters is not listed. -/
def Mod.putLock (m : Mod) (n : Nat) (l : Lock) : Mod :=
  { m with locks := if l = {} then tdel m.locks n else tput m.locks n l }

/-- LOCK_STATE (R68): `self` when the requester owned the lock before, `passed` when this grant carried the broken mark. -/
def lockState (n : Nat) (l : Lock) (self passed : Bool) : Tlv :=
  tlv 0x101 (leBytes 2 n ++ leBytes 1 (if l.owner.isSome then 1 else if l.broken then 2 else 0) ++
    leBytes 1 (b2n self + 2 * b2n passed) ++ leBytes 2 (l.owner.getD 0) ++ leBytes 1 l.queue.length ++ [0])

/-- A held lock becomes free, or broken: the head waiter receives it in the same step (R82, R83). -/
def Mod.passLock (m : Mod) (n : Nat) (broken : Bool) : Mod :=
  match (m.lock n).queue with
  | [] => m.putLock n { owner := none, broken := broken, queue := [] }
  | w :: ws =>
    let l : Lock := { owner := some w.mid, broken := false, queue := ws }
    (m.putLock n l).reply w.cmd
      { status := if broken then stBroken else stOk, tlvs := [lockState n l false broken] }

/-- CLEAR: the lock is FREE and its queue is emptied with ABORTED (R83). -/
def Mod.clearLock (m : Mod) (n : Nat) : Mod :=
  let ws := (m.lock n).queue
  ws.foldl (fun m w => m.reply w.cmd { status := stAborted, tlvs := [lockState n {} false false] }) (m.putLock n {})

/-- FORCE_RELEASE: a HELD lock becomes BROKEN, as if its owner had died (R83). -/
def Mod.forceRelease (m : Mod) (n : Nat) : Mod := if (m.lock n).owner.isSome then m.passLock n true else m

/-- A read of LCK_TRY: one acquire attempt of an admitted requester (R80, R83); the value read. -/
def Mod.lockTry (m : Mod) (mid n : Nat) (wide : Bool := false) : Nat × Mod :=
  if !m.lockAdmits n mid then (0, m.refuse mid (regAddr .LCK_TRY [n]) false wide 4)
  else
    let l := m.lock n
    match l.owner with
    | some o => if o = mid then (1 + 4 + mid * 65536, m) else (o * 65536, m)
    | none => (1 + 2 * b2n l.broken + mid * 65536, m.putLock n { l with owner := some mid, broken := false })

/-- A write of 1 to LCK_TRY.RELEASE (R83). -/
def Mod.lockRelease (m : Mod) (mid n : Nat) : Mod :=
  if (m.lock n).owner = some mid then m.passLock n false
  else m.refuse mid (regAddr .LCK_TRY [n]) true false 3

/-- A write of LCK_CFG by `mid` (R81): a reserved SCOPE keeps its value (R8); FORCE_RELEASE and CLEAR act. -/
def Mod.lockConfig (m : Mod) (mid n v : Nat) : Mod :=
  if !m.isManager mid then m.refuse mid (regAddr .LCK_CFG [n]) true false 3
  else
    let m := if bits v 0 2 = 3 then m else m.set F.LCK_CFG_SCOPE [n] (bits v 0 2)
    let m := m.set F.LCK_CFG_INSTANCE [n] (bits v 4 12)
    let m := if bit v 2 then m.forceRelease n else m
    if bit v 3 then m.clearLock n else m

/-- LCK_TRY_READ: a read of LCK_TRY, whose value its requester gets. -/
def execLckTryRead (r : Req) (n : Fin 1024) (s : State) : Host.Outcome State Fault Refusal :=
  run s fun m => (m.lockTry r.mid n).2.answerRead r (m.lockTry r.mid n).1

/-- LCK_TRY_RELEASE: a write of 1 to RELEASE. -/
def execLckTryRelease (r : Req) (n : Fin 1024) (s : State) : Host.Outcome State Fault Refusal :=
  run s fun m => m.lockRelease r.mid n

/-- FORCE_RELEASE: a write of LCK_CFG with FORCE_RELEASE = 1 and the other fields as they are. -/
def execForceRelease (r : Req) (n : Fin 1024) (s : State) : Host.Outcome State Fault Refusal :=
  run s fun m => m.lockConfig r.mid n (m.stored .LCK_CFG [n.val] / 16 * 16 + m.get F.LCK_CFG_SCOPE [n.val] + 4)

/-- LCK_CFG_CLEAR: a write of LCK_CFG with CLEAR = 1 and the other fields as they are. -/
def execLckCfgClear (r : Req) (n : Fin 1024) (s : State) : Host.Outcome State Fault Refusal :=
  run s fun m => m.lockConfig r.mid n (m.stored .LCK_CFG [n.val] / 16 * 16 + m.get F.LCK_CFG_SCOPE [n.val] + 8)

/-- The lock a LOCK TLV names. -/
def Cmd.lockNo (c : Cmd) : Nat := leAt (c.val 0x100) 0 2

/-- Waiters of all locks. -/
def Mod.waiters (m : Mod) : Nat := (m.locks.map fun l => l.2.queue.length).foldl (· + ·) 0

/-- LOCK_ACQUIRE (R68, R82, R83). -/
def execLockAcquire (c : Cmd) (s : State) : Host.Outcome State Fault Refusal :=
  run s fun m => m.runCmd c 0x0A01 [] fun m =>
    let n := Cmd.lockNo c
    let l := m.lock n
    if n ≥ 1024 then (m, some (badTlv (c.pos 0x100)))
    else if !m.lockAdmits n c.mid then (m, some badHeader)
    else match l.owner with
      | some o =>
        if o = c.mid then (m, some (okWith [lockState n l true false]))
        else if l.queue.length ≥ 32 || m.waiters ≥ 4096 then
          (m, some { status := stNoResource, tlvs := [lockState n l false false] })
        else (m.putLock n { l with queue := l.queue ++ [⟨c.mid, { c with opcode := 0x0A01 }⟩] }, none)
      | none =>
        let l' : Lock := { l with owner := some c.mid, broken := false }
        (m.putLock n l', some { status := if l.broken then stBroken else stOk, tlvs := [lockState n l' false l.broken] })

/-- LOCK_RELEASE (R68, R82): an owner that the scope no longer admits may still release (R81); one by anyone else is logged (R83).
(DEDUCED, log 14) -/
def execLockRelease (c : Cmd) (s : State) : Host.Outcome State Fault Refusal :=
  run s fun m => m.runCmd c 0x0A02 [] fun m =>
    let n := Cmd.lockNo c
    if n ≥ 1024 then (m, some (badTlv (c.pos 0x100)))
    else if (m.lock n).owner = some c.mid then (m.passLock n false, some {})
    else (m.refuse c.mid (regAddr .LCK_TRY [n]) true false 3, some { badHeader with late := true })

/-- LOCK_QUERY (R68). -/
def execLockQuery (c : Cmd) (s : State) : Host.Outcome State Fault Refusal :=
  run s fun m => m.query c 0x0A03 fun m =>
    let n := Cmd.lockNo c
    if n ≥ 1024 then badTlv (c.pos 0x100)
    else if !m.lockAdmits n c.mid then badHeader
    else
      let l := m.lock n
      okWith [lockState n l (l.owner = some c.mid) false, tlv 0x102 (leBytes 4 (m.stored .LCK_CFG [n]))]

/-- LOCK_CONFIG (R68): all TLVs apply together; a reserved SCOPE fails the command. -/
def execLockConfig (c : Cmd) (s : State) : Host.Outcome State Fault Refusal :=
  run s fun m => m.runCmd c 0x0A04 ((c.all 0x100).map fun t => .lock (leAt t.2 0 2)) fun m =>
    let bad := (c.all 0x100).find? fun t => leAt t.2 0 2 ≥ 1024 || leAt t.2 4 4 % 4 = 3
    match bad with
    | some (p, _) => (m, some (badTlv p))
    | none => ((c.all 0x100).foldl (fun m t => m.lockConfig c.mid (leAt t.2 0 2) (leAt t.2 4 4)) m, some {})

/-- LOCK_WAIT_TIMEOUT: waiter `i` of lock `n` reaches its TIMEOUT_US and gets BUSY (R82). -/
def execLockWaitTimeout (n : Fin 1024) (i : Nat) (s : State) : Host.Outcome State Fault Refusal :=
  run s fun m =>
    let l := m.lock n
    match l.queue[i]? with
    | none => m
    | some w =>
      let l' := { l with queue := l.queue.eraseIdx i }
      (m.putLock n l').reply w.cmd { status := stBusy, tlvs := [lockState n l' false false] }

/-! ### Mailboxes (R76 to R79) -/

/-- The sender of a channel. -/
def Mod.mbxSender (m : Mod) (c : Nat) : Nat := m.get F.MBX_BIND_SENDER_MID [c]

/-- The receiver of a channel. -/
def Mod.mbxReceiver (m : Mod) (c : Nat) : Nat := m.get F.MBX_BIND_RECEIVER_MID [c]

/-- Raises a vector of a party; vectors addressed to the Cutter are ignored. -/
def Mod.raiseMid (m : Mod) (mid v : Nat) : Mod := match m.midFn mid with | some f => m.raise f v | none => m

/-- Raises RX_VECTOR. -/
def Mod.raiseRx (m : Mod) (c : Nat) : Mod := m.raiseMid (m.mbxReceiver c) (m.get F.MBX_BIND_RX_VECTOR [c])

/-- Raises TX_VECTOR. -/
def Mod.raiseTx (m : Mod) (c : Nat) : Mod := m.raiseMid (m.mbxSender c) (m.get F.MBX_BIND_TX_VECTOR [c])

/-- A party is in reset. -/
def Mod.midInReset (m : Mod) (mid : Nat) : Bool := match m.midFn mid with | some f => m.fnInReset f | none => false

/-- A party's function is frozen. -/
def Mod.midFrozen (m : Mod) (mid : Nat) : Bool := match m.midFn mid with | some f => m.frozen f | none => false

/-- The bits of `v` in order, those set. -/
def setBits (v n : Nat) : List Nat := (List.range n).filter (bit v)

/-- A ring (R78): the rows in their order. The second part says that the ring took an IDLE channel to PENDING. A ring that the manager
writes in the sender's place (`none` for the sender) sets no REFUSED and is not logged (R76). -/
def Mod.mbxRing (m : Mod) (sender : Option Nat) (c bs : Nat) : Mod × Bool :=
  if bs = 0 then (m, false)
  else
    let recv := m.mbxReceiver c
    let old := m.get F.MBX_PENDING_BITS [c]
    if m.midInReset recv then
      (((m.set F.MBX_STATUS_ABORTED [c] 1).set F.MBX_STATUS_LAST_RESULT [c] stAborted).raiseTx c, false)
    else if m.midFrozen recv then
      ((if sender.isSome then m.set F.MBX_STATUS_REFUSED [c] 1 else m).set F.MBX_STATUS_LAST_RESULT [c] stFrozen, false)
    else if !m.flag F.MBX_BIND_ENABLE [c] then
      (match sender with
       | some mid => ((m.set F.MBX_STATUS_REFUSED [c] 1).set F.MBX_STATUS_LAST_RESULT [c] stInvalid).refuse mid (regAddr .MBX_RING [c]) true false 3
       | none => m.set F.MBX_STATUS_LAST_RESULT [c] stInvalid, false)
    else
      let new := old ||| bs
      let mask := m.get F.MBX_MASK_BITS [c]
      let m := ((m.set F.MBX_PENDING_BITS [c] new).set F.MBX_STATUS_STATE [c] 1).set F.MBX_STATUS_LAST_RESULT [c] stOk
      let m := { m with mbxGone := m.mbxGone.filter (· ≠ c) }
      let rung := (setBits new 32).filter fun i => !bit old i && !bit mask i
      (rung.foldl (fun m _ => m.raiseRx c) m, old = 0)

/-- The receiver clears pending bits (R78): the last one cleared returns the channel to IDLE and raises TX_VECTOR. -/
def Mod.mbxClear (m : Mod) (c bs : Nat) : Mod :=
  let old := m.get F.MBX_PENDING_BITS [c]
  let new := old - (old &&& bs)
  if old = new then m
  else if new = 0 then ((m.set F.MBX_PENDING_BITS [c] 0).set F.MBX_STATUS_STATE [c] 0).raiseTx c
  else m.set F.MBX_PENDING_BITS [c] new

/-- The receiver writes the mask: unmasking a pending bit raises RX_VECTOR. -/
def Mod.mbxMask (m : Mod) (c v : Nat) : Mod :=
  let old := m.get F.MBX_MASK_BITS [c]
  let open' := (setBits (m.get F.MBX_PENDING_BITS [c]) 32).filter fun i => bit old i && !bit v i
  open'.foldl (fun m _ => m.raiseRx c) (m.set F.MBX_MASK_BITS [c] v)

/-- How a requester may reach a channel (R76): as the manager by command, as its sender, as its receiver, or not. -/
inductive Party where
  | manager | sender | receiver | none
  deriving DecidableEq, Repr

/-- The party a requester is to a channel. -/
def Mod.party (m : Mod) (r : Req) (c : Nat) : Party :=
  if r.viaCmd && m.isManager r.mid then .manager
  else if r.mid = m.mbxSender c then .sender
  else if r.mid = m.mbxReceiver c then .receiver
  else .none

/-- A write of MBX_RING by a requester; whether a command starts from it (R79). -/
def Mod.mbxRingWrite (m : Mod) (r : Req) (c bs : Nat) : Mod × Bool :=
  match m.party r c with
  | .manager => m.mbxRing none c bs
  | .sender => m.mbxRing (some r.mid) c bs
  | .receiver => (if m.mbxGone.contains c then m else m.refuse r.mid (regAddr .MBX_RING [c]) true false 3, false)
  | .none => (m.refuse r.mid (regAddr .MBX_RING [c]) true false 1, false)

/-- A write by a requester that only the receiver may make: of MBX_PENDING or MBX_MASK. -/
def Mod.mbxReceiverWrite (m : Mod) (r : Req) (reg : Reg) (c : Nat) (f : Mod → Mod) : Mod :=
  match m.party r c with
  | .manager => f m
  | .receiver => if m.mbxGone.contains c then m else f m
  | .sender => m.refuse r.mid (regAddr reg [c]) true false 3
  | .none => m.refuse r.mid (regAddr reg [c]) true false 1

/-- A write of a payload word (R76): the sender while IDLE, the receiver while PENDING. -/
def Mod.mbxPayload (m : Mod) (r : Req) (c w v : Nat) : Mod :=
  let pend := m.get F.MBX_STATUS_STATE [c] = 1
  let refused := fun (m : Mod) => (m.set F.MBX_STATUS_REFUSED [c] 1).refuse r.mid (regAddr .MBX_PAYLOAD [c, w]) true false 3
  match m.party r c with
  | .manager => m.set F.MBX_PAYLOAD_DATA [c, w] v
  | .sender => if pend then refused m else m.set F.MBX_PAYLOAD_DATA [c, w] v
  | .receiver => if m.mbxGone.contains c then m else if pend then m.set F.MBX_PAYLOAD_DATA [c, w] v else refused m
  | .none => m.refuse r.mid (regAddr .MBX_PAYLOAD [c, w]) true false 1

/-- A write of MBX_STATUS (R76): each bit only by the party that may clear it. -/
def Mod.mbxStatus (m : Mod) (r : Req) (c v : Nat) : Mod :=
  let log := fun (m : Mod) (cause : Nat) => m.refuse r.mid (regAddr .MBX_STATUS [c]) true false cause
  let clr := fun (m : Mod) (f : Fld) (i : Nat) => if bit v i then m.set f [c] 0 else m
  match m.party r c with
  | .manager => clr (clr (clr m F.MBX_STATUS_ABORTED 1) F.MBX_STATUS_SENDER_GONE 2) F.MBX_STATUS_REFUSED 3
  | .sender =>
    let m := clr (clr m F.MBX_STATUS_ABORTED 1) F.MBX_STATUS_REFUSED 3
    if bit v 2 then log m 3 else m
  | .receiver =>
    if m.mbxGone.contains c then m
    else
      let m := clr (clr m F.MBX_STATUS_SENDER_GONE 2) F.MBX_STATUS_REFUSED 3
      if bit v 1 then log m 3 else m
  | .none => log m 1

/-- Zeroes a payload. -/
def Mod.mbxZero (m : Mod) (c : Nat) : Mod := m.resetReg .MBX_PAYLOAD [c]

/-- The sender of a channel is reset (R78). -/
def Mod.mbxSenderReset (m : Mod) (c : Nat) : Mod :=
  if m.get F.MBX_STATUS_STATE [c] = 1 then
    let m := ((m.mbxZero c).set F.MBX_PENDING_BITS [c] 0).set F.MBX_STATUS_STATE [c] 0
    let m := (m.set F.MBX_STATUS_SENDER_GONE [c] 1).raiseRx c
    { m with mbxGone := if m.mbxGone.contains c then m.mbxGone else c :: m.mbxGone }
  else m.mbxZero c

/-- The receiver of a channel is reset (R78): its registers take their reset values, and a PENDING channel tells the
sender. -/
def Mod.mbxReceiverReset (m : Mod) (c : Nat) : Mod :=
  let pend := m.get F.MBX_STATUS_STATE [c] = 1
  let m := (((m.mbxZero c).resetReg .MBX_PENDING [c]).resetReg .MBX_MASK [c]).resetReg .MBX_STATUS [c]
  if pend then ((m.set F.MBX_STATUS_ABORTED [c] 1).set F.MBX_STATUS_LAST_RESULT [c] stAborted).raiseTx c else m

/-- The mailbox rows of a party's reset (R78, R84). -/
def Mod.mbxDeath (m : Mod) (mid : Nat) : Mod :=
  (List.range 64).foldl (fun m c =>
    let m := if m.mbxReceiver c = mid then m.mbxReceiverReset c else m
    if m.mbxSender c = mid then m.mbxSenderReset c else m) m

/-- MBX_PENDING_CLEAR: a write of MBX_PENDING. -/
def execMbxPendingClear (r : Req) (c : Fin 64) (v : BitVec 32) (s : State) : Host.Outcome State Fault Refusal :=
  run s fun m => m.mbxReceiverWrite r .MBX_PENDING c fun m => m.mbxClear c v.toNat

/-- MBX_MASK_WRITE: a write of MBX_MASK. -/
def execMbxMaskWrite (r : Req) (c : Fin 64) (v : BitVec 32) (s : State) : Host.Outcome State Fault Refusal :=
  run s fun m => m.mbxReceiverWrite r .MBX_MASK c fun m => m.mbxMask c v.toNat

/-- MBX_PAYLOAD_WRITE: a write of one payload word. -/
def execMbxPayloadWrite (r : Req) (c w : Fin 64) (v : BitVec 32) (s : State) : Host.Outcome State Fault Refusal :=
  run s fun m => m.mbxPayload r c w v.toNat

/-- A binding value that MBX_BIND_SET accepts (R69). -/
def bindOk (v : Nat) : Bool :=
  let sm := bits v 0 16
  let rm := bits v 16 16
  let kind := fun (x : Nat) => x / 4096 = 1 || x / 4096 = 2 || x / 4096 = 15
  kind sm && kind rm && sm ≠ rm && !(sm = 0xF000 && rm = 0xF000) &&
    (rm ≠ 0xF000 || bits v 32 11 = 0) && (sm ≠ 0xF000 || bits v 43 11 = 0)

/-- MBX_BIND_SET (R69): each value becomes the stored binding of its channel, or FORGET discards one. -/
def execMbxBindSet (c : Cmd) (s : State) : Host.Outcome State Fault Refusal :=
  run s fun m => m.runCmd c 0x0A05 [.config] fun m =>
    let bad := (c.all 0x100).find? fun t => leAt t.2 0 1 ≥ 64 || (!bit (leAt t.2 1 1) 0 && !bindOk (leAt t.2 4 8))
    match bad with
    | some (p, _) => (m, some (badTlv p 1))
    | none =>
      ((c.all 0x100).foldl (fun m t =>
        let ch := leAt t.2 0 1
        if bit (leAt t.2 1 1) 0 then { m with mbxStored := tdel m.mbxStored ch }
        else { m with mbxStored := tput m.mbxStored ch (leAt t.2 4 8 % 2 ^ 55) }) m, some {})

/-- The payload of a channel as bytes. -/
def Mod.mbxBytes (m : Mod) (c : Nat) : List Byte :=
  (List.range 64).flatMap fun w => leBytes 4 (m.get F.MBX_PAYLOAD_DATA [c, w])

/-- MBX_QUERY (R69). -/
def execMbxQuery (c : Cmd) (s : State) : Host.Outcome State Fault Refusal :=
  run s fun m => m.query c 0x0A06 fun m =>
    let v := c.val 0x100
    let ch := leAt v 0 1
    let pay := bit (leAt v 1 1) 0
    if ch ≥ 64 then badTlv (c.pos 0x100)
    else if pay && (match c.src with | .mailbox _ => true | _ => false) then badTlv (c.pos 0x100) 2
    else
      let st := tget m.mbxStored ch
      okWith (tlv 0x101 (leBytes 8 (m.stored .MBX_BIND [ch]) ++ leBytes 8 (st.getD 0) ++
        leBytes 4 (m.stored .MBX_PENDING [ch]) ++ leBytes 4 (m.stored .MBX_MASK [ch]) ++
        leBytes 4 (m.stored .MBX_STATUS [ch]) ++ leBytes 1 (b2n st.isSome) ++ List.replicate 11 0) ::
        (if pay then [tlv 0x102 (m.mbxBytes ch)] else []))

/-! ### Staged transactions (R72 to R75) -/

/-- What naming a handle finds (R72, R74, R75). -/
inductive Handle where
  | unknown | live (slot : Nat) (t : Txn)
  deriving DecidableEq, Repr

/-- Looks a handle up. -/
def Mod.handle (m : Mod) (h : Nat) : Handle :=
  match tget m.txns (h / 2 ^ 26) with
  | some t => if t.serial = h % 2 ^ 26 then .live (h / 2 ^ 26) t else .unknown
  | none => .unknown

/-- The answer to a command, other than TXN_QUERY, that names a handle on which nothing can be done. -/
def handleFault (mid : Nat) : Handle → Option Ans
  | .unknown => some badHeader
  | .live _ t =>
    if t.owner ≠ mid then some badHeader
    else match t.state with
      | .aborted => some { status := stAborted }
      | .committed => some badHeader
      | .publishing => some (badHeader 9)
      | .opened => none

/-- A transaction ends: its operations go and its scope is free. -/
def Mod.endTxn (m : Mod) (slot : Nat) (st : TxnState) (cause : Nat) : Mod :=
  { m with txns := tadj m.txns slot fun t => { t with state := st, cause := cause, ops := [], ended := m.txnEnds + 1 },
           txnEnds := m.txnEnds + 1 }

/-- A command that passes its checks has named a handle of its requester: the transaction's idle time runs anew (R74), whatever the
command then answers. -/
def Mod.naming (m : Mod) (c : Cmd) (op : Nat) : Mod :=
  match m.handle c.txn with
  | .live slot t =>
    if t.owner = c.mid && (m.cmdCheck { c with opcode := op }).isNone then { m with txns := tput m.txns slot { t with named := m.ns } } else m
  | .unknown => m

/-- TXN_ABORT (R74). -/
def execTxnAbort (c : Cmd) (s : State) : Host.Outcome State Fault Refusal :=
  run s fun m => (m.naming c 0x0306).runCmd c 0x0306 [] fun m =>
    match handleFault c.mid (m.handle c.txn) with
    | some a => (m, some a)
    | none => (m.endTxn (c.txn / 2 ^ 26) .aborted 1, some {})

/-- TXN_QUERY (R67, R74): the manager on any handle, a driver on its own. -/
def execTxnQuery (c : Cmd) (s : State) : Host.Outcome State Fault Refusal :=
  run s fun m =>
    m.runCmd c 0x0307 [] fun m =>
      match m.handle c.txn with
      | .unknown => (m, some badHeader)
      | .live slot t =>
        if t.owner ≠ c.mid && !m.isManager c.mid then (m, some badHeader)
        else
          let code := match t.state with | .opened => 0 | .publishing => 1 | .committed => 2 | .aborted => 3
          let body := leBytes 4 c.txn ++ leBytes 1 code ++ leBytes 1 (if t.state = .aborted then t.cause else 0) ++
            leBytes 2 t.scope ++ leBytes 4 t.count ++ leBytes 2 t.owner ++ leBytes 2 0
          ({ m with txns := tput m.txns slot { t with named := m.ns } }, some (okWith [tlv 0x102 body]))

/-- TXN_IDLE_LIMIT: at device time `t` ns no command has named the transaction of `slot` for TXN_IDLE_MS (R74). -/
def execTxnIdleLimit (slot : Fin 64) (t : Nat) (s : State) : Host.Outcome State Fault Refusal :=
  run s fun m =>
    let m := m.runToNs t
    match tget m.txns slot with
    | some x =>
      if x.state = .opened && x.named + m.get F.CUT_CFG_TXN_IDLE_MS * 1000000 ≤ m.ns then m.endTxn slot .aborted 3 else m
    | none => m

/-! ### The death of an owner (R84) -/

/-- Aborts the open transactions of an owner. -/
def Mod.abortTxns (m : Mod) (mid : Nat) : Mod :=
  m.txns.foldl (fun m t => if t.2.owner = mid && t.2.state = .opened then m.endTxn t.1 .aborted 2 else m) m

/-- Lock `n` without the waiters of a requester. -/
def Mod.leaveQueue (m : Mod) (mid n : Nat) : Mod :=
  let l := m.lock n
  m.putLock n { l with queue := l.queue.filter (·.mid ≠ mid) }

/-- Breaks the locks of an owner (R83: a lock passes to its first waiter that lives on), then takes it out of the other lock queues. -/
def Mod.breakLocks (m : Mod) (mid : Nat) : Mod :=
  let m := m.locks.foldl (fun m l => if l.2.owner = some mid then (m.leaveQueue mid l.1).passLock l.1 true else m) m
  m.locks.foldl (fun m l => m.leaveQueue mid l.1) m

/-- Discards the queued and waiting commands of an owner; its executing commands go on without a reply. A LOCK_ACQUIRE that
waited in a lock's queue goes with its place there. -/
def Mod.dropCmds (m : Mod) (mid : Nat) : Mod :=
  m.setCut fun c => { c with pool := c.pool.filterMap fun e =>
    if e.cmd.mid ≠ mid then some e
    else if e.stage = .executing && e.cmd.opcode ≠ 0x0A01 then some { e with dead := true }
    else none }

/-- A requester dies (R84): the six steps in their order. -/
def Mod.die (m : Mod) (mid : Nat) : Mod := (((m.abortTxns mid).breakLocks mid).dropCmds mid).mbxDeath mid

/-- Every path to some modules is lost: as Jexdor origins they die (R84), and the forwarded commands that they have not answered end
with ABORTED (R57). -/
def Mod.pathsLost (m : Mod) (ds : List Nat) : Mod :=
  let m := ds.foldl (fun m d => m.die (0x4000 + d)) m
  let gone := m.jxl.fwd.filter fun f => ds.contains f.target
  let m : Mod := { m with jxl := { m.jxl with fwd := m.jxl.fwd.filter fun f => !ds.contains f.target } }
  gone.foldl (fun m f => m.reply f.cmd { status := stAborted, errDetail := 1, late := true }) m

/-! ### OOB stations (R52 to R55) -/

/-- OOB_LEASE_EXPIRY: a station has sent nothing for LEASE_MS (R54, R84). -/
def execOobLeaseExpiry (k : Fin 16) (s : State) : Host.Outcome State Fault Refusal :=
  run s fun m =>
    if (tget m.cut.stations k).isNone then m
    else (m.die (0x3000 + k)).setCut fun c => { c with stations := tdel c.stations k }

/-- OOB_LINK_DOWN: every station dies and the table is cleared (R54, R84). -/
def execOobLinkDown (s : State) : Host.Outcome State Fault Refusal :=
  run s fun m =>
    (m.cut.stations.foldl (fun m k => m.die (0x3000 + k.1)) m).setCut fun c =>
      { c with stations := [], oobUp := false }

/-- PLCA (R52): with NODE_ID 0 the port is the coordinator, which sends beacons for NODE_COUNT nodes. -/
def Mod.plcaBeacons (m : Mod) : Option Nat :=
  if m.flag F.CUT_OOB_CFG_PLCA_EN && m.get F.CUT_OOB_CFG_NODE_ID = 0 then some (m.get F.CUT_OOB_CFG_NODE_COUNT) else none

/-- The port takes turns by PLCA; without it, or after a fall-back, it contends by CSMA/CD (R51, R52). -/
def Mod.plcaRuns (m : Mod) : Bool := m.flag F.CUT_OOB_CFG_PLCA_EN && (m.plcaBeacons.isSome || !m.cut.plcaFallback)

/-- PLCA_BEACON_LOSS: with PLCA enabled the port falls back to CSMA/CD (R52); the coordinator, whose beacons are its own, does not. -/
def execPlcaBeaconLoss (s : State) : Host.Outcome State Fault Refusal :=
  run s fun m => if m.flag F.CUT_OOB_CFG_PLCA_EN && m.plcaBeacons.isNone then m.setCut fun c => { c with plcaFallback := true } else m

/-- PLCA_BEACON_RETURN: PLCA resumes (R52). -/
def execPlcaBeaconReturn (s : State) : Host.Outcome State Fault Refusal :=
  run s fun m => if m.flag F.CUT_OOB_CFG_PLCA_EN then m.setCut fun c => { c with plcaFallback := false } else m

/-- OBJECT_WAIT_TIMEOUT: the command at place `i` of the pool has waited TIMEOUT_US for its objects: BUSY, having done
nothing (R61). -/
def execObjectWaitTimeout (i : Nat) (s : State) : Host.Outcome State Fault Refusal :=
  run s fun m =>
    match m.cut.pool[i]? with
    | some e => if e.stage = .waiting then m.reply e.cmd { status := stBusy } else m
    | none => m

end Sys2Proof.Machine
end

