-- ==== Sys2Proof/Machine/Image.lean ====
section
/-! DEFINITION. Images, staging and installing (*Images, updates and recovery*). -/

namespace Sys2Proof.Machine

/-! ### The image file (R518 to R523) -/

/-- One entry of a section table (R519). -/
structure Section where
  typ : Nat
  off : Nat
  len : Nat
  crc : Nat
  target : List Byte
  deriving DecidableEq, Repr

/-- The section table of an image file. -/
def sections (f : List Byte) : List Section :=
  (List.range (leAt f 0x0A 2)).map fun i =>
    let o := leAt f 0x20 4 + 32 * i
    ⟨leAt f o 2, leAt f (o + 4) 4, leAt f (o + 8) 4, leAt f (o + 12) 4, slice f (o + 16) 16⟩

/-- SIG_OFF. -/
def sigOff (f : List Byte) : Nat := leAt f 0x1C 4

/-- KEY_ID. -/
def keyId (f : List Byte) : Nat := leAt f (sigOff f) 1

/-- ENDORSER. -/
def endorser (f : List Byte) : Nat := leAt f (sigOff f + 0x1D80) 1

/-- The image digest D (R522). -/
def imageDigest (f : List Byte) : List Byte := sha384 (f.take (sigOff f))

/-- The signed message M (R522). -/
def imageMsg (f : List Byte) : List Byte := ascii "UXM-IMAGE" ++ imageDigest f

/-- OWNER_ID; zero for a Keaso key. -/
def ownerId (f : List Byte) : List Byte :=
  if keyId f = 0x10 then slice f (sigOff f + 0x1D84) 16 else List.replicate 16 0

/-- The endorsement message (R522). -/
def endorseMsg (f : List Byte) : List Byte :=
  ascii "UXM-OWNERKEY" ++ slice f 6 2 ++ slice f (sigOff f + 0x1D84) 16 ++ slice f (sigOff f + 0x12E0) 2592 ++
    slice f (sigOff f + 0x1D00) 97

/-- The LENGTH rule of R518. -/
def lengthOk (n : Nat) : Bool := n % 64 = 0 && 64 ≤ n && n ≤ 50266112

/-- Check 1: BAD_HEADER. A KEY_ID that check 3 refuses leaves the length of the signature block open. -/
def headerOk (f : List Byte) : Bool :=
  let n := leAt f 0x0C 4
  let so := sigOff f
  let t := leAt f 0x20 4
  let k := leAt f 0x0A 2
  leAt f 0 4 = 0x4D495855 && leAt f 4 2 = 1 && lengthOk n && n = f.length && so % 64 = 0 && 64 ≤ so && so < n &&
    1 ≤ k && k ≤ 1024 && t % 32 = 0 && 64 ≤ t && t + 32 * k ≤ so &&
    (if keyId f = 0x10 then n = so + 12416 else if keyId f < 4 then n = so + 7552 else true)

/-- The stepping of GLB_ID in the coding of R518. -/
def stepping : Nat := Config.stepMajor.toNat * 16 + Config.stepMinor.toNat

/-- Byte ranges that do not overlap. -/
def disjoint (a b : Nat × Nat) : Bool := a.1 + a.2 ≤ b.1 || b.1 + b.2 ≤ a.1 || a.2 = 0 || b.2 = 0

/-- Every two entries of a list stand in a relation. -/
def pairwise {α : Type} (r : α → α → Bool) : List α → Bool
  | [] => true
  | a :: as => as.all (r a) && pairwise r as

/-- The clusters, slices or engines that a section names. -/
def Section.mask (s : Section) (n : Nat) : Nat := leAt s.target 0 n

/-- First word address of a CONTROL_STORE section. -/
def Section.first (s : Section) : Nat := leAt s.target 10 2

/-- Every number below `n` is named by some section of a type. -/
def allNamed (ss : List Section) (typ n bytes : Nat) : Bool :=
  let xs := ss.filter (·.typ = typ)
  (List.range n).all fun i => xs.any fun s => bit (s.mask bytes) i

/-- No number is named twice by sections of a type. -/
def namedOnce (ss : List Section) (typ bytes : Nat) : Bool :=
  pairwise (fun a b => a.mask bytes &&& b.mask bytes = 0) (ss.filter (·.typ = typ))

/-- Check 7: BAD_SECTION (R519, R520). Sections of type 0x8000 and above are ignored but for overlaps. -/
def sectionsOk (f : List Byte) : Bool :=
  let ss := sections f
  let fixed := [(0, 64), (leAt f 0x20 4, 32 * leAt f 0x0A 2)]
  let rs := ss.map fun s => (s.off, s.len)
  ss.all (fun s => (1 ≤ s.typ && s.typ ≤ 8 || 0x8000 ≤ s.typ) && s.off % 32 = 0 && s.off + s.len ≤ sigOff f) &&
    pairwise disjoint (fixed ++ rs) &&
    ([2, 3, 4, 5, 6, 7, 8].all fun t => ss.any fun s => s.typ = t) &&
    allNamed ss 1 80 10 && allNamed ss 2 8 1 && allNamed ss 4 8 1 && allNamed ss 5 12 2 &&
    namedOnce ss 2 1 && namedOnce ss 4 1 && namedOnce ss 5 2 &&
    ss.all (fun s => s.typ ≠ 1 || (s.len % 32 = 0 && s.first + s.len / 32 ≤ 16384)) &&
    ss.all (fun s => s.typ ≠ 2 || s.len = 640) && ss.all (fun s => s.typ ≠ 8 || s.len % 16 = 0) &&
    pairwise (fun a b => a.mask 10 &&& b.mask 10 = 0 || disjoint (a.first, a.len / 32) (b.first, b.len / 32))
      (ss.filter (·.typ = 1))

/-- The image check (R523): the code of the first failing check, 0 when it passes. (DEDUCED, log 78) -/
def imageCheck (f : List Byte) : Nat :=
  let so := sigOff f
  let k := keyId f
  if !headerOk f then 1
  else if leAt f 6 2 ≠ 0x9616 || stepping < leAt f 8 1 || leAt f 9 1 < stepping then 2
  else if !(k < 4 || (k = 0x10 && endorser f < 4)) then 3
  else if k = 0x10 && !(romMlDsa (endorser f) (endorseMsg f) (slice f (so + 0x1DC0) 4627) &&
      romEcdsa (endorser f) (endorseMsg f) (slice f (so + 0x3000) 96)) then 4
  else if !(if k = 0x10 then mlDsa (slice f (so + 0x12E0) 2592) (imageMsg f) (slice f (so + 0x40) 4627)
      else romMlDsa k (imageMsg f) (slice f (so + 0x40) 4627)) then 5
  else if !(if k = 0x10 then ecdsa (slice f (so + 0x1D00) 97) (imageMsg f) (slice f (so + 0x1280) 96)
      else romEcdsa k (imageMsg f) (slice f (so + 0x1280) 96)) then 6
  else if !sectionsOk f then 7
  else if !(sections f).all (fun s => 0x8000 ≤ s.typ || crcOf (slice f s.off s.len) = s.crc) then 8
  else 0

/-- The 80-byte form of R529: VERSION, SCHEMA, KEY_ID, OWNER_ID, D. -/
def imageInfo (f : List Byte) : List Byte :=
  slice f 0x10 8 ++ slice f 0x18 4 ++ leBytes 1 (keyId f) ++ [0, 0, 0] ++ ownerId f ++ imageDigest f

/-! ### Staging (R525 to R529) -/

/-- Chunks of a file of `n` bytes. -/
def chunksOf (n : Nat) : Nat := ceilDiv n 65536

/-- The bytes of chunk `k` of a file of `n` bytes. -/
def chunkLen (n k : Nat) : Nat := min 65536 (n - 65536 * k)

/-- The staging area holds a valid header. -/
def Staging.isOpen (s : Staging) : Bool := s.id ≠ 0

/-- The STAGE TLV (R526). -/
def stageTlv (s : Staging) (n : Nat) (resumed : Bool) : Tlv :=
  if s.isOpen then
    let bm := (s.chunks.map fun k => 2 ^ k.1).foldl (· + ·) 0
    tlv n (leBytes 4 s.id ++ leBytes 2 (chunksOf s.length) ++ leBytes 2 s.chunks.length ++
      leBytes 1 (b2n resumed + 2 * b2n s.verified) ++ List.replicate 7 0 ++ leBytes 96 bm)
  else tlv n (List.replicate 112 0)

/-- Changes the staging area. -/
def Mod.setStage (m : Mod) (s : Staging) : Mod := { m with chalk := { m.chalk with stage := s } }

/-- IMG_STAGE_OPEN (R526, R534). -/
def execImgStageOpen (c : Cmd) (s : State) : Host.Outcome State Fault Refusal :=
  run s fun m => m.runCmd c 0x0801 [.stage] fun m =>
    let v := c.val 0x100
    let n := leAt v 0 4
    let dg := slice v 4 24
    let st := m.chalk.stage
    if !lengthOk n then (m, some (badTlv (c.pos 0x100) 1))
    else if st.isOpen && st.length = n && st.digest = dg && !bit (leAt v 28 1) 0 then
      (m, some (okWith [stageTlv st 0x101 true]))
    else
      let id := if (st.lastId + 1) % 2 ^ 32 = 0 then 1 else (st.lastId + 1) % 2 ^ 32
      let st' : Staging := { id := id, lastId := id, length := n, seq := st.seq + 1, digest := dg, openedAt := time64 m.now }
      ({ m.setStage st' with img := { m.img with pieces := [] } }, some (okWith [stageTlv st' 0x101 false]))

/-- IMG_STAGE_STATUS (R528). -/
def execImgStageStatus (c : Cmd) (s : State) : Host.Outcome State Fault Refusal :=
  run s fun m => m.query c 0x0803 fun m => okWith [stageTlv m.chalk.stage 0x101 false]

/-- IMG_STAGE_DISCARD (R528). -/
def execImgStageDiscard (c : Cmd) (s : State) : Host.Outcome State Fault Refusal :=
  run s fun m => m.runCmd c 0x0806 [.stage, .image] fun m =>
    let st := m.chalk.stage
    ({ m.setStage { lastId := st.lastId, seq := st.seq } with img := { m.img with pieces := [] } }, some {})

/-- The pieces received cover a chunk of `n` bytes. -/
def Pieces.covers (p : Pieces) (n : Nat) : Bool :=
  (List.range (ceilDiv n 64)).all fun i => p.got.any fun g => g.1 ≤ 64 * i && min (64 * (i + 1)) n ≤ g.1 + g.2

/-- The reply of IMG_CHUNK_WRITE. -/
def progress (k done : Nat) (full : Bool) : Ans :=
  okWith [tlv 0x102 (leBytes 2 k ++ leBytes 1 (b2n full) ++ [0] ++ leBytes 2 done ++ [0, 0])]

/-- IMG_CHUNK_WRITE (R527); `host` is what the module reads from the memory a BUFFER TLV names. (DESIGN CHOICE, log 11) -/
def execImgChunkWrite (c : Cmd) (host : List Byte) (s : State) : Host.Outcome State Fault Refusal :=
  run s fun m => m.runCmd c 0x0802 [.stage] fun m =>
    let v := c.val 0x100
    let k := leAt v 4 2
    let off := leAt v 8 4
    let crc := leAt v 12 4
    let st := m.chalk.stage
    let data := match c.buffer with | some (_, n, _) => slice host 0 n | none => c.val 0x101
    let n := data.length
    let clen := chunkLen st.length k
    let drop := fun (m : Mod) => { m with img := { m.img with pieces := tdel m.img.pieces k } }
    if (c.tlv 0x101).isSome && c.buffer.isSome then (m, some (badTlv (max (c.pos 0x101) (c.pos 1)) 6))
    else if (c.tlv 0x101).isNone && c.buffer.isNone then (m, some { missing with errDetail := 6 })
    else if !st.isOpen || leAt v 0 4 ≠ st.id then (m, some (badTlv (c.pos 0x100) 1))
    else if k ≥ chunksOf st.length || off % 64 ≠ 0 || off + n > clen || (n % 64 ≠ 0 && off + n ≠ clen) then
      (m, some (badTlv (c.pos 0x100) 2))
    else match tget st.chunks k with
      | some ch =>
        if ch.crc ≠ crc then (m, some (badTlv (c.pos 0x100) 3)) else (m, some (progress k st.chunks.length true))
      | none =>
        let old := tget m.img.pieces k
        if old.isNone && m.img.pieces.length ≥ 16 then (m, some { status := stNoResource })
        else
          let p := old.getD { crc := crc, data := List.replicate clen 0 }
          if p.crc ≠ crc then (drop m, some { badTlv (c.pos 0x100) 5 with late := true })
          else
            let p' : Pieces := { p with got := (off, n) :: p.got, data := overlay p.data off data }
            let m := m.bufferRead c
            if !p'.covers clen then
              ({ m with img := { m.img with pieces := tput m.img.pieces k p' } },
                some (progress k st.chunks.length false))
            else if crcOf p'.data ≠ crc then (drop m, some { badTlv (c.pos 0x100) 4 with late := true })
            else
              let st' := { st with chunks := tput st.chunks k ⟨crc, p'.data⟩ }
              (drop (m.setStage st'), some (progress k st'.chunks.length true))

/-- The file in the staging area. -/
def Staging.file (s : Staging) : List Byte := s.chunks.flatMap (·.2.data)

/-- Every chunk is present. -/
def Staging.complete (s : Staging) : Bool := (List.range (chunksOf s.length)).all fun k => (tget s.chunks k).isSome

/-- IMG_STAGE_VERIFY (R529). -/
def execImgStageVerify (c : Cmd) (s : State) : Host.Outcome State Fault Refusal :=
  run s fun m => m.runCmd c 0x0804 [.stage] fun m =>
    let st := m.chalk.stage
    let f := st.file
    let code := imageCheck f
    if !st.isOpen || !st.complete then (m, some (badHeader 1))
    else if (sha384 f).take 24 ≠ st.digest then (m, some (badHeader 2))
    else if code = 0 then (m.setStage { st with verified := true, seq := st.seq + 1 }, some (okWith [tlv 0x101 (imageInfo f)]))
    else if 3 ≤ code && code ≤ 6 then (m, some { status := stAuthFail, errDetail := code })
    else (m, some (badHeader code))

/-! ### Installing (R530 to R533) -/

/-- A journal write. -/
def jWrite (f : Journal → Journal) (c : Chalk) : Chalk :=
  { c with journal := { f c.journal with valid := true, seq := c.journal.seq + 1 } }

/-- A write of one block's header. -/
def hWrite (b : Nat) (st : BlockState) (gen crc : Nat) (c : Chalk) : Chalk :=
  { c with blocks := tmod c.blocks b {} fun x => { x with state := st, gen := gen, crc := crc, jseq := c.journal.seq } }

/-- A write of one block's data. -/
def dWrite (b : Nat) (d : List Byte) (c : Chalk) : Chalk :=
  { c with blocks := tmod c.blocks b {} fun x => { x with data := d } }

/-- The writes that wipe block `b`: the header as WIPING, zeros, the header as WIPED. -/
def wipeWrites (b : Nat) : List (Chalk → Chalk) := [hWrite b .wiping 0 0, dWrite b [], hWrite b .wiped 0 0]

/-- The writes that copy chunk `b`: the header as WRITING, the data, the header as WRITTEN. -/
def copyWrites (g b : Nat) (d : List Byte) (crc : Nat) : List (Chalk → Chalk) :=
  [hWrite b .writing g 0, dWrite b d, hWrite b .written g crc]

/-- The header of block `b`. -/
def Chalk.header (c : Chalk) (b : Nat) : BlockState := (tgetD c.blocks b {}).state

/-- Step 3 of R530: the blocks that are not WIPED are wiped. -/
def step3 (c : Chalk) (wipe : Nat) : List (Chalk → Chalk) :=
  (List.range wipe).flatMap fun b => if c.header b = .wiped then [] else wipeWrites b

/-- Step 5 of R530 over blocks from `b`: stops at a chunk whose bytes do not match its record; whether it ran to the end. -/
def step5 (st : Staging) (g : Nat) (skip : Nat → Bool) (first : Nat → List (Chalk → Chalk)) :
    Nat → Nat → List (Chalk → Chalk) × Bool
  | 0, _ => ([], true)
  | n + 1, b =>
    if skip b then step5 st g skip first n (b + 1)
    else match tget st.chunks b with
      | some ch =>
        if crcOf ch.data = ch.crc then
          let r := step5 st g skip first n (b + 1)
          (first b ++ copyWrites g b ch.data ch.crc ++ r.1, r.2)
        else ([], false)
      | none => ([], false)

/-- The journal goes to PHASE WRITING. -/
def toWriting : Chalk → Chalk := jWrite fun j => { j with phase := 2 }

/-- The journal goes to IDLE. -/
def toIdle : Chalk → Chalk := jWrite fun j => { j with install := false, phase := 0 }

/-- The writes of an install from step 2 on (R530), and whether the copy ran to its end. -/
def installWrites (c : Chalk) : List (Chalk → Chalk) × Bool :=
  let st := c.stage
  let g := (c.journal.gen + 1) % 2 ^ 32
  let blocks := chunksOf st.length
  let wipe := max c.journal.blocks blocks
  let j := jWrite fun j => { j with install := true, phase := 1, gen := g, blocks := blocks, wipeBlocks := wipe,
                                    stageId := st.id, digest := st.digest }
  let r := step5 st g (fun _ => false) (fun _ => []) blocks 0
  ([j] ++ step3 c wipe ++ [toWriting] ++ r.1 ++ (if r.2 then [toIdle] else []), r.2)

/-- The writes of a resumed install (R533). -/
def resumeWrites (c : Chalk) : List (Chalk → Chalk) × Bool :=
  let j := c.journal
  if j.phase = 1 then
    let r := step5 c.stage j.gen (fun _ => false) (fun _ => []) j.blocks 0
    (step3 c j.wipeBlocks ++ [toWriting] ++ r.1 ++ (if r.2 then [toIdle] else []), r.2)
  else
    let skip := fun b => c.header b = .written && (tgetD c.blocks b {}).gen = j.gen
    let first := fun b => if c.header b = .wiped then [] else wipeWrites b
    let r := step5 c.stage j.gen skip first j.blocks 0
    (r.1 ++ (if r.2 then [toIdle] else []), r.2)

/-- Carries out writes. -/
def applyWrites (ws : List (Chalk → Chalk)) (c : Chalk) : Chalk := ws.foldl (fun c w => w c) c

/-- The file in the image area, by the journal's BLOCKS (R533). -/
def Chalk.areaFile (c : Chalk) : List Byte := (List.range c.journal.blocks).flatMap fun b => (tgetD c.blocks b {}).data

/-- The state of the image area (R534, R540): 0 VALID, 1 INSTALLING, 2 INCOMPLETE, 3 FAILED. -/
def Mod.areaState (m : Mod) : Nat :=
  if m.img.installing then 1 else if m.img.failed then 3 else if m.chalk.journal.install then 2 else 0

/-- IMG_QUERY (R540). -/
def execImgQuery (c : Cmd) (s : State) : Host.Outcome State Fault Refusal :=
  run s fun m => m.query c 0x0807 fun m =>
    m.inLimit c (okWith [tlv 0x101 (m.img.loaded.getD (List.replicate 80 0)),
      tlv 0x102 (leBytes 1 m.areaState ++ leBytes 1 (m.get F.IMG_STATUS_CHECK) ++ [0, 0] ++
        leBytes 4 (m.get F.IMG_STATUS_IMAGE_GEN)),
      stageTlv m.chalk.stage 0x103 false, tlv 0x104 (leBytes 8 Config.romVersion.toNat)])

end Sys2Proof.Machine
end

