-- ==== Sys2Proof/Machine/Faults.lean ====
section
/-! DEFINITION. Logs, the access-error log, the Fitting's commands, the multi-function pins (*Errors, snapshots and long-run
behaviour*, *Power, pins and physical characteristics*). -/

namespace Sys2Proof.Machine

/-! ### Event and error logs (R567 to R570) -/

/-- Slots of a log. -/
def logSlots (isError : Bool) : Nat := if isError then 65536 else 196608

/-- Writes one entry to its log, giving it its SEQ. -/
def Logs.write (l : Logs) (e : LogEntry) : Logs :=
  if e.cls < 16 then { l with errors := ({ e with seq := l.errorSeq } :: l.errors).take 65536, errorSeq := l.errorSeq + 1 }
  else { l with events := ({ e with seq := l.eventSeq } :: l.events).take 196608, eventSeq := l.eventSeq + 1 }

/-- A write to Chalk's logs. (DESIGN CHOICE, log 79) -/
def Mod.logWrite (m : Mod) (e : LogEntry) : Mod := { m with chalk := { m.chalk with logs := m.chalk.logs.write e } }

/-- LOG_ENTRY_WRITE: a LOG stitch writes the oldest queued entry, after an entry of its class with CODE 0 that tells how many
were lost (R568). -/
def Mod.logStitch (m : Mod) : Mod :=
  match m.logq.queue with
  | [] => m
  | e :: es =>
    let lost := if e.cls < 16 then m.logq.lostErrors else m.logq.lostEvents
    if lost > 0 then
      let q := if e.cls < 16 then { m.logq with lostErrors := 0 } else { m.logq with lostEvents := 0 }
      { m with logq := q }.logWrite { e with code := 0, detail := leBytes 8 lost }
    else { m with logq := { m.logq with queue := es } }.logWrite e

/-- A step of device time falls between the happening and the write of every queued entry. -/
def Mod.logStepped (m : Mod) : Mod :=
  { m with logq := { m.logq with queue := m.logq.queue.map fun e => { e with stepped := true } } }

/-- A log entry as its 64 bytes (R567). -/
def LogEntry.bytes (e : LogEntry) : List Byte :=
  let b := leBytes 8 e.seq ++ leBytes 4 (nsOf e.time) ++ leBytes 4 (secOf e.time) ++ leBytes 4 e.boot ++ leBytes 1 e.cls ++
    leBytes 1 (b2n e.traceable + 2 * b2n e.stepped) ++ leBytes 2 e.code ++ leBytes 8 e.source ++ slice e.detail 0 24
  b ++ leBytes 4 (crcOf b) ++ leBytes 4 0

/-- Records of `size` bytes that a reply has room for (R46, R49): `used` bytes of its other TLVs, `head` bytes before the records in
theirs, and 16 for CHECKPOINT where the command carries one. -/
def fits (c : Cmd) (used head size : Nat) : Nat :=
  ((c.src.limit - 64 - used - 16 * b2n (c.tlv 3).isSome) / 8 * 8 - 4 - head) / size

/-- EVENT_LOG_READ and ERR_LOG_READ (R570). -/
def Mod.logRead (m : Mod) (c : Cmd) (op : Nat) (isError : Bool) : Mod :=
  let l := if isError then m.chalk.logs.errors else m.chalk.logs.events
  let next := if isError then m.chalk.logs.errorSeq else m.chalk.logs.eventSeq
  let first := leAt (c.val 0x100) 0 8
  let count := leAt (c.val 0x100) 8 4
  let oldest := match l.getLast? with | some e => e.seq | none => next
  let got := (l.reverse.filter fun (e : LogEntry) => decide (first ≤ e.seq)).take (match c.buffer with | some _ => count | none => min count (fits c 32 0 64))
  let body := got.flatMap LogEntry.bytes
  let info := tlv 0x101 (leBytes 8 oldest ++ leBytes 8 (next - 1) ++ leBytes 8 got.length)
  let bad := count = 0 || count > 65536
  let out := first < oldest || first ≥ next
  let short := match c.buffer with | some (_, n, _) => decide (n < body.length) | none => false
  m.runCmd c op [] fun m =>
    if bad then (m, some (badTlv (c.pos 0x100)))
    else if out then (m, some (badTlv (c.pos 0x100) 1))
    else if short then (m, some (badTlv (c.pos 1)))
    else match c.buffer with
      | some _ => (m.bufferWrite c body, some (okWith [info]))
      | none => (m, some (okWith [info, tlv 0x102 body]))

/-- EVENT_LOG_READ (R570). -/
def execEventLogRead (c : Cmd) (s : State) : Host.Outcome State Fault Refusal :=
  run s fun m => m.logRead c 0x000B false

/-- ERR_LOG_READ (R570). -/
def execErrLogRead (c : Cmd) (s : State) : Host.Outcome State Fault Refusal :=
  run s fun m => m.logRead c 0x0905 true

/-- An access-error entry as its 32 bytes (R571). -/
def AccessEntry.bytes (e : AccessEntry) : List Byte :=
  leBytes 8 (e.addr % 2 ^ 40 + b2n e.write * 2 ^ 40 + b2n e.wide * 2 ^ 41 + e.mid * 2 ^ 48) ++ leBytes 8 e.time ++
    leBytes 8 e.cause ++ leBytes 8 e.index

/-- ACCESS_LOG_READ (R572): the newest entries that fit, oldest of them first; CLEAR empties the log after the read. (DESIGN CHOICE, log 79) -/
def execAccessLogRead (c : Cmd) (s : State) : Host.Outcome State Fault Refusal :=
  run s fun m => m.runCmd c 0x0906 [] fun m =>
    let room := (c.src.limit - 64 - 20 - 16 * b2n (c.tlv 3).isSome) / 32
    let got := (m.alog.entries.take room).reverse
    let head := leBytes 4 got.length ++ leBytes 4 0 ++ leBytes 8 m.alog.overwritten
    let clear := bit (leAt (c.val 0x102) 0 4) 0
    let a := { m.alog with seen := m.alog.count, entries := if clear then [] else m.alog.entries }
    ({ m with alog := a }, some (okWith [tlv 0x101 (head ++ got.flatMap AccessEntry.bytes)]))

/-! ### The Fitting's commands (R579 to R581) -/

/-- FIT_ARM (R580). -/
def execFitArm (c : Cmd) (s : State) : Host.Outcome State Fault Refusal :=
  run s fun m => m.runCmd c 0x0901 [] fun m =>
    let v := c.val 0x100
    let n := leAt v 0 1
    let src := leAt v 1 1
    let param := leAt v 4 4
    let ns := leAt v 16 4
    let when' := leAt v 8 6 * 1000000000 + ns
    let p := c.pos 0x100
    if n ≥ 8 || src < 2 || src > 5 || (src = 3 && param ≥ 24) || (src = 5 && (ns % 8 ≠ 0 || ns ≥ 1000000000)) ||
        (src = 2 && (param % 2 = 1 || param ≥ 128)) then (m, some (badTlv p))
    else if (tget m.fit.slots n).isSome then (m, some (badTlv p 1))
    else if src = 3 && m.pinFunc param ≠ some 3 then (m, some (badTlv p 2))
    else if src = 5 && when' < m.ns + 100000 then (m, some (badTlv p 3))
    else if src = 5 && m.flag F.TPL_LOSS_POLICY_FIT && !m.flag F.TPL_STATE_TRACEABLE then
      (m, some { status := stNotTraceable })
    else
      let f := leAt v 2 1
      let slot : FitSlot := { source := src, clear := bit f 0, oneShot := bit f 1, param := param,
                              whenNs := if src = 5 then when' else 0 }
      ({ m with fit := { m.fit with slots := tput m.fit.slots n slot } }, some {})

/-- FIT_DISARM (R580). -/
def execFitDisarm (c : Cmd) (s : State) : Host.Outcome State Fault Refusal :=
  run s fun m => m.runCmd c 0x0904 [] fun m =>
    let n := leAt (c.val 0x100) 0 1
    if n ≥ 8 then (m, some (badTlv (c.pos 0x100)))
    else if (tget m.fit.slots n).isNone then (m, some (badTlv (c.pos 0x100) 1))
    else ({ m with fit := { m.fit with slots := tdel m.fit.slots n } }, some {})

/-- The 48-byte header of a snapshot (R579). -/
def FitBank.header (b : FitBank) (n boot : Nat) : List Byte :=
  leBytes 4 b.snapSeq ++ leBytes 1 n ++
    leBytes 1 (b2n b.traceable + 2 * b2n b.stepped + 4 * b2n b.merged + 8 * b2n b.cleared) ++ leBytes 2 b.sources ++
    leBytes 8 (b.fireTime / 1000000000) ++ leBytes 4 (b.fireTime % 1000000000) ++ leBytes 1 b.slots ++ [0, 0, 0] ++
    leBytes 4 b.tag ++ leBytes 4 boot ++ leBytes 8 b.errSeq ++ List.replicate 8 0

/-- Eight bytes of a snapshot at an aligned address: each register in them at its own width (R579). -/
def FitBank.slot (b : FitBank) (a : Nat) : Nat := tgetD b.vals a 0 + (tgetD b.vals (a + 4) 0) * 2 ^ 32

/-- FIT_READ (R579). -/
def execFitRead (c : Cmd) (s : State) : Host.Outcome State Fault Refusal :=
  run s fun m => m.runCmd c 0x0903 [] fun m =>
    let v := c.val 0x100
    let n := leAt v 0 1
    let count := leAt v 4 4
    let addr := leAt v 8 8
    let b := m.fit.bank n
    let p := c.pos 0x100
    let k := match c.buffer with | some _ => count | none => min count (fits c 56 0 8)
    let vals := (List.range k).flatMap fun i => leBytes 8 (b.slot (addr + 8 * i))
    if n > 1 || count = 0 || count > 65536 || addr % 8 ≠ 0 then (m, some (badTlv p))
    else if !b.full then (m, some (badTlv p 1))
    else if (match c.buffer with | some (_, l, _) => decide (l < vals.length) | none => false) then (m, some (badTlv (c.pos 1)))
    else
      let m := if bit (leAt v 1 1) 0 then { m with fit := m.fit.putBank n { b with full := false } } else m
      let snap := tlv 0x101 (b.header n m.chalk.boot)
      match c.buffer with
      | some _ => (m.bufferWrite c vals, some (okWith [snap]))
      | none => (m, some (okWith [snap, tlv 0x102 vals]))

/-- A write of FIT_FIRE (R575, R581). -/
def Mod.fitFire (m : Mod) (mid v : Nat) : Mod :=
  if !m.isManager mid then m.refuse mid (regAddr .FIT_FIRE) true false 3
  else if bit v 0 then m.trigger { source := 0, clear := bit v 1 }
  else m

/-- FIT_FIRE: a write of FIT_FIRE with FIRE = 1. -/
def execFitFire (r : Req) (clear : Bool) (s : State) : Host.Outcome State Fault Refusal :=
  run s fun m => m.fitFire r.mid (1 + 2 * b2n clear)

/-- FIT_TAI_TRIGGER: device time reaches the WHEN of slot `n` (R577). -/
def execFitTaiTrigger (n : Fin 8) (s : State) : Host.Outcome State Fault Refusal :=
  run s fun m =>
    match tget m.fit.slots n with
    | some x => if x.source = 5 then (m.runToNs x.whenNs).trigger { source := 5, slot := some n, clear := x.clear } else m
    | none => m

/-! ### Multi-function pins (R556 to R559) -/

/-- What a pin's function drives: `none` for an input and during a hold. An LED counts as lit while its source is
true. (DESIGN CHOICE, log 84) -/
def Mod.pinDrive (m : Mod) (p : Nat) : Option Bool :=
  match m.pinFunc p with
  | some 1 => some (m.flag F.PIN_CFG_LEVEL [p])
  | some 2 => some ((List.range 8).any fun j => m.flag F.TCK_PPS_OUT_ENABLE [j] && m.get F.TCK_PPS_OUT_PIN [j] = p &&
      (tget m.tack.ppsHigh j).isSome)
  | some 4 => some false
  | some 5 =>
    let q := m.get F.PIN_CFG_LED_PORT [p]
    some (match m.get F.PIN_CFG_LED_SRC [p] with
      | 0 => m.flag F.PIN_CFG_LEVEL [p]
      | 1 => m.phase = 5
      | 2 => m.flag F.TPL_STATE_TRACEABLE
      | 3 => (List.range 8).any fun k => m.subState q k = 4
      | 4 => m.flag F.BOB_STATUS_WARN [q]
      | _ => false)
  | _ => none

/-- A new level on a GPIO_OUT pin is driven from the next step (R556). -/
def Mod.pinDriveOut (m : Mod) (p : Nat) : Mod :=
  match m.pinDrive p with
  | some b => m.emit (.pin p b)
  | none => m

/-- PIN_INPUT_EDGE: the level of a pad is sampled as `level` (R556): IN follows; a selected edge in function INPUT or FIT_IN
sets PIN_EDGE, and on a FIT_IN pin it triggers the slots armed for it. -/
def execPinInputEdge (p : Fin 24) (level : Bool) (s : State) : Host.Outcome State Fault Refusal :=
  run s fun m =>
    let old := bit (m.get F.PIN_STATUS_IN) p
    let v := m.get F.PIN_STATUS_IN
    let m := m.set F.PIN_STATUS_IN [] (v - b2n old * 2 ^ p.val + b2n level * 2 ^ p.val)
    let e := m.get F.PIN_CFG_EDGE [p.val]
    let sel := old ≠ level && (if level then e % 2 = 1 else e / 2 = 1)
    let fn := m.pinFunc p
    if !(sel && (fn = some 0 || fn = some 3)) then m
    else
      let had := bit (m.get F.PIN_EDGE_EDGE) p
      let m := if had then m else m.set F.PIN_EDGE_EDGE [] (m.get F.PIN_EDGE_EDGE + 2 ^ p.val)
      let m := if !had && m.flag F.PIN_EDGE_VEC_EN then m.raiseManager (m.get F.PIN_EDGE_VECTOR) else m
      if fn = some 3 then
        (m.fit.slots.filter fun x => x.2.source = 3 && x.2.param = p.val).foldl
          (fun m x => m.trigger { source := 3, slot := some x.1, clear := x.2.clear }) m
      else m

/-- A PIN_CFG value with no reserved encoding for pin `p` (R556, R557). -/
def pinCfgOk (p v : Nat) : Bool :=
  bits v 0 4 ≤ 7 && (bits v 0 4 ≠ 6 || p = 22) && (bits v 0 4 ≠ 7 || p = 23) && bits v 7 3 ≤ 4 && bits v 17 2 ≤ 2

/-- S0 of R558: the first stitch boundary after this instant. -/
def Mod.nextStitch (m : Mod) : Nat := (m.ns / 32 + 1) * 32

/-- The take-over of a hold (R558): the first stitch boundary at least 8.192 µs after S0. -/
def Hold.ends (h : Hold) : Nat := ceilDiv (h.s0 + 8192) 32 * 32

/-- PIN_FUNCTION_SET (R557, R558): each pin whose function changes is released at S0 and held; the others take their fields
at once. The command replies at the take-over, or now when no pin changes. -/
def execPinFunctionSet (c : Cmd) (s : State) : Host.Outcome State Fault Refusal :=
  run s fun m => m.runCmd c 0x0009 ((c.all 0x100).map fun t => .pin (leAt t.2 0 1)) fun m =>
    let ts := c.all 0x100
    let pin := fun (t : Nat × List Byte) => leAt t.2 0 1
    let val := fun (t : Nat × List Byte) => leAt t.2 4 4
    let leaves := fun (t : Nat × List Byte) (f : Nat) => m.get F.PIN_CFG_FUNC [pin t] = f && val t % 16 ≠ f
    let bad := fun (t : Nat × List Byte) =>
      if pin t > 23 || !pinCfgOk (pin t) (val t) then some 1
      else if leaves t 2 && (List.range 8).any (fun j => m.flag F.TCK_PPS_OUT_ENABLE [j] && m.get F.TCK_PPS_OUT_PIN [j] = pin t)
      then some 2
      else if leaves t 3 && m.fit.slots.any (fun x => x.2.source = 3 && x.2.param = pin t) then some 3
      else if (ts.filter fun u => pin u = pin t).length > 1 then some 4
      else none
    match ts.findSome? fun t => (bad t).map fun d => (t.1, d) with
    | some (p, d) => (m, some (badTlv p d))
    | none =>
      let changed := ts.filter fun t => val t % 16 ≠ m.get F.PIN_CFG_FUNC [pin t]
      let m := ts.foldl (fun m t =>
        if val t % 16 = m.get F.PIN_CFG_FUNC [pin t] then (m.setStored .PIN_CFG [pin t] (val t)).pinDriveOut (pin t)
        else
          let lv := (m.pinDrive (pin t)).getD (bit (m.get F.PIN_STATUS_IN) (pin t))
          { m with holds := tput m.holds (pin t) ⟨val t, lv, some { c with opcode := 0x0009 }, m.nextStitch⟩ }) m
      (m, if changed.isEmpty then some {} else none)

/-- PIN_TAKEOVER: the pins that went into the hold with pin `p` are taken over by their new functions (R558); `inputs` are the
first samples. -/
def execPinTakeover (p : Fin 24) (inputs : BitVec 24) (s : State) : Host.Outcome State Fault Refusal :=
  run s fun m =>
    match tget m.holds p with
    | none => m
    | some h =>
      let m := m.runToNs h.ends
      let mine := m.holds.filter fun x => x.2.cmd = h.cmd
      let m := mine.foldl (fun m x =>
        let m := { m with holds := tdel m.holds x.1 }
        let m := m.setStored .PIN_CFG [x.1] x.2.cfg
        let v := m.get F.PIN_STATUS_IN
        let m := m.set F.PIN_STATUS_IN [] (v - b2n (bit v x.1) * 2 ^ x.1 + b2n (bit inputs.toNat x.1) * 2 ^ x.1)
        m.pinDriveOut x.1) m
      match h.cmd with
      | some c => m.reply c {}
      | none => m

/-- A write of PIN_CFG by register (R557): FUNC is refused; during a hold the other fields wait for the take-over. -/
def Mod.pinCfgWrite (m : Mod) (mid p v : Nat) : Mod :=
  if !m.isManager mid then m.refuse mid (regAddr .PIN_CFG [p]) true false 3
  else
    let old := match tget m.holds p with | some h => h.cfg | none => m.stored .PIN_CFG [p]
    let m := if v % 16 ≠ m.get F.PIN_CFG_FUNC [p] then m.refuse mid (regAddr .PIN_CFG [p]) true false 3 else m
    let src := if bits v 7 3 ≤ 4 then bits v 7 3 else bits old 7 3
    let pat := if bits v 17 2 ≤ 2 then bits v 17 2 else bits old 17 2
    let new := old % 16 + bits v 4 3 * 2 ^ 4 + src * 2 ^ 7 + bits v 10 7 * 2 ^ 10 + pat * 2 ^ 17
    match tget m.holds p with
    | some h => { m with holds := tput m.holds p { h with cfg := new } }
    | none => (m.setStored .PIN_CFG [p] new).pinDriveOut p

/-- The module's I3C controller reaches the Bobbins (R560). -/
def Mod.i3cUp (m : Mod) : Bool := m.pinFunc 22 = some 6 && m.pinFunc 23 = some 7

/-- MOD_PG is released (R553). -/
def Mod.powerGood (m : Mod) : Bool := m.powered && m.phase ≠ 1

end Sys2Proof.Machine
end

