-- ==== Sys2Proof/Machine/HostReads.lean ====
section
/-! DEFINITION. Reads of host memory: pieces, tags, waits (*Tags and ordering* of chapter 14, R379, R380). -/

namespace Sys2Proof.Machine

/-- Changes the Selvedge's state. -/
def Mod.setSel (m : Mod) (f : Sel → Sel) : Mod := { m with sel := f m.sel }

/-- The pieces of a read of `len` bytes at `addr`: none is longer than Max_Read_Request_Size or crosses a 4 KiB boundary. The
zero-length read of a fence is one piece. (DESIGN CHOICE, log 54) -/
def piecesOf : Nat → Nat → Nat → Nat → Nat → List (Nat × Nat)
  | 0, _, _, _, _ => []
  | fuel + 1, addr, off, len, mrrs =>
    let n := min len (min mrrs (4096 - addr % 4096))
    if len ≤ n then [(off, len)] else (off, n) :: piecesOf fuel (addr + n) (off + n) (len - n) mrrs

/-- The tags of an endpoint (R379). (DESIGN CHOICE, log 52) -/
def Mod.tagLimit (m : Mod) (e : Nat) : Nat :=
  match (m.fnCfg (pf e)).tags with
  | 2 => if m.sel.split.contains (e / 2) then 8192 else 16384
  | 1 => 768
  | _ => 256

/-- The lowest free tag of an endpoint. (DESIGN CHOICE, log 54) -/
def Mod.freeReadTag (m : Mod) (e : Nat) : Option Nat :=
  (List.range (m.tagLimit e)).find? fun t => (tget m.sel.tags (e * 16384 + t)).isNone

/-- Issues one piece under a tag. -/
def Mod.issuePiece (m : Mod) (e t : Nat) (p : Piece) : Mod :=
  match tget m.sel.reads p.read with
  | some r => (m.setSel fun s => { s with tags := tput s.tags (e * 16384 + t) { p with at_ := m.now } }).emit (.hostRead (some t) r.fn (r.addr + p.off) p.len r.pasid)
  | none => m

/-- Issues pieces in order while tags are free; the rest wait. -/
def Mod.issueAll (m : Mod) (e : Nat) : List Piece → Mod
  | [] => m.setSel fun s => { s with waiting := tdel s.waiting e }
  | p :: ps =>
    match m.freeReadTag e with
    | some t => (m.issuePiece e t p).issueAll e ps
    | none => m.setSel fun s => { s with waiting := tput s.waiting e (p :: ps) }

/-- Requests that wait for a tag of endpoint `e` (R379). -/
def Mod.tagWaits (m : Mod) (e : Nat) : List Piece := tgetD m.sel.waiting e []

/-- A read of host memory: its pieces take tags behind those that wait; each that must wait counts in TAG_STALLS. A function that
may issue nothing issues nothing. (DESIGN CHOICE, log 10) -/
def Mod.hostRead (m : Mod) (fn : Fn) (addr len : Nat) (pasid : Option Nat) (why : ReadFor) : Mod :=
  if !m.issues fn then m
  else
    let ps := piecesOf (len + 1) addr 0 len (m.fnCfg (pf fn.ep)).mrrs
    let id := m.sel.nextRead
    let r : HostRead := { fn := fn, why := why, addr := addr, len := len, pasid := pasid, left := ps.length }
    let m := m.setSel fun s => { s with reads := tput s.reads id r, nextRead := id + 1 }
    let before := m.tagWaits fn.ep
    let m := m.issueAll fn.ep (before ++ ps.map fun (p : Nat × Nat) => ({ read := id, off := p.1, len := p.2 } : Piece))
    m.selCount fn.ep 16 ((m.tagWaits fn.ep).length - before.length)

/-- The completion timeout of an endpoint, in units of device time (R379): 50 ms for value 0; for the others the low end of the range
that the PCI Express Base Specification gives the value. (PRESUMED, log 51) -/
def Mod.cplTimeout (m : Mod) (e : Nat) : Nat :=
  let us := match (m.fnCfg (pf e)).cto with
    | 1 => 50 | 2 => 1000 | 5 => 16000 | 6 => 65000 | 9 => 260000 | 10 => 1000000 | 13 => 4000000 | 14 => 17000000 | _ => 50000
  us * 1000 * nsUnit

/-- A tag is free again: pieces that wait go on. -/
def Mod.endTag (m : Mod) (e t : Nat) : Mod :=
  (m.setSel fun s => { s with tags := tdel s.tags (e * 16384 + t) }).issueAll e (m.tagWaits e)

/-- Pieces that wait for a tag and belong to no live read are given up. -/
def Mod.dropWaits (m : Mod) (e : Nat) : Mod :=
  let l := (m.tagWaits e).filter fun p => (match tget m.sel.reads p.read with | some r => !r.stale && !r.gone | none => false)
  m.setSel fun s => { s with waiting := if l.isEmpty then tdel s.waiting e else tput s.waiting e l }

/-- The reads of functions that satisfy `q` are marked; their pieces not yet issued are given up. -/
def Mod.markReads (m : Mod) (e : Nat) (q : HostRead → Bool) (f : HostRead → HostRead) : Mod :=
  (m.setSel fun s => { s with reads := s.reads.map fun (r : Nat × HostRead) => (if q r.2 then (r.1, f r.2) else r) }).dropWaits e

/-- The data of a read, in order of offset. -/
def HostRead.bytes (r : HostRead) : List Byte :=
  r.got.foldl (fun (bs : List Byte) (g : Nat × List Byte) => overlay bs g.1 g.2) (List.replicate r.len 0)

/-- A read is over: it is forgotten. -/
def Mod.dropRead (m : Mod) (id : Nat) : Mod := m.setSel fun s => { s with reads := tdel s.reads id }

/-- The tags of reads that satisfy `q` on an endpoint are freed at once, and their reads forgotten (R384, R386). -/
def Mod.freeAllTags (m : Mod) (e : Nat) : Mod :=
  m.setSel fun s =>
    { s with tags := s.tags.filter fun t => decide (t.1 / 16384 ≠ e), waiting := tdel s.waiting e,
             reads := s.reads.filter fun r => decide (r.2.fn.ep ≠ e) }

end Sys2Proof.Machine
end

