-- ==== Sys2Proof/Machine/Pleat.lean ====
section
/-! DEFINITION. *Pleat buffer and traffic management*: accounts, admission, classes, spill, ECN, priority flow control, the
crossbar, the fate of sends. -/

namespace Sys2Proof.Machine

/-! ### Cells and accounts (R287 to R291) -/

/-- Cells of a packet of `len` bytes (R287). -/
def cellsOf (len : Nat) : Nat := max 1 (ceilDiv len 256)

/-- Cells of a packet. -/
def Pkt.cells (p : Pkt) : Nat := cellsOf p.bytes.length

/-- What R290 needs to know of an account: its minimum, its limit, k of alpha = 2^(k − 4), its headroom when it may take it. -/
structure AcctInfo where
  slice : Nat
  num : Nat
  cls : Nat
  lo : Nat
  hi : Nat
  alpha : Nat
  head : Option Nat := none
  deriving DecidableEq, Repr

/-- A configuration leaves at least 65,536 shared cells when every account the slice can have counts (R291). -/
def Mod.pleatFits (m : Mod) (s : Nat) : Bool := decide (m.setAsideFor s 100 12 + 65536 ≤ 262144)

/-- Class `c` is lossless on port `n` and the watchdog has not tripped (R301, R302). -/
def Mod.lossless (m : Mod) (n c : Nat) : Bool :=
  m.flag F.PLT_PFC_CFG_LOSSLESS [n / 12, c] && !(tgetD m.plt.xoff (n * 8 + c) {}).tripped

/-- XOFF of port `n`, class `c`. -/
def Mod.xoffOf (m : Mod) (n c : Nat) : Xoff := tgetD m.plt.xoff (n * 8 + c) {}

/-- Input account (q, c); queue 16 is recirculation, with alpha 8 (R288, R290). On a port with Jexdor links the minimum is the
links' own (R481). (DEDUCED, log 30) -/
def Mod.inInfo (m : Mod) (s q c : Nat) : AcctInfo :=
  { slice := s, num := inAcct s q c, cls := c,
    lo := if q < 12 && !(m.linksOn (12 * s + q)).isEmpty then 0 else m.get F.PLT_ING_CLASS_IN_MIN [s, c],
    hi := m.get F.PLT_ING_CLASS_IN_MAX [s, c], alpha := if q = 16 then 7 else m.get F.PLT_CFG_IN_ALPHA [s],
    head := if q < 12 && m.lossless (12 * s + q) c && (m.xoffOf (12 * s + q) c).since.isSome
      then some (m.get F.PLT_PFC_CFG_HEADROOM [s, c]) else none }

/-- Crossing account (b, c) of slice `s`. -/
def Mod.xInfo (m : Mod) (s b c : Nat) : AcctInfo :=
  { slice := s, num := xAcct s b c, cls := c, lo := 0, hi := m.get F.PLT_CFG_VOQ_MAX [s], alpha := 7 }

/-- The egress queue exists (R288). -/
def Mod.egExists (m : Mod) (s e : Nat) : Bool :=
  if e < 96 then m.subOn (12 * s + e / 8) (e % 8) else m.present (4 * s + (e - 96))

/-- Egress account (e, c) of slice `s`; one of a disabled account has no minimum (R291). -/
def Mod.egInfo (m : Mod) (s e c : Nat) : AcctInfo :=
  { slice := s, num := egAcct s e c, cls := c, lo := if m.egExists s e then m.get F.PLT_EG_CLASS_EG_MIN [s, c] else 0,
    hi := m.get F.PLT_EG_CLASS_EG_MAX [s, c], alpha := m.get F.PLT_CFG_EG_ALPHA [s] }

/-! ### Admission (R290) -/

/-- The source that an admission of `n` cells takes (R290): 0 control reserve, 1 minimum, 2 shared pool, 3 headroom. -/
def Mod.admitSrc (m : Mod) (a : AcctInfo) (n : Nat) : Option Nat :=
  let x := m.acct a.num
  let free := m.sharedFree a.slice
  if a.cls = 7 ∧ tgetD m.plt.ctrlUsed a.slice 0 + n ≤ m.get F.PLT_CFG_CTRL_RESERVE [a.slice] then some 0
  else if x.minUsed + n ≤ a.lo then some 1
  else if x.depth + n ≤ a.hi ∧ 16 * (x.sharedUsed + n) ≤ 2 ^ a.alpha * free ∧ n ≤ free then some 2
  else match a.head with
    | some h => if x.headUsed + n ≤ h then some 3 else none
    | none => none

/-- An account with a charge added. -/
def Acct.add (x : Acct) (src n : Nat) : Acct :=
  { depth := x.depth + n, minUsed := x.minUsed + (if src = 1 then n else 0),
    sharedUsed := x.sharedUsed + (if src = 2 then n else 0), headUsed := x.headUsed + (if src = 3 then n else 0),
    hbm := x.hbm + (if src = 4 then n else 0) }

/-- An account with a charge taken off. -/
def Acct.sub (x : Acct) (src n : Nat) : Acct :=
  { depth := x.depth - n, minUsed := x.minUsed - (if src = 1 then n else 0),
    sharedUsed := x.sharedUsed - (if src = 2 then n else 0), headUsed := x.headUsed - (if src = 3 then n else 0),
    hbm := x.hbm - (if src = 4 then n else 0) }

/-- Charges of a group share their cells: one more does, or one fewer; the last frees them (R38, R289). -/
def Mod.share (m : Mod) (c : Charge) (more : Bool) : Tab CellRef :=
  if c.ref = 0 then m.plt.refs
  else
    let k := 8 * c.ref + c.src
    let r := tgetD m.plt.refs k {}
    if more then tput m.plt.refs k ⟨c.slice, c.n, r.count + 1⟩
    else if r.count ≤ 1 then tdel m.plt.refs k else tput m.plt.refs k { r with count := r.count - 1 }

/-- Charges cells to an account. (DEDUCED, log 30) -/
def Mod.charge (m : Mod) (c : Charge) : Mod :=
  { m with plt := { m.plt with
      accts := tput m.plt.accts c.acct ((m.acct c.acct).add c.src c.n), refs := m.share c true,
      ctrlUsed := if c.src = 0 then tmod m.plt.ctrlUsed c.slice 0 (· + c.n) else m.plt.ctrlUsed } }

/-- Notes something in what the turn of a slice saw (R308). -/
def Mod.sawTurn (m : Mod) (s : Nat) (f : TurnSeen → TurnSeen) : Mod :=
  { m with plt := { m.plt with seen := tmod m.plt.seen s {} f } }

/-- A packet of class `c` was refused in the turn (R308). -/
def Mod.sawDrop (m : Mod) (s c : Nat) : Mod := m.sawTurn s fun t => { t with classes := t.classes ||| 2 ^ c }

/-- Counts in PLT_CNT. -/
def Mod.pltCount (m : Mod) (s i : Nat) (n : Nat := 1) : Mod := m.count F.PLT_CNT_COUNT [s, i] n

/-- No context of the slice is free (R203), or some lane holds LANE_LIMIT passes. -/
def Mod.seamBound (m : Mod) (s : Nat) : Bool :=
  let x := m.seamOf s
  let limit := m.get F.SEA_CFG_LANE_LIMIT [s]
  x.ctxs.length ≥ 32768 || x.ctxs.any fun c => match c.lane with | some l => decide (limit ≤ x.laneCount l) | none => false

/-- An input account refused a frame or asserted XOFF: bits 0 and 1 of PLT_OVERLOAD (R308). -/
def Mod.sawInput (m : Mod) (s : Nat) : Mod :=
  let d := !m.anyIdle s
  let b := m.seamBound s
  m.sawTurn s fun t => { t with dispatch := t.dispatch || d, seam := t.seam || b }

/-! ### Priority flow control (R300 to R302) -/

/-- The priorities of port `n` that map to class `c` and have PFC_EN. (DESIGN CHOICE, log 32) -/
def Mod.pfcPrios (m : Mod) (n c : Nat) : Nat :=
  bitSum ((List.range 8).filter fun p => bit (m.get F.PRT_CFG_PFC_EN [n]) p &&
    decide (bits (m.get F.PLT_PORT_CLASS_PCP_MAP (portIx n)) (3 * p) 3 = c))

/-- Sends a PFC frame for class `c` on every sub-port of port `n` that is UP (R300). -/
def Mod.sendPfc (m : Mod) (n c time : Nat) : Mod :=
  let ps := m.pfcPrios n c
  if ps = 0 then m
  else (List.range (m.subCount n)).foldl (fun m k =>
    if m.subState n k = 4 then (m.emit (.pfc n k ps time)).count F.PRT_STAT_COUNT [n, k, 16] else m) m

/-- After cells came to input account (n, c): XOFF is asserted at depth XOFF (R300). -/
def Mod.xoffCheck (m : Mod) (n c : Nat) : Mod :=
  let s := n / 12
  let x := m.xoffOf n c
  if m.lossless n c && x.since.isNone && decide (m.get F.PLT_ING_CLASS_XOFF [s, c] ≤ (m.acct (inAcct s (n % 12) c)).depth) then
    let m := { m with plt := { m.plt with xoff := tput m.plt.xoff (n * 8 + c) { x with since := some m.ns } } }
    (((m.pltCount s 38).sawInput s).sawTurn s fun t => { t with pfc := true }).sendPfc n c 0xFFFF
  else m

/-- After cells left input account (n, c): XOFF is released at XOFF − XON_GAP; a tripped class is lossless again below it
(R300, R302). -/
def Mod.xonCheck (m : Mod) (n c : Nat) : Mod :=
  let s := n / 12
  let x := m.xoffOf n c
  let d := (m.acct (inAcct s (n % 12) c)).depth
  let lim := m.get F.PLT_ING_CLASS_XOFF [s, c] - m.get F.PLT_ING_CLASS_XON_GAP [s, c]
  let m := if x.tripped && decide (d < lim) then
      { m with plt := { m.plt with xoff := tput m.plt.xoff (n * 8 + c) { x with tripped := false } } } else m
  if x.since.isSome && decide (d ≤ lim) then
    ({ m with plt := { m.plt with xoff := tdel m.plt.xoff (n * 8 + c) } }).sendPfc n c 0
  else m

/-- Cells of a credited frame that came in on link (src − 16) mod 32 leave its input account: FREED counts them when the link
has not left UP since (R479). (DEDUCED, log 68) -/
def Mod.jxlFreed (m : Mod) (c : Charge) : Mod :=
  if c.src < 16 then m
  else
    let l := (c.src - 16) % 32
    let x := tgetD m.jxl.links l {}
    if x.session ≠ (c.src - 16) / 32 then m
    else
      let y : Link := { x with freed := tmod x.freed (c.acct % 8) 0 fun v => (v + c.n) % 2 ^ 32 }
      { m with jxl := { m.jxl with links := tput m.jxl.links l y } }

/-- Frees a charge; the input account of a port may release XOFF. -/
def Mod.free (m : Mod) (c : Charge) : Mod :=
  let m := m.jxlFreed c
  let x := (m.acct c.acct).sub c.src c.n
  let m := { m with plt := { m.plt with
      accts := if x = {} then tdel m.plt.accts c.acct else tput m.plt.accts c.acct x, refs := m.share c false,
      ctrlUsed := if c.src = 0 then tmod m.plt.ctrlUsed c.slice 0 (· - c.n) else m.plt.ctrlUsed } }
  if c.acct < 2000 && c.acct / 8 % 17 < 12 then m.xonCheck (12 * c.slice + c.acct / 8 % 17) (c.acct % 8) else m

/-- Frees every charge. -/
def Mod.freeAll (m : Mod) (l : List Charge) : Mod := l.foldl Mod.free m

/-- An admission under R290: the charge, of a group of shared cells where `ref` is not 0, or none when it is refused. -/
def Mod.admitCells (m : Mod) (a : AcctInfo) (n : Nat) (ref : Nat := 0) : Option (Mod × Charge) :=
  (m.admitSrc a n).map fun src =>
    let c : Charge := { slice := a.slice, acct := a.num, n := n, src := src, ref := ref }
    (m.charge c, c)

/-- PFC_REFRESH: half the pause time has passed on a sub-port: the frames of every class under XOFF go out again (R300). -/
def execPfcRefresh (n : Fin 96) (k : Fin 8) (s : State) : Host.Outcome State Fault Refusal :=
  run s fun m =>
    if m.subState n k ≠ 4 then m
    else (List.range 7).foldl (fun m c =>
      let ps := m.pfcPrios n c
      if (m.xoffOf n c).since.isSome && ps ≠ 0 then (m.emit (.pfc n k ps 0xFFFF)).count F.PRT_STAT_COUNT [n, k, 16] else m) m

/-- PFC_WATCHDOG: XOFF of port `n`, class `c` has stayed asserted for WD_MS (R302). -/
def execPfcWatchdog (n : Fin 96) (c : Fin 8) (s : State) : Host.Outcome State Fault Refusal :=
  run s fun m =>
    let sl := n.val / 12
    let wd := m.get F.PLT_PFC_CFG_WD_MS [sl, c]
    match (m.xoffOf n c).since with
    | none => m
    | some t =>
      if wd = 0 then m
      else
        let m := m.runToNs (t + wd * 1000000)
        let m := { m with plt := { m.plt with xoff := tput m.plt.xoff (n.val * 8 + c.val) { since := none, tripped := true } } }
        ((m.sendPfc n c 0).pltCount sl 39).event 17 3 (regAddr .PLT_PFC_CFG [sl, c.val]) [BitVec.ofNat 8 n, BitVec.ofNat 8 c]

/-! ### Headers (R294, R299) -/

/-- EtherType after up to `tags` VLAN tags from offset `o`; the payload offset; the PCP of the outer tag. -/
def etherAt : Nat → List Byte → Nat → Option Nat → Nat × Nat × Option Nat
  | 0, d, o, pcp => (beNat (slice d o 2), o + 2, pcp)
  | t + 1, d, o, pcp =>
    let e := beNat (slice d o 2)
    if e = 0x8100 || e = 0x88A8 then etherAt t d (o + 4) (pcp.or (some (beNat (slice d (o + 2) 1) / 32)))
    else (e, o + 2, pcp)

/-- EtherType, payload offset and outer PCP of a frame, with up to two VLAN tags. -/
def ether (d : List Byte) : Nat × Nat × Option Nat := etherAt 2 d 12 none

/-- The outer IP header (R294, R299): DSCP, ECN, next protocol, offset of what follows. -/
def ipHeader (d : List Byte) : Option (Nat × Nat × Nat × Nat) :=
  let (e, o, _) := ether d
  let b := fun i => beNat (slice d (o + i) 1)
  if e = 0x0800 && decide (o + 20 ≤ d.length) && b 0 / 16 = 4 then some (b 1 / 4, b 1 % 4, b 9, o + 4 * (b 0 % 16))
  else if e = 0x86DD && decide (o + 40 ≤ d.length) && b 0 / 16 = 6 then
    let tc := b 0 % 16 * 16 + b 1 / 16
    some (tc / 4, tc % 4, b 6, o + 40)
  else none

/-- EtherType of Jexdor frames (R475). -/
def jxlEther : Nat := 0x88B5

/-- TYPE of a Jexdor frame (R475). -/
def jxlType (d : List Byte) : Nat := leAt d 14 1 % 16

/-- A Jexdor frame under credit (R476). -/
def isCredited (d : List Byte) : Bool := (ether d).1 = jxlEther && decide (jxlType d < 8)

/-- A frame is of the control class by its contents (R294). -/
def controlFrame (d : List Byte) (jexdorPort : Bool) : Bool :=
  let (e, o, _) := ether d
  e = 0x88F7 || (e = 0x8809 && beNat (slice d o 1) = 0x0A) || (jexdorPort && e = jxlEther && bit (beNat (slice d (o + 1) 1)) 7) ||
    (match ipHeader d with
     | some (_, _, 17, l4) => decide (l4 + 4 ≤ d.length) && (beNat (slice d (l4 + 2) 2) = 319 || beNat (slice d (l4 + 2) 2) = 320)
     | _ => false)

/-- A frame of port `n` takes a token of the control bucket (R294). (DEDUCED, log 31) -/
def Mod.ctrlToken (m : Mod) (n : Nat) : Bool × Mod :=
  let kpps := m.get F.PLT_PORT_CLASS_CTRL_KPPS (portIx n)
  let b := tgetD m.plt.buckets n {}
  let have_ := min 64000000 (b.tokens + (m.ns - b.at_) * kpps)
  let ok := kpps > 0 && have_ ≥ 1000000
  (ok, { m with plt := { m.plt with buckets := tput m.plt.buckets n ⟨if ok then have_ - 1000000 else have_, m.ns⟩ } })

/-- The ingress class of a frame (R294). -/
def Mod.classify (m : Mod) (n : Nat) (d : List Byte) : Nat × Mod :=
  let f := fun (x : Fld) => m.get x (portIx n)
  let dflt := f F.PLT_PORT_CLASS_DEFAULT_TC
  if controlFrame d ((List.range 32).any fun l => m.flag F.JXL_LINK_CFG_ENABLE [l] && m.get F.JXL_LINK_CFG_PORT [l] = n) then
    let (ok, m) := m.ctrlToken n
    if ok then (7, m) else (dflt, m.pltCount (n / 12) 40)
  else
    let c := match f F.PLT_PORT_CLASS_TRUST, (ether d).2.2, ipHeader d with
      | 1, some p, _ => bits (f F.PLT_PORT_CLASS_PCP_MAP) (3 * p) 3
      | 2, _, some (dscp, _) => bits (m.stored .PLT_DSCP_MAP [n / 12, dscp / 16]) (3 * (dscp % 16)) 3
      | _, _, _ => dflt
    (c, m)

/-! ### Input queues (R203, R295) -/

/-- The key of a part of an input queue: the control part or the rest. -/
def inqKey (s q : Nat) (ctrl : Bool) : Nat := (s * 18 + q) * 2 + b2n ctrl

/-- A packet joins its input queue, class 7 the control part (R295). -/
def Mod.enqueueIn (m : Mod) (s q : Nat) (p : Pkt) : Mod :=
  { m with plt := { m.plt with inq := tmod m.plt.inq (inqKey s q (p.cls = 7)) [] (· ++ [p]) } }

/-- Ingress admission of a network frame (R292): its account is charged and it joins its queue, or it is dropped whole and
counted. -/
def Mod.ingress (m : Mod) (n sub : Nat) (p : Pkt) : Mod :=
  let s := n / 12
  let q := n % 12
  let (c, m) := m.classify n p.bytes
  match m.admitCells (m.inInfo s q c) p.cells with
  | some (m, ch) => (m.enqueueIn s q { p with cls := c, charges := [ch] }).xoffCheck n c
  | none =>
    let m := (m.count F.PLT_IN_DROP_COUNT [s, q, c]).pltCount s c
    ((m.count F.PRT_STAT_COUNT [n, sub, 11]).sawInput s).sawDrop s c

/-! ### The fate of sends (R413) -/

/-- A send's frame starts its way: one copy. -/
def Mod.sendBorn (m : Mod) (r : SendRec) : Nat × Mod :=
  let id := m.plt.nextSend
  (id, { m with plt := { m.plt with sends := tput m.plt.sends id r, nextSend := id + 1 } })

/-- Further copies of a packet descended from a send. -/
def Mod.sendMore (m : Mod) (p : Pkt) (n : Nat) : Mod :=
  match p.origin with
  | .host _ _ _ _ id => { m with plt := { m.plt with sends := tadj m.plt.sends id fun r => { r with copies := r.copies + n } } }
  | _ => m

/-- A copy of a send is lost to a cause of R413. -/
def Mod.sendLost (m : Mod) (p : Pkt) (cause : Nat) : Mod :=
  match p.origin with
  | .host _ _ _ _ id =>
    { m with plt := { m.plt with sends := tadj m.plt.sends id fun r =>
        { r with copies := r.copies - 1, cause := r.cause.or (some cause) } } }
  | _ => m

/-- A copy of a send is delivered with a stamp. -/
def Mod.sendDone (m : Mod) (p : Pkt) (stamp : Nat) : Mod :=
  match p.origin with
  | .host _ _ _ _ id =>
    { m with plt := { m.plt with sends := tadj m.plt.sends id fun r =>
        { r with copies := r.copies - 1, stamp := r.stamp.or (some stamp) } } }
  | _ => m

/-! ### Rings as destinations (R304, R305) -/

/-- A receive ring. -/
def Mod.recvRing (m : Mod) (r : Nat) : Option Ring := tget m.spl.rings (65536 + r)

/-- The function of an owner. -/
def Mod.ownerFn (m : Mod) (o : Nat) : Fn := if o < 4096 then m.instFn o else pf (o - 4096)

/-- The endpoint of an owner. -/
def Mod.ownerEp (m : Mod) (o : Nat) : Nat := (m.ownerFn o).ep

/-- The delivery cap of an owner: an instance's resource; a PF has none (R305). -/
def Mod.deliveryCap (m : Mod) (o : Nat) : Option Nat :=
  if o < 4096 then some (match tget m.spl.insts o with | some i => i.quota.cap | none => 16384) else none

/-! ### Egress (R289, R292, R296 to R299, R323) -/

/-- Puts the entries of an egress queue. -/
def Mod.putEgq (m : Mod) (k : Nat) (l : List EgEntry) : Mod :=
  { m with plt := { m.plt with egr := if l = [] then tdel m.plt.egr k else tput m.plt.egr k l } }

/-- Puts CE into the outer IP header and updates the IPv4 checksum (R299). -/
def markCe (d : List Byte) : List Byte :=
  let (e, o, _) := ether d
  let b := fun i => beNat (slice d i 1)
  if e = 0x0800 then
    let old := beNat (slice d o 2)
    let new := old / 4 * 4 + 3
    let sum := (65535 - beNat (slice d (o + 10) 2)) + (65535 - old) + new
    let sum := sum % 65536 + sum / 65536
    let sum := sum % 65536 + sum / 65536
    overlay (overlay d o (beBytes 2 new)) (o + 10) (beBytes 2 (65535 - sum))
  else overlay d (o + 1) [BitVec.ofNat 8 (b (o + 1) / 64 * 64 + 48 + b (o + 1) % 16)]

/-- ECN at egress admission (R299): the packet, marked or not. -/
def Mod.ecn (m : Mod) (s c depth : Nat) (p : Pkt) : Pkt × Mod :=
  let f := fun (x : Fld) => m.get x [s, c]
  match ipHeader p.bytes with
  | some (_, e, _, _) =>
    if (e = 1 || e = 2) && f F.PLT_ECN_CFG_ECN_EN = 1 && f F.PLT_ECN_CFG_KMIN ≤ depth && (ether p.bytes).1 ≠ jxlEther then
      let span := f F.PLT_ECN_CFG_KMAX - f F.PLT_ECN_CFG_KMIN
      let (d, m) := if depth < f F.PLT_ECN_CFG_KMAX then m.draw (256 * span) else (0, m)
      if f F.PLT_ECN_CFG_KMAX ≤ depth || decide (d < f F.PLT_ECN_CFG_PMAX * (depth - f F.PLT_ECN_CFG_KMIN)) then
        ({ p with bytes := markCe p.bytes }, m.pltCount s (16 + c))
      else (p, m)
    else (p, m)
  | none => (p, m)

/-- Egress admission with the choice between die and HBM (R290, R296, R297); `busy` when the spill's bandwidth takes nothing
now. The charge's source is 4 for a packet placed in HBM; `ref`: its group of shared cells. -/
def Mod.egressAdmit (m : Mod) (s e c n : Nat) (busy : Bool) (ref : Nat := 0) : Option (Mod × Charge) :=
  let a := m.egInfo s e c
  let x := m.acct a.num
  let spillOn := c ≠ 7 && m.flag F.PLT_SPILL_CFG_SPILL_EN [s]
  let die := m.admitCells a n ref
  let room := !busy && decide (m.spillUsed s + n ≤ 16777216)
  let want := spillOn && decide (x.depth + n ≤ a.hi) && (decide (0 < x.hbm) || decide (m.get F.PLT_SPILL_CFG_SPILL_DEPTH [s] ≤ x.depth - x.hbm) ||
    die.isNone)
  let refusedSpill := fun (m : Mod) => (m.pltCount s 35).sawTurn s fun t => { t with spill := true }
  if want && room then
    let ch : Charge := { slice := s, acct := a.num, n := n, src := 4, ref := ref }
    some ((m.charge ch).pltCount s 36 n, ch)
  else if want then
    match die with
    | some (m', ch) => if x.hbm = 0 then some (refusedSpill m', ch) else none
    | none => none
  else if 0 < x.hbm then none
  else die

/-- Whether an egress refusal came from the spill (R297). (DESIGN CHOICE, log 32) -/
def Mod.spillShort (m : Mod) (s e c n : Nat) (busy : Bool) : Bool :=
  let a := m.egInfo s e c
  let x := m.acct a.num
  c ≠ 7 && m.flag F.PLT_SPILL_CFG_SPILL_EN [s] && decide (x.depth + n ≤ a.hi) &&
    !(!busy && decide (m.spillUsed s + n ≤ 16777216))

/-- A packet is refused at an egress queue (R292). -/
def Mod.egressDrop (m : Mod) (s e c : Nat) : Mod :=
  let m := m.pltCount s (8 + c)
  let m := if e < 96 then m.count F.PLT_EG_DROP_COUNT [s, e / 8, e % 8, c] else m.count F.PLT_EG_DROP_H_COUNT [s, e - 96, c]
  (m.sawTurn s fun t => { t with egress := true }).sawDrop s c

/-- Frees the cells of an egress entry. -/
def Mod.freeEntry (m : Mod) (x : EgEntry) : Mod := m.freeAll x.pkt.charges

/-- The cells that an instance's delivery queues hold (R305). -/
def Mod.instCells (m : Mod) (o : Nat) : Nat := tgetD m.plt.instCells o 0

/-- Adds or takes cells of an owner's delivery queues. -/
def Mod.addInst (m : Mod) (o n : Nat) : Mod := { m with plt := { m.plt with instCells := tmod m.plt.instCells o 0 (· + n) } }

/-- Takes cells of an owner's delivery queues off. -/
def Mod.subInst (m : Mod) (o n : Nat) : Mod := { m with plt := { m.plt with instCells := tmod m.plt.instCells o 0 (· - n) } }

/-- How a packet's cells reach their egress slice: they lie there; they cross, charged; they cross with those of a packet of the same
release that goes to the same slice (R38). -/
inductive Way where
  | here
  | cross (ch : Charge)
  | with_ (ref : Nat)
  deriving DecidableEq, Repr

/-- A packet's cells start on their way: at once when the slices are the same, through the crossing account otherwise (R27, R289), once for
all the packets of a group (R38). The entry joins queue `k` now, in admission order. -/
def Mod.launchTo (m : Mod) (home b c k : Nat) (p : Pkt) (ring : Nat) (w : Way) (ref : Nat := 0) : Nat × Mod :=
  let id := m.plt.nextId
  let e : EgEntry := { id := id, pkt := p, ring := ring, present := if w = .here then p.cells else 0,
                       hbm := p.charges.any (·.src = 4), at_ := m.ns }
  let m := { m with plt := { m.plt with nextId := id + 1 } }
  let m := m.putEgq k (m.egq k ++ [e])
  let q := fun (f : List VoqEntry → List VoqEntry) => ({ m with plt := { m.plt with voq := tmod m.plt.voq ((home * 8 + b) * 8 + c) [] f } } : Mod)
  match w with
  | .here => (id, m)
  | .cross ch => (id, q (· ++ [{ queue := k, id := id, left := p.cells, charge := ch, ref := ref }]))
  | .with_ r => (id, q (·.map fun v => if v.ref = r then { v with also := v.also ++ [(k, id)] } else v))

/-- The crossing of a packet: none needed on one slice; that of its group when one of it already crosses to the slice (R38); otherwise
its own, refused at VOQ_MAX (R288, R292). -/
def Mod.crossing (m : Mod) (home b c n : Nat) (ref : Nat := 0) : Option (Mod × Way) :=
  if home = b then some (m, .here)
  else if ref ≠ 0 && (tgetD m.plt.voq ((home * 8 + b) * 8 + c) []).any (·.ref = ref) then some (m, .with_ ref)
  else match m.admitCells (m.xInfo home b c) n with
    | some (m, ch) =>
      let full := decide (m.get F.PLT_CFG_VOQ_MAX [home] ≤ (m.acct ch.acct).depth)
      some (if full then m.sawTurn home fun t => { t with cross := true } else m, .cross ch)
    | none => none

/-- A packet is refused at its crossing account. -/
def Mod.crossDrop (m : Mod) (home c : Nat) : Mod :=
  ((m.pltCount home (24 + c)).sawTurn home fun t => { t with cross := true }).sawDrop home c

/-- The launch instant of a packet in ns: the TAI second nearest to device time that has the low bits given (R222). -/
def Mod.launchNs (m : Mod) (secLo ns : Nat) : Nat :=
  let now := secOf m.now
  let base := now / 2 ^ 32 * 2 ^ 32 + secLo
  let near := if base + 2 ^ 31 ≤ now then base + 2 ^ 32 else if now + 2 ^ 31 < base ∧ 2 ^ 32 ≤ base then base - 2 ^ 32 else base
  near * 1000000000 + ns

/-- Counts in HEM_CNT of a sub-port. -/
def Mod.hemCount (m : Mod) (n k i : Nat) : Mod := m.count F.HEM_CNT_COUNT (portIx n ++ [k, i])

/-- The LAUNCH policy in force: 0 while time is traceable (R326). -/
def Mod.launchPolicy (m : Mod) : Nat := if m.flag F.TPL_STATE_TRACEABLE then 0 else m.get F.TPL_LOSS_POLICY_LAUNCH

/-- Takes entry `id` out of a queue. -/
def Mod.takeEntry (m : Mod) (k id : Nat) : Option EgEntry × Mod :=
  let l := m.egq k
  (l.find? (·.id = id), m.putEgq k (l.filter (·.id ≠ id)))

/-- What is left of a crossing when entry `id` gives up its part: another entry of its group goes on with it. -/
def VoqEntry.without (v : VoqEntry) (id : Nat) : Option VoqEntry :=
  let also := v.also.filter (·.2 ≠ id)
  if v.id ≠ id then some { v with also := also }
  else match also with
    | [] => none
    | x :: xs => some { v with queue := x.1, id := x.2, also := xs }

/-- The cells of entry `id` that still wait to cross are given up with it (R288), unless others of its group wait for them. -/
def Mod.dropCrossing (m : Mod) (id : Nat) : Mod :=
  let gone := m.plt.voq.flatMap fun q => q.2.filter fun v => (v.without id).isNone
  let voq := (m.plt.voq.map fun q => (q.1, q.2.filterMap (·.without id))).filter (·.2 ≠ [])
  (m.freeAll (gone.map fun v => { v.charge with n := v.left })) |> fun m => { m with plt := { m.plt with voq := voq } }

/-- Drops entry `id` of queue `k`: its cells are freed, wherever they lie. -/
def Mod.dropEntryOf (m : Mod) (k id : Nat) : Mod :=
  match m.takeEntry k id with
  | (some e, m) => (m.freeEntry e).dropCrossing id
  | (none, m) => m

/-- Puts a timed packet on its port's list, in order of L, packets of one L in order of release (R323). (DEDUCED, log 37) -/
def timedInsert (x : Timed) : List Timed → List Timed
  | [] => [x]
  | y :: ys => if x.launch < y.launch then x :: y :: ys else y :: timedInsert x ys

/-- Places a packet for a sub-port (R185, R292, R323): crossing, egress admission, ECN, then its class queue or the timed
list. A credited frame for a link that is not UP is dropped (R478). (DEDUCED, log 29; DEDUCED, log 33) -/
def Mod.placePort (m : Mod) (home n k : Nat) (p : Pkt) (busy : Bool) (ref : Nat := 0) : Mod :=
  let b := n / 12
  let e := n % 12 * 8 + k
  let c := p.tc
  if n ≥ 96 || k ≥ m.subCount n then m.sendLost p 4
  else match m.crossing home b c p.cells ref with
    | none => (m.crossDrop home c).sendLost p 2
    | some (m1, cross) =>
      let depth := (m.acct (egAcct b e c)).depth
      match m1.egressAdmit b e c p.cells (busy || p.launch.isSome) ref with
      | none =>
        let m := if m.spillShort b e c p.cells busy then (m.pltCount b 35).sawTurn b fun t => { t with spill := true } else m
        (m.egressDrop b e c).sendLost p 2
      | some (m2, ch) =>
        let link := if isCredited p.bytes then m.linkAt n k else none
        let noLink := match link with | some l => m.get F.JXL_LINK_STATUS_STATE [l] ≠ 3 | none => false
        if m.subState n k ≠ 4 || noLink then
          let m := if m.subState n k ≠ 4 then m.count F.PRT_STAT_COUNT [n, k, 18] else m
          (match link with | some l => m.count F.JXL_CNT_COUNT [l, 10] | none => m).sendLost p 4
        else
          let (p, m2) := m2.ecn b c depth { p with charges := [ch] }
          let h := tgetD m.hem n {}
          match p.launch, m.launchPolicy with
          | some _, 2 => (m.hemCount n k 5).sendLost p 5
          | some l, 0 =>
            if l > m.ns + m.get F.HEM_LAUNCH_CFG_HORIZON_MS (portIx n) * 1000000 then (m.hemCount n k 3).sendLost p 5
            else if h.timed.length ≥ 1024 then (m.hemCount n k 4).sendLost p 5
            else
              let (id, m3) := m2.launchTo home b c (egKey b e c) p 0 cross ref
              match m3.takeEntry (egKey b e c) id with
              | (some x, m3) =>
                { m3 with hem := tput m3.hem n { h with timed := timedInsert { entry := x, sub := k, launch := l } h.timed } }
              | (none, m3) => m3
          | _, _ => (m2.launchTo home b c (egKey b e c) p 0 cross ref).2

/-- Places a packet for a receive ring (R304, R305, R414): the half of the ring's owner. (DEDUCED, log 29) -/
def Mod.placeRing (m : Mod) (home r : Nat) (p : Pkt) (busy : Bool) (ref : Nat := 0) : Mod :=
  match m.recvRing r with
  | none => (m.count F.SPL_CNT_COUNT [home, 9]).sendLost p 7
  | some ring =>
    let ep := m.ownerEp ring.owner
    let b := ep / 4
    let e := 96 + ep % 4
    let c := p.tc
    match m.crossing home b c p.cells ref with
    | none => (m.crossDrop home c).sendLost p 2
    | some (m1, cross) =>
      let isOver := match m.deliveryCap ring.owner with | some cap => decide (cap < m.instCells ring.owner + p.cells) | none => false
      let depth := (m.acct (egAcct b e c)).depth
      if isOver then ((m.pltCount b 34).egressDrop b e c).sendLost p 2
      else match m1.egressAdmit b e c p.cells busy ref with
        | none =>
          let m := if m.spillShort b e c p.cells busy then (m.pltCount b 35).sawTurn b fun t => { t with spill := true } else m
          (m.egressDrop b e c).sendLost p 2
        | some (m2, ch) =>
          let (p, m2) := m2.ecn b c depth { p with charges := [ch], launch := none }
          ((m2.addInst ring.owner p.cells).launchTo home b c (egKey b e c) p r cross ref).2

/-- Places a recirculated packet (R36, R288, R292): input queue 16 of the slice named, within RECIRC_MAX over its classes. (DEDUCED, log 30) -/
def Mod.placeRecirc (m : Mod) (home b v : Nat) (p : Pkt) : Mod :=
  let c := p.tc
  let lost := fun (m : Mod) => (((m.pltCount b 32).count F.PLT_IN_DROP_COUNT [b, 16, c]).sawDrop b c).sendLost p 2
  match m.crossing home b c p.cells with
  | none => (m.crossDrop home c).sendLost p 2
  | some (m1, cross) =>
    let total := sumOf (List.range 8) fun x => (m.acct (inAcct b 16 x)).depth
    if total + p.cells > m.get F.PLT_CFG_RECIRC_MAX [b] then lost m
    else match m1.admitCells (m1.inInfo b 16 c) p.cells with
      | none => lost m
      | some (m2, ch) =>
        let p := { p with charges := [ch], cls := c, vector := v, passes := p.passes + 1 }
        match cross with
        | .here => m2.enqueueIn b 16 p
        | _ => (m2.launchTo home b c (reKey b) p 0 cross).2

/-- Places a released packet at its destination (R279). -/
def Mod.placePkt (m : Mod) (home : Nat) (p : Pkt) (d : Dest) (busy : Bool) (ref : Nat := 0) : Mod :=
  match d with
  | .port n k => m.placePort home n k p busy ref
  | .ring r => m.placeRing home r p busy ref
  | .recirc b v => m.placeRecirc home b v p

/-! ### The crossbar (R28, R29) -/

/-- The source that an output of class `c` grants next: round robin over slices with cells waiting. -/
def Mod.xSource (m : Mod) (b c : Nat) : Option Nat :=
  let last := (tgetD m.plt.xbarRr b []).getD (8 + c) 7
  ((List.range 8).map fun j => (last + 1 + j) % 8).find? fun a => tgetD m.plt.voq ((a * 8 + b) * 8 + c) [] ≠ []

/-- The state of an output: credits of classes 0 to 6, the class served last, and per class the source served last. -/
def Mod.xState (m : Mod) (b : Nat) : List Nat :=
  let l := tgetD m.plt.xbarRr b []
  if l = [] then List.replicate 7 0 ++ [6] ++ List.replicate 8 7 else l

/-- The class and source of the next cell of output `b` (R29): class 7 first, then weighted round robin with the class weights
of the egress Hem, whose credits all refill when no class with a cell has one; the output's state after it. (DESIGN CHOICE, log 83) -/
def Mod.xPick (m : Mod) (b : Nat) : Option (Nat × Nat × List Nat) :=
  let l := m.xState b
  match m.xSource b 7 with
  | some a => some (7, a, l.set 15 a)
  | none =>
    let elig := (List.range 7).filter fun c => (m.xSource b c).isSome
    if elig = [] then none
    else
      let fresh := elig.all fun c => l.getD c 0 = 0
      let cred := if fresh then (List.range 7).map fun c => m.stored .HEM_XBAR_W [b] / 2 ^ (8 * c) % 256 else l.take 7
      let order := (List.range 7).map fun j => (l.getD 7 6 + 1 + j) % 7
      match order.find? fun c => elig.contains c && cred.getD c 0 ≠ 0 with
      | some c =>
        match m.xSource b c with
        | some a => some (c, a, (cred.set c (cred.getD c 0 - 1) ++ [c] ++ l.drop 8).set (8 + c) a)
        | none => none
      | none => none

/-- A cell has come to entry `id` of queue `k`; a recirculated packet that is whole joins input queue 16. -/
def Mod.cellArrived (m : Mod) (b k id : Nat) : Mod :=
  let up := fun (e : EgEntry) => if e.id = id then { e with present := e.present + 1 } else e
  if k = reKey b then
    let l := (m.egq k).map up
    match l.find? fun e => e.id = id && decide (e.pkt.cells ≤ e.present) with
    | some e => (m.putEgq k (l.filter (·.id ≠ id))).enqueueIn b 16 e.pkt
    | none => m.putEgq k l
  else
    let m := m.putEgq k ((m.egq k).map up)
    { m with
      hem := m.hem.map fun h => (h.1, { h.2 with timed := h.2.timed.map fun t => { t with entry := up t.entry } })
      hsub := m.hsub.map fun h => (h.1, { h.2 with tx := h.2.tx.map fun t => { t with entry := up t.entry } }) }

/-- CROSSBAR_CELL: output `b` grants one cell (R29); its crossing charge is freed (R288). (DESIGN CHOICE, log 32) -/
def execCrossbarCell (b : Fin 8) (s : State) : Host.Outcome State Fault Refusal :=
  run s fun m =>
    match m.xPick b with
    | none => m
    | some (c, a, l) =>
      let key := (a * 8 + b.val) * 8 + c
      match tgetD m.plt.voq key [] with
      | [] => m
      | v :: vs =>
        let q := if v.left ≤ 1 then vs else { v with left := v.left - 1 } :: vs
        let m := { m with plt := { m.plt with voq := if q = [] then tdel m.plt.voq key else tput m.plt.voq key q,
                                              xbarRr := tput m.plt.xbarRr b l } }
        ((v.queue, v.id) :: v.also).foldl (fun (m : Mod) t => m.cellArrived b t.1 t.2) (m.free { v.charge with n := 1 })

/-! ### Spill read-back (R296) -/

/-- SPILL_READBACK: the on-die part of egress queue (e, c) of slice `s` holds fewer than REFILL cells, and the oldest packet
of its HBM part is read back onto die. (DEDUCED, log 30) -/
def execSpillReadback (sl : Fin 8) (e : Fin 100) (c : Fin 8) (s : State) : Host.Outcome State Fault Refusal :=
  run s fun m =>
    let k := egKey sl e c
    let x := m.acct (egAcct sl e c)
    match (m.egq k).find? (·.hbm) with
    | none => m
    | some en =>
      let n := en.pkt.cells
      if x.depth - x.hbm ≥ m.get F.PLT_SPILL_CFG_REFILL [sl] || en.present < n then m
      else
        let m1 := m.freeAll en.pkt.charges
        match m1.admitCells (m1.egInfo sl e c) n with
        | none => m
        | some (m, ch) =>
          let m := m.pltCount sl 37 n
          m.putEgq k ((m.egq k).map fun y => if y.id = en.id then { y with hbm := false, pkt := { y.pkt with charges := [ch] } } else y)

/-! ### Engine cell pools (R210, R292) -/

/-- Refills an engine's pool with the cells it lacks, all or none, from the shared pool. -/
def Mod.refill (m : Mod) (s e : Nat) : Mod :=
  let x := m.eng s e
  let held := sumOf x.threads fun t => t.2.held + t.2.reserved
  let lack := 64 - held - x.pool
  if lack = 0 || m.sharedFree s < lack then m
  else { m.putEng s e { x with pool := x.pool + lack } with plt := { m.plt with pool := tput m.plt.pool s (m.poolCells s + lack) } }

/-- Cells that a pass allocated leave the pools for its input account, with no check (R288). -/
def Mod.joinCells (m : Mod) (s n : Nat) (into : Option Charge) : Mod × List Charge :=
  if n = 0 then (m, [])
  else
    let m := { m with plt := { m.plt with pool := tput m.plt.pool s (m.poolCells s - n) } }
    match into with
    | some c => let ch : Charge := { slice := c.slice, acct := c.acct, n := n, src := 2 }; (m.charge ch, [ch])
    | none => (m, [])

end Sys2Proof.Machine
end

