-- ==== Sys2Proof/Machine/HemCal.lean ====
section
/-! DEFINITION. What happens to calendars and timed lists (*Hem scheduling, calendars and launch time*): gates that close,
cycle boundaries, activation, steps of device time and loss of traceability. -/

namespace Sys2Proof.Machine

/-- Hem state of a sub-port. -/
def Mod.hsubOf (m : Mod) (n k : Nat) : HemSub := tgetD m.hsub (n * 8 + k) {}

/-- Puts it. -/
def Mod.putHsub (m : Mod) (n k : Nat) (h : HemSub) : Mod := { m with hsub := tput m.hsub (n * 8 + k) h }

/-- The gates of a port take their states of now; a class whose gate closes loses its deficits (R311). -/
def Mod.hemGates (m : Mod) (n : Nat) : Mod :=
  let h := m.hemOf n
  let g := m.gatesNow n
  let shut := (List.range 8).filter fun c => bit h.gates c && !bit g c
  let m := m.putHem n { h with gates := g }
  if shut.isEmpty then m
  else { m with hsub := m.hsub.map fun e => if e.1 / 8 = n
      then (e.1, { e.2 with deficit := e.2.deficit.filter fun d => !shut.contains d.1 }) else e }

/-- Slotted mode of the links on port `n` ends with its calendar; the peers learn of it from HELLO (R488). -/
def Mod.jxlUnslot (m : Mod) (n : Nat) : Mod :=
  (m.linksOn n).foldl (fun m l =>
    let m := (List.range 8).foldl (fun m c => (m.set F.JXL_CREDIT_SLOTTED [l, c] 0).set F.JXL_CREDIT_SLOT_CELLS [l, c] 0) m
    m.putLink l { m.linkOf l with left := [] }) m

/-- At a cycle boundary the allowance of each slotted class becomes SLOT_CELLS − max(0, HELD) (R488). -/
def Mod.jxlCycle (m : Mod) (n : Nat) : Mod :=
  (m.linksOn n).foldl (fun m l =>
    let x := m.linkOf l
    let cs := (List.range 8).filter fun c => m.flag F.JXL_CREDIT_SLOTTED [l, c]
    if cs.isEmpty then m
    else m.putLink l { x with left := cs.map fun c =>
      (c, m.get F.JXL_CREDIT_SLOT_CELLS [l, c] - (signed 32 (tgetD x.repHeld c 0)).toNat) }) m

/-- An activation of command `c` is armed on the port. -/
def HemPort.armedBy (h : HemPort) (c : Cmd) : Bool := match h.arm with | some a => decide (a.cmd = c) | none => false

/-- An activation takes effect (R319, R320): the banks swap, or the calendar stops and every gate opens; the command replies
after the last of its activations. -/
def Mod.calSwap (m : Mod) (n : Nat) : Mod :=
  let h := m.hemOf n
  match h.arm with
  | none => m
  | some a =>
    let h' : HemPort :=
      if a.stop then { h with active := none, arm := none, held := none, override_ := none }
      else { h with active := some h.shadow, shadow := h.active.getD {}, arm := none, held := none }
    let m := (m.putHem n h').hemGates n
    let m := if a.stop then m.jxlUnslot n else m
    if m.hem.any (fun e => e.2.armedBy a.cmd) then m else m.reply a.cmd {}

/-- The armed activations of a command are dropped. -/
def Mod.calDrop (m : Mod) (c : Cmd) : Mod :=
  { m with hem := m.hem.map fun e => if e.2.armedBy c then (e.1, { e.2 with arm := none }) else e }

/-- Commands that armed activations wait for. -/
def Mod.calCmds (m : Mod) : List Cmd := (m.hem.filterMap fun e => e.2.arm.map (·.cmd)).eraseDups

/-- A packet of a timed list is dropped, counted in HEM_CNT `i`. -/
def Mod.timedDrop (m : Mod) (n : Nat) (x : Timed) (i : Nat) : Mod :=
  let h := m.hemOf n
  let m := m.putHem n { h with timed := h.timed.filter (·.entry.id ≠ x.entry.id) }
  (((m.freeEntry x.entry).dropCrossing x.entry.id).hemCount n x.sub i).sendLost x.entry.pkt 5

/-- Every packet of the timed lists, changed. -/
def Mod.timedMap (m : Mod) (f : Timed → Timed) : Mod :=
  { m with hem := m.hem.map fun e => (e.1, { e.2 with timed := e.2.timed.map f }) }

/-- Traceability returns: packets on the timed lists are judged against L in the ordinary way (R325). -/
def Mod.hemReturn (m : Mod) : Mod :=
  m.timedMap fun x => if x.leave = .immediate then { x with leave := .onTime } else x

/-- Time is not traceable and the loss policies act (R321, R326): under CAL OPEN or CLOSE armed activations are abandoned; the
packets on the timed lists leave at once, or are dropped; under HONOUR, those an earlier policy let go wait for L again (R139). -/
def Mod.hemLoss (m : Mod) : Mod :=
  let m := if m.calPolicy.isSome then
      m.calCmds.foldl (fun m c => (m.calDrop c).reply c { status := stNotTraceable, late := true }) m
    else m
  match m.get F.TPL_LOSS_POLICY_LAUNCH with
  | 1 => m.timedMap fun x => if x.leave = .onTime && !x.due then { x with leave := .immediate } else x
  | 2 => m.hem.foldl (fun m e => e.2.timed.foldl (fun m x => m.timedDrop e.1 x 5) m) m
  | _ => m.hemReturn

/-- What every calendar shows before a step of device time. -/
def Mod.hemBefore (m : Mod) : List (Nat × Nat) := (m.hem.filter fun e => e.2.active.isSome).map fun e => (e.1, m.gatesNow e.1)

/-- A step of device time (R321, R322, R325): active calendars hold the gates of before until the first cycle boundary of the new
time; an activation that a forward step carries time past takes effect; the timed packets are judged against the new time. -/
def Mod.hemStep (m : Mod) (before : List (Nat × Nat)) : Mod :=
  let m := before.foldl (fun m b =>
    let h := m.hemOf b.1
    match h.active with
    | some c => m.putHem b.1 { h with held := some (b.2, c.cycleAt m.ns) }
    | none => m) m
  let passed := m.hem.filter fun e => match e.2.arm with | some a => decide (a.whenNs ≤ m.ns) | none => false
  let m := passed.foldl (fun m e => m.calSwap e.1) m
  m.timedMap fun x => if x.due && decide (m.ns + 1000 < x.launch) then { x with due := false } else x

end Sys2Proof.Machine
end

