-- ==== Sys2Proof/Machine/Wheel.lean ====
section
/-! DEFINITION. The Stitch wheel (*Clockless operation, tempo and the Stitch wheel*): ownership tables, their checks and
activation, and the choice at a stitch boundary. -/

namespace Sys2Proof.Machine

/-! ### Ownership tables (R100 to R106) -/

/-- The kind of shared unit `u` (R100): 0 HBM channel, 1 Chalk, 2 control-store write port, 3 table maintenance port,
4 telemetry export path. -/
def stwKind (u : Nat) : Nat := if u < 64 then 0 else if u = 64 then 1 else if u < 145 then 2 else if u < 153 then 3 else 4

/-- A class code is valid for a unit kind (R102). -/
def stwValid (kind cls : Nat) : Bool :=
  match cls with
  | 0 => true
  | 1 => kind < 4
  | 2 | 3 | 6 => kind = 1
  | 4 => kind = 0 || kind = 3 || kind = 4
  | 5 => kind = 0 || kind = 3
  | _ => false

/-- The classes a table of a kind must hold once (R102). -/
def stwRequired : Nat → List Nat
  | 0 => [1]
  | 1 => [1, 3, 6]
  | 2 => [1]
  | 3 => [1, 5]
  | _ => [4]

/-- The least foreground entries of a kind (R103). -/
def stwLeastFg : Nat → Nat
  | 0 => 192
  | 1 => 128
  | 2 => 224
  | 3 => 128
  | _ => 64

/-- The longest run of background entries: `cur` the run under way, `best` the longest so far. -/
def bgRun : List Nat → Nat → Nat → Nat
  | [], _, best => best
  | 0 :: l, _, best => bgRun l 0 best
  | _ :: l, cur, best => bgRun l (cur + 1) (max best (cur + 1))

/-- The REJECT code of a table for unit `u`, 0 when R103 accepts it; the tests run in the order of R103's list. (DEDUCED, log 71) -/
def stwCheck (u : Nat) (t : List Nat) : Nat :=
  let k := stwKind u
  if !t.all (stwValid k) then 4
  else if (stwRequired k).any fun c => !t.contains c then 3
  else if bgRun (t ++ t) 0 0 > 16 then 1
  else if t.countP (· = 0) < stwLeastFg k then 2
  else 0

/-- The shadow bank of unit `u`. -/
def Mod.stwShadow (m : Mod) (u : Nat) : List Nat :=
  (List.range 256).map fun i => m.get ⟨.STW_OWN, i % 8 * 4, 4⟩ [u, i / 8]

/-- STW_UNIT_CTL.APPLY written 1 (R106): the shadow bank is checked at once. (DESIGN CHOICE, log 18) -/
def Mod.stwApply (m : Mod) (u : Nat) : Mod :=
  let t := m.stwShadow u
  let code := stwCheck u t
  let m := m.set F.STW_UNIT_CTL_REJECT [u] code
  if code = 0 then
    let w := { m.wheel with pending := tput m.wheel.pending u t }
    { m with wheel := w }.set F.STW_UNIT_CTL_APPLY [u] 1
  else m

/-- STW_APPLY: the manager writes APPLY; anyone else's write is ignored and logged (R106). -/
def execStwApply (r : Req) (u : Fin 154) (s : State) : Host.Outcome State Fault Refusal :=
  run s fun m => if m.isManager r.mid then m.stwApply u else m.refuse r.mid (regAddr .STW_UNIT_CTL [u]) true false 3

/-- The class codes of one STW_OWN word: a reserved code, 0x7 to 0xF (R102), leaves its entry as it is (R8). -/
def stwWord (old v : Nat) : Nat :=
  sumOf (List.range 8) fun i => (if bits v (4 * i) 4 ≤ 6 then bits v (4 * i) 4 else bits old (4 * i) 4) * 16 ^ i

/-- A write of STW_OWN (R106): while an apply is pending it is ignored and sets REJECT to 0. (DESIGN CHOICE, log 18) -/
def Mod.stwOwnWrite (m : Mod) (u w v : Nat) : Mod :=
  if (tget m.wheel.pending u).isSome then m.set F.STW_UNIT_CTL_REJECT [u] 0
  else m.setStored .STW_OWN [u, w] (stwWord (m.stored .STW_OWN [u, w]) v)

/-- STW_TABLE_ACTIVATE: at the turn boundary every checked bank becomes active (R106); the shadow bank reads as the table applied.
(DESIGN CHOICE, log 71) -/
def Mod.stwActivate (m : Mod) : Mod :=
  let m' := m.wheel.pending.foldl (fun m p =>
    (m.set F.STW_UNIT_CTL_APPLY [p.1] 0).set F.STW_UNIT_CTL_ACTIVE_BANK [p.1] (1 - m.get F.STW_UNIT_CTL_ACTIVE_BANK [p.1])) m
  { m' with wheel := { m.wheel with active := m.wheel.pending.foldl (fun a p => tput a p.1 p.2) m.wheel.active, pending := [] } }

/-- At start each retained table is checked: one that passes becomes active; for one that fails the factory table stands in
both banks and TABLE_FALLBACK is set (R106). (DEDUCED, log 77) -/
def Mod.stwLoad (m : Mod) : Mod :=
  let us := (List.range 154).filter fun u => m.regs.any fun e => e.1.fld.reg = .STW_OWN && e.1.ix.head? = some u
  us.foldl (fun m u =>
    let t := m.stwShadow u
    if stwCheck u t = 0 then { m with wheel := { m.wheel with active := tput m.wheel.active u t } }
    else ((m.resetReg .STW_OWN [u]).set F.STW_STATUS_TABLE_FALLBACK [] 1).event 20 3 (regAddr .STW_UNIT_CTL [u])) m

/-! ### A stitch boundary (R107 to R110) -/

/-- Who gets a stitch. -/
inductive Grant where
  | foreground | background (c : Nat) | nobody
  deriving DecidableEq, Repr

/-- The order in which background classes lend and borrow (R108). -/
def bgOrder : List Nat := [3, 6, 2, 1, 5, 4]

/-- The choice of R108 at a boundary of a stitch owned by `own`: `fg` says that a foreground request is pending, `bg` which
classes are. -/
def stitchGrant (kind own : Nat) (fg borrow lend : Bool) (bg : List Nat) : Grant :=
  let other := bgOrder.find? fun c => bg.contains c && stwValid kind c
  if own = 0 then
    if fg then .foreground
    else match other with
      | some c => if borrow then .background c else .nobody
      | none => .nobody
  else if bg.contains own then .background own
  else if fg && lend then .nobody
  else match other with
    | some c => .background c
    | none => .nobody

/-- The wheel after device time has stepped from `old` ns (R98): the stitch under way is finished, then comes the gap. Requests that wait
keep what they have waited. -/
def Mod.realign (m : Mod) (old : Nat) : Mod :=
  let w := m.wheel
  let m := m.countSat F.STW_STATUS_REALIGNS
  let shift := fun (t : Nat) => ((t : Int) + (m.ns - old : Int)).toNat
  let under := if w.realign then decide (old < w.tail) else decide (old / 32 = w.cur)
  { m with wheel := { w with
      realign := true, tail := if w.realign && under then shift w.tail else m.ns + (32 - old % 32)
      holder := if under then w.holder else []
      waits := w.waits.map fun x => (x.1, x.2.map fun q => { q with at_ := shift q.at_ }) } }

end Sys2Proof.Machine
end

