-- ==== Sys2Proof/Machine/Time.lean ====
section
/-! DEFINITION. Tapeline (*Tapeline time base*): sources, selection, the servo, the traceability verdict, UTC, steps of device
time; and what hangs on them in *Tack points, host time and traceability*: Golide records and the 1PPS outputs. -/

namespace Sys2Proof.Machine

/-- One second in units of device time. -/
def secUnit : Nat := nsUnit * 1000000000

/-- Changes Tapeline's state. -/
def Mod.setTl (m : Mod) (f : Tapeline → Tapeline) : Mod := { m with tl := f m.tl }

/-- The servo state code (R131): 0 FREERUN, 1 ACQUIRING, 2 LOCKED, 3 HOLDOVER. -/
def Mod.servo (m : Mod) : Nat := m.get F.TPL_STATE_SERVO

/-- Time is traceable: the verdict of the last tick (R134). -/
def Mod.traceable (m : Mod) : Bool := m.flag F.TPL_STATE_TRACEABLE

/-! ### Sources (R116, R126) -/

/-- The number of a source: kind and port; the port counts for SYNCE and JEXDOR alone. -/
def srcKey (kind port : Nat) : Nat := kind * 128 + (if kind = 1 || kind = 4 then port else 0)

/-- The source that entry `k` names. -/
def Mod.srcOf (m : Mod) (k : Nat) : Nat := srcKey (m.get F.TPL_SRC_KIND [k]) (m.get F.TPL_SRC_PORT [k])

/-- The selected phase entry. -/
def Mod.phaseSrc (m : Mod) : Option Nat :=
  if m.flag F.TPL_STATE_PHASE_SRC_VALID then some (m.get F.TPL_STATE_PHASE_SRC) else none

/-- The kind of the selected phase source. -/
def Mod.phaseKind (m : Mod) : Option Nat := m.phaseSrc.map fun k => m.get F.TPL_SRC_KIND [k]

/-- Low words of a source table obey R126; the low word of an entry is TPL_SRC[31:0]. -/
def srcTableOk (ws : List Nat) : Bool :=
  let on := ws.filter fun w => bit w 0
  let key := fun (w : Nat) => srcKey (bits w 1 3) (bits w 4 7)
  decide (on.countP (fun w => bits w 1 3 = 0) ≤ 1) && ws.all (fun w => !((bits w 1 3 = 1 || bits w 1 3 = 3) && bit w 15)) &&
    decide ((on.map key).Nodup)

/-- The source table's low words. -/
def Mod.srcTable (m : Mod) : List Nat := (List.range 16).map fun k => m.stored .TPL_SRC [k] % 2 ^ 32

/-! ### Golide records (R170 to R173) -/

/-- The module's 16-byte serial number. -/
def serial : List Byte := (List.range 16).map Config.serialByte

/-- A signed number in a field of `w` bits, saturating. -/
def satSigned (w : Nat) (i : Int) : Nat :=
  unsigned w (max (-(2 ^ (w - 1) : Int)) (min i (2 ^ (w - 1) - 1)))

/-- An offset in units of 62.5 ps, rounded toward zero. -/
def golideUnit (i : Int) : Int := i.tdiv 4096

/-- The integer square root. -/
def isqrt (n : Nat) : Nat := (List.range 64).reverse.foldl (fun r i => if (r + 2 ^ i) ^ 2 ≤ n then r + 2 ^ i else r) 0

/-- The Golide records whose second write still waits, newest first. -/
def Mod.golideQueued (m : Mod) : List GolideRec :=
  (m.wheel.chalkq.filterMap fun w => match w with | .golide r true => some r | _ => none).reverse

/-- The SEQ of the next Golide record: one beyond the records under way (R171, R173). -/
def Mod.golideSeq (m : Mod) : Nat := m.chalk.golideNext + m.golideQueued.length

/-- The body of the Golide record that closes the present interval (R171); `step` its size in ns at a step. The mean is rounded down
before its units are cut toward zero; PREV_HASH covers the newest record before it that Chalk still holds, zero where there is none.
(DESIGN CHOICE, log 49) -/
def Mod.golideBody (m : Mod) (step : Option Int) : List Byte :=
  let a := m.tack.golide
  let k := m.get F.TPL_STATE_PHASE_SRC
  let kind := m.get F.TPL_SRC_KIND [k]
  let gm := if m.phaseKind = some 0 then (m.tl.ptp.parent.bind (tget m.tl.ptp.foreign)).map (·.ds) else none
  let b := bound16 m.bound
  let mean := if a.count = 0 then 0 else golideUnit (a.sum / a.count)
  let rms := if a.count = 0 then 0 else min 0xFFFF (isqrt (a.sumSq / a.count) / 4096)
  let flags := b2n m.traceable + 2 * b2n a.lost + 4 * b2n a.gained + 8 * b2n step.isSome + 16 * b2n a.leap +
    32 * m.get F.TPL_UTC_VALID + 64 * b2n a.first + 128 * m.get F.TPL_STATE_HOLD_GRADE_A
  let prev := match (m.golideQueued ++ m.chalk.golide).head? with | some r => (sha384 r.bytes).take 8 | none => List.replicate 8 0
  leBytes 2 0x4C47 ++ [1] ++ leBytes 1 flags ++ leBytes 4 m.golideSeq ++
    leBytes 8 (secOf m.now % 2 ^ 48 + m.servo * 2 ^ 48 + a.seen * 2 ^ 50) ++
    leBytes 1 (k + kind * 16 + b2n m.phaseSrc.isSome * 128) ++ leBytes 1 ((gm.map (·.clockClass)).getD 0) ++
    leBytes 2 (m.get F.TPL_UTC_OFFSET) ++ leBytes 4 ((m.now - a.start) / (nsUnit * 1000000)) ++
    leBytes 8 ((gm.map (·.gmIdentity)).getD 0) ++
    leBytes 2 (satSigned 16 mean) ++ leBytes 2 (satSigned 16 (golideUnit a.min)) ++
    leBytes 2 (satSigned 16 (golideUnit a.max)) ++ leBytes 2 rms ++ leBytes 2 b ++ leBytes 2 (max b a.boundMax) ++
    leBytes 2 (if m.servo = 3 then (m.now - m.tl.holdAt) / secUnit else 0) ++
    leBytes 2 (a.tempoMin.getD (m.get F.PWR_TEMPO_STATUS_MODULE_TEMPO)) ++
    leBytes 4 (satSigned 32 (step.getD 0)) ++ leBytes 4 m.chalk.boot ++ slice prev 0 8

/-- A record is made, body and signature, and its two writes wait for SERVO stitches of Chalk (R172, R173). A new interval opens. -/
def Mod.golideWrite (m : Mod) (step : Option Int) : Mod :=
  let body := m.golideBody step
  let r : GolideRec :=
    { seq := m.golideSeq, endTime := secOf m.now, bytes := body ++ ed25519Sign (ascii "KEASO-GOLIDE" ++ serial ++ body) }
  { m with wheel := { m.wheel with chalkq := m.wheel.chalkq ++ [.golide r false, .golide r true] },
           tack := { m.tack with golide := { first := false, start := m.now } } }

/-- The second write of a record is done: the head advances, and the oldest of 1,048,576 records is overwritten (R173). -/
def Mod.golideHead (m : Mod) (r : GolideRec) : Mod :=
  { m with chalk := { m.chalk with golide := (r :: m.chalk.golide).take 1048576, golideNext := m.chalk.golideNext + 1 } }

/-- GOLIDE_RECORD: at minute boundary `min` of device time, from READY onward (R170). (DESIGN CHOICE, log 49) -/
def execGolideRecord (min : Nat) (s : State) : Host.Outcome State Fault Refusal :=
  run s fun m =>
    if min * 60 * secUnit < m.now then m
    else
      let m := m.runTo (min * 60 * secUnit)
      if m.phase = 5 then m.golideWrite none else m

/-! ### The verdict and its policies (R134, R138 to R140) -/

/-- The loss policies act while time is not traceable (R138, R139): armed TAI triggers are disarmed under CANCEL, 1PPS
outputs are held low under SQUELCH, calendars and timed lists follow R321 and R326, and the epochs hold under HOLD. -/
def Mod.lossPolicy (m : Mod) : Mod :=
  let m := if m.flag F.TPL_LOSS_POLICY_FIT then
      let hit := m.fit.slots.filter fun x => x.2.source = 5
      let m := hit.foldl (fun m x => m.event 16 5 (regAddr .FIT_TRIG [x.1]) [BitVec.ofNat 8 x.1]) m
      { m with fit := { m.fit with slots := m.fit.slots.filter fun x => x.2.source ≠ 5 } }
    else m
  let m := if m.flag F.TPL_LOSS_POLICY_PPS then
      (List.range 8).foldl (fun m j =>
        if m.flag F.TCK_PPS_OUT_ENABLE [j] then
          let m := m.set F.TCK_PPS_OUT_SQUELCHED [j] 1
          if (tget m.tack.ppsHigh j).isSome then
            { m with tack := { m.tack with ppsHigh := tdel m.tack.ppsHigh j } }.emit (.pps j false)
          else m
        else m) m
    else m
  let m := m.hemLoss
  let hold := m.get F.TPL_LOSS_POLICY_EPOCH = 1
  m.setTl fun t => { t with epochHold := if hold then some (t.epochHold.getD m.now) else none }

/-- TRACEABILITY_EVENT: the verdict changes at a tick (R134, R140). -/
def Mod.traceEvent (m : Mod) (v : Bool) : Mod :=
  let m := (m.setFlag F.TPL_STATE_TRACEABLE [] v).set F.TPL_STATE_TRACE_EVENT [] 1
  let m := m.event 16 1 (regAddr .TPL_STATE) (leBytes 1 (b2n v) ++ leBytes 4 (bound16 m.bound))
  let g := m.tack.golide
  let g : GolideAcc := if v then { g with gained := true } else { g with lost := true }
  let m := { m with tack := { m.tack with golide := g } }
  if v then m.hemReturn.setTl fun t => { t with epochHold := none, epochBack := t.epochHold.map fun h => (h, m.now) }
  else (m.setTl fun t => { t with epochBack := none }).lossPolicy

/-- The verdict at a tick. -/
def Mod.verdict (m : Mod) : Bool :=
  let within := match m.bound with | some b => decide (b ≤ m.get F.TPL_CFG_TRACE_LIMIT_NS) | none => false
  within && ((m.servo = 2 && (match m.phaseSrc with | some k => m.flag F.TPL_SRC_TRACEABLE_SRC [k] | none => false)) ||
    (m.servo = 3 && m.flag F.TPL_STATE_HOLD_GRADE_A && m.tl.holdTrace))

/-- TIME_LOSS_POLICY_SET (R139): a new policy acts at once while time is not traceable. -/
def Mod.policySet (m : Mod) (v : Nat) : Mod :=
  let m := m.setStored .TPL_LOSS_POLICY [] v
  if m.traceable then m
  else
    let m := m.lossPolicy
    if m.flag F.TPL_LOSS_POLICY_PPS then m
    else (List.range 8).foldl (fun m j => m.set F.TCK_PPS_OUT_SQUELCHED [j] 0) m

/-- No reserved encoding in a TPL_LOSS_POLICY value. -/
def policyOk (v : Nat) : Bool := bits v 0 2 ≠ 3 && bits v 2 2 ≠ 3 && bits v 4 2 ≠ 3

/-- TIME_LOSS_POLICY_SET (R139). -/
def execTimeLossPolicySet (c : Cmd) (s : State) : Host.Outcome State Fault Refusal :=
  run s fun m => m.runCmd c 0x0405 [.policy] fun m =>
    let v := leAt (c.val 0x100) 0 4
    if policyOk v then (m.policySet v, some {}) else (m, some (badTlv (c.pos 0x100)))

/-! ### Steps of device time (R98, R115, R141) -/

/-- TCK_HOST_CFG of endpoint `e` in millisecond `k` of device time: a change takes effect from the next millisecond (R161). -/
def Mod.hostCfg (m : Mod) (e k : Nat) : Nat :=
  match tget m.tack.hostWas e with
  | some (v, j) => if k ≤ j then v else m.stored .TCK_HOST_CFG [e]
  | none => m.stored .TCK_HOST_CFG [e]

/-- The millisecond of device time that is running. -/
def Mod.ms (m : Mod) : Nat := m.ns / 1000000

/-- TCK_HOST_CFG changes: the value in force stays so to the end of the millisecond (R161). -/
def Mod.hostCfgWrite (m : Mod) (e v : Nat) : Mod :=
  { m with tack := { m.tack with hostWas := tput m.tack.hostWas e (m.hostCfg e m.ms, m.ms) } }.setStored .TCK_HOST_CFG [e] v

/-- A device time that moves with a step, so that elapsed time is kept. -/
def stepped (ns : Int) (t : Nat) : Nat := ((t : Int) + ns * nsUnit).toNat

/-- What Tack points hold against device time moves with a step: dialogs, pairs and pulses under way (R169). (DESIGN CHOICE, log 50) -/
def Tack.shift (t : Tack) (ns : Int) : Tack :=
  let mv := stepped ns
  { t with
    ppsHigh := t.ppsHigh.map fun x => (x.1, mv x.2)
    ptm := t.ptm.map fun x => (x.1, { x.2 with
      outstanding := x.2.outstanding.map mv, began := none, last := x.2.last.map fun l => (mv l.1, mv l.2)
      samples := x.2.samples.map fun d => (mv d.1, d.2), pairs := x.2.pairs.map fun d => (mv d.1, d.2) }) }

/-- DEVICE_TIME_STEP: a record closes the interval, device time moves by `ns` nanoseconds, the wheel realigns, the step is
counted and logged, and TAI triggers that a forward step passes over fire. (DESIGN CHOICE, log 49) -/
def Mod.deviceStep (m : Mod) (ns : Int) : Mod :=
  let m := if m.phase = 5 then m.golideWrite (some ns) else m
  let old := m.ns
  let gates := m.hemBefore
  let m := { m with now := (m.now + ns * nsUnit).toNat }
  let m := m.hemStep gates
  let m := ((m.countSat F.TPL_STATE_STEPS).realign old).logStepped
  let m := m.setTl fun t => { t with steps := t.steps + 1, timeSet := true,
                                     offsets := t.offsets.map fun x => (stepped ns x.1, x.2) }
  let m := { m with tack := { m.tack.shift ns with golide := { m.tack.golide with start := m.now } } }
  let m : Mod := { m with pwr := m.pwr.shift ns, holds := m.holds.map fun h => (h.1, { h.2 with s0 := (h.2.s0 + ns).toNat }) }
  let m := m.event 16 2 (regAddr .TPL_STATE) (leBytes 8 (unsigned 64 ns))
  (m.fit.slots.filter fun x => x.2.source = 5 && decide (old < x.2.whenNs ∧ x.2.whenNs ≤ m.ns)).foldl
    (fun m x => m.trigger { source := 5, slot := some x.1, clear := x.2.clear, stepped := true }) m

/-- INITIAL_TIME_TIMEOUT: 10 s after READY with no phase source qualified, device time is stepped to the newest Golide record
plus 60 s; with no record it goes on (R113). -/
def execInitialTimeTimeout (t : Nat) (s : State) : Host.Outcome State Fault Refusal :=
  run s fun m =>
    let m := m.runToNs t
    match m.tl.readyAt with
    | some r =>
      if m.tl.timeSet || m.now < r + 10 * secUnit then m
      else match m.chalk.golide with
        | g :: _ => m.deviceStep ((g.endTime + 60) * 1000000000 - m.ns : Int)
        | [] => m.setTl fun t => { t with timeSet := true }
    | none => m

/-! ### The servo (R131, R132) -/

/-- The servo enters a state. -/
def Mod.servoTo (m : Mod) (st : Nat) : Mod :=
  let was := m.servo
  if was = st then m
  else
    let g := m.tack.golide
    let m := { m with tack := { m.tack with golide := { g with seen := g.seen ||| 2 ^ st } } }
    let m := m.set F.TPL_STATE_SERVO [] st
    let m := m.setTl fun t => { t with lockRun := 0, farRun := 0, lockedSecs := 0 }
    let m := m.set F.TPL_STATE_LOCK_AGE_H [] 0
    let m := if st = 3 then m.setTl fun t => { t with holdAt := m.now } else m.set F.TPL_STATE_HOLD_GRADE_A [] 0
    if st = 0 then m.set F.TPL_STATE_HOLD_READY [] 0 else m

/-- The selected phase source is lost (R128, R131): the servo leaves LOCKED or ACQUIRING at once. (DEDUCED, log 48) -/
def Mod.phaseLost (m : Mod) (k : Nat) : Mod :=
  let m := m.setTl fun t => { t with lossSrc := some (k, m.srcOf k, m.now), holdTrace := m.flag F.TPL_SRC_TRACEABLE_SRC [k] }
  let m := (m.set F.TPL_STATE_PHASE_SRC_VALID [] 0).set F.TPL_UTC_VALID [] 0
  if m.servo = 1 || m.servo = 2 then m.servoTo (if m.flag F.TPL_STATE_HOLD_READY then 3 else 0) else m

/-- A source fails its kind's tests (R128): the selected phase source leaves at once; entries follow at the next tick. (DEDUCED, log 48) -/
def Mod.srcLost (m : Mod) (key code : Nat) : Mod :=
  if (tget m.tl.good key).isNone then m.setTl fun t => { t with fail := tput t.fail key code }
  else
    let m := m.setTl fun t => { t with good := tdel t.good key, losses := key :: t.losses, fail := tput t.fail key code }
    match m.phaseSrc with
    | some k => if m.srcOf k = key then m.phaseLost k else m
    | none => m

/-- A source passes its kind's tests. -/
def Mod.srcGood (m : Mod) (key : Nat) : Mod :=
  if (tget m.tl.good key).isSome then m
  else m.setTl fun t => { t with good := tput t.good key m.now, fail := tdel t.fail key }

/-- A source declares traceability, or no longer (R116). -/
def Mod.srcTrace (m : Mod) (key : Nat) (b : Bool) : Mod :=
  m.setTl fun t => { t with traced := if b then key :: t.traced.filter (· ≠ key) else t.traced.filter (· ≠ key) }

/-- |offset| in units of device time is above `ns` nanoseconds. -/
def above (off : Int) (ns : Nat) : Bool := decide (ns * nsUnit < off.natAbs)

/-- A number of units as whole nanoseconds, rounded to the nearest. -/
def roundNs (off : Int) : Int := if off < 0 then -((off.natAbs + nsUnit / 2) / nsUnit : Nat) else ((off.natAbs + nsUnit / 2) / nsUnit : Nat)

/-- The grade of holdover while LOCKED (R132): 24 h of lock, and the oven within 2 K of its mean over the last 24 h of lock;
temperatures in mK. -/
def Mod.gradeA (m : Mod) : Bool :=
  let l := m.tl.ovenTemps
  match l with
  | [] => false
  | t :: _ => m.tl.lockedSecs ≥ 86400 && decide ((t * l.length - l.foldl (· + ·) 0).natAbs ≤ 2000 * l.length)

/-- What a measured offset from entry `k` needs for the asymmetry of the port it goes through (R117): delayAsymmetry, in ps, makes the path
from the master longer. (PRESUMED, log 47) -/
def Mod.asymmetry (m : Mod) (k : Nat) : Int :=
  match (if m.get F.TPL_SRC_KIND [k] = 0 then m.tl.ptp.parent else none) with
  | some n => (signed 20 (m.get F.TPL_PTP_PORT_ASYMMETRY [n]) * nsUnit).tdiv 1000
  | none => 0

/-- SERVO_SECOND: the mean offset of device time from the phase source over the last second is `off`, as measured, its path delay `delay`,
the oven `temp` mK (R131, R132, R143). (DESIGN CHOICE, log 49) -/
def execServoSecond (t : Nat) (off : Int) (delay : Nat) (temp : Int) (s : State) : Host.Outcome State Fault Refusal :=
  run s fun m =>
    let m := m.runToNs t
    if m.phaseSrc.isNone || (m.servo ≠ 1 && m.servo ≠ 2) then m
    else
      let off := off - m.asymmetry (m.get F.TPL_STATE_PHASE_SRC)
      let g := m.tack.golide
      let g := { g with count := g.count + 1, sum := g.sum + off, sumSq := g.sumSq + off.natAbs ^ 2,
                        min := if g.count = 0 then off else min g.min off, max := if g.count = 0 then off else max g.max off }
      let m := { m with tack := { m.tack with golide := g } }
      let m := m.setTl fun t => { t with offsets := ((m.now, off, delay) :: t.offsets).take 64 }
      let far := above off (m.get F.TPL_CFG_STEP_NS)
      if m.servo = 1 then
        if far then (m.deviceStep (-(roundNs off))).setTl fun t => { t with lockRun := 0 }
        else if above off (m.get F.TPL_CFG_LOCK_NS) then m.setTl fun t => { t with lockRun := 0 }
        else if m.tl.lockRun + 1 ≥ m.get F.TPL_CFG_LOCK_S then m.servoTo 2
        else m.setTl fun t => { t with lockRun := t.lockRun + 1 }
      else
        let m := m.setTl fun t => { t with farRun := if far then t.farRun + 1 else 0, lockedSecs := t.lockedSecs + 1,
                                           ovenTemps := (temp :: t.ovenTemps).take 86400 }
        if m.tl.farRun ≥ 16 then m.servoTo 1
        else
          let m := if m.tl.lockedSecs ≥ 600 then m.set F.TPL_STATE_HOLD_READY [] 1 else m
          (m.set F.TPL_STATE_LOCK_AGE_H [] (min 0xFFFF (m.tl.lockedSecs / 3600))).setFlag F.TPL_STATE_HOLD_GRADE_A [] m.gradeA

/-- HOLDOVER_LIMIT: time in HOLDOVER reaches HOLD_MAX_MIN (R131). -/
def execHoldoverLimit (t : Nat) (s : State) : Host.Outcome State Fault Refusal :=
  run s fun m =>
    let m := m.runToNs t
    if m.servo = 3 && m.now ≥ m.tl.holdAt + m.get F.TPL_CFG_HOLD_MAX_MIN * 60 * secUnit then m.servoTo 0 else m

/-! ### UTC (R136, R137) -/

/-- What a source announces of UTC: offset, leap flags. Taken when it is the selected phase source; both flags count as
neither, and that is logged. -/
def Mod.takeUtc (m : Mod) (key : Nat) (valid : Bool) (off : Int) (l61 l59 : Bool) : Mod :=
  match m.phaseSrc with
  | some k =>
    if m.srcOf k ≠ key then m
    else if !valid then m.set F.TPL_UTC_VALID [] 0
    else
      let m := if l61 && l59 then m.event 16 3 (regAddr .TPL_UTC) else m
      let a := l61 && !l59
      let b := l59 && !l61
      let m := ((m.set F.TPL_UTC_OFFSET [] (unsigned 16 off)).set F.TPL_UTC_VALID [] 1).setFlag F.TPL_UTC_LEAP61 [] a
      let m := m.setFlag F.TPL_UTC_LEAP59 [] b
      if !a && !b then (m.set F.TPL_UTC_LEAP_AT [] 0).setTl fun t => { t with leapNew := none }
      else
        let new := if a then off + 1 else off - 1
        let utc := (secOf m.now : Int) - off
        let at' := (utc / 86400 + 1) * 86400 + new
        (m.set F.TPL_UTC_LEAP_AT [] (unsigned 32 at')).setTl fun t => { t with leapNew := some new }
  | none => m

/-- LEAP_AT: device time reaches LEAP_AT (R137). -/
def execLeapAt (t : Nat) (s : State) : Host.Outcome State Fault Refusal :=
  run s fun m =>
    let m := m.runToNs t
    match m.tl.leapNew with
    | some new =>
      if secOf m.now % 2 ^ 32 < m.get F.TPL_UTC_LEAP_AT then m
      else
        let m := ((m.set F.TPL_UTC_OFFSET [] (unsigned 16 new)).set F.TPL_UTC_LEAP61 [] 0).set F.TPL_UTC_LEAP59 [] 0
        let m := { m with tack := { m.tack with golide := { m.tack.golide with leap := true } } }
        (m.set F.TPL_UTC_LEAP_AT [] 0).setTl fun t => { t with leapNew := none }
    | none => m

/-! ### PTP (R117 to R121) -/

/-- The port runs PTP. -/
def Mod.ptpOn (m : Mod) (n : Nat) : Bool := m.flag F.TPL_PTP_CFG_ENABLE && m.flag F.TPL_PTP_PORT_ENABLE [n]

/-- What the module advertises on its master ports (R120). LOCKED on a JEXDOR source, which the table does not name, it sends class 6 as
for PPS_TOD. (DESIGN CHOICE, log 47) -/
def Mod.ptpAdvert (m : Mod) : AnnounceData :=
  let dflt := m.get F.TPL_PTP_CFG_PROFILE = 2
  let tr := m.traceable
  let parent := if m.phaseKind = some 0 then (m.tl.ptp.parent.bind (tget m.tl.ptp.foreign)).map (·.ds) else none
  let cls := match m.servo with
    | 2 => if tr then (if m.phaseKind = some 2 then 6 else (parent.map (·.clockClass)).getD 6) else if dflt then 248 else 165
    | 3 => if tr then (if dflt then 7 else 135) else if dflt then 52 else 165
    | _ => 248
  let fk := if m.flag F.TPL_STATE_FREQ_SRC_VALID then some (m.get F.TPL_STATE_FREQ_SRC) else m.phaseSrc
  let freqTr := match fk with | some k => m.flag F.TPL_SRC_TRACEABLE_SRC [k] | none => false
  { gmIdentity := (parent.map (·.gmIdentity)).getD Config.clockIdentity.toNat
    priority1 := (parent.map (·.priority1)).getD (m.get F.TPL_PTP_CFG_PRIORITY1)
    clockClass := cls
    accuracy := (parent.map (·.accuracy)).getD 0xFE
    variance := (parent.map (·.variance)).getD 0xFFFF
    priority2 := (parent.map (·.priority2)).getD (m.get F.TPL_PTP_CFG_PRIORITY2)
    stepsRemoved := (parent.map fun d => d.stepsRemoved + 1).getD 0
    utcOffset := signed 16 (m.get F.TPL_UTC_OFFSET)
    utcValid := m.flag F.TPL_UTC_VALID
    leap61 := m.flag F.TPL_UTC_LEAP61
    leap59 := m.flag F.TPL_UTC_LEAP59
    timeTraceable := tr && (m.servo = 2 || m.servo = 3)
    freqTraceable := (tr && (m.servo = 2 || m.servo = 3)) || (m.servo = 2 && freqTr)
    domain := m.get F.TPL_PTP_CFG_DOMAIN }

/-- The ranking of a data set: the default BMCA with priority1, the alternate ones with localPriority (R117). Lower is
better. -/
def Mod.dsRank (m : Mod) (d : AnnounceData) (localPriority : Nat) : List Nat :=
  if m.get F.TPL_PTP_CFG_PROFILE = 2 then
    [d.priority1, d.clockClass, d.accuracy, d.variance, d.priority2, d.gmIdentity, d.stepsRemoved]
  else [d.clockClass, d.accuracy, d.variance, d.priority2, localPriority, d.gmIdentity, d.stepsRemoved]

/-- One ranking comes before another. (PRESUMED, log 47) -/
def lexLt : List Nat → List Nat → Bool
  | a :: as, b :: bs => decide (a < b) || (decide (a = b) && lexLt as bs)
  | _, _ => false

/-- The best of numbered rankings. (PRESUMED, log 47) -/
def bestRank : List (Nat × List Nat) → Option (Nat × List Nat)
  | [] => none
  | x :: xs => match bestRank xs with
    | some y => if lexLt y.2 x.2 then some y else some x
    | none => some x

/-- The module's own data set as the BMCA compares it: class 248 while its time comes, or came last, from PTP. (PRESUMED, log 47) -/
def Mod.ownDs (m : Mod) : AnnounceData :=
  let a := m.ptpAdvert
  let ptp := m.get F.TPL_SRC_KIND [m.get F.TPL_STATE_PHASE_SRC] = 0
  { a with gmIdentity := Config.clockIdentity.toNat, priority1 := m.get F.TPL_PTP_CFG_PRIORITY1,
           priority2 := m.get F.TPL_PTP_CFG_PRIORITY2, accuracy := 0xFE, variance := 0xFFFF, stepsRemoved := 0,
           clockClass := if ptp then 248 else a.clockClass }

/-- The BMCA chooses the slave port, and every port takes its state: 9 SLAVE, 6 MASTER, 7 PASSIVE, 2 FAULTY or 3 DISABLED
where its sub-port is not UP (R119, R185). A clock of class 127 or below is no slave: a port that hears a better one is PASSIVE. The parent
that goes is a loss, R128. (PRESUMED, log 47) -/
def Mod.bmca (m : Mod) : Mod :=
  let usable := fun (n : Nat) => m.ptpOn n && m.subState n (m.get F.TPL_PTP_PORT_SUBPORT [n]) = 4
  let cand := (m.tl.ptp.foreign.filter fun f => usable f.1 && !m.flag F.TPL_PTP_PORT_MASTER_ONLY [f.1] && f.2.count ≥ 2).map
    fun f => (f.1, m.dsRank f.2.ds (m.get F.TPL_PTP_PORT_LOCAL_PRIORITY [f.1]))
  let own := m.ownDs
  let firm := decide (own.clockClass ≤ 127)
  let parent : Option Nat := match bestRank cand with
    | some (n, r) => if firm || lexLt (m.dsRank own 128) r then none else some n
    | none => none
  let was := m.tl.ptp.parent
  let gm := (parent.bind (tget m.tl.ptp.foreign)).map (·.ds)
  let m := (List.range 96).foldl (fun m n =>
    if !m.ptpOn n then m.set F.TPL_PTP_PORT_PORT_STATE [n] 0
    else
      let sub := m.subState n (m.get F.TPL_PTP_PORT_SUBPORT [n])
      let st : Nat :=
        if sub = 0 then 3
        else if sub ≠ 4 then 2
        else if parent = some n then 9
        else if firm then (if cand.any fun x => decide (x.1 = n) && lexLt x.2 (m.dsRank own 128) then 7 else 6)
        else match tget m.tl.ptp.foreign n, gm with
          | some f, some g =>
            if f.ds.gmIdentity = g.gmIdentity && f.ds.stepsRemoved ≤ g.stepsRemoved + 1 then 7 else 6
          | _, _ => 6
      m.set F.TPL_PTP_PORT_PORT_STATE [n] st) m
  let same := match was, parent with | some a, some b => a = b | _, _ => false
  let m := m.setTl fun t => { t with ptp := { t.ptp with parent := parent, synced := t.ptp.synced && same } }
  let m := if was.isSome && parent.isNone then m.srcLost 0 1 else m
  match gm with
  | some g =>
    let m := m.srcTrace 0 (g.timeTraceable && decide (g.clockClass ≤ m.get F.TPL_PTP_CFG_MAX_CLASS))
    m.takeUtc 0 g.utcValid g.utcOffset g.leap61 g.leap59
  | none => m

/-- A message of the domain the module runs. -/
def PtpMsg.domainOf : PtpMsg → Option Nat
  | .announce d => some d.domain
  | .sync d | .followUp d | .delayReq d | .delayResp d => some d
  | .unicastRequest d _ _ => some d
  | .ignored => none

/-- PTP_MESSAGE_RECEIVED: a message on port `n` at device time `t` (R117 to R119). Kinds sent in answer: 9 Delay_Resp, 12 a
unicast grant. (PRESUMED, log 47) -/
def execPtpMessageReceived (n : Fin 96) (msg : PtpMsg) (t : Nat) (s : State) : Host.Outcome State Fault Refusal :=
  run s fun m =>
    let m := m.runToNs t
    if !m.ptpOn n || PtpMsg.domainOf msg ≠ some (m.get F.TPL_PTP_CFG_DOMAIN) then m
    else match msg with
      | .announce d =>
        let f := tget m.tl.ptp.foreign n
        let x : Foreign := match f with
          | some f => if f.ds.gmIdentity = d.gmIdentity then { ds := d, count := f.count + 1 } else { ds := d }
          | none => { ds := d }
        (m.setTl fun t => { t with ptp := { t.ptp with foreign := tput t.ptp.foreign n x } }).bmca
      | .sync _ | .followUp _ =>
        if m.tl.ptp.parent = some n.val then
          (m.setTl fun t => { t with ptp := { t.ptp with synced := true } }).srcGood 0
        else m
      | .delayReq _ => if m.get F.TPL_PTP_PORT_PORT_STATE [n.val] = 6 then m.emit (.ptp n 9 (t * nsUnit)) else m
      | .unicastRequest _ clock secs =>
        let live := m.tl.ptp.grants.filter fun g => secOf m.now < g.until_
        let rest := live.filter fun g => !(g.port = n.val && g.clock = clock)
        if m.get F.TPL_PTP_CFG_PROFILE = 1 && rest.length < 256 then
          (m.setTl fun t => { t with ptp := { t.ptp with grants := ⟨n, clock, secOf m.now + secs⟩ :: rest } }).emit (.ptp n 12 0)
        else m
      | .delayResp _ | .ignored => m

/-- PTP_ANNOUNCE_TIMEOUT: the foreign master of port `n` has been silent for announceReceiptTimeout intervals (R117). -/
def execPtpAnnounceTimeout (n : Fin 96) (s : State) : Host.Outcome State Fault Refusal :=
  run s fun m => (m.setTl fun t => { t with ptp := { t.ptp with foreign := tdel t.ptp.foreign n } }).bmca

/-- Restarts every PTP port in INITIALIZING (R121): the parent is lost. -/
def Mod.ptpRestart (m : Mod) : Mod :=
  let had := m.tl.ptp.parent.isSome
  let m := m.setTl fun t => { t with ptp := { grants := [] } }
  let m := (List.range 96).foldl (fun m n => m.set F.TPL_PTP_PORT_PORT_STATE [n] (b2n (m.ptpOn n))) m
  if had then m.srcLost 0 1 else m

/-- A four-bit interval lies in a profile's column: which 0 sync, 1 delay request, 2 announce (R117). -/
def intervalOk (profile which v : Nat) : Bool :=
  let i := signed 4 v
  match profile with
  | 0 => i = if which = 2 then -3 else -4
  | 1 => (if which = 2 then -3 else -7) ≤ i && i ≤ 0
  | _ => (if which = 2 then -3 else -7) ≤ i && i ≤ 4

/-- A PTP clock value is allowed: profile and domain. -/
def ptpClockOk (v : Nat) : Bool :=
  let d := bits v 2 8
  match bits v 0 2 with
  | 0 => 24 ≤ d && d ≤ 43
  | 1 => 44 ≤ d && d ≤ 63
  | 2 => d ≤ 127
  | _ => false

/-- A port value is allowed under a profile. -/
def ptpPortOk (profile v : Nat) : Bool :=
  let tr := bits v 4 2
  (match profile with | 0 => tr = 0 | 1 => tr = 1 || tr = 2 | _ => tr ≤ 2) &&
    intervalOk profile 0 (bits v 16 4) && intervalOk profile 1 (bits v 20 4) && intervalOk profile 2 (bits v 24 4) &&
    bits v 8 8 ≠ 0 && bits v 28 20 ≠ 2 ^ 19

/-- Applies a TPL_PTP_CFG value: a change of PROFILE, DOMAIN or ENABLE restarts the ports (R121), which leave INITIALIZING when the BMCA runs
next, at the next tick at the latest. (DESIGN CHOICE, log 47) -/
def Mod.ptpClockSet (m : Mod) (v : Nat) : Mod :=
  let old := m.stored .TPL_PTP_CFG
  let m := m.setStored .TPL_PTP_CFG [] v
  if bits old 0 10 ≠ bits v 0 10 || bit old 35 ≠ bit v 35 then m.ptpRestart else m

/-- Applies a TPL_PTP_PORT value; the RO fields stay. Enabling PTP on the sub-port of a Jexdor link is ignored and logged
(R474). -/
def Mod.ptpPortWrite (m : Mod) (mid n v : Nat) : Mod :=
  if bit v 0 && (m.linkAt n (bits v 1 3)).isSome then m.refuse mid (regAddr .TPL_PTP_PORT [n]) true true 3 else
  let was := m.flag F.TPL_PTP_PORT_ENABLE [n]
  let m := m.setStored .TPL_PTP_PORT [n] (v % 2 ^ 48 + m.get F.TPL_PTP_PORT_PORT_STATE [n] * 2 ^ 48)
  let m := if was && !bit v 0 then m.setTl fun t => { t with ptp := { t.ptp with foreign := tdel t.ptp.foreign n } } else m
  m.bmca

/-- The ports that PTP_PORT_SET configures, and the clock where it carries one (R61). -/
def ptpObjs (c : Cmd) : List Obj := ((c.all 0x100).map fun t => Obj.port (leAt t.2 0 1)) ++ if (c.tlv 0x101).isSome then [.timeSources] else []

/-- PTP_PORT_SET (R121). A CLOCK is refused also when an enabled port that the command does not name holds a transport or an interval outside
the new profile. (DESIGN CHOICE, log 47) -/
def execPtpPortSet (c : Cmd) (s : State) : Host.Outcome State Fault Refusal :=
  run s fun m => m.runCmd c 0x0403 (ptpObjs c) fun m =>
    let clock := (c.tlv 0x101).map fun t => leAt t.2 0 8
    let cfg := clock.getD (m.stored .TPL_PTP_CFG)
    let prof := bits cfg 0 2
    let ps := c.all 0x100
    let named := fun (n : Nat) => ps.any fun t => leAt t.2 0 1 = n
    let bad := ps.find? fun t =>
      let n := leAt t.2 0 1
      let v := leAt t.2 4 8
      n > 95 || !ptpPortOk prof v || decide (m.subCount n ≤ bits v 1 3)
    let others := clock.isSome && (List.range 96).any fun n =>
      m.flag F.TPL_PTP_PORT_ENABLE [n] && !named n && !ptpPortOk prof (m.stored .TPL_PTP_PORT [n])
    match bad with
    | some (p, _) => (m, some (badTlv p))
    | none =>
      if clock.isSome && (!ptpClockOk cfg || others) then (m, some (badTlv (c.pos 0x101)))
      else
        let m := ps.foldl (fun m t => m.ptpPortWrite c.mid (leAt t.2 0 1) (leAt t.2 4 8)) m
        let m := match clock with | some v => m.ptpClockSet v | none => m
        (m, some {})

/-! ### SyncE, the 10 MHz input, PPS_TOD (R122 to R125) -/

/-- ESMC_RECEIVED: an ESMC message with `ql` on port `n`; `ok` says that the port has signal and its frequency lies within
±4.6 ppm (R122). QL-DNU is 0xF. -/
def execEsmcReceived (n : Fin 96) (ql : Fin 16) (ok : Bool) (s : State) : Host.Outcome State Fault Refusal :=
  run s fun m =>
    let m := m.setTl fun t => { t with synce := tput t.synce n ql }
    if ql.val = 15 then m.srcLost (srcKey 1 n) 3
    else if ok then m.srcGood (srcKey 1 n)
    else m.srcLost (srcKey 1 n) 1

/-- ESMC_TIMEOUT: no ESMC for 5 s (R122). -/
def execEsmcTimeout (n : Fin 96) (s : State) : Host.Outcome State Fault Refusal :=
  run s fun m => (m.setTl fun t => { t with synce := tdel t.synce n }).srcLost (srcKey 1 n) 2

/-- The QL that port `n` sends (R122): QL-DNU on the port that supplies the frequency source, the source's QL in LOCKED, QL-eEEC
(0xB) otherwise. (PRESUMED, log 47) -/
def Mod.esmcQl (m : Mod) (n : Nat) : Nat :=
  let k := m.get F.TPL_STATE_FREQ_SRC
  if m.flag F.TPL_STATE_FREQ_SRC_VALID && m.get F.TPL_SRC_KIND [k] = 1 then
    if m.get F.TPL_SRC_PORT [k] = n then 15
    else if m.servo = 2 then tgetD m.tl.synce (m.get F.TPL_SRC_PORT [k]) 11 else 11
  else if m.servo = 2 && m.traceable then 2 else 11

/-- REF10M_LOSS: the 10 MHz input is lost (R123). -/
def execRef10mLoss (s : State) : Host.Outcome State Fault Refusal :=
  run s fun m => (m.setTl fun t => { t with ref10 := none }).srcLost (srcKey 3 0) 1

/-- REF10M_INPUT_RETURN: the input returns at `t`; after 10 s within ±1 ppm the source qualifies (R123). -/
def execRef10mInputReturn (t : Nat) (s : State) : Host.Outcome State Fault Refusal :=
  run s fun m => let m := m.runToNs t; m.setTl fun t => { t with ref10 := some m.now }

/-- Changes the PPS_TOD tests. -/
def Mod.setTod (m : Mod) (f : PpsTod → PpsTod) : Mod := m.setTl fun t => { t with ppsTod := f t.ppsTod }

/-- A second of the PPS_TOD source ends, good or bad (R125): three good ones qualify, two bad ones lose; a single bad one is
logged. -/
def Mod.todSecond (m : Mod) (ok : Bool) : Mod :=
  let key := srcKey 2 0
  if ok then
    let m := m.setTod fun p => { p with goodRun := p.goodRun + 1, badRun := 0 }
    if m.tl.ppsTod.goodRun ≥ 3 then m.srcGood key else m
  else
    let was := (tget m.tl.good key).isSome
    let m := m.setTod fun p => { p with goodRun := 0, badRun := p.badRun + 1 }
    let m := if was then m.event 16 4 (regAddr .TPL_STATE) else m
    if m.tl.ppsTod.badRun ≥ 2 then m.srcLost key 2 else m

/-- A second of the PPS_TOD source without a sentence that passes: the sec of the last sentence moves on by one, so that one such second alone
does no harm (R125). (DEDUCED, log 48) -/
def Mod.todMissed (m : Mod) : Mod := (m.setTod fun p => { p with lastSec := p.lastSec.map (· + 1) }).todSecond false

/-- The DELAY_COMP of the PPS_TOD entry, in units of device time (R123): its unit is 100 ps. -/
def Mod.ppsComp (m : Mod) : Nat :=
  match (List.range 16).find? fun k => m.get F.TPL_SRC_KIND [k] = 2 && m.flag F.TPL_SRC_ENABLE [k] with
  | some k => m.get F.TPL_SRC_DELAY_COMP [k] * nsUnit / 10
  | none => 0

/-- PPS_INPUT_EDGE: an edge stamped at `stamp` units of device time, in steps of 125 ps (R123, R125, R145). -/
def execPpsInputEdge (stamp : Nat) (s : State) : Host.Outcome State Fault Refusal :=
  run s fun m =>
    let m := m.runTo stamp
    let t := stamp / 8192 * 8192 - m.ppsComp
    let p := m.tl.ppsTod
    let m := if p.waits then m.todMissed else m
    let onTime := match p.lastEdge with
      | some e => decide (e + secUnit ≤ t + 1000 * nsUnit) && decide (t ≤ e + secUnit + 1000 * nsUnit)
      | none => false
    m.setTod fun p => { p with lastEdge := some t, onTime := onTime, waits := true, due := some (t + secUnit + 1000 * nsUnit) }

/-- The decimal number that ASCII digits spell, with a leading minus sign allowed. -/
def decimal (bs : List Byte) : Option Int :=
  let ds : List Byte → Option Nat := fun l =>
    if l.isEmpty || l.any fun b => b.toNat < 48 || 57 < b.toNat then none
    else some (l.foldl (fun n b => n * 10 + (b.toNat - 48)) 0)
  match bs with
  | 45#8 :: t => (ds t).map fun n => -(n : Int)
  | l => (ds l).map Int.ofNat

/-- Splits bytes at a separator. -/
def splitAt (sep : Byte) : List Byte → List (List Byte)
  | [] => [[]]
  | b :: bs =>
    if b = sep then [] :: splitAt sep bs
    else match splitAt sep bs with
      | f :: fs => (b :: f) :: fs
      | [] => [[b]]

/-- An uppercase hexadecimal digit. -/
def hexDigit (n : Nat) : Byte := BitVec.ofNat 8 (if n < 10 then 48 + n else 55 + n)

/-- The time-of-day sentence around a body (R124): the exclusive-or of the body as two hexadecimal digits. -/
def todWrap (body : List Byte) : List Byte :=
  let x := body.foldl (fun a b => a ^^^ b.toNat) 0
  ascii "$" ++ body ++ ascii "*" ++ [hexDigit (x / 16), hexDigit (x % 16), 13, 10]

/-- Reads a sentence (R124): sec, utcoff, leap and q; none when its form or its checksum is wrong. -/
def todParse (bs : List Byte) : Option (Int × Int × Int × Int) :=
  let body := (bs.drop 1).take (bs.length - 6)
  if bs.length > 64 || todWrap body ≠ bs then none
  else match splitAt 44 body with
    | [tag, sec, off, leap, q] =>
      if tag ≠ ascii "KTOD" then none
      else match decimal sec, decimal off, decimal leap, decimal q with
        | some a, some b, some l, some x => if 0 ≤ a && 0 ≤ l && l ≤ 2 && 0 ≤ x && x ≤ 2 then some (a, b, l, x) else none
        | _, _, _, _ => none
    | _ => none

/-- TOD_SENTENCE_RECEIVED: a sentence complete at `t` ns (R124, R125, R136). -/
def execTodSentenceReceived (bytes : List Byte) (t : Nat) (s : State) : Host.Outcome State Fault Refusal :=
  run s fun m =>
    let m := m.runToNs t
    let p := m.tl.ppsTod
    if !p.waits then m
    else
      let e := p.lastEdge.getD 0
      let inTime := decide (e + 1000000 * nsUnit ≤ m.now) && decide (m.now ≤ e + 500000000 * nsUnit)
      let m := m.setTod fun p => { p with waits := false }
      match todParse bytes with
      | some (sec, off, leap, q) =>
        let next := match p.lastSec with | some l => decide (sec = l + 1) | none => false
        let ok := p.onTime && inTime && next
        let m := m.setTod fun p => { p with lastSec := some sec.toNat }
        let m := (m.srcTrace (srcKey 2 0) (q ≠ 2)).todSecond ok
        if ok then m.takeUtc (srcKey 2 0) true off (leap = 1) (leap = 2) else m
      | none => m.todMissed

/-- A decimal number as ASCII. -/
def natAscii : Nat → Nat → List Byte
  | 0, n => [BitVec.ofNat 8 (48 + n % 10)]
  | f + 1, n => if n < 10 then [BitVec.ofNat 8 (48 + n)] else natAscii f (n / 10) ++ [BitVec.ofNat 8 (48 + n % 10)]

/-- A signed decimal number as ASCII. -/
def intAscii (i : Int) : List Byte := (if i < 0 then ascii "-" else []) ++ natAscii 20 i.natAbs

/-- The sentence for second `k` (R124): q from the module's own verdict. -/
def Mod.todSentence (m : Mod) (k : Nat) : List Byte :=
  let q := if m.traceable then (if m.servo = 3 then 1 else 0) else 2
  let leap := if m.flag F.TPL_UTC_LEAP61 then 1 else if m.flag F.TPL_UTC_LEAP59 then 2 else 0
  todWrap (ascii "KTOD," ++ natAscii 20 k ++ ascii "," ++ intAscii (signed 16 (m.get F.TPL_UTC_OFFSET)) ++ ascii "," ++
    natAscii 1 leap ++ ascii "," ++ natAscii 1 q)

/-- TOD_OUTPUT_SENTENCE: the sentence of second `k` (R124). -/
def execTodOutputSentence (k : Nat) (s : State) : Host.Outcome State Fault Refusal :=
  run s fun m => let m := m.runTo (k * secUnit); m.emit (.tod (m.todSentence k))

/-! ### Selection (R126 to R130) -/

/-- The entry may be the phase source: on a member only entry 15 (R494). -/
def Mod.usePhase (m : Mod) (k : Nat) : Bool := if m.isMember then k = 15 else m.flag F.TPL_SRC_USE_PHASE [k]

/-- The entry has waited to restore, or need not (R127, R505). -/
def Mod.restored (m : Mod) (k : Nat) : Bool :=
  !m.tl.lost.contains k || decide (8 * m.get F.TPL_SEL_WTR_S ≤ tgetD m.tl.qualTicks k 0)

/-- The order of candidates: traceable ones first in the phase role, then RANK, then index. -/
def Mod.srcRank (m : Mod) (phase : Bool) (k : Nat) : List Nat :=
  [b2n (phase && m.flag F.TPL_SEL_PREFER_TRACEABLE && !m.flag F.TPL_SRC_TRACEABLE_SRC [k]), m.get F.TPL_SRC_RANK [k], k]

/-- The first candidate of a role; `keep` is the entry selected now, `gone` the sources lost in this interval (R129). -/
def Mod.choose (m : Mod) (phase : Bool) (keep : Option Nat) (gone : List Nat) : Option Nat :=
  let cand := (List.range 16).filter fun k =>
    m.flag F.TPL_SRC_ENABLE [k] && m.flag F.TPL_SRC_QUALIFIED [k] && !gone.contains (m.srcOf k) &&
      (if phase then m.usePhase k else m.flag F.TPL_SRC_USE_FREQ [k]) &&
      (m.restored k || keep = some k)
  (bestRank (cand.map fun k => (k, m.srcRank phase k))).map (·.1)

/-- Losses of the interval reach the table (R128, R129). (DEDUCED, log 48) -/
def Mod.applyLosses (m : Mod) : Mod :=
  let hit := (List.range 16).filter fun k => m.flag F.TPL_SRC_QUALIFIED [k] && m.tl.losses.contains (m.srcOf k)
  let m := hit.foldl (fun m k => m.set F.TPL_SRC_QUALIFIED [k] 0) m
  m.setTl fun t => { t with losses := [], lost := hit ++ t.lost.filter (fun k => !hit.contains k),
                            qualTicks := t.qualTicks.filter fun x => !hit.contains x.1 }

/-- Puts TPL_SRC[31:0] of entry `k`. -/
def Mod.srcPut (m : Mod) (k v : Nat) : Mod :=
  let m := ((m.set F.TPL_SRC_ENABLE [k] (bits v 0 1)).set F.TPL_SRC_KIND [k] (bits v 1 3)).set F.TPL_SRC_PORT [k] (bits v 4 7)
  let m := ((m.set F.TPL_SRC_RANK [k] (bits v 11 4)).set F.TPL_SRC_USE_PHASE [k] (bits v 15 1))
  (m.set F.TPL_SRC_USE_FREQ [k] (bits v 16 1)).set F.TPL_SRC_DELAY_COMP [k] (bits v 17 15)

/-- Entry `k` names another source: its qualification is judged afresh. -/
def Mod.srcFresh (m : Mod) (k : Nat) : Mod :=
  (m.set F.TPL_SRC_QUALIFIED [k] 0).setTl fun t =>
    { t with lost := t.lost.filter (· ≠ k), qualTicks := tdel t.qualTicks k }

/-- One change of the source table: an entry that names another source is judged afresh; disabling or changing the selected
phase source is its loss (R130). -/
def Mod.applyChange (m : Mod) (x : SrcChange) : Mod :=
  let m := x.entries.foldl (fun m e =>
    let k := e.1
    let old := m.stored .TPL_SRC [k] % 2 ^ 32
    let was := m.srcOf k
    let m := if m.phaseSrc = some k && old ≠ e.2 then m.phaseLost k else m
    let m := m.srcPut k e.2
    if m.srcOf k = was then m else m.srcFresh k) m
  match x.sel with
  | some v => m.setStored .TPL_SEL [] v
  | none => m

/-- Gains of qualification, and the status of every entry (R127, R129). -/
def Mod.applyGains (m : Mod) : Mod :=
  (List.range 16).foldl (fun m k =>
    let key := m.srcOf k
    let pass := (tget m.tl.good key).isSome
    let m := if pass then
        if m.flag F.TPL_SRC_QUALIFIED [k] then m.setTl fun t => { t with qualTicks := tput t.qualTicks k (tgetD t.qualTicks k 0 + 1) }
        else (m.set F.TPL_SRC_QUALIFIED [k] 1).setTl fun t => { t with qualTicks := tput t.qualTicks k 0 }
      else m
    m.setFlag F.TPL_SRC_TRACEABLE_SRC [k] (pass && m.tl.traced.contains key)) m

/-- FAIL and WTR_LEFT of every entry, after selection. -/
def Mod.applyStatus (m : Mod) : Mod :=
  (List.range 16).foldl (fun m k =>
    let key := m.srcOf k
    let left := 8 * m.get F.TPL_SEL_WTR_S - tgetD m.tl.qualTicks k 0
    let waits := m.flag F.TPL_SRC_QUALIFIED [k] && !m.restored k && m.phaseSrc ≠ some k
    let badClass := key = 0 && !m.tl.traced.contains 0 && (match m.tl.ptp.parent.bind (tget m.tl.ptp.foreign) with
      | some f => decide (m.get F.TPL_PTP_CFG_MAX_CLASS < f.ds.clockClass) | none => false)
    let code := if m.flag F.TPL_SRC_QUALIFIED [k] then (if waits then 4 else if badClass then 3 else 0)
      else tgetD m.tl.fail key 1
    (m.set F.TPL_SRC_FAIL [k] code).set F.TPL_SRC_WTR_LEFT [k] (if waits then ceilDiv left 8 else 0)) m

/-- Selects phase entry `k`, whose measured offset is `off` (R128, R131). -/
def Mod.selectPhase (m : Mod) (k : Nat) (off : Int) (sameInTime : Bool) : Mod :=
  let m := (m.set F.TPL_STATE_PHASE_SRC [] k).set F.TPL_STATE_PHASE_SRC_VALID [] 1
  let m := m.setTl fun t => { t with lossSrc := none }
  let near := !above off (m.get F.TPL_CFG_STEP_NS)
  match m.servo with
  | 0 =>
    let m := m.servoTo 1
    if m.tl.timeSet then m else m.deviceStep (-(roundNs off))
  | 2 => if near then m else m.servoTo 1
  | 3 => m.servoTo (if sameInTime && near then 2 else 1)
  | _ => m

/-- The phase source lost last, where it may be selected again at once (R128): its entry still names it and may be a phase source, it has
qualified within HOLD_OFF_MS, and it was not lost in this interval (R129). (DEDUCED, log 48) -/
def Mod.returned (m : Mod) (gone : List Nat) : Option Nat :=
  let hold := m.get F.TPL_SEL_HOLD_OFF_MS * 1000000 * nsUnit
  match m.tl.lossSrc with
  | some (k, key, t) =>
    if m.flag F.TPL_SRC_ENABLE [k] && m.usePhase k && m.flag F.TPL_SRC_QUALIFIED [k] && m.srcOf k = key && decide (t < m.now) &&
        !gone.contains key && decide (tgetD m.tl.good key (t + hold + 1) ≤ t + hold) then some k
    else none
  | none => none

/-- HOLD_OFF_MS after the loss of the phase source has not passed (R128). -/
def Mod.holdingOff (m : Mod) : Bool :=
  match m.tl.lossSrc with
  | some (_, _, t) => decide (m.now ≤ t + m.get F.TPL_SEL_HOLD_OFF_MS * 1000000 * nsUnit)
  | none => false

/-- Selection at a tick (R127 to R129); `offs` gives the measured offset of device time from each entry's source, `gone` the sources lost
in this interval. -/
def Mod.selectAt (m : Mod) (offs : Tab Int) (gone : List Nat) : Mod :=
  let back := m.returned gone
  let cur := m.phaseSrc
  let pick := back.or (if m.holdingOff then none else m.choose true cur gone)
  let m := match pick with
    | some k => if cur = some k then m else m.selectPhase k (tgetD offs k 0 - m.asymmetry k) (back = some k)
    | none => m
  let curF := if m.flag F.TPL_STATE_FREQ_SRC_VALID then some (m.get F.TPL_STATE_FREQ_SRC) else none
  match m.choose false curF gone with
  | some f => (m.set F.TPL_STATE_FREQ_SRC [] f).setFlag F.TPL_STATE_FREQ_SRC_VALID [] (m.phaseSrc ≠ some f)
  | none => m.set F.TPL_STATE_FREQ_SRC_VALID [] 0

/-- Ports that a restart left in INITIALIZING take their states (R121). (DESIGN CHOICE, log 47) -/
def Mod.ptpInit (m : Mod) : Mod := if (List.range 96).any fun n => decide (m.get F.TPL_PTP_PORT_PORT_STATE [n] = 1) then m.bmca else m

/-- The seconds of PPS_TOD whose edge did not come, and the 10 MHz input's 10 s (R123, R125). -/
def Mod.sourceTests (m : Mod) : Mod :=
  let m := match m.tl.ppsTod.due with
    | some d => if d < m.now then
        (m.setTod fun p => { p with due := some (d + secUnit), waits := false }).todMissed else m
    | none => m
  match m.tl.ref10 with
  | some t => if t + 10 * secUnit ≤ m.now then m.srcGood (srcKey 3 0) else m
  | none => m

/-- SELECTION_TICK: the tick at `t` ns, a multiple of 125 ms (R127 to R131, R134, R494). (DEDUCED, log 48) -/
def execSelectionTick (t : Nat) (offs : Tab Int) (s : State) : Host.Outcome State Fault Refusal :=
  run s fun m =>
    let m := (m.runToNs t).ptpInit.sourceTests
    let gone := m.tl.losses
    let ch := m.tl.changes
    let m := m.applyLosses
    let m := (ch.foldl Mod.applyChange m).setTl fun t => { t with changes := [] }
    let m := (m.applyGains.selectAt offs gone).applyStatus
    let m := if m.servo = 2 then m.setTl fun t => { t with lockedBound := m.bound.getD 0 } else m
    let v := m.verdict
    let m := if v = m.traceable then m else m.traceEvent v
    let m := { m with tack := { m.tack with golide :=
      { m.tack.golide with boundMax := max m.tack.golide.boundMax (bound16 m.bound) } } }
    ch.foldl (fun m x => match x.cmd with | some c => m.reply c {} | none => m) m

/-- The low words of the source table once the changes that wait for the tick have been made. -/
def Mod.srcTableNext (m : Mod) : List Nat :=
  (m.tl.changes.flatMap (·.entries)).foldl (fun (ws : List Nat) e => ws.set e.1 e.2) m.srcTable

/-- TIME_SOURCE_SET (R126, R130): the change waits for the next tick and is answered there. -/
def execTimeSourceSet (c : Cmd) (s : State) : Host.Outcome State Fault Refusal :=
  run s fun m => m.runCmd c 0x0402 [.timeSources] fun m =>
    let ss := c.all 0x100
    let ks := ss.map fun t => leAt t.2 0 1
    let bad := ss.find? fun t => leAt t.2 0 1 > 15 || bits (leAt t.2 4 4) 1 3 > 4 ||
      (ks.filter (· = leAt t.2 0 1)).length > 1
    let es := (ss.map fun t => (leAt t.2 0 1, leAt t.2 4 4)).filter fun e => !(m.isMember && e.1 = 15)
    let table := (List.range 16).map fun k => match es.find? (·.1 = k) with
      | some e => e.2
      | none => m.srcTableNext.getD k 0
    match bad with
    | some (p, _) => (m, some (badTlv p))
    | none =>
      if !srcTableOk table then (m, some (badTlv (c.pos 0x100)))
      else
        let x : SrcChange := ⟨some { c with opcode := 0x0402 }, es, (c.tlv 0x101).map fun t => leAt t.2 0 4⟩
        (m.setTl fun t => { t with changes := t.changes ++ [x] }, none)

/-- A value that TPL_SRC[31:0] of entry `k` refuses: entry 15 of a member, a reserved KIND, a table that breaks R126. -/
def Mod.srcBad (m : Mod) (k v : Nat) : Bool :=
  (m.isMember && k = 15) || decide (bits v 1 3 > 4) || !srcTableOk (m.srcTableNext.set k (v % 2 ^ 32))

/-- A register write of TPL_SRC[31:0] (R126, R129, R494). -/
def Mod.srcWrite (m : Mod) (mid k v : Nat) : Mod :=
  if m.srcBad k v then m.refuse mid (regAddr .TPL_SRC [k]) true false 3
  else m.setTl fun t => { t with changes := t.changes ++ [⟨none, [(k, v % 2 ^ 32)], none⟩] }

/-! ### Reading time (R112, R142, R143, R174) -/

/-- TPL_NOW_READ: a read of TPL_NOW at device time `t` units latches the whole of device time for the requester (R112). (DEDUCED, log 17) -/
def execTplNowRead (r : Req) (t : Nat) (s : State) : Host.Outcome State Fault Refusal :=
  run s fun m =>
    let m := m.runTo t
    let a := regAddr .TPL_NOW
    let b := regAddr .TPL_NOW_EXT
    let rest := m.latches.filter fun l => !(l.mid = r.mid && (l.addr = a || l.addr = b))
    let m : Mod := { m with latches := ⟨r.mid, a, secOf m.now % 2 ^ 32⟩ :: ⟨r.mid, b, m.view .TPL_NOW_EXT []⟩ :: rest }
    m.answerRead r (time64 m.now)

/-- The NOW TLV's 16 bytes (R142). -/
def Mod.nowBytes (m : Mod) : List Byte :=
  leBytes 6 (secOf m.now) ++ leBytes 4 (nsOf m.now) ++ leBytes 2 (m.now % nsUnit) ++ leBytes 1 m.servo ++
    leBytes 1 (b2n m.traceable + m.get F.TPL_UTC_VALID * 2 + m.get F.TPL_UTC_LEAP61 * 4 + m.get F.TPL_UTC_LEAP59 * 8) ++
    leBytes 2 (m.get F.TPL_UTC_OFFSET)

/-- A bound in 32 bits. -/
def bound32 (b : Option Nat) : Nat := match b with | some n => min n 0xFFFFFFFE | none => 0xFFFFFFFF

/-- TIME_GET: device time is latched when the Cutter executes the command, at `t` units (R142). -/
def execTimeGet (c : Cmd) (t : Nat) (s : State) : Host.Outcome State Fault Refusal :=
  run s fun m => (m.runTo t).query c 0x0401 fun m =>
    okWith [tlv 0x100 m.nowBytes, tlv 0x101 (leBytes 4 (bound32 m.bound))]

/-- The statistics of the last 64 s (R143): mean, minimum, maximum, RMS offset and mean path delay. -/
def Mod.servoStats (m : Mod) : List Byte :=
  let xs := m.offsetsOf 64
  let os := xs.map (·.1)
  let n := os.length
  if n = 0 then List.replicate 40 0
  else
    let sum := os.foldl (· + ·) 0
    let lo := os.foldl min (os.headD 0)
    let hi := os.foldl max (os.headD 0)
    let sq := (os.map fun o => o.natAbs ^ 2).foldl (· + ·) 0
    let dl := (xs.map (·.2)).foldl (· + ·) 0
    leBytes 8 (unsigned 64 (sum / n)) ++ leBytes 8 (unsigned 64 lo) ++ leBytes 8 (unsigned 64 hi) ++
      leBytes 8 (isqrt (sq / n)) ++ leBytes 8 (dl / n)

/-- SERVO_STATUS (R143). -/
def execServoStatus (c : Cmd) (s : State) : Host.Outcome State Fault Refusal :=
  run s fun m => m.query c 0x0404 fun m =>
    let hold := if m.servo = 3 then leBytes 4 ((m.now - m.tl.holdAt) / secUnit) ++ leBytes 4 m.tl.lockedBound
      else List.replicate 8 0
    m.inLimit c (okWith [tlv 0x100 (leBytes 8 (m.view .TPL_STATE [])), tlv 0x101 m.servoStats, tlv 0x102 hold,
      tlv 0x103 ((List.range 16).flatMap fun k => leBytes 8 (m.view .TPL_SRC [k]))])

/-- GOLIDE_READ (R174). -/
def execGolideRead (c : Cmd) (s : State) : Host.Outcome State Fault Refusal :=
  run s fun m => m.runCmd c 0x0406 [] fun m =>
    let first := leAt (c.val 0x100) 0 4
    let count := leAt (c.val 0x100) 4 4
    let next := m.chalk.golideNext
    let oldest := match m.chalk.golide.getLast? with | some r => r.seq | none => next
    let room := match c.src with | .admin _ => 15 | .mailbox _ => 1 | .oob _ => 10 | .jexdor _ => 63
    let k := match c.buffer with | some _ => count | none => min count room
    let got := (m.chalk.golide.reverse.filter fun (r : GolideRec) => decide (first ≤ r.seq)).take k
    let body := got.flatMap (·.bytes)
    let info := tlv 0x101 (leBytes 4 oldest ++ leBytes 4 (if m.chalk.golide.isEmpty then 0xFFFFFFFF else next - 1) ++
      leBytes 4 m.chalk.boot ++ leBytes 4 got.length)
    if count = 0 || count > 65536 then (m, some (badTlv (c.pos 0x100)))
    else if first < oldest || first ≥ next then (m, some (badTlv (c.pos 0x100) 1))
    else match c.buffer with
      | some (_, n, _) =>
        if n < body.length then (m, some (badTlv (c.pos 1))) else (m.bufferWrite c body, some (okWith [info]))
      | none => (m, some (okWith [info, tlv 0x102 body]))

/-! ### 1PPS outputs (R167 to R169) -/

/-- The lead of output `j`'s edge over the second, in units of device time: COMP counts 125 ps. -/
def Mod.ppsLead (m : Mod) (j : Nat) : Int := signed 20 (m.get F.TCK_PPS_OUT_COMP [j]) * 8192

/-- An output value in range: PIN and WIDTH_US, and COMP within ±65.5 µs. -/
def ppsOk (v : Nat) : Bool :=
  bits v 1 5 < 24 && 1 ≤ bits v 6 19 && bits v 6 19 ≤ 500000

/-- Output values for all eight outputs obey R167: no pin named by two enabled ones, each on a PPS_OUT pin. (DESIGN CHOICE, log 18) -/
def Mod.ppsTableOk (m : Mod) (vs : List Nat) : Bool :=
  let pins := (vs.filter fun v => bit v 0).map fun v => bits v 1 5
  decide pins.Nodup && pins.all fun p => m.pinFunc p = some 2

/-- PPS_OUT_SET (R167). -/
def execPpsOutSet (c : Cmd) (s : State) : Host.Outcome State Fault Refusal :=
  run s fun m => m.runCmd c 0x0408 ((c.all 0x100).map fun t => .pps (leAt t.2 0 1)) fun m =>
    let ts := c.all 0x100
    let vs := (List.range 8).map fun j => match (ts.filter fun t => leAt t.2 0 1 = j).getLast? with
      | some t => leAt t.2 4 8
      | none => m.stored .TCK_PPS_OUT [j]
    match ts.find? fun t => leAt t.2 0 1 > 7 || !ppsOk (leAt t.2 4 8) with
    | some (p, _) => (m, some (badTlv p))
    | none =>
      if !m.ppsTableOk vs then (m, some (badTlv (c.pos 0x100)))
      else (ts.foldl (fun m t =>
        let j := leAt t.2 0 1
        m.setStored .TCK_PPS_OUT [j] (leAt t.2 4 8 % 2 ^ 45 + m.get F.TCK_PPS_OUT_SQUELCHED [j] * 2 ^ 45)) m, some {})

/-- PPS_OUT_RISE: output `j` at second `k` (R168); a boundary that device time has left behind gives no pulse; under SQUELCH while time is
not traceable the pin stays low (R169). -/
def execPpsOutRise (j : Fin 8) (k : Nat) (s : State) : Host.Outcome State Fault Refusal :=
  run s fun m =>
    let at_ : Int := (k * secUnit : Nat) - m.ppsLead j
    let past := decide (at_ < m.now) || (tget m.tack.ppsHigh j).isSome
    let m := if past then m else m.runTo at_.toNat
    if past || !m.flag F.TCK_PPS_OUT_ENABLE [j.val] then m
    else if m.flag F.TPL_LOSS_POLICY_PPS && !m.traceable then m.set F.TCK_PPS_OUT_SQUELCHED [j.val] 1
    else
      let m := m.set F.TCK_PPS_OUT_SQUELCHED [j.val] 0
      let stop := m.now + m.get F.TCK_PPS_OUT_WIDTH_US [j.val] * 1000 * nsUnit
      { m with tack := { m.tack with ppsHigh := tput m.tack.ppsHigh j stop } }.emit (.pps j true)

/-- PPS_OUT_FALL: WIDTH_US after its rising edge, in elapsed time, output `j` drives its pin low (R168, R169). -/
def execPpsOutFall (j : Fin 8) (s : State) : Host.Outcome State Fault Refusal :=
  run s fun m =>
    match tget m.tack.ppsHigh j with
    | some stop => { m.runTo stop with tack := { m.tack with ppsHigh := tdel m.tack.ppsHigh j } }.emit (.pps j false)
    | none => m

/-- OVEN_STABLE: the oven reaches the stability of R114 (R503). -/
def execOvenStable (s : State) : Host.Outcome State Fault Refusal :=
  run s fun m => m.set F.GLB_START_OSC_WARM [] 1

end Sys2Proof.Machine
end

