-- ==== Sys2Proof/Machine/Ports.lean ====
section
/-! DEFINITION. Port and link states (*Network ports, optical engines and Bobbins*, R474 to R478): what happens when a sub-port
changes state, light, the port commands, loop-back tests. -/

namespace Sys2Proof.Machine

/-! ### Jexdor links that change state (R478, R498) -/

/-- Drops an entry of a sub-port's queues that leaves neither by the port nor by its launch time. (DEDUCED, log 33) -/
def Mod.downDrop (m : Mod) (n k : Nat) (e : EgEntry) (link : Option Nat) (down : Bool) : Mod :=
  let m := (m.freeEntry e).dropCrossing e.id
  let m := if down then m.count F.PRT_STAT_COUNT [n, k, 18] else m
  let m := match link with
    | some l => if isCredited e.pkt.bytes then m.count F.JXL_CNT_COUNT [l, 10] else m
    | none => m
  m.sendLost e.pkt 4

/-- Drops what is queued for a sub-port: everything when it is down (R185), the credited frames of its link otherwise (R498). (DEDUCED, log 33) -/
def Mod.discardQueued (m : Mod) (n k : Nat) (down : Bool) : Mod :=
  let link := m.linkAt n k
  let goes := fun (e : EgEntry) => down || isCredited e.pkt.bytes
  let m := (List.range 8).foldl (fun m c =>
    let key := egKey (n / 12) (n % 12 * 8 + k) c
    let out := (m.egq key).filter goes
    out.foldl (fun m e => m.downDrop n k e link down) (m.putEgq key ((m.egq key).filter fun e => !goes e))) m
  let h := m.hemOf n
  let out := h.timed.filter fun x => x.sub = k && goes x.entry
  if out.isEmpty then m
  else out.foldl (fun m x => m.downDrop n k x.entry link down)
    (m.putHem n { h with timed := h.timed.filter fun x => !(x.sub = k && goes x.entry) })

/-- Link `l` goes to state `st`. Leaving UP clears both dictionaries and every credit count (R478), drops the credited frames
queued for the link (R498), is logged, ends a JEXDOR source on the link (R494) and answers slot requests that wait. With the last UP link
every path to every other module is lost (R57, R84). -/
def Mod.linkTo (m : Mod) (l st : Nat) : Mod :=
  let was := m.get F.JXL_LINK_STATUS_STATE [l]
  let x := m.linkOf l
  let m := m.set F.JXL_LINK_STATUS_STATE [l] st
  if was ≠ 3 || st = 3 then m.putLink l { x with agree := 0, helloAt := m.ns }
  else
    let y : Link := { slotFrom := x.slotFrom, slotBad := x.slotBad, peer := x.peer, session := x.session + 1, helloAt := m.ns }
    let m := (m.putLink l y).event 21 1 (regAddr .JXL_LINK_STATUS [l]) [BitVec.ofNat 8 l]
    let m := m.discardQueued (m.get F.JXL_LINK_CFG_PORT [l]) (m.get F.JXL_LINK_CFG_SUB [l]) false
    let gone := ((m.jxl.slots.filter fun q => decide (q.link = l)).map (·.cmd)).eraseDups
    let m : Mod := { m with jxl := { m.jxl with slots := m.jxl.slots.filter fun q => !gone.contains q.cmd } }
    let m := gone.foldl (fun m c => m.reply c { status := stAborted, late := true }) m
    let m := m.srcLost (srcKey 4 l) 1
    if (List.range 32).any fun k => decide (m.get F.JXL_LINK_STATUS_STATE [k] = 3) then m
    else m.pathsLost ((List.range 64).filter fun d => m.flag F.JXL_ROUTE_VALID [d])

/-- The sub-port of a link leaves UP, or comes UP (R478). (DESIGN CHOICE, log 34; DEDUCED, log 68) -/
def Mod.linkPort (m : Mod) (n k : Nat) (up : Bool) : Mod :=
  match m.linkAt n k with
  | none => m
  | some l =>
    let st := m.get F.JXL_LINK_STATUS_STATE [l]
    if up then (if st = 1 then m.linkTo l 2 else m)
    else if st = 2 || st = 3 || st = 4 then m.linkTo l 1
    else m

/-! ### Sub-port states (R184, R185) -/

/-- Lanes of a sub-port of port `n`. -/
def Mod.laneCount (m : Mod) (n : Nat) : Nat := 8 / 2 ^ m.get F.PRT_CFG_BREAKOUT [n]

/-- The lanes of sub-port `k` (R191). -/
def Mod.lanes (m : Mod) (n k : Nat) : List Nat := (List.range (m.laneCount n)).map (k * m.laneCount n + ·)

/-- The port's engine is gated. -/
def Mod.gated (m : Mod) (n : Nat) : Bool := bit (m.get F.PWR_GATE_STATUS_GATED_OE) (n / 8)

/-- The port's own state. -/
def Mod.prtOf (m : Mod) (n : Nat) : PortSt := tgetD m.prt n {}

/-- Puts it. -/
def Mod.putPrt (m : Mod) (n : Nat) (x : PortSt) : Mod := { m with prt := tput m.prt n x }

/-- What has gone out by now of the frame under way: no more than the cells that are there. (DEDUCED, log 33) -/
def Mod.sentOf (m : Mod) (n : Nat) (t : Tx) : List Byte :=
  let w := if t.entry.present < t.entry.pkt.cells then t.wire.take (256 * t.entry.present) else t.wire
  w.take ((m.now - t.start) * 25 * m.laneCount n / nsUnit)

/-- The frame under way on a sub-port is cut after the bytes `w`, with the complement of their FCS: it is not delivered. (DEDUCED, log 33) -/
def Mod.cutAt (m : Mod) (n k cause : Nat) (w : List Byte) : Mod :=
  let h := m.hsubOf n k
  match h.tx with
  | none => m
  | some t =>
    let m := (m.putHsub n k { h with tx := none }).emit (.cutFrame n k (w ++ leBytes 4 (fcsOf w ^^^ 0xFFFFFFFF)))
    ((m.freeEntry t.entry).dropCrossing t.entry.id).sendLost t.entry.pkt cause

/-- The frame under way on a sub-port is cut now. -/
def Mod.cutTx (m : Mod) (n k cause : Nat) : Mod :=
  match (m.hsubOf n k).tx with
  | none => m
  | some t => m.cutAt n k cause (m.sentOf n t)

/-- A sub-port leaves its state for `st`. Out of UP, the frames queued for it are dropped, its link follows, PTP and SyncE
sources through it are lost. -/
def Mod.subTo (m : Mod) (n k st : Nat) : Mod :=
  let was := m.subState n k
  if was = st then m
  else
    let m := m.setSub n k st
    let m := if was = 4 then
        ((m.discardQueued n k true).linkPort n k false).srcLost (srcKey 1 n) 1
      else if st = 4 then m.linkPort n k true
      else m
    if (was = 4 || st = 4 || was = 0 || st = 0) && m.ptpOn n && m.get F.TPL_PTP_PORT_SUBPORT [n] = k then
      (if was = 4 && m.tl.ptp.parent = some n then m.srcLost 0 1 else m).bmca
    else m

/-- What a sub-port goes to when it is enabled or its gate is lifted: NO_LIGHT or TRAINING as LIGHT gives. -/
def Mod.lit (m : Mod) (n : Nat) : Nat := if m.flag F.PRT_STATUS_LIGHT [n] then 3 else 2

/-- PORT_DISABLE replies for every command all of whose ports have reached their states. -/
def Mod.disableDone (m : Mod) (n : Nat) : Mod :=
  let x := m.prtOf n
  if x.closing ≠ 0 then m
  else
    let m := m.putPrt n { x with waits := [] }
    x.waits.foldl (fun m c => if m.prt.any (fun p => p.2.waits.contains c) then m else m.reply c {}) m

/-- The sub-ports of port `n` follow ENABLE and SUB_EN: a frame under way completes first (R184). (DESIGN CHOICE, log 34) -/
def Mod.portFollow (m : Mod) (n : Nat) : Mod :=
  (List.range 8).foldl (fun m k =>
    let on := m.subOn n k
    let st := m.subState n k
    if on && st = 0 then m.subTo n k (if m.gated n then 1 else m.lit n)
    else if on then
      let x := m.prtOf n
      if bit x.closing k then (m.putPrt n { x with closing := x.closing - 2 ^ k }).disableDone n else m
    else if st = 0 then m
    else if (m.hsubOf n k).tx.isSome then
      let x := m.prtOf n
      m.putPrt n { x with closing := x.closing ||| 2 ^ k }
    else m.subTo n k 0) m

/-- A sub-port whose frame has ended goes DISABLED where that waits. -/
def Mod.closeSub (m : Mod) (n k : Nat) : Mod :=
  let x := m.prtOf n
  if bit x.closing k then ((m.putPrt n { x with closing := x.closing - 2 ^ k }).subTo n k 0).disableDone n else m

/-- The power manager gates port `n`: frames under way are cut (R184, R547). -/
def Mod.gatePort (m : Mod) (n : Nat) : Mod :=
  (List.range 8).foldl (fun m k =>
    if m.subState n k = 0 then m else ((m.cutTx n k 4).subTo n k 1).closeSub n k) m

/-- The gate of port `n` is lifted. -/
def Mod.liftPort (m : Mod) (n : Nat) : Mod :=
  (List.range 8).foldl (fun m k => if m.subState n k = 1 then m.subTo n k (m.lit n) else m) m

/-! ### Light (R195) -/

/-- ROLE, FAULT and STATE of a laser and its Bobbin. -/
def Mod.laserRole (m : Mod) (b j : Nat) : Nat := m.get F.BOB_LASER_ROLE [b, j]

/-- The lasers of Bobbin `b` are driven: it is ACTIVE or DEGRADED, not gated dark, and no full calibration runs (R194, R199, R547). -/
def Mod.driven (m : Mod) (b : Nat) : Bool :=
  let st := m.get F.BOB_STATUS_STATE [b]
  let x := tgetD m.bob b {}
  (st = 3 || st = 4) && !x.dark && x.calCmd.isNone

/-- Laser `j` of Bobbin `b`, or the spare that stands in for it, delivers light. A laser in fault carries traffic on while its spare warms
(R198). -/
def Mod.delivers (m : Mod) (b j : Nat) : Bool :=
  let ok := fun (i : Nat) => !m.flag F.BOB_LASER_FAULT [b, i] || (tget (tgetD m.bob b {}).switching i).isSome
  let sp := 16 + j % 4
  m.driven b && ((m.laserRole b j = 0 && ok j) || (m.laserRole b sp = 2 && m.get F.BOB_LASER_SERVING [b, sp] = j && ok sp))

/-- Transmit lane `l` of port `n` has light. -/
def Mod.laneLit (m : Mod) (n l : Nat) : Bool :=
  m.delivers (n / 8) (4 * (n % 8 / 2) + l % 4) && !bit (m.prtOf n).txDark l

/-- Puts bit `i` of a field. -/
def Mod.putBit (m : Mod) (f : Fld) (ix : List Nat) (i : Nat) (b : Bool) : Mod :=
  let v := m.get f ix
  m.set f ix (v - b2n (bit v i) * 2 ^ i + b2n b * 2 ^ i)

/-- LIGHT, RX_SIGNAL and the states that follow light on port `n` (R184, R195). -/
def Mod.lightRefresh (m : Mod) (n : Nat) : Mod :=
  let all := (List.range 8).all (m.laneLit n)
  let rx := decide ((m.prtOf n).rxLit % 256 = 255) && !m.gated n
  let m := (m.setFlag F.PRT_STATUS_LIGHT [n] all).putBit F.OPT_STATUS_TX_LIGHT [n / 8] (n % 8) all
  let m := (m.setFlag F.PRT_STATUS_RX_SIGNAL [n] rx).putBit F.OPT_STATUS_RX_SIGNAL [n / 8] (n % 8) rx
  (List.range (m.subCount n)).foldl (fun m k =>
    let lit := (m.lanes n k).all (m.laneLit n)
    let st := m.subState n k
    if lit && st = 2 then m.subTo n k 3
    else if !lit && (st = 3 || st = 4 || st = 5 || st = 6) then ((m.cutTx n k 4).subTo n k 2).closeSub n k
    else m) m

/-- Light on every port of engine `b`. -/
def Mod.engineLight (m : Mod) (b : Nat) : Mod := (List.range 8).foldl (fun m p => m.lightRefresh (8 * b + p)) m

/-- LIGHT_LOST: transmit lanes `tx` of port `n` go dark from a cause outside the lasers; light is no longer detected on
receive lanes `rx`. (DESIGN CHOICE, log 35) -/
def execLightLost (n : Fin 96) (tx rx : Fin 256) (s : State) : Host.Outcome State Fault Refusal :=
  run s fun m =>
    let x := m.prtOf n
    (m.putPrt n { x with txDark := x.txDark ||| tx, rxLit := x.rxLit - (x.rxLit &&& rx) }).lightRefresh n

/-- LIGHT_PRESENT: light returns on transmit lanes `tx`, and is detected on receive lanes `rx`; a sub-port in NO_LIGHT with
light on all of its lanes goes to TRAINING. (DESIGN CHOICE, log 35) -/
def execLightPresent (n : Fin 96) (tx rx : Fin 256) (s : State) : Host.Outcome State Fault Refusal :=
  run s fun m =>
    let x := m.prtOf n
    (m.putPrt n { x with txDark := x.txDark - (x.txDark &&& tx), rxLit := x.rxLit ||| rx }).lightRefresh n

/-- LANE_LOCK_ACQUIRED: receive lanes `lanes` of port `n` have lock and alignment; a TRAINING sub-port all of whose lanes have
them is UP. No log has a code for the LINK_UP event: it is shown as an output. (DESIGN CHOICE, log 35) -/
def execLaneLockAcquired (n : Fin 96) (lanes : Fin 256) (s : State) : Host.Outcome State Fault Refusal :=
  run s fun m =>
    let m := m.set F.PRT_STATUS_LANE_LOCK [n] (m.get F.PRT_STATUS_LANE_LOCK [n] ||| lanes)
    let l := m.get F.PRT_STATUS_LANE_LOCK [n]
    (List.range (m.subCount n)).foldl (fun m k =>
      if m.subState n k = 3 && (m.lanes n k).all (bit l) then (m.subTo n k 4).emit (.linkUp n k) else m) m

/-- LANE_LOCK_LOST: receive lanes `lanes` lose lock or alignment; an UP sub-port on them goes to LOCAL_FAULT and sends Remote
Fault. -/
def execLaneLockLost (n : Fin 96) (lanes : Fin 256) (s : State) : Host.Outcome State Fault Refusal :=
  run s fun m =>
    let l := m.get F.PRT_STATUS_LANE_LOCK [n]
    let m := m.set F.PRT_STATUS_LANE_LOCK [n] (l - (l &&& lanes))
    (List.range (m.subCount n)).foldl (fun m k =>
      if m.subState n k = 4 && (m.lanes n k).any (bit lanes) then
        (((m.cutTx n k 4).subTo n k 5).closeSub n k |>.count F.PRT_STAT_COUNT [n, k, 22]).emit (.remoteFault n k true)
      else m) m

/-- REMOTE_FAULT_RECEIVED on an UP sub-port. -/
def execRemoteFaultReceived (n : Fin 96) (k : Fin 8) (s : State) : Host.Outcome State Fault Refusal :=
  run s fun m =>
    if m.subState n k ≠ 4 then m
    else (((m.cutTx n k 4).subTo n k 6).closeSub n k).count F.PRT_STAT_COUNT [n, k, 22]

/-- FAULT_CLEAR: the fault of a sub-port has been clear for 10 ms; in LOCAL_FAULT its lanes have lock. -/
def execFaultClear (n : Fin 96) (k : Fin 8) (s : State) : Host.Outcome State Fault Refusal :=
  run s fun m =>
    let st := m.subState n k
    let locked := (m.lanes n k).all (bit (m.get F.PRT_STATUS_LANE_LOCK [n]))
    if st = 5 && locked then (m.subTo n k 4).emit (.remoteFault n k false)
    else if st = 6 then m.subTo n k 4
    else m

/-- TRAINING_TIMEOUT: no alignment within 500 ms: training starts again, and the lanes of the sub-port lose what lock they had. (DESIGN CHOICE, log 35) -/
def execTrainingTimeout (n : Fin 96) (k : Fin 8) (s : State) : Host.Outcome State Fault Refusal :=
  run s fun m =>
    if m.subState n k ≠ 3 then m
    else (m.lanes n k).foldl (fun m l => m.putBit F.PRT_STATUS_LANE_LOCK [n] l false) m

/-! ### Port configuration (R182, R183, R186, R188) -/

/-- MAX_FRAME is in its range. -/
def maxFrameOk (v : Nat) : Bool := 1518 ≤ bits v 11 14 && bits v 11 14 ≤ 9600

/-- A PRT_CT_CFG value has no reserved encoding (R188). -/
def ctOk (v : Nat) : Bool :=
  let b := bits v 1 6
  let st := bits v 7 6
  let mx := bits v 13 6
  1 ≤ b && b ≤ 38 && 1 ≤ st && st ≤ 38 && b ≤ mx && mx ≤ 38 && 1 ≤ bits v 19 13

/-- Applies SUB_EN, MAX_FRAME and PFC_EN of a PRT_CFG value. On a port with Jexdor links, changes of MAX_FRAME below 8,240 and of
PFC_EN from zero are ignored and logged (R474); `wide` tells the width of the access. -/
def Mod.prtApply (m : Mod) (mid n v : Nat) (wide : Bool := true) : Mod :=
  let linked := !(m.linksOn n).isEmpty
  let badMax := linked && bits v 11 14 ≠ m.get F.PRT_CFG_MAX_FRAME [n]
  let badPfc := linked && bits v 25 8 ≠ m.get F.PRT_CFG_PFC_EN [n]
  let m := if badMax || badPfc then m.refuse mid (regAddr .PRT_CFG [n]) true wide 3 else m
  let m := m.set F.PRT_CFG_SUB_EN [n] (bits v 3 8)
  let m := if badMax then m else m.set F.PRT_CFG_MAX_FRAME [n] (bits v 11 14)
  let m := if badPfc then m else m.set F.PRT_CFG_PFC_EN [n] (bits v 25 8)
  m.portFollow n

/-- Applies a PRT_CT_CFG value; a change of BASE sets THRESH (R188). -/
def Mod.ctApply (m : Mod) (n v : Nat) : Mod :=
  let old := m.get F.PRT_CT_CFG_BASE [n]
  let m := m.setStored .PRT_CT_CFG [n] v
  if bits v 1 6 = old then m else m.set F.PRT_CT_STATUS_THRESH [n] (bits v 1 6)

/-- A manager's write of PRT_CFG by register (R182): a changed BREAKOUT is refused; a reserved MAX_FRAME leaves the field. (DESIGN CHOICE, log 34) -/
def Mod.prtWrite (m : Mod) (mid n v : Nat) (wide : Bool) : Mod :=
  if !m.isManager mid then m.refuse mid (regAddr .PRT_CFG [n]) true wide 3
  else
    let m := if bits v 1 2 ≠ m.get F.PRT_CFG_BREAKOUT [n] then m.refuse mid (regAddr .PRT_CFG [n]) true wide 3 else m
    let v := if maxFrameOk v then v else v - bits v 11 14 * 2 ^ 11 + m.get F.PRT_CFG_MAX_FRAME [n] * 2 ^ 11
    (m.set F.PRT_CFG_ENABLE [n] (v % 2)).prtApply mid n v wide

/-- A manager's write of PRT_CT_CFG by register; `v` has a reserved value in no field. -/
def Mod.ctWrite (m : Mod) (mid n v : Nat) : Mod :=
  if !m.isManager mid then m.refuse mid (regAddr .PRT_CT_CFG [n]) true false 3 else m.ctApply n v

/-- PORT_CONFIG (R183): the last TLV of a port wins. (DESIGN CHOICE, log 34) -/
def execPortConfig (c : Cmd) (s : State) : Host.Outcome State Fault Refusal :=
  run s fun m => m.runCmd c 0x0601 ((c.all 0x100 ++ c.all 0x101).map fun t => .port (leAt t.2 0 1)) fun m =>
    let bad := ((c.all 0x100).find? fun t => leAt t.2 0 1 > 95 || !maxFrameOk (leAt t.2 4 8)).or
      ((c.all 0x101).find? fun t => leAt t.2 0 1 > 95 || !ctOk (leAt t.2 4 4))
    match bad with
    | some (p, _) => (m, some (badTlv p))
    | none =>
      let m := (c.all 0x100).foldl (fun m t => m.prtApply c.mid (leAt t.2 0 1) (leAt t.2 4 8)) m
      let m := (c.all 0x101).foldl (fun m t => m.ctApply (leAt t.2 0 1) (leAt t.2 4 4)) m
      (m, some {})

/-- The ports that a PORTS mask names. -/
def maskPorts (c : Cmd) : List Nat := (List.range 96).filter fun n => bit (leAt (c.val 0x100) 0 12) n

/-- PORT_ENABLE (R183, R184). -/
def execPortEnable (c : Cmd) (s : State) : Host.Outcome State Fault Refusal :=
  run s fun m => m.runCmd c 0x0602 ((maskPorts c).map .port) fun m =>
    ((maskPorts c).foldl (fun m n => (m.set F.PRT_CFG_ENABLE [n] 1).portFollow n) m, some {})

/-- PORT_DISABLE (R183, R184): the reply waits for frames under way. -/
def execPortDisable (c : Cmd) (s : State) : Host.Outcome State Fault Refusal :=
  let c := { c with opcode := 0x0603 }
  run s fun m => m.runCmd c 0x0603 ((maskPorts c).map .port) fun m =>
    let m := (maskPorts c).foldl (fun m n => (m.set F.PRT_CFG_ENABLE [n] 0).portFollow n) m
    let open_ := (maskPorts c).filter fun n => (m.prtOf n).closing ≠ 0
    let m := open_.foldl (fun m n => let x := m.prtOf n; m.putPrt n { x with waits := x.waits ++ [c] }) m
    (m, if open_.isEmpty then some {} else none)

/-- PORT_STATUS (R183). -/
def execPortStatus (c : Cmd) (s : State) : Host.Outcome State Fault Refusal :=
  run s fun m => m.query c 0x0604 fun m =>
    m.inLimit c (okWith [tlv 0x101 ((maskPorts c).flatMap fun n => leBytes 8 n ++ leBytes 8 (m.view .PRT_STATUS [n]))])

/-- PORT_STATS_READ (R183, R190): CLEAR clears each counter as it is read. -/
def execPortStatsRead (c : Cmd) (s : State) : Host.Outcome State Fault Refusal :=
  run s fun m => m.runCmd c 0x0605 [] fun m =>
    let v := c.val 0x100
    let n := leAt v 0 1
    let k := leAt v 1 1
    if n > 95 || k > 7 then (m, some c.bad)
    else
      let bs := (List.range 32).flatMap fun i => leBytes 8 (m.get F.PRT_STAT_COUNT [n, k, i])
      (if bit (leAt v 2 1) 0 then m.resetReg .PRT_STAT [n, k] else m, some (m.inLimit c (okWith [tlv 0x101 bs])))

/-- BREAKOUT_SET (R186). -/
def execBreakoutSet (c : Cmd) (s : State) : Host.Outcome State Fault Refusal :=
  run s fun m => m.runCmd c 0x0606 [.port (leAt (c.val 0x100) 0 1)] fun m =>
    let n := leAt (c.val 0x100) 0 1
    let code := leAt (c.val 0x100) 1 1
    if n > 95 || code > 3 then (m, some c.bad)
    else if m.flag F.PRT_CFG_ENABLE [n] then (m, some (c.bad 1))
    else if m.flag F.TPL_PTP_PORT_ENABLE [n] && decide (2 ^ code ≤ m.get F.TPL_PTP_PORT_SUBPORT [n]) then (m, some (c.bad 2))
    else (((m.set F.PRT_CFG_BREAKOUT [n] code).resetReg .PRT_STAT [n]).lightRefresh n, some {})

/-! ### Transmit underrun (R188) -/

/-- TRANSMIT_UNDERRUN: the egress elastic buffer empties before the end of a host frame whose cells are not all there. -/
def execTransmitUnderrun (n : Fin 96) (k : Fin 8) (s : State) : Host.Outcome State Fault Refusal :=
  run s fun m =>
    match (m.hsubOf n k).tx with
    | none => m
    | some t =>
      if t.entry.pkt.cells ≤ t.entry.present then m
      else
        let isOver := t.guard
        let m := ((m.cutAt n k 3 (t.wire.take (256 * t.entry.present))).count F.PRT_STAT_COUNT [n, k, 17]).count F.HEM_CNT_COUNT (portIx n ++ [k.val, 6]) (b2n isOver)
        let th := m.get F.PRT_CT_STATUS_THRESH [n]
        let up := min (th + m.get F.PRT_CT_CFG_STEP [n]) (m.get F.PRT_CT_CFG_MAX [n])
        let m := if th < up then (m.set F.PRT_CT_STATUS_THRESH [n] up).countSat F.PRT_CT_STATUS_RAISES [n] else m
        (m.putPrt n { m.prtOf n with quietAt := m.ns }).closeSub n k

/-- THRESH_DECAY: DECAY_S seconds have passed on port `n` without an underrun or a decay. -/
def execThreshDecay (n : Fin 96) (s : State) : Host.Outcome State Fault Refusal :=
  run s fun m =>
    let x := m.prtOf n
    let m := m.runToNs (x.quietAt + m.get F.PRT_CT_CFG_DECAY_S [n] * 1000000000)
    let th := m.get F.PRT_CT_STATUS_THRESH [n]
    let base := m.get F.PRT_CT_CFG_BASE [n]
    (m.set F.PRT_CT_STATUS_THRESH [n] (if th < base then th else max base (th - m.get F.PRT_CT_CFG_STEP [n]))).putPrt n
      { x with quietAt := m.ns }

/-! ### Loop-back tests (R70) -/

/-- The start of a loop-back test of kind `kind`; another KIND is another row's. -/
def Mod.loopStart (m : Mod) (c : Cmd) (kind : Nat) : Mod :=
  let v := c.val 0x100
  let k := leAt v 0 1
  let n := leAt v 1 1
  let sub := leAt v 2 1
  let dur := leAt v 4 4
  let count := leAt v 8 4
  let len := leAt v 12 2
  let c := { c with opcode := 0x0907 }
  if !(c.tlv 0x100).isNone && k ≠ kind && k ≤ 2 then m
  else m.runCmd c 0x0907 [if kind = 2 then .endpoint n else .port n] fun m =>
    let wrong := k > 2 || (kind < 2 && (n > 95 || m.subCount n ≤ sub || dur = 0 || dur > 60000)) ||
      (kind = 0 && (len < 64 || m.get F.PRT_CFG_MAX_FRAME [n] < len)) ||
      (kind = 2 && (n > 31 || count = 0 || count > 65536 || len < 64))
    if wrong then (m, some c.bad)
    else if kind < 2 then
      let st := m.subState n sub
      if st ≠ 3 && st ≠ 4 then (m, some (c.bad 1))
      else
        let m := ((m.cutTx n sub 4).subTo n sub 7).closeSub n sub
        let t : LoopTest := { cmd := c, kind := kind, port := n, sub := sub, since := m.ns, dur := dur, count := count }
        let m := { m with cut := { m.cut with loops := m.cut.loops ++ [t] } }
        (if kind = 0 then m.emit (.loopFrame n sub count len) else m, none)
    else
      let mine := match m.midFn m.managerMid with | some f => f.vf.isNone && f.ep = n | none => false
      if !mine || m.get F.SEL_FREEZE_EP_STATE (epIx n) ≠ 0 then (m, some (c.bad 2))
      else
        let t : LoopTest := { cmd := c, kind := 2, port := n, sub := 0, since := m.ns, count := count, src := leAt v 16 8, dst := leAt v 24 8, len := len, left := count }
        let m := { m with cut := { m.cut with loops := m.cut.loops ++ [t] } }
        (m.hostRead (pf n) t.src len none .loopback, none)

/-- PORT_LOCAL. -/
def execPortLocal (c : Cmd) (s : State) : Host.Outcome State Fault Refusal := run s fun m => m.loopStart c 0

/-- PORT_REMOTE. -/
def execPortRemote (c : Cmd) (s : State) : Host.Outcome State Fault Refusal := run s fun m => m.loopStart c 1

/-- HOST_DMA. -/
def execHostDma (c : Cmd) (s : State) : Host.Outcome State Fault Refusal := run s fun m => m.loopStart c 2

/-- The RESULT of a test: fields that its kind does not have are zero. Counts and latencies are measured; those of host memory
the module counted itself. -/
def LoopTest.result (t : LoopTest) (r : LoopResult) : List Byte :=
  let x := if t.kind = 2 then { r with sent := t.good + t.bad, good := t.good, bad := t.bad } else r
  let f := t.kind ≠ 1
  leBytes 8 (if f then x.sent else 0) ++ leBytes 8 (if f then x.good else 0) ++ leBytes 8 (if f then x.bad else 0) ++
    leBytes 8 (if t.kind = 2 then 0 else x.corrected) ++ leBytes 8 (if t.kind = 2 then 0 else x.uncorrected) ++
    leBytes 4 (if f then x.least else 0) ++ leBytes 4 (if f then x.greatest else 0)

/-- A test ends: a looped sub-port returns to TRAINING, and the command replies. -/
def Mod.loopEnd (m : Mod) (t : LoopTest) (st : Nat) (r : LoopResult) : Mod :=
  let m := { m with cut := { m.cut with loops := m.cut.loops.filter (·.cmd ≠ t.cmd) } }
  let m := if t.kind < 2 && m.subState t.port t.sub = 7 then (m.subTo t.port t.sub 3).lightRefresh t.port else m
  m.reply t.cmd { status := st, late := true, tlvs := [tlv 0x101 (t.result r)] }

/-- The frames that a PORT_LOCAL test has sent by `ns`: COUNT of them spread evenly over DURATION_MS, the first at once. (DESIGN CHOICE,
log 82) -/
def LoopTest.sentBy (t : LoopTest) (ns : Nat) : Nat := min t.count ((ns - t.since) * t.count / (t.dur * 1000000) + 1)

/-- What a test that is cancelled has reached (R70). The transfers of a HOST_DMA test are counted as they end, the frames sent follow from
the time; what was received, the FEC codewords and the latencies are free values. (DESIGN CHOICE, log 82) -/
def Mod.loopReached (m : Mod) (t : LoopTest) : LoopResult × Mod :=
  let sent := if t.kind = 2 then t.good + t.bad else if t.kind = 0 then t.sentBy m.ns else 0
  let (good, m) := m.draw (sent + 1)
  let (bad, m) := m.draw (sent - good + 1)
  let (fixed, m) := m.draw (2 ^ 64)
  let (lost, m) := m.draw (2 ^ 64)
  let (most, m) := m.draw (2 ^ 32)
  let (least, m) := m.draw (most + 1)
  ({ sent := sent, good := good, bad := bad, corrected := fixed, uncorrected := lost, least := least, greatest := most }, m)

/-- DIAG_LOOPBACK_END: the oldest test on the port (or endpoint) named ends at DURATION_MS, or after COUNT transfers. -/
def execDiagLoopbackEnd (host : Bool) (n : Fin 96) (r : LoopResult) (s : State) : Host.Outcome State Fault Refusal :=
  run s fun m =>
    match m.cut.loops.find? fun t => (t.kind = 2) = host && t.port = n.val with
    | some t =>
      if t.kind = 2 then (if t.left ≠ 0 then m else m.loopEnd t stOk r)
      else (m.runToNs (t.since + t.dur * 1000000)).loopEnd t stOk r
    | none => m

end Sys2Proof.Machine
end

