-- ==== Sys2Proof/Machine/Bobbins.lean ====
section
/-! DEFINITION. *Optical engines* and *Bobbins* of *Network ports, optical engines and Bobbins*: calibration, slot states, life
prediction, spare switching. -/

namespace Sys2Proof.Machine

/-- A Bobbin slot. -/
def Mod.bobOf (m : Mod) (b : Nat) : BobbinSt := tgetD m.bob b {}

/-- Puts it. -/
def Mod.putBob (m : Mod) (b : Nat) (x : BobbinSt) : Mod := { m with bob := tput m.bob b x }

/-- STATE of a Bobbin (R199): 0 ABSENT, 1 IDENTIFYING, 2 WARMING, 3 ACTIVE, 4 DEGRADED, 5 PREPARED, 6 FAILED. -/
def Mod.bobState (m : Mod) (b : Nat) : Nat := m.get F.BOB_STATUS_STATE [b]

/-- The spare of laser `j`. -/
def spareOf (j : Nat) : Nat := 16 + j % 4

/-- LASER_OK, SPARE_USED and WORST_REMAIN_H of a Bobbin from its lasers. -/
def Mod.bobStatus (m : Mod) (b : Nat) : Mod :=
  let on := m.driven b
  let ok := (List.range 20).filter fun j =>
    let r := m.laserRole b j
    on && !m.flag F.BOB_LASER_FAULT [b, j] && r ≠ 3
  let used := (List.range 4).filter fun w => m.laserRole b (16 + w) = 2
  let worst := ((List.range 16).filter fun j => m.laserRole b j = 0).foldl (fun a j => min a (m.get F.BOB_LASER_REMAIN_H [b, j])) 0xFFFF
  ((m.set F.BOB_STATUS_LASER_OK [b] (bitSum ok)).set F.BOB_STATUS_SPARE_USED [b] (bitSum used)).set F.BOB_STATUS_WORST_REMAIN_H [b] worst

/-- WARN of Bobbin `b` (R197): an active laser is near the end of its life; an event each time the flag is set. -/
def Mod.bobWarn (m : Mod) (b : Nat) : Mod :=
  let lim := m.get F.BOB_POLICY_WARN_H
  let known := 2 ≤ m.bobState b && m.bobState b ≤ 5
  let warn := known && (List.range 16).any fun i => m.laserRole b i = 0 &&
    (decide (m.get F.BOB_LASER_REMAIN_H [b, i] < lim) || decide (80000 < m.get F.BOB_LASER_EQ_HOURS [b, i] + lim))
  let had := m.flag F.BOB_STATUS_WARN [b]
  if warn = had then m
  else
    let m := m.setFlag F.BOB_STATUS_WARN [b] warn
    if warn then m.event 19 1 (regAddr .BOB_STATUS [b]) [BitVec.ofNat 8 b] else m

/-- A write of BOB_POLICY (R200): WARN of every Bobbin follows WARN_H (R197). -/
def Mod.bobPolicy (m : Mod) (v : Nat) : Mod := (List.range 12).foldl (fun m b => m.bobWarn b) (m.setStored .BOB_POLICY [] v)

/-- A laser of an ACTIVE Bobbin is dark and its spare does not stand by: DEGRADED, logged (R198, R199). -/
def Mod.bobDegrade (m : Mod) (b : Nat) : Mod :=
  let dark := (List.range 16).filter fun j => !m.delivers b j && m.laserRole b (spareOf j) ≠ 1 && (tget (m.bobOf b).switching j).isNone
  if m.bobState b = 3 && m.driven b && !dark.isEmpty then
    (m.set F.BOB_STATUS_STATE [b] 4).error 6 2 (regAddr .BOB_STATUS [b]) (dark.map (BitVec.ofNat 8 ·))
  else m

/-- Everything that hangs on the lasers of Bobbin `b` follows. -/
def Mod.bobFollow (m : Mod) (b : Nat) : Mod := (((m.bobDegrade b).bobStatus b).bobWarn b).engineLight b

/-! ### What goes to Chalk (R193) -/

/-- A write waits for a CAL stitch of Chalk (R102, R193). -/
def Mod.chalkPut (m : Mod) (w : ChalkWrite) : Mod := { m with wheel := { m.wheel with chalkq := m.wheel.chalkq ++ [w] } }

/-- The hours of a Bobbin's lasers reach its record (R197). -/
def Mod.hoursKept (m : Mod) (serial : List Byte) (eq : List Nat) : Mod :=
  { m with chalk := { m.chalk with bobbins := m.chalk.bobbins.map fun (r : BobbinRec) =>
    if r.serial = serial then { r with hours := (eq.mapIdx fun j h => (j, h)).filter (·.2 ≠ 0) } else r } }

/-- A calibration's results reach the calibration store (R193). -/
def Mod.calibKept (m : Mod) (serial : List Byte) (bias : List Nat) : Mod :=
  { m with chalk := { m.chalk with calib := ⟨serial, bias⟩ :: m.chalk.calib.filter fun (r : CalibRec) => decide (r.serial ≠ serial) } }

/-- A calibration of engine `k` has passed: its results wait to be written. -/
def Mod.calibDone (m : Mod) (k : Nat) : Mod :=
  m.chalkPut (.calib (m.bobOf k).serial ((List.range 20).map fun j => m.get F.BOB_LASER_BIAS [k, j]))

/-- The module's own full calibration of a Bobbin that warms (R194); one seated at the start passes on what the store holds (R504). It runs
from the beginning of WARMING. (DESIGN CHOICE, log 36) -/
def Mod.bobStored (m : Mod) (k : Nat) : Bool :=
  (m.bobOf k).seated && m.chalk.calib.any fun (r : CalibRec) => decide (r.serial = (m.bobOf k).serial)

/-! ### Slot states (R199) -/

/-- BOBBIN_PRESENCE_GAINED: the identity block is read over the bus where it can be reached. -/
def execBobbinPresenceGained (k : Fin 12) (s : State) : Host.Outcome State Fault Refusal :=
  run s fun m =>
    if m.bobState k ≠ 0 then m
    else
      let m := (m.set F.BOB_STATUS_STATE [k.val] 1).putBob k { m.bobOf k with seated := decide (m.phase ≠ 5) }
      if m.i3cUp then m.emit (.i3cRead k) else m

/-- BOBBIN_PRESENCE_LOST: the drive is cut; a removal that was not prepared is marked and logged; a calibration that runs and a
switch under way end. (DESIGN CHOICE, log 36) -/
def execBobbinPresenceLost (k : Fin 12) (s : State) : Host.Outcome State Fault Refusal :=
  run s fun m =>
    if m.bobState k = 0 then m
    else
      let x := m.bobOf k
      let un := m.bobState k ≠ 5
      let m := (m.emit (.laser k false)).set F.BOB_STATUS_STATE [k.val] 0
      let m := if un then (m.set F.BOB_STATUS_UNPREPARED_REMOVAL [k.val] 1).error 6 1 (regAddr .BOB_STATUS [k.val]) [BitVec.ofNat 8 k]
        else m
      let m := m.putBob k {}
      let m := if m.get F.OPT_STATUS_CAL [k.val] = 1 then m.set F.OPT_STATUS_CAL [k.val] 0 else m
      let m := (m.resetReg .BOB_LASER [k.val]).bobFollow k
      let cs := x.calCmd.toList ++ x.switching.filterMap (·.2) ++ x.prepare.toList
      cs.foldl (fun m c => m.reply c { status := stAborted, late := true }) m

/-- The image lists a part number among those of its BOBBINS sections (R196, R519). -/
def Mod.partListed (m : Mod) (p : List Byte) : Bool :=
  (sections m.img.file).any fun x => decide (x.typ = 8) && (List.range (x.len / 16)).any fun i => decide (slice m.img.file (x.off + 16 * i) 16 = slice p 0 16)

/-- BOBBIN_IDENTIFIED: the block is accepted or rejected (R196); a laser takes the greater of its own record and the Bobbin's hours
field (R197), and lasers retired in this Bobbin stay retired (R198). -/
def execBobbinIdentified (k : Fin 12) (x : BobbinIdent) (s : State) : Host.Outcome State Fault Refusal :=
  run s fun m =>
    if m.bobState k ≠ 1 then m
    else
      let m := m.putBob k { m.bobOf k with ident := slice x.block 0 128, serial := slice x.serial 0 16 }
      if !x.ok || !m.partListed x.part then (m.set F.BOB_STATUS_STATE [k.val] 6).bobFollow k
      else
        let rec_ := (m.chalk.bobbins.find? fun (r : BobbinRec) => decide (r.serial = slice x.serial 0 16)).getD { serial := slice x.serial 0 16 }
        let m := (List.range 20).foldl (fun m j =>
          let role := if rec_.retired.contains j then 3 else if j < 16 then 0
            else if rec_.retired.any (fun r => spareOf r = j) then 2 else 1
          let serving := ((rec_.retired.find? fun r => spareOf r = j).getD 0)
          let hours := max (tgetD rec_.hours j 0) (x.hours.getD j 0)
          ((((m.set F.BOB_LASER_BOL_BIAS [k.val, j] (x.bol.getD j 0)).set F.BOB_LASER_EQ_HOURS [k.val, j] (min hours 131071)).set
            F.BOB_LASER_ROLE [k.val, j] role).set F.BOB_LASER_SERVING [k.val, j] (if role = 2 then serving else 0))) m
        let others := m.chalk.bobbins.filter fun r => decide (r.serial ≠ rec_.serial)
        let m := { m with chalk := { m.chalk with bobbins := (rec_ :: others).take 128 } }
        let m := m.set F.OPT_STATUS_CAL [k.val] (if m.bobStored k then 0 else 1)
        ((m.set F.BOB_STATUS_STATE [k.val] 2).emit (.laser k true)).bobFollow k

/-- BOBBIN_IDENTIFY_TIMEOUT: the bus was unavailable for 50 ms while the identity was to be read (R560). -/
def execBobbinIdentifyTimeout (k : Fin 12) (s : State) : Host.Outcome State Fault Refusal :=
  run s fun m =>
    if m.bobState k = 1 && !m.i3cUp then (m.set F.BOB_STATUS_STATE [k.val] 6).bobFollow k else m

/-- BOBBIN_WARMED: the lasers are at power and wavelength with the biases given. In WARMING the full calibration passes or fails;
the first one records BOL_BIAS where the block has none. In ACTIVE and DEGRADED the light returns after a gate (R547). -/
def execBobbinWarmed (k : Fin 12) (bias : List Nat) (pass : Bool) (s : State) : Host.Outcome State Fault Refusal :=
  run s fun m =>
    let st := m.bobState k
    if st = 2 then
      let m := (List.range 20).foldl (fun m j =>
        let b := bias.getD j 0
        let m := m.set F.BOB_LASER_BIAS [k.val, j] b
        if m.get F.BOB_LASER_BOL_BIAS [k.val, j] = 0 then m.set F.BOB_LASER_BOL_BIAS [k.val, j] b else m) m
      if pass || m.bobStored k then
        (((m.calibDone k).set F.BOB_STATUS_STATE [k.val] 3).set F.OPT_STATUS_CAL [k.val] 0).bobFollow k
      else
        let m := (m.set F.BOB_STATUS_STATE [k.val] 6).set F.OPT_STATUS_CAL [k.val] 2
        ((m.error 6 3 (regAddr .OPT_STATUS [k.val]) [BitVec.ofNat 8 k]).emit (.laser k false)).bobFollow k
    else if (st = 3 || st = 4) && !bit (m.get F.PWR_GATE_STATUS_GATED_OE) k then
      (m.putBob k { m.bobOf k with dark := false }).bobFollow k
    else m

/-! ### The servo, faults and spares (R193, R198) -/

/-- The hours of Bobbin `k`'s lasers go to its own hours fields (R196). -/
def Mod.hoursOut (m : Mod) (k : Nat) : Mod :=
  (List.range 20).foldl (fun m j => m.emit (.i3cHours k j (m.get F.BOB_LASER_EQ_HOURS [k, j]))) (m.putBob k { m.bobOf k with due := false })

/-- 2^((t − 45) / 10) in units of 2^-32, from tenth roots of 2 rounded to whole units (R197). (DESIGN CHOICE, log 36) -/
def ageRate (t : Nat) : Nat :=
  ([4294967296, 4603231970, 4933621868, 5287724992, 5667243324, 6074001000, 6509953083, 6977194957, 7477972398, 8014692369].getD ((t + 5) % 10) 0) *
    2 ^ ((t + 5) / 10) / 32

/-- An equivalent hour in the units in which lasers age: 3,600,000 ms at 45 °C (R197). -/
def eqHour : Nat := 3600000 * 2 ^ 32

/-- One millisecond ages the lasers that run, the active ones and the spares in use, at Bobbin temperature `t` (R197). (DESIGN CHOICE, log 36) -/
def Mod.bobAge (m : Mod) (k t : Nat) : Mod :=
  let on := (List.range 20).filter fun j => m.laserRole k j = 0 || m.laserRole k j = 2
  let x := m.bobOf k
  m.putBob k { x with aged := on.foldl (fun a j => tput a j (tgetD a j 0 + ageRate t)) x.aged }

/-- A switch to the spare of laser `j` begins: the spare warms while the old laser carries traffic. (DESIGN CHOICE, log 36) -/
def Mod.spareBegin (m : Mod) (k j : Nat) (c : Option Cmd) : Mod :=
  let x := m.bobOf k
  m.putBob k { x with switching := tput x.switching j c }

/-- The spare of laser `j` stands by, and no switch to it is under way. -/
def Mod.spareFree (m : Mod) (k j : Nat) : Bool :=
  m.laserRole k (spareOf j) = 1 && !(m.bobOf k).switching.any fun w => spareOf w.1 = spareOf j

/-- LASER_SERVO (R193): biases, temperatures and the lasers that cannot hold their power. Under AUTO_SPARE an active laser at its
end-of-life bias, or in fault, is switched to its spare (R198). Hours that wait go out when the bus is back (R560). (DESIGN CHOICE, log 35) -/
def execLaserServo (k : Fin 12) (bias : List Nat) (fault : Fin 1048576) (temp engine : Fin 256) (s : State) :
    Host.Outcome State Fault Refusal :=
  run s fun m =>
    let m := (m.set F.BOB_STATUS_TEMP [k.val] temp).set F.OPT_STATUS_TEMP [k.val] engine
    let m := if (m.bobOf k).due && m.i3cUp then m.hoursOut k else m
    if !m.driven k then m
    else
      let m := m.bobAge k temp
      let m := (List.range 20).foldl (fun m j =>
        let m := (m.set F.BOB_LASER_BIAS [k.val, j] (bias.getD j 0)).setFlag F.BOB_LASER_FAULT [k.val, j] (bit fault j)
        m.emit (.bias k j (bias.getD j 0))) m
      let m := (List.range 16).foldl (fun m j =>
        let eol := decide (m.get F.BOB_LASER_BOL_BIAS [k.val, j] * m.get F.BOB_POLICY_EOL_PCT ≤ 100 * m.get F.BOB_LASER_BIAS [k.val, j])
        if m.laserRole k j = 0 && m.flag F.BOB_POLICY_AUTO_SPARE && (eol || bit fault j) && m.spareFree k j
        then m.spareBegin k j none else m) m
      m.bobFollow k

/-- Removal is prepared: the lasers ramp off and the eight ports go to NO_LIGHT (R199). -/
def Mod.bobPrepare (m : Mod) (k : Nat) : Mod := ((m.set F.BOB_STATUS_STATE [k] 5).emit (.laser k false)).bobFollow k

/-- SPARE_SWITCH_DONE: the light path of laser `j` moves to its spare and the laser is retired; a prepare that waited goes on. -/
def execSpareSwitchDone (k : Fin 12) (j : Fin 16) (s : State) : Host.Outcome State Fault Refusal :=
  run s fun m =>
    let x := m.bobOf k
    match tget x.switching j with
    | none => m
    | some c =>
      let sp := spareOf j
      let m := m.putBob k { x with switching := tdel x.switching j }
      let m := ((m.set F.BOB_LASER_ROLE [k.val, j.val] 3).set F.BOB_LASER_ROLE [k.val, sp] 2).set F.BOB_LASER_SERVING [k.val, sp] j
      let m := { m with chalk := { m.chalk with bobbins := m.chalk.bobbins.map fun (r : BobbinRec) =>
        if r.serial = x.serial then { r with retired := j.val :: r.retired } else r } }
      let m := m.bobFollow k
      let m := match c with | some c => m.reply c {} | none => m
      let x := m.bobOf k
      match x.prepare with
      | some c => if x.switching.isEmpty then ((m.putBob k { x with prepare := none }).bobPrepare k).reply c {} else m
      | none => m

/-! ### Hours and life (R196, R197) -/

/-- BOBBIN_HOURS_WRITE: each hour the hours go to the record in Chalk, and to the Bobbin once the bus reaches it (R560). -/
def execBobbinHoursWrite (k : Fin 12) (s : State) : Host.Outcome State Fault Refusal :=
  run s fun m =>
    let st := m.bobState k
    if st < 2 || st = 6 then m
    else
      let m := m.chalkPut (.hours (m.bobOf k).serial ((List.range 20).map fun j => m.get F.BOB_LASER_EQ_HOURS [k.val, j]))
      if m.i3cUp then m.hoursOut k else m.putBob k { m.bobOf k with due := true }

/-- REMAIN_H of a laser (R197): over its points of equivalent hours and bias (0.1 mA), the least-squares slope. (DESIGN CHOICE, log 36) -/
def remainHours (bol pct bias eq : Nat) (pts : List (Nat × Nat)) : Nat :=
  let n : Int := pts.length
  let sx : Int := (pts.map fun p => (p.1 : Int)).foldl (· + ·) 0
  let sy : Int := (pts.map fun p => (p.2 : Int)).foldl (· + ·) 0
  let sxy : Int := (pts.map fun p => (p.1 : Int) * p.2).foldl (· + ·) 0
  let sxx : Int := (pts.map fun p => (p.1 : Int) * p.1).foldl (· + ·) 0
  let num := n * sxy - sx * sy
  let den := n * sxx - sx * sx
  if eq < 1000 || num ≤ 0 || den ≤ 0 then 0xFFFF
  else min 0xFFFE ((((bol * pct : Nat) : Int) - (100 * bias : Nat)) * den / (100 * num)).toNat

/-- LIFE_PREDICTION: laser `j` has aged one more equivalent hour: the prediction and WARN (R197). -/
def execLifePrediction (k : Fin 12) (j : Fin 20) (s : State) : Host.Outcome State Fault Refusal :=
  run s fun m =>
    let ix := [k.val, j.val]
    let x := m.bobOf k
    if tgetD x.aged j 0 < eqHour then m
    else
      let eq := min 131071 (m.get F.BOB_LASER_EQ_HOURS ix + 1)
      let bias := m.get F.BOB_LASER_BIAS ix
      let m := m.set F.BOB_LASER_EQ_HOURS ix eq
      let pts := ((eq, bias) :: tgetD x.history j []).filter fun p => decide (eq < p.1 + 1000)
      let m := m.putBob k { x with history := tput x.history j pts, aged := tput x.aged j (tgetD x.aged j 0 - eqHour) }
      let m := m.set F.BOB_LASER_REMAIN_H ix
        (remainHours (m.get F.BOB_LASER_BOL_BIAS ix) (m.get F.BOB_POLICY_EOL_PCT) bias eq pts)
      (m.bobStatus k).bobWarn k

/-! ### Commands (R194, R198 to R200) -/

/-- OPT_CALIBRATE (R194): MODE 0 re-measures and replies; MODE 1 takes the engine's ports to NO_LIGHT until it is done. (DESIGN CHOICE, log 36) -/
def execOptCalibrate (c : Cmd) (s : State) : Host.Outcome State Fault Refusal :=
  let c := { c with opcode := 0x0607 }
  run s fun m => m.runCmd c 0x0607 [.oe (leAt (c.val 0x100) 0 1)] fun m =>
    let e := leAt (c.val 0x100) 0 1
    let mode := leAt (c.val 0x100) 1 1
    if e > 11 || mode > 1 then (m, some c.bad)
    else if mode = 0 then ((if m.driven e then m.calibDone e else m), some {})
    else (((m.set F.OPT_STATUS_CAL [e] 1).putBob e { m.bobOf e with calCmd := some c }).bobFollow e, none)

/-- FULL_CALIBRATION_DONE (R194): the ports return to TRAINING; a failure is logged, and the old calibration stays. The command is answered
OK in both cases, CAL tells them apart. (DESIGN CHOICE, log 36) -/
def execFullCalibrationDone (k : Fin 12) (pass : Bool) (s : State) : Host.Outcome State Fault Refusal :=
  run s fun m =>
    match (m.bobOf k).calCmd with
    | none => m
    | some c =>
      let m := (m.set F.OPT_STATUS_CAL [k.val] (if pass then 0 else 2)).putBob k { m.bobOf k with calCmd := none }
      let m := if pass then m.calibDone k else m.error 6 3 (regAddr .OPT_STATUS [k.val]) [BitVec.ofNat 8 k]
      (m.bobFollow k).reply c {}

/-- BOBBIN_STATUS (R200). -/
def execBobbinStatus (c : Cmd) (s : State) : Host.Outcome State Fault Refusal :=
  run s fun m => m.query c 0x0608 fun m =>
    let k := leAt (c.val 0x100) 0 1
    if k > 11 then c.bad
    else m.inLimit c (okWith [tlv 0x101 (slice (m.bobOf k).ident 0 128), tlv 0x102 (leBytes 8 (m.view .BOB_STATUS [k])),
      tlv 0x103 ((List.range 20).flatMap fun j => leBytes 8 (m.view .BOB_LASER [k, j]))])

/-- BOBBIN_SPARE_SWITCH (R198). It holds the lasers, not the slot: a prepare waits for it (R199). (DESIGN CHOICE, log 36) -/
def execBobbinSpareSwitch (c : Cmd) (s : State) : Host.Outcome State Fault Refusal :=
  let c := { c with opcode := 0x0609 }
  run s fun m => m.runCmd c 0x0609 [.bobbin (16 + leAt (c.val 0x100) 0 1)] fun m =>
    let k := leAt (c.val 0x100) 0 1
    let j := leAt (c.val 0x100) 1 1
    if k > 11 || j > 15 then (m, some c.bad)
    else if !m.driven k || m.laserRole k j ≠ 0 then (m, some c.bad)
    else if !m.spareFree k j then (m, some { status := stNoResource })
    else (m.spareBegin k j (some c), none)

/-- BOBBIN_REMOVE_PREPARE (R199): it waits for a spare switch under way; CANCEL warms the lasers again. -/
def execBobbinRemovePrepare (c : Cmd) (s : State) : Host.Outcome State Fault Refusal :=
  let c := { c with opcode := 0x060A }
  run s fun m => m.runCmd c 0x060A [.bobbin (leAt (c.val 0x100) 0 1)] fun m =>
    let k := leAt (c.val 0x100) 0 1
    let st := m.bobState k
    let x := m.bobOf k
    if k > 11 then (m, some c.bad)
    else if bit (leAt (c.val 0x100) 1 1) 0 then
      (if st = 5 then ((((m.set F.BOB_STATUS_STATE [k] 2).set F.OPT_STATUS_CAL [k] (if m.bobStored k then 0 else 1)).emit (.laser k true)).bobFollow k, some {})
       else (m, some c.bad))
    else if st ≠ 3 && st ≠ 4 then (m, some c.bad)
    else if !x.switching.isEmpty then (m.putBob k { x with prepare := some c }, none)
    else (m.bobPrepare k, some {})

end Sys2Proof.Machine
end

