-- ==== Sys2Proof/Machine/Memory.lean ====
section
/-! DEFINITION. HBM's microcode data region (R30, R32): a list of address and byte pairs, addresses strictly rising, no byte
equal to what an unlisted address reads as. -/

namespace Sys2Proof.Machine

/-- What an unlisted byte reads as: a COLD start clears HBM (R516). (DEDUCED, log 5) -/
def memDefault : Byte := 0

/-- The byte at an address. (DEDUCED, log 5) -/
def memGet : List Host.Cell → Nat → Byte
  | [], _ => memDefault
  | (b, v) :: t, a => if b = a then v else memGet t a

/-- Puts a byte, keeping the form. -/
def memPut : List Host.Cell → Nat → Byte → List Host.Cell
  | [], a, v => if v = memDefault then [] else [(a, v)]
  | (b, w) :: t, a, v =>
    if a < b then (if v = memDefault then (b, w) :: t else (a, v) :: (b, w) :: t)
    else if a = b then (if v = memDefault then t else (a, v) :: t)
    else (b, w) :: memPut t a v

/-- Every listed address lies above `lo` and the addresses rise; no byte is the default. -/
def memAbove : Option Nat → List Host.Cell → Bool
  | _, [] => true
  | lo, (a, v) :: t => (match lo with | some l => decide (l < a) | none => true) && decide (v ≠ memDefault) && memAbove (some a) t

/-- The canonical form. -/
def Memory.wf (l : List Host.Cell) : Bool := memAbove none l

/-- Puts bytes from an address up. -/
def memPutBytes (l : List Host.Cell) : Nat → List Byte → List Host.Cell
  | _, [] => l
  | a, b :: bs => memPutBytes (memPut l a b) (a + 1) bs

/-- `n` bytes from an address. -/
def memBytes (l : List Host.Cell) (a n : Nat) : List Byte := (List.range n).map fun i => memGet l (a + i)

/-- The regions of HBM (R30): Pattern's flow-table backing, Pleat's spill, the programs' data, saved instances, telemetry, the rest. -/
inductive HbmRegion where
  | flow | spill | microcode | save | telemetry | reserved
  deriving DecidableEq, Repr

/-- The offsets of each region, first and last, the same in both stacks (R30). -/
def HbmRegion.span : HbmRegion → Nat × Nat
  | .flow => (0x000000000, 0x1FFFFFFFF)
  | .spill => (0x200000000, 0x5FFFFFFFF)
  | .microcode => (0x600000000, 0xBFFFFFFFF)
  | .save => (0xC00000000, 0xCFFFFFFFF)
  | .telemetry => (0xD00000000, 0xDFFFFFFFF)
  | .reserved => (0xE00000000, 0xFFFFFFFFF)

/-- The region of an offset within a stack (R30, R32). -/
def hbmRegion (o : Nat) : HbmRegion :=
  (([.flow, .spill, .microcode, .save, .telemetry] : List HbmRegion).find? fun r =>
    decide (r.span.1 ≤ o) && decide (o ≤ r.span.2)).getD .reserved

/-- The shared unit of the channel that holds an HBM address: 32 to a stack, 256 bytes of offset to a turn (R32, R100). -/
def hbmUnit (a : Nat) : Nat := 32 * (a / 2 ^ 36 % 2) + a % 2 ^ 36 / 256 % 32

/-- Where the module keeps the 256-byte unit `n` of a region of its own: the stacks by turns (R32). -/
def HbmRegion.unitAddr (r : HbmRegion) (n : Nat) : Nat := 0x8000000000 + n % 2 * 2 ^ 36 + r.span.1 + n / 2 * 256

/-- An address of the microcode data region (R32): the one that BAR windows and register commands reach (R31). -/
def inDataRegion (a : Nat) : Bool := decide (a / 2 ^ 37 = 4) && decide (hbmRegion (a % 2 ^ 36) = .microcode)

/-- The effect of a command on the module and on the microcode data region. (DESIGN CHOICE, log 3) -/
def runMem (s : State) (f : Mod → List Host.Cell → Mod × List Host.Cell) : Host.Outcome State Fault Refusal :=
  let r := f s.m s.mem
  .next { s with m := settle r.1, mem := r.2 }

end Sys2Proof.Machine
end

