-- ==== Sys2Proof/Machine/Pattern.lean ====
section
/-! DEFINITION. *Pattern tables, Gauge ranges and telemetry*: scopes, placement, the flow cache, lookups, visibility, counters and
meters. -/

namespace Sys2Proof.Machine

/-! ### Scopes (R246 to R248) -/

/-- Its key width in words. -/
def Mod.keyWords (m : Mod) (q : Nat) : Nat := m.get F.PAT_SCOPE_CFG_KEY_WORDS [q]

/-- A requester may name a scope in the commands of R247. -/
def Mod.scopeRight (m : Mod) (mid q : Nat) : Bool :=
  m.scopeKind q ≠ 0 && (m.isManager mid ||
    (m.flag F.PAT_SCOPE_CFG_OWNER_VALID [q] && decide (driverOf mid = some (m.get F.PAT_SCOPE_CFG_OWNER [q]))))

/-! ### Keys and slots (R249 to R251) -/

/-- A word as its eight bytes, most significant first (R228, R250). -/
def wordBytes (w : Nat) : List Byte := beBytes 8 w

/-- A hash of R250. -/
def keyHash (seed scope : Nat) (key : List Nat) : Nat :=
  (key.foldl (fun k w => crc32c k (wordBytes w)) (crc32c seed (wordBytes scope))) % 2 ^ 26

/-- The two buckets of a key. -/
def Mod.buckets (m : Mod) (scope : Nat) (key : List Nat) : Nat × Nat :=
  (keyHash (m.get F.PAT_HASH_SEED1) scope key, keyHash (m.get F.PAT_HASH_SEED2) scope key)

/-- A slot is parked (R266). -/
def Pat.isParked (p : Pat) (n : Nat) : Bool := p.parked.any fun x => x.what = .slot n

/-- A slot is taken: by an entry, by the wide entry of the even slot before it, or parked. -/
def Pat.taken (p : Pat) (n : Nat) : Bool :=
  (tget p.hbm n).isSome || p.isParked n ||
    (n % 2 = 1 && match tget p.hbm (n - 1) with | some e => slotsOf e.key = 2 | none => false)

/-- A free place of `w` slots in a bucket. (DESIGN CHOICE, log 26) -/
def Pat.place (p : Pat) (b w : Nat) : Option Nat :=
  if w = 2 then [4 * b, 4 * b + 2].find? fun n => !p.taken n && !p.taken (n + 1)
  else (List.range 4).map (4 * b + ·) |>.find? fun n => !p.taken n

/-- The copies of a key: their slots and what they hold. -/
def Mod.copies (m : Mod) (scope : Nat) (key : List Nat) : List (Nat × ExEntry) :=
  let (a, b) := m.buckets scope key
  m.pat.hbm.filter fun x => (x.1 / 4 = a || x.1 / 4 = b) && x.2.scope = scope && x.2.key = key

/-- What a search still has to place: an entry of `w` slots into a bucket, from the slot that it leaves; `none`: the new entry. -/
structure CuckooGoal where
  bucket : Nat
  w : Nat
  from_ : Option Nat
  deriving DecidableEq, Repr

/-- A node of the search of R251: the table after the moves made, and the goals left, the next one first. -/
structure CuckooNode where
  hbm : Tab ExEntry
  goals : List CuckooGoal
  deriving DecidableEq, Repr

/-- An entry moves to another slot. -/
def moveSlot (hbm : Tab ExEntry) (n f : Nat) : Tab ExEntry :=
  match tget hbm n with
  | some e => tput (tdel hbm n) f e
  | none => hbm

/-- Carries out the goals that find a free place now, one after another: the table, the goals left, and the place of the new entry once it
has one. -/
def Pat.settle (p : Pat) : Tab ExEntry → List CuckooGoal → Tab ExEntry × List CuckooGoal × Option Nat
  | hbm, [] => (hbm, [], none)
  | hbm, g :: gs =>
    match ({ p with hbm := hbm } : Pat).place g.bucket g.w with
    | none => (hbm, g :: gs, none)
    | some f =>
      match g.from_ with
      | none => (hbm, [], some f)
      | some n => p.settle (moveSlot hbm n f) gs

/-- The entries whose move helps to free a place of `w` slots in bucket `b`; for a wide place, none of a pair that holds a parked slot. -/
def Pat.movable (p : Pat) (b w : Nat) : List (Nat × ExEntry) :=
  ((List.range 4).map (4 * b + ·)).filterMap fun n =>
    if w = 2 && (p.isParked (n / 2 * 2) || p.isParked (n / 2 * 2 + 1)) then none else (tget p.hbm n).map fun e => (n, e)

/-- The nodes one move deeper: an entry of the next goal's bucket is to go to its other bucket. No goal waits on its own bucket. -/
def Mod.cuckooNext (m : Mod) (x : CuckooNode) : List CuckooNode :=
  match x.goals with
  | [] => []
  | g :: _ =>
    (({ m.pat with hbm := x.hbm } : Pat).movable g.bucket g.w).filterMap fun (s : Nat × ExEntry) =>
      let (a, b) := m.buckets s.2.scope s.2.key
      let o := if g.bucket = a then b else a
      if x.goals.any fun y => y.bucket = o || y.from_ = some s.1 then none
      else some { x with goals := ⟨o, slotsOf s.2.key, some s.1⟩ :: x.goals }

/-- Breadth-first search, `fuel − 1` moves deep (R251): the table after the moves, and the place for the new entry. (DESIGN CHOICE, log 26) -/
def Mod.cuckooSearch (m : Mod) : Nat → List CuckooNode → Option (Tab ExEntry × Nat)
  | 0, _ => none
  | fuel + 1, level =>
    let ran := level.map fun x => m.pat.settle x.hbm x.goals
    match ran.findSome? fun r => r.2.2.map fun f => (r.1, f) with
    | some r => some r
    | none =>
      let next := ran.flatMap fun r => m.cuckooNext ⟨r.1, r.2.1⟩
      if next.isEmpty then none else m.cuckooSearch fuel next

/-- Puts a copy into free slots of bucket h1 or h2 (R251); the ERR_DETAIL of R264 when there is none. -/
def Mod.putCopy (m : Mod) (e : ExEntry) : Except Nat Mod :=
  let (a, b) := m.buckets e.scope e.key
  let w := slotsOf e.key
  match m.cuckooSearch 65 [⟨m.pat.hbm, [⟨a, w, none⟩]⟩, ⟨m.pat.hbm, [⟨b, w, none⟩]⟩] with
  | some (hbm, n) => .ok { m with pat := { m.pat with hbm := tput hbm n e } }
  | none =>
    .error (if (List.range 4).any fun i => m.pat.isParked (4 * a + i) || m.pat.isParked (4 * b + i) then 2 else 1)

/-! ### Visibility (R265) -/

/-- a is at or after b in serial arithmetic of `w` bits. -/
def serialGe (w a b : Nat) : Bool := decide ((a + 2 ^ w - b % 2 ^ w) % 2 ^ w < 2 ^ (w - 1))

/-- A copy with a role and a tag is visible to the pass of sequence `seq` on slice `s` (R265). Before the slice's switch the
old contents are. -/
def Mod.visible (m : Mod) (s seq role tag : Nat) : Bool :=
  if role = 0 then true
  else
    let after := match tget m.pat.pubs tag with
      | some p => match p.seqs[s]? with | some q => serialGe 24 seq q | none => false
      | none => true
    if role = 1 then after else !after

/-- Of two copies with WSEQ, the later in 8-bit serial arithmetic (R263). -/
def laterOf {α : Type} (w : α → Nat) : List α → Option α
  | [] => none
  | x :: xs => match laterOf w xs with
    | some y => if serialGe 8 (w x) (w y) then some x else some y
    | none => some x

/-- The copy that the commands of the Cutter see: untagged, or the one of the newest publication. -/
def Mod.current (m : Mod) (scope : Nat) (key : List Nat) : Option (Nat × ExEntry) :=
  laterOf (·.2.wseq) ((m.copies scope key).filter fun x => x.2.role ≠ 2)

/-! ### The flow cache (R252, R253) -/

/-- The key of the set of a key on a slice. -/
def Mod.setKey (m : Mod) (s scope : Nat) (key : List Nat) : Nat := s * 2 ^ 18 + (m.buckets scope key).1 % 2 ^ 18

/-- Counts in PAT_CACHE_CNT. -/
def Mod.cacheCount (m : Mod) (s i : Nat) : Mod := m.count F.PAT_CACHE_CNT_COUNT [s, i]

/-- Ways that a line takes. -/
def Line.ways (l : Line) : List Nat := if slotsOf l.e.key = 2 then [l.way, l.way + 1] else [l.way]

/-- The lines of a set, most recently used first. -/
def Mod.lines (m : Mod) (k : Nat) : List Line := tgetD m.pat.cache k []

/-- Puts the lines of a set. -/
def Mod.putLines (m : Mod) (k : Nat) (l : List Line) : Mod :=
  { m with pat := { m.pat with cache := if l = [] then tdel m.pat.cache k else tput m.pat.cache k l } }

/-- A line is of a key. -/
def Line.of (l : Line) (scope : Nat) (key : List Nat) : Bool := l.e.scope = scope && l.e.key = key

/-- Installs a line, over the least recently used of the set when no way is free (R252), but over none of its own key: a copy of the old
contents stays for the passes that see it (R265). A tagged line that leaves takes the other lines of its key along, so that none of them
answers alone. (DEDUCED, log 25) -/
def Mod.install (m : Mod) (s : Nat) (absent : Bool) (e : ExEntry) : Mod :=
  let k := m.setKey s e.scope e.key
  let ls := m.lines k
  let used := ls.flatMap Line.ways
  let free := if slotsOf e.key = 2 then [0, 2].find? fun w => !used.contains w && !used.contains (w + 1)
    else (List.range 4).find? fun w => !used.contains w
  match free with
  | some w => m.putLines k (⟨w, absent, e⟩ :: ls)
  | none =>
    match (ls.filter fun l => !l.of e.scope e.key).getLast? with
    | none => m
    | some old =>
      let w := if slotsOf e.key = 2 then old.way / 2 * 2 else old.way
      let goes := fun (l : Line) => l.ways.any fun x => x = w || (slotsOf e.key = 2 && x = w + 1)
      let out := ls.filter goes
      let tagged := out.filter fun l => !l.absent && l.e.role ≠ 0
      let rest := ls.filter fun l => !goes l && !(tagged.any fun t => l.of t.e.scope t.e.key)
      (out.foldl (fun m _ => m.cacheCount s 5) m).putLines k (⟨w, absent, e⟩ :: rest)

/-- An update of slice `s` for a key (R263 step 2): its lines are replaced, a negative line goes, a fill under way is read
again. -/
def Mod.cacheUpdate (m : Mod) (s scope : Nat) (key : List Nat) (new : Option ExEntry) : Mod :=
  let k := m.setKey s scope key
  let mine := (m.lines k).filter fun l => l.of scope key
  let m := m.putLines k ((m.lines k).filter fun l => !l.of scope key)
  let fills := m.pat.fills.map fun f =>
    if f.slice = s && f.scope = scope && f.key = key then { f with stale := true } else f
  let m : Mod := { m with pat := { m.pat with fills := fills } }
  match new with
  | some e => if mine.any fun l => !l.absent then m.install s false e else m
  | none => m

/-- Marks the lines of a key on every slice as copies of a publication, removes its negative lines and adds the APPEAR copy
where a line of the key stands (R265). (DEDUCED, log 25) -/
def Mod.cacheTag (m : Mod) (scope : Nat) (key : List Nat) (tag : Nat) (new : Option ExEntry) : Mod :=
  (List.range 8).foldl (fun m s =>
    let k := m.setKey s scope key
    let had := (m.lines k).any fun l => l.of scope key && !l.absent
    let ls := (m.lines k).filterMap fun l =>
      if !l.of scope key then some l
      else if l.absent || (l.e.role = 1 && l.e.tag = tag) then none
      else some { l with e := { l.e with role := 2, tag := tag } }
    let fills := m.pat.fills.map fun f => if f.slice = s && f.scope = scope && f.key = key then { f with stale := true } else f
    let m := { m with pat := { m.pat with fills := fills } }.putLines k ls
    match new with
    | some e => if had then m.install s false e else m
    | none => m) m

/-- The LOOKUP result word (R254). -/
def resultWord (dflt filled neg notFilled queued : Bool) (wseq prio : Nat) : Nat :=
  b2n dflt + 2 * b2n filled + 4 * b2n neg + 8 * b2n notFilled + 16 * b2n queued + wseq * 2 ^ 8 + prio * 2 ^ 16

/-- The index of PAT_PORT_ACT whose default action a pass gets (R260); none for a timer. -/
def Origin.actIndex : Origin → Option Nat
  | .port n _ => some n
  | .host ep _ _ _ _ => some (96 + ep)
  | .timer _ _ => none

/-- The default action words of a pass (R260). -/
def Mod.defaultAct (m : Mod) (o : Origin) : List Nat :=
  match o.actIndex with
  | some i => (List.range 4).map fun w => m.get F.PAT_PORT_ACT_WORD [i, w]
  | none => [0, 0, 0, 0]

/-- A miss (R254). -/
def Mod.missResp (m : Mod) (o : Origin) (filled neg notFilled queued : Bool) : Resp :=
  { status := 1, result := resultWord true filled neg notFilled queued 0 0, data := m.defaultAct o }

/-- A hit. -/
def hitResp (e : ExEntry) (filled : Bool) : Resp :=
  { status := 0, result := resultWord false filled false false false e.wseq 0, data := e.act }

/-- What an EXACT or EXACT_NOWAIT answers at once; none when it waits for a fill (R253). `bad`: the search finds an
uncorrectable error in the key's line, which counts as absent (R255). -/
def Mod.exact (m : Mod) (s scope : Nat) (key : List Nat) (seq : Nat) (o : Origin) (nowait bad : Bool) (who : ThreadRef) (tag : Nat) :
    Option Resp × Mod :=
  let k := m.setKey s scope key
  let m := if bad && (m.lines k).any fun l => l.of scope key then
      (m.putLines k ((m.lines k).filter fun l => !l.of scope key)).cacheCount s 7 else m
  let ls := m.lines k
  let mine := ls.filter fun l => l.of scope key
  let seen := mine.filter fun l => l.absent || m.visible s seq l.e.role l.e.tag
  if mine ≠ [] then
    match laterOf (fun l : Line => l.e.wseq) (seen.filter fun l => !l.absent) with
    | some l => (some (hitResp l.e false), (m.putLines k (l :: ls.filter (· ≠ l))).cacheCount s 0)
    | none =>
      let m := m.putLines k (seen ++ ls.filter fun l => !seen.contains l)
      (some (m.missResp o false true false false), m.cacheCount s 1)
  else
    let same := fun (f : Fill) => f.slice = s && f.scope = scope && f.key = key
    if m.pat.fills.any same then
      if nowait then (some (m.missResp o false false true true), m.cacheCount s 4)
      else
        let fs := m.pat.fills.map fun f => if same f then { f with waits := f.waits ++ [(who, tag)] } else f
        (none, { m with pat := { m.pat with fills := fs } }.cacheCount s 3)
    else if (m.pat.fills.countP fun f => f.slice = s) ≥ 4096 then
      (some (m.missResp o false false true false), m.cacheCount s 4)
    else
      let f : Fill := { slice := s, scope := scope, key := key, waits := if nowait then [] else [(who, tag)] }
      let m := { m with pat := { m.pat with fills := m.pat.fills ++ [f] } }.cacheCount s 2
      if nowait then (some (m.missResp o false false true true), m.cacheCount s 4) else (none, m)

/-! ### Rules (R256, R257) -/

/-- The Gauge field `g` of a scope: offset, width minus one; none when it is not enabled. -/
def Mod.gauge (m : Mod) (q g : Nat) : Option (Nat × Nat) :=
  if m.flag (F.PAT_SCOPE_GAUGE_EN (g % 4)) [q, g / 4] then
    some (m.get (F.PAT_SCOPE_GAUGE_OFF (g % 4)) [q, g / 4], m.get (F.PAT_SCOPE_GAUGE_WIDTH (g % 4)) [q, g / 4])
  else none

/-- The number a Gauge field takes from a key (R256). -/
def gaugeValue (key : List Nat) (off width : Nat) : Nat := bits (key.getD (off / 64) 0) (off % 64) (width + 1)

/-- A rule matches a key (R257). -/
def Mod.ruleMatches (m : Mod) (r : Rule) (key : List Nat) : Bool :=
  ((List.range key.length).all fun i =>
    (key.getD i 0 ^^^ r.value.getD i 0) &&& r.mask.getD i 0 = 0) &&
  ((List.range 8).all fun g => match m.gauge r.scope g with
    | some (off, w) => let v := gaugeValue key off w; let (lo, hi) := r.ranges.getD g (0, 0); decide (lo ≤ v ∧ v ≤ hi)
    | none => true)

/-- An uncorrectable error in rule slot `n` of slice `s` (R257): the rule is invalid there, and the event names it. -/
def Mod.loseRule (m : Mod) (s n : Nat) : Mod :=
  match tget m.pat.rules (s * 65536 + n) with
  | some r =>
    ({ m with pat := { m.pat with rules := tdel m.pat.rules (s * 65536 + n), lost := m.pat.lost ++ [(s, r.scope, r.priority)] } }).eccFatal 1
      (leBytes 2 r.scope ++ leBytes 2 r.priority ++ leBytes 1 s)
  | none => m

/-- The rule that is best of those that match: lowest priority, then later WSEQ (R257, R263). -/
def bestRule : List Rule → Option Rule
  | [] => none
  | r :: rs => match bestRule rs with
    | some x => if r.priority < x.priority || (r.priority = x.priority && serialGe 8 r.wseq x.wseq) then some r else some x
    | none => some r

/-- What a RULE lookup answers. `bad`: the search finds an uncorrectable error in that rule slot. -/
def Mod.ruleLookup (m : Mod) (s scope : Nat) (key : List Nat) (seq : Nat) (o : Origin) (bad : Option Nat) : Resp × Mod :=
  let m := match bad with | some n => m.loseRule s n | none => m
  let m := m.cacheCount s 9
  if m.ruleLost s scope then ({ status := 3 }, m)
  else
    let c := (m.rulesOn s).filterMap fun r =>
      if r.2.scope = scope && m.visible s seq r.2.role r.2.tag && m.ruleMatches r.2 key then some r.2 else none
    match bestRule c with
    | some r => ({ status := 0, result := resultWord false false false false false r.wseq r.priority, data := r.act }, m)
    | none => (m.missResp o false false false false, m.cacheCount s 10)

/-! ### Compressed counters (R268, R270) -/

/-- The value of a compressed count. -/
def cval (c : Nat) : Nat := if c < 4096 then c else (4096 + c % 4096) * 2 ^ (c / 4096 - 1)

/-- The exponent e of a value: 0 below 4,096, else 1 + floor(log2(v div 4096)). -/
def cexp (v : Nat) : Nat := if v < 4096 then 0 else 1 + Nat.log2 (v / 4096)

/-- The encoding of a value that one of its exponent's steps divides. -/
def cenc (v : Nat) : Nat :=
  let e := cexp v
  if e = 0 then v else e * 4096 + (v / 2 ^ (e - 1) - 4096)

/-- Adds `a` to a compressed count (R268): the new count, and whether it saturated. -/
def Mod.cadd (m : Mod) (c a : Nat) : Nat × Bool × Mod :=
  let v := cval c + a
  if v > 134201344 then (0xFFFF, true, m)
  else
    let e := cexp v
    let st := if e = 0 then 1 else 2 ^ (e - 1)
    let r := v % st
    let (d, m) := if e ≤ 1 then (0, m) else m.draw (2 ^ (e - 1))
    (cenc (if d < r then v - r + st else v - r), false, m)

/-- Key of counter `i` on slice `s`. -/
def ctrKey (s i : Nat) : Nat := s * 4194304 + i

/-- Counts one packet of `n` bytes in compressed counter `i` of slice `s`; at FLUSH_EXP it is queued for a flush (R270). -/
def Mod.countCtr (m : Mod) (s i n : Nat) : Mod :=
  let k := ctrKey s i
  let x := tgetD m.pat.ctrs k {}
  let (p, s1, m) := m.cadd x.pk 1
  let (b, s2, m) := m.cadd x.by_ n
  let m := if s1 || s2 then m.countSat F.PAT_TEL_STATUS_SATURATED [] (b2n s1 + b2n s2) else m
  let flush := decide (m.get F.PAT_TEL_CFG_FLUSH_EXP ≤ p / 4096) || decide (m.get F.PAT_TEL_CFG_FLUSH_EXP ≤ b / 4096)
  let y : Ctr := { pk := p, by_ := b, pkMax := max x.pkMax (p / 4096), byMax := max x.byMax (b / 4096), sat := x.sat || s1 || s2,
                   queued := x.queued || flush }
  { m with pat := { m.pat with ctrs := tput m.pat.ctrs k y, flushQ := if flush && !x.queued then m.pat.flushQ ++ [k] else m.pat.flushQ } }

/-- Flushes counter `k`: its value goes to the accumulator and it becomes zero (R270). -/
def Mod.flushCtr (m : Mod) (k : Nat) : Mod :=
  let x := tgetD m.pat.ctrs k {}
  let late := max (x.pk / 4096) (x.by_ / 4096) > m.get F.PAT_TEL_CFG_FLUSH_EXP + 1
  let m := if late then m.countSat F.PAT_TEL_STATUS_FLUSH_LATE else m
  let i := k % 4194304
  let (p, b) := tgetD m.pat.accum i (0, 0)
  { m with pat := { m.pat with
      ctrs := tput m.pat.ctrs k { x with pk := 0, by_ := 0, queued := false },
      accum := tput m.pat.accum i ((p + cval x.pk) % 2 ^ 64, (b + cval x.by_) % 2 ^ 64), flushQ := m.pat.flushQ.filter (· ≠ k) } }

/-- COUNTER_FLUSH: a TELEM stitch of slice `s` flushes the oldest queued counter (R270). -/
def Mod.telemStitch (m : Mod) (s : Nat) : Mod :=
  match m.pat.flushQ.find? fun k => k / 4194304 = s with
  | some k => m.flushCtr k
  | none => m

/-! ### Meters and COUNT (R267, R272) -/

/-- Tokens after `dt` ns at a rate in Mb/s, within a depth in bytes; in 1/8000 byte. -/
def refillTokens (tokens rate dt depth : Nat) : Nat := min (depth * 8000) (tokens + rate * dt)

/-- Applies a meter to `n` bytes (RFC 2698, colour-blind): 0 green, 1 yellow, 2 red. -/
def Meter.mark (x : Meter) (now n : Nat) : Nat × Meter :=
  let tc := refillTokens x.tc x.cir (now - x.at_) x.cbs
  let tp := refillTokens x.tp x.pir (now - x.at_) x.pbs
  let b := n * 8000
  if tp < b then (2, { x with tc := tc, tp := tp, at_ := now })
  else if tc < b then (1, { x with tc := tc, tp := tp - b, at_ := now })
  else (0, { x with tc := tc - b, tp := tp - b, at_ := now })

/-- A pin counts a packet of `n` bytes on slice `s` (R271): 24 bits of packets and 40 of bytes on die, flushed into the totals before
either would overflow. -/
def Pin.add (p : Pin) (s n : Nat) : Pin :=
  let (a, b) := tgetD p.parts s (0, 0)
  if a + 1 < 2 ^ 24 && b + n < 2 ^ 40 then { p with parts := tput p.parts s (a + 1, b + n) }
  else { p with pk := (p.pk + a) % 2 ^ 64, by_ := (p.by_ + b) % 2 ^ 64, parts := tput p.parts s (1, n) }

/-- What a read of a pin over the slices of a mask gives (R271, R273): the totals and what those slices hold. -/
def Pin.read (p : Pin) (mask : Nat) : Nat × Nat :=
  let l := p.parts.filter fun x => bit mask x.1
  ((p.pk + sumOf l (·.2.1)) % 2 ^ 64, (p.by_ + sumOf l (·.2.2)) % 2 ^ 64)

/-- CLEAR zeroes what such a read reports (R273): the totals go with the first slice read. -/
def Pin.clear (p : Pin) (mask : Nat) : Pin :=
  if mask % 256 = 0 then p else { p with pk := 0, by_ := 0, parts := p.parts.filter fun x => !bit mask x.1 }

/-- COUNT with a descriptor and the packet's LEN on slice `s` (R267): status and result word. One that names a pin which is not allocated,
or a meter that no scope holds there, does nothing but count once in STRAY. -/
def Mod.countOp (m : Mod) (s d len : Nat) : Resp × Mod :=
  let idx := bits d 0 22
  let exact := bit d 22
  if d / 2 ^ 55 ≠ 0 || (exact && idx ≥ 1048576) then ({ status := 5 }, m)
  else
    let n := ((len : Int) + signed 16 (bits d 39 16)).toNat
    let mk := s * 16384 + bits d 24 14
    let stray := (bit d 23 && exact && (tget m.pat.pins idx).isNone) || (bit d 38 && (tget m.pat.meters mk).isNone)
    if stray then ({ status := 0 }, m.countSat F.PAT_TEL_STATUS_STRAY)
    else
      let (colour, m) :=
        match if bit d 38 then tget m.pat.meters mk else none with
        | some x => let (col, y) := x.mark m.ns n; (col, { m with pat := { m.pat with meters := tput m.pat.meters mk y } })
        | none => (0, m)
      let m :=
        if !bit d 23 then m
        else if exact then { m with pat := { m.pat with pins := tadj m.pat.pins idx fun p => p.add s n } }
        else m.countCtr s idx n
      ({ status := 0, result := colour }, m)

end Sys2Proof.Machine
end

