-- ==== Sys2Proof/Machine/Microword.lean ====
section
/-! DEFINITION. The microword (*The Shuttle microword and programming model*): fields, sources, the two ALUs, extractors,
depositor, sequencer, and the words that fault. A word is the number of its 256 bits. -/

namespace Sys2Proof.Machine

/-! ### Fields (R224) -/

def mwNext (w : Nat) : Nat := bits w 0 14
def mwSeqop (w : Nat) : Nat := bits w 14 4
def mwCondReg (w : Nat) : Nat := bits w 18 5
def mwCondBit (w : Nat) : Nat := bits w 23 6
def mwDisp (w : Nat) : Nat := bits w 29 3

/-- An ALU's operation, destination and sources. -/
structure AluF where
  op : Nat
  dst : Nat
  a : Nat
  b : Nat
  deriving DecidableEq, Repr

/-- ALU A (0) or B (1). -/
def mwAlu (w i : Nat) : AluF := let o := 32 + 23 * i; ⟨bits w o 5, bits w (o + 5) 6, bits w (o + 11) 6, bits w (o + 17) 6⟩

/-- An extractor's fields. -/
structure ExtF where
  en : Bool
  dst : Nat
  rel : Bool
  breg : Nat
  off : Nat
  width : Nat
  shift : Nat
  deriving DecidableEq, Repr

/-- Extractor 0 or 1. -/
def mwExt (w i : Nat) : ExtF :=
  let o := 78 + 29 * i
  ⟨bit w o, bits w (o + 1) 5, bit w (o + 6), bits w (o + 7) 5, bits w (o + 12) 8, bits w (o + 20) 6 + 1, bits w (o + 26) 3⟩

/-- The depositor's fields. -/
structure DepF where
  en : Bool
  ctx : Bool
  src : Nat
  rel : Bool
  breg : Nat
  off : Nat
  width : Nat
  shift : Nat
  deriving DecidableEq, Repr

/-- The depositor. -/
def mwDep (w : Nat) : DepF :=
  ⟨bit w 136, bit w 137, bits w 138 6, bit w 144, bits w 145 5, bits w 150 8, bits w 158 6 + 1, bits w 164 3⟩

def mwReqEn (w : Nat) : Bool := bit w 167
def mwReqCh (w : Nat) : Nat := bits w 168 2
def mwReqOp (w : Nat) : Nat := bits w 170 6
def mwReqTag (w : Nat) : Nat := bits w 176 3
def mwReqArg (w : Nat) : Nat := bits w 179 5
def mwReqArgn (w : Nat) : Nat := bits w 184 3
def mwReadEn (w : Nat) : Bool := bit w 187
def mwReadTag (w : Nat) : Nat := bits w 188 3
def mwReadDst (w : Nat) : Nat := bits w 191 5
def mwReadN (w : Nat) : Nat := bits w 196 3
def mwImm (w : Nat) : Nat := bits w 199 32

/-! ### Sources (R226) -/

/-- What a source code gives, from registers, context and immediate. -/
def srcVal (rd : Nat → Nat) (ctx : List Nat) (imm code : Nat) : Nat :=
  if code < 32 then rd code
  else if code < 40 then ctx.getD (code - 32) 0
  else if code = 40 then imm
  else if code = 41 then unsigned 64 (signed 32 imm)
  else if code = 42 then imm * 2 ^ 32
  else if code = 43 then imm % 65536
  else imm / 65536

/-! ### ALUs (R228) -/

/-- The result of an ALU operation. -/
def alu (op a b : Nat) : Nat :=
  let sh := b % 64
  match op with
  | 1 => (a + b) % 2 ^ 64
  | 2 => (a + 2 ^ 64 - b) % 2 ^ 64
  | 3 => a &&& b
  | 4 => a ||| b
  | 5 => a ^^^ b
  | 6 => a &&& (2 ^ 64 - 1 - b)
  | 7 => a * 2 ^ sh % 2 ^ 64
  | 8 => a / 2 ^ sh
  | 9 => unsigned 64 (signed 64 a / 2 ^ sh)
  | 10 => b
  | 11 => b2n (decide (a = b))
  | 12 => b2n (decide (a ≠ b))
  | 13 => b2n (decide (a < b))
  | 14 => b2n (decide (a ≤ b))
  | 15 => b2n (decide (signed 64 a < signed 64 b))
  | 16 => b2n (decide (signed 64 a ≤ signed 64 b))
  | 17 => min a b
  | 18 => max a b
  | 19 => leNat (beBytes 8 b)
  | 20 => crc32c (a % 2 ^ 32) (wordBytes b)
  | 21 => (List.range 64).countP fun i => bit b i
  | 22 => if b = 0 then 64 else 63 - Nat.log2 b
  | _ => 0

/-- An operation reads source a. -/
def aluReadsA (op : Nat) : Bool := 1 ≤ op && op ≠ 10 && op ≠ 19 && op ≠ 21 && op ≠ 22

/-! ### Extractors and depositor (R229, R230) -/

/-- `n` bits of the window from window bit `p`; zeros past its end. -/
def extract (win : List Byte) (p n : Nat) : Nat :=
  let v := beNat win
  if p + n ≤ 2048 then v / 2 ^ (2048 - p - n) % 2 ^ n else v * 2 ^ (p + n - 2048) % 2 ^ n

/-- Puts the low `n` bits of `v` into the window at window bit `p`; bits past its end are discarded. -/
def deposit (win : List Byte) (p n v : Nat) : List Byte :=
  if 2048 ≤ p then win
  else
    let v := v % 2 ^ n
    let (n, v) := if p + n ≤ 2048 then (n, v) else (2048 - p, v / 2 ^ (p + n - 2048))
    let k := 2048 - p - n
    let x := beNat win
    beBytes 256 (x - x / 2 ^ k % 2 ^ n * 2 ^ k + v * 2 ^ k)

/-- The window bytes that a deposit changes. -/
def depositBytes (p n : Nat) : List Nat :=
  if 2048 ≤ p then [] else (List.range ((min (p + n) 2048 - 1) / 8 - p / 8 + 1)).map (p / 8 + ·)

/-- The bit position that OFF, REL and SHIFT give. -/
def fieldPos (rd : Nat → Nat) (off : Nat) (rel : Bool) (breg shift : Nat) : Nat :=
  8 * (off + if rel then rd breg % 512 else 0) + shift

/-- The bits of context word `i` that a program may write (R222): from, to. -/
def ctxWritable (i : Nat) : Nat × Nat :=
  match i with
  | 3 => (24, 64) | 4 => (0, 47) | 5 => (0, 32) | 6 => (0, 64) | 7 => (0, 64) | _ => (0, 0)

/-- Context word `i` after a write of `v`; RO and reserved bits stay. -/
def ctxWrite (i old v : Nat) : Nat :=
  let (lo, hi) := ctxWritable i
  old % 2 ^ lo + v / 2 ^ lo % 2 ^ (hi - lo) * 2 ^ lo + old / 2 ^ hi * 2 ^ hi

/-! ### Sequencer (R227) -/

/-- The next micro-address; one above 16,383 faults. END and TRAP have none. -/
def nextAddr (w upc : Nat) (rd : Nat → Nat) : Nat :=
  let c := rd (mwCondReg w)
  let b := bit c (mwCondBit w)
  match mwSeqop w with
  | 0 => upc + 1
  | 1 => mwNext w
  | 2 => if b then mwNext w else upc + 1
  | 3 => if b then upc + 1 else mwNext w
  | 4 => mwNext w
  | 5 => c % 2 ^ 14
  | 6 => mwNext w + c / 2 ^ mwCondBit w % 16
  | _ => 0

/-! ### Words that fault (R233) -/

/-- An operation code that its channel reserves (R235, R236, R238, R335). -/
def opReserved (ch op : Nat) : Bool :=
  match ch with
  | 0 => !(op ≤ 2 || (8 ≤ op && op ≤ 16))
  | 1 => decide (8 < op)
  | 2 => decide (7 < op)
  | _ => decide (2 < op)

/-- A word faults with ILLEGAL whatever the thread's state. -/
def illegalWord (w : Nat) : Bool :=
  let s := mwSeqop w
  let d := mwDep w
  let badAlu := fun (x : AluF) => x.op ≠ 0 &&
    (decide (23 ≤ x.op) || decide (40 ≤ x.dst) || decide (45 ≤ x.b) || (aluReadsA x.op && decide (45 ≤ x.a)))
  decide (9 ≤ s) || (s = 7 && decide (4 ≤ mwDisp w)) || badAlu (mwAlu w 0) || badAlu (mwAlu w 1) ||
    (d.en && (decide (45 ≤ d.src) ||
      (d.ctx && (d.rel || decide (64 ≤ d.off) || decide (64 < (8 * d.off + d.shift) % 64 + d.width))))) ||
    (mwReqEn w && (opReserved (mwReqCh w) (mwReqOp w) || decide (31 < mwReqArg w + mwReqArgn w))) ||
    (mwReadEn w && decide (31 < mwReadDst w + mwReadN w)) ||
    (mwReqEn w && mwReadEn w && mwReqTag w = mwReadTag w)

/-! ### Checksums (R222) -/

/-- The Internet checksum of bytes. -/
def inetSum (d : List Byte) : Nat :=
  let rec go : List Byte → Nat → Nat
    | [], a => a
    | [x], a => a + x.toNat * 256
    | x :: y :: r, a => go r (a + x.toNat * 256 + y.toNat)
  let fold := fun s => s % 65536 + s / 65536
  65535 - fold (fold (fold (go d 0)))

/-- Recomputes the checksums that context word 4 flags. (DEDUCED, log 39) -/
def checksums (w4 : Nat) (d : List Byte) : List Byte :=
  let o3 := bits w4 28 8
  let o4 := bits w4 37 8
  let at_ := fun (d : List Byte) o n => beNat (slice d o n)
  if d.length < o3 + 20 || at_ d o3 1 / 16 ≠ 4 then d
  else
    let ihl := at_ d o3 1 % 16 * 4
    let d := if bit w4 36 && o3 + ihl ≤ d.length then
        let z := overlay d (o3 + 10) [0, 0]
        overlay z (o3 + 10) (beBytes 2 (inetSum (slice z o3 ihl)))
      else d
    let proto := at_ d (o3 + 9) 1
    let pos := if proto = 17 then 6 else 16
    let stop := o3 + at_ d (o3 + 2) 2
    let n := stop - o4
    if bit w4 45 && (proto = 6 || proto = 17) && stop ≤ d.length && o3 + ihl ≤ o4 && o4 < stop && pos + 2 ≤ n then
      let z := overlay d (o4 + pos) [0, 0]
      let c := inetSum (slice z (o3 + 12) 8 ++ [0, BitVec.ofNat 8 proto] ++ beBytes 2 n ++ slice z o4 n)
      overlay z (o4 + pos) (beBytes 2 (if proto = 17 && c = 0 then 65535 else c))
    else d

end Sys2Proof.Machine
end

