-- ==== Sys2Proof/Machine/Tables.lean ====
section
/-! DEFINITION. The table commands (R67, R71 to R75, R248, R261, R263 to R266, R271, R273): direct changes, staged transactions,
parking and clean-up, pins, telemetry. -/

namespace Sys2Proof.Machine

/-! ### Operations (R264) -/

/-- The scope an operation names. -/
def TblOp.scope : TblOp → Nat
  | .putExact q _ _ _ | .putRule q _ _ _ _ _ | .putMeter q _ _ _ _ _ | .delExact q _ _ | .delRule q _ | .delMeter q _ => q

/-- What an operation acts on within its scope. -/
def TblOp.key : TblOp → List Nat
  | .putExact _ _ k _ | .delExact _ _ k => 0 :: k
  | .putRule _ p _ _ _ _ | .delRule _ p => [1, p]
  | .putMeter _ i _ _ _ _ | .delMeter _ i => [2, i]

/-- It is a write. -/
def TblOp.isPut : TblOp → Bool
  | .putExact _ _ _ _ | .putRule _ _ _ _ _ _ | .putMeter _ _ _ _ _ _ => true
  | _ => false

/-- Slots or rules it takes of the quota. -/
def TblOp.size : TblOp → Nat
  | .putExact _ _ k _ | .delExact _ _ k => slotsOf k
  | .putRule _ _ _ _ _ _ | .delRule _ _ => 1
  | _ => 0

/-- Words from bytes. -/
def wordsAt (v : List Byte) (o n : Nat) : List Nat := (List.range n).map fun i => leAt v (o + 8 * i) 8

/-- Bits of key word `i` that lie inside enabled Gauge fields of a scope. -/
def Mod.gaugeBits (m : Mod) (q i : Nat) : Nat :=
  (List.range 8).foldl (fun a g => match m.gauge q g with
    | some (off, w) => if off / 64 = i then a ||| ((2 ^ (w + 1) - 1) * 2 ^ (off % 64)) % 2 ^ 64 else a
    | none => a) 0

/-- The value checks of a RULE_ENTRY (R264). -/
def Mod.ruleOk (m : Mod) (q : Nat) (value mask : List Nat) (ranges : List (Nat × Nat)) : Bool :=
  ((List.range value.length).all fun i =>
    mask.getD i 0 &&& m.gaugeBits q i = 0 && value.getD i 0 &&& (mask.getD i 0 ^^^ (2 ^ 64 - 1)) = 0) &&
  ((List.range 8).all fun g => match m.gauge q g with
    | some (_, w) => let (lo, hi) := ranges.getD g (0, 0); decide (lo ≤ hi ∧ hi < 2 ^ (w + 1))
    | none => true)

/-- The operation an entry TLV or a key TLV spells; the ERR_DETAIL of R264 when its form is wrong. -/
def Mod.parseOp (m : Mod) (n : Nat) (v : List Byte) : Except Nat TblOp :=
  let q := leAt v 0 2
  let k := m.keyWords q
  let len := v.length
  match n with
  | 0x100 =>
    if m.scopeKind q ≠ 1 || len ≠ 36 + 8 * k then .error 5
    else .ok (.putExact q (leAt v 2 1 % 4) (wordsAt v 4 k) (wordsAt v (4 + 8 * k) 4))
  | 0x101 =>
    let value := wordsAt v 8 k
    let mask := wordsAt v (8 + 8 * k) k
    let ranges := (List.range 8).map fun g => (leAt v (8 + 16 * k + 8 * g) 4, leAt v (12 + 16 * k + 8 * g) 4)
    if m.scopeKind q ≠ 2 || len ≠ 104 + 16 * k then .error 5
    else if !m.ruleOk q value mask ranges then .error 6
    else .ok (.putRule q (leAt v 2 2) value mask ranges (wordsAt v (72 + 16 * k) 4))
  | 0x102 =>
    let i := leAt v 4 4
    let w := fun (o : Nat) => leAt v o 4
    if m.scopeKind q ≠ 3 || len ≠ 24 then .error 5
    else if i < m.get F.PAT_SCOPE_CTR_CTR_BASE [q] || m.get F.PAT_SCOPE_CTR_CTR_BASE [q] + m.get F.PAT_SCOPE_CTR_CTR_COUNT [q] ≤ i ||
        w 8 = 0 || w 12 < w 8 || w 12 > 1600000 || w 16 < 64 || w 16 > 16777215 || w 20 < 64 || w 20 > 16777215 then .error 0
    else .ok (.putMeter q i (w 8) (w 12) (w 16) (w 20))
  | 0x103 =>
    if m.scopeKind q ≠ 1 || len ≠ 4 + 8 * k then .error 5
    else .ok (.delExact q (bit (leAt v 2 1) 0) (wordsAt v 4 k))
  | 0x104 => if m.scopeKind q ≠ 2 || len ≠ 4 then .error 5 else .ok (.delRule q (leAt v 2 2))
  | _ => if m.scopeKind q ≠ 3 || len ≠ 8 then .error 5 else .ok (.delMeter q (leAt v 4 4))

/-- The operations of a command's TLVs with their positions; the answer when one is at fault. `lo` and `hi`: the TLV types that
carry operations. -/
def Mod.parseOps (m : Mod) (c : Cmd) (lo hi : Nat) : Except Ans (List (Nat × TblOp)) :=
  go c.tlvs 1
where
  /-- The operations from position `p`. -/
  go : List Tlv → Nat → Except Ans (List (Nat × TblOp))
    | [], _ => .ok []
    | t :: ts, p =>
      if t.num < lo || hi < t.num then go ts (p + 1)
      else if !m.scopeRight c.mid (leAt t.val 0 2) then .error (badTlv p)
      else match m.parseOp t.num t.val with
        | .error d => .error (badTlv p d)
        | .ok op => match go ts (p + 1) with
          | .ok l => .ok ((p, op) :: l)
          | .error a => .error a

/-! ### What exists (R263, R264) -/

/-- The rules of a scope and priority: table key and rule. -/
def Mod.ruleCopies (m : Mod) (q prio : Nat) : List (Nat × Rule) :=
  m.pat.rules.filter fun r => r.2.scope = q && r.2.priority = prio

/-- Meter `k` holds a meter of scope `q`; one of another scope's range does not. -/
def Mod.meterHas (m : Mod) (q k : Nat) : Bool := match tget m.pat.meters k with | some x => x.scope = q | none => false

/-- The key, priority or meter of an operation exists for commands. -/
def Mod.opExists (m : Mod) (op : TblOp) : Bool :=
  match op with
  | .putExact q _ k _ | .delExact q _ k => (m.current q k).isSome
  | .putRule q p _ _ _ _ | .delRule q p =>
    ((m.ruleCopies q p).any fun r => r.2.role ≠ 2) || m.pat.lost.any fun l => l.2.1 = q && l.2.2 = p
  | .putMeter q i _ _ _ _ | .delMeter q i => (m.scopeSlices q).any fun s => m.meterHas q (s * 16384 + i)

/-- A copy of what an operation acts on carries a publication tag. -/
def Mod.opTagged (m : Mod) (op : TblOp) : Bool :=
  match op with
  | .putExact q _ k _ | .delExact q _ k => (m.copies q k).any fun e => e.2.role ≠ 0
  | .putRule q p _ _ _ _ | .delRule q p => (m.ruleCopies q p).any fun r => r.2.role ≠ 0
  | _ => false

/-- The existence rules in order, each against what the earlier operations leave (R73, R264): position and ERR_DETAIL. (DEDUCED, log 25) -/
def Mod.existFault (m : Mod) : List (Nat × TblOp) → List (Nat × List Nat × Bool) → Option (Nat × Nat)
  | [], _ => none
  | (p, op) :: rest, known =>
    let there := match known.find? fun x => x.1 = op.scope && x.2.1 = op.key with
      | some x => x.2.2
      | none => m.opExists op
    let bad := match op with
      | .putExact _ f _ _ => (bit f 0 && there) || (bit f 1 && !there)
      | _ => false
    if bad then some (p, 3)
    else if !op.isPut && !there then some (p, 4)
    else m.existFault rest ((op.scope, op.key, op.isPut) :: known)

/-- The first operation that the quota of its scope does not allow (R67, R264): a write takes a slot of an existing key too; a
staged deletion gives back those of its key. (DEDUCED, log 25) -/
def Mod.quotaFault (m : Mod) (giveBack : Bool) : List (Nat × TblOp) → List (Nat × Int) → List (Nat × List Nat) → Option Nat
  | [], _, _ => none
  | (p, op) :: rest, need, seen =>
    let q := op.scope
    let have_ := (need.find? fun x => x.1 = q).map (·.2) |>.getD 0
    let put := fun (n : Int) => (q, n) :: need.filter fun x => x.1 ≠ q
    if op.size = 0 then m.quotaFault giveBack rest need seen
    else if op.isPut then
      if giveBack && seen.contains (q, op.key) then m.quotaFault giveBack rest need seen
      else
        let n := have_ + op.size
        if (m.scopeUsed q : Int) + n > m.get F.PAT_SCOPE_CFG_QUOTA [q] then some p
        else m.quotaFault giveBack rest (put n) ((q, op.key) :: seen)
    else if giveBack then
      let n := have_ - (if seen.contains (q, op.key) then (op.size : Int) else 0) - (if m.opExists op then (op.size : Int) else 0)
      m.quotaFault giveBack rest (put n) (seen.filter (· ≠ (q, op.key)))
    else m.quotaFault giveBack rest need seen

/-! ### Direct changes (R263) -/

/-- Parks a resource (R266). -/
def Mod.park (m : Mod) (what : Parked) (q : Nat) (cmd : Option Cmd) : Mod :=
  { m with pat := { m.pat with parked := m.pat.parked ++ [{ what := what, scope := q, epoch := m.epoch, cmd := cmd }] } }

/-- Takes a copy out of the HBM table and parks its slots. -/
def Mod.parkCopy (m : Mod) (e : Nat × ExEntry) (cmd : Option Cmd) : Mod :=
  let m := { m with pat := { m.pat with hbm := tdel m.pat.hbm e.1 } }
  (List.range (slotsOf e.2.key)).foldl (fun m i => m.park (.slot (e.1 + i)) e.2.scope cmd) m

/-- Takes a rule out of its slot and parks the slot. -/
def Mod.parkRule (m : Mod) (r : Nat × Rule) : Mod :=
  { m with pat := { m.pat with rules := tdel m.pat.rules r.1 } }.park (.rule (r.1 / 65536) (r.1 % 65536)) r.2.scope none

/-- A free rule slot of a slice. -/
def Mod.ruleSlot (m : Mod) (s : Nat) : Option Nat :=
  (List.range 65536).find? fun n => (tget m.pat.rules (s * 65536 + n)).isNone && !m.pat.parked.any fun p => p.what = .rule s n

/-- The next WSEQ of a key (R263): one more than the newest copy's, 0 for a new key. -/
def nextWseq {α : Type} (w : α → Nat) (l : List α) : Nat :=
  match laterOf w l with | some x => (w x + 1) % 256 | none => 0

/-- Puts a rule into a free slot of a slice; ERR_DETAIL 2 when there is none. -/
def Mod.putRuleOn (m : Mod) (s : Nat) (r : Rule) : Except Nat Mod :=
  match m.ruleSlot s with
  | some n => .ok { m with pat := { m.pat with rules := tput m.pat.rules (s * 65536 + n) r } }
  | none => .error 2

/-- Takes the mark of a lost rule off (R257). -/
def Mod.restoreRule (m : Mod) (q prio : Nat) : Mod :=
  { m with pat := { m.pat with lost := m.pat.lost.filter fun l => !(l.2.1 = q && l.2.2 = prio) } }

/-- A meter with both buckets full (R272). -/
def Mod.freshMeter (m : Mod) (q cir pir cbs pbs : Nat) : Meter :=
  { scope := q, cir := cir, pir := pir, cbs := cbs, pbs := pbs, tc := cbs * 8000, tp := pbs * 8000, at_ := m.ns }

/-- Puts a meter on every slice of its scope. -/
def Mod.putMeter (m : Mod) (q i cir pir cbs pbs : Nat) : Mod :=
  (m.scopeSlices q).foldl (fun m s =>
    { m with pat := { m.pat with meters := tput m.pat.meters (s * 16384 + i) (m.freshMeter q cir pir cbs pbs) } }) m

/-- Deletes a meter of a scope on every slice. -/
def Mod.delMeter (m : Mod) (q i : Nat) : Mod :=
  { m with pat := { m.pat with meters := m.pat.meters.filter fun x => !(decide (x.1 % 16384 = i) && decide (x.2.scope = q)) } }

/-- One direct change (R263): new copy, caches of S0 to S7, old copy; the ERR_DETAIL when it cannot be placed. `cmd`: the
command that waits for the slots of a deletion with DRAIN. (DESIGN CHOICE, log 27) -/
def Mod.change (m : Mod) (c : Cmd) (op : TblOp) : Except Nat Mod :=
  match op with
  | .putExact q _ k act =>
    let old := m.copies q k
    let e : ExEntry := { scope := q, key := k, wseq := nextWseq (·.2.wseq) old, act := act }
    match m.putCopy e with
    | .error d => .error d
    | .ok m =>
      let m := (List.range 8).foldl (fun m s => m.cacheUpdate s q k (some e)) m
      .ok (((m.copies q k).filter fun x => x.2 ≠ e).foldl (fun m x => m.parkCopy x none) m)
  | .delExact q drain k =>
    let m := (List.range 8).foldl (fun m s => m.cacheUpdate s q k none) m
    .ok ((m.copies q k).foldl (fun m x => m.parkCopy x (if drain then some c else none)) m)
  | .putRule q p value mask ranges act =>
    let old := m.ruleCopies q p
    let r : Rule := { scope := q, priority := p, wseq := nextWseq (·.2.wseq) old, value := value, mask := mask, ranges := ranges, act := act }
    match (m.scopeSlices q).foldlM (fun m s => m.putRuleOn s r) m with
    | .error d => .error d
    | .ok m => .ok ((old.foldl Mod.parkRule m).restoreRule q p)
  | .delRule q p => .ok (((m.ruleCopies q p).foldl Mod.parkRule m).restoreRule q p)
  | .putMeter q i cir pir cbs pbs => .ok (m.putMeter q i cir pir cbs pbs)
  | .delMeter q i => .ok (m.delMeter q i)

/-- Changes in order; position and detail of the first that cannot be placed. (DESIGN CHOICE, log 27) -/
def Mod.changes (m : Mod) (c : Cmd) : List (Nat × TblOp) → Except (Nat × Nat) Mod
  | [] => .ok m
  | (p, op) :: rest =>
    match m.change c op with
    | .error d => .error (p, d)
    | .ok m => m.changes c rest

/-- Stages operations into the transaction a handle names (R67, R72). -/
def Mod.stage (m : Mod) (c : Cmd) (ops : List (Nat × TblOp)) : Mod × Option Ans :=
  match handleFault c.mid (m.handle c.txn) with
  | some a => (m, some a)
  | none =>
    let slot := c.txn / 2 ^ 26
    match tget m.txns slot with
    | none => (m, some badHeader)
    | some t =>
      match ops.find? fun o => o.2.scope ≠ t.scope with
      | some o => (m, some (badTlv o.1 7))
      | none =>
        let all := t.ops.map (fun o => (0, o)) ++ ops
        let m' := { m with txns := tput m.txns slot { t with named := m.ns } }
        if t.ops.length + ops.length > 16384 then (m', some { status := stNoResource })
        else match m.quotaFault true all [] [] with
          | some p => (m', some { status := stNoResource, errTlv := p, errDetail := 2 })
          | none =>
            ({ m with txns := tput m.txns slot { t with ops := t.ops ++ ops.map (·.2), count := t.count + ops.length, named := m.ns } },
              some {})

/-- TBL_WRITE and TBL_DELETE (R264): staged with a handle, otherwise a direct change. (DESIGN CHOICE, log 27) -/
def Mod.tblChange (m : Mod) (c : Cmd) (op lo hi : Nat) : Mod :=
  let c := { c with opcode := op }
  let scopes : List Nat := match m.parseOps c lo hi with | .ok l => (l.map fun o => o.2.scope).eraseDups | .error _ => []
  (if c.txn = 0 then m else m.naming c op).runCmd c op (if c.txn = 0 then scopes.map Obj.scope else []) fun m =>
    match m.parseOps c lo hi with
    | .error a => (m, some a)
    | .ok [] => (m, some missing)
    | .ok ops =>
      if op = 0x0301 && decide (64 < ops.length) then (m, some (badTlv ((ops.getD 64 (0, .delMeter 0 0)).1)))
      else if c.txn ≠ 0 then m.stage c ops
      else if m.txns.any fun t => t.2.holds && t.2.owner = c.mid && scopes.contains t.2.scope then (m, some badHeader)
      else if ops.any fun o => m.opTagged o.2 then (m, none)
      else match m.existFault ops [] with
        | some (p, d) => (m, some (badTlv p d))
        | none => match m.quotaFault false ops [] [] with
          | some p => (m, some { status := stNoResource, errTlv := p, errDetail := 2 })
          | none => match m.changes c ops with
            | .error (p, d) => (m, some { status := stNoResource, errTlv := p, errDetail := d })
            | .ok m' => (m'.fgUse tablePorts, if m'.pat.parked.any fun p => p.cmd = some c then none else some {})

/-- TBL_WRITE (R264). -/
def execTblWrite (c : Cmd) (s : State) : Host.Outcome State Fault Refusal := run s fun m => m.tblChange c 0x0301 0x100 0x102

/-- TBL_DELETE (R264). -/
def execTblDelete (c : Cmd) (s : State) : Host.Outcome State Fault Refusal := run s fun m => m.tblChange c 0x0302 0x103 0x105

/-! ### TBL_READ -/

/-- An exact entry as its slot or slots (R249). -/
def ExEntry.bytes (e : ExEntry) : List Byte :=
  let wide := slotsOf e.key = 2
  let head := 1 + 2 * b2n wide + e.key.length * 2 ^ 3 + e.role * 2 ^ 6 + (if e.role = 0 then 0 else e.tag) * 2 ^ 8 + e.scope * 2 ^ 16 +
    e.wseq * 2 ^ 32
  let key := slice (e.key.flatMap (leBytes 8 ·)) 0 (if wide then 56 else 24)
  leBytes 8 head ++ key ++ slice (e.act.flatMap (leBytes 8 ·)) 0 32 ++ (if wide then List.replicate 32 0 else [])

/-- A rule as its slot (R256). -/
def Rule.bytes (r : Rule) : List Byte :=
  let head := 1 + r.value.length * 2 ^ 3 + r.role * 2 ^ 6 + (if r.role = 0 then 0 else r.tag) * 2 ^ 8 + r.scope * 2 ^ 16 +
    r.priority * 2 ^ 32 + r.wseq * 2 ^ 48
  leBytes 8 head ++ slice (r.value.flatMap (leBytes 8 ·)) 0 56 ++ slice (r.mask.flatMap (leBytes 8 ·)) 0 56 ++ List.replicate 8 0 ++
    slice (r.ranges.flatMap fun x => leBytes 4 x.1 ++ leBytes 4 x.2) 0 64 ++ slice (r.act.flatMap (leBytes 8 ·)) 0 32 ++
    List.replicate 32 0

/-- A meter as it was written, in a slot of 64 bytes. -/
def Meter.bytes (x : Meter) (i : Nat) : List Byte :=
  slice (leBytes 2 x.scope ++ leBytes 2 0 ++ leBytes 4 i ++ leBytes 4 x.cir ++ leBytes 4 x.pir ++ leBytes 4 x.cbs ++ leBytes 4 x.pbs) 0 64

/-- TBL_READ (R264): the visible contents. -/
def execTblRead (c : Cmd) (s : State) : Host.Outcome State Fault Refusal :=
  run s fun m => m.runCmd c 0x0303 [] fun m =>
    match m.parseOps c 0x103 0x105 with
    | .error a => (m, some a)
    | .ok [(p, op)] =>
      let stored := fun (sl : Nat) (b : List Byte) =>
        m.inLimit c (okWith [tlv 0x110 (leBytes 2 op.scope ++ leBytes 1 sl ++ leBytes 1 0 ++ b)])
      let gone := badTlv p 4
      let low := (m.scopeSlices op.scope).head?.getD 0
      (m, some (match op with
        | .delExact q _ k => match m.current q k with | some e => stored 0xFF e.2.bytes | none => gone
        | .delRule q pr => match laterOf (·.2.wseq) ((m.ruleCopies q pr).filter fun r => r.1 / 65536 = low && r.2.role ≠ 2) with
          | some r => stored low r.2.bytes
          | none => gone
        | .delMeter q i => match tget m.pat.meters (low * 16384 + i) with
          | some x => if x.scope = q then stored low (x.bytes i) else gone
          | none => gone
        | _ => gone))
    | .ok (_ :: (p, _) :: _) => (m, some (badTlv p))
    | .ok [] => (m, some missing)

/-! ### Staged transactions (R71 to R75, R265) -/

/-- The slot that TXN_BEGIN takes (R74): one never used, else the one whose transaction ended earliest. (DEDUCED, log 23) -/
def Mod.txnSlot (m : Mod) : Option Nat :=
  match tfree m.txns 64 with
  | some n => some n
  | none =>
    let l := m.txns.filter fun t => !t.2.holds
    (l.foldl (fun (b : Option (Nat × Txn)) t => match b with
      | some x => if t.2.ended < x.2.ended then some t else b
      | none => some t) none).map (·.1)

/-- TXN_BEGIN (R71, R72). (DEDUCED, log 23) -/
def execTxnBegin (c : Cmd) (s : State) : Host.Outcome State Fault Refusal :=
  run s fun m =>
    let q := leAt (c.val 0x100) 0 2
    m.runCmd c 0x0304 [.scope q] fun m =>
      if !m.scopeRight c.mid q then (m, some (badTlv (c.pos 0x100)))
      else if m.txns.any fun t => t.2.holds && t.2.scope = q && t.2.owner = c.mid then (m, some (badHeader 8))
      else match m.txnSlot with
        | none => (m, some { status := stNoResource })
        | some n =>
          let last := match tget m.txns n with | some t => t.serial | none => 0
          let serial := if (last + 1) % 2 ^ 26 = 0 then 1 else (last + 1) % 2 ^ 26
          let t : Txn := { serial := serial, scope := q, owner := c.mid, named := m.ns }
          ({ m with txns := tput m.txns n t }, some (okWith [tlv 0x101 (leBytes 4 (n * 2 ^ 26 + serial))]))

/-- A free publication tag (R265). -/
def Mod.freeTag (m : Mod) : Option Nat := tfree m.pat.pubs 64

/-- What the earlier operations of the same transaction placed for the key of this one goes again: the last operation of a key decides. -/
def Mod.retract (m : Mod) (t : Nat) (op : TblOp) : Mod :=
  match op with
  | .putExact q _ k _ | .delExact q _ k =>
    { m with pat := { m.pat with hbm := m.pat.hbm.filter fun e => !decide (e.2.role = 1 ∧ e.2.tag = t ∧ e.2.scope = q ∧ e.2.key = k) } }
  | .putRule q p _ _ _ _ | .delRule q p =>
    { m with pat := { m.pat with rules := m.pat.rules.filter fun r => !decide (r.2.role = 1 ∧ r.2.tag = t ∧ r.2.scope = q ∧ r.2.priority = p) } }
  | _ => m

/-- Places one staged operation with tag `t` (R265): the copy it supersedes becomes DISAPPEAR, its new copy APPEAR. (DEDUCED, log 25) -/
def Mod.placeStaged (m : Mod) (t : Nat) (op : TblOp) : Except Nat Mod :=
  let oldExact := fun (m : Mod) (q : Nat) (k : List Nat) => (m.copies q k).foldl (fun m x =>
    { m with pat := { m.pat with hbm := tput m.pat.hbm x.1 { x.2 with role := 2, tag := t } } }) m
  let oldRule := fun (m : Mod) (q p : Nat) => (m.ruleCopies q p).foldl (fun m x =>
    { m with pat := { m.pat with rules := tput m.pat.rules x.1 { x.2 with role := 2, tag := t } } }) m
  match op with
  | .putExact q _ k act =>
    let e : ExEntry := { scope := q, key := k, role := 1, tag := t, wseq := nextWseq (·.2.wseq) (m.copies q k), act := act }
    match (oldExact m q k).putCopy e with
    | .error d => .error d
    | .ok m => .ok (m.cacheTag q k t (some e))
  | .delExact q _ k => .ok ((oldExact m q k).cacheTag q k t none)
  | .putRule q p value mask ranges act =>
    let r : Rule := { scope := q, priority := p, role := 1, tag := t, wseq := nextWseq (·.2.wseq) (m.ruleCopies q p), value := value,
                      mask := mask, ranges := ranges, act := act }
    (m.scopeSlices q).foldlM (fun m s => m.putRuleOn s r) (oldRule m q p)
  | .delRule q p => .ok (oldRule m q p)
  | .putMeter q i cir pir cbs pbs => .ok (m.putMeter q i cir pir cbs pbs)
  | .delMeter q i => .ok (m.delMeter q i)

/-- What the validation of staged operations comes to (R73): all of them placed; the answer of the first that fails; or it waits, since
a key carries the tag of an earlier publication. -/
inductive Judged where
  | placed (m : Mod) | fails (a : Ans) | waits
  deriving DecidableEq, Repr

/-- Judges staged operations in staging order (R73): existence, quota and placement of each, against the contents as the earlier ones,
`done`, newest first, would leave them. `m0` is the module before them, `m` the one in which they are placed with tag `t`. (DEDUCED, log 25) -/
def Mod.judge (m0 m : Mod) (t : Nat) (done : List (Nat × TblOp)) : List (Nat × TblOp) → Judged
  | [] => .placed m
  | o :: rest =>
    if m0.opTagged o.2 then .waits
    else match m0.existFault [o] (done.map fun x => (x.2.scope, x.2.key, x.2.isPut)),
        m0.quotaFault true (o :: done).reverse [] [], (m.retract t o.2).placeStaged t o.2 with
      | some (p, d), _, _ => .fails { status := stInvalid, late := true, errTlv := p, errDetail := d }
      | none, some p, _ => .fails { status := stNoResource, late := true, errTlv := p, errDetail := 2 }
      | none, none, .error d => .fails { status := stNoResource, late := true, errTlv := o.1, errDetail := d }
      | none, none, .ok m => m0.judge m t (o :: done) rest

/-- Numbers operations in staging order. -/
def numbered : Nat → List TblOp → List (Nat × TblOp)
  | _, [] => []
  | n, op :: rest => (n, op) :: numbered (n + 1) rest

/-- The next slice of a publication switches (R73, R265): it records the sequence of its next dispatch, and a rule that was lost there and
that the transaction writes or deletes is no longer lost (R257). With S7 the transaction is COMMITTED, and the commit is answered unless a
deletion with DRAIN makes it wait for the clean-up (R75). -/
def Mod.switchNext (m : Mod) (g : Nat) (p : Pub) : Mod :=
  let s := p.seqs.length
  let p := { p with seqs := p.seqs ++ [(m.seamOf s).next], epoch := m.epoch }
  let lost := m.pat.lost.filter fun l => !(decide (l.1 = s) && p.rules.contains l.2)
  let m : Mod := { m with pat := { m.pat with pubs := tput m.pat.pubs g p, lost := lost } }.fgUse [145 + s]
  if s < 7 then m
  else
    let m := m.endTxn p.slot .committed 0
    match p.drain, p.cmd with
    | false, some c => m.reply c {}
    | _, _ => m

/-- The rule that an operation writes or deletes. -/
def TblOp.rule : TblOp → Option (Nat × Nat)
  | .putRule q p _ _ _ _ | .delRule q p => some (q, p)
  | _ => none

/-- TXN_COMMIT (R73, R75): validation, and the switch of S0 in the same step. While the transaction is PUBLISHING, each further row of the
same commit switches the next slice, up to S7. (DESIGN CHOICE, log 24) -/
def execTxnCommit (c : Cmd) (s : State) : Host.Outcome State Fault Refusal :=
  run s fun m =>
    let c := { c with opcode := 0x0305 }
    match m.pat.pubs.find? fun p => decide (p.2.cmd = some c) && decide (p.2.seqs.length < 8) with
    | some (g, p) => m.switchNext g p
    | none =>
      m.runCmd c 0x0305 [] fun m =>
        match handleFault c.mid (m.handle c.txn), tget m.txns (c.txn / 2 ^ 26) with
        | some a, _ => (m, some a)
        | none, none => (m, some badHeader)
        | none, some t =>
          let slot := c.txn / 2 ^ 26
          let m := { m with txns := tput m.txns slot { t with named := m.ns } }
          match m.judge m (m.freeTag.getD 64) [] (numbered 1 t.ops), m.freeTag with
          | .waits, _ => (m, none)
          | .fails a, _ => (m, some a)
          | .placed _, none => (m, some { status := stNoResource, late := true })
          | .placed m, some g =>
            let pub : Pub := { cmd := some c, slot := slot, rules := t.ops.filterMap TblOp.rule,
                               drain := t.ops.any fun o => match o with | .delExact _ d _ => d | _ => false }
            (({ m with txns := tadj m.txns slot fun t => { t with state := .publishing } } : Mod).switchNext g pub, none)

/-- PUBLICATION_CLEANUP of tag `g` (R265): APPEAR copies lose the tag, DISAPPEAR copies go and free their slots at once. (DESIGN CHOICE, log 24) -/
def Mod.cleanTag (m : Mod) (g : Nat) (p : Pub) : Mod :=
  let hbm := (m.pat.hbm.filter fun e => !(e.2.role = 2 && e.2.tag = g)).map fun e =>
    if e.2.role = 1 && e.2.tag = g then (e.1, { e.2 with role := 0, tag := 0 }) else e
  let rules := (m.pat.rules.filter fun e => !(e.2.role = 2 && e.2.tag = g)).map fun e =>
    if e.2.role = 1 && e.2.tag = g then (e.1, { e.2 with role := 0, tag := 0 }) else e
  let line := fun (l : Line) => if l.e.role = 1 && l.e.tag = g then { l with e := { l.e with role := 0, tag := 0 } } else l
  let cache := (m.pat.cache.map fun s => (s.1, (s.2.filter fun l => !(l.e.role = 2 && l.e.tag = g)).map line)).filter (·.2 ≠ [])
  let m := { m with pat := { m.pat with hbm := hbm, rules := rules, cache := cache, pubs := tdel m.pat.pubs g } }
  match p.drain, p.cmd with | true, some c => m.reply c {} | _, _ => m

/-- Records of pins or counters as TELEMETRY_READ gives them (R273). -/
def ctrRecord (pk by_ pe be : Nat) (sat : Bool) : List Byte :=
  leBytes 8 pk ++ leBytes 8 by_ ++ leBytes 1 (pe + be * 16) ++ leBytes 1 (b2n sat) ++ List.replicate 6 0

/-- COUNTER_DATA: LATCH, the number of records, the records. -/
def Mod.ctrData (m : Mod) (n : Nat) (recs : List Byte) : Tlv :=
  tlv 0x101 (leBytes 8 (time64 m.now) ++ leBytes 4 n ++ leBytes 4 0 ++ recs)

/-- PARKED_FREE and PUBLICATION_CLEANUP at a turn boundary (R265, R266): what no live pass can see any more is free, and the
commands that waited for it reply. -/
def Mod.patTurn (m : Mod) : Mod :=
  let m := (m.pat.pubs.filter fun p => decide (p.2.seqs.length = 8) && m.drained p.2.epoch).foldl (fun m p => m.cleanTag p.1 p.2) m
  let free := m.pat.parked.filter fun p => m.drained p.epoch
  let m := { m with pat := { m.pat with parked := m.pat.parked.filter fun p => !m.drained p.epoch } }
  let cmds := (free.filterMap (·.cmd)).eraseDups.filter fun c => !m.pat.parked.any fun p => p.cmd = some c
  cmds.foldl (fun m c =>
    match free.find? fun p => p.cmd = some c && (match p.what with | .pins _ _ => true | _ => false) with
    | some p => match p.what with
      | .pins _ vals =>
        let recs := fun (l : List (Nat × Nat)) => l.flatMap fun v => ctrRecord v.1 v.2 0 0 false
        match c.buffer with
        | some _ => (m.bufferWrite c (recs vals)).reply c (okWith [m.ctrData vals.length []])
        | none => let k := min vals.length (fits c 0 16 24); m.reply c (okWith [m.ctrData k (recs (vals.take k))])
      | _ => m.reply c {}
    | none => m.reply c {}) m

/-! ### Port actions (R261) -/

/-- The ports and endpoints that the ACTION TLVs write (R61). -/
def actionObjs (c : Cmd) : List Obj := (c.all 0x100).map fun t => if leAt t.2 0 2 < 96 then .port (leAt t.2 0 2) else .endpoint (leAt t.2 0 2 - 96)

/-- DEFAULT_ACTION_SET and MALFORMED_ACTION_SET: indices below `n`, words from `w0`. -/
def Mod.actionSet (m : Mod) (c : Cmd) (op n w0 : Nat) : Mod :=
  m.runCmd c op (actionObjs c) fun m =>
    let ts := c.all 0x100
    let bad := fun (t : Nat × List Byte) =>
      let a0 := leAt t.2 8 8
      if leAt t.2 0 2 ≥ n then some 1
      else if bits a0 48 3 ≥ 4 || bit a0 47 || bits a0 54 10 ≠ 0 || (bits a0 48 3 ≠ 3 && bits (leAt t.2 24 8) 16 48 ≠ 0) ||
          bit (leAt t.2 24 8) 47 then some 2
      else none
    match ts.findSome? fun t => (bad t).map fun d => (t.1, d) with
    | some (p, d) => (m, some (badTlv p d))
    | none =>
      (ts.foldl (fun m t => (List.range 4).foldl (fun m w => m.set F.PAT_PORT_ACT_WORD [leAt t.2 0 2, w0 + w] (leAt t.2 (8 + 8 * w) 8)) m) m,
        some {})

/-- DEFAULT_ACTION_SET (R261). (DESIGN CHOICE, log 27) -/
def execDefaultActionSet (c : Cmd) (s : State) : Host.Outcome State Fault Refusal := run s fun m => m.actionSet c 0x0308 128 0

/-- MALFORMED_ACTION_SET (R261). (DESIGN CHOICE, log 27) -/
def execMalformedActionSet (c : Cmd) (s : State) : Host.Outcome State Fault Refusal := run s fun m => m.actionSet c 0x0309 96 4

/-! ### Pins (R271) -/

/-- A pin number is held or parked. -/
def Mod.pinTaken (m : Mod) (i : Nat) : Bool :=
  (tget m.pat.pins i).isSome || m.pat.parked.any fun p => match p.what with
    | .pins f v => decide (f ≤ i ∧ i < f + v.length)
    | _ => false

/-- The numbers at which `n` contiguous pins may start: after a pin in use or at 0. -/
def Mod.pinStarts (m : Mod) : List Nat :=
  0 :: (m.pat.pins.map fun p => p.1 + 1) ++ m.pat.parked.filterMap fun p => match p.what with | .pins f v => some (f + v.length) | _ => none

/-- The first pin of `n` free contiguous ones (R271). -/
def Mod.pinRange (m : Mod) (n : Nat) : Option Nat :=
  let ok := fun (f : Nat) => decide (f + n ≤ 1048576) && !(m.pat.pins.any fun p => decide (f ≤ p.1 ∧ p.1 < f + n)) &&
    !(m.pat.parked.any fun p => match p.what with | .pins g v => decide (f < g + v.length ∧ g < f + n) | _ => false)
  (m.pinStarts.filter ok).foldl (fun (b : Option Nat) f => match b with | some x => some (min x f) | none => some f) none

/-- COUNTER_PIN (R271). -/
def execCounterPin (c : Cmd) (s : State) : Host.Outcome State Fault Refusal :=
  run s fun m => m.runCmd c 0x030A [] fun m =>
    let v := c.val 0x100
    let q := leAt v 0 2
    let n := leAt v 4 4
    if !m.scopeRight c.mid q || n = 0 || n > 65536 then (m, some (badTlv (c.pos 0x100)))
    else if m.pinsUsed q + n > m.get F.PAT_SCOPE_PINS_PIN_QUOTA [q] then (m, some { status := stNoResource })
    else match m.pinRange n with
      | none => (m, some { status := stNoResource })
      | some f =>
        let pins := (List.range n).foldl (fun (t : Tab Pin) i => tput t (f + i) { scope := q }) m.pat.pins
        ({ m with pat := { m.pat with pins := pins } }, some (okWith [tlv 0x101 (leBytes 4 f ++ leBytes 4 n)]))

/-- The pins that COUNTER_UNPIN names (R61). -/
def pinObjs (c : Cmd) : List Obj := (List.range (min (leAt (c.val 0x100) 4 4) 65536)).map fun i => .pin (leAt (c.val 0x100) 0 4 + i)

/-- COUNTER_UNPIN (R271): the pins are parked with their final values, and the reply waits until they are free; it carries them as a
TELEMETRY_READ does, into a BUFFER too (R273). Its TLV gives the first pin in bytes 0 to 3 and the count in bytes 4 to 7. -/
def execCounterUnpin (c : Cmd) (s : State) : Host.Outcome State Fault Refusal :=
  run s fun m =>
    let c := { c with opcode := 0x030B }
    m.runCmd c 0x030B (pinObjs c) fun m =>
      let v := c.val 0x100
      let f := leAt v 0 4
      let n := leAt v 4 4
      match tget m.pat.pins f with
      | none => (m, some (badTlv (c.pos 0x100)))
      | some p0 =>
        let q := p0.scope
        let all := (m.pat.pins.filter fun p => decide (f ≤ p.1 ∧ p.1 < f + n) && p.2.scope = q)
        let short := match c.buffer with | some (_, l, _) => decide (l < 24 * n) | none => false
        if n = 0 || all.length ≠ n || !m.scopeRight c.mid q then (m, some (badTlv (c.pos 0x100)))
        else if short then (m, some (badTlv (c.pos 1)))
        else
          let m := { m with pat := { m.pat with pins := m.pat.pins.filter fun p => !decide (f ≤ p.1 ∧ p.1 < f + n) } }
          (m.park (.pins f (all.map fun p => p.2.read 255)) q (some c), none)

/-! ### TELEMETRY_READ (R157, R273) -/

/-- The 32-byte header of HIST_DATA. -/
def Mod.histHeader (m : Mod) (h : Hist) (next pairs : Nat) : List Byte :=
  leBytes 8 (time64 m.now) ++ leBytes 8 h.stepped ++ leBytes 8 h.mismatch ++ leBytes 2 next ++ leBytes 2 pairs ++ leBytes 4 0

/-- A histogram read (R157). -/
def Mod.histRead (m : Mod) (c : Cmd) : Mod × Option Ans :=
  let v := c.val 0x180
  let p := c.pos 0x180
  let n := leAt v 0 2
  let first := leAt v 2 2
  let clear := bit (leAt v 4 1) 0
  let mine := m.flag F.TCK_HIST_CFG_OWNER_VALID [n] && decide (driverOf c.mid = some (m.get F.TCK_HIST_CFG_OWNER [n]))
  let h := tgetD m.tack.hists n {}
  if n ≥ 4096 || !(m.isManager c.mid || mine) then (m, some (badTlv p))
  else match c.buffer with
    | some (_, len, _) =>
      if len < 13864 then (m, some (badTlv (c.pos 1)))
      else
        let head := m.histHeader h 0xFFFF 0
        let body := head ++ (List.range 1729).flatMap fun b => leBytes 8 (tgetD h.buckets b 0)
        let m := m.bufferWrite c body
        (if clear then { m with tack := { m.tack with hists := tdel m.tack.hists n } } else m, some (okWith [tlv 0x181 head]))
    | none =>
      if clear then (m, some (badTlv p))
      else
        let all := h.buckets.filter fun b => decide (first ≤ b.1) && b.2 ≠ 0
        let room := (c.src.limit - 64 - 4 - 32 - 16 * b2n (c.tlv 3).isSome) / 8
        let got := all.take room
        let next := match all.drop room with | [] => 0xFFFF | b :: _ => b.1
        let body := m.histHeader h next got.length ++ got.flatMap fun b => leBytes 8 (b.1 + min b.2 (2 ^ 48 - 1) * 2 ^ 16)
        (m, some (okWith [tlv 0x181 body]))

/-- The record of compressed counter `i` over the slices of a mask. -/
def Mod.ctrRead (m : Mod) (i mask : Nat) : List Byte :=
  let xs := ((List.range 8).filter fun s => bit mask s).map fun s => tgetD m.pat.ctrs (ctrKey s i) {}
  let (p, b) := tgetD m.pat.accum i (0, 0)
  ctrRecord ((p + sumOf xs fun x => cval x.pk) % 2 ^ 64) ((b + sumOf xs fun x => cval x.by_) % 2 ^ 64)
    (xs.foldl (fun a x => max a x.pkMax) 0) (xs.foldl (fun a x => max a x.byMax) 0) (xs.any (·.sat))

/-- Clears what a read reported (R273). -/
def Mod.ctrClear (m : Mod) (i mask : Nat) : Mod :=
  let ctrs := ((List.range 8).filter fun s => bit mask s).foldl (fun (t : Tab Ctr) s => tdel t (ctrKey s i)) m.pat.ctrs
  let keys := ((List.range 8).filter fun s => bit mask s).map fun s => ctrKey s i
  { m with pat := { m.pat with ctrs := ctrs, accum := if mask % 256 = 0 then m.pat.accum else tdel m.pat.accum i,
                               flushQ := m.pat.flushQ.filter fun k => !keys.contains k } }

/-- A counter read (R273). -/
def Mod.countersRead (m : Mod) (c : Cmd) : Mod × Option Ans :=
  let v := c.val 0x100
  let p := c.pos 0x100
  let q := leAt v 0 2
  let exact := bit (leAt v 2 1) 0
  let clear := bit (leAt v 2 1) 1
  let mask := leAt v 3 1
  let first := leAt v 4 4
  let n := leAt v 8 4
  let base := m.get F.PAT_SCOPE_CTR_CTR_BASE [q]
  let inRange := if exact then decide ((m.pat.pins.countP fun x => decide (first ≤ x.1 ∧ x.1 < first + n) && x.2.scope = q) = n)
    else (m.scopeKind q = 1 || m.scopeKind q = 2) && decide (base ≤ first ∧ first + n ≤ base + m.get F.PAT_SCOPE_CTR_CTR_COUNT [q])
  if n = 0 || n > 65536 || !m.scopeRight c.mid q || !inRange then (m, some (badTlv p))
  else
    let k := match c.buffer with | some _ => n | none => min n (fits c 0 16 24)
    let one := fun (i : Nat) => if exact then
        match tget m.pat.pins i with | some x => ctrRecord (x.read mask).1 (x.read mask).2 0 0 false | none => ctrRecord 0 0 0 0 false
      else m.ctrRead i mask
    let recs := (List.range k).flatMap fun i => one (first + i)
    let short := match c.buffer with | some (_, l, _) => decide (l < recs.length) | none => false
    if short then (m, some (badTlv (c.pos 1)))
    else
      let m1 := if !clear then m else (List.range k).foldl (fun m i =>
        if exact then { m with pat := { m.pat with pins := tadj m.pat.pins (first + i) fun x => x.clear mask } }
        else m.ctrClear (first + i) mask) m
      match c.buffer with
      | some _ => (m1.bufferWrite c recs, some (okWith [m.ctrData k []]))
      | none => (m1, some (okWith [m.ctrData k recs]))

/-- TELEMETRY_READ (R273): exactly one of HISTOGRAM and COUNTERS. -/
def execTelemetryRead (c : Cmd) (s : State) : Host.Outcome State Fault Refusal :=
  run s fun m => m.runCmd c 0x030C [] fun m =>
    match c.tlv 0x100, c.tlv 0x180 with
    | some _, none => m.countersRead c
    | none, some _ => m.histRead c
    | some (p, _), some (q, _) => (m, some (badTlv (max p q)))
    | none, none => (m, some missing)

/-! ### TBL_SCOPE_ASSIGN (R248) -/

/-- A scope holds entries, rules, pins or meters. -/
def Mod.scopeHolds (m : Mod) (q : Nat) : Bool :=
  (m.pat.hbm.any fun e => e.2.scope = q) || (m.pat.rules.any fun r => r.2.scope = q) || (m.pat.pins.any fun p => p.2.scope = q) ||
    m.pat.meters.any fun x => x.2.scope = q

/-- CLEAR deletes everything of a scope; what it frees is parked (R248, R266). -/
def Mod.scopeClear (m : Mod) (q : Nat) : Mod :=
  let cache := (m.pat.cache.map fun s => (s.1, s.2.filter fun l => l.e.scope ≠ q)).filter (·.2 ≠ [])
  let fills := m.pat.fills.map fun f => if f.scope = q then { f with stale := true } else f
  let m := { m with pat := { m.pat with cache := cache, fills := fills } }
  let m := (m.pat.hbm.filter fun e => e.2.scope = q).foldl (fun m e => m.parkCopy e none) m
  let m := (m.pat.rules.filter fun r => r.2.scope = q).foldl Mod.parkRule m
  let pins := m.pat.pins.filter fun p => p.2.scope = q
  let m := pins.foldl (fun m p =>
    { m with pat := { m.pat with pins := tdel m.pat.pins p.1 } }.park (.pins p.1 [p.2.read 255]) q none) m
  { m with pat := { m.pat with meters := m.pat.meters.filter fun x => x.2.scope ≠ q, lost := m.pat.lost.filter fun l => l.2.1 ≠ q } }

/-- The scope registers as a SCOPE TLV gives them. -/
def Mod.scopePut (m : Mod) (v : List Byte) : Mod :=
  let q := leAt v 0 2
  let m := (m.setStored .PAT_SCOPE_CFG [q] (leAt v 8 8)).setStored .PAT_SCOPE_CTR [q] (leAt v 16 8)
  let m := (m.setStored .PAT_SCOPE_GAUGE [q, 0] (leAt v 24 8)).setStored .PAT_SCOPE_GAUGE [q, 1] (leAt v 32 8)
  m.set F.PAT_SCOPE_PINS_PIN_QUOTA [q] (bits (leAt v 40 8) 0 21)

/-- What is wrong with the scopes as they would stand: the ERR_DETAIL for ranges that overlap or overrun (3), Gauge fields (4). -/
def Mod.scopeFault (m : Mod) (q : Nat) : Option Nat :=
  let kind := m.scopeKind q
  let lo := m.get F.PAT_SCOPE_CTR_CTR_BASE [q]
  let n := m.get F.PAT_SCOPE_CTR_CTR_COUNT [q]
  let counts := fun (k : Nat) => k = 1 || k = 2
  let clash := (List.range 0x1100).any fun x => x ≠ q && ((counts kind && counts (m.scopeKind x)) || (kind = 3 && m.scopeKind x = 3)) &&
    decide (n ≠ 0 ∧ m.get F.PAT_SCOPE_CTR_CTR_COUNT [x] ≠ 0) && decide (lo < m.get F.PAT_SCOPE_CTR_CTR_BASE [x] + m.get F.PAT_SCOPE_CTR_CTR_COUNT [x] ∧ m.get F.PAT_SCOPE_CTR_CTR_BASE [x] < lo + n)
  let isOver := (counts kind && lo + n > 4194304) || (kind = 3 && lo + n > 16384)
  let gauge := (List.range 8).any fun g => match m.gauge q g with
    | some (off, w) => kind ≠ 2 || off % 64 + w > 63 || off / 64 ≥ m.keyWords q
    | none => false
  if clash || isOver then some 3 else if gauge then some 4 else none

/-- The quota sums of R248 are within the module's. -/
def Mod.quotaSums (m : Mod) : Bool :=
  let qs := (List.range 0x1100).filter fun q => m.scopeKind q ≠ 0
  decide (sumOf (qs.filter fun q => m.scopeKind q = 1) (fun q => m.get F.PAT_SCOPE_CFG_QUOTA [q]) ≤ 268435456) &&
    ((List.range 8).all fun s => decide (sumOf (qs.filter fun q => m.scopeKind q = 2 && (m.scopeSlices q).contains s)
      (fun q => m.get F.PAT_SCOPE_CFG_QUOTA [q]) ≤ 65536)) &&
    decide (sumOf qs (fun q => m.get F.PAT_SCOPE_PINS_PIN_QUOTA [q]) ≤ 1048576)

/-- The first fault of one SCOPE TLV against the present scopes (R248): ERR_DETAIL 1, 2, or 0 for a reserved encoding. -/
def Mod.scopeTlvFault (m : Mod) (v : List Byte) : Option Nat :=
  let q := leAt v 0 2
  let clear := bit (leAt v 2 1) 0
  let cfg := leAt v 8 8
  let kind := bits cfg 0 2
  let kw := bits cfg 2 3
  let changed := kind ≠ m.scopeKind q || kw ≠ m.keyWords q ||
    leAt v 24 8 ≠ m.stored .PAT_SCOPE_GAUGE [q, 0] || leAt v 32 8 ≠ m.stored .PAT_SCOPE_GAUGE [q, 1]
  if q ≥ 0x1100 || (q < 0x1000 && kind = 2) || (q ≥ 0x1000 && kind ≠ 0 && kind ≠ 2) || ((kind = 1 || kind = 2) && kw = 0) ||
      (kind = 3 && kw ≠ 0) then some 0
  else if changed && m.scopeHolds q && !clear then some 1
  else if bits cfg 32 32 < m.scopeUsed q || bits (leAt v 40 8) 0 21 < m.pinsUsed q then some 2
  else none

/-- TBL_SCOPE_ASSIGN (R248). -/
def execTblScopeAssign (c : Cmd) (s : State) : Host.Outcome State Fault Refusal :=
  run s fun m => m.runCmd c 0x030D ((c.all 0x100).map fun t => .scope (leAt t.2 0 2)) fun m =>
    let ts := c.all 0x100
    let twice := ts.find? fun t => (ts.filter fun u => leAt u.2 0 2 = leAt t.2 0 2 && decide (u.1 < t.1)) ≠ []
    match ts.findSome? fun t => (m.scopeTlvFault t.2).map fun d => (t.1, d), twice with
    | some (p, d), _ => (m, some (badTlv p d))
    | none, some t => (m, some (badTlv t.1 5))
    | none, none =>
      let m1 := ts.foldl (fun m t => (if bit (leAt t.2 2 1) 0 then m.scopeClear (leAt t.2 0 2) else m).scopePut t.2) m
      match ts.findSome? fun t => (m1.scopeFault (leAt t.2 0 2)).map fun d => (t.1, d) with
      | some (p, d) => (m, some (badTlv p d))
      | none => if !m1.quotaSums then (m, some { status := stNoResource }) else (m1, some {})

end Sys2Proof.Machine
end

