-- ==== Sys2Proof/Machine/SeamOrder.lean ====
section
/-! DEFINITION. *Seam and ordering promises*: sequences, lanes, release, stale passes, errors in Seam's own state. -/

namespace Sys2Proof.Machine

/-- Puts the Seam of a slice. -/
def Mod.putSeam (m : Mod) (s : Nat) (x : Seam) : Mod := { m with shu := { m.shu with seam := tput m.shu.seam s x } }

/-- Counts in SEA_CNT. -/
def Mod.seaCount (m : Mod) (s i : Nat) : Mod := m.count F.SEA_CNT_COUNT [s, i]

/-- The lane of a pass (R275): FLOW and the control class decide, and for a first pass from a port the port. -/
def laneOf (p : Pkt) (ctrl : Bool) : Nat :=
  match p.origin, p.passes with
  | .port n _, 0 => 2 * (n % 12) + b2n ctrl
  | _, _ => 24 + crc32c 0xFFFFFFFF (wordBytes (p.flow % 2 ^ 32 + b2n ctrl * 2 ^ 32)) % 4072

/-- A pass is of a timer event. -/
def Origin.isTimer : Origin → Bool
  | .timer _ _ => true
  | _ => false

/-- The lane that a dispatch of packet `p` on slice `s` would join; none for a FREE vector (R278). -/
def Mod.dispatchLane (m : Mod) (s : Nat) (p : Pkt) (ctrl : Bool) : Option Nat :=
  if bit (m.stored .SEA_MODE [s]) p.vector && !(p.origin.isTimer && p.passes = 0) then none else some (laneOf p ctrl)

/-- The lane holds fewer than LANE_LIMIT passes (R280). -/
def Mod.laneRoom (m : Mod) (s : Nat) (lane : Option Nat) : Bool :=
  match lane with
  | some l => decide ((m.seamOf s).laneCount l < m.get F.SEA_CFG_LANE_LIMIT [s])
  | none => true

/-- The lane is being rebuilt, and no pass enters it (R282). -/
def Mod.laneRebuilds (m : Mod) (s : Nat) (lane : Option Nat) : Bool :=
  match lane with
  | some l => (m.seamOf s).rebuild.contains l
  | none => false

/-- A pass takes the next sequence and a context (R274). -/
def Mod.seamStart (m : Mod) (s : Nat) (lane : Option Nat) (p : Pkt) : Nat × Mod :=
  let x := m.seamOf s
  (x.next, m.putSeam s { x with next := (x.next + 1) % 2 ^ 24, ctxs := x.ctxs ++ [{ seq := x.next, lane := lane, origin := p.origin }] })

/-- The earliest live pass of a lane. -/
def Seam.head (x : Seam) (l : Nat) : Option SeamCtx := x.ctxs.find? fun c => c.lane = some l

/-- The ended passes that lead a lane become releasable, in sequence order (R277, R279). -/
def Seam.wake (x : Seam) (lane : Option Nat) : Seam :=
  match lane with
  | none => x
  | some l =>
    if x.rebuild.contains l then x
    else
      let lead := ((x.ctxs.filter fun c => c.lane = some l).takeWhile (·.ended)).map (·.seq)
      { x with ready := x.ready ++ lead.filter fun q => !x.ready.contains q }

/-- A context is freed; the next pass of its lane may go. -/
def Seam.drop (x : Seam) (seq : Nat) : Seam :=
  match x.ctxs.find? (·.seq = seq) with
  | some c => { x with ctxs := x.ctxs.filter (·.seq ≠ seq), ready := x.ready.filter (· ≠ seq) }.wake c.lane
  | none => x

/-- A pass ends with what its release places; it counts in HELD when an earlier pass of its lane is still live. -/
def Mod.seamEnd (m : Mod) (s seq : Nat) (place : List (Pkt × Dest)) (input : List Charge) : Mod :=
  let x := m.seamOf s
  let up := fun (c : SeamCtx) => if c.seq = seq then { c with ended := true, place := place, input := input, endNs := m.ns } else c
  let x := { x with ctxs := x.ctxs.map up }
  match x.ctxs.find? (·.seq = seq) with
  | none => m
  | some c =>
    match c.lane with
    | none => m.putSeam s { x with ready := x.ready ++ [seq] }
    | some l =>
      let first := match x.head l with | some h => decide (h.seq = seq) | none => false
      let m := m.putSeam s (x.wake (some l))
      if first then m else m.seaCount s 3

/-- A pass is resolved: its context is freed and its input cells with it (R277, R288). Counter 1 counts it, or 2 for a hole. -/
def Mod.seamResolve (m : Mod) (s seq counter : Nat) (input : List Charge) : Mod :=
  (m.putSeam s ((m.seamOf s).drop seq)).freeAll input |>.seaCount s counter

/-- The present generation of an owner of rings (R438). -/
def Mod.ownerGen (m : Mod) (o : Nat) : Nat := if o < 4096 then m.instGen o else tgetD m.spl.lastGen o 0

/-- A pass descends from a send whose owner has another generation now (R281). -/
def Mod.staleOrigin (m : Mod) : Origin → Bool
  | .host ep inst _ gen _ => decide (m.ownerGen (if inst < 4096 then inst else 4096 + ep) ≠ gen)
  | _ => false

/-- The egress slice of a port or a ring (R38). -/
def Mod.destSlice (m : Mod) : Dest → Option Nat
  | .port n _ => if n < 96 then some (n / 12) else none
  | .ring r => (m.recvRing r).map fun x => m.ownerEp x.owner / 4
  | .recirc _ _ => none

/-- The groups of a release: packets alike that go to one egress slice share their crossing and their cells there (R38, R289); 0 where a
packet goes alone. (DEDUCED, log 29) -/
def Mod.refsOf (m : Mod) (l : List (Pkt × Dest)) : List Nat :=
  l.map fun x =>
    let same := fun (y : Pkt × Dest) => decide (m.destSlice y.2 = m.destSlice x.2) && decide (y.1.bytes = x.1.bytes) && decide (y.1.tc = x.1.tc)
    if (m.destSlice x.2).isNone || l.countP same < 2 then 0 else m.plt.nextRef + 1 + l.findIdx same

/-- Places packets in turn, each with its group (R279): a fifth recirculation is dropped (R36). (DEDUCED, log 29) -/
def Mod.placeEach (m : Mod) (s : Nat) (busy : Bool) : List ((Pkt × Dest) × Nat) → Mod
  | [] => m
  | ((p, d), g) :: rest =>
    let isOver := match d with | .recirc _ _ => decide (4 ≤ p.passes) | _ => false
    (if isOver then (m.count F.SHU_CNT_COUNT [s, 8]).sendLost p 6 else m.placePkt s p d busy g).placeEach s busy rest

/-- Places what a released pass holds (R279). -/
def Mod.placeList (m : Mod) (s : Nat) (busy : Bool) (l : List (Pkt × Dest)) : Mod :=
  let gs := m.refsOf l
  (if gs.all (· = 0) then m else { m with plt := { m.plt with nextRef := m.plt.nextRef + l.length } }).placeEach s busy (l.zip gs)

/-- SEAM_RELEASE: the pass that became releasable first leaves its lane (R277, R279). Its input cells are freed before its
packets are admitted (R293). `busy`: the spill's bandwidth takes nothing now (R297). (DEDUCED, log 29) -/
def execSeamRelease (sl : Fin 8) (busy : Bool) (s : State) : Host.Outcome State Fault Refusal :=
  run s fun m =>
    let x := m.seamOf sl
    match x.ready with
    | [] => m
    | seq :: _ =>
      match x.ctxs.find? (·.seq = seq) with
      | none => m.putSeam sl (x.drop seq)
      | some c =>
        let wait := min ((m.ns - c.endNs) / 64) 0xFFFF
        let m := m.set F.SEA_LANE_STATUS_HOLD_MAX [sl] (max (m.get F.SEA_LANE_STATUS_HOLD_MAX [sl]) wait)
        let m := ((m.putSeam sl (x.drop seq)).seaCount sl 0).freeAll c.input
        if m.staleOrigin c.origin then c.place.foldl (fun m p => m.sendLost p.1 6) (m.seaCount sl 7)
        else m.placeList sl busy c.place

/-- An uncorrectable error in a Seam context (R282): its pass is resolved at once; a pass that has ended loses its packets now,
one that runs at its END. -/
def Mod.seamCtxError (m : Mod) (s seq : Nat) : Mod :=
  let x := m.seamOf s
  match x.ctxs.find? (·.seq = seq) with
  | none => m
  | some c =>
    let m := (m.putSeam s (x.drop seq)).eccFatal 5 (leBytes 1 s ++ leBytes 3 seq)
    if c.ended then c.place.foldl (fun m p => m.sendLost p.1 6) ((m.freeAll c.input).seaCount s 5)
    else
      let engines := m.shu.engines.map fun e =>
        if e.1 / 160 = s then (e.1, { e.2 with threads := e.2.threads.map fun t =>
          if t.2.seq = seq && t.2.running then (t.1, { t.2 with ctxEcc := true }) else t }) else e
      { m with shu := { m.shu with engines := engines } }

/-- An uncorrectable error in a lane's own state (R282): the lane is rebuilt; nothing enters it or leaves it meanwhile. -/
def Mod.seamLaneError (m : Mod) (s l : Nat) : Mod :=
  let x := m.seamOf s
  if x.rebuild.contains l then m
  else
    let mine := (x.ctxs.filter fun c => c.lane = some l).map (·.seq)
    ((m.putSeam s { x with rebuild := l :: x.rebuild, ready := x.ready.filter fun q => !mine.contains q }).seaCount s 6).eccFatal 5

/-- LANE_REBUILD_DONE: the rebuild of a lane ends; its head goes on (R282). -/
def execLaneRebuildDone (sl : Fin 8) (lane : Fin 4096) (s : State) : Host.Outcome State Fault Refusal :=
  run s fun m =>
    let x := m.seamOf sl
    if x.rebuild.contains lane then m.putSeam sl ({ x with rebuild := x.rebuild.filter (· ≠ lane.val) }.wake (some lane)) else m

end Sys2Proof.Machine
end

