-- ==== Sys2Proof/Machine/Shuttle.lean ====
section
/-! DEFINITION. *Shuttle engines and threads*: dispatch, issue, responses, END, faults, banks, control stores. -/

namespace Sys2Proof.Machine

/-- Counts in SHU_CNT. -/
def Mod.shuCount (m : Mod) (s i : Nat) : Mod := m.count F.SHU_CNT_COUNT [s, i]

/-- Counts in SHU_DISP_CNT. -/
def Mod.dispCount (m : Mod) (s i : Nat) : Mod := m.count F.SHU_DISP_CNT_COUNT [s, i]

/-- A thread. -/
def Mod.th (m : Mod) (s e t : Nat) : Thread := (m.eng s e).thread t

/-- Puts a thread. -/
def Mod.putTh (m : Mod) (s e t : Nat) (x : Thread) : Mod :=
  let g := m.eng s e
  m.putEng s e { g with threads := tput g.threads t x }

/-- A thread's pass is over: IDLE, or DISABLED with weight 0 (R213). -/
def Mod.clearTh (m : Mod) (s e t : Nat) : Mod :=
  let g := m.eng s e
  m.putEng s e { g with threads := tdel g.threads t }

/-- Changes the Shuttle. -/
def Mod.setShu (m : Mod) (f : Shuttle → Shuttle) : Mod := { m with shu := f m.shu }

/-! ### Shares (R210) -/

/-- Threads with non-zero weight. -/
def Engine.enabled (x : Engine) : Nat := max 1 (x.act.weights.countP (· ≠ 0))

/-- A share setting of the active bank: CREDIT_MIN, CREDIT_MAX, CELL_MIN, CELL_MAX. -/
def Engine.dynamic (x : Engine) : Bool := bit x.act.share 0
def Engine.creditMin (x : Engine) : Nat := bits x.act.share 1 3
def Engine.creditMax (x : Engine) : Nat := bits x.act.share 4 4
def Engine.cellMin (x : Engine) : Nat := bits x.act.share 8 3
def Engine.cellMax (x : Engine) : Nat := bits x.act.share 11 6

/-- A tag holds a credit of a channel: its response has not arrived. -/
def TagSt.uses (g : TagSt) (ch : Nat) : Bool :=
  match g with
  | .out q => q.ch = ch
  | .busy c => c = ch
  | .flying c _ => c = ch
  | .held _ => false

/-- A tag's response has not arrived. -/
def TagSt.outstanding (g : TagSt) : Bool := match g with | .held _ => false | _ => true

/-- Credits of a channel that a thread holds. -/
def Thread.credits (x : Thread) (ch : Nat) : Nat := x.tags.countP fun g => g.2.uses ch

/-- What the other enabled threads have reserved and not taken. -/
def Engine.reservedFor (x : Engine) (t lo : Nat) (f : Thread → Nat) : Nat :=
  sumOf ((List.range 16).filter fun u => u ≠ t && x.weight u ≠ 0) fun u => lo - f (x.thread u)

/-- A credit exists for thread `t` on a channel. -/
def Engine.hasCredit (x : Engine) (t ch : Nat) : Bool :=
  let mine := (x.thread t).credits ch
  let total := sumOf (List.range 16) fun u => (x.thread u).credits ch
  if x.dynamic then
    decide (total < 64) && decide (mine < x.creditMax) &&
      ((x.weight t ≠ 0 && decide (mine < x.creditMin)) || decide (total + x.reservedFor t x.creditMin (fun th => th.credits ch) < 64))
  else decide (total < 64) && decide (mine < min 8 (64 / x.enabled))

/-- Cells that a thread holds of the pool. -/
def Thread.cells (x : Thread) : Nat := x.held + x.reserved

/-- The thread's cell share and the pool have `n` cells for it. -/
def Engine.hasCells (x : Engine) (t n : Nat) : Bool :=
  let mine := (x.thread t).cells
  if n = 0 then true
  else if x.dynamic then
    decide (mine + n ≤ x.cellMax) &&
      ((x.weight t ≠ 0 && decide (mine + n ≤ x.cellMin ∧ n ≤ x.pool)) || decide (n + x.reservedFor t x.cellMin Thread.cells ≤ x.pool))
  else decide (mine + n ≤ min 32 (64 / x.enabled)) && decide (n ≤ x.pool)

/-- Takes `n` cells of the pool for a thread: as reserved cells or as cells in use. -/
def Mod.takeCells (m : Mod) (s e t n : Nat) (reserve : Bool) : Option Mod :=
  let m := if (m.eng s e).pool < n then m.refill s e else m
  let g := m.eng s e
  if g.hasCells t n then
    let x := g.thread t
    let x := if reserve then { x with reserved := x.reserved + n } else { x with held := x.held + n }
    some ((m.putEng s e { g with pool := g.pool - n }).putTh s e t x)
  else none

/-- Cells for INSERT, COPY or MIRROR: those that CELL_ALLOC reserved first (R236). -/
def Mod.useCells (m : Mod) (s e t n : Nat) : Option Mod :=
  let r := min n (m.th s e t).reserved
  (m.takeCells s e t (n - r) false).map fun m =>
    let x := m.th s e t
    m.putTh s e t { x with reserved := x.reserved - r, held := x.held + r }

/-- Gives cells of a thread back to its engine's pool. -/
def Mod.giveCells (m : Mod) (s e n : Nat) : Mod := let g := m.eng s e; m.putEng s e { g with pool := g.pool + n }

/-! ### Dispatch (R203, R204, R220 to R223, R280) -/

/-- The FLOW that the dispatcher places (R223). -/
def flowAt (p : Pkt) : Nat :=
  if p.passes = 0 then
    match p.origin with
    | .port n _ => n
    | .host _ _ r _ _ => 0x10000 + r
    | .timer _ k => 0x20000 + k
  else p.flow

/-- A packet as its pass begins: what a first pass sets (R223). -/
def Pkt.atDispatch (p : Pkt) : Pkt :=
  match p.origin, p.passes with
  | .host .., 0 => { p with flow := flowAt p, histEn := false, hist := 0, launch := none, reason := none }
  | _, 0 => { p with flow := flowAt p, tc := 0, user := 0, histEn := false, hist := 0, launch := none, reason := none }
  | _, _ => { p with launch := none, reason := none }

/-- The packet context at dispatch (R222, R223). -/
def contextOf (p : Pkt) (vector seq : Nat) : List Nat :=
  let timer := p.origin.isTimer && p.passes = 0
  let kind := if p.passes ≠ 0 then 2 else match p.origin with | .port .. => 0 | .host .. => 1 | .timer .. => 3
  let who := match p.origin with
    | .port n k => n * 2 ^ 2 + k * 2 ^ 9
    | .host _ i r _ _ => (if i < 4096 then i else 0xFFF) * 2 ^ 23 + r * 2 ^ 35
    | .timer _ k => if timer then k * 2 ^ 17 else 0
  [secOf p.stamp % 2 ^ 48 + p.stepTag % 16 * 2 ^ 48,
   nsOf p.stamp + p.stamp % nsUnit / 8192 * 8192 * 2 ^ 32 + p.bytes.length * 2 ^ 48,
   kind + (if timer then 0 else vector * 2 ^ 12) + who + p.passes * 2 ^ 51,
   seq + p.tc * 2 ^ 32 + b2n p.histEn * 2 ^ 35 + p.hist * 2 ^ 36,
   0, p.flow % 2 ^ 32, 0, p.user]

/-- The first 256 bytes of a packet, with zeros past its end. -/
def windowOf (d : List Byte) : List Byte := slice d 0 256

/-- What happens to the head of a part of an input queue: dropped for a disabled vector, waiting with a reason, or dispatched. -/
inductive Offer where
  | noEntry | noContext | laneFull | laneRebuilds | noThread | ok (e t : Nat)
  deriving DecidableEq, Repr

/-- The engine and thread that the next dispatch of a slice takes (R204). -/
def Mod.pickThread (m : Mod) (s : Nat) : Option (Nat × Nat) :=
  let last := tgetD m.shu.lastEng s 159
  ((List.range 160).map fun j => (last + 1 + j) % 160).findSome? fun e =>
    if m.accepts s e then ((m.eng s e).idleThread).map fun t => (e, t) else none

/-- The checks of R203, R280 and R282 on a packet, in their order. -/
def Mod.offer (m : Mod) (s : Nat) (p : Pkt) (ctrl : Bool) : Offer :=
  let timer := p.origin.isTimer && p.passes = 0
  if !timer && !m.flag F.SHU_ENTRY_ENABLE [s, p.vector] then .noEntry
  else if (m.seamOf s).ctxs.length ≥ 32768 then .noContext
  else if !m.laneRoom s (m.dispatchLane s p.atDispatch ctrl) then .laneFull
  else if m.laneRebuilds s (m.dispatchLane s p.atDispatch ctrl) then .laneRebuilds
  else match m.pickThread s with
    | some (e, t) => .ok e t
    | none => .noThread

/-- The address at which a pass starts (R204, R206). -/
def Mod.entryOf (m : Mod) (s : Nat) (p : Pkt) : Nat :=
  match p.origin, p.passes with
  | .timer _ k, 0 => m.get F.SHU_TIMER_ADDR [s, k]
  | _, _ => m.get F.SHU_ENTRY_ADDR [s, p.vector]

/-- Puts a part of an input queue. -/
def Mod.putInq (m : Mod) (k : Nat) (l : List Pkt) : Mod :=
  { m with plt := { m.plt with inq := if l = [] then tdel m.plt.inq k else tput m.plt.inq k l } }

/-- A host send at its first dispatch: the generation of its instance is recorded (R281). -/
def Mod.dispatched (m : Mod) (p : Pkt) : Pkt :=
  match p.origin, p.passes with
  | .host ep inst ring _ id, 0 => { p with origin := .host ep inst ring (m.ownerGen (if inst < 4096 then inst else 4096 + ep)) id }
  | _, _ => p

/-- A packet leaves its queue for a thread: it takes its Seam sequence, its epoch on a first pass (R266), and the thread's
state of R201; registers that the pass has not written hold free values. -/
def Mod.startPass (m : Mod) (s e t : Nat) (p : Pkt) (ctrl : Bool) : Mod :=
  let p := { m.dispatched p.atDispatch with epoch := p.epoch.or (some m.epoch) }
  let (seq, m) := m.seamStart s (m.dispatchLane s p ctrl) p
  let x : Thread :=
    { state := 1, vector := p.vector,
      timer := match p.origin, p.passes with | .timer _ k, 0 => some k | _, _ => none,
      free_ := m.drawn, window := windowOf p.bytes, ctx := contextOf p p.vector seq, pkt := p, upc := m.entryOf s p,
      arrived := p.bytes.length, start := m.ns, seq := seq }
  let m := ({ m with drawn := m.drawn + 32 }.putTh s e t x).shuCount s 0
  m.setShu fun u => { u with lastEng := tput u.lastEng s e }

/-- The head of a part of a queue waits: it counts once for each cause (R203, R280). -/
def Mod.noteWait (m : Mod) (s k : Nat) (l : List Pkt) (why : Offer) : Mod :=
  match l with
  | [] => m
  | p :: r =>
    match why with
    | .noContext => if p.waited then m else (m.shuCount s 13).putInq k ({ p with waited := true } :: r)
    | .laneFull => if p.laneWaited then m else (m.seaCount s 4).putInq k ({ p with laneWaited := true } :: r)
    | _ => m

/-- Serves the queues of one kind in round robin from the list given, until one packet has left its queue (R203). -/
def Mod.serve (m : Mod) (s : Nat) (ctrl : Bool) : List Nat → Mod × Option Nat
  | [] => (m, none)
  | q :: qs =>
    let k := inqKey s q ctrl
    match tgetD m.plt.inq k [] with
    | [] => m.serve s ctrl qs
    | p :: r =>
      match m.offer s p ctrl with
      | .noEntry => ((((m.putInq k r).freeAll p.charges).shuCount s 1).sendLost p 6, some q)
      | .ok e t => ((m.putInq k r).startPass s e t { p with waited := false, laneWaited := false } ctrl, some q)
      | why => (m.noteWait s k (p :: r) why).serve s ctrl qs

/-- DISPATCH: the dispatcher of a slice takes the next packet (R203, R204). -/
def execDispatch (sl : Fin 8) (s : State) : Host.Outcome State Fault Refusal :=
  run s fun m =>
    let order := fun (last : Nat) => (List.range 17).map fun j => (last + 1 + j) % 17
    match m.serve sl true (order (tgetD m.shu.lastCtl sl 16)) with
    | (m, some q) => m.setShu fun u => { u with lastCtl := tput u.lastCtl sl q }
    | (m, none) =>
      match m.serve sl false (order (tgetD m.shu.lastQ sl 16)) with
      | (m, some q) => m.setShu fun u => { u with lastQ := tput u.lastQ sl q }
      | (m, none) => m

/-- What a timer sends on a PTP port (R117, R120): a master port sends Announce and Sync, one-step with the origin timestamp of its own
transmit stamp (R181), or two-step, the stamp following in Follow_Up; the slave port sends Delay_Req. The stamp is that of the timer.
(DESIGN CHOICE, log 47) -/
def Mod.ptpSend (m : Mod) (x : PtpSend × Fin 96) : Mod :=
  let n := x.2.val
  let st := m.get F.TPL_PTP_PORT_PORT_STATE [n]
  let stamp := m.now / 8192 * 8192
  if !m.ptpOn n then m
  else match x.1 with
    | .announce => if st = 6 then m.emit (.announce n m.ptpAdvert) else m
    | .sync =>
      if st ≠ 6 then m
      else if m.flag F.TPL_PTP_CFG_TWO_STEP then (m.emit (.ptp n 0 0)).emit (.ptp n 8 stamp)
      else m.emit (.ptp n 0 stamp)
    | .delayReq => if st = 9 then m.emit (.ptp n 1 0) else m

/-- SHUTTLE_TIMER_FIRE: timer `k` of a slice fires at nanosecond `t` (R206); its event joins the control part of the recirculation queue.
`ptp` and `esmc` name the ports whose PTP and ESMC
transmission the event drives in the standard microcode set (R117, R122). (DESIGN CHOICE, log 42) -/
def execShuttleTimerFire (sl : Fin 8) (k : Fin 64) (t : Nat) (ptp : List (PtpSend × Fin 96)) (esmc : List (Fin 96)) (s : State) :
    Host.Outcome State Fault Refusal :=
  run s fun m =>
    let ix := [sl.val, k.val]
    let per := m.get F.SHU_TIMER_PERIOD_US ix
    if !m.flag F.SHU_TIMER_ENABLE ix || per = 0 || t % 1000 ≠ 0 || t / 1000 % per ≠ m.get F.SHU_TIMER_PHASE_US ix then m
    else
      let m := m.runToNs t
      let live := sl.val * 64 + k.val
      if m.shu.timersLive.contains live then m.shuCount sl 12
      else
        let (d, m) := m.draw (2 ^ 110)
        let p : Pkt := { bytes := [], origin := .timer sl k, cls := 7, stamp := d / 16, stepTag := d % 16 }
        let m := (m.enqueueIn sl 16 p).setShu fun u => { u with timersLive := live :: u.timersLive }
        let m := ptp.foldl Mod.ptpSend m
        esmc.foldl (fun (m : Mod) (n : Fin 96) => m.emit (.esmc n.val (m.esmcQl n.val))) m

/-! ### Control stores (R218, R242 to R245) -/

/-- A word of the image for cluster `g` of the module. -/
def imageWord (f : List Byte) (g a : Nat) : Nat :=
  match (sections f).find? fun x => x.typ = 1 && bit (x.mask 10) g && decide (x.first ≤ a ∧ a < x.first + x.len / 32) with
  | some x => leNat (slice f (x.off + 32 * (a - x.first)) 32)
  | none => 0

/-- Number of word `a` of cluster `c` of slice `s`. -/
def csKey (s c a : Nat) : Nat := (s * 10 + c) * 16384 + a

/-- The control-store word: a patch that reached the cluster, or the image's. -/
def Mod.csWord (m : Mod) (s c a : Nat) : Nat :=
  match tget m.shu.words (csKey s c a) with
  | some w => w
  | none => imageWord m.img.file (s * 10 + c) a

/-- An uncorrectable error in a control-store word: its cluster leaves dispatch at once (R218). -/
def Mod.csError (m : Mod) (s c a : Nat) : Mod :=
  if m.shu.bad.contains (csKey s c a) then m
  else (m.setShu fun u => { u with bad := csKey s c a :: u.bad, outClusters := (s * 10 + c) :: u.outClusters.filter (· ≠ s * 10 + c) }).eccFatal 0
    (leBytes 1 s ++ leBytes 1 c ++ leBytes 2 a)

/-- CS_ECC_REWRITE: the Cutter rewrites a word from the patch list when it holds the address, from the image otherwise; the
cluster returns to dispatch (R218, R245). A rewrite that fails leaves it out until the next start and is logged; from
the start of an IMG_INSTALL on, a rewrite from the image fails (R532). (DEDUCED, log 28; DEDUCED, log 78) -/
def execCsEccRewrite (sl : Fin 8) (c : Fin 10) (a : Fin 16384) (ok : Bool) (s : State) : Host.Outcome State Fault Refusal :=
  run s fun m =>
    let k := csKey sl c a
    if !m.shu.bad.contains k || m.shu.stuck.contains k then m
    else if !ok || (m.img.patchLock && (tget (tgetD m.shu.patches sl []) a).isNone) then
      (m.setShu fun u => { u with stuck := k :: u.stuck }).error 1 1 (regAddr .SHU_SLICE_CFG [sl.val]) (leBytes 1 sl ++ leBytes 1 c ++ leBytes 2 a)
    else
      let words := match tget (tgetD m.shu.patches sl []) a with
        | some w => tput m.shu.words k w
        | none => tdel m.shu.words k
      let bad := m.shu.bad.filter (· ≠ k)
      let out := if bad.any fun b => b / 16384 = sl.val * 10 + c.val then m.shu.outClusters
        else m.shu.outClusters.filter (· ≠ sl.val * 10 + c.val)
      m.setShu fun u => { u with words := words, bad := bad, outClusters := out }

/-- The staged word of a slice (R244). (DEDUCED, log 78) -/
def Mod.csStage (m : Mod) (s : Nat) : Nat :=
  sumOf (List.range 4) fun w => m.get F.SHU_CS_STAGE_DATA [s, w] * 2 ^ (64 * w)

/-- A patch of the staged word (R244): checked, and recorded in the patch list. A word that passes is then written through the port of
each cluster named, as foreground; until the last of these stitches ends GO reads 1. -/
def Mod.csPatch (m : Mod) (s addr clusters : Nat) : Mod :=
  let w := m.csStage s
  let list := tgetD m.shu.patches s []
  let m := (m.set F.SHU_CS_COMMIT_ADDR [s] addr).set F.SHU_CS_COMMIT_CLUSTERS [s] clusters
  let code := if illegalWord w then 2 else if clusters = 0 then 3
    else if (tget list addr).isNone && list.length ≥ 1024 then 1 else 0
  if code ≠ 0 then m.set F.SHU_CS_COMMIT_RESULT [s] code
  else
    let list := tput list addr w
    let cs := (List.range 10).filter fun c => bit clusters c
    let m := m.setShu fun u => { u with patches := tput u.patches s list, csq := u.csq ++ [⟨s, addr, w, cs⟩] }
    ((m.set F.SHU_CS_COMMIT_PATCHES [s] list.length).set F.SHU_CS_COMMIT_GO [s] 1).fgUse (cs.map (65 + 10 * s + ·))

/-- CS_PATCH_GO: SHU_CS_COMMIT is written with GO = 1 (R244). (DEDUCED, log 78) -/
def execCsPatchGo (r : Req) (sl : Fin 8) (addr : Fin 16384) (clusters : BitVec 10) (s : State) : Host.Outcome State Fault Refusal :=
  run s fun m =>
    if !m.isManager r.mid || m.flag F.SHU_CS_COMMIT_GO [sl.val] then m.refuse r.mid (regAddr .SHU_CS_COMMIT [sl.val]) true true 3
    else m.csPatch sl addr clusters.toNat

/-! ### Faults (R216, R217) -/

/-- A timer event ends. (DESIGN CHOICE, log 42) -/
def Mod.timerEnd (m : Mod) (s : Nat) (x : Thread) : Mod :=
  match x.timer with
  | some k => m.setShu fun u => { u with timersLive := u.timersLive.filter (· ≠ s * 64 + k) }
  | none => m

/-- The fault counters and log of an engine (R216, R217). (DEDUCED, log 43) -/
def Mod.noteFault (m : Mod) (s e t cause : Nat) (x : Thread) : Mod :=
  let m := m.shuCount s (cause + 1)
  let ix := [s]
  let m := (((m.set F.SHU_FAULT_LAST_ENGINE ix e).set F.SHU_FAULT_LAST_THREAD ix t).set F.SHU_FAULT_LAST_CAUSE ix cause).set
    F.SHU_FAULT_LAST_VALID ix 1
  let m := ((m.set F.SHU_FAULT_LAST_UPC ix x.upc).set F.SHU_FAULT_LAST_VECTOR ix (if x.timer.isSome then 0 else x.vector)).set
    F.SHU_FAULT_LAST_TIMER ix (b2n x.timer.isSome)
  let m := m.set F.SHU_FAULT_LAST_TIMER_NUM ix (x.timer.getD 0)
  let g := m.eng s e
  let sec := secOf m.now
  let same := g.sec = sec
  let faults := (if same then g.faults else 0) + 1
  let logged := same && g.logged
  let m := m.putEng s e { g with sec := sec, faults := faults, logged := true }
  let m := if logged then m else m.error 3 1 (regAddr .SHU_FAULT_LAST [s]) (leBytes 8 (m.stored .SHU_FAULT_LAST [s]))
  let lim := m.get F.SHU_SLICE_CFG_FAULT_LIMIT [s]
  if lim ≠ 0 && lim < faults && !m.flag F.SHU_ENGINE_CTL_QUARANTINED [s, e] then
    ((m.set F.SHU_ENGINE_CTL_QUARANTINED [s, e] 1).shuCount s 11).error 3 2 (regAddr .SHU_ENGINE_CTL [s, e]) (leBytes 1 e)
  else m

/-- Its Seam context is gone (R282): packet and copies are dropped and counted. -/
def Mod.dropInvalid (m : Mod) (s : Nat) (x : Thread) (input : List Charge) : Mod :=
  ((m.freeAll input).seaCount s 5).sendLost x.pkt 6

/-- A thread faults (R216): packet and cells are given up, the sequence becomes a hole, the fault is counted and logged; the
thread keeps the tags whose responses it is owed. -/
def Mod.faultThread (m : Mod) (s e t cause : Nat) : Mod :=
  let x := m.th s e t
  let owed := x.tags.filter fun g => g.2.outstanding
  let m := if x.ctxEcc then m.dropInvalid s x x.pkt.charges
    else (m.seamResolve s x.seq 2 x.pkt.charges).sendLost x.pkt 6
  let m := (m.giveCells s e x.cells).timerEnd s x
  let m := if owed = [] then m.clearTh s e t
    else m.putTh s e t { x with state := 4, tags := owed, pkt := { x.pkt with charges := [] }, copies := [], held := 0,
                                reserved := 0, timer := none, ending := none, awaits := none }
  m.noteFault s e t cause x

/-! ### END (R239 to R241, R259, R262) -/

/-- Carries window bytes to the packet (R221). (DEDUCED, log 39) -/
def backTo (d : List Byte) (l : List (Nat × Byte)) : List Byte :=
  l.foldl (fun (d : List Byte) b => if b.1 < d.length then d.set b.1 b.2 else d) d

/-- The window's pending changes below LEN. (DEDUCED, log 39) -/
def Thread.pending (x : Thread) : List (Nat × Byte) :=
  (x.dirty.filter fun i => i < bits (x.ctx.getD 1 0) 48 16).map fun i => (i, x.window.getD i 0)

/-- The destination that an image of context word 4 names (R222). -/
def destOf (w4 : Nat) : Option Dest :=
  match w4 % 4 with
  | 1 => some (.port (bits w4 2 7) (bits w4 9 3))
  | 2 => some (.ring (bits w4 12 16))
  | _ => none

/-- What a MALFORMED disposition of a PORT pass places (R259, R260, R262). (DESIGN CHOICE, log 42) -/
def Mod.malformed (m : Mod) (s n : Nat) (x : Thread) (len : Nat) : List (Pkt × Dest) × Mod :=
  let m := m.count F.PAT_MALFORMED_CNT_COUNT [n]
  let a := fun i => m.get F.PAT_PORT_ACT_WORD [n, 4 + i]
  let w4 := a 0
  let m := (m.countOp s (a 1) len).2
  let p := { x.pkt with charges := [], tc := bits w4 51 3 }
  let act := bits w4 48 3
  match act, destOf w4 with
  | 0, _ => ([], m)
  | 2, some (.ring r) => ([({ p with reason := some (a 2 % 65536) }, .ring r)], m)
  | 1, some d => ([(p, d)], m)
  | 3, some d =>
    let tr := a 2 / 2 ^ 48
    let c := { p with bytes := if tr = 0 then p.bytes else p.bytes.take tr }
    ((p, d) :: (match destOf (a 2) with | some d2 => [(c, d2)] | none => []), m)
  | _, _ => ([], m.dispCount s 4)

/-- What a FORWARD or an EXCEPTION places (R239, R240). (DESIGN CHOICE, log 42) -/
def Mod.forward (m : Mod) (s : Nat) (x : Thread) (disp : Nat) : List (Pkt × Dest) × Mod :=
  let c3 := x.ctx.getD 3 0
  let w4 := x.ctx.getD 4 0
  let c6 := x.ctx.getD 6 0
  let d := (checksums w4 (backTo x.pkt.bytes x.pending)).drop (bits c3 24 8)
  let p : Pkt :=
    { x.pkt with bytes := d, charges := [], tc := bits c3 32 3, histEn := bit c3 35, hist := bits c3 36 12,
                 flow := x.ctx.getD 5 0 % 2 ^ 32, user := x.ctx.getD 7 0 }
  if disp = 0 then
    match x.recirc, destOf w4 with
    | some (b, v), _ => ([(p, .recirc b v)], m.dispCount s 5)
    | none, some d =>
      ([({ p with launch := if bit w4 46 then some (m.launchNs (c6 / 2 ^ 32) (c6 % 2 ^ 32)) else none }, d)], m)
    | none, none => ([], m.dispCount s 4)
  else match destOf w4 with
    | some (.ring r) => ([({ p with reason := some (bits c3 48 16) }, .ring r)], m)
    | _ => ([], m.dispCount s 4)

/-- A pass ends with a disposition (R240, R241): the packet and its copies go to Seam; the cells that the pass allocated join
them (R210, R288). -/
def Mod.finishPass (m : Mod) (s e t disp : Nat) : Mod :=
  let x := m.th s e t
  let c3 := x.ctx.getD 3 0
  let disp := if (disp = 0 || disp = 2) && x.pkt.bytes.length ≤ bits c3 24 8 then 3 else disp
  let m := m.dispCount s disp
  let copies := x.copies.map fun c => ({ c.1 with tc := bits c3 32 3, histEn := bit c3 35, hist := bits c3 36 12 }, c.2)
  let (main, m) :=
    if disp = 1 then ([], m)
    else if disp = 3 then
      match x.pkt.origin, x.pkt.passes with
      | .port n _, 0 => m.malformed s n x x.arrived
      | _, _ => ([], m)
    else m.forward s x disp
  let place := main ++ if disp = 1 then [] else copies
  let m := ((m.giveCells s e (if place = [] then x.cells else x.reserved)).clearTh s e t).timerEnd s x
  if x.ctxEcc then (m.giveCells s e (if place = [] then 0 else x.held)).dropInvalid s x x.pkt.charges
  else if place = [] then (m.seamResolve s x.seq 1 x.pkt.charges).sendLost x.pkt 1
  else
    let (m, extra) := m.joinCells s x.held x.pkt.charges.head?
    let m := (m.refill s e).sendMore x.pkt (place.length - 1)
    m.seamEnd s x.seq place (x.pkt.charges ++ extra)

/-! ### Issue (R207, R225 to R233) -/

/-- The thread that an engine's step takes, and the engine after the choice (R207); a thread of weight 0 that finishes a
packet counts as one of weight 1. -/
def Engine.choose (x : Engine) : Option Nat × Engine :=
  let x' := { x with step := x.step + 1 }
  let own := x.act.slots.getD (x.step % 32) 0
  let ready := fun t => (x.thread t).state = 1
  if x.weight own ≠ 0 && ready own then (some own, x')
  else
    let rs := (List.range 16).filter ready
    let cred := if rs.any fun t => decide (0 < x.credit.getD t 0) then x.credit
      else (List.range 16).map fun t => if x.weight t = 0 && (x.thread t).running then 1 else x.weight t
    match ((List.range 16).map fun j => (x.wrr + 1 + j) % 16).find? fun t => ready t && decide (0 < cred.getD t 0) with
    | some t => (some t, { x' with credit := cred.set t (cred.getD t 0 - 1), wrr := t })
    | none => (none, x')

/-- A general register: what the pass wrote, or a free value (R201). -/
def Thread.reg (x : Thread) (r : Nat) : Nat :=
  match tget x.regs r with
  | some v => v
  | none => Config.freeValue (x.free_ + r) % 2 ^ 64

/-- What stops a word before it executes: a fault, or a wait. -/
inductive Stop where
  | fault (cause : Nat) | blocked (tag : Nat) | stalled | go
  deriving DecidableEq, Repr

/-- A tag that an END word waits for (R239): any outstanding one. -/
def Thread.endWaits (x : Thread) (w : Nat) : Option Nat :=
  if mwSeqop w = 7 then (x.tags.find? fun g => g.2.outstanding).map (·.1) else none

/-- The checks of a word of a thread that is chosen, in their order (R210, R212, R216, R225, R233, R239). (DEDUCED, log 41) -/
def Engine.check (g : Engine) (t w : Nat) : Stop :=
  let x := g.thread t
  if illegalWord w then .fault 1
  else if mwSeqop w = 8 then .fault 6
  else if mwSeqop w ≠ 7 && 16384 ≤ nextAddr w x.upc x.reg then .fault 1
  else match x.endWaits w with
    | some tag => .blocked tag
    | none =>
      if mwReqEn w && (tget x.tags (mwReqTag w)).isSome then .fault 5
      else if mwReadEn w && (tget x.tags (mwReadTag w)).isNone then .fault 5
      else if mwReadEn w && (match tget x.tags (mwReadTag w) with | some g => g.outstanding | none => false) then
        .blocked (mwReadTag w)
      else if mwReqEn w && !g.hasCredit t (mwReqCh w) then .stalled
      else .go

/-- The registers that a blocking read writes (R232). -/
def readWrites (w : Nat) (r : Resp) : List (Nat × Nat) :=
  (mwReadDst w, r.status % 256 + r.result * 256 % 2 ^ 64) ::
    (List.range (mwReadN w)).map fun i => (mwReadDst w + 1 + i, r.data.getD i 0)

/-- A thread after one of its words executed whole (R225): every unit reads the state before the word; writes land in the
order of R225, the installed packet bytes before the deposit (R237). The request it issues, if any, is on its tag. (DEDUCED, log 41) -/
def Thread.execute (x : Thread) (w : Nat) : Thread :=
  let imm := mwImm w
  let src := srcVal x.reg x.ctx imm
  let A := mwAlu w 0
  let B := mwAlu w 1
  let va := alu A.op (src A.a) (src A.b)
  let vb := alu B.op (src B.a) (src B.b)
  let ext := fun (f : ExtF) => extract x.window (fieldPos x.reg f.off f.rel f.breg f.shift) f.width
  let X0 := mwExt w 0
  let X1 := mwExt w 1
  let resp := if mwReadEn w then (match tget x.tags (mwReadTag w) with | some (.held r) => some r | _ => none) else none
  let aluW := fun (f : AluF) v => if f.op ≠ 0 && f.dst < 32 then [(f.dst, v)] else []
  let writes := aluW A va ++ aluW B vb ++ (if X0.en then [(X0.dst, ext X0)] else []) ++
    (if X1.en then [(X1.dst, ext X1)] else []) ++ (if mwSeqop w = 4 then [(mwCondReg w, x.upc + 1)] else []) ++
    (match resp with | some r => readWrites w r | none => [])
  let regs := writes.foldl (fun (t : Tab Nat) p => tput t p.1 p.2) x.regs
  -- the context: ALU words first, then an installed LEN, then the deposit
  let ctxW := fun (c : List Nat) (f : AluF) v =>
    if f.op ≠ 0 && 32 ≤ f.dst then c.set (f.dst - 32) (ctxWrite (f.dst - 32) (c.getD (f.dst - 32) 0) v) else c
  let c := ctxW (ctxW x.ctx A va) B vb
  let c := match resp.bind (·.len) with | some n => c.set 1 (c.getD 1 0 % 2 ^ 48 + n * 2 ^ 48) | none => c
  let D := mwDep w
  let dv := src D.src
  let c := if D.en && D.ctx then
      let p := 8 * D.off + D.shift
      let i := p / 64
      let lo := p % 64
      let old := c.getD i 0
      c.set i (ctxWrite i old (old - bits old lo D.width * 2 ^ lo + dv % 2 ^ D.width * 2 ^ lo))
    else c
  -- the window: installed bytes, then the deposit
  let (win, dirty) := match resp.bind (·.install) with
    | some (o, bs) =>
      if (resp.bind (·.len)).isSome then (windowOf bs, [])
      else (overlay x.window o bs, x.dirty.filter fun i => !(decide (o ≤ i ∧ i < o + bs.length)))
    | none => (x.window, x.dirty)
  let (win, dirty) := if D.en && !D.ctx then
      let p := fieldPos x.reg D.off D.rel D.breg D.shift
      (deposit win p D.width dv, (dirty ++ depositBytes p D.width).eraseDups)
    else (win, dirty)
  let tags := if mwReadEn w then tdel x.tags (mwReadTag w) else x.tags
  let y := { x with regs := regs, ctx := c, window := win, dirty := dirty, tags := tags, words := x.words + 1,
                    upc := nextAddr w x.upc x.reg }
  if mwReqEn w then
    let writesBack := mwReqCh w = 1 || mwReqCh w = 2
    let q : ChanReq :=
      { ch := mwReqCh w, op := mwReqOp w, args := (List.range (mwReqArgn w + 1)).map fun i => x.reg (mwReqArg w + i),
        order := x.orders, len := bits (c.getD 1 0) 48 16, w4 := c.getD 4 0, back := if writesBack then y.pending else [] }
    { y with tags := tput y.tags (mwReqTag w) (.out q), orders := x.orders + 1, dirty := if writesBack then [] else y.dirty }
  else y

/-- The chosen thread's word. -/
def Mod.wordOf (m : Mod) (s e t : Nat) : Nat := m.csWord s (e / 16) (m.th s e t).upc

/-- One step of an engine (R207, R225). `err`: an uncorrectable error is found, 1 in the fetched word, 2 in the thread's
registers (R216, R218). (DEDUCED, log 41) -/
def Mod.issue (m : Mod) (s e err : Nat) : Mod :=
  match (m.eng s e).choose with
  | (none, g) => m.putEng s e g
  | (some t, g) =>
    let m := m.putEng s e g
    let x := m.th s e t
    let w := m.wordOf s e t
    if m.get F.SHU_SLICE_CFG_STEP_LIMIT [s] ≤ x.words then m.faultThread s e t 2
    else if err = 1 || m.shu.bad.contains (csKey s (e / 16) x.upc) then (m.csError s (e / 16) x.upc).faultThread s e t 4
    else if err = 2 then m.faultThread s e t 4
    else match (m.eng s e).check t w with
      | .fault c => m.faultThread s e t c
      | .blocked tag => m.putTh s e t { x with state := 2, awaits := some tag }
      | .stalled => (m.putTh s e t { x with state := 3 }).shuCount s 9
      | .go =>
        let y := x.execute w
        if mwSeqop w ≠ 7 then m.putTh s e t y
        else if mwReqEn w then
          m.putTh s e t { y with state := 2, awaits := some (mwReqTag w), ending := some (mwDisp w), upc := x.upc }
        else (m.putTh s e t { y with upc := x.upc }).finishPass s e t (mwDisp w)

/-- MICROWORD_ISSUE: one step of an engine; with no ready thread the step is idle (R207, R225). (DESIGN CHOICE, log 42) -/
def execMicrowordIssue (sl : Fin 8) (e : Fin 160) (err : Fin 3) (s : State) : Host.Outcome State Fault Refusal :=
  run s fun m => m.issue sl e err

/-- TRAP: the chosen thread of the engine stands at a TRAP word and faults with cause TRAP (R216, R227). -/
def execTrap (sl : Fin 8) (e : Fin 160) (s : State) : Host.Outcome State Fault Refusal :=
  run s fun m =>
    match (m.eng sl e).choose with
    | (some t, _) => if mwSeqop (m.wordOf sl e t) = 8 then m.issue sl e 0 else m
    | (none, _) => m

/-- END: a pass ends: the response to the request that its END word carried has arrived, or the engine's chosen thread stands
at an END word (R239). -/
def execEndPass (sl : Fin 8) (e : Fin 160) (t : Fin 16) (s : State) : Host.Outcome State Fault Refusal :=
  run s fun m =>
    let x := m.th sl e t
    match x.ending with
    | some d => if x.tags.any fun g => g.2.outstanding then m else m.finishPass sl e t d
    | none =>
      match (m.eng sl e).choose with
      | (some u, _) => if u = t.val && mwSeqop (m.wordOf sl e u) = 7 then m.issue sl e 0 else m
      | (none, _) => m

/-! ### Responses (R212, R213) -/

/-- A response leaves its unit for a tag. -/
def Mod.answer (m : Mod) (w : ThreadRef) (tag : Nat) (r : Resp) : Mod :=
  let x := m.th w.s w.e w.t
  match tget x.tags tag with
  | some (.out q) => m.putTh w.s w.e w.t { x with tags := tput x.tags tag (.flying q.ch r) }
  | some (.busy ch) => m.putTh w.s w.e w.t { x with tags := tput x.tags tag (.flying ch r) }
  | _ => m

/-- CHANNEL_RESPONSE: the response to a tag arrives (R212, R213). -/
def execChannelResponse (sl : Fin 8) (e : Fin 160) (t : Fin 16) (tag : Fin 8) (s : State) : Host.Outcome State Fault Refusal :=
  run s fun m =>
    let x := m.th sl e t
    match tget x.tags tag with
    | some (.flying _ r) =>
      if x.state = 4 then
        let tags := tdel x.tags tag
        if tags = [] then m.clearTh sl e t else m.putTh sl e t { x with tags := tags }
      else
        let x := { x with tags := tput x.tags tag (.held r) }
        if x.state = 2 && x.awaits = some tag.val then
          m.putTh sl e t { x with awaits := none, state := if x.ending.isSome then 2 else 1 }
        else m.putTh sl e t x
    | _ => m

/-- CREDIT_AVAILABLE: a STALLED thread's credit exists (R213). -/
def execCreditAvailable (sl : Fin 8) (e : Fin 160) (t : Fin 16) (s : State) : Host.Outcome State Fault Refusal :=
  run s fun m =>
    let x := m.th sl e t
    if x.state = 3 && (m.eng sl e).hasCredit t (mwReqCh (m.wordOf sl e t)) then m.putTh sl e t { x with state := 1 } else m

/-- RESIDENCY_EXPIRY: RESIDENCY_US of device time has passed since the dispatch of a thread's pass (R216). -/
def execResidencyExpiry (sl : Fin 8) (e : Fin 160) (t : Fin 16) (s : State) : Host.Outcome State Fault Refusal :=
  run s fun m =>
    let x := m.th sl e t
    if x.running then
      (m.runToNs (x.start + m.get F.SHU_SLICE_CFG_RESIDENCY_US [sl.val] * 1000)).faultThread sl e t 3
    else m

/-! ### Banks (R209) and quarantine -/

/-- The shadow bank of an engine. -/
def Mod.shuShadow (m : Mod) (s e : Nat) : EngBank :=
  { slots := (List.range 32).map fun i => m.get ⟨.SHU_SLOT, i % 8 * 4, 4⟩ [s, e, i / 8],
    weights := (List.range 16).map fun t => m.get (F.SHU_THREAD_CFG_WEIGHT t) [s, e],
    share := m.stored .SHU_SHARE [s, e] }

/-- The check of a bank: the REJECT code, 0 when it is accepted. -/
def EngBank.check (b : EngBank) : Nat :=
  if (List.range 16).any fun t => b.weights.getD t 0 ≠ 0 && !b.slots.contains t then 1
  else if b.weights.all (· = 0) then 2
  else if bits b.share 4 4 < bits b.share 1 3 || bits b.share 11 6 < bits b.share 8 3 then 3
  else 0

/-- A share field of a bank holds a reserved value (checked at start). -/
def EngBank.shareReserved (b : EngBank) : Bool :=
  decide (4 < bits b.share 1 3) || bits b.share 4 4 = 0 || decide (8 < bits b.share 4 4) || decide (4 < bits b.share 8 3) ||
    bits b.share 11 6 = 0 || decide (32 < bits b.share 11 6)

/-- The shadow bank of an engine is checked, and taken when it passes (R209). -/
def Mod.shuApply (m : Mod) (s e : Nat) : Mod :=
  let ix := [s, e]
  let b := m.shuShadow s e
  let code := b.check
  let m := (m.set F.SHU_ENGINE_CTL_REJECT ix code).set F.SHU_ENGINE_CTL_APPLY ix (b2n (decide (code = 0)))
  let g := m.eng s e
  m.putEng s e { g with apply := if code = 0 then some b else none }

/-- SHU_APPLY: SHU_ENGINE_CTL.APPLY is written 1 (R209). -/
def execShuApply (r : Req) (sl : Fin 8) (e : Fin 160) (s : State) : Host.Outcome State Fault Refusal :=
  run s fun m =>
    if !m.isManager r.mid then m.refuse r.mid (regAddr .SHU_ENGINE_CTL [sl.val, e.val]) true false 3 else m.shuApply sl e

/-- SHU_BANK_SWITCH: at the engine's next step with i = 0 the accepted bank becomes active (R209); idle threads of weight 0
become DISABLED, and those of a new weight IDLE (R213). (DESIGN CHOICE, log 42) -/
def execShuBankSwitch (sl : Fin 8) (e : Fin 160) (s : State) : Host.Outcome State Fault Refusal :=
  run s fun m =>
    let g := m.eng sl e
    match g.apply with
    | none => m
    | some b =>
      let ix := [sl.val, e.val]
      let idle := fun (t : Nat × Thread) => t.2.state = 0 || t.2.state = 5
      let g := { g with bank := some b, apply := none, step := ceilDiv g.step 32 * 32, threads := g.threads.filter fun t => !idle t }
      ((m.putEng sl e g).set F.SHU_ENGINE_CTL_APPLY ix 0).set F.SHU_ENGINE_CTL_ACTIVE_BANK ix
        (1 - m.get F.SHU_ENGINE_CTL_ACTIVE_BANK ix)

/-- QUARANTINE_RELEASE: QUARANTINED is written 1 (R217). -/
def execQuarantineRelease (r : Req) (sl : Fin 8) (e : Fin 160) (s : State) : Host.Outcome State Fault Refusal :=
  run s fun m =>
    let ix := [sl.val, e.val]
    if m.isManager r.mid then m.set F.SHU_ENGINE_CTL_QUARANTINED ix 0 else m.refuse r.mid (regAddr .SHU_ENGINE_CTL ix) true false 3

/-- At start each retained bank is checked (R209): one that passes becomes active; for one that fails the factory bank stands
in both copies, REJECT holds the cause and an event is logged. -/
def Mod.shuLoad (m : Mod) : Mod :=
  let es := ((m.regs.filter fun e => e.1.fld.reg = .SHU_SLOT || e.1.fld.reg = .SHU_SHARE || e.1.fld.reg = .SHU_THREAD_CFG).map
    fun e => e.1.ix.take 2).eraseDups
  es.foldl (fun m ix =>
    let s := ix.getD 0 0
    let e := ix.getD 1 0
    let b := m.shuShadow s e
    let code := if b.check ≠ 0 then b.check else if b.shareReserved then 3 else 0
    if code = 0 then let g := m.eng s e; m.putEng s e { g with bank := some b }
    else
      let m := ((m.resetReg .SHU_SLOT ix).resetReg .SHU_SHARE ix).resetReg .SHU_THREAD_CFG ix
      (m.set F.SHU_ENGINE_CTL_REJECT ix code).event 20 3 (regAddr .SHU_ENGINE_CTL ix)) m

end Sys2Proof.Machine
end

