-- ==== Sys2Proof/Machine/Channels.lean ====
section
/-! DEFINITION. The LOOKUP and REWRITE channels (R235 to R237) and flow-cache fills (R253, R255, R263): what a request does
when it reaches its unit. -/

namespace Sys2Proof.Machine

/-- Status codes of R234. -/
def chOk : Nat := 0
def chNoCell : Nat := 2
def chError : Nat := 3
def chCasFail : Nat := 4
def chRefused : Nat := 5

/-- The effect of an earlier request of the thread on packet bytes is still to come, which a request on REWRITE or THIMBLE waits for:
effects on the same bytes come in issue order (R212). -/
def Thread.behind (x : Thread) (q : ChanReq) : Bool :=
  (q.ch = 1 || q.ch = 2) && x.tags.any fun g => match g.2 with
    | .out o => (o.ch = 1 || o.ch = 2) && decide (o.order < q.order)
    | .busy c => q.ch = 1 && c = 2
    | _ => false

/-- The request on a tag, when it is of the operation named and no earlier request of the thread on its channel, or on its packet, still
waits (R212). -/
def Mod.takeReq (m : Mod) (w : ThreadRef) (tag ch op : Nat) : Option ChanReq :=
  let x := m.th w.s w.e w.t
  match tget x.tags tag with
  | some (.out q) =>
    let first := x.tags.all fun g => match g.2 with | .out o => o.ch ≠ ch || decide (q.order ≤ o.order) | _ => true
    if q.ch = ch && q.op = op && first && !x.behind q then some q else none
  | _ => none

/-- Operand register `i` of a request; a register that the word did not name gives nothing stated, a free value. (DESIGN CHOICE, log 40) -/
def Mod.operand (m : Mod) (q : ChanReq) (i : Nat) : Nat × Mod :=
  match q.args[i]? with
  | some v => (v, m)
  | none => m.draw (2 ^ 64)

/-- A tag's request is at work in its unit. -/
def Mod.busyTag (m : Mod) (w : ThreadRef) (tag ch : Nat) : Mod :=
  let x := m.th w.s w.e w.t
  m.putTh w.s w.e w.t { x with tags := tput x.tags tag (.busy ch) }

/-! ### LOOKUP (R235) -/

/-- The operands of a lookup name a scope of its kind with the scope's key width: the scope and the key. -/
def Mod.lookupKey (m : Mod) (q : ChanReq) (kind : Nat) : Option (Nat × List Nat) :=
  let a := q.args.headD 0
  let scope := a % 65536
  let kw := bits a 16 3
  if kw ≠ 0 && kw + 1 = q.args.length && m.scopeKind scope = kind && m.keyWords scope = kw then some (scope, q.args.drop 1)
  else none

/-- EXACT and EXACT_NOWAIT (R253). -/
def Mod.exactReq (m : Mod) (w : ThreadRef) (tag op : Nat) (bad : Bool) : Mod :=
  match m.takeReq w tag 0 op with
  | none => m
  | some q =>
    match m.lookupKey q 1 with
    | none => m.answer w tag { status := chRefused }
    | some (scope, key) =>
      let x := m.th w.s w.e w.t
      match m.exact w.s scope key x.seq x.pkt.origin (op = 1) bad w tag with
      | (some r, m) => m.answer w tag r
      | (none, m) => m.busyTag w tag 0

/-- EXACT. `bad`: the search finds an uncorrectable error in the key's line (R255). -/
def execExactMatch (sl : Fin 8) (e : Fin 160) (t : Fin 16) (tag : Fin 8) (bad : Bool) (s : State) : Host.Outcome State Fault Refusal :=
  run s fun m => m.exactReq ⟨sl, e, t⟩ tag 0 bad

/-- EXACT_NOWAIT. -/
def execExactNowait (sl : Fin 8) (e : Fin 160) (t : Fin 16) (tag : Fin 8) (bad : Bool) (s : State) : Host.Outcome State Fault Refusal :=
  run s fun m => m.exactReq ⟨sl, e, t⟩ tag 1 bad

/-- RULE (R257). `bad`: a rule slot in which the search finds an uncorrectable error. -/
def execRuleMatch (sl : Fin 8) (e : Fin 160) (t : Fin 16) (tag : Fin 8) (bad : Option (Fin 65536)) (s : State) :
    Host.Outcome State Fault Refusal :=
  run s fun m =>
    let w : ThreadRef := ⟨sl, e, t⟩
    match m.takeReq w tag 0 2 with
    | none => m
    | some q =>
      match m.lookupKey q 2 with
      | none => m.answer w tag { status := chRefused }
      | some (scope, key) =>
        let x := m.th w.s w.e w.t
        let (r, m) := m.ruleLookup sl scope key x.seq x.pkt.origin (bad.map Fin.val)
        m.answer w tag r

/-- What a memory operation does with old words (R235): 0 read, 1 write, 2 add, 3 compare-and-swap: status, data words, words
written. -/
def memOp (kind : Nat) (vals old : List Nat) : Nat × List Nat × List Nat :=
  match kind with
  | 0 => (chOk, old, [])
  | 1 => (chOk, [], vals)
  | 2 => (chOk, old, (List.range old.length).map fun i => (old.getD i 0 + vals.getD i 0) % 2 ^ 64)
  | _ => if old.getD 0 0 = vals.getD 0 0 then (chOk, old, [vals.getD 1 0]) else (chCasFail, old, [])

/-- The operand registers that a memory operation on `n` words takes. -/
def memArgs (kind n : Nat) : Nat := match kind with | 0 => 1 | 1 => n + 1 | 2 => n + 1 | _ => 3

/-- Operand errors of DATA and LOCAL (R235). -/
def memBad (kind addr n count : Nat) : Bool :=
  decide (count ≠ memArgs kind n) || (kind = 3 && n ≠ 1) || addr % 8 ≠ 0 || addr / 64 ≠ (addr + 8 * n - 1) / 64

/-- DATA (R235): words are little-endian in HBM (R6); the access is foreground of its channel (R100). `bad`: an uncorrectable error in HBM. -/
def dataReq (m : Mod) (mem : List Host.Cell) (w : ThreadRef) (tag kind : Nat) (bad : Bool) : Mod × List Host.Cell :=
  match m.takeReq w tag 0 (8 + kind) with
  | none => (m, mem)
  | some q =>
    let a := q.args.headD 0
    let addr := a % 2 ^ 40
    let n := bits a 40 3 + 1
    if memBad kind addr n q.args.length || !inDataRegion addr then (m.answer w tag { status := chRefused }, mem)
    else
      let m := m.fgUse [hbmUnit addr]
      if bad then ((m.eccFatal 3 (leBytes 8 addr)).answer w tag { status := chError }, mem)
      else
      let old := (List.range n).map fun i => leNat (memBytes mem (addr + 8 * i) 8)
      let (st, data, new) := memOp kind (q.args.drop 1) old
      (m.answer w tag { status := st, data := data }, memPutBytes mem addr (new.flatMap (leBytes 8)))

/-- DATA_READ. -/
def execDataRead (sl : Fin 8) (e : Fin 160) (t : Fin 16) (tag : Fin 8) (bad : Bool) (s : State) : Host.Outcome State Fault Refusal :=
  runMem s fun m mem => dataReq m mem ⟨sl, e, t⟩ tag 0 bad

/-- DATA_WRITE. -/
def execDataWrite (sl : Fin 8) (e : Fin 160) (t : Fin 16) (tag : Fin 8) (bad : Bool) (s : State) : Host.Outcome State Fault Refusal :=
  runMem s fun m mem => dataReq m mem ⟨sl, e, t⟩ tag 1 bad

/-- DATA_ADD. -/
def execDataAdd (sl : Fin 8) (e : Fin 160) (t : Fin 16) (tag : Fin 8) (bad : Bool) (s : State) : Host.Outcome State Fault Refusal :=
  runMem s fun m mem => dataReq m mem ⟨sl, e, t⟩ tag 2 bad

/-- DATA_CAS. -/
def execDataCas (sl : Fin 8) (e : Fin 160) (t : Fin 16) (tag : Fin 8) (bad : Bool) (s : State) : Host.Outcome State Fault Refusal :=
  runMem s fun m mem => dataReq m mem ⟨sl, e, t⟩ tag 3 bad

/-- LOCAL (R202, R235): cluster scratch. `bad`: an uncorrectable error in it. -/
def Mod.localReq (m : Mod) (w : ThreadRef) (tag kind : Nat) (bad : Bool) : Mod :=
  match m.takeReq w tag 0 (12 + kind) with
  | none => m
  | some q =>
    let a := q.args.headD 0
    let off := a % 2 ^ 18
    let n := bits a 40 3 + 1
    if memBad kind off n q.args.length then m.answer w tag { status := chRefused }
    else if bad then m.answer w tag { status := chError }
    else
      let key := (w.s * 10 + w.e / 16) * 32768 + off / 8
      let old := (List.range n).map fun i => tgetD m.shu.scratch (key + i) 0
      let (st, data, new) := memOp kind (q.args.drop 1) old
      let put := fun (t : Tab Nat) (p : Nat × Nat) => if p.1 = 0 then tdel t (key + p.2) else tput t (key + p.2) p.1
      (m.setShu fun u => { u with scratch := new.zipIdx.foldl put u.scratch }).answer w tag { status := st, data := data }

/-- LOCAL_READ. -/
def execLocalRead (sl : Fin 8) (e : Fin 160) (t : Fin 16) (tag : Fin 8) (bad : Bool) (s : State) : Host.Outcome State Fault Refusal :=
  run s fun m => m.localReq ⟨sl, e, t⟩ tag 0 bad

/-- LOCAL_WRITE. -/
def execLocalWrite (sl : Fin 8) (e : Fin 160) (t : Fin 16) (tag : Fin 8) (bad : Bool) (s : State) : Host.Outcome State Fault Refusal :=
  run s fun m => m.localReq ⟨sl, e, t⟩ tag 1 bad

/-- LOCAL_ADD. -/
def execLocalAdd (sl : Fin 8) (e : Fin 160) (t : Fin 16) (tag : Fin 8) (bad : Bool) (s : State) : Host.Outcome State Fault Refusal :=
  run s fun m => m.localReq ⟨sl, e, t⟩ tag 2 bad

/-- LOCAL_CAS. -/
def execLocalCas (sl : Fin 8) (e : Fin 160) (t : Fin 16) (tag : Fin 8) (bad : Bool) (s : State) : Host.Outcome State Fault Refusal :=
  run s fun m => m.localReq ⟨sl, e, t⟩ tag 3 bad

/-- COUNT (R267). -/
def execCountUpdate (sl : Fin 8) (e : Fin 160) (t : Fin 16) (tag : Fin 8) (s : State) : Host.Outcome State Fault Refusal :=
  run s fun m =>
    let w : ThreadRef := ⟨sl, e, t⟩
    match m.takeReq w tag 0 16 with
    | none => m
    | some q =>
      let (r, m) := m.countOp sl (q.args.headD 0) q.len
      m.answer w tag r

/-! ### REWRITE (R236, R237) -/

/-- A request on the REWRITE channel: the window's pending changes are written back with the flagged checksums (R221, R222),
then the operation acts. A faulted thread's packet is gone, and its request only answers. -/
def Mod.rewrite (m : Mod) (w : ThreadRef) (tag op : Nat) (f : Mod → ChanReq → Thread → Mod × Resp) : Mod :=
  match m.takeReq w tag 1 op with
  | none => m
  | some q =>
    let x := m.th w.s w.e w.t
    if x.state = 4 then m.answer w tag {}
    else
      let x := { x with pkt := { x.pkt with bytes := checksums q.w4 (backTo x.pkt.bytes q.back) } }
      let (m, r) := f (m.putTh w.s w.e w.t x) q x
      m.answer w tag r

/-- Puts a packet's bytes. -/
def Mod.putBytes (m : Mod) (w : ThreadRef) (d : List Byte) : Mod :=
  let x := m.th w.s w.e w.t
  m.putTh w.s w.e w.t { x with pkt := { x.pkt with bytes := d } }

/-- An allocation is refused (R210). -/
def Mod.noCell (m : Mod) (s : Nat) : Mod × Resp := (m.shuCount s 10, { status := chNoCell })

/-- The longest packet that an operation may make. -/
def maxLen : Nat := 9600

/-- WRITEBACK. -/
def execWriteback (sl : Fin 8) (e : Fin 160) (t : Fin 16) (tag : Fin 8) (s : State) : Host.Outcome State Fault Refusal :=
  run s fun m => m.rewrite ⟨sl, e, t⟩ tag 0 fun m _ _ => (m, {})

/-- INSERT: zero bytes before an offset. -/
def execInsertBytes (sl : Fin 8) (e : Fin 160) (t : Fin 16) (tag : Fin 8) (s : State) : Host.Outcome State Fault Refusal :=
  run s fun m => m.rewrite ⟨sl, e, t⟩ tag 1 fun m q x =>
    let a := q.args.headD 0
    let off := a % 256
    let n := bits a 8 8 + 1
    let d := x.pkt.bytes
    if d.length < off || maxLen < d.length + n then (m, { status := chRefused })
    else match m.useCells sl e t (ceilDiv (d.length + n) 256 - ceilDiv d.length 256) with
      | none => m.noCell sl
      | some m =>
        let d := d.take off ++ List.replicate n 0 ++ d.drop off
        (m.putBytes ⟨sl, e, t⟩ d, { install := some (0, windowOf d), len := some d.length })

/-- STRIP: bytes from an offset are removed. -/
def execStripBytes (sl : Fin 8) (e : Fin 160) (t : Fin 16) (tag : Fin 8) (s : State) : Host.Outcome State Fault Refusal :=
  run s fun m => m.rewrite ⟨sl, e, t⟩ tag 2 fun m q x =>
    let a := q.args.headD 0
    let off := a % 256
    let n := bits a 8 8 + 1
    let d := x.pkt.bytes
    if d.length < off + n then (m, { status := chRefused })
    else
      let d := d.take off ++ d.drop (off + n)
      (m.putBytes ⟨sl, e, t⟩ d, { install := some (0, windowOf d), len := some d.length })

/-- READ: words in wire order. -/
def execRewriteRead (sl : Fin 8) (e : Fin 160) (t : Fin 16) (tag : Fin 8) (s : State) : Host.Outcome State Fault Refusal :=
  run s fun m => m.rewrite ⟨sl, e, t⟩ tag 3 fun m q x =>
    let a := q.args.headD 0
    let off := a % 65536
    let n := bits a 16 3 + 1
    let d := x.pkt.bytes
    if d.length < off + 8 * n then (m, { status := chRefused })
    else (m, { data := (List.range n).map fun i => beNat (slice d (off + 8 * i) 8) })

/-- The data words of a WRITE; one that the request brings no register for is a free value. (DESIGN CHOICE, log 40) -/
def Mod.writeWords (m : Mod) (q : ChanReq) (n : Nat) : List Nat × Mod :=
  (List.range n).foldl (fun (r : List Nat × Mod) i => let (v, m) := r.2.operand q (i + 1); (r.1 ++ [v], m)) ([], m)

/-- WRITE: words in wire order; those below byte 256 reach the window with the response. -/
def execRewriteWrite (sl : Fin 8) (e : Fin 160) (t : Fin 16) (tag : Fin 8) (s : State) : Host.Outcome State Fault Refusal :=
  run s fun m => m.rewrite ⟨sl, e, t⟩ tag 4 fun m q x =>
    let a := q.args.headD 0
    let off := a % 65536
    let n := bits a 16 3 + 1
    let d := x.pkt.bytes
    if d.length < off + 8 * n then (m, { status := chRefused })
    else
      let (ws, m) := m.writeWords q n
      let body := ws.flatMap (beBytes 8)
      (m.putBytes ⟨sl, e, t⟩ (overlay d off body), { install := if off < 256 then some (off, body.take (256 - off)) else none })

/-- CELL_ALLOC. -/
def execCellAlloc (sl : Fin 8) (e : Fin 160) (t : Fin 16) (tag : Fin 8) (s : State) : Host.Outcome State Fault Refusal :=
  run s fun m => m.rewrite ⟨sl, e, t⟩ tag 5 fun m q _ =>
    match m.takeCells sl e t (q.args.headD 0 % 64) true with
    | some m => (m, {})
    | none => m.noCell sl

/-- COPY and MIRROR: a copy of the packet as it stands, of at most `trunc` bytes where that is not 0. -/
def Mod.copyReq (m : Mod) (w : ThreadRef) (x : Thread) (dest trunc : Nat) : Mod × Resp :=
  match destOf dest with
  | none => (m, { status := chRefused })
  | some d =>
    if x.copies.length ≥ 16 then (m, { status := chRefused })
    else
      let bs := if trunc = 0 then x.pkt.bytes else x.pkt.bytes.take trunc
      match m.useCells w.s w.e w.t (ceilDiv bs.length 256) with
      | none => m.noCell w.s
      | some m =>
        let y := m.th w.s w.e w.t
        let c : Pkt := { y.pkt with bytes := bs, charges := [], launch := none, reason := none }
        (m.putTh w.s w.e w.t { y with copies := y.copies ++ [(c, d)] }, {})

/-- COPY. -/
def execCopyCell (sl : Fin 8) (e : Fin 160) (t : Fin 16) (tag : Fin 8) (s : State) : Host.Outcome State Fault Refusal :=
  run s fun m => m.rewrite ⟨sl, e, t⟩ tag 6 fun m q x => m.copyReq ⟨sl, e, t⟩ x (q.args.headD 0) 0

/-- MIRROR. -/
def execMirrorPass (sl : Fin 8) (e : Fin 160) (t : Fin 16) (tag : Fin 8) (s : State) : Host.Outcome State Fault Refusal :=
  run s fun m => m.rewrite ⟨sl, e, t⟩ tag 7 fun m q x =>
    let (tr, m) := m.operand q 1
    m.copyReq ⟨sl, e, t⟩ x (q.args.headD 0) (tr % 65536)

/-- RECIRC. -/
def execRecircPass (sl : Fin 8) (e : Fin 160) (t : Fin 16) (tag : Fin 8) (s : State) : Host.Outcome State Fault Refusal :=
  run s fun m => m.rewrite ⟨sl, e, t⟩ tag 8 fun m q x =>
    let a := q.args.headD 0
    let v := bits a 3 5
    if v < 16 then (m, { status := chRefused }) else (m.putTh sl e t { x with recirc := some (a % 8, v) }, {})

/-! ### Flow-cache fills (R253, R255, R263) -/

/-- FLOW_FILL_DONE: fill `i` of a slice returns from HBM. A stale one is issued again; with `bad`, an uncorrectable error in a
bucket, it answers ERROR; otherwise it installs every copy of the key and answers each lookup it serves by its pass. Its two bucket
reads and its writes into the cache are foreground (R100). -/
def execFlowFillDone (sl : Fin 8) (i : Nat) (bad : Bool) (s : State) : Host.Outcome State Fault Refusal :=
  run s fun m =>
    match (m.pat.fills.filter fun f => f.slice = sl.val)[i]? with
    | none => m
    | some f =>
      let same := fun (g : Fill) => g.slice = f.slice && g.scope = f.scope && g.key = f.key
      if f.stale then
        let again := fun (g : Fill) => if same g then { g with stale := false } else g
        { m with pat := { m.pat with fills := m.pat.fills.map again } }.cacheCount sl 8
      else
        let b := m.buckets f.scope f.key
        let m := { m with pat := { m.pat with fills := m.pat.fills.filter fun g => !same g } }
        let m := m.fgUse [hbmUnit (HbmRegion.flow.unitAddr b.1), hbmUnit (HbmRegion.flow.unitAddr b.2), 145 + sl.val]
        if bad then f.waits.foldl (fun m w => m.answer w.1 w.2 { status := chError }) ((m.cacheCount sl 6).eccFatal 3)
        else
          let cs : List ExEntry := (m.copies f.scope f.key).map (·.2)
          let m := if cs.isEmpty then m.install sl true { scope := f.scope, key := f.key, act := [] }
            else cs.foldl (fun (m : Mod) (c : ExEntry) => m.install sl false c) m
          f.waits.foldl (fun m w =>
            let x := m.th w.1.s w.1.e w.1.t
            let r := match laterOf (fun c : ExEntry => c.wseq) (cs.filter fun c => m.visible sl x.seq c.role c.tag) with
              | some c => hitResp c true
              | none => m.missResp x.pkt.origin true false false false
            m.answer w.1 w.2 r) m

end Sys2Proof.Machine
end

