-- ==== Sys2Proof/Machine/Thimble.lean ====
section
/-! DEFINITION. *Thimble cipher cluster*: roots, derivation, contexts, the THIMBLE channel, ESP, TLS, epochs. -/

namespace Sys2Proof.Machine

/-- Changes Thimble. -/
def Mod.setThm (m : Mod) (f : Thimble → Thimble) : Mod := { m with thm := f m.thm }

/-- Counts in THM_CNT. -/
def Mod.thmCount (m : Mod) (s i : Nat) (n : Nat := 1) : Mod := m.count F.THM_CNT_COUNT [s, i] n

/-- `n` random bytes. -/
def Mod.randomBytes (m : Mod) : Nat → List Byte × Mod
  | 0 => ([], m)
  | n + 1 => let (d, m) := m.draw 256; let (r, m) := m.randomBytes n; (BitVec.ofNat 8 d :: r, m)

/-- The module's serial number (R65). -/
def serialNumber : List Byte := (List.range 16).map Config.serialByte

/-! ### Derivation (R338, R340 to R342) -/

/-- The KDF in counter mode: `n` bytes under a key, with the 11 ASCII bytes `who` and a label. -/
def kdf (key : List Byte) (who : String) (label : List Byte) (n : Nat) : List Byte :=
  slice ((List.range (ceilDiv n 48)).flatMap fun i => hmac 0 key (beBytes 4 (i + 1) ++ ascii who ++ [0] ++ label ++ beBytes 4 (8 * n)))
    0 n

/-- The ROOT_ID of a root (R338). -/
def rootIdOf (root : List Byte) : Nat := leAt (hmac 0 root (ascii "UXM-ROOT-ID")) 0 4

/-- The context label (R341). -/
def labelOf (purpose alg : Nat) (epoch : Option (Int × Nat)) (inst ctxId inc : Nat) (origin : List Byte) : List Byte :=
  [1, BitVec.ofNat 8 purpose, BitVec.ofNat 8 alg, BitVec.ofNat 8 (b2n epoch.isSome)] ++ leBytes 2 inst ++ [0, 0] ++ leBytes 4 ctxId ++
    leBytes 4 inc ++ slice origin 0 16 ++
    (match epoch with | some (e, p) => leBytes 8 (unsigned 64 e) ++ leBytes 4 p | none => List.replicate 12 0) ++ List.replicate 20 0

/-- Output bytes of a purpose (R342). -/
def keyLen (purpose : Nat) : Nat := match purpose with | 3 => 44 | 4 => 64 | 5 => 32 | _ => 36

/-- The root of a slot that is READY. -/
def Mod.rootOf (m : Mod) (k : Nat) : Option (List Byte) :=
  match tget m.thm.agree k, tget m.chalk.roots k with
  | none, some r => some r.root
  | _, _ => none

/-- The key of a context under an epoch. -/
def Mod.keyOf (m : Mod) (o : ThmObj) (e : Int) : List Byte :=
  kdf ((o.root.bind fun k => (tget m.chalk.roots k).map (·.root)).getD []) "UXM-THIMBLE"
    (labelOf o.purpose o.alg (o.epoch.map fun x => (e, x.period)) o.inst o.ctxId o.incarnation o.origin) (keyLen o.purpose)

/-! ### Epochs (R357 to R361) -/

/-- The epoch at a device time. -/
def EpochSet.at_ (x : EpochSet) (t : Nat) : Int := ((secOf t : Int) - x.base) / x.period

/-- The epoch that HOLD keeps in use: during the loss, and after it until the next epoch boundary of device time (R360). -/
def Mod.heldEpoch (m : Mod) (x : EpochSet) : Option Int :=
  match m.tl.epochHold, m.tl.epochBack with
  | some h, _ => some (x.at_ h)
  | none, some (h, r) => if x.at_ m.now = x.at_ r then some (x.at_ h) else none
  | none, none => none

/-- Operations on epoch-keyed contexts are refused (R360). -/
def Mod.epochRefused (m : Mod) : Bool := !m.flag F.TPL_STATE_TRACEABLE && m.get F.TPL_LOSS_POLICY_EPOCH = 2

/-- The epoch that an encryption uses (R358): never one that has been left. (DEDUCED, log 45) -/
def Mod.encEpoch (m : Mod) (o : ThmObj) (x : EpochSet) : Int :=
  let e := (m.heldEpoch x).getD (x.at_ m.now)
  match o.eHigh with | some h => max h e | none => e

/-- Units of device time in a millisecond. -/
def msUnit : Nat := nsUnit * 1000000

/-- The epochs that a decryption accepts (R359, R360). (DEDUCED, log 45) -/
def Mod.decEpochs (m : Mod) (x : EpochSet) : List Int :=
  match m.heldEpoch x with
  | some h => [h, h - 1, h + 1]
  | none =>
    let e := x.at_ m.now
    let start : Int := (e * x.period + x.base) * (1000 * msUnit)
    let end_ : Int := start + x.period * (1000 * msUnit)
    let g : Int := x.guard * msUnit
    [e] ++ (if (m.now : Int) - start < g then [e - 1] else []) ++ (if end_ - (m.now : Int) ≤ g then [e + 1] else [])

/-! ### Handles (R345) -/

/-- A handle of an object. -/
def handleOf (key serial : Nat) : Nat := key + serial * 2 ^ 18

/-- The object that a handle names; none when it is not live. -/
def Mod.object (m : Mod) (h : Nat) : Option ThmObj :=
  match tget m.thm.objs (h % 2 ^ 18) with
  | some o => if o.serial = h / 2 ^ 18 && !o.dying then some o else none
  | none => none

/-- Puts an object. -/
def Mod.putObj (m : Mod) (k : Nat) (o : ThmObj) : Mod := m.setThm fun t => { t with objs := tput t.objs k o }

/-- Operations of an object in progress. -/
def Mod.objBusy (m : Mod) (k : Nat) : Bool := (tgetD m.thm.ops (k / 32768) []).any fun p => p.obj = k

/-- The object that holds the keys of another: an ESP SA's context. -/
def Mod.keyObj (m : Mod) (k : Nat) (o : ThmObj) : Nat × ThmObj :=
  match o.kind with
  | .esp c _ _ _ => (c, tgetD m.thm.objs c o)
  | _ => (k, o)

/-- Another object names a context: an ESP SA or a MACsec SA. (DEDUCED, log 45) -/
def Mod.objNamed (m : Mod) (k : Nat) : Bool :=
  (m.thm.objs.any fun o => match o.2.kind with | .esp c _ _ _ => c = k | _ => false) || m.thm.macsec.any fun x => x.2.ctx = k

/-! ### Accepting operations (R332 to R337) -/

/-- Status codes of R336. -/
def thBadHandle : Nat := 0x10
def thWrongSlice : Nat := 0x11
def thReplay : Nat := 0x12
def thEpoch : Nat := 0x13
def thExpired : Nat := 0x14
def thSeqReused : Nat := 0x15
def thWrongState : Nat := 0x16
def thNotTraceable : Nat := 6
def thAuthFail : Nat := 7

/-- The counter of a status (THM_CNT). -/
def thCounter (st : Nat) : Option Nat :=
  if st = 0 then some 0 else if st = thAuthFail then some 3 else if st = thReplay then some 4 else if st = thEpoch then some 5
  else if st = thBadHandle || st = thWrongSlice || st = thWrongState then some 6 else if st = thNotTraceable then some 7
  else if st = thSeqReused then some 8 else if st = thExpired then some 9 else none

/-- The operand layout of R334. -/
structure ThmArgs where
  handle : Nat
  hint : Nat
  first : Bool
  final : Bool
  aadOff : Nat
  aadLen : Nat
  off : Nat
  len : Nat
  word2 : Nat
  deriving DecidableEq, Repr

/-- The operands of a request. -/
def thmArgs (q : ChanReq) : ThmArgs :=
  let a := fun i => q.args.getD i 0
  ⟨a 0 % 2 ^ 32, bits (a 0) 32 2, bit (a 0) 34, bit (a 0) 35, bits (a 1) 0 16, bits (a 1) 16 16, bits (a 1) 32 16, bits (a 1) 48 16, a 2⟩

/-- An operation carries a tag directly after its data (R334): whole ones, and the final part of OPEN and TLS_IN. -/
def thmTagged (op : Nat) (x : ThmArgs) : Bool :=
  match op with | 1 | 5 => x.final | 6 | 7 => false | _ => true

/-- What gives REFUSED (R334, R335), on a packet of `n` bytes. -/
def thmRefused (op n : Nat) (x : ThmArgs) : Bool :=
  decide (64 < x.aadLen) || x.len = 0 || decide (9600 < x.len) || decide (n < x.aadOff + x.aadLen) || decide (n < x.off + x.len) ||
    (thmTagged op x && decide (n < x.off + x.len + 16)) ||
    (decide (0 < x.aadLen) && decide (x.aadOff < x.off + x.len ∧ x.off < x.aadOff + x.aadLen)) ||
    ((op = 6 || op = 7) && decide (x.len < 16)) || ((op = 2 || op = 3 || op = 6 || op = 7) && x.aadLen ≠ 0) ||
    ((op = 2 || op = 3) && decide (x.off < 16))

/-- What an accepted operation is to do: the object after it, and the operation. -/
abbrev Accept := Except Nat (ThmObj × ThmOp × Mod)

/-- An operation before its result is known. -/
def thmOp (w : ThreadRef) (tag k : Nat) (resp : Resp) : ThmOp := { who := w, tag := tag, obj := k, resp := resp }

/-- An AEAD nonce: salt and counter (R347). -/
def nonceOf (key : List Byte) (counter : Nat) : List Byte := slice key 32 4 ++ beBytes 8 counter

/-- The data words that name incarnation and epoch (R335). -/
def epochWord (o : ThmObj) (e : Int) : Nat := o.incarnation + unsigned 32 (if o.epoch.isSome then e else 0) * 2 ^ 32

/-- A counter for an encryption (R347, R358): the epoch, the counter, the context after it. -/
def Mod.takeCounter (m : Mod) (o : ThmObj) : Except Nat (Int × Nat × ThmObj) :=
  match o.epoch with
  | some x =>
    if m.epochRefused then .error thNotTraceable
    else
      let e := m.encEpoch o x
      let c := if o.eHigh = some e then o.counter else 1
      if c ≥ 2 ^ 64 - 1 then .error thExpired else .ok (e, c, { o with counter := c + 1, used := true, eHigh := some e })
  | none => if o.counter ≥ 2 ^ 64 - 1 then .error thExpired else .ok (0, o.counter, { o with counter := o.counter + 1, used := true })

/-- The epoch of a decryption by HINT (R359): the epoch, and whether it is not the present one. -/
def Mod.decEpoch (m : Mod) (o : ThmObj) (hint : Nat) : Except Nat (Int × Bool) :=
  match o.epoch with
  | some x =>
    if m.epochRefused then .error thNotTraceable
    else match (m.decEpochs x).find? fun e => e % 4 = (hint : Int) with
      | some e => .ok (e, decide (e ≠ x.at_ m.now))
      | none => .error thEpoch
  | none => .ok (0, false)

/-- The result word of R335. (PRESUMED, log 44) -/
def thmResult (abandoned alt due : Bool) : Nat := b2n abandoned + 2 * b2n alt + 4 * b2n due

/-- Bytes that an operation writes reach the window below byte 256 with the response (R337). -/
def withWrite (p : ThmOp) (off : Nat) (bs : List Byte) : ThmOp :=
  { p with write := some (off, bs), resp := { p.resp with install := if off < 256 then some (off, bs.take (256 - off)) else none } }

/-- SEAL (R335, R347). (PRESUMED, log 44) -/
def Mod.seal (m : Mod) (p : ThmOp) (o : ThmObj) (x : ThmArgs) (d : List Byte) : Accept :=
  if o.purpose ≠ 1 || o.dir ≠ 0 || o.kind ≠ .ctx then .error thWrongState
  else match m.takeCounter o with
    | .error st => .error st
    | .ok (e, c, o) =>
      let key := m.keyOf o e
      let out := aeadSeal o.alg (key.take 32) (nonceOf key c) (slice d x.aadOff x.aadLen) (slice d x.off x.len)
      .ok (o, withWrite { p with resp := { data := [c, epochWord o e] }, sealed_ := x.len } x.off out, m)

/-- A part of a record that is decrypted (R337): what it writes, whether the tag fails at FINAL, the record after it. -/
def openPart (alg : Nat) (key : List Byte) (r : PartRec) (x : ThmArgs) (d : List Byte) : List Byte × Bool × Option PartRec :=
  let part := slice d x.off x.len
  let all := r.acc ++ part
  let plain := (aeadOpen alg (key.take 32) r.nonce r.aad all).drop r.acc.length
  let bad := x.final && !aeadCheck alg (key.take 32) r.nonce r.aad all (slice d (x.off + x.len) 16)
  (plain, bad, if x.final then none else some { r with acc := all })

/-- OPEN (R335, R337). (PRESUMED, log 44) -/
def Mod.openOp (m : Mod) (p : ThmOp) (o : ThmObj) (x : ThmArgs) (d : List Byte) : Accept :=
  if o.purpose ≠ 1 || o.dir ≠ 1 || o.kind ≠ .ctx || (!x.first && o.rec_.isNone) then .error thWrongState
  else
    let begun : Except Nat PartRec :=
      match x.first, o.rec_ with
      | false, some r => if o.epoch.isSome && m.epochRefused then .error thNotTraceable else .ok r
      | _, _ =>
        match m.decEpoch o x.hint with
        | .error st => .error st
        | .ok (e, alt) =>
          .ok { nonce := nonceOf (m.keyOf o e) x.word2, epoch := e, alt := alt, aad := slice d x.aadOff x.aadLen, seq := x.word2 }
    match begun with
    | .error st => .error st
    | .ok r =>
      let abandoned := x.first && o.rec_.isSome
      let (plain, bad, rest) := openPart o.alg (m.keyOf o r.epoch) r x d
      let m := if abandoned then m.thmCount p.who.s 10 else m
      let resp : Resp := { status := if bad then thAuthFail else 0, result := thmResult abandoned r.alt false,
                           data := [r.seq, epochWord o r.epoch] }
      .ok ({ o with used := true, rec_ := rest }, withWrite { p with resp := resp, opened := x.len } x.off plain, m)

/-- The SPI that goes on the wire: the two low bits carry the epoch of an epoch-keyed context (R358). (PRESUMED, log 44) -/
def wireSpi (spi : Nat) (o : ThmObj) (e : Int) : Nat := if o.epoch.isSome then spi / 4 * 4 + (e % 4).toNat else spi

/-- ESP_OUT (R351): the object given is the SA; the counter is its context's. -/
def Mod.espOut (m : Mod) (p : ThmOp) (o : ThmObj) (x : ThmArgs) (d : List Byte) : Accept :=
  match o.kind with
  | .esp ck spi _ _ =>
    let c := tgetD m.thm.objs ck o
    if c.dir ≠ 0 then .error thWrongState
    else match m.takeCounter c with
      | .error st => .error st
      | .ok (e, n, c) =>
        let key := m.keyOf c e
        let s := beBytes 4 (wireSpi spi c e)
        let head := s ++ beBytes 4 (n % 2 ^ 32) ++ beBytes 8 n
        let out := aeadSeal c.alg (key.take 32) (nonceOf key n) (s ++ beBytes 8 n) (slice d x.off x.len)
        .ok ({ o with used := true }, withWrite { p with resp := { data := [n, epochWord c e] }, sealed_ := x.len } (x.off - 16) (head ++ out),
          m.putObj ck c)
  | _ => .error thWrongState

/-- The extended sequence that 32 bits on the wire stand for (RFC 4303, Appendix A); none before the first. -/
def espSequence (top window low : Nat) : Option Nat :=
  let tl := top % 2 ^ 32
  let th := top / 2 ^ 32
  if window - 1 ≤ tl then some ((if tl - (window - 1) ≤ low then th else th + 1) * 2 ^ 32 + low)
  else if tl + 2 ^ 32 - (window - 1) ≤ low then (if th = 0 then none else some ((th - 1) * 2 ^ 32 + low))
  else some (th * 2 ^ 32 + low)

/-- A sequence is outside the window or was seen. -/
def Replay.rejects (r : Replay) (window n : Nat) : Bool := n = 0 || decide (n + window ≤ r.top) || r.seen.contains n

/-- The replay window of an epoch. (PRESUMED, log 44) -/
def replayOf (l : List Replay) (e : Int) : Replay := (l.find? fun r => decide (r.epoch = e)).getD { epoch := e }

/-- A window after a sequence was validated. -/
def Replay.note (r : Replay) (window n : Nat) : Replay :=
  let top := max r.top n
  { r with top := top, seen := (n :: r.seen).filter fun k => decide (top < k + window) }

/-- ESP_IN (R351). -/
def Mod.espIn (m : Mod) (p : ThmOp) (o : ThmObj) (x : ThmArgs) (d : List Byte) : Accept :=
  match o.kind with
  | .esp ck _ window rs =>
    let c := tgetD m.thm.objs ck o
    if c.dir ≠ 1 then .error thWrongState
    else match m.decEpoch c x.hint with
      | .error st => .error st
      | .ok (e, alt) =>
        let r := replayOf rs e
        match espSequence r.top window (beNat (slice d (x.off - 12) 4)) with
        | none => .error thReplay
        | some n =>
          if r.rejects window n then .error thReplay
          else
            let key := m.keyOf c e
            let nonce := slice key 32 4 ++ slice d (x.off - 8) 8
            let aad := slice d (x.off - 16) 4 ++ beBytes 8 n
            let data := slice d x.off x.len
            let bad := !aeadCheck c.alg (key.take 32) nonce aad data (slice d (x.off + x.len) 16)
            let resp : Resp := { status := if bad then thAuthFail else 0, result := thmResult false alt false, data := [n, epochWord c e] }
            .ok ({ o with used := true }, withWrite { p with resp := resp, opened := x.len, replay := if bad then none else some (e, n) } x.off
              (aeadOpen c.alg (key.take 32) nonce aad data), m.putObj ck { c with used := true })
  | _ => .error thWrongState

/-- HKDF-Expand-Label of TLS 1.3. -/
def tlsLabel (alg : Nat) (secret : List Byte) (label : String) (ctx : List Byte) (n : Nat) : List Byte :=
  let l := ascii "tls13 " ++ ascii label
  hkdfExpand alg secret (beBytes 2 n ++ beBytes 1 l.length ++ l ++ beBytes 1 ctx.length ++ ctx) n

/-- The hash length of a suite. -/
def tlsHash (suite : Nat) : Nat := if suite = 0 then 48 else 32

/-- Derive-Secret of TLS 1.3 from a transcript hash. -/
def tlsSecret (suite : Nat) (secret : List Byte) (label : String) (th : List Byte) : List Byte :=
  tlsLabel suite secret label th (tlsHash suite)

/-- The nonce of a record. -/
def tlsNonce (suite : Nat) (secret : List Byte) (seq : Nat) : List Byte :=
  beBytes 12 (beNat (tlsLabel suite secret "iv" [] 12) ^^^ seq)

/-- The record limit of a write direction (R353). -/
def tlsLimit : Nat := 23726566

/-- A write direction accepts a sequence (R352): the direction after it. -/
def TlsDir.take (t : TlsDir) (n : Nat) : Option TlsDir :=
  match t.high with
  | none => some { t with high := some n, used := [n] }
  | some h =>
    if h < n then some { t with high := some n, used := (n :: t.used).filter fun k => decide (n ≤ k + 1024) }
    else if h ≤ n + 1024 && !t.used.contains n then some { t with used := n :: t.used }
    else none

/-- TLS_OUT (R352, R353). -/
def Mod.tlsOut (m : Mod) (p : ThmOp) (o : ThmObj) (x : ThmArgs) (d : List Byte) : Accept :=
  match o.kind with
  | .tls t =>
    match t.tx with
    | none => .error thWrongState
    | some dir =>
      if tlsLimit ≤ x.word2 then .error thExpired
      else match dir.take x.word2 with
        | none => .error thSeqReused
        | some dir' =>
          let key := tlsLabel t.suite dir.secret "key" [] 32
          let out := aeadSeal t.suite key (tlsNonce t.suite dir.secret x.word2) (slice d x.aadOff x.aadLen) (slice d x.off x.len)
          let resp : Resp := { result := thmResult false false (decide (2 ^ 24 ≤ x.word2)), data := [x.word2] }
          .ok ({ o with kind := .tls { t with tx := some dir' }, used := true },
            withWrite { p with resp := resp, sealed_ := x.len } x.off out, m)
  | _ => .error thWrongState

/-- The inner content type of a record: its last byte that is not zero. -/
def innerType (d : List Byte) : Nat := ((d.reverse.find? fun b => decide (b ≠ 0)).getD 0).toNat

/-- TLS_IN (R337, R352). -/
def Mod.tlsIn (m : Mod) (p : ThmOp) (o : ThmObj) (x : ThmArgs) (d : List Byte) : Accept :=
  match o.kind with
  | .tls t =>
    match t.rx with
    | none => .error thWrongState
    | some dir =>
      if !x.first && o.rec_.isNone then .error thWrongState
      else
        let r := match x.first, o.rec_ with
          | false, some r => r
          | _, _ => { nonce := tlsNonce t.suite dir.secret x.word2, epoch := 0, alt := false, aad := slice d x.aadOff x.aadLen, seq := x.word2 }
        let abandoned := x.first && o.rec_.isSome
        let key := tlsLabel t.suite dir.secret "key" [] 32
        let (plain, bad, rest) := openPart t.suite key r x d
        let m := if abandoned then m.thmCount p.who.s 10 else m
        let resp : Resp := { status := if bad then thAuthFail else 0, result := thmResult abandoned false false,
                             data := if x.final then [r.seq, innerType plain] else [r.seq] }
        .ok ({ o with used := true, rec_ := rest }, withWrite { p with resp := resp, opened := x.len } x.off plain, m)
  | _ => .error thWrongState

/-- XTS_ENC (0) and XTS_DEC (1): the tweak is WORD2. -/
def Mod.xtsOp (m : Mod) (dec : Nat) (p : ThmOp) (o : ThmObj) (x : ThmArgs) (d : List Byte) : Accept :=
  if o.purpose ≠ 4 || o.dir ≠ dec || o.kind ≠ .ctx then .error thWrongState
  else
    let p := if dec = 0 then { p with sealed_ := x.len } else { p with opened := x.len }
    .ok ({ o with used := true }, withWrite p x.off (xts dec (m.keyOf o 0) x.word2 (slice d x.off x.len)), m)

/-- An answer without effect: its counter. (DEDUCED, log 38) -/
def Mod.thmAnswer (m : Mod) (w : ThreadRef) (tag st : Nat) : Mod :=
  (match thCounter st with | some i => m.thmCount w.s i | none => m).answer w tag { status := st }

/-- An operation of the thread that has not ended is to write bytes that a request reads or writes (R212). -/
def ThmOp.under (p : ThmOp) (w : ThreadRef) (x : ThmArgs) : Bool :=
  match p.write with
  | some (o, bs) => decide (p.who = w) && (decide (o < x.off + x.len + 16 ∧ x.off < o + bs.length + 16) || decide (o < x.aadOff + x.aadLen ∧ x.aadOff < o + bs.length))
  | none => false

/-- The scheduler takes a request (R331 to R337); one on bytes that an earlier operation of the thread is to write waits for it (R212).
(PRESUMED, log 44) -/
def Mod.thmRequest (m : Mod) (w : ThreadRef) (tag op : Nat)
    (act : Mod → ThmOp → ThmObj → ThmArgs → List Byte → Accept) : Mod :=
  match m.takeReq w tag 2 op with
  | none => m
  | some q =>
    let ops := tgetD m.thm.ops w.s []
    if ops.any fun p => p.under w (thmArgs q) then m
    else if ops.length ≥ 4096 then
      if q.full then m else
      let th := m.th w.s w.e w.t
      (m.thmCount w.s 12).putTh w.s w.e w.t { th with tags := tput th.tags tag (.out { q with full := true }) }
    else
      let th := m.th w.s w.e w.t
      let d := checksums q.w4 (backTo th.pkt.bytes q.back)
      let m := m.putBytes w d
      let x := thmArgs q
      if q.args.length ≠ 3 || thmRefused op d.length x then m.answer w tag { status := chRefused }
      else match m.object x.handle with
        | none => m.thmAnswer w tag thBadHandle
        | some o =>
          let k := x.handle % 2 ^ 18
          if k / 32768 ≠ w.s then m.thmAnswer w tag thWrongSlice
          else match act m (thmOp w tag k {}) o x d with
            | .error st => m.thmAnswer w tag st
            | .ok (o, p, m) => ((m.putObj k o).busyTag w tag 2).setThm fun t => { t with ops := tput t.ops w.s (ops ++ [p]) }

/-- SEAL. -/
def execSealData (sl : Fin 8) (e : Fin 160) (t : Fin 16) (tag : Fin 8) (s : State) : Host.Outcome State Fault Refusal :=
  run s fun m => m.thmRequest ⟨sl, e, t⟩ tag 0 Mod.seal

/-- OPEN. -/
def execOpenData (sl : Fin 8) (e : Fin 160) (t : Fin 16) (tag : Fin 8) (s : State) : Host.Outcome State Fault Refusal :=
  run s fun m => m.thmRequest ⟨sl, e, t⟩ tag 1 Mod.openOp

/-- ESP_OUT. -/
def execEspOut (sl : Fin 8) (e : Fin 160) (t : Fin 16) (tag : Fin 8) (s : State) : Host.Outcome State Fault Refusal :=
  run s fun m => m.thmRequest ⟨sl, e, t⟩ tag 2 Mod.espOut

/-- ESP_IN. -/
def execEspIn (sl : Fin 8) (e : Fin 160) (t : Fin 16) (tag : Fin 8) (s : State) : Host.Outcome State Fault Refusal :=
  run s fun m => m.thmRequest ⟨sl, e, t⟩ tag 3 Mod.espIn

/-- TLS_OUT. -/
def execTlsOut (sl : Fin 8) (e : Fin 160) (t : Fin 16) (tag : Fin 8) (s : State) : Host.Outcome State Fault Refusal :=
  run s fun m => m.thmRequest ⟨sl, e, t⟩ tag 4 Mod.tlsOut

/-- TLS_IN. -/
def execTlsIn (sl : Fin 8) (e : Fin 160) (t : Fin 16) (tag : Fin 8) (s : State) : Host.Outcome State Fault Refusal :=
  run s fun m => m.thmRequest ⟨sl, e, t⟩ tag 5 Mod.tlsIn

/-- XTS_ENC. -/
def execXtsEnc (sl : Fin 8) (e : Fin 160) (t : Fin 16) (tag : Fin 8) (s : State) : Host.Outcome State Fault Refusal :=
  run s fun m => m.thmRequest ⟨sl, e, t⟩ tag 6 fun m => m.xtsOp 0

/-- XTS_DEC. -/
def execXtsDec (sl : Fin 8) (e : Fin 160) (t : Fin 16) (tag : Fin 8) (s : State) : Host.Outcome State Fault Refusal :=
  run s fun m => m.thmRequest ⟨sl, e, t⟩ tag 7 fun m => m.xtsOp 1

/-! ### The end of an object (R348) -/

/-- Erases an object; the commands that waited for it are answered. -/
def Mod.eraseObj (m : Mod) (k : Nat) : Mod :=
  match tget m.thm.objs k with
  | some o => o.destroy.foldl (fun m c => m.reply c {}) (m.setThm fun t => { t with objs := tdel t.objs k })
  | none => m

/-- A context or an SA ends: at once, or when its last operation has. -/
def Mod.endObj (m : Mod) (k : Nat) : Mod :=
  if m.objBusy k then m.setThm fun t => { t with objs := tadj t.objs k fun o => { o with dying := true } } else m.eraseObj k

/-- The contexts and SAs of an instance end (R84, R348). -/
def Mod.endInstObjs (m : Mod) (i : Nat) : Mod :=
  ((m.thm.objs.filter fun o => o.2.inst = i).map (·.1)).foldl Mod.endObj m

/-! ### The end of an operation (R331 to R333, R351) -/

/-- An operation writes and answers; one whose tag fails leaves its packet untrusted (R350, R414). An ESP_IN whose sequence another has validated meanwhile gives REPLAY and writes nothing. (PRESUMED, log 44) -/
def Mod.thmFinish (m : Mod) (p : ThmOp) (fail : Bool) : Mod :=
  let s := p.who.s
  if fail then
    let (bs, m) := m.randomBytes (match p.write with | some (_, b) => b.length | none => 0)
    let th := m.th s p.who.e p.who.t
    let m := match p.write with | some (o, _) => m.putBytes p.who (overlay th.pkt.bytes o bs) | none => m
    let m := m.set F.THM_STATUS_CORES_OK [s] (m.get F.THM_STATUS_CORES_OK [s] - 1)
    let inst := match p.write with | some (o, _) => if o < 256 then some (o, bs.take (256 - o)) else none | none => none
    ((m.thmCount s 11).error 1 7 (regAddr .THM_STATUS [s])).answer p.who p.tag { status := chError, install := inst }
  else
    let o := tgetD m.thm.objs p.obj { serial := 0, inst := 0, root := none }
    let again := match p.replay, o.kind with
      | some (e, n), .esp _ _ w rs => (replayOf rs e).rejects w n
      | _, _ => false
    if again then m.thmAnswer p.who p.tag thReplay
    else
      let m := match p.replay, o.kind with
        | some (e, n), .esp c spi w rs =>
          let r := (replayOf rs e).note w n
          m.putObj p.obj { o with kind := .esp c spi w (r :: rs.filter fun x => decide (x.epoch ≠ e)) }
        | _, _ => m
      let m := match p.write with
        | some (off, bs) => m.putBytes p.who (overlay (m.th s p.who.e p.who.t).pkt.bytes off bs)
        | none => m
      let m := match thCounter p.resp.status with | some i => m.thmCount s i | none => m
      let m := ((m.thmCount s 1 p.sealed_).thmCount s 2 p.opened).answer p.who p.tag p.resp
      let th := m.th s p.who.e p.who.t
      if p.resp.status = thAuthFail && (tget th.tags p.tag).isSome then m.putTh s p.who.e p.who.t { th with pkt := { th.pkt with untrusted := true } } else m

/-- THIMBLE_OP_DONE: the `i`-th accepted operation of a slice ends on its core; it is among the first 256 of its context
(R332). `fail`: the core found an uncorrectable error (R333). -/
def execThimbleOpDone (sl : Fin 8) (i : Fin 4096) (fail : Bool) (s : State) : Host.Outcome State Fault Refusal :=
  run s fun m =>
    let ops := tgetD m.thm.ops sl []
    match ops[i.val]? with
    | none => m
    | some p =>
      if m.get F.THM_STATUS_CORES_OK [sl.val] = 0 || 256 ≤ (ops.take i).countP fun q => q.obj = p.obj then m
      else
        let m := (m.setThm fun t => { t with ops := tput t.ops sl (ops.eraseIdx i) }).thmFinish p fail
        match tget m.thm.objs p.obj with
        | some o => if (o.dying || o.destroy ≠ []) && !m.objBusy p.obj then m.eraseObj p.obj else m
        | none => m

/-! ### Epoch keys in time (R359) -/

/-- The start of an epoch, in ns of device time. -/
def EpochSet.startNs (x : EpochSet) (e : Int) : Int := (e * x.period + x.base) * 1000000000

/-- `t` ns is GUARD_MS + 1 ms before the end of its epoch: the next key is derived (R359). -/
def EpochSet.derivesAt (x : EpochSet) (t : Nat) : Bool :=
  decide ((t : Int) + (x.guard + 1 : Nat) * 1000000 = x.startNs (x.at_ (t * nsUnit) + 1))

/-- `t` ns is the end of the guard after a boundary: the key before goes (R359). -/
def EpochSet.erasesAt (x : EpochSet) (t : Nat) : Bool :=
  decide ((t : Int) = x.startNs (x.at_ (t * nsUnit)) + x.guard * 1000000)

/-- EPOCH_KEY_DERIVE: GUARD_MS + 1 ms before the end of an epoch a decrypting context derives the key of the next. -/
def execEpochKeyDerive (k : Fin 262144) (t : Nat) (s : State) : Host.Outcome State Fault Refusal :=
  run s fun m =>
    match tget m.thm.objs k with
    | some o =>
      match o.epoch, o.dir with
      | some x, 1 =>
       if t < m.ns || !x.derivesAt t then m else
        let m := m.runToNs t
        m.putObj k { o with keys := (o.keys ++ [x.at_ m.now + 1]).eraseDups }
      | _, _ => m
    | none => m

/-- EPOCH_KEY_ERASE: the guard after a boundary ends; the key of the epoch before goes, with its replay window. -/
def execEpochKeyErase (k : Fin 262144) (t : Nat) (s : State) : Host.Outcome State Fault Refusal :=
  run s fun m =>
    match tget m.thm.objs k with
    | some o =>
      match o.epoch, o.dir with
      | some x, 1 =>
       if t < m.ns || !x.erasesAt t then m else
        let m := m.runToNs t
        let e := x.at_ m.now
        let objs := m.thm.objs.map fun p => match p.2.kind with
          | .esp c spi w rs => if c = k.val then (p.1, { p.2 with kind := .esp c spi w (rs.filter fun r => decide (e ≤ r.epoch)) }) else p
          | _ => p
        (m.setThm fun t => { t with objs := objs }).putObj k { o with keys := o.keys.filter fun n => decide (e ≤ n) }
      | _, _ => m
    | none => m

end Sys2Proof.Machine
end

