-- ==== Sys2Proof/Machine/Keys.lean ====
section
/-! DEFINITION. Thimble's commands: roots, incarnations, contexts, epochs, SAs, MACsec (R338 to R357). -/

namespace Sys2Proof.Machine

/-! ### Roots (R338, R339, R343, R344) -/

/-- Live contexts or SAs name a slot; so do the module's own TLS SAs of a storage target's connections, whose PSK is its root (R467). -/
def Mod.rootNamed (m : Mod) (k : Nat) : Bool :=
  (m.thm.objs.any fun o => o.2.root = some k) ||
    m.sto.assocs.any fun (a : Nat × Assoc) =>
      let x := [a.1 / 64, a.1 % 64]
      let st := m.get F.STO_TGT_STATUS_STATE x
      m.flag F.STO_TGT_CFG_TLS x && decide (m.get F.STO_TGT_CFG_PSK_SLOT x = k) && (st = 2 || st = 1 && (decide (3 ≤ a.2.step) || a.2.conn ≠ 0))

/-- ROOT_INFO of a slot. -/
def Mod.rootInfo (m : Mod) (k : Nat) : Ans :=
  okWith [tlv 0x102 (leBytes 4 (m.viewRootId k) ++ leBytes 4 (tgetD m.chalk.incarnations k 0))]

/-- A root goes into a slot: Chalk keeps it at once. -/
def Mod.putRoot (m : Mod) (k : Nat) (root : List Byte) : Mod :=
  { m with chalk := { m.chalk with roots := tput m.chalk.roots k { rootId := rootIdOf root, root := root, state := 2 } },
           thm := { m.thm with agree := tdel m.thm.agree k } }

/-- A slot becomes EMPTY. -/
def Mod.clearRoot (m : Mod) (k : Nat) : Mod :=
  { m with chalk := { m.chalk with roots := tdel m.chalk.roots k }, thm := { m.thm with agree := tdel m.thm.agree k } }

/-- KEY_ROOT_INSTALL of a form whose TLV holds `n` bytes; never over the OOB port. `free`: a slot that live contexts name is
refused. -/
def Mod.rootInstall (m : Mod) (c : Cmd) (form n : Nat) (free : Bool) (body : Mod → Nat → List Byte → Mod × Option Ans) : Mod :=
  let v := c.val 0x100
  let k := leAt v 0 1
  m.runCmd c 0x0501 [.root 0 k] fun m =>
    let oob := match c.src with | .oob _ => true | _ => false
    if oob then (m, some badHeader)
    else if k ≥ 64 || leAt v 1 1 ≠ form || v.length ≠ n then (m, some c.bad)
    else if free && m.rootNamed k then (m, some (c.bad 2))
    else body m k v

/-- A CLEAR install may travel: over an admin ring or a mailbox of a half under an active IDE stream (R376), or over Jexdor links that
all run MACsec (`secure`). -/
def Mod.clearAllowed (m : Mod) (c : Cmd) (secure : Bool) : Bool :=
  match c.src with
  | .jexdor _ => secure
  | .oob _ => false
  | _ => match m.midFn c.mid with
    | some f => m.sel.ide.contains f.ep ||
        (tgetD m.sel.streams f.ep []).any fun s => s.num ≠ 0 && s.secure && s.fns.contains (fnKey f % 2048)
    | none => false

/-- KEY_ROOT_INSTALL, form CLEAR. -/
def execKeyRootInstallClear (c : Cmd) (secure : Bool) (s : State) : Host.Outcome State Fault Refusal :=
  run s fun m => m.rootInstall c 0 52 true fun m k v =>
    if !m.clearAllowed c secure then (m, some (c.bad 1))
    else let m := m.putRoot k (slice v 4 48); (m, some (m.rootInfo k))

/-- KEY_ROOT_INSTALL, form WRAPPED. -/
def execKeyRootInstallWrapped (c : Cmd) (s : State) : Host.Outcome State Fault Refusal :=
  run s fun m => m.rootInstall c 1 88 true fun m k v =>
    let w := leAt v 4 1
    match if w < 64 then m.rootOf w else none with
    | none => (m, some c.bad)
    | some root =>
      let key := kdf root "UXM-THIMBLE" (labelOf 5 5 none 0xFFFF (leAt v 8 4) (leAt v 12 4) (slice v 16 16)) 32
      let x := slice v 32 56
      if !keyUnwrapOk key x then (m, some { status := stAuthFail })
      else let m := m.putRoot k ((keyUnwrap key x).take 48); (m, some (m.rootInfo k))

/-- KEY_ROOT_INSTALL, form AGREE_START: an ephemeral P-384 key pair; the slot is AGREE_PENDING. -/
def execAgreeStart (c : Cmd) (s : State) : Host.Outcome State Fault Refusal :=
  run s fun m => m.rootInstall c 2 4 true fun m k _ =>
    let (priv, m) := m.randomBytes 48
    (m.setThm fun t => { t with agree := tput t.agree k priv }, some (okWith [tlv 0x101 (p384Public priv)]))

/-- KEY_ROOT_INSTALL, form AGREE_FINISH (R340). -/
def execAgreeFinish (c : Cmd) (s : State) : Host.Outcome State Fault Refusal :=
  run s fun m => m.rootInstall c 3 101 false fun m k v =>
    match tget m.thm.agree k with
    | none => (m, some (c.bad 3))
    | some priv =>
      let own := p384Public priv
      let peer := slice v 4 97
      let points := if beNat own ≤ beNat peer then own ++ peer else peer ++ own
      let m := m.putRoot k (kdf (p384Agree priv peer) "UXM-AGREE" points 48)
      (m, some (m.rootInfo k))

/-- KEY_ROOT_INSTALL, form ERASE. -/
def execKeyRootErase (c : Cmd) (s : State) : Host.Outcome State Fault Refusal :=
  run s fun m => m.rootInstall c 4 4 true fun m k _ => let m := m.clearRoot k; (m, some (m.rootInfo k))

/-- INCARNATION_ADVANCE (R344). -/
def execIncarnationAdvance (c : Cmd) (s : State) : Host.Outcome State Fault Refusal :=
  run s fun m =>
    let v := c.val 0x100
    let k := leAt v 0 1
    m.runCmd c 0x0502 [.root 0 k] fun m =>
      let lo := leAt v 4 4
      if k ≥ 64 || lo = 0 then (m, some c.bad)
      else
        let n := max (tgetD m.chalk.incarnations k 0) (lo - 1)
        ({ m with chalk := { m.chalk with incarnations := if n = 0 then m.chalk.incarnations else tput m.chalk.incarnations k n } },
          some (okWith [tlv 0x101 (leBytes 4 n)]))

/-- A draw (R343): NO_RESOURCE at 0xFFFF_FFFF, which sets EXHAUSTED, or when Chalk's commit fails. A failed commit may have
used the value up, which a free value decides. -/
def Mod.drawIncarnation (m : Mod) (k : Nat) (fail : Bool) : Except Nat Nat × Mod :=
  let n := tgetD m.chalk.incarnations k 0
  let put := fun (m : Mod) v => { m with chalk := { m.chalk with incarnations := tput m.chalk.incarnations k v } }
  if n = 0xFFFFFFFF then
    (.error 3, { m with chalk := { m.chalk with exhausted := k :: m.chalk.exhausted.filter (· ≠ k) } })
  else if fail then let (d, m) := m.draw 2; (.error 4, if d = 1 then put m (n + 1) else m)
  else (.ok (n + 1), put m (n + 1))

/-! ### Contexts (R345, R346, R348, R357) -/

/-- The lowest free index of a slice. -/
def Mod.freeObj (m : Mod) (s : Nat) : Option Nat := (List.range 32768).find? fun i => (tget m.thm.objs (s * 32768 + i)).isNone

/-- Contexts and SAs of an instance. -/
def Mod.instObjs (m : Mod) (i : Nat) : Nat := m.thm.objs.countP fun o => o.2.inst = i

/-- An instance reserves its contexts on a slice: fixed-share mode, with its host link there (R431, R433). -/
def Mod.reservesOn (m : Mod) (i s : Nat) : Bool :=
  m.instExists i && m.flag F.INST_STATUS_FIXED_SHARE [i] && decide ((m.instFn i).ep / 4 = s)

/-- Contexts and SAs of a slice. -/
def Mod.objsOn (m : Mod) (s : Nat) : Nat := m.thm.objs.countP fun o => o.1 / 32768 = s

/-- Contexts of a slice that are neither in use nor reserved (R432). -/
def Mod.ctxSpare (m : Mod) (s : Nat) : Nat :=
  let idle := (m.spl.insts.filter fun i => m.reservesOn i.1 s).map fun (i : Nat × Inst) =>
    i.2.quota.ctx - m.thm.objs.countP fun o => o.2.inst = i.1 && o.1 / 32768 = s
  32768 - m.objsOn s - idle.foldl (· + ·) 0

/-- The instance's quota and the slice have room for one more context or SA (R432, R433). (DEDUCED, log 62) -/
def Mod.ctxRoom (m : Mod) (i s : Nat) : Bool :=
  (m.reservesOn i s || decide (0 < m.ctxSpare s)) &&
    (if i = 0xFFFF then true else match tget m.spl.insts i with | some x => decide (m.instObjs i < x.quota.ctx) | none => false)

/-- The home slice that a byte names: itself, or for 0xFF the slice of the instance's or the manager's host link. -/
def Mod.homeSlice (m : Mod) (c : Cmd) (b : Nat) : Option Nat :=
  if b < 8 then some b
  else if b = 0xFF then
    if c.inst ≠ 0xFFFF then some ((m.instFn c.inst).ep / 4)
    else some (match m.midFn m.managerMid with | some f => f.ep / 4 | none => 0)
  else none

/-- A new object on a slice: its handle. -/
def Mod.newObj (m : Mod) (s : Nat) (o : ThmObj) : Option (Nat × Mod) :=
  (m.freeObj s).map fun i =>
    let k := s * 32768 + i
    let last := tgetD m.thm.serials k 0
    let n := if last ≥ 16383 then 1 else last + 1
    (handleOf k n, (m.putObj k { o with serial := n }).setThm fun t => { t with serials := tput t.serials k n })

/-- PURPOSE, ALG and DIRECTION of a context fit (R342, R346). -/
def ctxFits (purpose alg dir : Nat) : Bool :=
  match purpose with
  | 1 | 2 => decide (alg < 2) && decide (dir < 2)
  | 3 => (alg = 3 || alg = 4) && decide (dir < 3)
  | 4 => alg = 2 && decide (dir < 2)
  | _ => false

/-- KEY_CTX_CREATE. `fail`: the commit of a draw to Chalk fails (R343). -/
def execKeyCtxCreate (c : Cmd) (fail : Bool) (s : State) : Host.Outcome State Fault Refusal :=
  run s fun m =>
    let v := c.val 0x100
    let b := fun i => leAt v i 1
    m.runCmd c 0x0503 [.inst c.inst] fun m =>
      let draws := b 3 = 0 || (b 3 = 2 && bit (b 4) 0)
      match m.homeSlice c (b 5) with
      | none => (m, some c.bad)
      | some sl =>
        if b 0 ≥ 64 || (m.rootOf (b 0)).isNone || !ctxFits (b 1) (b 2) (b 3) ||
            (draws && (leAt v 12 4 ≠ 0 || leAt v 16 16 ≠ 0)) then (m, some c.bad)
        else if (m.freeObj sl).isNone || !m.ctxRoom c.inst sl then (m, some { status := stNoResource })
        else
          let (inc, m') := if draws then m.drawIncarnation (b 0) fail else (.ok (leAt v 12 4), m)
          match inc with
          | .error d => (m', some { status := stNoResource, late := true, errDetail := d })
          | .ok n =>
            let origin := if draws then serialNumber else slice v 16 16
            let o : ThmObj := { serial := 0, inst := c.inst, root := some (b 0), purpose := b 1, alg := b 2, dir := b 3,
                                ctxId := leAt v 8 4, incarnation := n, origin := origin }
            match m'.newObj sl o with
            | some (h, m') => (m', some (okWith [tlv 0x101 (leBytes 4 h ++ leBytes 4 n ++ origin ++ leBytes 4 (m'.viewRootId (b 0)))]))
            | none => (m', some { status := stNoResource })

/-- The live object that a command's handle names, when it is of the command's instance. -/
def Mod.cmdObj (m : Mod) (c : Cmd) (h : Nat) : Option ThmObj :=
  match m.object h with
  | some o => if o.inst = c.inst || m.isManager c.mid then some o else none
  | none => none

/-- KEY_CTX_DESTROY and SA_DESTROY (R348): the reply comes once no operation of the handle is in progress. -/
def Mod.destroyCmd (m : Mod) (c : Cmd) (op : Nat) (sa : Bool) : Mod :=
  let h := leAt (c.val 0x100) 0 4
  let k := h % 2 ^ 18
  m.runCmd c op [.ctx k] fun m =>
    match m.cmdObj c h with
    | none => (m, some c.bad)
    | some o =>
      if decide (o.kind = .ctx) = sa then (m, some c.bad)
      else if m.objNamed k then (m, some (c.bad 1))
      else if m.objBusy k then (m.putObj k { o with destroy := o.destroy ++ [{ c with opcode := op }] }, none)
      else (m.setThm fun t => { t with objs := tdel t.objs k }, some {})

/-- KEY_CTX_DESTROY. -/
def execKeyCtxDestroy (c : Cmd) (s : State) : Host.Outcome State Fault Refusal := run s fun m => m.destroyCmd c 0x0504 false

/-- SA_DESTROY. -/
def execSaDestroy (c : Cmd) (s : State) : Host.Outcome State Fault Refusal := run s fun m => m.destroyCmd c 0x0507 true

/-- EPOCH_KEY_SET (R357, R360). -/
def execEpochKeySet (c : Cmd) (s : State) : Host.Outcome State Fault Refusal :=
  run s fun m =>
    let v := c.val 0x100
    let h := leAt v 0 4
    let k := h % 2 ^ 18
    m.runCmd c 0x0505 [.ctx k] fun m =>
      match m.cmdObj c h with
      | none => (m, some c.bad)
      | some o =>
        let per := leAt v 4 4
        let guard := leAt v 16 4
        if o.used then (m, some (c.bad 1))
        else if o.kind ≠ .ctx || (o.purpose ≠ 1 && o.purpose ≠ 2) then (m, some (c.bad 2))
        else if per = 0 || 31622400 < per || per * 250 < guard then (m, some (c.bad 3))
        else if m.epochRefused then (m, some { status := stNotTraceable })
        else
          let x : EpochSet := { period := per, base := leAt v 8 6, guard := guard }
          (m.putObj k { o with epoch := some x, keys := [x.at_ m.now] }, some {})

/-! ### ESP and TLS SAs (R351, R353) -/

/-- SA_CREATE for ESP (R351). -/
def execSaCreate (c : Cmd) (s : State) : Host.Outcome State Fault Refusal :=
  run s fun m =>
    let v := c.val 0x100
    let h := leAt v 0 4
    let w := leAt v 8 2
    m.runCmd c 0x0506 [.ctx (h % 2 ^ 18)] fun m =>
      if (c.tlv 0x100).isNone then (m, some missing)
      else match m.cmdObj c h with
        | none => (m, some c.bad)
        | some o =>
          if o.kind ≠ .ctx || o.purpose ≠ 2 || (o.dir = 1 && !([64, 128, 256, 512, 1024, 2048, 4096].contains w)) then (m, some c.bad)
          else if !m.ctxRoom o.inst (h % 2 ^ 18 / 32768) then (m, some { status := stNoResource })
          else match m.newObj (h % 2 ^ 18 / 32768) { serial := 0, inst := o.inst, root := o.root, purpose := 10,
                                                     kind := .esp (h % 2 ^ 18) (leAt v 4 4) (if o.dir = 1 then w else 0) [] } with
            | some (n, m) => (m, some (okWith [tlv 0x101 (leBytes 4 n)]))
            | none => (m, some { status := stNoResource })

/-- A TLS step of R353 with number `n` on the SA that the command names: allowed by `ready`, carried out by `f`. A step out of
order gives INVALID, ERR_DETAIL 0x0002. (DEDUCED, log 45) -/
def Mod.tlsStep (m : Mod) (c : Cmd) (n : Nat) (ready : TlsSa → Bool) (f : Mod → TlsSa → List Byte → Mod × Except Ans (TlsSa × List Byte)) : Mod :=
  let v := c.val 0x110
  let h := leAt v 4 4
  let k := h % 2 ^ 18
  m.runCmd c 0x0506 [.ctx k] fun m =>
    if (c.tlv 0x110).isNone then (m, some missing)
    else match m.cmdObj c h with
      | none => (m, some c.badStep)
      | some o =>
        match o.kind with
        | .tls t =>
          if leAt v 0 1 ≠ n || !ready t then (m, some (c.badStep 2))
          else match f m t v with
            | (m, .error a) => (m, some a)
            | (m, .ok (t, out)) => (m.putObj k { o with kind := .tls t }, some (if out = [] then {} else okWith [tlv 0x111 out]))
        | _ => (m, some c.badStep)

/-- TLS step 1, CREATE. -/
def execTlsCreate (c : Cmd) (s : State) : Host.Outcome State Fault Refusal :=
  run s fun m =>
    let v := c.val 0x110
    let b := fun i => leAt v i 1
    m.runCmd c 0x0506 [.inst c.inst] fun m =>
      if (c.tlv 0x110).isNone then (m, some missing)
      else match m.homeSlice c (b 11) with
        | none => (m, some c.badStep)
        | some sl =>
          let psk := if b 10 = 0xFF then none else some (b 10)
          let root := match psk with | some k => if k < 64 then m.rootOf k else none | none => some (List.replicate (tlsHash (b 9)) 0)
          match root with
          | none => (m, some c.badStep)
          | some r =>
            if b 0 ≠ 1 then (m, some (c.badStep 2))
            else if 1 < b 8 || 1 < b 9 || (psk.isSome && b 9 ≠ 0) || leAt v 4 4 ≠ 0 then (m, some c.badStep)
            else if !m.ctxRoom c.inst sl then (m, some { status := stNoResource })
            else
              let early := hmac (b 9) (List.replicate (tlsHash (b 9)) 0) r
              let t : TlsSa := { role := b 8, suite := b 9, psk := psk, early := early }
              match m.newObj sl { serial := 0, inst := c.inst, root := psk, purpose := 11, kind := .tls t } with
              | some (h, m) => (m, some (okWith [tlv 0x111 (leBytes 4 h)]))
              | none => (m, some { status := stNoResource })

/-- TLS step 2, KEYSHARE: it may come once more after a HelloRetryRequest. -/
def execKeyshare (c : Cmd) (s : State) : Host.Outcome State Fault Refusal :=
  run s fun m => m.tlsStep c 2 (fun t => t.step = 1 || ((t.step = 2 || t.step = 3) && t.shares < 2)) fun m t v =>
    let g := leAt v 8 1
    if 1 < g then (m, .error c.badStep)
    else
      let (priv, m) := m.randomBytes (if g = 0 then 48 else 32)
      (m, .ok ({ t with step := 2, shares := t.shares + 1, group := g, priv := priv },
        if g = 0 then p384Public priv else x25519Public priv))

/-- The verify_data of a Finished or a binder under a secret. -/
def finishedMac (suite : Nat) (secret th : List Byte) : List Byte := hmac suite (tlsLabel suite secret "finished" [] (tlsHash suite)) th

/-- TLS step 3, BINDER: with a PSK only. -/
def execBinder (c : Cmd) (s : State) : Host.Outcome State Fault Refusal :=
  run s fun m => m.tlsStep c 3 (fun t => t.step = 2 && t.psk.isSome) fun m t v =>
    let n := tlsHash t.suite
    let mac := finishedMac t.suite (tlsSecret t.suite t.early "ext binder" (emptyHash t.suite)) (slice v 8 n)
    if t.role = 0 then (m, .ok ({ t with step := 3 }, mac))
    else if v.drop (8 + n) = mac then (m, .ok ({ t with step := 3 }, []))
    else (m, .error { status := stAuthFail })

/-- TLS step 4, HANDSHAKE: the peer's share, then the transcript hash. -/
def execHandshake (c : Cmd) (s : State) : Host.Outcome State Fault Refusal :=
  run s fun m => m.tlsStep c 4 (fun t => t.step = if t.psk.isSome then 3 else 2) fun m t v =>
    let n := if t.group = 0 then 97 else 32
    let peer := slice v 8 n
    let th := slice v (8 + n) (tlsHash t.suite)
    let z := if t.group = 0 then p384Agree t.priv peer else x25519Agree t.priv peer
    let hs := hmac t.suite (tlsSecret t.suite t.early "derived" (emptyHash t.suite)) z
    let cl := tlsSecret t.suite hs "c hs traffic" th
    let sv := tlsSecret t.suite hs "s hs traffic" th
    let own := if t.role = 0 then cl else sv
    let other := if t.role = 0 then sv else cl
    (m, .ok ({ t with step := 4, priv := [], hs := hs, hsOwn := own, hsPeer := other, tx := some { secret := own }, rx := some { secret := other } }, []))

/-- TLS step 5, FINISHED: own, then or before it the peer's. -/
def execFinished (c : Cmd) (s : State) : Host.Outcome State Fault Refusal :=
  run s fun m => m.tlsStep c 5 (fun t => t.step = 4 || t.step = 5) fun m t v =>
    let n := tlsHash t.suite
    let th := slice v 9 n
    if leAt v 8 1 = 0 then (m, .ok ({ t with step := 5 }, finishedMac t.suite t.hsOwn th))
    else if leAt v 8 1 = 1 then
      if v.drop (9 + n) = finishedMac t.suite t.hsPeer th then (m, .ok ({ t with step := 5 }, []))
      else (m, .error { status := stAuthFail })
    else (m, .error c.badStep)

/-- TLS step 6, APPLICATION: the application secrets at the first use; the named directions move to them. -/
def execApplication (c : Cmd) (s : State) : Host.Outcome State Fault Refusal :=
  run s fun m => m.tlsStep c 6 (fun t => t.step = 5 || t.step = 6) fun m t v =>
    let d := leAt v 8 1
    let t :=
      if t.step = 5 then
        let th := slice v 9 (tlsHash t.suite)
        let master := hmac t.suite (tlsSecret t.suite t.hs "derived" (emptyHash t.suite)) (List.replicate (tlsHash t.suite) 0)
        let cl := tlsSecret t.suite master "c ap traffic" th
        let sv := tlsSecret t.suite master "s ap traffic" th
        { t with apOwn := if t.role = 0 then cl else sv, apPeer := if t.role = 0 then sv else cl }
      else t
    let t := { t with step := 6, tx := if bit d 0 then some { secret := t.apOwn } else t.tx,
                      rx := if bit d 1 then some { secret := t.apPeer } else t.rx }
    (m, .ok (t, []))

/-- TLS step 7, KEY_UPDATE: the named directions move to their next traffic secret. -/
def execKeyUpdate (c : Cmd) (s : State) : Host.Outcome State Fault Refusal :=
  run s fun m => m.tlsStep c 7 (fun t => t.step = 6 || t.step = 7) fun m t v =>
    let d := leAt v 8 1
    let up := fun (x : TlsDir) => ({ secret := tlsLabel t.suite x.secret "traffic upd" [] (tlsHash t.suite) } : TlsDir)
    (m, .ok ({ t with step := 7, tx := if bit d 0 then t.tx.map up else t.tx, rx := if bit d 1 then t.rx.map up else t.rx }, []))

/-! ### MACsec (R355, R356, R180) -/

/-- Key of a MACsec SA: port, sub-port, direction (0 transmit), AN. -/
def macKey (n k dir an : Nat) : Nat := ((n * 8 + k) * 2 + dir) * 4 + an

/-- The SA that a sub-port transmits under. -/
def Mod.macTx (m : Mod) (n k : Nat) : Option (Nat × MacSa) :=
  match tget m.thm.txAn (n * 8 + k) with
  | some an => match tget m.thm.macsec (macKey n k 0 an) with
    | some sa => if sa.enable then some (macKey n k 0 an, sa) else none
    | none => none
  | none => none

/-- MACSEC_ACTIVE of a port: the sub-ports that protect. -/
def Mod.macActive (m : Mod) (n : Nat) : Mod :=
  m.set F.PRT_STATUS_MACSEC_ACTIVE [n] (bitSum ((List.range 8).filter fun k => (m.macTx n k).isSome))

/-- One TLV of MACSEC_SA_SET is right. -/
def Mod.macOk (m : Mod) (v : List Byte) : Bool :=
  let n := leAt v 0 1
  decide (n < 96) && decide (leAt v 1 1 < m.subCount n) && decide (leAt v 3 1 < 2) && decide (leAt v 28 4 < 65536) &&
    (match m.object (leAt v 16 4) with
     | some o => decide (o.kind = .ctx) && o.purpose = 3 && o.dir = 2 && o.alg = 3 + leAt v 3 1 && leAt v 16 4 % 2 ^ 18 / 32768 = n / 12
     | none => false)

/-- The counters of an SA (R355): counter 6 is the present PN. -/
def MacSa.counters (x : MacSa) : List Byte := (List.range 8).flatMap fun i => leBytes 8 (if i = 6 then x.pn else x.counts.getD i 0)

/-- The first PN that no transmit SA of a context and SCI has used: the module never reuses one (R356). -/
def Mod.freshPn (m : Mod) (ctx sci : Nat) : Nat :=
  (m.thm.macsec.filter fun x => x.1 / 4 % 2 = 0 && x.2.ctx = ctx && x.2.sci = sci).foldl (fun a x => max a x.2.pn) 0

/-- Carries out one TLV: the SA is set, its counters read and then cleared. A PN that the same context and SCI have spent is not sent
again, whatever NEXT_PN says (R356). (DEDUCED, log 45) -/
def Mod.macSet (m : Mod) (v : List Byte) : List Byte × Mod :=
  let n := leAt v 0 1
  let k := leAt v 1 1
  let f := leAt v 2 1
  let key := macKey n k (f % 2) (bits f 1 2)
  let old := match tget m.thm.macsec key with | some x => x.counts | none => List.replicate 8 0
  let sci := beNat (slice v 4 8)
  let ctx := leAt v 16 4 % 2 ^ 18
  let sa : MacSa := { enable := bit f 3, suite := leAt v 3 1, sci := sci, ssci := leAt v 12 4, ctx := ctx,
                      pn := if bit f 0 then leAt v 20 8 else max (leAt v 20 8) (m.freshPn ctx sci), window := leAt v 28 4, floor := leAt v 20 8, counts := old }
  let sa' := if bit f 6 then { sa with counts := List.replicate 8 0 } else sa
  let m := m.setThm fun t => { t with macsec := tput t.macsec key sa' }
  let m := if bit f 4 && !bit f 0 then m.setThm fun t => { t with txAn := tput t.txAn (n * 8 + k) (bits f 1 2) } else m
  (if bit f 5 then sa.counters else [], m.macActive n)

/-- MACSEC_SA_SET (R355). -/
def execMacsecSaSet (c : Cmd) (s : State) : Host.Outcome State Fault Refusal :=
  run s fun m => m.runCmd c 0x0508 ((c.all 0x100).map fun t => .port (leAt t.2 0 1)) fun m =>
    match (c.all 0x100).find? fun t => !m.macOk t.2 with
    | some t => (m, some (badTlv t.1))
    | none =>
      let (out, m) := (c.all 0x100).foldl (fun (r : List Byte × Mod) t => let (o, m) := r.2.macSet t.2; (r.1 ++ o, m)) ([], m)
      (m, some (if out = [] then {} else m.inLimit c (okWith [tlv 0x101 out])))

end Sys2Proof.Machine
end

