-- ==== Sys2Proof/Machine/Wire.lean ====
section
/-! DEFINITION. A frame between the Hem and the line: the header dictionary of a Jexdor link at the sender (R483, R484), MACsec
in both directions (R180, R355, R356), and the latency histograms (R151 to R153). -/

namespace Sys2Proof.Machine

/-! ### The header dictionary at the sender -/

/-- Byte `i` of a frame. -/
def byteAt (d : List Byte) (i : Nat) : Nat := leAt d i 1

/-- A number in wire order at offset `i`. -/
def wireAt (d : List Byte) (i n : Nat) : Nat := beNat (slice d i n)

/-- Puts byte `i` of a frame. -/
def putByte (d : List Byte) (i v : Nat) : List Byte := overlay d i [BitVec.ofNat 8 v]

/-- The fields of a Jexdor frame that compression looks at (R475). -/
structure JxlPrefix where
  len : Nat
  fix : Bool
  ipOff : Nat
  bytes : List Byte
  total : Nat
  deriving DecidableEq, Repr

/-- Reads them. -/
def jxlPrefix (d : List Byte) : JxlPrefix :=
  { len := byteAt d 21, fix := bit (byteAt d 22) 0, ipOff := byteAt d 23, bytes := slice d 30 (byteAt d 21), total := wireAt d 28 2 }

/-- Class of a Jexdor frame under credit: 7 with CTL, else its TC (R476). -/
def jxlClass (d : List Byte) : Nat := if bit (byteAt d 15) 7 then 7 else bits (byteAt d 15) 2 3

/-- The ones' complement sum of 16-bit words in wire order. -/
def ones16 : List Byte → Nat
  | a :: b :: t => let r := ones16 t + a.toNat * 256 + b.toNat; r % 65536 + r / 65536
  | [a] => a.toNat * 256
  | [] => 0

/-- The offset of the UDP length in a prefix with an IPv4 header at `o`. -/
def udpLenAt (p : List Byte) (o : Nat) : Nat := o + 4 * (byteAt p o % 16) + 4

/-- The three derived fields written into a prefix (R484): total length, UDP length, header checksum. -/
def derive4 (p : List Byte) (o len : Nat) : List Byte :=
  let total := (len - o) % 65536
  let ihl := 4 * (byteAt p o % 16)
  let p := overlay p (o + 2) (beBytes 2 total)
  let p := if byteAt p (o + 9) = 17 then overlay p (udpLenAt p o) (beBytes 2 ((total - ihl) % 65536)) else p
  let p := overlay p (o + 10) [0, 0]
  overlay p (o + 10) (beBytes 2 (65535 - ones16 (slice p o ihl)))

/-- A prefix as it is compared: the derived fields left out. -/
def maskPrefix (fix : Bool) (o : Nat) (p : List Byte) : List Byte := if fix then derive4 p o o else p

/-- An entry matches a prefix (R484). -/
def DictEntry.hits (e : DictEntry) (x : JxlPrefix) : Bool :=
  e.bytes.length = x.len && e.fix = x.fix && e.ipOff = x.ipOff && maskPrefix e.fix e.ipOff e.bytes = maskPrefix x.fix x.ipOff x.bytes

/-- The entry that a new prefix takes: the lowest one never used, else the least recently used. -/
def Link.lru (x : Link) : Nat :=
  match tfree x.tx 256 with
  | some i => i
  | none => ((x.tx.map fun e => (e.2.used, e.1)).foldl (fun a b => if b.1 < a.1 then b else a) (x.uses + 1, 0)).2

/-- A frame leaves on link `l`: compressed, taught or sent in full (R483). -/
def Mod.jxlCompress (m : Mod) (l : Nat) (d : List Byte) : List Byte × Mod :=
  let x := m.linkOf l
  let p := jxlPrefix d
  let asks := isCredited d && p.len ≠ 0 && bits (byteAt d 15) 5 2 = 0
  let en := m.flag F.JXL_LINK_CFG_DICT_EN [l] && x.peer.dictEn
  let fits := !p.fix || derive4 p.bytes p.ipOff p.total = p.bytes
  if !(asks && en && fits) then (d, m)
  else
    let learn := fun (i : Nat) =>
      let v := (tgetD x.versions i 0 + 1) % 256
      let e : DictEntry := { bytes := p.bytes, version := v, fix := p.fix, ipOff := p.ipOff, learnAt := m.ns, used := x.uses + 1 }
      let y : Link := { x with tx := tput x.tx i e, versions := tput x.versions i v, uses := x.uses + 1 }
      (putByte (putByte (putByte d 15 (byteAt d 15 + 32)) 19 i) 20 v, (m.putLink l y).count F.JXL_CNT_COUNT [l, 4])
    match x.tx.find? fun e => e.2.hits p && e.2.confirmed with
    | some (i, e) =>
      let y : Link := { x with tx := tput x.tx i { e with used := x.uses + 1 }, uses := x.uses + 1 }
      let out := putByte (putByte (putByte (d.take 30) 15 (byteAt d 15 + 64)) 19 i) 20 e.version
      (out ++ d.drop (30 + p.len), ((m.putLink l y).count F.JXL_CNT_COUNT [l, 3]).count F.JXL_CNT_COUNT [l, 2] p.len)
    | none =>
      match x.tx.find? fun e => e.2.hits p with
      | some (i, e) => if m.ns < e.learnAt + 100000 then (d, m) else learn i
      | none => learn x.lru

/-! ### Frames that the module itself sends on Jexdor links (R475, R476, R491) -/

/-- PORT_MAC_BASE (R65): its low 10 bits, and the group and local bits of its first octet, are zero. -/
def portMacBase : Nat := Config.portMacHigh.toNat / 2 ^ 30 * 2 ^ 42 + Config.portMacHigh.toNat % 2 ^ 30 * 2 ^ 10

/-- The MAC address of sub-port `k` of port `n` (R65). -/
def portMac (n k : Nat) : Nat := portMacBase + 8 * n + k

/-- A Jexdor frame (R475). (DESIGN CHOICE, log 69) -/
def jxlFrameBytes (port sub typ tc dst src hops : Nat) (secure : Bool) (payload : List Byte) : List Byte :=
  let ctl := (1 ≤ typ && typ ≤ 4) || (typ = 0 && tc = 7)
  beBytes 6 0x0180C200000E ++ beBytes 6 (portMac port sub) ++ beBytes 2 jxlEther ++ leBytes 1 (16 + typ) ++
    leBytes 1 (128 * b2n ctl + 4 * tc + 2 * b2n secure) ++ leBytes 1 dst ++ leBytes 1 src ++ leBytes 1 hops ++ List.replicate 9 0 ++
    beBytes 2 payload.length ++ payload

/-- MACsec protects the sub-port of link `l`. -/
def Mod.linkSecure (m : Mod) (l : Nat) : Bool :=
  bit (m.get F.PRT_STATUS_MACSEC_ACTIVE [m.get F.JXL_LINK_CFG_PORT [l]]) (m.get F.JXL_LINK_CFG_SUB [l])

/-- A frame that the module itself originates on link `l`: it joins the class queue of the link's sub-port. -/
def Mod.jxlOwn (m : Mod) (l typ tc dst hops : Nat) (payload : List Byte) : Mod :=
  let n := m.get F.JXL_LINK_CFG_PORT [l]
  let k := m.get F.JXL_LINK_CFG_SUB [l]
  let d := jxlFrameBytes n k typ tc dst m.chalk.dir.module hops (m.linkSecure l) payload
  m.placePort (n / 12) n k { bytes := d, origin := .timer (n / 12) 0, tc := tc, cls := tc } false

/-- The route to a module (R490): its link and the hops. -/
def Mod.route (m : Mod) (d : Nat) : Option (Nat × Nat) :=
  if d < 64 && m.flag F.JXL_ROUTE_VALID [d] then some (m.get F.JXL_ROUTE_NEXT_LINK [d], m.get F.JXL_ROUTE_HOPS [d]) else none

/-- Replies to another module join the class queue of the link they leave by (R492); one without a route is lost. -/
def Mod.jxlFlush (m : Mod) : Mod :=
  m.jxl.outq.foldl (fun m x =>
    match m.route x.1 with
    | some (l, h) => m.jxlOwn l 2 7 x.1 (h - 1) x.2.bytes
    | none => m) { m with jxl := { m.jxl with outq := [] } }

/-- A device time in the form of a PTP stamp: SEC 6 bytes, NS 4, FRAC 2 (R476). -/
def stamp12 (t : Nat) : List Byte := beBytes 6 (secOf t) ++ beBytes 4 (nsOf t) ++ beBytes 2 (t % nsUnit)

/-- A TIME frame carries the stamp of its own first bit (R477); other frames are left. -/
def ownStamp (jexdor : Bool) (d : List Byte) (t : Nat) : List Byte :=
  if jexdor && isCredited d && jxlType d = 3 then overlay d 30 (stamp12 t) else d

/-! ### MACsec -/

/-- The nonce of IEEE 802.1AE: SCI and PN, or under XPN the salt with SSCI and PN. -/
def macNonce (sa : MacSa) (key : List Byte) (pn : Nat) : List Byte :=
  if sa.suite = 0 then beBytes 8 sa.sci ++ beBytes 4 pn
  else
    let x := beBytes 4 sa.ssci ++ beBytes 8 pn
    (slice key 32 12).zipWith (fun a b => a ^^^ b) x

/-- Key material of an SA's context. -/
def Mod.macKeys (m : Mod) (sa : MacSa) : List Byte := match tget m.thm.objs sa.ctx with | some o => m.keyOf o 0 | none => []

/-- The first PN that an SA may not use. -/
def MacSa.spent (sa : MacSa) : Nat := if sa.suite = 0 then 2 ^ 32 else 2 ^ 64

/-- Counts in an SA (R355). -/
def MacSa.count (sa : MacSa) (i n : Nat) : MacSa := { sa with counts := sa.counts.set i (sa.counts.getD i 0 + n) }

/-- Protects a frame of sub-port `k` of port `n`; none when the PN is spent (R356). -/
def Mod.macProtect (m : Mod) (n k : Nat) (d : List Byte) : Option (List Byte) × Mod :=
  match m.macTx n k with
  | none => (some d, m)
  | some (key, sa) =>
    let put := fun (m : Mod) (sa : MacSa) => m.setThm fun t => { t with macsec := tput t.macsec key sa }
    if sa.spent ≤ sa.pn then (none, put m (sa.count 7 1))
    else
      let an := key % 4
      let body := d.drop 12
      let sl := if body.length < 48 then body.length else 0
      let head := slice d 0 12 ++ beBytes 2 0x88E5 ++ [BitVec.ofNat 8 (0x2C + an), BitVec.ofNat 8 sl] ++ beBytes 4 (sa.pn % 2 ^ 32) ++
        beBytes 8 sa.sci
      let km := m.macKeys sa
      let out := head ++ aeadSeal 0 (km.take 32) (macNonce sa km sa.pn) head body
      let warn := sa.pn = (if sa.suite = 0 then 0xC0000000 else 2 ^ 62)
      let m := put m { (sa.count 0 1).count 1 body.length with pn := sa.pn + 1 }
      (some out, if warn then m.event 19 2 (regAddr .PRT_STATUS [n]) (leBytes 1 n ++ leBytes 1 k ++ leBytes 1 an) else m)

/-- A PN in full: under XPN the one with the low bits received that lies nearest to the lowest acceptable one. (PRESUMED, log 46) -/
def MacSa.fullPn (sa : MacSa) (low : Nat) : Nat :=
  if sa.suite = 0 then low
  else
    let base := sa.pn / 2 ^ 32 * 2 ^ 32 + low
    if base + 2 ^ 31 < sa.pn then base + 2 ^ 32 else base

/-- A sub-port has a receive SA: its frames are verified. (PRESUMED, log 46) -/
def Mod.macRx (m : Mod) (n k : Nat) : Bool := (List.range 4).any fun an =>
  match tget m.thm.macsec (macKey n k 1 an) with | some sa => sa.enable | none => false

/-- Verifies a frame under validateFrames Strict (R355): the frame as it enters, or none when it is dropped. (PRESUMED, log 46) -/
def Mod.macVerify (m : Mod) (n k : Nat) (d : List Byte) : Option (List Byte) × Mod :=
  if !m.macRx n k then (some d, m)
  else
    let an := byteAt d 14 % 4
    let key := macKey n k 1 an
    let upd := fun (m : Mod) (key i n : Nat) => m.setThm fun t => { t with macsec := tadj t.macsec key fun sa => sa.count i n }
    let drop := fun (m : Mod) => m.count F.PRT_STAT_COUNT [n, k, 10]
    if wireAt d 12 2 ≠ 0x88E5 || d.length < 44 then
      (none, drop ((List.range 4).foldl (fun m a => upd m (macKey n k 1 a) 5 1) m))
    else match tget m.thm.macsec key with
      | none => (none, drop m)
      | some sa =>
        let pn := sa.fullPn (wireAt d 16 4)
        let km := m.macKeys sa
        let body := (d.drop 28).take (d.length - 44)
        let head := d.take 28
        let nonce := macNonce sa km pn
        let okHead := byteAt d 14 / 4 = 0x0B && wireAt d 20 8 = sa.sci
        if !sa.enable || !okHead then (none, drop (upd m key 4 1))
        else if pn < sa.floor || pn + sa.window < sa.pn || pn = 0 then (none, drop (upd m key 2 1))
        else if !aeadCheck 0 (km.take 32) nonce head body (d.drop (d.length - 16)) then (none, drop (upd m key 3 1))
        else
          let top := max sa.pn (pn + 1)
          let sa' : MacSa := { (sa.count 0 1).count 1 body.length with pn := top }
          let m := m.setThm fun t => { t with macsec := tput t.macsec key sa' }
          (some (d.take 12 ++ aeadOpen 0 (km.take 32) nonce head body), m)

/-! ### Latency histograms (R151 to R153) -/

/-- The bucket of a latency in units of 125 ps. -/
def histBucket (v : Nat) : Nat :=
  if v < 128 then v
  else if v < 2 ^ 32 then
    let e := Nat.log2 v
    128 + (e - 7) * 64 + (v / 2 ^ (e - 6) - 64)
  else 1728

/-- A packet reaches its end point with stamp `stop` (units of device time) and STEP_TAG `tag`: `net` for a network port, otherwise host
memory. Its sample counts once (R152). -/
def Mod.histSample (m : Mod) (p : Pkt) (stop tag : Nat) (net : Bool) : Mod :=
  if !p.histEn then m
  else
    let f := fun (x : Fld) => m.get x [p.hist]
    let path := match p.origin, net with
      | .port _ _, true => some 0
      | .port _ _, false => some 1
      | .host .., true => some 2
      | .host .., false => some 3
      | _, _ => none
    let h := tgetD m.tack.hists p.hist {}
    let put := fun (h : Hist) => ({ m with tack := { m.tack with hists := tput m.tack.hists p.hist h } } : Mod)
    let v := (stop - p.stamp) / 8192
    if 2 ^ 32 ≤ v then put { h with buckets := tmod h.buckets 1728 0 (· + 1) }
    else if p.stepTag ≠ tag then put { h with stepped := h.stepped + 1 }
    else if f F.TCK_HIST_CFG_ENABLE ≠ 1 || path ≠ some (f F.TCK_HIST_CFG_KIND) then put { h with mismatch := h.mismatch + 1 }
    else put { h with buckets := tmod h.buckets (histBucket v) 0 (· + 1) }

end Sys2Proof.Machine
end

