-- ==== Sys2Proof/Machine/Hem.lean ====
section
/-! DEFINITION. *Hem scheduling, calendars and launch time*: selection of the next frame, the frame under way, timed frames,
calendar commands, the HEM channel. -/

namespace Sys2Proof.Machine

/-! ### Lengths and times -/

/-- Wire bytes of a frame of `len` bytes without FCS: the frame and 20 (R311); no frame has less than 60 (R240). -/
def wireBytes (len : Nat) : Nat := max len 60 + 4 + 20

/-- A packet shorter than 60 bytes is padded with zeros (R240). -/
def padded (d : List Byte) : List Byte := d ++ List.replicate (60 - d.length) 0

/-- Units of device time that `b` bytes take on a sub-port of port `n`: 200 Gb/s per lane (R176). -/
def Mod.byteTime (m : Mod) (n b : Nat) : Nat := ceilDiv (b * nsUnit) (25 * m.laneCount n)

/-- A frame as it is transmitted on a sub-port (R477, R180, R240): compressed on a Jexdor link, padded, then protected; none when the PN is
spent. -/
def Mod.toWire (m : Mod) (n k : Nat) (d : List Byte) : Option (List Byte) × Mod :=
  let (d, m) := match m.linkAt n k with | some l => m.jxlCompress l d | none => (d, m)
  m.macProtect n k (padded d)

/-! ### Eligibility (R311, R313, R316, R324, R482, R488, R179) -/

/-- The frame is whole, or a host frame that may start by cut-through (R188). -/
def Mod.startable (m : Mod) (n : Nat) (e : EgEntry) (timed : Bool) : Bool :=
  let host := match e.pkt.origin with | .host .. => true | _ => false
  !e.hbm && (decide (e.pkt.cells ≤ e.present) ||
    (!timed && host && m.flag F.PRT_CT_CFG_ENABLE [n] && decide (m.get F.PRT_CT_STATUS_THRESH [n] ≤ e.present)))

/-- Tokens of a class's shaper now, in 1/8000 byte (R313). (DEDUCED, log 31) -/
def Mod.tokens (m : Mod) (n k c : Nat) : Int :=
  let cap : Int := m.get F.HEM_SHAPE_BURST (portIx n ++ [c]) * 8000
  match tget (m.hsubOf n k).tokens c with
  | some (t, at_) => min cap (t + ((m.ns - at_) * m.get F.HEM_SHAPE_RATE_MBPS (portIx n ++ [c]) : Nat))
  | none => cap

/-- The class is shaped. -/
def Mod.shaped (m : Mod) (n c : Nat) : Bool := c < 7 && m.get F.HEM_SHAPE_RATE_MBPS (portIx n ++ [c]) ≠ 0

/-- The gate of class `c` of port `n` does not close before a frame's last bit crosses at `stop` units; gates change at multiples of
8 ns, and the Hem looks ahead to the end of the next cycle (R316). (DEDUCED, log 37) -/
def Mod.guardOk (m : Mod) (n c stop : Nat) : Bool :=
  let h := m.hemOf n
  let horizon := match h.calAt m.ns with | some cal => cal.cycleAfter m.ns + 8 * cal.cycle | none => stop / nsUnit + 8
  let first := m.ns / 8 * 8 + 8
  let pts := (List.range ((stop / nsUnit - m.ns) / 8 + 2)).map fun i => first + 8 * i
  pts.all fun t => decide (stop ≤ t * nsUnit) || decide (horizon < t) || bit (h.gatesAt m.calPolicy m.ns t) c

/-- No due timed frame of the sub-port would be held up by a frame whose last bit crosses at `stop`: with 12 bytes of gap and 8 of
preamble it ends by L (R324). (DEDUCED, log 37) -/
def Mod.holdOk (m : Mod) (n k stop : Nat) : Bool :=
  (m.hemOf n).timed.all fun x => !(x.due && x.sub = k && x.leave = .onTime) || decide (stop + m.byteTime n 20 ≤ x.launch * nsUnit)

/-- A received PFC frame pauses a priority that maps to class `c` (R179). (DESIGN CHOICE, log 32) -/
def Mod.pausedBy (m : Mod) (n k c : Nat) : Bool :=
  (m.hsubOf n k).paused.any fun p => bits (m.get F.PLT_PORT_CLASS_PCP_MAP (portIx n)) (3 * p.1) 3 = c &&
    decide (p.2.1 ≤ m.now) && decide (m.now < p.2.2)

/-- The credit of a Jexdor link admits the frame (R482, R488); other frames need none. -/
def Mod.creditOk (m : Mod) (n k : Nat) (d : List Byte) : Bool :=
  match m.linkAt n k with
  | some l => !isCredited d || decide (cellsOf d.length ≤ m.credit l (jxlClass d))
  | none => true

/-- Why the head frame of a class does not start, or that it may. -/
inductive Elig where
  | no | held | credit | yes
  deriving DecidableEq, Repr

/-- The head of class `c`. -/
def Mod.classHead (m : Mod) (n k c : Nat) : Option EgEntry := (m.egq (egKey (n / 12) (n % 12 * 8 + k) c)).head?

/-- Whether the head frame of class `c` may start now. -/
def Mod.elig (m : Mod) (n k c : Nat) : Elig :=
  match m.classHead n k c with
  | none => .no
  | some e =>
    let wire := ((m.toWire n k e.pkt.bytes).1.getD e.pkt.bytes).length
    let stop := m.now + m.byteTime n (wire + 4)
    if !m.startable n e false || !bit (m.gatesNow n) c || (m.shaped n c && decide (m.tokens n k c < 0)) || m.pausedBy n k c then .no
    else if (m.flag F.HEM_LAUNCH_CFG_GUARD_EN (portIx n) && !m.guardOk n c stop) || !m.holdOk n k stop then .held
    else if !m.creditOk n k e.pkt.bytes then .credit
    else .yes

/-- Wire bytes of the head frame of a class. -/
def Mod.headBytes (m : Mod) (n k c : Nat) : Nat :=
  match m.classHead n k c with
  | some e => wireBytes ((m.toWire n k e.pkt.bytes).1.getD e.pkt.bytes).length
  | none => 0

/-- Deficit round robin (R311): the class whose turn it is sends while its deficit covers its head frame; then the turn passes to the
next class that may send, which gains its quantum. -/
def drr (elig : Nat → Bool) (need quantum : Nat → Nat) : Nat → Tab Nat → Nat → Option (Nat × Tab Nat × Nat)
  | 0, _, _ => none
  | fuel + 1, d, turn =>
    let have_ := tgetD d turn 0
    if elig turn && decide (need turn ≤ have_) then some (turn, tput d turn (have_ - need turn), turn)
    else
      let next := (turn + 1) % 7
      drr elig need quantum fuel (if elig next then tput d next (tgetD d next 0 + quantum next) else d) next

/-- The class that R311 yields, with the sub-port's deficits and turn after it. -/
def Mod.pickClass (m : Mod) (n k : Nat) (el : List Elig) : Option (Nat × Tab Nat × Nat) :=
  let h := m.hsubOf n k
  let yes := fun (c : Nat) => el.getD c .no = .yes
  let strict := fun (c : Nat) => m.get (F.HEM_SCHED_STRICT c) (portIx n) = 1
  if yes 7 then some (7, h.deficit, h.turn)
  else match [6, 5, 4, 3, 2, 1, 0].find? fun c => strict c && yes c with
    | some c => some (c, h.deficit, h.turn)
    | none =>
      let soft := fun (c : Nat) => yes c && !strict c
      if (List.range 7).any soft then
        drr soft (m.headBytes n k) (fun c => m.get (F.HEM_SCHED_WEIGHT c) (portIx n) * 256) 2000 h.deficit h.turn
      else none

/-! ### The frame under way -/

/-- Cells of a credited frame are started on a link (R479, R488). -/
def Mod.creditTake (m : Mod) (n k : Nat) (d : List Byte) : Mod :=
  match m.linkAt n k with
  | some l =>
    let m := m.count F.JXL_CNT_COUNT [l, 0]
    if !isCredited d then m
    else
      let x := m.linkOf l
      let c := jxlClass d
      let cells := cellsOf d.length
      m.putLink l { x with sent := tmod x.sent c 0 fun v => (v + cells) % 2 ^ 32,
                           left := if (tget x.left c).isSome then tmod x.left c 0 (· - cells) else x.left }
  | none => m

/-- A frame starts at `start` units; one whose PN is spent is dropped in its place (R356), and so is one longer than MAX_FRAME, which the
MAC does not send (R178). (DESIGN CHOICE, log 33) -/
def Mod.startTx (m : Mod) (n k c : Nat) (e : EgEntry) (timed : Option Leave) (start : Nat) : Mod :=
  let (w, m) := m.toWire n k (ownStamp (m.linkAt n k).isSome e.pkt.bytes start)
  match w with
  | none => ((m.freeEntry e).dropCrossing e.id).sendLost e.pkt 4
  | some w =>
   if m.get F.PRT_CFG_MAX_FRAME [n] < w.length + 4 then ((m.freeEntry e).dropCrossing e.id).sendLost e.pkt 4
   else
    let m := m.creditTake n k e.pkt.bytes
    let h := m.hsubOf n k
    let toks := if timed.isNone && m.shaped n c then tput h.tokens c (m.tokens n k c - (wireBytes w.length * 8000 : Nat), m.ns) else h.tokens
    let guard := m.flag F.HEM_LAUNCH_CFG_GUARD_EN (portIx n)
    let isOver := timed.isNone && !guard && !m.guardOk n c (start + m.byteTime n (w.length + 4))
    let m := if isOver then m.hemCount n k 6 else m
    m.putHsub n k { h with tokens := toks, tx := some { entry := e, cls := c, timed := timed, start := start, tag := m.stepTag, wire := w, guard := guard && timed.isNone } }

/-- Takes a packet off the timed list of a port. -/
def Mod.untime (m : Mod) (n : Nat) (x : Timed) : Mod :=
  let h := m.hemOf n
  m.putHem n { h with timed := h.timed.filter (·.entry.id ≠ x.entry.id) }

/-- Frames held back by the guard or the timed hold count once each in GUARD_HELD; classes passed over for want of credit count
in CREDIT_WAITS (R482). -/
def Mod.heldCounts (m : Mod) (n k : Nat) (el : List Elig) : Mod :=
  (List.range 8).foldl (fun m c =>
    match el.getD c .no, m.classHead n k c, m.linkAt n k with
    | .held, some e, _ =>
      if e.guarded then m
      else
        let key := egKey (n / 12) (n % 12 * 8 + k) c
        (m.putEgq key ((m.egq key).map fun x => if x.id = e.id then { x with guarded := true } else x)).hemCount n k 7
    | .credit, _, some l => m.count F.JXL_CNT_COUNT [l, 6]
    | _, _, _ => m) m

/-- A class queue sends its head. -/
def Mod.startClass (m : Mod) (n k : Nat) : Mod :=
  let el := (List.range 8).map (m.elig n k)
  let m := m.heldCounts n k el
  match m.pickClass n k el with
  | none => m
  | some (c, d, turn) =>
    let key := egKey (n / 12) (n % 12 * 8 + k) c
    match m.egq key with
    | [] => m
    | e :: rest =>
      let m := m.putEgq key rest
      let h := m.hsubOf n k
      let d := if rest.isEmpty then tdel d c else d
      (m.putHsub n k { h with deficit := d, turn := turn }).startTx n k c e none m.now

/-- FRAME_BOUNDARY: an UP sub-port with no frame under way starts the first frame that R311 yields: the head of the timed list
once its preparation has begun, a late or immediate one, then the classes. -/
def execFrameBoundary (n : Fin 96) (k : Fin 8) (s : State) : Host.Outcome State Fault Refusal :=
  run s fun m =>
    if m.subState n k ≠ 4 || (m.hsubOf n k).tx.isSome || bit (m.prtOf n).closing k then m
    else
      let m := m.jxlFlush.hemGates n
      let g := m.gatesNow n
      let h := m.hsubOf n k
      let m := m.putHsub n k { h with deficit := h.deficit.filter fun d => bit g d.1 }
      let list := (m.hemOf n).timed
      let due := match list.find? fun x => decide (x.leave = .onTime) with
        | some x => if x.sub = k.val && x.due && !m.pausedBy n k x.entry.pkt.tc then some x else none
        | none => none
      match due with
      | some x => (m.untime n x).startTx n k x.entry.pkt.tc x.entry (some .onTime) (max m.now (x.launch * nsUnit))
      | none =>
        let ok := fun (x : Timed) => x.leave ≠ .onTime && x.sub = k.val && m.startable n x.entry true && !m.pausedBy n k x.entry.pkt.tc &&
          m.holdOk n k (m.now + m.byteTime n (((m.toWire n k x.entry.pkt.bytes).1.getD x.entry.pkt.bytes).length + 4))
        match list.find? ok with
        | some x =>
          let m := (m.untime n x).startTx n k x.entry.pkt.tc x.entry (some x.leave) m.now
          if x.leave = .late then m.hemCount n k 1 else m
        | none => m.startClass n k

/-- The group address bit, and broadcast. (DEDUCED, log 29) -/
def castOf (d : List Byte) : Nat := if slice d 0 6 = List.replicate 6 255 then 2 else if byteAt d 0 % 2 = 1 then 1 else 0

/-- FRAME_TRANSMIT_END: the frame under way has left; its stamp is that of its first bit (R145), its cells are freed, the fate of its
send is told, its histogram takes the sample, and a sub-port that waited for it goes DISABLED. -/
def execFrameTransmitEnd (n : Fin 96) (k : Fin 8) (s : State) : Host.Outcome State Fault Refusal :=
  run s fun m =>
    let h := m.hsubOf n k
    match h.tx with
    | none => m
    | some t =>
      if t.entry.present < t.entry.pkt.cells then m
      else
        let m := (m.runTo (t.start + m.byteTime n (t.wire.length + 4))).putHsub n k { h with tx := none }
        let stamp := t.start / 8192 * 8192
        let stat := fun (m : Mod) (i v : Nat) => m.count F.PRT_STAT_COUNT [n.val, k.val, i] v
        let len := if (m.linkAt n k).isSome then (padded t.entry.pkt.bytes).length + (if (m.macTx n k).isSome then 32 else 0) else t.wire.length
        let m := stat (stat (m.emit (.frame n k t.wire)) 12 1) 13 (len + 4)
        let m := match castOf t.entry.pkt.bytes with | 1 => stat m 14 1 | 2 => stat m 15 1 | _ => m
        let m := if t.timed = some .onTime then m.hemCount n k 0 else m
        let m := (m.freeEntry t.entry).sendDone t.entry.pkt stamp
        (m.histSample t.entry.pkt stamp t.tag true).closeSub n k

/-- TIMED_FRAME_DUE: at L − 1 µs of the next packet of the list its preparation begins (R324). It is late when the instant has passed,
when it is not whole on die, or when a timed frame before it on the sub-port ends after its L (R325). (DEDUCED, log 37) -/
def execTimedFrameDue (n : Fin 96) (s : State) : Host.Outcome State Fault Refusal :=
  run s fun m =>
    match (m.hemOf n).timed.find? fun x => x.leave = .onTime && !x.due with
    | none => m
    | some x =>
      let late := decide (x.launch - 1000 < m.ns)
      let m := m.runToNs (x.launch - 1000)
      let before := (m.hemOf n).timed.any fun y => y.due && y.sub = x.sub && y.leave = .onTime &&
        decide (x.launch * nsUnit < y.launch * nsUnit + m.byteTime n (wireBytes y.entry.pkt.bytes.length))
      if !late && !before && m.startable n x.entry true then
        m.timedMap fun y => if y.entry.id = x.entry.id then { y with due := true } else y
      else if m.flag F.HEM_LAUNCH_CFG_LATE (portIx n) then m.timedDrop n x 2
      else m.timedMap fun y => if y.entry.id = x.entry.id then { y with leave := .late } else y

/-! ### Calendars -/

/-- CALENDAR_ENTRY_BOUNDARY: at `t` ns an entry or a cycle of port `n` begins, or the hold after a step ends (R315, R322). At a cycle
boundary the loss policy takes hold or ends (R327), and slotted classes have a new allowance (R488). -/
def execCalendarEntryBoundary (n : Fin 96) (t : Nat) (s : State) : Host.Outcome State Fault Refusal :=
  run s fun m =>
    match (m.hemOf n).active with
    | none => m
    | some c =>
      if t < m.ns || !(c.begins t || c.offset t = 0) then m
      else
        let m := m.runToNs t
        let h := m.hemOf n
        if c.offset t = 0 then
          let held := match h.held with | some (g, u) => if t < u then some (g, u) else none | none => none
          ((m.putHem n { h with override_ := m.calPolicy, held := held }).jxlCycle n).hemGates n
        else m.hemGates n

/-- CALENDAR_ACTIVATION: WHEN of the activation armed on port `n` (R320). -/
def execCalendarActivation (n : Fin 96) (s : State) : Host.Outcome State Fault Refusal :=
  run s fun m =>
    match (m.hemOf n).arm with
    | some a => (m.runToNs a.whenNs).calSwap n
    | none => m

/-- A CYCLE TLV is in the ranges of R315. -/
def cycleOk (v : List Byte) : Bool :=
  let ns := leAt v 6 4
  ns % 8 = 0 && ns < 1000000000 && 16 ≤ leAt v 12 4 && leAt v 12 4 ≤ 125000000 && 1 ≤ leAt v 16 2 && leAt v 16 2 ≤ 4096

/-- An ENTRIES TLV is right (R314, R318). -/
def entriesOk (v : List Byte) : Bool :=
  let first := leAt v 0 2
  let k := leAt v 2 2
  1 ≤ k && k ≤ 1024 && v.length = 4 + 4 * k && first + k ≤ 4096 &&
    (List.range k).all fun i => entryInterval (leAt v (4 + 4 * i) 4) ≠ 0

/-- CAL_WRITE (R318). -/
def execCalWrite (c : Cmd) (s : State) : Host.Outcome State Fault Refusal :=
  run s fun m => m.runCmd c 0x0409 [.calendar (leAt (c.val 0x100) 0 1)] fun m =>
    let n := leAt (c.val 0x100) 0 1
    let badCycle := (c.all 0x101).find? fun t => !cycleOk t.2
    let badEntry := (c.all 0x102).find? fun t => !entriesOk t.2
    if n > 95 then (m, some c.bad)
    else match badCycle.or badEntry with
      | some (p, _) => (m, some (badTlv p))
      | none =>
        let h := m.hemOf n
        let cal : Cal := if bit (leAt (c.val 0x100) 1 1) 0 then {} else h.shadow
        let cal : Cal := match c.tlv 0x101 with
          | some (_, v) => { cal with base := leAt v 0 6 * 1000000000 + leAt v 6 4, cycle := leAt v 12 4, length := leAt v 16 2 }
          | none => cal
        let cal := (c.all 0x102).foldl (fun (cal : Cal) t =>
          (List.range (leAt t.2 2 2)).foldl (fun (cal : Cal) i =>
            { cal with entries := tput cal.entries (leAt t.2 0 2 + i) (leAt t.2 (4 + 4 * i) 4 % 2 ^ 31) }) cal) cal
        (m.putHem n { h with shadow := cal }, some {})

/-- The WHEN of an activation in ns: the one given, or the first boundary at least 100 µs ahead (R319). -/
def Mod.calWhen (m : Mod) (v : List Byte) : Nat :=
  let w := leAt v 4 6 * 1000000000 + leAt v 10 4
  let soon := m.ns + 100000
  if w ≠ 0 then w
  else match (m.hemOf (leAt v 0 1)).active with
    | some c => c.cycleAt soon
    | none => ceilDiv soon 8 * 8

/-- What is wrong with an ACTIVATE TLV: ERR_DETAIL 0 for a reserved value. (DEDUCED, log 37) -/
def Mod.activateBad (m : Mod) (v : List Byte) : Option Nat :=
  let h := m.hemOf (leAt v 0 1)
  let stop := bit (leAt v 1 1) 0
  let w := m.calWhen v
  if leAt v 0 1 > 95 || leAt v 10 4 % 8 ≠ 0 || leAt v 10 4 ≥ 1000000000 then some 0
  else if !stop && (h.shadow.cycle = 0 || (List.range h.shadow.length).any fun i => entryInterval (h.shadow.entry i) = 0) then some 1
  else if w < m.ns + 100000 then some 2
  else if m.ns + 60000000000 < w then some 3
  else none

/-- CAL_ACTIVATE (R319, R321): it holds the calendars until WHEN. (DEDUCED, log 37) -/
def execCalActivate (c : Cmd) (s : State) : Host.Outcome State Fault Refusal :=
  let c := { c with opcode := 0x040A }
  run s fun m => m.runCmd c 0x040A ((c.all 0x100).map fun t => .calendar (leAt t.2 0 1)) fun m =>
    match (c.all 0x100).findSome? fun t => (m.activateBad t.2).map fun d => (t.1, d) with
    | some (p, d) => (m, some (badTlv p d))
    | none =>
      if m.calPolicy.isSome then (m, some { status := stNotTraceable })
      else
        ((c.all 0x100).foldl (fun m t =>
          let n := leAt t.2 0 1
          m.putHem n { m.hemOf n with arm := some { whenNs := m.calWhen t.2, stop := bit (leAt t.2 1 1) 0, cmd := c } }) m, none)

/-- A bank's CYCLE as its TLV (R318, R330). -/
def Cal.bytes (c : Cal) : List Byte :=
  leBytes 6 (c.base / 1000000000) ++ leBytes 4 (c.base % 1000000000) ++ [0, 0] ++ leBytes 4 c.cycle ++ leBytes 2 c.length ++
    List.replicate 6 0

/-- CAL_QUERY (R330). -/
def execCalQuery (c : Cmd) (s : State) : Host.Outcome State Fault Refusal :=
  run s fun m => m.query c 0x040B fun m =>
    let v := c.val 0x100
    let n := leAt v 0 1
    let first := leAt v 2 2
    let count := leAt v 4 2
    let cal := if bit (leAt v 1 1) 0 then (m.hemOf n).shadow else (m.hemOf n).active.getD {}
    let room := (c.src.limit - 64 - 16 - 32 - 8 - 16 * b2n (c.tlv 3).isSome) / 4
    let k := min (min count room) (4096 - first)
    let cyc := if cal.cycle = 0 then List.replicate 24 0 else cal.bytes
    if n > 95 || count > 1024 || first ≥ 4096 then c.bad
    else okWith [tlv 0x101 (leBytes 8 (m.viewCal n)), tlv 0x102 cyc,
      tlv 0x103 (leBytes 2 first ++ leBytes 2 k ++ (List.range k).flatMap fun i => leBytes 4 (cal.entry (first + i)))]

/-! ### The HEM channel (R238, R328) -/

/-- The copies on the home slices take what holds now, at a turn (R328). -/
def Mod.hemRefresh (m : Mod) : Mod :=
  let eg := m.plt.egr.filterMap fun q =>
    let s := q.1 / 800
    let e := q.1 / 8 % 100
    if q.1 < 8 * 800 && e < 96 then some (((12 * s + e / 8) * 8 + e % 8) * 8 + q.1 % 8, sumOf q.2 fun x => x.pkt.cells) else none
  let timed := m.hem.flatMap fun h => h.2.timed.map fun x => ((h.1 * 8 + x.sub) * 8 + x.entry.pkt.tc, x.entry.pkt.cells)
  let depth := (eg ++ timed).foldl (fun (t : Tab Nat) d => tmod t d.1 0 (· + d.2)) []
  let ports := (m.hem.map (·.1)).filter fun n => (m.hemOf n).active.isSome || m.gatesNow n ≠ 255
  { m with hcopy := { depth := depth.filter (·.2 ≠ 0), gate := ports.map fun n => (n, m.gateWord n),
                      pos := (ports.map fun n => (n, m.calPos n)).filter (·.2 ≠ 0) } }

/-- An operation of channel 3: port in bits 6:0 of the operand, sub-port in 9:7, class in 12:10 (R238). -/
def Mod.hemReq (m : Mod) (w : ThreadRef) (tag op : Nat) (val : HemCopy → Nat → Nat → Nat → Nat) : Mod :=
  match m.takeReq w tag 3 op with
  | none => m
  | some q =>
    let (a, m) := m.operand q 0
    let n := bits a 0 7
    let k := bits a 7 3
    let c := bits a 10 3
    if n > 95 || m.subCount n ≤ k then m.answer w tag { status := chRefused }
    else m.answer w tag { data := [val m.hcopy n k c] }

/-- QDEPTH. -/
def execQdepth (sl : Fin 8) (e : Fin 160) (t : Fin 16) (tag : Fin 8) (s : State) : Host.Outcome State Fault Refusal :=
  run s fun m => m.hemReq ⟨sl, e, t⟩ tag 0 fun h n k c => tgetD h.depth ((n * 8 + k) * 8 + c) 0

/-- GATE. -/
def execGateQuery (sl : Fin 8) (e : Fin 160) (t : Fin 16) (tag : Fin 8) (s : State) : Host.Outcome State Fault Refusal :=
  run s fun m => m.hemReq ⟨sl, e, t⟩ tag 1 fun h n _ _ => tgetD h.gate n 255

/-- CALPOS. -/
def execCalpos (sl : Fin 8) (e : Fin 160) (t : Fin 16) (tag : Fin 8) (s : State) : Host.Outcome State Fault Refusal :=
  run s fun m => m.hemReq ⟨sl, e, t⟩ tag 2 fun h n _ _ => tgetD h.pos n 0

end Sys2Proof.Machine
end

