-- ==== Sys2Proof/Machine/Command.lean ====
section
/-! DEFINITION. *How the Cutter executes commands* and *Transports* (chapter 02): a packet's receipt and checks (R44 to R50, R58,
R585), OOB frames (R53 to R55), execution places (R59, R60), forwarding (R56, R492), CMD_CANCEL (R62), and rings of mailboxes that
start a command (R79). -/

namespace Sys2Proof.Machine

/-! ### Receipt -/

/-- The header of a command packet (R44); TLVs empty. -/
def headerCmd (src : Transport) (mid : Nat) (bs : List Byte) : Cmd :=
  { src := src, mid := mid, unordered := bit (leAt bs 1 1) 1, opcode := leAt bs 2 2, tag := leAt bs 4 2, target := leAt bs 14 1,
    inst := leAt bs 16 2, gen := leAt bs 18 2, txn := leAt bs 20 4, seq := leAt bs 24 4, timeoutUs := leAt bs 28 4 }

/-- What a packet turns out to be: unreadable, faulty in its header, or a command. -/
inductive Parsed where
  | short
  | bad (c : Cmd)
  | ok (c : Cmd)
  deriving DecidableEq, Repr

/-- Reads a packet (R44, R45, R49, R50). -/
def parsePacket (src : Transport) (mid : Nat) (bs : List Byte) : Parsed :=
  let c := headerCmd src mid bs
  let len := leAt bs 8 4
  if bs.length < 64 then .short
  else if leAt bs 0 1 ≠ 1 || bit (leAt bs 1 1) 0 || len % 8 ≠ 0 || len < 64 || src.limit < len || bs.length < len then .bad c
  else match parseTlvs len (slice bs 64 (len - 64)) with
    | some ts => .ok { c with tlvs := ts }
    | none => .bad c

/-- The transport's code in the event of R585 and the channel it names. -/
def transportCode : Transport → Nat × Nat
  | .admin r => (0, r)
  | .mailbox c => (1, c)
  | .oob k => (2, if k < 16 then k else 0xFFFF)
  | .jexdor o => (3, o)

/-- A packet whose header cannot be read: counted, and one event per transport and second (R50, R585). -/
def Mod.discardPacket (m : Mod) (src : Transport) : Mod :=
  let (t, ch) := transportCode src
  let m := m.countSat F.CUT_DISCARD_HEADER
  if tget m.cut.discardSec t = some (secOf m.now) then m
  else
    let m := m.event 21 3 (regAddr .CUT_DISCARD) (leBytes 1 t ++ leBytes 2 ch)
    m.setCut fun c => { c with discardSec := tput c.discardSec t (secOf m.now) }

/-- An admin ring. -/
def Mod.adminRing (m : Mod) (n : Nat) : Option Ring := tget m.spl.rings (3 * 65536 + n)

/-- The master identity of an owner of rings (R42). -/
def ownerMid (o : Nat) : Nat := if o < 4096 then 0x2000 + o else 0x1000 + (o - 4096)

/-- The requester that the module writes into a header (R42). -/
def Mod.srcMid (m : Mod) : Transport → Nat
  | .admin n => match m.adminRing n with | some r => ownerMid r.owner | none => 0xF000
  | .mailbox c => m.mbxSender c
  | .oob k => 0x3000 + k
  | .jexdor o => 0x4000 + o

/-- The command is for another module (R56). -/
def Mod.foreign (m : Mod) (c : Cmd) : Bool := c.target ≠ 0xFF && c.target ≠ m.chalk.dir.module

/-! ### CMD_CANCEL (R62) -/

/-- An executing command that its chapter declares cancellable: a lock wait, a loop-back test, a calendar activation more than
100 µs before its first WHEN, a freeze that drains. One that was forwarded runs at its target, where this module cannot stop it (R56). -/
def Mod.cancellable (m : Mod) (c : Cmd) : Bool :=
  !m.foreign c && match c.opcode with
  | 0x0A01 | 0x0907 | 0x0106 => true
  | 0x040A => m.hem.all fun h => match h.2.arm with | some a => !(a.cmd = c) || decide (m.ns + 100000 ≤ a.whenNs) | none => true
  | _ => false

/-- Undoes what a cancelled command holds: its lock wait, its calendars, its loop-back test, the freeze that it has begun (R441: the
instance is ACTIVE again and so are its rings). -/
def Mod.cancelUndo (m : Mod) (c : Cmd) : Mod :=
  let m := m.calDrop c
  let m : Mod := { m with locks := m.locks.map fun (l : Nat × Lock) => (l.1, { l.2 with queue := l.2.queue.filter (·.cmd ≠ c) }) }
  let began := m.spl.insts.find? fun (i : Nat × Inst) => decide (i.2.freeze = some c)
  let m : Mod := { m with spl := { m.spl with insts := m.spl.insts.map fun (i : Nat × Inst) =>
    (if decide (i.2.freeze = some c) then (i.1, { i.2 with freeze := none }) else i) } }
  match began with
  | some i =>
    if m.instState i.1 = 2 then
      let go := fun (n : Nat) => if n = 2 then 1 else n
      let m : Mod := { m with spl := { m.spl with rings := m.spl.rings.map fun (r : Nat × Ring) =>
        (if decide (r.2.owner = i.1) then (r.1, { r.2 with state := go r.2.state, before := go r.2.before }) else r) } }
      m.set F.INST_STATUS_STATE [i.1] 1
    else m
  | none => m

/-- What the ABORTED of a cancelled command carries: LOCK_STATE of the lock that a LOCK_ACQUIRE named (R68). -/
def Mod.cancelTlvs (m : Mod) (c : Cmd) : List Tlv :=
  let n := leAt (c.val 0x100) 0 2
  if c.opcode = 0x0A01 && decide (n < 1024) then [lockState n (m.lock n) (decide ((m.lock n).owner = some c.mid)) false] else []

/-- CMD_CANCEL acts on every command of its requester with the TAG, other cancels apart. -/
def Mod.cancel (m : Mod) (c : Cmd) : Mod :=
  match m.cmdCheck c with
  | some a => m.reply c a
  | none =>
    let tag := leAt (c.val 0x100) 0 2
    let hit := (m.cut.pool.filter fun e => e.cmd.mid = c.mid && e.cmd.tag = tag && e.cmd.opcode ≠ 0x000A).map fun e =>
      (e.cmd, decide (e.stage ≠ .executing) || m.cancellable e.cmd)
    let stop := (hit.filter (·.2)).map (·.1)
    let left := hit.length - stop.length
    let m := stop.foldl (fun m x =>
      let loop := m.cut.loops.find? fun t => decide (t.cmd = x)
      match loop with
      | some t => let (r, m) := m.loopReached t; m.loopEnd t stAborted r
      | none => (m.cancelUndo x).reply x { status := stAborted, late := true, tlvs := (m.cancelUndo x).cancelTlvs x }) m
    let out := tlv 0x101 (leBytes 2 stop.length ++ leBytes 2 left ++ List.replicate 4 0)
    if hit.isEmpty then m.reply c c.bad
    else m.reply c { status := if left = 0 then stOk else stBusy, late := true, tlvs := [out] }

/-- CMD_CANCEL. -/
def execCmdCancel (c : Cmd) (s : State) : Host.Outcome State Fault Refusal := run s fun m => m.cancel { c with opcode := 0x000A }

/-! ### Queues -/

/-- The checks of a readable command on receipt (R20, R56, R58). One for another module is judged there by its instance and opcode; here,
whether its requester is frozen and may forward at all. (DEDUCED, log 20) -/
def Mod.receiptCheck (m : Mod) (c : Cmd) : Option Ans :=
  if m.foreign c then
    match m.firstCheck { c with inst := 0xFFFF } with
    | some a => some a
    | none => if (0x40 ≤ c.target && c.target ≠ 0xFF) || !m.isManager c.mid then some badHeader else none
  else m.cmdCheck c

/-- A command packet reaches the Cutter (R50, R56, R58): answered at once, or queued on its channel. (DESIGN CHOICE, log 9) -/
def Mod.receive (m : Mod) (src : Transport) (mid : Nat) (bs : List Byte) : Mod :=
  match parsePacket src mid bs with
  | .short => m.discardPacket src
  | .bad c => m.reply c ((m.firstCheck c).getD badHeader)
  | .ok c =>
    match m.receiptCheck c with
      | some a => m.reply c a
      | none =>
        let box := match src with | .mailbox _ => true | _ => false
        if c.opcode = 0x000A && !m.foreign c then m.cancel c
        else if !box && decide (1024 ≤ m.poolCount) then
          (match src with | .oob _ => m.reply c { status := stNoResource } | _ => m)
        else m.setCut fun x => { x with pool := x.pool ++ [{ cmd := c }] }

/-- COMMAND_RECEIVED: a packet on a transport. (DESIGN CHOICE, log 9) -/
def execCommandReceived (src : Transport) (bs : List Byte) (s : State) : Host.Outcome State Fault Refusal :=
  run s fun m => m.receive src (m.srcMid src) bs

/-- The module's unicast OOB MAC address: the port MAC addresses lie below it (R65). -/
def oobMac : Nat := portMacBase + 0x3FF

/-- OOB_FRAME_RECEIVED: a frame of EtherType `ether`, from `from_` to `to_` (R53 to R55). A new station takes the lowest free number. Only
CSMA/CD can collide, so frames are lost to collisions under it alone (R51). (DESIGN CHOICE, log 81) -/
def execOobFrameReceived (from_ to_ : Nat) (ether : Fin 65536) (rx : OobRx) (bs : List Byte) (s : State) :
    Host.Outcome State Fault Refusal :=
  run s fun m =>
    let m := if m.plcaRuns || rx.lost = 0 then m else m.countSat F.CUT_OOB_ERR_EXCESS_COLLISIONS [] rx.lost
    if !rx.fcsOk then m.countSat F.CUT_OOB_ERR_FCS_ERRORS
    else if ether.val ≠ 0x88B6 || to_ ≠ oobMac || !m.flag F.CUT_CFG_OOB_ENABLE then m
    else
      let m := m.setCut fun c => { c with oobUp := true }
      let known := (m.cut.stations.find? fun x => x.2.mac = from_).map (·.1)
      match known with
      | none =>
        if bs.length < 64 then m.discardPacket (.oob 16)
        else match tfree m.cut.stations 16 with
          | none => m.countSat F.CUT_OOB_ERR_UNKNOWN_STATION
          | some k => (m.setCut fun c => { c with stations := tput c.stations k { mac := from_ } }).receive (.oob k) (0x3000 + k) bs
      | some k =>
        let st := tgetD m.cut.stations k { mac := from_ }
        let seq := leAt bs 24 4
        if bs.length < 64 then m.discardPacket (.oob k)
        else match st.cache.find? fun r => decide (r.seq = seq) with
          | some r => m.emit (.oobReply k r)
          | none =>
            if m.cut.pool.any fun e => e.cmd.src = .oob k && e.cmd.seq = seq then m.countSat F.CUT_OOB_ERR_DUPLICATES
            else m.receive (.oob k) (0x3000 + k) bs

/-! ### Execution places (R59, R60) -/

/-- A channel's place in the fixed order: admin rings, mailboxes, OOB stations, Jexdor origins. -/
def chanKey : Transport → Nat
  | .admin r => r
  | .mailbox c => 65536 + c
  | .oob k => 131072 + k
  | .jexdor o => 196608 + o

/-- The service class of a requester: 0 manager, 1 drivers and other PFs, 2 OOB stations. -/
def Mod.serviceClass (m : Mod) (mid : Nat) : Nat := if m.isManager mid then 0 else if mid / 4096 = 3 then 2 else 1

/-- The place of a command in its channel admits a start now (R59): an ordered one follows the replies of all before it, an unordered
one their starts; at most 16 unordered ones at a time. A command for another module also needs one of the 32 there (R492). -/
def Mod.mayStart (m : Mod) (before : List PoolEntry) (e : PoolEntry) : Bool :=
  let mine := before.filter fun x => decide (x.cmd.src = e.cmd.src)
  let sent := !m.replies.any fun r => r.held && decide (r.src = e.cmd.src)
  (if e.cmd.unordered then
    mine.all (fun x => decide (x.stage ≠ .queued)) &&
      decide ((m.cut.pool.filter fun x => decide (x.cmd.src = e.cmd.src) && x.cmd.unordered && decide (x.stage = .executing)).length < 16)
   else mine.isEmpty && sent) &&
  (!m.foreign e.cmd || decide ((m.jxl.fwd.filter fun f => decide (f.target = e.cmd.target)).length < 32))

/-- The commands able to start, in order of arrival. -/
def Mod.startable_ (m : Mod) : List PoolEntry → List PoolEntry → List PoolEntry
  | _, [] => []
  | before, e :: rest =>
    let more := m.startable_ (before ++ [e]) rest
    if e.stage = .queued && m.mayStart before e then e :: more else more

/-- The round robin of a class: the first channel after the pointer that has a command able to start. -/
def nextChannel (ptr : Nat) (l : List PoolEntry) : Option PoolEntry :=
  let least := fun (xs : List PoolEntry) => xs.foldl (fun (a : Option PoolEntry) e =>
    match a with | some x => if chanKey e.cmd.src < chanKey x.cmd.src then some e else a | none => some e) none
  (least (l.filter fun e => decide (ptr < chanKey e.cmd.src + 1))).or (least l)

/-- The grant of R60: the class with credit, its command, credits and pointers after it. -/
def Mod.grant (m : Mod) : Option (PoolEntry × List Nat × List Nat) :=
  let l := m.startable_ [] m.cut.pool
  let of_ := fun (k : Nat) => l.filter fun e => decide (m.serviceClass e.cmd.mid = k)
  let has := [0, 1, 2].filter fun k => !(of_ k).isEmpty
  let credit := if has.any fun k => 0 < m.cut.credit.getD k 0 then m.cut.credit else [8, 4, 1]
  match has.find? fun k => 0 < credit.getD k 0 with
  | none => none
  | some k =>
    (nextChannel (m.cut.ptr.getD k 0) (of_ k)).map fun e =>
      (e, credit.set k (credit.getD k 0 - 1), m.cut.ptr.set k (chanKey e.cmd.src + 1))

/-- The packet of a command as it travels to another module. -/
def cmdBytes (c : Cmd) : List Byte :=
  let body := (c.tlvs.map Tlv.bytes).flatten
  leBytes 1 1 ++ leBytes 1 (2 * b2n c.unordered) ++ leBytes 2 c.opcode ++ leBytes 2 c.tag ++ leBytes 2 0 ++ leBytes 4 (64 + body.length) ++
    leBytes 2 c.mid ++ leBytes 1 c.target ++ leBytes 1 0 ++ leBytes 2 c.inst ++ leBytes 2 c.gen ++ leBytes 4 c.txn ++ leBytes 4 c.seq ++
    leBytes 4 c.timeoutUs ++ List.replicate 32 0 ++ body

/-- A command leaves for its target (R56, R492); with no route it is ABORTED (R57). The target sees the anchor as its requester. -/
def Mod.forward_ (m : Mod) (c : Cmd) : Mod :=
  match m.route c.target with
  | none => m.reply c { status := stAborted, errDetail := 1, late := true }
  | some (l, h) =>
    let m : Mod := { m with jxl := { m.jxl with fwd := m.jxl.fwd ++ [{ cmd := c, target := c.target, at_ := m.ns }] } }
    m.jxlOwn l 1 7 c.target (h - 1) (cmdBytes { c with mid := 0x4000 + m.chalk.dir.module })

/-- MBX_RING_WRITE: the sender rings; on a command mailbox a ring from IDLE gives the payload to the Cutter (R78, R79). -/
def Mod.mbxRung (m : Mod) (r : Req) (c v : Nat) : Mod :=
  let (m, start) := m.mbxRingWrite r c v
  if start && m.mbxReceiver c = 0xF000 then
    let bs := m.mbxBytes c
    let len := leAt bs 8 4
    m.receive (.mailbox c) (m.mbxSender c) (if 64 ≤ len && len ≤ 256 then bs.take len else bs)
  else m

/-- MBX_RING_WRITE. -/
def execMbxRingWrite (r : Req) (c : Fin 64) (v : BitVec 32) (s : State) : Host.Outcome State Fault Refusal :=
  run s fun m => m.mbxRung r c v.toNat

end Sys2Proof.Machine
end

