-- ==== Sys2Proof/Machine/HostTime.lean ====
section
/-! DEFINITION. Host time: PTM dialogs, pairs and time-pair pages (R158 to R166). -/

namespace Sys2Proof.Machine

/-- Changes the state of the Tack points. -/
def Mod.setTack (m : Mod) (f : Tack → Tack) : Mod := { m with tack := f m.tack }

/-- PTM of an endpoint. -/
def Mod.ptmOf (m : Mod) (e : Nat) : Ptm := tgetD m.tack.ptm e {}

/-- Puts PTM of an endpoint. -/
def Mod.putPtm (m : Mod) (e : Nat) (p : Ptm) : Mod := m.setTack fun t => { t with ptm := tput t.ptm e p }

/-- The module runs PTM dialogs on an endpoint (R158, R161). -/
def Mod.ptmOn (m : Mod) (e : Nat) : Bool :=
  m.flag F.TCK_HOST_STATUS_PTM_ENABLED [e] && bit (m.hostCfg e m.ms) 0 && m.issues (pf e)

/-- The spacing of dialogs: 62.5 µs of device time (R158). -/
def ptmPeriod : Nat := 62500 * nsUnit

/-- When endpoint `e` starts its next dialog: sixteen fall in each millisecond, the first at its boundary. (DEDUCED, log 50) -/
def Mod.ptmDue (m : Mod) (e : Nat) : Nat :=
  let t := ceilDiv m.now ptmPeriod * ptmPeriod
  if (m.ptmOf e).began = some t then t + ptmPeriod else t

/-- A dialog of endpoint `e` has had no response: counted, no sample (R158). -/
def Mod.ptmMissed (m : Mod) (e : Nat) : Mod :=
  (m.putPtm e { m.ptmOf e with outstanding := none, last := none }).countSat F.TCK_HOST_STATUS_DIALOG_TIMEOUTS [e]

/-- PTM_DIALOG_START: endpoint `e` sends the PTM Request that is due next, stamped as its flit starts (R145, R158). -/
def execPtmDialogStart (e : Fin 32) (s : State) : Host.Outcome State Fault Refusal :=
  run s fun m =>
    if !m.ptmOn e then m
    else
      let t := m.ptmDue e
      let m := m.runTo t
      let m := if (m.ptmOf e).outstanding.isSome then m.ptmMissed e else m
      (m.putPtm e { m.ptmOf e with outstanding := some t, began := some t }).emit (.ptm e)

/-- The sample of a dialog whose Request was stamped `t1` and whose ResponseD brought the PTM time at which the Responder received that
Request and the Responder's delay in the dialog before, stamped `last` (all 2^-16 ns): the link delay is half of what remains of that
dialog's round trip, and host PTM time at `t1` is the Responder's less that delay. (PRESUMED, log 50) -/
def ptmSample (t1 master delay : Nat) (last : Nat × Nat) : Nat × Int × Nat :=
  let link : Int := (((last.2 - last.1 : Nat) : Int) - delay) / 2
  (t1, (master : Int) - link, (link * 1000 / nsUnit).toNat)

/-- PTM_RESPONSE: the outstanding dialog's PTM ResponseD, stamped `stamp` (2^-16 ns): PTM Master Time and Propagation Delay, in ns. The
first answer of a run has no dialog before it and gives no sample. (PRESUMED, log 50) -/
def execPtmResponse (e : Fin 32) (stamp master delay : Nat) (s : State) : Host.Outcome State Fault Refusal :=
  run s fun m =>
    let p := m.ptmOf e
    match p.outstanding with
    | none => m
    | some t1 =>
      if !m.ptmOn e || stamp < m.now || t1 + 10000 * nsUnit < stamp then m
      else
        let d := match p.last with | some l => [ptmSample t1 (master * nsUnit) (delay * nsUnit) l] | none => []
        (m.runTo stamp).putPtm e { p with outstanding := none, last := some (t1, hostStamp stamp), samples := p.samples ++ d }

/-- PTM_DIALOG_TIMEOUT: no response within 10 µs. -/
def execPtmDialogTimeout (e : Fin 32) (s : State) : Host.Outcome State Fault Refusal :=
  run s fun m =>
    match (m.ptmOf e).outstanding with
    | none => m
    | some t => (m.runTo (t + 10000 * nsUnit)).ptmMissed e

/-! ### Pairs (R159, R160) -/

/-- Puts a number into a rising list. -/
def hostSortIn (x : Int) : List Int → List Int
  | [] => [x]
  | y :: ys => if x ≤ y then x :: y :: ys else y :: hostSortIn x ys

/-- The numbers in rising order. -/
def hostSorted (l : List Int) : List Int := l.foldr hostSortIn []

/-- The hostMedian; of an even number, the mean of the middle two. (DESIGN CHOICE, log 50) -/
def hostMedian (l : List Int) : Int :=
  let s := hostSorted l
  let n := s.length
  if n % 2 = 1 then s.getD (n / 2) 0 else (s.getD (n / 2 - 1) 0 + s.getD (n / 2) 0) / 2

/-- A dialog's host time at the boundary `p` (2^-16 ns): corrected by half of ASYM_PS, which the dialog's symmetric link delay leaves
out, and projected with RATE. (DESIGN CHOICE, log 50) -/
def project (asym rate : Int) (p : Nat) (d : Nat × Int × Nat) : Int :=
  let dt : Int := (p : Int) - d.1
  d.2.1 + asym * 65536 / 2000 + dt + dt * rate / 2 ^ 48

/-- RATE over pairs, newest first: host time against device time from the oldest to the newest, minus 1, in units of 2^-48; 0 before there
are two. (DESIGN CHOICE, log 50) -/
def rateOf (l : List (Nat × Int)) : Int :=
  match l.head?, l.getLast? with
  | some a, some b =>
    let dt : Int := (a.1 : Int) - b.1
    if dt = 0 then 0 else (a.2 - b.2 - dt) * 2 ^ 48 / dt
  | _, _ => 0

/-- A pair of an endpoint: CORR_VALID, host time in 2^-16 ns, RATE, CORR_BOUND and the link delay in ps. -/
structure HostPair where
  valid : Bool := false
  host : Int := 0
  rate : Int := 0
  bound : Nat := 0xFFFFFFFF
  delay : Nat := 0
  deriving DecidableEq, Repr

/-- The pair of endpoint `e` at boundary `p`, and what it leaves: the millisecond before it ran under its own TCK_HOST_CFG (R161), and RATE
is estimated over the pairs of the last 64 ms. -/
def Mod.formPair (m : Mod) (e p : Nat) : HostPair × Mod :=
  let x := m.ptmOf e
  let cfg := m.hostCfg e (p / (1000000 * nsUnit) - 1)
  let enough := decide (4 ≤ x.samples.length)
  let pr := x.samples.map (project (signed 16 (bits cfg 1 16)) x.rate p)
  let pairs := if enough then ((p, hostMedian pr) :: x.pairs).filter fun q => decide (p ≤ q.1 + 64000000 * nsUnit) else []
  let rate := if enough then rateOf pairs else x.rate
  let delays := x.samples.map fun d => (d.2.2 : Int)
  let spread := ((hostSorted pr).getLast?.getD 0 - (hostSorted pr).head?.getD 0).toNat
  let valid := enough && decide (64 ≤ x.validRun)
  let pair : HostPair :=
    if valid then
      { valid := true, host := hostMedian pr, rate := rate,
        bound := 3000 + bits cfg 17 12 + ceilDiv (spread * 1000) 131072 + 1000, delay := (hostMedian delays).toNat }
    else { delay := (hostMedian delays).toNat }
  let m := m.putPtm e { x with samples := [], validRun := if enough then x.validRun + 1 else 0, pairs := pairs, rate := rate }
  (pair, (m.setFlag F.TCK_HOST_STATUS_CORR_VALID [e] valid).set F.TCK_HOST_STATUS_LINK_DELAY_PS [e] pair.delay)

/-! ### Pages (R162 to R166) -/

/-- Bytes 0x04 to 0x7F of a page (R163). (DESIGN CHOICE, log 50) -/
def Mod.pageBody (m : Mod) (f : Fn) (t : TimePair) (h : HostPair) (p : Nat) : List Byte :=
  let fl := fun (x : Fld) (i : Nat) => b2n (m.flag x) * 2 ^ i
  let bound := match m.bound with | some b => min b 0xFFFFFFFF | none => 0xFFFFFFFF
  leBytes 1 1 ++
  leBytes 1 (fl F.TPL_STATE_TRACEABLE 0 + 2 * b2n h.valid + fl F.TPL_UTC_VALID 2 + fl F.TPL_UTC_LEAP61 3 + fl F.TPL_UTC_LEAP59 4 +
    32 * b2n (decide (t.stepTag ≠ m.tl.steps)) + 64 * b2n t.first) ++
  leBytes 1 (m.get F.TPL_STATE_SERVO) ++ leBytes 1 f.ep ++
  leBytes 6 (secOf p) ++ [0, 0] ++ leBytes 4 (nsOf p) ++
  leBytes 2 (unsigned 16 (h.host % 65536)) ++ leBytes 2 (m.get F.TPL_UTC_OFFSET) ++ leBytes 8 (unsigned 64 (h.host / 65536)) ++
  leBytes 8 (unsigned 64 h.rate) ++ leBytes 4 bound ++ leBytes 4 h.bound ++ leBytes 4 h.delay ++ leBytes 4 (m.get F.TPL_UTC_LEAP_AT) ++
  leBytes 8 (t.pairs + 1) ++ List.replicate 64 0

/-- One page is written (R164): SEQ odd, the body, SEQ even. A function that may issue nothing skips the pair, and FIRST is set on its
next. -/
def Mod.pageWrite (m : Mod) (p : Nat) (pairs : Tab HostPair) (x : Fn × TimePair) : (Fn × TimePair) × Mod :=
  let (f, t) := x
  if !m.issues f then ((f, { t with first := true }), m)
  else
    let m := m.hostWrite f t.addr t.pasid (leBytes 4 (t.seq + 1))
    let m := m.hostWrite f (t.addr + 4) t.pasid (m.pageBody f t (tgetD pairs f.ep {}) p)
    let m := m.hostWrite f t.addr t.pasid (leBytes 4 (t.seq + 2))
    ((f, { t with seq := (t.seq + 2) % 2 ^ 32, first := false, stepTag := m.tl.steps, pairs := t.pairs + 1 }), m)

/-- TIME_PAIR_UPDATE: millisecond `k` of device time begins: every endpoint forms its pair, every page is updated. -/
def execTimePairUpdate (k : Nat) (s : State) : Host.Outcome State Fault Refusal :=
  run s fun m =>
    if k * 1000000 < m.ns then m
    else
      let p := k * 1000000 * nsUnit
      let m := m.runTo p
      let (pairs, m) := (List.range 32).foldl (fun (a : Tab HostPair × Mod) e =>
        if a.2.present e then let (h, m) := a.2.formPair e p; (a.1 ++ [(e, h)], m) else a) ([], m)
      let (l, m) := m.tack.pairs.foldl (fun (a : List (Fn × TimePair) × Mod) x =>
        let (y, m) := a.2.pageWrite p pairs x; (a.1 ++ [y], m)) ([], m)
      m.setTack fun t => { t with pairs := l }

/-- Releases the registration of a function. -/
def Mod.dropPair (m : Mod) (f : Fn) : Mod := m.setTack fun t => { t with pairs := t.pairs.filter fun x => decide (x.1 ≠ f) }

/-- The owner a command of role D names (R404, R422): the instance of its header, or the manager's own PF. -/
def Mod.cmdOwner (m : Mod) (c : Cmd) : Option Nat :=
  if c.inst ≠ 0xFFFF then (if m.instExists c.inst then some c.inst else none)
  else if m.isManager c.mid && c.mid / 4096 = 1 then some (4096 + c.mid % 32) else none

/-- The owner whose registrations or rings a command writes (R61). -/
def Mod.ownerObjs (m : Mod) (c : Cmd) : List Obj := match m.cmdOwner c with | some o => [.owner (m.ownerFn o)] | none => []

/-- The PASID word of a registration (R162, R404, R422). -/
def pasidOf (w : Nat) : Option Nat := if bit w 31 then some (w % 2 ^ 20) else none

/-- A registration with PASID_VALID needs the PF's PASID Enable (R375). -/
def Mod.pasidOk (m : Mod) (ep w : Nat) : Bool := !bit w 31 || (m.fnCfg (pf ep)).pasid

/-- HOST_TIME_SET (R162). -/
def execHostTimeSet (c : Cmd) (s : State) : Host.Outcome State Fault Refusal :=
  run s fun m => m.runCmd c 0x0407 (m.ownerObjs c) fun m =>
    let v := c.val 0x100
    match m.cmdOwner c with
    | none => (m, some badHeader)
    | some o =>
      let f := m.ownerFn o
      let on := bit (leAt v 12 4) 0
      let mine := m.tack.pairs.any fun x => decide (x.1 = f)
      let used := (m.tack.pairs.filter fun x => decide (x.1.ep / 2 = f.ep / 2)).length
      if !on then (m.dropPair f, some {})
      else if leAt v 0 8 % 128 ≠ 0 || !m.pasidOk f.ep (leAt v 8 4) then (m, some c.bad)
      else if !mine && 512 ≤ used then (m, some { status := stNoResource })
      else
        let x : TimePair := { addr := leAt v 0 8, pasid := pasidOf (leAt v 8 4), stepTag := m.tl.steps }
        ((m.dropPair f).setTack fun t => { t with pairs := t.pairs ++ [(f, x)] }, some {})

end Sys2Proof.Machine
end

