-- ==== Sys2Proof/Machine/Rings.lean ====
section
/-! DEFINITION. Spool rings: counts, completion entries, replies, moderation, fences, ring errors, the end of a ring (*Spool rings and
work queues*, *Posted writes that fail beyond the link*). -/

namespace Sys2Proof.Machine

/-! ### Rings and owners -/

/-- Changes the Spool's state. -/
def Mod.setSpl (m : Mod) (f : Spool → Spool) : Mod := { m with spl := f m.spl }

/-- The key of ring `n` of a kind (R390). -/
def ringKey (kind n : Nat) : Nat := kind * 65536 + n

/-- The ring of a key. -/
def Mod.ring (m : Mod) (k : Nat) : Option Ring := tget m.spl.rings k

/-- Puts a ring. -/
def Mod.putRing (m : Mod) (k : Nat) (r : Ring) : Mod := m.setSpl fun s => { s with rings := tput s.rings k r }

/-- Changes a ring that exists. -/
def Mod.modRing (m : Mod) (k : Nat) (f : Ring → Ring) : Mod := m.setSpl fun s => { s with rings := tadj s.rings k f }

/-- SIZE of a ring (R392). -/
def Ring.size (r : Ring) : Nat := 2 ^ r.log2

/-- The phase of the lap of a count (R394). -/
def Ring.phase (r : Ring) (x : Nat) : Nat := 1 - x / r.size % 2

/-- A difference of counts (R394). -/
def countSub (a b : Nat) : Nat := (a + 2 ^ 32 - b % 2 ^ 32) % 2 ^ 32

/-- A count after `n` more units. -/
def countAdd (a n : Nat) : Nat := (a + n) % 2 ^ 32

/-- The function of a ring's owner. -/
def Mod.ringFn (m : Mod) (r : Ring) : Fn := m.ownerFn r.owner

/-- The slice that serves an owner (R391). -/
def Mod.ownerSlice (m : Mod) (o : Nat) : Nat := m.ownerEp o / 4

/-- Counts in SPL_CNT of the slice of an owner. -/
def Mod.splCount (m : Mod) (o i : Nat) (n : Nat := 1) : Mod := m.count F.SPL_CNT_COUNT [m.ownerSlice o, i] n

/-- An owner. -/
def Mod.owner (m : Mod) (o : Nat) : Owner := tgetD m.spl.owners o {}

/-- Changes an owner. -/
def Mod.modOwner (m : Mod) (o : Nat) (f : Owner → Owner) : Mod := m.setSpl fun s => { s with owners := tmod s.owners o {} f }

/-- The rings of an owner, with their keys. -/
def Mod.ringsOf (m : Mod) (o : Nat) : List (Nat × Ring) := m.spl.rings.filter fun r => decide (r.2.owner = o)

/-- An owner's instance drains or is frozen (R446). -/
def Mod.ownerStill (m : Mod) (o : Nat) : Bool := o < 4096 && (m.instState o = 2 || m.instState o = 3)

/-- A control word (R395). -/
def ctlWord (seq phase units : Nat) (pad : Bool) (kind : Nat) : Nat :=
  seq % 2 ^ 16 + phase * 2 ^ 16 + (units - 1) % 64 * 2 ^ 17 + b2n pad * 2 ^ 23 + kind % 16 * 2 ^ 24

/-! ### Retirement (R418) -/

/-- Drops the settled entries at the head; pad entries go with them. -/
def retire : List RingEntry → Nat → List RingEntry × Nat
  | [], c => ([], c)
  | e :: es, c => if e.pad || e.stage = .done then retire es (countAdd e.at_ e.units) else (e :: es, c)

/-- A ring with its settled entries consumed. -/
def Ring.retired (r : Ring) : Ring := let (es, c) := retire r.entries r.consumed; { r with entries := es, consumed := c }

/-- Marks `n` entries from the one at count `a` as settled, and retires. -/
def Ring.settle (r : Ring) (a n : Nat) : Ring :=
  let skip := (r.entries.takeWhile fun e => decide (e.at_ ≠ a)).length
  Ring.retired { r with entries := r.entries.take skip ++
    ((r.entries.drop skip).take n).map (fun (e : RingEntry) => { e with stage := .done }) ++ (r.entries.drop skip).drop n }

/-! ### Room (R416) -/

/-- The pad that an entry of `n` units needs first (R396). -/
def Ring.padFor (r : Ring) (n : Nat) : Nat := let p := r.produced % r.size; if p + n ≤ r.size then 0 else r.size - p

/-- Units of a COMPLETION ring that receive completions under way have reserved. (DESIGN CHOICE, log 58) -/
def Mod.reserved (m : Mod) (k : Nat) : Nat :=
  (m.spl.rings.map fun (r : Nat × Ring) =>
    if r.1 / 65536 = 1 && ringKey 2 r.2.peer = k then r.2.entries.countP (fun e => e.cpl.isSome && decide (e.stage = .busy)) else 0).foldl (· + ·) 0

/-- The ring has room for an entry of `n` units beside `held` reserved ones. -/
def Ring.room (r : Ring) (n held : Nat) : Bool := decide (countSub r.produced r.consumed + r.padFor n + n + held ≤ r.size)

/-- A COMPLETION ring takes entries: not FROZEN, in ERROR or DRAINING (R427). -/
def Ring.takes (r : Ring) : Bool := r.state = 1 || r.state = 2

/-! ### Reading ahead (R410) -/

/-- Send entries of a slice that are read and not completed (R410). -/
def Mod.sliceSends (m : Mod) (s : Nat) : Nat :=
  (m.spl.rings.map fun (r : Nat × Ring) =>
    if r.1 / 65536 = 0 && m.ownerSlice r.2.owner = s then r.2.entries.countP (fun e => !e.pad) else 0).foldl (· + ·) 0

/-- Entries, pads apart, that a ring holds. -/
def Ring.held (r : Ring) : Nat := r.entries.countP fun e => !e.pad

/-- Buffers read and not used. -/
def Ring.unused (r : Ring) : List RingEntry := r.entries.filter fun e => e.stage = .read && !e.pad

/-- Units that may be read ahead now (R410). -/
def Mod.readable (m : Mod) (k : Nat) (r : Ring) : Nat :=
  let n := min (countSub r.produced r.read) (r.size - r.read % r.size)
  match k / 65536 with
  | 1 => min n (64 - r.unused.length)
  | 0 => if 32 ≤ r.held || 131072 ≤ m.sliceSends (m.ownerSlice r.owner) then 0 else min n (2048 - countSub r.read r.consumed)
  | _ => if 32 ≤ r.held then 0 else min n (2048 - countSub r.read r.consumed)

/-- Reads entries of an ACTIVE ring up to PRODUCED, as far ahead as R410 lets it. -/
def Mod.fetchEntries (m : Mod) (k : Nat) : Mod :=
  match m.ring k with
  | none => m
  | some r =>
    let n := m.readable k r
    if r.reading || r.state ≠ 1 || n = 0 || !m.issues (m.ringFn r) then m
    else (m.putRing k { r with reading := true }).hostRead (m.ringFn r) (r.addr + 32 * (r.read % r.size)) (32 * n) r.pasid (.entries k)

/-- What the limits of R410 left of a ring is read as they give way; past an entry not yet visible only a poll reads on (R402). -/
def Mod.fetchMore (m : Mod) (k : Nat) : Mod :=
  match m.ring k with
  | some r => if r.hiddenAt.isNone then m.fetchEntries k else m
  | none => m

/-! ### Fences (R387) -/

/-- The fence mode of a function and its batch. -/
def Mod.fenceMode (m : Mod) (f : Fn) : Nat × Nat :=
  match f.vf with
  | none => (m.get F.SEL_PF_CFG_FENCE (epIx f.ep), m.get F.SEL_PF_CFG_FENCE_BATCH (epIx f.ep))
  | some v => (m.get F.SEL_VF_CFG_FENCE (epIx f.ep ++ [v]), m.get F.SEL_VF_CFG_FENCE_BATCH (epIx f.ep ++ [v]))

/-- The fences of a function. -/
def Mod.fencesOf (m : Mod) (f : Fn) : Fences := tgetD m.sel.fences (fnKey f) {}

/-- Four fences of the function are outstanding: its completion writes wait. -/
def Mod.fenceFull (m : Mod) (f : Fn) : Bool := 4 ≤ (m.fencesOf f).out

/-- A completion entry has been written at `addr`: a fence follows each batch, and the last entry of a burst. -/
def Mod.fenceAfter (m : Mod) (f : Fn) (addr : Nat) (pasid : Option Nat) (unit0 : List Byte) (last : Bool) : Mod :=
  let (mode, batch) := m.fenceMode f
  let x := m.fencesOf f
  if mode = 0 then m
  else if x.since + 1 < batch && !last then
    m.setSel fun s => { s with fences := tput s.fences (fnKey f) { x with since := x.since + 1 } }
  else
    let y : Fences := { x with since := 0, out := x.out + 1 }
    ((m.setSel fun s => { s with fences := tput s.fences (fnKey f) y }).hostRead f addr (if mode = 1 then 0 else 32) pasid
      (.fence (mode = 2) unit0)).selCount f.ep 10

/-! ### Messages (R421) -/

/-- A COMPLETION ring sends its message. -/
def Mod.cplMessage (m : Mod) (k : Nat) (r : Ring) : Mod :=
  let m := m.putRing k { r with unsent := 0 }
  match r.vector with
  | some v => (m.raise (m.ringFn r) v).splCount r.owner 13
  | none => m

/-- An entry has been written to ring `k`. (DEDUCED, log 61) -/
def Mod.moderate (m : Mod) (k : Nat) (urgent : Bool) : Mod :=
  match m.ring k with
  | none => m
  | some r =>
    if r.vector.isNone then m
    else
      let r := { r with unsent := r.unsent + 1, firstAt := if r.unsent = 0 then m.ns else r.firstAt }
      if urgent || decide (r.modCount ≤ r.unsent) then m.cplMessage k r else m.putRing k r

/-! ### Writing entries (R396, R412, R417, R420) -/

/-- Puts the control word of an entry into its bytes: at offset 0x18 on reply rings, at byte 0 on NORMAL ones. -/
def Ring.withCtl (r : Ring) (bs : List Byte) (w : Nat) : List Byte := overlay bs (if r.attr = 1 then 24 else 0) (leBytes 4 w)

/-- The pad entry that closes the lap, when one is needed. -/
def Mod.writePad (m : Mod) (k : Nat) (r : Ring) (n : Nat) : Mod × Ring :=
  let p := r.padFor n
  if p = 0 then (m, r)
  else
    let bs := r.withCtl (List.replicate 32 0) (ctlWord r.eseq (r.phase r.produced) p true 0)
    let m := m.hostWrite (m.ringFn r) (r.addr + 32 * (r.produced % r.size)) r.pasid bs
    let r := { r with produced := countAdd r.produced p, eseq := (r.eseq + 1) % 2 ^ 16 }
    (m.putRing k r, r)

/-- Writes an entry of `n` units to COMPLETION ring `k`: the units after unit 0 first, then unit 0; then its fence and its message. -/
def Mod.writeEntry (m : Mod) (k : Nat) (bs : List Byte) (n kind : Nat) (urgent last : Bool) : Mod :=
  match m.ring k with
  | none => m
  | some r =>
    let (m, r) := m.writePad k r n
    let f := m.ringFn r
    let bs := r.withCtl (slice bs 0 (32 * n)) (ctlWord r.eseq (r.phase r.produced) n false kind)
    let at_ := r.addr + 32 * (r.produced % r.size)
    let m := if n = 1 then m else m.hostWrite f (at_ + 32) r.pasid (bs.drop 32)
    let m := m.hostWrite f at_ r.pasid (bs.take 32)
    let m := m.putRing k { r with produced := countAdd r.produced n, eseq := (r.eseq + 1) % 2 ^ 16, asked := false }
    (m.fenceAfter f at_ r.pasid (bs.take 32) last).moderate k urgent

/-- A completion entry without its control word (R412). -/
def Cpl.bytes (c : Cpl) : List Byte :=
  leBytes 4 0 ++ leBytes 2 c.status ++ leBytes 1 c.flags ++ leBytes 1 c.nbuf ++ leBytes 2 c.ring ++ leBytes 2 (c.count % 2 ^ 14) ++
    leBytes 4 (c.consumed.getD 0) ++ leBytes 6 c.stamp ++ leBytes 2 c.reason ++ leBytes 8 c.cookie

/-- The message of a completion goes at once (R421): a RING_EVENT, or a send with NOTIFIED. (DEDUCED, log 61) -/
def Cpl.urgent (c : Cpl) : Bool := c.kind = 2 || (c.kind = 0 && bit c.flags 3)

/-- Writes a completion, counted by its kind. -/
def Mod.writeCpl (m : Mod) (k : Nat) (c : Cpl) (last : Bool) : Mod :=
  match m.ring k with
  | none => m
  | some r =>
    let m := m.writeEntry k c.bytes 1 c.kind c.urgent last
    if c.kind = 0 then m.splCount r.owner 7 else if c.kind = 1 then m.splCount r.owner 8 else m

/-- Reads the CONSUMED of a COMPLETION ring whose room fell short, once until a poll asks again (R416). -/
def Mod.askRoom (m : Mod) (k : Nat) (again : Bool) : Mod :=
  match m.ring k with
  | some r =>
    if r.asked && !again then m
    else (m.putRing k { r with asked := true }).hostRead (m.ringFn r) r.record 8 r.pasid (.doorbell k)
  | none => m

/-! ### The fate of a send (R413, R149) -/

/-- Compressed stamp C (R149) of a device time. -/
def stampC (t : Nat) : Nat := t / 2 ^ 14 % 2 ^ 48

/-- LEN of a send entry. -/
def RingEntry.len (e : RingEntry) : Nat := leAt e.raw 4 2 % 2 ^ 14
/-- INLINE. -/
def RingEntry.inline_ (e : RingEntry) : Bool := bit (leAt e.raw 4 2) 14
/-- NOTIFY. -/
def RingEntry.notify (e : RingEntry) : Bool := bit (leAt e.raw 4 2) 15
/-- SEGS. -/
def RingEntry.nsegs (e : RingEntry) : Nat := leAt e.raw 6 1
/-- META. -/
def RingEntry.meta_ (e : RingEntry) : Nat := leAt e.raw 8 8

/-- The record of the send of ring `n`'s entry at count `a`. -/
def Mod.sendOf (m : Mod) (n a : Nat) : Option (Nat × SendRec) := m.plt.sends.find? fun x => decide (x.2.ring = n ∧ x.2.entry = a)

/-- A send completion with a status. -/
def sendCpl (n : Nat) (e : RingEntry) (status : Nat) : Cpl :=
  { kind := 0, status := status, flags := 8 * b2n e.notify, ring := n, count := e.len, stamp := stampC (e.stamp.getD (0, 0)).1, cookie := e.meta_,
    gen := e.gen }

/-- The completion of a send whose copies have all met their fate. (DEDUCED, log 38) -/
def sendFate (n : Nat) (e : RingEntry) (x : SendRec) : Cpl :=
  let c := sendCpl n e stOk
  match x.stamp with
  | some t => { c with stamp := stampC t }
  | none => { c with flags := c.flags + 4, reason := x.cause.getD 1 }

/-- The completion of a ring's oldest entry, when it is known (R413, R414). -/
def Mod.headCpl (m : Mod) (k : Nat) (r : Ring) : Option (RingEntry × Cpl) :=
  match r.entries.find? fun e => !e.pad with
  | none => none
  | some e =>
    match e.cpl with
    | some c => some (e, c)
    | none =>
      if k / 65536 = 0 && e.stage = .busy then
        match m.sendOf (k % 65536) e.at_ with
        | some (_, x) => if x.copies = 0 then some (e, sendFate (k % 65536) e x) else none
        | none => none
      else none

/-- The entry of a completion is settled; its send's record goes. -/
def Mod.settleHead (m : Mod) (k : Nat) (r : Ring) (e : RingEntry) (c : Cpl) : Mod × Cpl :=
  let r := r.settle e.at_ (max 1 c.nbuf)
  let m := m.putRing k r
  let m : Mod := match (if k / 65536 = 0 then m.sendOf (k % 65536) e.at_ else none) with
    | some (id, _) => { m with plt := { m.plt with sends := tdel m.plt.sends id } }
    | none => m
  (m, { c with consumed := some r.consumed })

/-- The next completion or RING_EVENT of source ring `k`, with the module that has taken it. (DESIGN CHOICE, log 58) -/
def Mod.takeCpl (m : Mod) (k : Nat) (r : Ring) : Option (Mod × Cpl) :=
  match r.events with
  | c :: cs => some (m.putRing k { r with events := cs }, c)
  | [] => (m.headCpl k r).map fun x => m.settleHead k r x.1 x.2

/-- A completion of a SEND or RECEIVE ring is written (R416, R419, R446): kept pending for a frozen instance where room is short;
discarded when the owner's generation has changed, or its COMPLETION ring is gone. -/
def Mod.cplStep (m : Mod) (k : Nat) (last : Bool) : Mod :=
  match m.ring k with
  | none => m
  | some r =>
    let ck := ringKey 2 r.peer
    match m.takeCpl k r with
    | none => m
    | some (m', c) =>
      match m.ring ck with
      | none => m'
      | some cr =>
        let held := if k / 65536 = 1 && r.events.isEmpty then 0 else m.reserved ck
        if !m.issues (m.ringFn r) || m.fenceFull (m.ringFn r) || !cr.takes then m
        else if c.kind ≠ 2 && decide (c.gen ≠ m.ownerGen r.owner) then m'.splCount r.owner 11
        else if m.ownerStill r.owner && (!cr.pend.isEmpty || !cr.room 1 held) then m'.modRing ck fun x => { x with pend := x.pend ++ [c] }
        else if !cr.pend.isEmpty then m
        else if cr.room 1 held then m'.writeCpl ck c last
        else m.askRoom ck false

/-- A pending completion is written, once the instance runs again (R446). -/
def Mod.pendStep (m : Mod) (ck : Nat) (last : Bool) : Mod :=
  match m.ring ck with
  | none => m
  | some cr =>
    match cr.pend with
    | [] => m
    | c :: cs =>
      if m.ownerStill cr.owner || !cr.takes || !m.issues (m.ringFn cr) || m.fenceFull (m.ringFn cr) then m
      else if cr.room 1 (m.reserved ck) then (m.putRing ck { cr with pend := cs }).writeCpl ck c last
      else m.askRoom ck false

/-- Writes pending completions while there is room. -/
def Mod.pendAll (m : Mod) (ck : Nat) : Nat → Mod
  | 0 => m
  | n + 1 => (m.pendStep ck (n = 0)).pendAll ck n

/-! ### Replies (R49, R400, R420) -/

/-- The reply ring of a reply: that of its admin ring; the owner's last one where the admin ring has gone. -/
def Mod.replyRing (m : Mod) (r : Reply) : Option Nat :=
  match r.src with
  | .admin n =>
    match m.ring (ringKey 3 n) with
    | some a => if ownerMid a.owner = r.mid then some (ringKey 2 a.peer) else none
    | none => (m.spl.rings.find? fun x => decide (x.1 / 65536 = 2 ∧ x.2.attr = 1 ∧ ownerMid x.2.owner = r.mid)).map (·.1)
  | _ => none

/-- The oldest reply of admin ring `n` is written to its reply ring; with no ring left it is dropped. (DEDUCED, log 61) -/
def Mod.replyStep (m : Mod) (n : Nat) (last : Bool) : Mod :=
  match m.replies.find? fun r => decide (r.src = .admin n) with
  | none => m
  | some r =>
    let m' : Mod := { m with replies := m.replies.erase r }
    match m.replyRing r with
    | none => m'
    | some k =>
      match m.ring k with
      | none => m'
      | some cr =>
        let units := ceilDiv r.bytes.length 32
        if !m.issues (m.ringFn cr) || m.fenceFull (m.ringFn cr) || !cr.takes then m
        else if cr.room units 0 then (m'.writeEntry k r.bytes units 0 (decide (r.opcode = 0)) last).emit (.ringReply n r)
        else m.askRoom k false

/-- COMPLETION_WRITE: the next completion, RING_EVENT or reply of source ring `n` of a kind; of a COMPLETION ring, its next pending
completion. `last`: it ends a delivery burst (R387). -/
def execCompletionWrite (kind : Fin 4) (n : Fin 65536) (last : Bool) (s : State) : Host.Outcome State Fault Refusal :=
  run s fun m =>
    if kind = 3 then m.replyStep n last
    else if kind = 2 then m.pendStep (ringKey 2 n) last
    else (m.cplStep (ringKey kind n) last).fetchMore (ringKey kind n)

/-! ### Ring errors (R402, R415, R426) -/

/-- An ACTIVE ring enters ERROR; a SEND or RECEIVE ring has a RING_EVENT to write, an ADMIN ring an error reply. -/
def Mod.ringError (m : Mod) (k cause : Nat) : Mod :=
  match m.ring k with
  | none => m
  | some r =>
    if r.state ≠ 1 then m
    else
      let ev : Cpl := { kind := 2, status := stInvalid, nbuf := k / 65536, ring := k % 65536, reason := cause, consumed := some r.consumed,
                        gen := m.ownerGen r.owner }
      let r' := { r with state := 4, cause := cause, events := if k / 65536 < 2 then r.events ++ [ev] else r.events }
      let m := (m.putRing k r').splCount r.owner 5
      if k / 65536 ≠ 3 then m
      else
        let c : Cmd := { src := .admin (k % 65536), mid := ownerMid r.owner, opcode := 0, inst := if r.owner < 4096 then r.owner else 0xFFFF }
        { m with replies := m.replies ++ [m.mkReply c { status := stInvalid, errDetail := 0x100 + cause }] }

/-! ### The end of a ring (R426) -/

/-- Drops the packets that wait to be delivered to ring `n`; their number. -/
def Mod.dropDeliveries (m : Mod) (n cause : Nat) : Mod × Nat :=
  (List.range 8).foldl (fun (a : Mod × Nat) b => (List.range 4).foldl (fun (a : Mod × Nat) h => (List.range 8).foldl (fun (a : Mod × Nat) c =>
    let k := egKey b (96 + h) c
    ((a.1.egq k).filter fun e => decide (e.ring = n)).foldl (fun (a : Mod × Nat) e =>
      let o := match a.1.recvRing n with | some r => r.owner | none => 0
      (((a.1.dropEntryOf k e.id).subInst o e.pkt.cells).sendLost e.pkt cause, a.2 + 1)) a) a) a) (m, 0)

/-- Frees the cells that admission gave to entries whose data is being read. -/
def Mod.freeCharges (m : Mod) (r : Ring) : Mod := m.freeAll (r.entries.flatMap (·.charge))

/-- A ring is FREE: nothing of it remains. -/
def Mod.freeRing (m : Mod) (k : Nat) : Mod :=
  match m.ring k with
  | none => m
  | some r =>
    let m := m.freeCharges r
    let m : Mod := if k / 65536 = 0 then { m with plt := { m.plt with sends := m.plt.sends.filter fun x => decide (x.2.ring ≠ k) } } else m
    m.setSpl fun s => { s with rings := tdel s.rings k }

/-- The stored image of SPL_RING (R428's registers). -/
def Mod.ringWord (m : Mod) (k : Nat) : Nat :=
  match m.ring k with
  | none => 0
  | some r =>
    r.state + r.cause * 2 ^ 3 + r.log2 * 2 ^ 6 + r.group * 2 ^ 11 + r.attr * 2 ^ 17 + r.peer * 2 ^ 20 +
      (if r.owner < 4096 then r.owner else 0) * 2 ^ 36 + b2n (decide (4096 ≤ r.owner)) * 2 ^ 48 + m.ownerEp r.owner * 2 ^ 49

end Sys2Proof.Machine
end

