-- ==== Sys2Proof/Machine/NvmeQueues.lean ====
section
/-! DEFINITION. Queues of the NVMe controllers: posting completions, interrupts, what a reset or a release leaves (R459 to R462, R470). -/

namespace Sys2Proof.Machine

/-- Changes the storage offload's state. -/
def Mod.setSto (m : Mod) (f : Sto → Sto) : Mod := { m with sto := f m.sto }

/-- The controller of a storage instance. -/
def Mod.ctl (m : Mod) (i : Nat) : Nvme := tgetD m.sto.ctls i {}

/-- Puts a controller. -/
def Mod.putCtl (m : Mod) (i : Nat) (c : Nvme) : Mod := m.setSto fun s => { s with ctls := tput s.ctls i c }

/-- Changes a controller. -/
def Mod.modCtl (m : Mod) (i : Nat) (f : Nvme → Nvme) : Mod := m.putCtl i (f (m.ctl i))

/-- The instance is a storage instance (R429). -/
def Mod.isStorage (m : Mod) (i : Nat) : Bool := m.instExists i && m.flag F.INST_STATUS_KIND [i]

/-- The slice of an instance's host link. -/
def Mod.instSlice (m : Mod) (i : Nat) : Nat := (m.instFn i).ep / 4

/-- Counts in STO_CNT of an instance's slice (R473). -/
def Mod.stoCount (m : Mod) (i k : Nat) (n : Nat := 1) : Mod := m.count F.STO_CNT_COUNT [m.instSlice i, k] n

/-- A status: SCT, SC and DNR in their places above the phase bit. (PRESUMED, log 65) -/
def nvStatus (sct sc : Nat) (dnr : Bool := false) : Nat := sc + sct * 2 ^ 8 + b2n dnr * 2 ^ 14

/-- The message of a completion queue is raised. -/
def Mod.cqMessage (m : Mod) (i q : Nat) (x : Cq) : Mod :=
  (m.modCtl i fun c => { c with cqs := tput c.cqs q { x with unsent := 0 } }).raise (m.instFn i) x.vector

/-- The controller and the queue behind a number of the COMPLETION ring pool (R459). (DEDUCED, log 60) -/
def Mod.cqOfNum (m : Mod) (n : Nat) : Option (Nat × Nat × Cq) :=
  m.sto.ctls.findSome? fun (c : Nat × Nvme) => (c.2.cqs.find? fun (q : Nat × Cq) => decide (q.2.num = n)).map fun q => (c.1, q.1, q.2)

/-- MODERATION_TIMER: MOD_US after the first of the entries written since the last message of a completion ring; of a storage queue, its
aggregation time of 100 µs units (R462). (DEDUCED, log 60) -/
def execModerationTimer (n : Fin 65536) (s : State) : Host.Outcome State Fault Refusal :=
  run s fun m =>
    match m.ring (ringKey 2 n), m.cqOfNum n with
    | some r, _ =>
      if r.unsent = 0 || r.modUs = 0 || !r.takes then m else (m.runToNs (r.firstAt + r.modUs * 1000)).cplMessage (ringKey 2 n) r
    | none, some (i, q, x) =>
      let units := (m.ctl i).coal / 256 % 256
      if x.unsent = 0 || units = 0 then m else (m.runToNs (x.firstAt + units * 100000)).cqMessage i q x
    | none, none => m

/-- Interrupts after an entry of queue `q` (R462). -/
def Mod.cqInterrupt (m : Mod) (i q : Nat) (error : Bool) : Mod :=
  let c := m.ctl i
  match tget c.cqs q with
  | none => m
  | some x =>
    if !x.ien then m
    else
      let x := { x with unsent := x.unsent + 1, firstAt := if x.unsent = 0 then m.ns else x.firstAt }
      if error || q = 0 || c.cds.contains x.vector || c.coal / 256 % 256 = 0 || decide (c.coal % 256 + 1 ≤ x.unsent) then m.cqMessage i q x
      else m.modCtl i fun c => { c with cqs := tput c.cqs q x }

/-- The 16 bytes of a completion entry (R461): Dword 0, the SQ's head and number, the identifier, phase and status. -/
def nvCqe (head : Nat) (phase : Bool) (c : NvCpl) : List Byte :=
  leBytes 4 c.dw0 ++ leBytes 4 0 ++ leBytes 2 head ++ leBytes 2 c.sq ++ leBytes 2 c.cid ++ leBytes 2 (b2n phase + 2 * c.status)

/-- The oldest completion that waits in queue `q` is written, when the queue has room. A controller with CFS completes nothing. -/
def Mod.cqStep (m : Mod) (i q : Nat) : Mod :=
  let c := m.ctl i
  match tget c.cqs q with
  | none => m
  | some x =>
    match x.wait with
    | [] => m
    | e :: es =>
      if c.cfs || !m.issues (m.instFn i) || (x.tail + 1) % x.size = x.head then m
      else
        let head := match tget c.sqs e.sq with | some s => s.head | none => 0
        let m := m.hostWrite (m.instFn i) (x.base + 16 * x.tail) none (nvCqe head x.phase e)
        let next := (x.tail + 1) % x.size
        let y : Cq := { x with wait := es, tail := next, phase := if next = 0 then !x.phase else x.phase }
        (m.modCtl i fun c => { c with cqs := tput c.cqs q y }).cqInterrupt i q (decide (e.status ≠ 0))

/-- Writes the completions that wait in queue `q` while it has room. -/
def Mod.cqFlush (m : Mod) (i q : Nat) : Nat → Mod
  | 0 => m
  | n + 1 => (m.cqStep i q).cqFlush i q n

/-- The completion of a command of queue `sq` is posted to its CQ; one that finds no room waits and is counted (R461). An error is
entered in the Error Information log. -/
def Mod.nvPost (m : Mod) (i : Nat) (e : NvCpl) : Mod :=
  let c := m.ctl i
  let q := match tget c.sqs e.sq with | some s => s.cq | none => 0
  match tget c.cqs q with
  | none => m
  | some x =>
    let entry := leBytes 8 (c.errCount + 1) ++ leBytes 2 e.sq ++ leBytes 2 e.cid ++ leBytes 2 (2 * e.status) ++ List.replicate 50 0
    let c := if e.status = 0 then c else { c with errCount := c.errCount + 1, errors := (entry :: c.errors).take 16 }
    let m := (m.putCtl i { c with cqs := tput c.cqs q { x with wait := x.wait ++ [e] } }).cqFlush i q 1
    match tget (m.ctl i).cqs q with
    | some y => if !y.wait.isEmpty && (y.tail + 1) % y.size = y.head then m.splCount i 10 else m
    | none => m

/-- The identifier of a command. -/
def NvCmd.cid (c : NvCmd) : Nat := leAt c.raw 2 2
/-- Its opcode. -/
def NvCmd.op (c : NvCmd) : Nat := leAt c.raw 0 1

/-- The mapping of namespace `n` of an instance (R464): target, READ_ONLY, remote namespace; none where VALID is 0. -/
def Mod.nsMap (m : Mod) (i n : Nat) : Option (Nat × Bool × Nat) :=
  if n = 0 || 16 < n then none
  else
    let x := [m.instSlice i, i, n - 1]
    if m.flag F.STO_NS_VALID x then some (m.get F.STO_NS_TARGET x, m.flag F.STO_NS_READ_ONLY x, m.get F.STO_NS_REMOTE_NSID x) else none

/-- The association of target `t` of a slice. -/
def Mod.assoc (m : Mod) (s t : Nat) : Assoc := tgetD m.sto.assocs (s * 64 + t) {}

/-- What the target told of namespace `n` of an instance. -/
def Mod.nsInfo (m : Mod) (i n : Nat) : Option NsInfo :=
  match m.nsMap i n with
  | some (t, _, r) => tget (m.assoc (m.instSlice i) t).ns r
  | none => none

/-- STATE of the association with target `t` of a slice (R465): 0 DISABLED, 1 CONNECTING, 2 LIVE, 3 RETRY_WAIT, 4 LOST. -/
def Mod.tgtState (m : Mod) (s t : Nat) : Nat := m.get F.STO_TGT_STATUS_STATE [s, t]

/-- A Flush of a remote namespace. -/
def nvFlush (nsid : Nat) : List Byte := overlay (List.replicate 64 0) 4 (leBytes 4 nsid)

/-- What the end of a command may let happen: the deletion of an SQ that waited (R459); the flushes of a shutdown, once nothing but
Asynchronous Event Requests is outstanding, and then its end (R456). (DESIGN CHOICE, log 67) -/
def Mod.nvAfter (m : Mod) (i : Nat) : Mod :=
  let c := m.ctl i
  let gone := c.sqs.filter fun (q : Nat × Sq) => q.2.delete.isSome && !c.cmds.any fun d => decide (d.sq = q.1)
  let m := gone.foldl (fun m (q : Nat × Sq) =>
    let cid := q.2.delete.getD 0
    (m.modCtl i fun x => { x with sqs := tdel x.sqs q.1, cmds := x.cmds.filter fun d => !(d.sq = 0 && d.cid = cid && d.stage = .deleting) }).nvPost i
      { sq := 0, cid := cid }) m
  let c := m.ctl i
  if c.shst ≠ 1 || c.cmds.any fun d => decide (d.stage ≠ .aer) then m
  else match c.flushes with
    | some [] => m.modCtl i fun x => { x with shst := 2 }
    | some _ => m
    | none =>
      let l := (List.range 17).filterMap fun n => match m.nsMap i n with
        | some (t, _, r) => if (m.assoc (m.instSlice i) t).vwc && decide (m.tgtState (m.instSlice i) t = 2) then some (n, t, r) else none
        | none => none
      let m := l.foldl (fun m x => m.emit (.target (m.instSlice i) x.2.1 1 4 (nvFlush x.2.2))) m
      m.modCtl i fun x => { x with flushes := some (l.map (·.1)), shst := if l.isEmpty then 2 else 1 }

/-- A command ends: it leaves the controller, and its completion is posted. -/
def Mod.nvEnd (m : Mod) (i : Nat) (c : NvCmd) (status : Nat) (dw0 : Nat := 0) : Mod :=
  ((m.modCtl i fun x => { x with cmds := x.cmds.filter fun d => !(d.sq = c.sq && d.cid = c.cid) }).nvPost i
    { sq := c.sq, cid := c.cid, dw0 := dw0, status := status }).nvAfter i

/-- NSID of a command. -/
def NvCmd.ns (c : NvCmd) : Nat := leAt c.raw 4 4

/-- The bytes a command transfers (R458): of a read or a write its blocks, of Dataset Management its ranges. -/
def Mod.nvLen (m : Mod) (i : Nat) (c : NvCmd) : Nat :=
  if c.sq = 0 then 0
  else if c.op = 1 || c.op = 2 then (leAt c.raw 48 2 + 1) * 2 ^ ((tget (m.assoc (m.instSlice i) c.target).ns c.nsid).map fun (x : NsInfo) => x.lbads).getD 9
  else if c.op = 9 then (leAt c.raw 40 1 + 1) * 16
  else 0

/-- The next command of a controller (R461): queues round robin, one entry per round. -/
def Mod.nvNext (m : Mod) (i : Nat) : Option NvCmd :=
  let c := m.ctl i
  let l := c.cmds.filter fun d => d.stage = .read
  if c.cfs then none
  else
    let after := l.filter fun d => decide (c.lastSq < d.sq)
    let least := fun (l : List NvCmd) => l.foldl (fun (a : Option NvCmd) d =>
      match a with | some x => if d.sq < x.sq then some d else a | none => some d) none
    (least after).or (least l)

/-- Transient Transport Error. -/
def nvTransient : Nat := nvStatus 0 0x22

/-- A reset of the instance (R456, R470): queues, commands and features go; `keep`: the write of CC.EN that caused it leaves CC and the
admin queue registers. RDY falls when the reset ends. (DESIGN CHOICE, log 66) -/
def Mod.stoReset (m : Mod) (i : Nat) (keep : Bool) : Mod :=
  match tget m.sto.ctls i with
  | none => m
  | some c =>
    let d : Nvme := { rdy := c.rdy, unitsRead := c.unitsRead, unitsWritten := c.unitsWritten, hostReads := c.hostReads,
                      hostWrites := c.hostWrites }
    m.putCtl i (if keep then { d with cc := c.cc, aqa := c.aqa, asq := c.asq, acq := c.acq } else d)

/-- The reset has ended: RDY is 0. -/
def Mod.stoResetDone (m : Mod) (i : Nat) : Mod :=
  match tget m.sto.ctls i with
  | some c => m.putCtl i { c with rdy := false }
  | none => m

/-- A release by RESUME (R470): commands that the freeze cut, in the fetching of their data or at a target, complete with Transient
Transport Error; entries that were being read are read again. (DESIGN CHOICE, log 67) -/
def Mod.stoResume (m : Mod) (i : Nat) : Mod :=
  let c := m.ctl i
  let hit := c.cmds.filter fun d => d.stage = .sent || d.stage = .data || d.stage = .list
  let m := m.putCtl i { c with sqs := c.sqs.map fun (s : Nat × Sq) => (s.1, { s.2 with asked := s.2.head }) }
  hit.foldl (fun m d => m.nvEnd i d nvTransient) m

end Sys2Proof.Machine
end

