-- ==== Sys2Proof/Machine/Selvedge.lean ====
section
/-! DEFINITION. *Selvedge host endpoint*: freezes and their release (R378, R381 to R383), resets of functions and links (R384 to
R386), link events (R364), MSI-X (R372), ATS (R374). -/

namespace Sys2Proof.Machine

/-! ### Functions and instances -/

/-- The instance bound to a function (R430). -/
def Mod.instOf (m : Mod) (f : Fn) : Option Nat :=
  (m.spl.insts.find? fun x => m.instExists x.1 && decide (m.instFn x.1 = f)).map (·.1)

/-- The owner number of a function: its instance, or its PF. -/
def Mod.ownerOf (m : Mod) (f : Fn) : Option Nat := match f.vf with | none => some (4096 + f.ep) | some _ => m.instOf f

/-- The master identity of a function. -/
def Mod.fnMid (m : Mod) (f : Fn) : Option Nat := (m.ownerOf f).map ownerMid

/-- The VFs of an endpoint that exist or carry an instance. -/
def Mod.vfsOf (m : Mod) (e : Nat) : List Fn :=
  let x := m.fnCfg (pf e)
  let live := if x.vfEnable then (List.range x.numVfs).map fun v => (⟨e, some v⟩ : Fn) else []
  let bound := (m.spl.insts.filter fun i => m.instExists i.1 && decide ((m.instFn i.1).ep = e)).map fun i => m.instFn i.1
  live ++ bound.filter fun f => !live.contains f

/-! ### The end of an owner's work (R84, R385, R426) -/

/-- SPL_OWNER takes its FN reset values; WEIGHT stays. -/
def Mod.resetOwnerReg (m : Mod) (o : Nat) : Mod :=
  if o < 4096 then
    let x := [m.ownerSlice o, o]
    (((m.set F.SPL_OWNER_INST_SUM_EN x 0).set F.SPL_OWNER_INST_K x 4).set F.SPL_OWNER_INST_STRETCHED x 0).set F.SPL_OWNER_INST_POLLS_TO_SWEEP x 1023
  else
    let x := [m.ownerSlice o, (o - 4096) % 4]
    (((m.set F.SPL_OWNER_PF_SUM_EN x 0).set F.SPL_OWNER_PF_K x 4).set F.SPL_OWNER_PF_STRETCHED x 0).set F.SPL_OWNER_PF_POLLS_TO_SWEEP x 1023

/-- Every ring of an owner is FREE; packets that waited for its deliveries are dropped and their number told; nothing is written; its
summary line is forgotten. (DEDUCED, log 53) -/
def Mod.endOwner (m : Mod) (o : Nat) : Mod × Nat :=
  let ks := (m.ringsOf o).map (·.1)
  let (m, n) := ks.foldl (fun (a : Mod × Nat) k =>
    if k / 65536 = 1 then let (m, n) := a.1.dropDeliveries (k % 65536) 7; (m, a.2 + n) else a) (m, 0)
  let m := ks.foldl (fun m k => m.freeRing k) m
  let m : Mod := { m with replies := m.replies.filter fun r => decide (r.mid ≠ ownerMid o) }
  ((m.setSpl fun s => { s with owners := tdel s.owners o }).resetOwnerReg o, n)

/-- The generation after `g` (R438). (DEDUCED, log 56) -/
def genNext (g : Nat) : Nat := if g = 0xFFFF then 1 else g + 1

/-- An instance's generation rises. (DEDUCED, log 56) -/
def Mod.genUp (m : Mod) (i : Nat) : Mod :=
  let g := genNext (m.instGen i)
  (m.set F.INST_STATUS_GENERATION [i] g).setSpl fun s => { s with lastGen := tput s.lastGen i g }

/-- Changes what an instance holds. -/
def Mod.modInst (m : Mod) (i : Nat) (f : Inst → Inst) : Mod := m.setSpl fun s => { s with insts := tadj s.insts i f }

/-- What an instance holds. -/
def Mod.inst (m : Mod) (i : Nat) : Inst := tgetD m.spl.insts i {}

/-- The FN reset of the instance behind a VF (R385, R441, R444); one that is RESETTING absorbs it. (DEDUCED, log 62) -/
def Mod.instReset (m : Mod) (i : Nat) (keep : Bool) : Mod :=
  let st := m.instState i
  if st = 4 then m
  else
    let wait := (m.inst i).freeze
    let m := (m.set F.INST_STATUS_STATE [i] 4).modInst i fun x => { x with back := if st = 1 then 1 else 3, freeze := none }
    let m := (m.genUp i).die (0x2000 + i)
    let (m, n) := m.endOwner i
    let m := (m.selCount (m.instFn i).ep 1 n).endInstObjs i
    let m := ((m.set F.INST_EVENT_RESIZED [i] 0).set F.INST_EVENT_RESUMED [i] 0).set F.INST_EVENT_RESTORED [i] 0
    let m := ((m.set F.INST_EVENT_BOOT_DONE [i] 0).resetReg .INST_BOOT [i]).resetReg .INST_BOOT_STATUS [i]
    let m := m.stoReset i keep
    match wait with
    | some c => m.reply c { status := stAborted, late := true }
    | none => m

/-- What every FN reset of a function does beside its owner's death: reads stale, registrations released, configuration at its reset
values, its reset under way. -/
def Mod.fnScrub (m : Mod) (f : Fn) : Mod :=
  let m := m.markReads f.ep (fun r => decide (r.fn = f)) fun r => { r with stale := true }
  let m := m.dropPair f
  let x := tgetD m.msix (fnKey f) {}
  let m : Mod := { m with msix := tput m.msix (fnKey f) { size := x.size } }
  let m := match f.vf with
    | none => m
    | some v =>
      let ix := epIx f.ep ++ [v]
      let n := m.get F.SEL_VF_CFG_VECTORS ix
      (m.resetReg .SEL_VF_CFG ix).set F.SEL_VF_CFG_VECTORS ix n
  m.setSel fun s => { s with cfg := tdel s.cfg (fnKey f), fences := tdel s.fences (fnKey f),
                             inReset := if s.inReset.contains f then s.inReset else s.inReset ++ [f] }

/-- A reset of one VF. -/
def Mod.vfReset (m : Mod) (f : Fn) (keep : Bool := false) : Mod :=
  match m.instOf f with
  | some i => if m.instState i = 4 then m else (m.instReset i keep).fnScrub f
  | none => m.fnScrub f

/-- A reset of the PF's own function. (DESIGN CHOICE, log 52) -/
def Mod.pfReset (m : Mod) (e : Nat) : Mod :=
  let g := genNext (tgetD m.spl.lastGen (4096 + e) 0)
  let m := (m.setSpl fun s => { s with lastGen := tput s.lastGen (4096 + e) g }).die (0x1000 + e)
  let (m, n) := m.endOwner (4096 + e)
  (m.selCount e 1 n).fnScrub (pf e)

/-- Resets the VFs of an endpoint. (DESIGN CHOICE, log 52) -/
def Mod.vfsReset (m : Mod) (e : Nat) : Mod := (m.vfsOf e).foldl (fun m f => m.vfReset f) m

/-- The FLR of a PF, which clears VF Enable and so resets every VF (R384). -/
def Mod.pfFlr (m : Mod) (e : Nat) : Mod := (m.vfsReset e).pfReset e

/-! ### Freeze (R378, R381, R383) -/

/-- STATE of a scope: an endpoint, or one of its functions. -/
def Mod.frzState (m : Mod) (e : Nat) (f : Option Fn) : Nat :=
  match f with
  | none => m.get F.SEL_FREEZE_EP_STATE (epIx e)
  | some ⟨_, none⟩ => m.get F.SEL_FREEZE_PF_STATE (epIx e)
  | some ⟨_, some v⟩ => m.get F.SEL_FREEZE_VF_STATE (epIx e ++ [v])

/-- Puts STATE and CAUSE of a scope. -/
def Mod.frzPut (m : Mod) (e : Nat) (f : Option Fn) (st cause : Nat) : Mod :=
  match f with
  | none => (m.set F.SEL_FREEZE_EP_STATE (epIx e) st).set F.SEL_FREEZE_EP_CAUSE (epIx e) cause
  | some ⟨_, none⟩ => (m.set F.SEL_FREEZE_PF_STATE (epIx e) st).set F.SEL_FREEZE_PF_CAUSE (epIx e) cause
  | some ⟨_, some v⟩ =>
    (m.set F.SEL_FREEZE_VF_STATE (epIx e ++ [v]) st).set F.SEL_FREEZE_VF_CAUSE (epIx e ++ [v]) cause

/-- CAUSE of a scope. -/
def Mod.frzCause (m : Mod) (e : Nat) (f : Option Fn) : Nat :=
  match f with
  | none => m.get F.SEL_FREEZE_EP_CAUSE (epIx e)
  | some ⟨_, none⟩ => m.get F.SEL_FREEZE_PF_CAUSE (epIx e)
  | some ⟨_, some v⟩ => m.get F.SEL_FREEZE_VF_CAUSE (epIx e ++ [v])

/-- The address of a scope's SEL_FREEZE. -/
def frzAddr (e : Nat) (f : Option Fn) : Nat :=
  match f with
  | none => regAddr .SEL_FREEZE_EP (epIx e)
  | some ⟨_, none⟩ => regAddr .SEL_FREEZE_PF (epIx e)
  | some ⟨_, some v⟩ => regAddr .SEL_FREEZE_VF (epIx e ++ [v])

/-- A function lies in a scope. (DESIGN CHOICE, log 55) -/
def inScope (e : Nat) (f : Option Fn) (g : Fn) : Bool := match f with | none => decide (g.ep = e) | some h => decide (g = h)

/-- The rings of a scope that run become FROZEN (R426). -/
def Mod.freezeRings (m : Mod) (e : Nat) (f : Option Fn) : Mod :=
  m.setSpl fun s => { s with rings := s.rings.map fun (r : Nat × Ring) =>
    (if inScope e f (m.ringFn r.2) && (r.2.state = 1 || r.2.state = 2 || r.2.state = 4)
     then (r.1, { r.2 with state := 3, before := r.2.state }) else r) }

/-- The rings of a scope that are no longer in any freeze return to the state they left. -/
def Mod.thawRings (m : Mod) (e : Nat) (f : Option Fn) : Mod :=
  m.setSpl fun s => { s with rings := s.rings.map fun (r : Nat × Ring) =>
    (if inScope e f (m.ringFn r.2) && decide (r.2.state = 3) && !m.frozen (m.ringFn r.2)
     then (r.1, { r.2 with state := r.2.before, reading := false, asked := false, hiddenAt := none }) else r) }

/-- The commands of a scope that the Cutter has not started are answered FROZEN (R381). (DEDUCED, log 56) -/
def Mod.freezeCmds (m : Mod) (e : Nat) (f : Option Fn) : Mod :=
  let hit := m.cut.pool.filter fun x => decide (x.stage ≠ .executing) &&
    (match m.midFn x.cmd.mid with | some g => inScope e f g | none => false)
  hit.foldl (fun m x => m.reply x.cmd { status := stFrozen, late := true }) m

/-- An error of R378 with a scope: the AER message, then the freeze; in a scope already frozen only the message; during a release the
freeze follows it. -/
def Mod.freeze (m : Mod) (e : Nat) (f : Option Fn) (cause : Nat) : Mod :=
  let m := m.emit (.aer e cause)
  match m.frzState e f with
  | 0 =>
    let m := (m.freezeRings e f).frzPut e f 1 cause
    let m := (m.selCount e 13).error 2 (if f.isNone then 1 else 2) (frzAddr e f)
      (leBytes 1 e ++ leBytes 1 cause ++ leBytes 2 (match f with | some ⟨_, some v⟩ => v | _ => 0xFFFF))
    let m := m.markReads e (fun r => inScope e f r.fn) fun r => { r with gone := true }
    let m := if cause = 5 then m.setSel fun s => { s with ide := s.ide.filter (· ≠ e), streams := tdel s.streams e } else m
    m.freezeCmds e f
  | 2 => m.setSel fun s => { s with releases := s.releases.map fun r =>
      (if decide (r.ep = e ∧ r.fn = f) then { r with again := r.again.or (some cause) } else r) }
  | _ => m

/-- PCIE_ERROR: an error that the link layers find: causes 2 to 6 freeze the endpoint of `f`; cause 10 is a Translation Completion of
`f` with UR or CA status (R374, R378). -/
def execPcieError (f : Fn) (cause : Fin 16) (s : State) : Host.Outcome State Fault Refusal :=
  run s fun m =>
    if !m.linkUp f.ep then m
    else if 2 ≤ cause.val && cause.val ≤ 6 then m.freeze f.ep none cause
    else if cause = 10 && m.fnExists f then (m.selCount f.ep 8).freeze f.ep (some f) 10
    else m

/-! ### Release (R382, R383) -/

/-- Reads the doorbell record of a ring whose PRODUCED or CONSUMED is wanted. -/
def Mod.readRecord (m : Mod) (k : Nat) : Mod :=
  match m.ring k with
  | some r => if r.state = 1 || (k / 65536 = 2 && r.takes) then m.hostRead (m.ringFn r) r.record 8 r.pasid (.doorbell k) else m
  | none => m

/-- A sweep of an owner (R407): the doorbell record of every ring is read. -/
def Mod.sweep (m : Mod) (o : Nat) : Mod := ((m.ringsOf o).map (·.1)).foldl (fun m k => m.readRecord k) (m.splCount o 2)

/-- Writes what completions of a source ring can be written. -/
def Mod.cplAll (m : Mod) (k : Nat) : Nat → Mod
  | 0 => m
  | n + 1 => (m.cplStep k (n = 0)).cplAll k n

/-- Receives whose completion was not written, and sends whose data reads were outstanding, complete with ABORTED (R382). -/
def abortCut (k : Nat) (e : RingEntry) : RingEntry :=
  match e.cpl with
  | some c => if k / 65536 = 1 then { e with cpl := some { c with status := stAborted } } else e
  | none =>
    if k / 65536 = 0 && e.stage = .fetching then
      { e with stage := .busy, charge := [], cpl := some (sendCpl (k % 65536) e stAborted) }
    else e

/-- The steps of RESUME for the owner of a function. (DESIGN CHOICE, log 55) -/
def Mod.resumeOwner (m : Mod) (o : Nat) : Mod :=
  let ks := (m.ringsOf o).map (·.1)
  let m := ks.foldl (fun m k =>
    match m.ring k with
    | some r =>
      let m := if k / 65536 = 0 then m.freeAll ((r.entries.filter fun e => e.stage = .fetching).flatMap (·.charge)) else m
      (m.putRing k { r with entries := r.entries.map (abortCut k) }).cplAll k (if k / 65536 < 2 then r.entries.length else 0)
    | none => m) m
  (m.modOwner o fun x => { x with asked := false }).sweep o

/-- Raises every vector of a function whose MSI-X Enable is 1 and whose mask is clear, once. -/
def Mod.raiseAll (m : Mod) (f : Fn) : Mod :=
  let x := tgetD m.msix (fnKey f) {}
  if !x.enable then m
  else (List.range x.size).foldl (fun m v => if (tgetD x.vecs v {}).mask then m else m.raise f v) m

/-- RESUME of one function (R382). -/
def Mod.resumeFn (m : Mod) (f : Fn) : Mod :=
  if m.frozen f then m
  else
    let m := m.setSel fun s => { s with fences := tdel s.fences (fnKey f) }
    let m := match m.ownerOf f with
      | some o => if o < 4096 && m.isStorage o then m.stoResume o else m.resumeOwner o
      | none => m
    let m := m.setTack fun t => { t with pairs := t.pairs.map fun (x : Fn × TimePair) =>
      (if decide (x.1 = f) then (x.1, { x.2 with first := true }) else x) }
    m.raiseAll f

/-- The functions of a scope. -/
def Mod.scopeFns (m : Mod) (e : Nat) (f : Option Fn) : List Fn := match f with | none => pf e :: m.vfsOf e | some g => [g]

/-- LINK_RELEASE (R382): its checks, and the resets of MODE RESET; the other MODE is another row's. (DESIGN CHOICE, log 55) -/
def Mod.linkRelease (m : Mod) (c : Cmd) (resume : Bool) : Mod :=
  let v := c.val 0x100
  let e := leAt v 0 1
  let vf := leAt v 2 2
  let mode := leAt v 4 1
  let c := { c with opcode := 0x000C }
  if !(c.tlv 0x100).isNone && mode < 2 && decide (mode = 1) ≠ resume then m
  else m.runCmd c 0x000C [] fun m =>
    let f : Option Fn :=
      if vf ≠ 0xFFFF then some ⟨e, some vf⟩
      else if m.frzState e none ≠ 1 && m.frzState e (some (pf e)) = 1 then some (pf e) else none
    if 31 < e || 1 < mode || (vf ≠ 0xFFFF && 1023 < vf) then (m, some c.bad)
    else if vf ≠ 0xFFFF && m.frzState e none ≠ 0 then (m, some (c.bad 3))
    else if m.frzState e f ≠ 1 then (m, some (c.bad 1))
    else if !m.linkUp e then (m, some { status := stBusy, errDetail := 2 })
    else
      let cause := m.frzCause e f
      let m := (m.frzPut e f 2 cause).setSel fun s => { s with releases := s.releases ++ [{ cmd := c, ep := e, fn := f, resume := resume }] }
      if resume || cause = 1 then (m, none)
      else
        (match f with
         | some ⟨_, some _⟩ => m.vfReset ⟨e, some vf⟩
         | _ => m.pfFlr e, none)

/-- LINK_RELEASE_RESET. -/
def execLinkReleaseReset (c : Cmd) (s : State) : Host.Outcome State Fault Refusal := run s fun m => m.linkRelease c false

/-- LINK_RELEASE_RESUME. -/
def execLinkReleaseResume (c : Cmd) (s : State) : Host.Outcome State Fault Refusal := run s fun m => m.linkRelease c true

/-- LINK_RELEASE_DONE: the oldest release on an endpoint ends: under RESUME its steps; the scope is RUNNING; an error that came
meanwhile freezes it again. (DESIGN CHOICE, log 55) -/
def execLinkReleaseDone (e : Fin 32) (s : State) : Host.Outcome State Fault Refusal :=
  run s fun m =>
    match m.sel.releases.find? fun r => decide (r.ep = e.val) with
    | none => m
    | some r =>
      let m := m.setSel fun s => { s with releases := s.releases.erase r }
      let m := (m.frzPut e r.fn 0 0).thawRings e r.fn
      let m := if r.resume then (m.scopeFns e r.fn).foldl (fun m f => m.resumeFn f) m else m
      let m := m.reply r.cmd {}
      match r.again with
      | some cause => m.freeze e r.fn cause
      | none => m

/-! ### Link resets (R364, R384, R386) -/

/-- Every release under way on an endpoint is abandoned: FROZEN with SURPRISE_DOWN (R383). -/
def Mod.abandonReleases (m : Mod) (e : Nat) : Mod :=
  let rs := m.sel.releases.filter fun r => decide (r.ep = e)
  let m := m.setSel fun s => { s with releases := s.releases.filter fun r => decide (r.ep ≠ e) }
  rs.foldl (fun m r => (m.frzPut e r.fn 1 1).reply r.cmd { status := stAborted, late := true }) m

/-- A LINK reset of an endpoint: the data link layer goes down; every function is reset; tags are free at once (R384, R386). -/
def Mod.linkReset (m : Mod) (e : Nat) : Mod :=
  let m := m.selCount e 14 (b2n (m.linkUp e))
  let m := (m.abandonReleases e).pfFlr e
  let m := (m.freeAllTags e).setSel fun s =>
    { s with ats := s.ats.filter fun a => decide (a.fn.ep ≠ e), ide := s.ide.filter (· ≠ e), streams := tdel s.streams e,
             sessions := tdel s.sessions e }
  let m := (m.setTack fun t => { t with ptm := tdel t.ptm e }).resetReg .TCK_HOST_STATUS [e]
  let ix := epIx e
  ((m.set F.SEL_EP_STATUS_LINK_UP ix 0).set F.SEL_EP_STATUS_RATE ix 0).set F.SEL_EP_STATUS_WIDTH ix 0 |>.set F.SEL_EP_STATUS_FLIT ix 0

/-- The half's own PERST_N acts: that of half 0, and that of half 1 on a split link. -/
def Mod.perstActs (m : Mod) (e : Nat) : Bool := e % 2 = 0 || m.sel.split.contains (e / 2)

/-- An endpoint whose PERST_N is high starts training (R364, R371): VECTORS is sampled. -/
def Mod.trainEp (m : Mod) (e : Nat) : Mod :=
  let x := tgetD m.msix (fnKey (pf e)) {}
  let m : Mod := { m with msix := tput m.msix (fnKey (pf e)) { x with size := m.get F.SEL_PF_CFG_VECTORS (epIx e) } }
  (m.set F.SEL_EP_STATUS_PRESENT (epIx e) 1).emit (.linkTrain e)

/-- SPLIT is sampled for the link of endpoint `e` (R364). -/
def Mod.sampleSplit (m : Mod) (e : Nat) : Mod :=
  let h := e / 2
  let now := m.flag F.SEL_LINK_CFG_SPLIT [h / 2, h % 2]
  let was := m.sel.split.contains h
  let half1 := 2 * h + 1
  if now = was then m
  else if now then
    let m := (m.setSel fun s => { s with split := s.split ++ [h] }).set F.SEL_EP_STATUS_PRESENT (epIx half1) 1
    if m.perst.contains half1 && e ≠ half1 then m.trainEp half1 else m
  else
    let m := m.linkReset half1
    (m.setSel fun s => { s with split := s.split.filter (· ≠ h) }).set F.SEL_EP_STATUS_PRESENT (epIx half1) 0

/-- A de-assertion of PERST_N is acted on, from the end of CONFIG (R364, R504); in RECOVERY H00 trains unsplit (R536). -/
def Mod.perstUp (m : Mod) (e : Nat) : Mod :=
  if m.phase = 6 then
    (if e = 0 then (m.set F.SEL_EP_STATUS_PRESENT (epIx 0) 1).emit (.linkTrain 0) else m)
  else if m.phase < 4 || !m.perstActs e then m
  else (m.sampleSplit e).trainEp e

/-- PERST_DEASSERT. -/
def execPerstDeassert (e : Fin 32) (s : State) : Host.Outcome State Fault Refusal :=
  run s fun m =>
    if m.perst.contains e then m
    else Mod.perstUp { m with perst := m.perst ++ [e.val] } e

/-- PERST_ASSERT. (DESIGN CHOICE, log 55) -/
def execPerstAssert (e : Fin 32) (s : State) : Host.Outcome State Fault Refusal :=
  run s fun m =>
    let m : Mod := { m with perst := m.perst.filter (· ≠ e.val) }
    if m.perstActs e && m.present e then m.linkReset e else m

/-- HOT_RESET of an endpoint's link; it trains again. -/
def execHotReset (e : Fin 32) (s : State) : Host.Outcome State Fault Refusal :=
  run s fun m => if m.present e then (m.linkReset e).emit (.linkTrain e) else m

/-- LINK_DOWN: the data link layer goes down; `ordered`: PERST_N, a hot reset or Link Disable came before. A surprise down freezes the
endpoint (R378). -/
def execLinkDown (e : Fin 32) (ordered : Bool) (s : State) : Host.Outcome State Fault Refusal :=
  run s fun m =>
    if !m.linkUp e then m
    else
      let held := m.frzState e none
      let m := m.linkReset e
      if ordered then m else if held = 2 then m.emit (.aer e 1) else m.freeze e none 1

/-- LINK_UP: the data link layer of an endpoint that trains comes up, at a rate and a width that the configuration admits (R363). -/
def execLinkUp (e : Fin 32) (rate : Fin 3) (width : Fin 17) (flit : Bool) (s : State) : Host.Outcome State Fault Refusal :=
  run s fun m =>
    let ix := epIx e
    let most := if m.sel.split.contains (e.val / 2) then 8 else 16
    let top := if m.phase = 6 then 0 else m.get F.SEL_LINK_CFG_MAX_RATE (ix.take 2)
    if !m.present e || !m.perst.contains e && m.perstActs e || !([1, 2, 4, 8, 16].contains width.val) || decide (most < width.val) ||
        decide (top < rate.val) || decide (flit ≠ decide (0 < rate.val)) then m
    else (((m.set F.SEL_EP_STATUS_LINK_UP ix 1).set F.SEL_EP_STATUS_RATE ix rate).set F.SEL_EP_STATUS_WIDTH ix width).setFlag
      F.SEL_EP_STATUS_FLIT ix flit

/-! ### Function resets (R384, R385) -/

/-- FLR of a function that exists. -/
def execFlr (f : Fn) (s : State) : Host.Outcome State Fault Refusal :=
  run s fun m =>
    if !m.fnExists f then m
    else match f.vf with
      | none => m.pfFlr f.ep
      | some _ => m.vfReset f

/-- Clears VF Enable. -/
def Mod.vfEnableClear (m : Mod) (e : Nat) : Mod :=
  (m.vfsReset e).setSel fun s => { s with cfg := tadj s.cfg (fnKey (pf e)) fun c => { c with vfEnable := false } }

/-- VF_ENABLE_CLEAR: every VF is reset. -/
def execVfEnableClear (e : Fin 32) (s : State) : Host.Outcome State Fault Refusal :=
  run s fun m => if (m.fnCfg (pf e)).vfEnable then m.vfEnableClear e else m

/-- D3HOT_TO_D0 of a function: No_Soft_Reset is 0, and that function is reset. (DESIGN CHOICE, log 52; DEDUCED, log 53) -/
def Mod.d3ToD0 (m : Mod) (f : Fn) : Mod :=
  if !(m.fnCfg f).d3 then m
  else match f.vf with
    | none =>
      let c := m.fnCfg f
      (m.pfReset f.ep).setSel fun s => { s with cfg := tput s.cfg (fnKey f) { numVfs := c.numVfs, vfEnable := c.vfEnable } }
    | some _ => m.vfReset f

/-- D3HOT_TO_D0. -/
def execD3hotToD0 (f : Fn) (s : State) : Host.Outcome State Fault Refusal := run s fun m => m.d3ToD0 f

/-- FUNCTION_RESET_DONE: the reset of a function completes: its instance leaves RESETTING; an INST_RESET of the manager is answered. -/
def execFunctionResetDone (f : Fn) (s : State) : Host.Outcome State Fault Refusal :=
  run s fun m =>
    if !m.sel.inReset.contains f then m
    else
      let m := m.setSel fun s => { s with inReset := s.inReset.filter (· ≠ f) }
      match f.vf, m.instOf f with
      | some _, some i =>
        if m.instState i ≠ 4 then m
        else
          let x := m.inst i
          let m := ((m.set F.INST_STATUS_STATE [i] x.back).modInst i fun y => { y with resetCmd := none }).stoResetDone i
          (match x.resetCmd with | some c => m.reply c {} | none => m)
      | _, _ => m

/-! ### MSI-X (R372) -/

/-- Messages of the pending vectors of a function that may go now. -/
def Mod.msixFlush (m : Mod) (f : Fn) : Mod :=
  let x := tgetD m.msix (fnKey f) {}
  if !x.enable || x.fmask || m.frozen f then m
  else (x.vecs.filter fun v => v.2.pending && !v.2.mask).foldl (fun m v =>
    let y := tgetD m.msix (fnKey f) {}
    ({ m with msix := tput m.msix (fnKey f) { y with vecs := tput y.vecs v.1 { v.2 with pending := false } } } : Mod).emit (.msix f v.1 v.2.addr v.2.data)) m

/-- Changes a vector of a function's MSI-X table. -/
def Mod.msixVec (m : Mod) (f : Fn) (v : Nat) (g : MsixVec → MsixVec) : Mod :=
  let x := tgetD m.msix (fnKey f) {}
  if v < x.size then { m with msix := tput m.msix (fnKey f) { x with vecs := tmod x.vecs v {} g } } else m

/-- MSIX_UNMASK: the mask of a vector is cleared; a pending message is sent once. -/
def execMsixUnmask (f : Fn) (v : Fin 2048) (s : State) : Host.Outcome State Fault Refusal :=
  run s fun m => if m.fnExists f then (m.msixVec f v fun x => { x with mask := false }).msixFlush f else m

/-! ### ATS (R374) -/

/-- A read uses an address range of a function. -/
def HostRead.uses (r : HostRead) (f : Fn) (lo hi : Nat) : Bool := decide (r.fn = f ∧ r.addr ≤ hi ∧ lo ≤ r.addr + r.len)

/-- Invalidations whose reads have ended are completed. -/
def Mod.atsDone (m : Mod) : Mod :=
  let (wait, done) := m.sel.ats.partition fun a => m.sel.reads.any fun r => r.2.uses a.fn a.lo a.hi
  done.foldl (fun m a => (m.emit (.atsDone a.fn)).selCount a.fn.ep 15) (m.setSel fun s => { s with ats := wait })

/-- ATS_INVALIDATE of the addresses `lo` to `hi` of a function, answered once reads of the range have ended; writes are issued when
they are made. It is answered in every freeze state while the link is up. -/
def execAtsInvalidate (f : Fn) (lo hi : Nat) (s : State) : Host.Outcome State Fault Refusal :=
  run s fun m =>
    if !m.fnExists f || !m.linkUp f.ep then m
    else (m.setSel fun s => { s with ats := s.ats ++ [{ fn := f, lo := lo, hi := hi }] }).atsDone

end Sys2Proof.Machine
end

