-- ==== Sys2Proof/Machine/Spool.lean ====
section
/-! DEFINITION. *Spool rings and work queues* (chapter 15): polls, doorbell records and entries, service, deliveries, the ring
commands. -/

namespace Sys2Proof.Machine

/-! ### Reading entries (R402, R410) -/

/-- The doorbell record of a ring has been read (R402). -/
def Mod.recordRead (m : Mod) (k : Nat) (bs : List Byte) : Mod :=
  match m.ring k with
  | none => m
  | some r =>
    if k / 65536 = 2 then
      let c := leAt bs 4 4
      if !r.takes then m
      else if r.size < countSub r.produced c then m.ringError k 6
      else m.putRing k { r with consumed := c }
    else
      let p := leAt bs 0 4
      let d := countSub p r.consumed
      if r.state ≠ 1 then m
      else if r.size < d then m.ringError k 1
      else if d < countSub p r.read then m.ringError k 2
      else (m.putRing k { r with produced := p }).fetchEntries k

/-- Units that a send entry must have (R397). -/
def sendUnits (e : RingEntry) : Nat := if e.inline_ then ceilDiv (16 + e.len) 32 else ceilDiv (16 + 16 * e.nsegs) 32

/-- Segment `j` of a gather entry: address and length. -/
def RingEntry.seg (e : RingEntry) (j : Nat) : Nat × Nat := (leAt e.raw (16 + 16 * j) 8, leAt e.raw (24 + 16 * j) 2)

/-- A send entry passes the checks of R398. (DESIGN CHOICE, log 58) -/
def sendOk (e : RingEntry) : Bool :=
  let segs := (List.range e.nsegs).map e.seg
  let flat := (List.range e.nsegs).all fun j => leAt e.raw (26 + 16 * j) 6 = 0
  e.units = sendUnits e && 14 ≤ e.len && e.len ≤ 9600 && leAt e.raw 7 1 = 0 && leAt e.raw 3 1 = 0 &&
    (if e.inline_ then decide (e.len ≤ 2032) && decide (e.nsegs = 0)
     else decide ((segs.map (·.2)).foldl (· + ·) 0 = e.len) && flat &&
       segs.all fun s => decide (1 ≤ s.2 ∧ s.2 ≤ 9600))

/-- An entry as it is taken in: a pad, a buffer, a command, or a send, whose completion is INVALID when it breaks R398. -/
def Mod.newEntry (m : Mod) (k : Nat) (r : Ring) (units : Nat) (pad : Bool) (raw : List Byte) (stamp : Option (Nat × Nat)) : RingEntry × Bool :=
  let e : RingEntry := { at_ := r.read, units := units, pad := pad, gen := m.ownerGen r.owner, raw := raw }
  if pad then ({ e with stage := .done }, false)
  else if k / 65536 ≠ 0 then (e, false)
  else if sendOk e then ((if e.inline_ then { e with stamp := stamp } else e), false)
  else ({ e with stage := .busy, cpl := some (sendCpl (k % 65536) e stInvalid) }, true)

/-- Takes entries of a ring from bytes read at its READ count (R402): each is checked in turn; the first that is not visible or in error
ends it. -/
def Mod.takeEntries (m : Mod) (k : Nat) (stamp : Option (Nat × Nat)) : Nat → List Byte → Mod
  | 0, _ => m
  | fuel + 1, bs =>
    match m.ring k with
    | none => m
    | some r =>
      let kind := k / 65536
      let off := if kind = 3 then 24 else 0
      let w := leAt bs off 4
      let units := bits w 17 6 + 1
      let pad := bit w 23
      let pos := r.read % r.size
      if bs.length < 32 || r.state ≠ 1 || m.readable k r = 0 then m
      else if bits w 16 1 ≠ r.phase r.read then
        let m := m.splCount r.owner 4
        match r.hiddenAt with
        | none => m.putRing k { r with hiddenAt := some m.ns }
        | some t => if t + 1000000 ≤ m.ns then m.ringError k 5 else m
      else if w % 2 ^ 16 ≠ r.eseq then m.ringError k 3
      else if r.size < pos + units || countSub r.produced r.read < units || (pad && pos + units ≠ r.size) then m.ringError k 4
      else if !pad && ((kind = 3 && units ≠ ceilDiv (leAt bs 8 4) 32) || (kind = 1 && (units ≠ 1 || leAt bs 4 2 < 64))) then m.ringError k 4
      else if bs.length < 32 * units then m
      else
        let (e, bad) := m.newEntry k r units pad (bs.take (32 * units)) stamp
        let r : Ring := { r with read := countAdd r.read units, eseq := (r.eseq + 1) % 2 ^ 16, hiddenAt := none, entries := r.entries ++ [e] }
        let m := ((m.putRing k r.retired).splCount r.owner 3).splCount r.owner 6 (b2n bad)
        m.takeEntries k stamp fuel (bs.drop (32 * units))

/-- Entries of a ring have been read; what the limits left is read next. -/
def Mod.entriesRead (m : Mod) (k : Nat) (bs : List Byte) (stamp : Option (Nat × Nat)) : Mod :=
  match m.ring k with
  | none => m
  | some r =>
    let m := (m.putRing k { r with reading := false }).takeEntries k stamp (bs.length / 32) bs
    match m.ring k with
    | some r' => if r'.read = r.read then m else m.fetchMore k
    | none => m

/-- ENTRY_TIMEOUT: an entry is still not visible 1 ms after it was first found so. -/
def execEntryTimeout (kind : Fin 4) (n : Fin 65536) (s : State) : Host.Outcome State Fault Refusal :=
  run s fun m =>
    let k := ringKey kind n
    match m.ring k with
    | some r =>
      match r.hiddenAt with
      | some t => if r.state = 1 then (m.runToNs (t + 1000000)).ringError k 5 else m
      | none => m
    | none => m

/-! ### Polls (R404 to R408) -/

/-- POLLS_TO_SWEEP of an owner. -/
def Mod.toSweep (m : Mod) (o : Nat) : Nat :=
  if o < 4096 then m.get F.SPL_OWNER_INST_POLLS_TO_SWEEP [m.ownerSlice o, o] else m.get F.SPL_OWNER_PF_POLLS_TO_SWEEP [m.ownerSlice o, (o - 4096) % 4]

/-- Puts POLLS_TO_SWEEP. -/
def Mod.setToSweep (m : Mod) (o v : Nat) : Mod :=
  if o < 4096 then m.set F.SPL_OWNER_INST_POLLS_TO_SWEEP [m.ownerSlice o, o] v
  else m.set F.SPL_OWNER_PF_POLLS_TO_SWEEP [m.ownerSlice o, (o - 4096) % 4] v

/-- The owner exists: the PF of a present endpoint, or an instance. -/
def Mod.ownerExists (m : Mod) (o : Nat) : Bool := if o < 4096 then m.instExists o else o < 4128 && m.present (o - 4096)

/-- SPOOL_POLL of an owner: the summary line is read; every 1,024th poll sweeps; rings with an entry not yet visible, and COMPLETION rings
whose room fell short, have their records read. A storage instance has neither line nor sweep (R460). -/
def execSpoolPoll (o : Fin 4128) (s : State) : Host.Outcome State Fault Refusal :=
  run s fun m =>
    let f := m.ownerFn o
    if !m.ownerExists o || !m.issues f || m.isStorage o then m
    else
      let left := m.toSweep o
      let m := m.setToSweep o (if left = 0 then 1023 else left - 1)
      let m := match (m.owner o).summary with
        | none => m
        | some (a, p) =>
          let m := m.splCount o 0
          if (m.owner o).asked then m
          else (m.modOwner o fun x => { x with asked := true }).hostRead f a 64 p (.summary o)
      if left = 0 then m.sweep o
      else
        let wait := (m.ringsOf o).filter fun r => r.2.asked || r.2.hiddenAt.isSome
        (wait.map (·.1)).foldl (fun m k => m.readRecord k) m

/-- A summary line has been read: the records of the rings of changed groups are read (R406). (DESIGN CHOICE, log 58) -/
def Mod.summaryRead (m : Mod) (o : Nat) (bs : List Byte) : Mod :=
  let now := (List.range 64).map fun g => leAt bs g 1
  let old := (m.owner o).last
  let m := m.modOwner o fun x => { x with last := some now, asked := false }
  let changed := fun (g : Nat) => match old with | some l => decide (l.getD g 0 ≠ now.getD g 0) | none => true
  let ks := (List.range 64).flatMap fun g => if changed g
    then ((m.ringsOf o).filter fun r => decide (r.1 / 65536 ≠ 2 ∧ r.2.group = g)).map (·.1) else []
  ks.foldl (fun m k => m.readRecord k) m

/-- The summary reads that the owners of an endpoint ask for, in each microsecond, are more than POLL_MAX (R408). (DEDUCED, log 60) -/
def Mod.pollsStretched (m : Mod) (e : Nat) : Bool :=
  let os := (m.spl.owners.filter fun o => o.2.summary.isSome && decide (m.ownerEp o.1 = e)).map (·.1)
  let k := fun (o : Nat) => if o < 4096 then m.get F.SPL_OWNER_INST_K [m.ownerSlice o, o] else m.get F.SPL_OWNER_PF_K [m.ownerSlice o, (o - 4096) % 4]
  let asks := (os.map fun o => 1000 * 2 ^ (14 - k o)).foldl (· + ·) 0
  decide (m.get F.SPL_CFG_POLL_MAX [e / 4] * 64 * 2 ^ 14 < asks)

/-- A turn ends (R408): STRETCHED of every owner of an endpoint, and POLL_STRETCHED for each endpoint that stretches. -/
def Mod.spoolTurn (m : Mod) : Mod :=
  (List.range 32).foldl (fun m e =>
    let st := m.pollsStretched e
    let os := (m.spl.owners.filter fun o => decide (m.ownerEp o.1 = e)).map (·.1)
    let m := os.foldl (fun m o =>
      if o < 4096 then m.setFlag F.SPL_OWNER_INST_STRETCHED [m.ownerSlice o, o] st
      else m.setFlag F.SPL_OWNER_PF_STRETCHED [m.ownerSlice o, (o - 4096) % 4] st) m
    m.count F.SPL_CNT_COUNT [e / 4, 1] (b2n st)) m

/-! ### Deficit round robin (R409, R411, R461) -/

/-- A contender: its owner, the cost of its next piece of work, its deficit, its quantum. -/
structure Contender where
  o : Nat
  cost : Nat
  deficit : Nat
  quantum : Nat
  deriving DecidableEq, Repr

/-- The visits until a contender can pay. (DEDUCED, log 59) -/
def Contender.visits (c : Contender) : Nat := max 1 (ceilDiv (c.cost - c.deficit) c.quantum)

/-- The contender served next, after the one served last, and the deficits of all after it is served. (DEDUCED, log 59) -/
def spoolDrr (last : Nat) (l : List Contender) : Option (Nat × List (Nat × Nat)) :=
  let order := (l.filter fun c => decide (last < c.o)) ++ l.filter fun c => decide (c.o ≤ last)
  match l.find? fun c => decide (c.o = last ∧ c.cost ≤ c.deficit) with
  | some c => some (c.o, l.map fun d => (d.o, if d.o = c.o then d.deficit - d.cost else d.deficit))
  | none =>
    match order with
    | [] => none
    | c :: _ =>
      let k := order.foldl (fun n d => min n d.visits) c.visits
      let won := (order.find? fun d => decide (d.visits = k)).getD c
      let before := order.takeWhile fun d => decide (d.o ≠ won.o)
      some (won.o, order.map fun d =>
        (d.o, if d.o = won.o then d.deficit + k * d.quantum - d.cost
              else if before.any fun x => decide (x.o = d.o) then d.deficit + k * d.quantum else d.deficit + (k - 1) * d.quantum))

/-- The quantum of an owner: WEIGHT × 256 bytes. (DEDUCED, log 59) -/
def Mod.quantum (m : Mod) (o : Nat) : Nat :=
  256 * max 1 (if o < 4096 then m.get F.SPL_OWNER_INST_WEIGHT [m.ownerSlice o, o] else m.get F.SPL_OWNER_PF_WEIGHT [m.ownerSlice o, (o - 4096) % 4])

/-! ### Service of sends and commands (R303, R400, R409) -/

/-- The input account that admits the sends of a ring. -/
def Mod.sendAcct (m : Mod) (r : Ring) : AcctInfo :=
  let e := m.ownerEp r.owner
  m.inInfo (e / 4) (12 + e % 4) r.attr

/-- The completion of a ring's oldest entry waits for room (R409). -/
def Mod.roomWaits (m : Mod) (k : Nat) (r : Ring) : Bool :=
  match m.headCpl k r, m.ring (ringKey 2 r.peer) with
  | some _, some cr => !cr.room 1 (m.reserved (ringKey 2 r.peer))
  | _, _ => false

/-- The entry of a SEND or ADMIN ring that is served next, when the ring has one and does not wait. -/
def Mod.ready (m : Mod) (k : Nat) (r : Ring) : Option RingEntry :=
  if !(r.state = 1 || r.state = 2 || r.state = 4 || r.state = 5) || !m.issues (m.ringFn r) || 1 < k / 65536 && k / 65536 ≠ 3 || k / 65536 = 1 then none
  else match r.unused with
    | [] => none
    | e :: _ =>
      if k / 65536 = 3 then (if m.poolCount < 1024 then some e else none)
      else if m.roomWaits k r || (m.admitCells (m.sendAcct r) (cellsOf e.len)).isNone then none
      else some e

/-- The first of a list after a place, round robin. -/
def nextAfter (last : Option Nat) (l : List Nat) : Option Nat :=
  let least := fun (l : List Nat) => l.foldl (fun (a : Option Nat) x => match a with | some y => if x < y then some x else a | none => some x) none
  match last with
  | some p => (least (l.filter fun x => decide (p < x))).or (least l)
  | none => least l

/-- The ring an owner serves next (R409): the best priority level with work, its groups round robin, their rings round robin. -/
def Mod.ringPick (m : Mod) (o : Nat) : Option (Nat × Ring × RingEntry) :=
  let l := (m.ringsOf o).filterMap fun r => (m.ready r.1 r.2).map fun e => (r.1, r.2, e)
  match nextAfter none (l.map fun x => x.2.1.group / 8) with
  | none => none
  | some lv =>
    let l := l.filter fun x => decide (x.2.1.group / 8 = lv)
    match nextAfter (tget (m.owner o).groups lv) (l.map fun x => x.2.1.group) with
    | none => none
    | some g =>
      let l := l.filter fun x => decide (x.2.1.group = g)
      match nextAfter (tget (m.owner o).rings g) (l.map (·.1)) with
      | some k => l.find? fun x => decide (x.1 = k)
      | none => none

/-- Work that the Spool of an endpoint serves: a ring's entry, or a command of a controller. -/
inductive Work where
  | entry (k : Nat) (e : RingEntry)
  | nvme (i : Nat) (c : NvCmd)
  deriving DecidableEq, Repr

/-- The next work of an owner, and its cost in bytes. -/
def Mod.nextWork (m : Mod) (o : Nat) : Option (Work × Nat) :=
  if m.isStorage o && o < 4096 then
    (if m.issues (m.instFn o) then (m.nvNext o).map fun c => (.nvme o c, 64 + m.nvLen o c) else none)
  else (m.ringPick o).map fun x => (.entry x.1 x.2.2, if x.1 / 65536 = 3 then 64 else x.2.2.len)

/-- The owners of an endpoint that may have work. -/
def Mod.ownersOn (m : Mod) (e : Nat) : List Nat :=
  (4096 + e) :: (m.spl.insts.filter fun i => m.instExists i.1 && decide ((m.instFn i.1).ep = e)).map (·.1)

/-- The work that the Spool of endpoint `e` serves next, with the round's state after it. -/
def Mod.pick (m : Mod) (e : Nat) : Option (Work × Mod) :=
  let l := (m.ownersOn e).filterMap fun o => (m.nextWork o).map fun w => (o, w)
  match spoolDrr (tgetD m.spl.served e 0) (l.map fun x => ⟨x.1, x.2.2, (m.owner x.1).deficit, m.quantum x.1⟩) with
  | none => none
  | some (o, ds) =>
    match l.find? fun x => decide (x.1 = o) with
    | none => none
    | some (_, w, _) =>
      let m := (m.ownersOn e).foldl (fun m p => m.modOwner p fun x => { x with deficit := tgetD ds p 0 }) m
      let m := m.setSpl fun s => { s with served := tput s.served e o }
      match w with
      | .entry k en =>
        match m.ring k with
        | some r => some (.entry k en, m.modOwner o fun x => { x with groups := tput x.groups (r.group / 8) r.group, rings := tput x.rings r.group k })
        | none => none
      | .nvme i c => some (w, m.modCtl i fun x => { x with lastSq := c.sq })

/-- Changes the entry of a ring at count `a`. -/
def Mod.modEntry (m : Mod) (k a : Nat) (f : RingEntry → RingEntry) : Mod :=
  m.modRing k fun r => { r with entries := r.entries.map fun e => if e.at_ = a && !e.pad then f e else e }

/-- The frame of a send entry enters the Shuttle path, stamped by its first data read completion (R149, R303, R397). -/
def Mod.launchSend (m : Mod) (k : Nat) (r : Ring) (e : RingEntry) (bs : List Byte) : Mod :=
  let ep := m.ownerEp r.owner
  let (id, m) := m.sendBorn { ring := k, entry := e.at_ }
  let st := e.stamp.getD (hostStamp m.now, m.stepTag)
  let p : Pkt :=
    { bytes := bs, origin := .host ep (if r.owner < 4096 then r.owner else 0xFFFF) (k % 65536) e.gen id, stamp := st.1,
      stepTag := st.2, cls := r.attr, tc := r.attr, flow := 0x10000 + k % 65536, user := e.meta_, charges := e.charge }
  (m.modEntry k e.at_ fun x => { x with stage := .busy, charge := [], segs := [] }).enqueueIn (ep / 4) (12 + ep % 4) p

/-- The frame of an admitted entry, once all of it has come. -/
def RingEntry.whole (e : RingEntry) : Option (List Byte) :=
  if e.inline_ then some (slice e.raw 16 e.len) else if e.segs.length = e.nsegs then some (e.segs.flatMap (·.2)) else none

/-- Frames of a SEND ring go on in entry order, up to the first entry whose data has not come (R283). -/
def Mod.launchWhole (m : Mod) (k : Nat) (r : Ring) : List RingEntry → Mod
  | [] => m
  | e :: es =>
    if e.pad || e.stage = .busy || e.stage = .done then m.launchWhole k r es
    else match (if e.stage = .fetching then e.whole else none) with
      | some bs => (m.launchSend k r e bs).launchWhole k r es
      | none => m

/-- The frames of ring `k` that can go on do. -/
def Mod.launchRing (m : Mod) (k : Nat) : Mod := match m.ring k with | some r => m.launchWhole k r r.entries | none => m

/-- A send entry is admitted: its cells are charged; an inline frame is whole, the data of a gather entry is read. -/
def Mod.sendRead (m : Mod) (k : Nat) (e : RingEntry) : Mod :=
  match m.ring k with
  | none => m
  | some r =>
    match m.admitCells (m.sendAcct r) (cellsOf e.len) with
    | none => m
    | some (m, ch) =>
      let m := m.modEntry k e.at_ fun x => { x with stage := .fetching, charge := [ch] }
      if e.inline_ then m.launchRing k
      else (List.range e.nsegs).foldl (fun m j => m.hostRead (m.ringFn r) (e.seg j).1 (e.seg j).2 r.pasid (.send k e.at_ j)) m

/-- A segment of a send has come; with the last one the frame goes on. -/
def Mod.sendData (m : Mod) (k a j : Nat) (bs : List Byte) : Mod :=
  (m.modEntry k a fun e => { e with segs := tput e.segs j bs }).launchRing k

/-- Entries that admission has held are counted once each (R303). (DESIGN CHOICE, log 58) -/
def Mod.countWaits (m : Mod) (e : Nat) : Mod :=
  let l := (m.ownersOn e).flatMap fun o => (m.ringsOf o).filterMap fun r =>
    if r.1 / 65536 = 0 && m.issues (m.ringFn r.2) then
      match r.2.unused with
      | x :: _ => if !x.waited && (m.admitCells (m.sendAcct r.2) (cellsOf x.len)).isNone then some (r.1, x.at_) else none
      | [] => none
    else none
  l.foldl (fun m x => (m.modEntry x.1 x.2 fun e => { e with waited := true }).count F.SPL_CNT_COUNT [e / 4, 12]) m

/-- SEND_DATA_READ: the Spool of an endpoint serves its next work, a send entry that admission takes whole. -/
def execSendDataRead (e : Fin 32) (s : State) : Host.Outcome State Fault Refusal :=
  run s fun m =>
    let m := m.countWaits e
    match m.pick e with
    | some (.entry k en, m') => if k / 65536 = 0 then m'.sendRead k en else m
    | _ => m

/-- ADMIN_ENTRY_TAKE: the Spool of an endpoint serves its next work, a command for the Cutter; CONSUMED is written before it is received. -/
def execAdminEntryTake (e : Fin 32) (s : State) : Host.Outcome State Fault Refusal :=
  run s fun m =>
    match m.pick e with
    | some (.entry k en, m') =>
      if k / 65536 ≠ 3 then m
      else
        let m' := m'.modRing k fun r => r.settle en.at_ 1
        match m'.ring k with
        | none => m
        | some r =>
          let m' := m'.hostWrite (m'.ringFn r) (r.record + 4) r.pasid (leBytes 4 r.consumed)
          (m'.receive (.admin (k % 65536)) (ownerMid r.owner) (overlay en.raw 24 [0, 0, 0, 0])).fetchMore k
    | _ => m

/-! ### Deliveries (R304, R381, R399, R411, R414, R427) -/

/-- The packets that wait for delivery on an endpoint, with the keys of their queues. -/
def Mod.waitingFor (m : Mod) (e : Nat) : List (Nat × EgEntry) :=
  (List.range 8).flatMap fun c => let k := egKey (e / 4) (96 + e % 4) c; (m.egq k).map fun x => (k, x)

/-- The head of each ring's delivery queue: the packet released first. -/
def Mod.heads (m : Mod) (e : Nat) : List (Nat × EgEntry) :=
  let l := m.waitingFor e
  l.filter fun x => !l.any fun y => decide (y.2.ring = x.2.ring ∧ y.2.id < x.2.id)

/-- The buffers that a frame of `len` bytes takes: the next unused ones, when they are enough (R399). -/
def takeBufs : Nat → List RingEntry → Option (List RingEntry)
  | 0, _ => some []
  | _, [] => none
  | len, e :: es => let n := leAt e.raw 4 2; if len ≤ n then some [e] else (takeBufs (len - n) es).map (e :: ·)

/-- What delivery does with the head of a ring's queue. -/
inductive Fate where
  | hold | noRing | frozen | noBuf | cqFull | deliver (bufs : List RingEntry)
  deriving DecidableEq, Repr

/-- What becomes of the head packet of ring `n`. (DEDUCED, log 38) -/
def Mod.fateOf (m : Mod) (x : EgEntry) : Fate :=
  if x.hbm || x.present < x.pkt.cells then .hold
  else match m.recvRing x.ring with
    | none => .noRing
    | some r =>
      if m.frozen (m.ringFn r) || r.state = 3 then .frozen
      else if r.state = 5 then .noRing
      else
        let dry := if r.attr = 0 then .noBuf else .hold
        if !m.issues (m.ringFn r) || r.state = 2 then dry
        else match takeBufs x.pkt.bytes.length r.unused, m.ring (ringKey 2 r.peer) with
          | some bufs, some cr => if cr.takes && cr.room 1 (m.reserved (ringKey 2 r.peer)) then .deliver bufs else .cqFull
          | _, _ => dry

/-- The head packet of a queue is dropped. -/
def Mod.dropHead (m : Mod) (k : Nat) (x : EgEntry) : Mod :=
  let o := match m.recvRing x.ring with | some r => r.owner | none => 0
  ((m.dropEntryOf k x.id).subInst o x.pkt.cells).sendLost x.pkt 7

/-- Writes a frame into its buffers. -/
def Mod.writeBufs (m : Mod) (f : Fn) (pasid : Option Nat) : List RingEntry → List Byte → Mod
  | [], _ => m
  | e :: es, bs =>
    let n := leAt e.raw 4 2
    (m.dataWrite f (leAt e.raw 8 8) pasid (bs.take n)).writeBufs f pasid es (bs.drop n)

/-- A packet is delivered into buffers of its ring (R399, R412); `stamp`: the host-link stamp of the write that carries its last byte
(R145). (DEDUCED, log 38) -/
def Mod.deliverTo (m : Mod) (k : Nat) (x : EgEntry) (bufs : List RingEntry) (stamp : Nat) : Mod :=
  match m.recvRing x.ring, bufs with
  | some r, b :: _ =>
    let p := x.pkt
    let c : Cpl :=
      { kind := 1, status := if p.untrusted then stAuthFail else stOk, flags := b2n p.untrusted + 2 * b2n p.reason.isSome, nbuf := bufs.length,
        ring := x.ring, count := p.bytes.length, stamp := stampC p.stamp, reason := p.reason.getD 0, cookie := leAt b.raw 16 8, gen := b.gen }
    let mark := fun (e : RingEntry) =>
      if bufs.any fun y => decide (y.at_ = e.at_) then { e with stage := EntryStage.busy, cpl := if e.at_ = b.at_ then some c else none } else e
    let m := m.writeBufs (m.ringFn r) r.pasid bufs p.bytes
    let m := m.modRing (ringKey 1 x.ring) fun r => { r with entries := r.entries.map mark }
    ((((m.dropEntryOf k x.id).subInst r.owner p.cells).sendDone p stamp).histSample p stamp m.stepTag false).fetchMore (ringKey 1 x.ring)
  | _, _ => m

/-- Heads that find no unit in their completion ring: counted once each, and its record read (R416). -/
def Mod.cqWaits (m : Mod) (e : Nat) : Mod :=
  (m.heads e).foldl (fun m x =>
    if m.fateOf x.2 = .cqFull then
      match m.recvRing x.2.ring with
      | some r =>
        let m := if x.2.guarded then m else m.splCount r.owner 10
        let m := m.putEgq x.1 ((m.egq x.1).map fun y => if y.id = x.2.id then { y with guarded := true } else y)
        m.askRoom (ringKey 2 r.peer) false
      | none => m
    else m) m

/-- Some packet of a delivery queue of endpoint `e` waits for its ring (R304). -/
def Mod.hostWaits (m : Mod) (e : Nat) : Bool :=
  (m.heads e).any fun (x : Nat × EgEntry) => decide (m.fateOf x.2 = .hold) && x.2.pkt.cells ≤ x.2.present && !x.2.hbm

/-- RECEIVE_DELIVERY: the next packet that endpoint `e` can deliver, or must drop, owners by deficit round robin, the rings of an owner in
turn. -/
def execReceiveDelivery (e : Fin 32) (stamp : Nat) (s : State) : Host.Outcome State Fault Refusal :=
  run s fun m =>
    let m := (m.runTo stamp).cqWaits e
    let m := if m.hostWaits e then m.sawTurn (e.val / 4) fun t => { t with hostWait := true } else m
    let fate : Mod → EgEntry → Fate := fun m x => match m.fateOf x with
      | .cqFull => (match m.recvRing x.ring with | some r => if r.attr = 0 then Fate.noBuf else .hold | none => .hold)
      | f => f
    let l := (m.heads e).filter fun (x : Nat × EgEntry) => decide (fate m x.2 ≠ .hold)
    let own := fun (x : EgEntry) => match m.recvRing x.ring with | some r => r.owner | none => 4096 + e.val
    let os := (l.map fun (x : Nat × EgEntry) => own x.2).eraseDups
    let first := fun (o : Nat) =>
      let mine := l.filter fun (x : Nat × EgEntry) => decide (own x.2 = o)
      match nextAfter (some (m.owner o).rxRing) (mine.map fun (x : Nat × EgEntry) => x.2.ring) with
      | some r => mine.find? fun (x : Nat × EgEntry) => decide (x.2.ring = r)
      | none => none
    let cs := os.filterMap fun o => (first o).map fun (x : Nat × EgEntry) => (⟨o, x.2.pkt.bytes.length, (m.owner o).rxDeficit, m.quantum o⟩ : Contender)
    match spoolDrr (tgetD m.spl.delivered e 0) cs with
    | none => m
    | some (o, ds) =>
      match first o with
      | none => m
      | some (k, x) =>
        let m := ds.foldl (fun m (d : Nat × Nat) => m.modOwner d.1 fun y => { y with rxDeficit := d.2 }) m
        let m := (m.modOwner o fun y => { y with rxRing := x.ring }).setSpl fun s => { s with delivered := tput s.delivered e o }
        match fate m x with
        | .noRing => (m.count F.SPL_CNT_COUNT [e.val / 4, 9]).dropHead k x
        | .frozen => (m.selCount e 3).dropHead k x
        | .noBuf => (m.pltCount (e.val / 4) 33).dropHead k x
        | .deliver bufs => m.deliverTo k x bufs (hostStamp stamp)
        | _ => m

/-- RX_WAIT_EXPIRY: the head packet of a ring under WAIT has waited WAIT_US since it came to its delivery queue. -/
def execRxWaitExpiry (n : Fin 65536) (s : State) : Host.Outcome State Fault Refusal :=
  run s fun m =>
    match m.recvRing n with
    | none => m
    | some r =>
      let ep := m.ownerEp r.owner
      match (m.heads ep).find? fun (x : Nat × EgEntry) => decide (x.2.ring = n.val) with
      | none => m
      | some (k, x) =>
        let f := m.fateOf x
        if r.attr ≠ 1 || !(f = .hold || f = .cqFull) then m
        else
          let m := m.runToNs (x.at_ + m.get F.PLT_RX_WAIT_WAIT_US [ep / 4] * 1000)
          (m.pltCount (ep / 4) 33).dropHead k x

/-! ### The pools (R390, R431 to R433, R459) -/

/-- Rings of a kind in the module (R390). -/
def kindTotal (kind : Nat) : Nat := if kind = 3 then 4096 else 65536

/-- Numbers of a kind that storage queues take (R459). -/
def Mod.stoNums (m : Mod) (kind : Nat) : List (Nat × Nat) :=
  m.sto.ctls.flatMap fun c =>
    if kind = 0 then c.2.sqs.map fun q => (c.1, q.2.num) else if kind = 2 then c.2.cqs.map fun q => (c.1, q.2.num) else []

/-- Rings of a kind that an owner has, its storage queues among them. -/
def Mod.ringUse (m : Mod) (o kind : Nat) : Nat :=
  (m.spl.rings.filter fun r => decide (r.1 / 65536 = kind ∧ r.2.owner = o)).length + ((m.stoNums kind).filter fun x => decide (x.1 = o)).length

/-- The quota of a kind. -/
def Quota.ring (q : Quota) (kind : Nat) : Nat := match kind with | 0 => q.send | 1 => q.recv | 2 => q.cpl | _ => q.admin

/-- An instance's mode is fixed-share (R433). -/
def Mod.fixedShare (m : Mod) (i : Nat) : Bool := m.flag F.INST_STATUS_FIXED_SHARE [i]

/-- Units of a kind not in use and not reserved (R432). -/
def Mod.ringFree (m : Mod) (kind : Nat) : Int :=
  let used := (m.spl.rings.filter fun r => decide (r.1 / 65536 = kind)).length + (m.stoNums kind).length
  let idle := (m.spl.insts.filter fun i => m.instExists i.1 && m.fixedShare i.1).map fun i => i.2.quota.ring kind - m.ringUse i.1 kind
  (kindTotal kind : Int) - used - (idle.foldl (· + ·) 0 : Nat)

/-- An owner may take one more ring of a kind. -/
def Mod.mayTake (m : Mod) (o kind : Nat) (n : Nat := 1) : Bool :=
  if o < 4096 then
    decide (m.ringUse o kind + n ≤ (m.inst o).quota.ring kind) && (m.fixedShare o || decide ((n : Int) ≤ m.ringFree kind))
  else decide ((n : Int) ≤ m.ringFree kind)

/-- The lowest free number of a kind. -/
def Mod.ringNumber (m : Mod) (kind : Nat) : Option Nat :=
  let taken := (m.stoNums kind).map (·.2)
  (List.range (kindTotal kind)).find? fun n => (m.ring (ringKey kind n)).isNone && !taken.contains n

/-! ### Ring commands (R422 to R425) -/

/-- The vectors of an owner's function. -/
def Mod.vectorsOf (m : Mod) (o : Nat) : Nat := (tgetD m.msix (fnKey (m.ownerFn o)) {}).size

/-- A RING TLV value breaks a range (R422). -/
def Mod.ringBad (m : Mod) (o : Nat) (v : List Byte) : Bool :=
  let kind := leAt v 0 1
  let log2 := leAt v 1 1
  let attr := leAt v 3 1
  let vec := leAt v 6 2
  decide (3 < kind) || decide (log2 < 6) || decide (16 < log2) || (kind ≠ 2 && decide (63 < leAt v 2 1)) ||
    (kind = 0 && decide ((if o < 4096 then 6 else 7) < attr)) || ((kind = 1 || kind = 2) && decide (1 < attr)) ||
    (kind = 2 && ((vec ≠ 0xFFFF && decide (m.vectorsOf o ≤ vec)) || leAt v 28 1 = 0 || decide (1023 < leAt v 30 2))) ||
    decide (leAt v 8 8 % min (32 * 2 ^ log2) 4096 ≠ 0) || decide (leAt v 16 8 % 8 ≠ 0) || !m.pasidOk (m.ownerEp o) (leAt v 24 4)

/-- PEER of a RING TLV value is a COMPLETION ring of the owner with the right MODE. -/
def Mod.peerOk (m : Mod) (o : Nat) (v : List Byte) : Bool :=
  let kind := leAt v 0 1
  kind = 2 || match m.ring (ringKey 2 (leAt v 4 2)) with
    | some r => decide (r.owner = o) && decide (r.attr = if kind = 3 then 1 else 0)
    | none => false

/-- The ring that a RING TLV value describes. A ring of a frozen instance starts PAUSED (R441); in a freeze it starts FROZEN. -/
def Mod.ringOf (m : Mod) (o : Nat) (v : List Byte) : Ring :=
  let kind := leAt v 0 1
  let vec := leAt v 6 2
  let st := if m.ownerStill o then 2 else 1
  { owner := o, log2 := leAt v 1 1, group := if kind = 2 then 0 else leAt v 2 1, attr := if kind = 3 then 0 else leAt v 3 1,
    peer := if kind = 2 then 0 else leAt v 4 2, addr := leAt v 8 8, record := leAt v 16 8, pasid := pasidOf (leAt v 24 4),
    vector := if kind = 2 && vec ≠ 0xFFFF then some vec else none, modCount := if kind = 2 then leAt v 28 1 else 1,
    modUs := if kind = 2 then leAt v 30 2 else 0, state := if m.frozen (m.ownerFn o) then 3 else st, before := st }

/-- RING_CREATE for an owner: the number taken, or the failure's status and detail. -/
def Mod.ringCreate (m : Mod) (o : Nat) (v : List Byte) : Except (Nat × Nat) (Mod × Nat) :=
  let kind := leAt v 0 1
  if m.ringBad o v then .error (stInvalid, 1)
  else if !m.peerOk o v then .error (stInvalid, 2)
  else if !m.mayTake o kind then .error (stNoResource, 0)
  else match m.ringNumber kind with
    | some n => .ok (m.putRing (ringKey kind n) (m.ringOf o v), n)
    | none => .error (stNoResource, 0)

/-- RING_CREATE (R422). -/
def execRingCreate (c : Cmd) (s : State) : Host.Outcome State Fault Refusal :=
  run s fun m => m.runCmd c 0x0201 (m.ownerObjs c) fun m =>
    match m.cmdOwner c with
    | none => (m, some badHeader)
    | some o =>
      match m.ringCreate o (c.val 0x100) with
      | .ok (m, n) => (m, some (okWith [tlv 0x101 (leBytes 1 (leAt (c.val 0x100) 0 1) ++ [0] ++ leBytes 2 n)]))
      | .error (st, d) => (m, some (if st = stInvalid then c.bad d else { status := st, errDetail := d }))

/-- The ring that a TARGET TLV names, when the requester's owner has it. -/
def Mod.target (m : Mod) (c : Cmd) : Option (Nat × Ring) :=
  let v := c.val 0x100
  let k := ringKey (leAt v 0 1) (leAt v 2 2)
  match m.ring k, m.cmdOwner c with
  | some r, some o => if decide (leAt v 0 1 < 4) && r.owner = o then some (k, r) else none
  | _, _ => none

/-- The object of a TARGET. -/
def targetObj (c : Cmd) : Obj := .ring (leAt (c.val 0x100) 0 1) (leAt (c.val 0x100) 2 2)

/-- A ring starts to drain (R426, R427): buffers read and not used complete with ABORTED; packets that wait for it are dropped. -/
def Mod.drainRing (m : Mod) (k : Nat) (r : Ring) (c : Cmd) : Mod :=
  let abort := fun (e : RingEntry) =>
    if k / 65536 = 1 && e.stage = .read && !e.pad then
      { e with stage := EntryStage.busy, cpl := some { kind := 1, status := stAborted, nbuf := 1, ring := k % 65536, cookie := leAt e.raw 16 8, gen := e.gen } }
    else e
  let m := m.putRing k { r with state := 5, cause := 0, destroy := some c, reading := false, hiddenAt := none, entries := r.entries.map abort }
  if k / 65536 = 1 then
    let (m, n) := m.dropDeliveries (k % 65536) 7
    m.splCount r.owner 9 n
  else m

/-- RING_DESTROY (R423). -/
def execRingDestroy (c : Cmd) (s : State) : Host.Outcome State Fault Refusal :=
  let c := { c with opcode := 0x0202 }
  run s fun m => m.runCmd c 0x0202 [targetObj c] fun m =>
    match m.target c with
    | none => (m, some c.bad)
    | some (k, r) =>
      let named := k / 65536 = 2 && m.spl.rings.any fun x => decide (x.1 / 65536 ≠ 2 ∧ x.2.peer = k % 65536)
      if named then (m, some (c.bad 1))
      else if r.state = 3 then (m, some { status := stBusy })
      else if r.state = 5 then (m, some c.bad)
      else (m.drainRing k r c, none)

/-- Nothing of a draining ring is outstanding (R427). -/
def Mod.ringDrained (m : Mod) (k : Nat) (r : Ring) : Bool :=
  let mine := m.cut.pool.any fun e => decide (e.cmd.src = .admin (k % 65536)) && decide (r.destroy ≠ some e.cmd)
  r.entries.isEmpty && r.events.isEmpty && r.pend.isEmpty &&
    (k / 65536 ≠ 3 || (!mine && !m.replies.any fun x => decide (x.src = .admin (k % 65536))))

/-- RING_DRAIN_DONE: a draining ring with nothing outstanding is FREE, and RING_DESTROY replies. (DEDUCED, log 61) -/
def execRingDrainDone (kind : Fin 4) (n : Fin 65536) (s : State) : Host.Outcome State Fault Refusal :=
  run s fun m =>
    let k := ringKey kind n
    match m.ring k with
    | none => m
    | some r =>
      if r.state ≠ 5 || !m.ringDrained k r then m
      else
        let m := m.freeRing k
        match r.destroy with
        | some c => m.reply c {}
        | none => m

/-- RING_MODIFY (R424). -/
def execRingModify (c : Cmd) (s : State) : Host.Outcome State Fault Refusal :=
  run s fun m => m.runCmd c 0x0203 [targetObj c] fun m =>
    match m.target c with
    | none => (m, some c.bad)
    | some (k, r) =>
      let v := c.val 0x102
      let kind := k / 65536
      let on := fun (i : Nat) => bit (leAt v 0 1) i
      let vec := leAt v 6 2
      let log2 := leAt v 8 1
      let bad := (on 0 && (kind = 2 || decide (63 < leAt v 1 1))) || (on 1 && (kind ≠ 1 || decide (1 < leAt v 2 1))) ||
        (on 2 && (kind ≠ 2 || leAt v 3 1 = 0 || decide (1023 < leAt v 4 2))) ||
        (on 3 && (kind ≠ 2 || (vec ≠ 0xFFFF && decide (m.vectorsOf r.owner ≤ vec)))) ||
        (on 4 && (decide (log2 < 6) || decide (16 < log2) || decide (leAt v 16 8 % min (32 * 2 ^ log2) 4096 ≠ 0)))
      let empty := r.produced = r.consumed && (kind = 2 || r.read = r.consumed) && r.entries.isEmpty
      if bad then (m, some (badTlv (c.pos 0x102) 1))
      else if on 4 && !empty then (m, some (badTlv (c.pos 0x102) 2))
      else
        let r := if on 0 then { r with group := leAt v 1 1 } else r
        let r := if on 1 then { r with attr := leAt v 2 1 } else r
        let r := if on 2 then { r with modCount := leAt v 3 1, modUs := leAt v 4 2 } else r
        let r := if on 3 then { r with vector := if vec = 0xFFFF then none else some vec } else r
        let r := if on 4 then { r with log2 := log2, addr := leAt v 16 8, produced := 0, read := 0, consumed := 0, eseq := 0 } else r
        (m.putRing k r, some {})

/-- RING_QUERY (R425). -/
def execRingQuery (c : Cmd) (s : State) : Host.Outcome State Fault Refusal :=
  run s fun m => m.query c 0x0204 fun m =>
    match m.target c with
    | none => c.bad
    | some (k, r) =>
      okWith [tlv 0x103 (leBytes 8 (m.ringWord k) ++ leBytes 4 r.produced ++ leBytes 4 r.read ++ leBytes 4 r.consumed ++ leBytes 2 r.eseq ++ [0, 0])]

/-- Puts SUM_EN of an owner. -/
def Mod.setSumEn (m : Mod) (o : Nat) (b : Bool) : Mod :=
  if o < 4096 then m.setFlag F.SPL_OWNER_INST_SUM_EN [m.ownerSlice o, o] b else m.setFlag F.SPL_OWNER_PF_SUM_EN [m.ownerSlice o, (o - 4096) % 4] b

/-- Puts K of an owner. -/
def Mod.setK (m : Mod) (o k : Nat) : Mod :=
  if o < 4096 then m.set F.SPL_OWNER_INST_K [m.ownerSlice o, o] k else m.set F.SPL_OWNER_PF_K [m.ownerSlice o, (o - 4096) % 4] k

/-- SUMMARY_SET (R404): for a storage instance, which has no summary line (R460), INVALID. (DESIGN CHOICE, log 66) -/
def execSummarySet (c : Cmd) (s : State) : Host.Outcome State Fault Refusal :=
  run s fun m => m.runCmd c 0x0205 (m.ownerObjs c) fun m =>
    let v := c.val 0x100
    match m.cmdOwner c with
    | none => (m, some badHeader)
    | some o =>
      if o < 4096 && m.isStorage o then (m, some badHeader)
      else if !bit (leAt v 12 4) 0 then ((m.modOwner o fun x => { x with summary := none, last := none }).setSumEn o false, some {})
      else if leAt v 0 8 % 64 ≠ 0 || !m.pasidOk (m.ownerEp o) (leAt v 8 4) then (m, some c.bad)
      else ((m.modOwner o fun x => { x with summary := some (leAt v 0 8, pasidOf (leAt v 8 4)), last := none }).setSumEn o true, some {})

/-- POLL_INTERVAL_SET (R407). -/
def execPollIntervalSet (c : Cmd) (s : State) : Host.Outcome State Fault Refusal :=
  run s fun m => m.runCmd c 0x0206 (m.ownerObjs c) fun m =>
    let k := leAt (c.val 0x100) 0 1
    match m.cmdOwner c with
    | none => (m, some badHeader)
    | some o => if 14 < k then (m, some c.bad) else (m.setK o k, some {})

end Sys2Proof.Machine
end

