-- ==== Sys2Proof/Machine/Instances.lean ====
section
/-! DEFINITION. *Tenant instances and migration* (chapter 16): creation, quotas, reset, freeze, save, restore, boot. -/

namespace Sys2Proof.Machine

/-! ### Records and quotas (R431, R442, R444) -/

/-- A QUOTA value (R442). -/
def quotaOf (v : List Byte) : Quota :=
  { send := leAt v 0 2, recv := leAt v 2 2, cpl := leAt v 4 2, admin := leAt v 6 2, ctx := leAt v 8 4, cap := leAt v 12 4, weight := leAt v 16 1 }

/-- The bytes of quotas or uses in the QUOTA layout. -/
def Quota.bytes (q : Quota) : List Byte :=
  leBytes 2 q.send ++ leBytes 2 q.recv ++ leBytes 2 q.cpl ++ leBytes 2 q.admin ++ leBytes 4 q.ctx ++ leBytes 4 q.cap ++ leBytes 1 q.weight ++
    List.replicate 7 0

/-- The fields of `new` whose mask bits are set, over `old` (R434). -/
def Quota.masked (old new : Quota) (mask : Nat) : Quota :=
  let p := fun (i a b : Nat) => if bit mask i then b else a
  { send := p 0 old.send new.send, recv := p 1 old.recv new.recv, cpl := p 2 old.cpl new.cpl, admin := p 3 old.admin new.admin,
    ctx := p 4 old.ctx new.ctx, cap := p 5 old.cap new.cap, weight := p 6 old.weight new.weight }

/-- The ranges of R431. -/
def Quota.ok (q : Quota) : Bool :=
  decide (q.send ≤ 16384) && decide (q.recv ≤ 16384) && decide (1 ≤ q.cpl ∧ q.cpl ≤ 16384) && decide (1 ≤ q.admin ∧ q.admin ≤ 16) &&
    decide (q.ctx ≤ 32768) && decide (64 ≤ q.cap ∧ q.cap ≤ 262143) && decide (1 ≤ q.weight)

/-- The MSI-X vectors of an instance's VF. -/
def Mod.instVectors (m : Mod) (i : Nat) : Nat := m.get F.SEL_VF_CFG_VECTORS (epIx (m.instFn i).ep ++ [(m.instFn i).vf.getD 0])

/-- Vectors that the present PFs and the instances take (R371). -/
def Mod.vectorsTaken (m : Mod) : Nat :=
  (((List.range 32).filter fun e => m.present e).map fun e => m.get F.SEL_PF_CFG_VECTORS (epIx e)).foldl (· + ·) 0 +
    ((m.spl.insts.filter fun i => m.instExists i.1).map fun i => m.instVectors i.1).foldl (· + ·) 0

/-- The INSTANCE TLV. -/
def Mod.instTlv (m : Mod) (i : Nat) : Tlv :=
  tlv 0x110 (leBytes 2 i ++ leBytes 2 (m.instGen i) ++ leBytes 1 (m.instState i) ++
    leBytes 1 (m.get F.INST_STATUS_KIND [i] + 2 * m.get F.INST_STATUS_FIXED_SHARE [i]) ++ leBytes 1 (m.instFn i).ep ++
    leBytes 1 (m.instVectors i) ++ leBytes 2 ((m.instFn i).vf.getD 0) ++ List.replicate 6 0)

/-- An event of the instance page: its bit, and VECTOR when VEC_EN is 1 (R436). -/
def Mod.instEvent (m : Mod) (i : Nat) (f : Fld) : Mod :=
  let m := m.set f [i] 1
  if m.flag F.INST_EVENT_VEC_EN [i] then m.raise (m.instFn i) (m.get F.INST_EVENT_VECTOR [i]) else m

/-- SPL_OWNER's WEIGHT follows the quota (R409). -/
def Mod.setWeight (m : Mod) (i w : Nat) : Mod := m.set F.SPL_OWNER_INST_WEIGHT [m.instSlice i, i] w

/-- Window `w` of a VF takes a SEL_WIN value (R369). -/
def Mod.setWin (m : Mod) (f : Fn) (w v : Nat) : Mod :=
  let ix := epIx f.ep ++ [f.vf.getD 0, w]
  ((m.set F.SEL_WIN_VF_EN ix (bits v 0 1)).set F.SEL_WIN_VF_RO ix (bits v 1 1)).set F.SEL_WIN_VF_BASE ix (bits v 18 22)

/-! ### Creation and destruction (R430, R433, R442, R443) -/

/-- The instance number that a CREATE value asks for: its own, or the lowest free. -/
def Mod.newInst (m : Mod) (v : List Byte) : Option Nat :=
  if leAt v 0 2 = 0xFFFF then (List.range 4096).find? fun i => !m.instExists i else some (leAt v 0 2)

/-- The reservation of a fixed-share instance on a slice fits (R433). -/
def Mod.shareFits (m : Mod) (q : Quota) (s : Nat) : Bool :=
  ((List.range 4).all fun k => decide ((q.ring k : Int) ≤ m.ringFree k)) && decide (q.ctx ≤ m.ctxSpare s)

/-- What INST_CREATE sets up. -/
def Mod.instBorn (m : Mod) (i : Nat) (v : List Byte) (q : Quota) (wins : List Byte) : Mod :=
  let f : Fn := ⟨leAt v 2 1, some (leAt v 4 2)⟩
  let fl := leAt v 3 1
  let g := genNext (tgetD m.spl.lastGen i 0)
  let m := ((m.resetReg .INST_STATUS [i]).set F.INST_STATUS_INSTANCE [i] i).set F.INST_STATUS_KIND [i] (bits fl 0 1)
  let m := ((m.set F.INST_STATUS_FIXED_SHARE [i] (bits fl 1 1)).set F.INST_STATUS_STATE [i] (if bit fl 2 then 3 else 1)).set
    F.INST_STATUS_GENERATION [i] g
  let m := (m.set F.INST_STATUS_ENDPOINT [i] f.ep).set F.INST_STATUS_VF [i] (leAt v 4 2)
  let m := ((m.resetReg .INST_EVENT [i]).resetReg .INST_BOOT [i]).resetReg .INST_BOOT_STATUS [i]
  let m := m.setSpl fun s => { s with lastGen := tput s.lastGen i g, insts := tput s.insts i { quota := q }, saves := tdel s.saves i }
  let m := (m.set F.SEL_VF_CFG_VECTORS (epIx f.ep ++ [leAt v 4 2]) (leAt v 6 1)).setWeight i q.weight
  let m : Mod := { m with msix := tput m.msix (fnKey f) { size := leAt v 6 1 } }
  let m := if bit fl 0 then m.putCtl i {} else m
  (((m.setWin f 0 (if bit fl 0 then 0 else leAt wins 0 8)).setWin f 1 (leAt wins 8 8)).setWin f 2 (leAt wins 16 8)).setWin f 3 0x05000001

/-- INST_CREATE. (DEDUCED, log 43; DEDUCED, log 62) -/
def execInstCreate (c : Cmd) (s : State) : Host.Outcome State Fault Refusal :=
  run s fun m =>
    let v := c.val 0x100
    let n := m.newInst v
    m.runCmd c 0x0101 (match n with | some i => [.inst i] | none => []) fun m =>
      let e := leAt v 2 1
      let fl := leAt v 3 1
      let q := if (c.tlv 0x101).isNone then {} else quotaOf (c.val 0x101)
      if c.inst ≠ 0xFFFF then (m, some badHeader)
      else if 31 < e || !m.present e || (leAt v 0 2 ≠ 0xFFFF && m.instExists (leAt v 0 2)) then (m, some (c.bad 1))
      else if 1023 < leAt v 4 2 || (m.instOf ⟨e, some (leAt v 4 2)⟩).isSome then (m, some (c.bad 2))
      else if (4095 < leAt v 0 2 && leAt v 0 2 ≠ 0xFFFF) || leAt v 6 1 = 0 || 64 < leAt v 6 1 then (m, some (c.bad 3))
      else if !q.ok then (m, some (badTlv (c.pos 0x101) 3))
      else match n with
        | none => (m, some { status := stNoResource })
        | some i =>
          let stores := (m.spl.insts.filter fun x => m.isStorage x.1).length
          if (bit fl 0 && decide (1024 ≤ stores)) || decide (65536 < m.vectorsTaken + leAt v 6 1) || (bit fl 1 && !m.shareFits q (e / 4)) then
            (m, some { status := stNoResource })
          else
            let m := m.instBorn i v q (c.val 0x102)
            (m, some (okWith [m.instTlv i]))

/-- A table scope or a histogram names the instance as its owner (R155, R247). -/
def Mod.ownsAny (m : Mod) (i : Nat) : Bool :=
  ((List.range 0x1100).any fun q => m.scopeKind q ≠ 0 && m.flag F.PAT_SCOPE_CFG_OWNER_VALID [q] && decide (m.get F.PAT_SCOPE_CFG_OWNER [q] = i)) ||
    (List.range 256).any fun h => m.flag F.TCK_HIST_CFG_OWNER_VALID [h] && decide (m.get F.TCK_HIST_CFG_OWNER [h] = i)

/-- INST_DESTROY (R443). -/
def execInstDestroy (c : Cmd) (s : State) : Host.Outcome State Fault Refusal :=
  run s fun m => m.runCmd c 0x0102 [.inst c.inst] fun m =>
    let i := c.inst
    if !m.instExists i then (m, some badHeader)
    else if m.ownsAny i then (m, some (badHeader 1))
    else
      let f := m.instFn i
      let v := f.vf.getD 0
      let m := (m.genUp i).die (0x2000 + i)
      let (m, n) := m.endOwner i
      let m := (m.splCount i 9 n).endInstObjs i
      let m := ((m.setWin f 0 0).setWin f 1 0).setWin f 2 0
      let m := (m.markReads f.ep (fun r => decide (r.fn = f)) fun r => { r with stale := true }).dropPair f
      let m := m.set F.SEL_VF_CFG_VECTORS (epIx f.ep ++ [v]) 0
      let m := (List.range 16).foldl (fun m k => m.resetReg .STO_NS [f.ep / 4, i, k]) m
      let g := m.instGen i
      let m : Mod := { m with msix := tdel m.msix (fnKey f) }
      let m := (m.setSto fun s => { s with ctls := tdel s.ctls i }).setSpl fun s => { s with insts := tdel s.insts i }
      let m := ((m.resetReg .INST_EVENT [i]).resetReg .INST_BOOT [i]).resetReg .INST_BOOT_STATUS [i]
      let m := ((m.resetReg .INST_STATUS [i]).set F.INST_STATUS_INSTANCE [i] i).set F.INST_STATUS_GENERATION [i] g
      (m, some {})

/-- INST_RESIZE (R434). -/
def execInstResize (c : Cmd) (s : State) : Host.Outcome State Fault Refusal :=
  run s fun m => m.runCmd c 0x0103 [.inst c.inst] fun m =>
    let i := c.inst
    let v := c.val 0x101
    let mask := leAt v 22 2
    let q := (m.inst i).quota.masked (quotaOf v) mask
    if !m.instExists i then (m, some badHeader)
    else if m.fixedShare i && mask % 32 ≠ 0 then (m, some (badTlv (c.pos 0x101) 1))
    else if !q.ok then (m, some (badTlv (c.pos 0x101) 2))
    else (((m.modInst i fun x => { x with quota := q }).setWeight i q.weight).instEvent i F.INST_EVENT_RESIZED, some {})

/-- INST_RESET (R444): the manager is answered when the reset is complete; a driver, who dies with it, never. -/
def execInstReset (c : Cmd) (s : State) : Host.Outcome State Fault Refusal :=
  let c := { c with opcode := 0x0104 }
  run s fun m =>
    let m := m.runCmd c 0x0104 [.inst c.inst] fun m =>
      if !m.instExists c.inst then (m, some badHeader)
      else
        let m := m.vfReset (m.instFn c.inst)
        (if m.isManager c.mid then m.modInst c.inst fun x => { x with resetCmd := some c } else m, none)
    if driverOf c.mid = some c.inst && m.instState c.inst = 4 then m.setCut fun x => { x with pool := dropEntry c x.pool } else m

/-- INST_QUERY (R444). -/
def execInstQuery (c : Cmd) (s : State) : Host.Outcome State Fault Refusal :=
  run s fun m => m.runCmd c 0x0105 [.inst c.inst] fun m =>
    let i := c.inst
    if !m.instExists i then (m, some badHeader)
    else
      let use : Quota := { send := m.ringUse i 0, recv := m.ringUse i 1, cpl := m.ringUse i 2, admin := m.ringUse i 3, ctx := m.instObjs i,
                           cap := m.instCells i, weight := 0 }
      (m, some (okWith [m.instTlv i, tlv 0x111 ((m.inst i).quota.bytes ++ use.bytes)]))

/-! ### Freezing (R441, R445, R446) -/

/-- The rings of an instance pause, or run again; a ring in a freeze does so when it leaves it. -/
def Mod.pauseRings (m : Mod) (i : Nat) (pause : Bool) : Mod :=
  let (a, b) := if pause then (1, 2) else (2, 1)
  let go := fun (n : Nat) => if n = a then b else n
  m.setSpl fun s => { s with rings := s.rings.map fun (r : Nat × Ring) =>
    (if decide (r.2.owner = i) then (r.1, { r.2 with state := go r.2.state, before := go r.2.before }) else r) }

/-- INST_FREEZE: an ACTIVE instance becomes FREEZING; the reply comes with the end of its drain. (DEDUCED, log 62) -/
def execInstFreeze (c : Cmd) (s : State) : Host.Outcome State Fault Refusal :=
  let c := { c with opcode := 0x0106 }
  run s fun m => m.runCmd c 0x0106 [.inst c.inst] fun m =>
    let i := c.inst
    if m.instState i ≠ 1 then (m, some (badHeader 1))
    else (((m.set F.INST_STATUS_STATE [i] 2).modInst i fun x => { x with freeze := some c }).pauseRings i true, none)

/-- The drain of an instance is complete (R445, R471): every entry read has its completion or reply written or pending, none of its
commands is queued or executing; of a storage instance, every command read has completed, Asynchronous Event Requests apart. -/
def Mod.instDrained (m : Mod) (i : Nat) : Bool :=
  let mid := 0x2000 + i
  let idle := fun (r : Nat × Ring) =>
    r.2.events.isEmpty && (if r.1 / 65536 = 1 then r.2.entries.all fun e => e.pad || e.stage = .read else r.2.entries.isEmpty)
  let stuck := fun (r : Reply) => match m.replyRing r with
    | some k => (match m.ring k with | some cr => !cr.room (ceilDiv r.bytes.length 32) 0 | none => false)
    | none => false
  (m.ringsOf i).all idle && !m.cut.pool.any (fun e => e.cmd.mid = mid) && (m.replies.all fun r => r.mid ≠ mid || stuck r) &&
    (!m.isStorage i || (m.ctl i).cmds.all fun c => c.stage = .aer)

/-- INST_DRAIN_DONE: a FREEZING instance whose drain is complete is FROZEN; INST_FREEZE replies. -/
def execInstDrainDone (i : Fin 4096) (s : State) : Host.Outcome State Fault Refusal :=
  run s fun m =>
    if m.instState i ≠ 2 || !m.instDrained i then m
    else
      let wait := (m.inst i).freeze
      let m := (m.set F.INST_STATUS_STATE [i] 3).modInst i fun x => { x with freeze := none }
      match wait with
      | some c => m.reply c {}
      | none => m

/-! ### Saving (R447 to R449, R472) -/

/-- Zeros up to a multiple of 64 bytes. -/
def pad64 (bs : List Byte) : List Byte := bs ++ List.replicate ((64 - bs.length % 64) % 64) 0

/-- A PASID word. -/
def pasidWord (p : Option Nat) : Nat := match p with | some n => 2 ^ 31 + n | none => 0

/-- The MSI-X record of a function. -/
def msixRecord (x : Msix) : List Byte :=
  let vec := fun v => tgetD x.vecs v {}
  pad64 (((List.range x.size).flatMap fun v =>
      leBytes 8 (vec v).addr ++ leBytes 4 (vec v).data ++ leBytes 4 (b2n (vec v).mask)) ++
    leBytes 8 (bitSum ((List.range x.size).filter fun v => (vec v).pending)))

/-- The time-pair registration of a function. -/
def Mod.pairOf (m : Mod) (f : Fn) : Option TimePair := (m.tack.pairs.find? fun x => decide (x.1 = f)).map (·.2)

/-- The general record of an instance. -/
def Mod.generalRecord (m : Mod) (i : Nat) : List Byte :=
  let f := m.instFn i
  let (sa, sp) := (m.owner i).summary.getD (0, none)
  let ix := [m.ownerSlice i, i]
  let (pa, pp, pe) := match m.pairOf f with | some x => (x.addr, x.pasid, 1) | none => (0, none, 0)
  leBytes 8 sa ++ leBytes 4 (pasidWord sp) ++ leBytes 4 (m.get F.SPL_OWNER_INST_SUM_EN ix + 2 * m.get F.SPL_OWNER_INST_K ix) ++
    leBytes 8 pa ++ leBytes 4 (pasidWord pp) ++ leBytes 4 pe ++ leBytes 4 (m.stored .SEL_VF_CFG (epIx f.ep ++ [f.vf.getD 0])) ++
    leBytes 4 (m.stored .INST_EVENT [i] / 16 * 16) ++ List.replicate 24 0

/-- The record of a ring: READ equals CONSUMED, and so does the sequence. (DEDUCED, log 63) -/
def ringRecord (k : Nat) (r : Ring) : List Byte :=
  let st := if r.state = 3 then r.before else r.state
  leBytes 1 (k / 65536) ++ leBytes 1 r.log2 ++ leBytes 1 r.group ++ leBytes 1 r.attr ++ leBytes 2 (k % 65536) ++ leBytes 2 r.peer ++
    leBytes 8 r.addr ++ leBytes 8 r.record ++ leBytes 4 (pasidWord r.pasid) ++ leBytes 2 (r.vector.getD 0xFFFF) ++ leBytes 1 r.modCount ++
    leBytes 1 ((if st = 4 then 4 else 1) + 8 * r.cause) ++ leBytes 4 r.produced ++ leBytes 4 r.consumed ++
    leBytes 2 (r.eseq + 65536 - r.entries.length % 65536) ++ leBytes 2 r.modUs ++ List.replicate 20 0

/-- The ESP SA over a context: its key, SPI, window, replay state. -/
def Mod.espOn (m : Mod) (k : Nat) : Option (Nat × Nat × Nat × List Replay) :=
  m.thm.objs.findSome? fun (o : Nat × ThmObj) =>
    match o.2.kind with | .esp c spi w r => if c = k then some (o.1, spi, w, r) else none | _ => none

/-- The record of a context: its label and counters, never a key (R349). -/
def Mod.ctxRecord (m : Mod) (k : Nat) (o : ThmObj) : List Byte :=
  let root := o.root.getD 0
  let (base, guard) := match o.epoch with | some x => (x.base, x.guard) | none => (0, 0)
  let (spi, w, fl, top) := match m.espOn k with
    | some (_, spi, w, rs) => (spi, w, 1 + 2 * b2n (o.dir = 1), (rs.map fun (x : Replay) => x.top).foldl max 0)
    | none => (0, 0, 0, 0)
  labelOf o.purpose o.alg (o.epoch.map fun (x : EpochSet) => (o.eHigh.getD 0, x.period)) o.inst o.ctxId o.incarnation o.origin ++
    leBytes 1 root ++ leBytes 1 o.dir ++ leBytes 1 (k / 32768) ++ [0] ++ leBytes 4 (m.viewRootId root) ++ leBytes 4 (handleOf k o.serial) ++
    leBytes 4 0 ++ leBytes 8 o.counter ++ leBytes 8 (unsigned 64 (o.eHigh.getD (-(2 ^ 63)))) ++ leBytes 6 base ++ [0, 0] ++ leBytes 4 guard ++
    leBytes 4 spi ++ leBytes 2 w ++ leBytes 1 fl ++ leBytes 5 0 ++ leBytes 8 top

/-- The contexts that an image carries: GENERIC, ESP and XTS. -/
def Mod.savedCtx (m : Mod) (i : Nat) : List (Nat × ThmObj) :=
  m.thm.objs.filter fun (o : Nat × ThmObj) => decide (o.2.inst = i ∧ o.2.kind = .ctx) && [1, 2, 4].contains o.2.purpose

/-- The pending completions of an instance: entries of its rings, or of its storage queues. -/
def Mod.pendRecords (m : Mod) (i : Nat) : List (List Byte) :=
  if m.isStorage i then
    (m.ctl i).cqs.flatMap fun (q : Nat × Cq) => q.2.wait.map fun e =>
      nvCqe (match tget (m.ctl i).sqs e.sq with | some s => s.head | none => 0) false e ++ leBytes 2 q.1 ++ List.replicate 14 0
  else (m.ringsOf i).flatMap fun (r : Nat × Ring) => r.2.pend.map Cpl.bytes

/-- The records that a storage instance adds (R472). -/
def Mod.stoRecords (m : Mod) (i : Nat) : List (List Byte) :=
  if !m.isStorage i then []
  else
    let c := m.ctl i
    let aers := c.cmds.filter fun d => d.stage = .aer
    let (sh, ev) := c.shadow.getD (0, 0)
    let head := leBytes 4 c.cc ++ leBytes 4 c.aqa ++ leBytes 8 c.asq ++ leBytes 8 c.acq ++ leBytes 8 sh ++ leBytes 8 ev ++
      leBytes 4 c.queues ++ leBytes 4 c.coal ++ leBytes 4 c.aec ++ leBytes 2 aers.length ++
      slice (aers.flatMap fun d => leBytes 2 d.cid) 0 8 ++ leBytes 2 0
    let cq := fun (q : Nat × Cq) => leBytes 2 q.1 ++ leBytes 1 (1 + 2 * b2n q.2.ien + 4 * b2n (c.cds.contains q.2.vector)) ++ [0] ++
      leBytes 2 q.2.size ++ leBytes 2 0 ++ leBytes 8 q.2.base ++ leBytes 2 q.2.vector ++ leBytes 2 q.2.head ++ leBytes 2 q.2.tail ++
      leBytes 1 (b2n q.2.phase) ++ List.replicate 9 0
    let sq := fun (q : Nat × Sq) => leBytes 2 q.1 ++ leBytes 2 0 ++ leBytes 2 q.2.size ++ leBytes 2 q.2.cq ++ leBytes 8 q.2.base ++
      leBytes 2 0 ++ leBytes 2 q.2.head ++ leBytes 2 q.2.tail ++ List.replicate 10 0
    head :: (c.cqs.map cq ++ c.sqs.map sq)

/-- The image of an instance (R448). (DEDUCED, log 63) -/
def Mod.imageOf (m : Mod) (i : Nat) : List Byte :=
  let rings := (m.ringsOf i).map fun (r : Nat × Ring) => ringRecord r.1 r.2
  let ctxs := (m.savedCtx i).map fun (o : Nat × ThmObj) => m.ctxRecord o.1 o.2
  let pend := m.pendRecords i
  let sto := m.stoRecords i
  let body := m.generalRecord i ++ msixRecord (tgetD m.msix (fnKey (m.instFn i)) {}) ++ rings.flatten ++ ctxs.flatten ++ pend.flatten ++ sto.flatten
  let head := ascii "UXIS" ++ leBytes 2 1 ++ leBytes 2 (m.get F.INST_STATUS_KIND [i] + 2 * m.get F.INST_STATUS_FIXED_SHARE [i]) ++
    leBytes 4 (128 + body.length) ++ leBytes 2 i ++ leBytes 2 (m.instGen i) ++ serialNumber ++ leBytes 8 (time64 m.now) ++
    leBytes 2 (m.instVectors i) ++ leBytes 2 rings.length ++ leBytes 2 ctxs.length ++ leBytes 2 pend.length ++
    leBytes 1 (sto.length - 1) ++ List.replicate 15 0
  let all := head ++ body
  all ++ sha384 all ++ List.replicate 16 0

/-- INST_SAVE (R447). -/
def execInstSave (c : Cmd) (s : State) : Host.Outcome State Fault Refusal :=
  run s fun m => m.runCmd c 0x0107 [.inst c.inst] fun m =>
    let i := c.inst
    let bs := m.imageOf i
    if m.instState i ≠ 3 then (m, some (badHeader 1))
    else if 0x200000 < bs.length then (m, some { status := stNoResource, errDetail := 2 })
    else
      let m := m.setSpl fun s => { s with saves := tput s.saves i bs }
      let out := [tlv 0x100 (leBytes 4 bs.length ++ leBytes 2 i ++ [0, 0] ++ slice bs (bs.length - 64) 48)]
      match c.buffer with
      | some (_, n, _) =>
        if n < bs.length then (m, some { status := stNoResource, late := true, errDetail := 1, tlvs := out })
        else (m.bufferWrite c bs, some (okWith out))
      | none => (m, some (okWith out))

/-! ### Restoring (R349, R450, R472) -/

/-- The parts of an image, from its header: where the MSI-X, ring, context, pending and storage records begin, and its length. -/
structure ImageMap where
  kind : Nat
  vectors : Nat
  rings : List (List Byte)
  ctxs : List (List Byte)
  pend : List (List Byte)
  queues : Nat
  sto : List Byte
  general : List Byte
  msix : List Byte
  deriving DecidableEq, Repr

/-- Records of `n` bytes from an offset. -/
def recordsAt (bs : List Byte) (o n count : Nat) : List (List Byte) := (List.range count).map fun i => slice bs (o + n * i) n

/-- Reads the layout of an image. -/
def imageMap (bs : List Byte) : ImageMap :=
  let v := leAt bs 0x28 1
  let a := 128 + ceilDiv (16 * v + 8) 64 * 64
  let nr := leAt bs 0x2A 2
  let nc := leAt bs 0x2C 2
  let np := leAt bs 0x2E 2
  let b := a + 64 * nr
  let c := b + 128 * nc
  let d := c + 32 * np
  { kind := leAt bs 6 1 % 2, vectors := v, rings := recordsAt bs a 64 nr, ctxs := recordsAt bs b 128 nc, pend := recordsAt bs c 32 np,
    queues := leAt bs 0x30 1, sto := slice bs d (leAt bs 8 4 - 64 - d), general := slice bs 64 64, msix := slice bs 128 (a - 128) }

/-- The length that the header's counts give. -/
def ImageMap.length (x : ImageMap) : Nat :=
  128 + ceilDiv (16 * x.vectors + 8) 64 * 64 + 64 * x.rings.length + 128 * x.ctxs.length + 32 * x.pend.length +
    (if x.kind = 1 then 64 + 32 * x.queues else 0) + 64

/-- The key of a ring record. -/
def recKey (r : List Byte) : Nat := ringKey (leAt r 0 1) (leAt r 4 2)

/-- Rings of a kind that an image needs, storage queues among them. -/
def ImageMap.needs (x : ImageMap) (kind : Nat) : Nat :=
  let cqs := (recordsAt x.sto 64 32 x.queues).countP fun r => bit (leAt r 2 1) 0
  (x.rings.countP fun r => leAt r 0 1 = kind) + (if kind = 2 then cqs else if kind = 0 then x.queues - cqs else 0)

/-- Contexts and SAs that an image needs. -/
def ImageMap.objs (x : ImageMap) : Nat := x.ctxs.length + x.ctxs.countP fun r => bit (leAt r 0x72 1) 0

/-- Incarnations that an image draws from slot `k`. -/
def ImageMap.draws (x : ImageMap) (k : Nat) : Nat := x.ctxs.countP fun r => leAt r 0x40 1 = k && leAt r 0x41 1 = 0

/-- The checks of INST_RESTORE, in their order: the answer to the first that fails. -/
def Mod.restoreFault (m : Mod) (c : Cmd) (i : Nat) (bs : List Byte) (x : ImageMap) : Option Ans :=
  let busy := !(m.ringsOf i).isEmpty || decide (m.instObjs i ≠ 0) || (m.owner i).summary.isSome || (m.pairOf (m.instFn i)).isSome ||
    (m.isStorage i && !(m.ctl i).sqs.isEmpty)
  let len := leAt bs 8 4
  let q := (m.inst i).quota
  let rings := (List.range 4).all fun k => x.needs k = 0 || m.mayTake i k (x.needs k)
  let ctxs := decide (x.objs ≤ q.ctx) && (m.fixedShare i || decide (x.objs ≤ m.ctxSpare (m.instSlice i))) &&
    (List.range 64).all fun k => decide (tgetD m.chalk.incarnations k 0 + x.draws k ≤ 0xFFFFFFFF)
  if m.instState i ≠ 3 then some (badHeader 1)
  else if busy then some (badHeader 2)
  else if bs.take 4 ≠ ascii "UXIS" || leAt bs 4 2 ≠ 1 || bs.length < len || len ≠ x.length || x.kind ≠ m.get F.INST_STATUS_KIND [i] then
    some (c.bad 3)
  else if m.instVectors i < x.vectors then some (c.bad 4)
  else if x.ctxs.any fun r => decide (m.viewRootId (leAt r 0x40 1) ≠ leAt r 0x44 4) then some (c.bad 5)
  else if sha384 (bs.take (len - 64)) ≠ slice bs (len - 64) 48 then some { status := stAuthFail }
  else if !rings || !ctxs then some { status := stNoResource, errDetail := 1 }
  else if x.rings.any fun r => (m.ring (recKey r)).isSome || (m.stoNums (leAt r 0 1)).any fun n => decide (n.2 = leAt r 4 2) then
    some { status := stNoResource, errDetail := 3 }
  else none

/-- The ring of a record: PAUSED, or in ERROR, with its saved counts. (DEDUCED, log 63) -/
def Mod.recRing (m : Mod) (i : Nat) (r : List Byte) : Ring :=
  let err := leAt r 0x1F 1 % 8 = 4
  let st := if err then 4 else 2
  let vec := leAt r 0x1C 2
  { owner := i, log2 := leAt r 1 1, group := leAt r 2 1, attr := leAt r 3 1, peer := leAt r 6 2, addr := leAt r 8 8, record := leAt r 0x10 8,
    pasid := pasidOf (leAt r 0x18 4), vector := if vec = 0xFFFF then none else some vec, modCount := leAt r 0x1E 1, modUs := leAt r 0x2A 2,
    state := if m.frozen (m.instFn i) then 3 else st, before := st, cause := leAt r 0x1F 1 / 8, produced := leAt r 0x20 4,
    consumed := leAt r 0x24 4, read := leAt r 0x24 4, eseq := leAt r 0x28 2 }

/-- The pending completion of a record: its kind from its REASON and NBUF, since CTL is zero. (DEDUCED, log 63) -/
def recCpl (r : List Byte) : Cpl :=
  let reason := leAt r 0x16 2
  let nbuf := leAt r 7 1
  let kind := if leAt r 4 2 = stInvalid && reason ≠ 0 then 2 else if nbuf = 0 then 0 else 1
  { kind := kind, status := leAt r 4 2, flags := leAt r 6 1, nbuf := nbuf, ring := leAt r 8 2, count := leAt r 0xA 2 % 2 ^ 14,
    consumed := some (leAt r 0xC 4), stamp := leAt r 0x10 6, reason := reason, cookie := leAt r 0x18 8 }

/-- A pending completion is kept on the COMPLETION ring of its source ring. -/
def Mod.keepCpl (m : Mod) (i : Nat) (r : List Byte) : Mod :=
  let c := { recCpl r with gen := m.instGen i }
  let src := ringKey (if c.kind = 2 then c.nbuf else c.kind) c.ring
  match m.ring src with
  | some x => m.modRing (ringKey 2 x.peer) fun y => { y with pend := y.pend ++ [c] }
  | none => m

/-- Restores a context on the slice of the target's link: a DECRYPT context keeps its label, an ENCRYPT context draws a fresh
incarnation; its ESP SA comes with it. The map's entry. (DEDUCED, log 63) -/
def Mod.restoreCtx (m : Mod) (i : Nat) (r : List Byte) : Mod × List Byte :=
  let sl := m.instSlice i
  let k := leAt r 0x40 1
  let enc := leAt r 0x41 1 = 0
  let (inc, m) := if enc then m.drawIncarnation k false else (.ok (leAt r 0xC 4), m)
  let n := match inc with | .ok n => n | .error _ => 0
  let origin := if enc then serialNumber else slice r 0x10 16
  let period := leAt r 0x28 4
  let high := signed 64 (leAt r 0x58 8)
  let ep : Option EpochSet := if bit (leAt r 3 1) 0 then some { period := period, base := leAt r 0x60 6, guard := leAt r 0x68 4 } else none
  let o : ThmObj :=
    { serial := 0, inst := i, root := some k, purpose := leAt r 1 1, alg := leAt r 2 1, dir := leAt r 0x41 1, ctxId := leAt r 8 4,
      incarnation := n, origin := origin, counter := if enc then 1 else leAt r 0x50 8, epoch := ep,
      eHigh := if enc || ep.isNone || high = -(2 ^ 63) then none else some high,
      keys := match ep with | some x => [x.at_ m.now] | none => [] }
  match m.newObj sl o with
  | none => (m, [])
  | some (h, m) =>
    let w := leAt r 0x70 2
    let top := leAt r 0x78 8
    let seen : Replay := { epoch := match ep with | some x => x.at_ m.now | none => 0, top := top,
                           seen := (List.range (min w top)).map fun d => top - d }
    let m := if !bit (leAt r 0x72 1) 0 then m
      else
        let sa : ThmObj := { serial := 0, inst := i, root := some k, purpose := 10,
                             kind := .esp (h % 2 ^ 18) (leAt r 0x6C 4) w (if top = 0 then [] else [seen]) }
        match m.newObj sl sa with | some (_, m) => m | none => m
    (m, leBytes 4 (leAt r 0x48 4) ++ leBytes 4 h ++ leBytes 4 n ++ origin)

/-- The general record takes effect. The SEQ that the time-pair page holds stands in host memory: a free value, made even. (DEDUCED, log 63) -/
def Mod.restoreGeneral (m : Mod) (i : Nat) (g : List Byte) : Mod :=
  let f := m.instFn i
  let w := leAt g 12 4
  let m := (m.setK i (bits w 1 4)).setSumEn i (bit w 0)
  let m := if bit w 0 then m.modOwner i fun o => { o with summary := some (leAt g 0 8, pasidOf (leAt g 8 4)), last := none } else m
  let m := if bit (leAt g 28 4) 0 then
      let (d, m) := m.draw (2 ^ 31)
      m.setTack fun t => { t with pairs := t.pairs ++ [(f, { addr := leAt g 16 8, pasid := pasidOf (leAt g 24 4), seq := 2 * d, first := true,
                                                             stepTag := m.tl.steps })] }
    else m
  let ix := epIx f.ep ++ [f.vf.getD 0]
  let cfg := leAt g 0x20 4
  let ev := leAt g 0x24 4
  let m := ((m.set F.SEL_VF_CFG_FENCE ix (bits cfg 0 2)).set F.SEL_VF_CFG_RO_DATA ix (bits cfg 2 1)).set F.SEL_VF_CFG_FENCE_BATCH ix (bits cfg 10 9)
  (m.set F.INST_EVENT_VECTOR [i] (bits ev 16 6)).set F.INST_EVENT_VEC_EN [i] (bits ev 22 1)

/-- The MSI-X record takes effect. -/
def Mod.restoreMsix (m : Mod) (i : Nat) (x : ImageMap) : Mod :=
  let k := fnKey (m.instFn i)
  let pba := leAt x.msix (16 * x.vectors) 8
  let vec := fun (v : Nat) => (⟨leAt x.msix (16 * v) 8, leAt x.msix (16 * v + 8) 4, bit (leAt x.msix (16 * v + 12) 4) 0, bit pba v⟩ : MsixVec)
  let y := tgetD m.msix k {}
  { m with msix := tput m.msix k { y with vecs := (List.range x.vectors).foldl (fun t v => tput t v (vec v)) y.vecs } }

/-- A queue record takes effect: the queue takes a number of the ring pool again. (DEDUCED, log 63) -/
def Mod.restoreQueue (m : Mod) (i : Nat) (r : List Byte) : Mod :=
  let q := leAt r 0 2
  let fl := leAt r 2 1
  let n := (m.ringNumber (if bit fl 0 then 2 else 0)).getD 0
  m.modCtl i fun c =>
    if bit fl 0 then
      { c with cqs := tput c.cqs q { num := n, base := leAt r 8 8, size := leAt r 4 2, tail := leAt r 0x14 2, head := leAt r 0x12 2,
                                     phase := bit (leAt r 0x16 1) 0, ien := bit fl 1, vector := leAt r 0x10 2 },
               cds := if bit fl 2 && !c.cds.contains (leAt r 0x10 2) then c.cds ++ [leAt r 0x10 2] else c.cds }
    else
      { c with sqs := tput c.sqs q { num := n, base := leAt r 8 8, size := leAt r 4 2, cq := leAt r 6 2, head := leAt r 0x12 2,
                                     tail := leAt r 0x14 2, asked := leAt r 0x12 2 } }

/-- The storage records take effect. -/
def Mod.restoreSto (m : Mod) (i : Nat) (x : ImageMap) : Mod :=
  let r := x.sto
  let sh := leAt r 0x18 8
  let aer := fun (k : Nat) => ({ sq := 0, raw := overlay (List.replicate 64 0) 0 (leBytes 2 0x0C ++ leBytes 2 (leAt r (0x36 + 2 * k) 2)),
                                 at_ := m.ns, stage := .aer } : NvCmd)
  let m := m.modCtl i fun c =>
    { c with cc := leAt r 0 4, rdy := bit (leAt r 0 4) 0, aqa := leAt r 4 4, asq := leAt r 8 8, acq := leAt r 0x10 8,
             shadow := if sh = 0 then none else some (sh, leAt r 0x20 8), queues := leAt r 0x28 4, coal := leAt r 0x2C 4,
             aec := leAt r 0x30 4, cmds := (List.range (min 4 (leAt r 0x34 2))).map aer }
  let m := (recordsAt r 64 32 x.queues).foldl (fun m q => m.restoreQueue i q) m
  x.pend.foldl (fun m p => m.modCtl i fun c => { c with cqs := tadj c.cqs (leAt p 16 2) fun q =>
    { q with wait := q.wait ++ [{ sq := leAt p 10 2, cid := leAt p 12 2, dw0 := leAt p 0 4, status := leAt p 14 2 / 2 }] } }) m

/-- INST_RESTORE (R450). `bs`: what is read from the buffer or from another module; this module's own slot is read from its save region. -/
def execInstRestore (c : Cmd) (bs : List Byte) (s : State) : Host.Outcome State Fault Refusal :=
  run s fun m => m.runCmd c 0x0108 [.inst c.inst] fun m =>
    let i := c.inst
    let v := c.val 0x100
    let src := leAt v 0 1
    let bs := if src = m.chalk.dir.module then tgetD m.spl.saves (leAt v 2 2) [] else bs
    let x := imageMap bs
    if !m.instExists i then (m, some badHeader)
    else if src = 0xFF && c.buffer.isNone then (m, some c.bad)
    else match m.restoreFault c i bs x with
      | some a => (m, some a)
      | none =>
        let m := x.rings.foldl (fun m r => m.putRing (recKey r) (m.recRing i r)) m
        let m := if x.kind = 1 then m.restoreSto i x else x.pend.foldl (fun m r => m.keepCpl i r) m
        let m := (m.restoreGeneral i x.general).restoreMsix i x
        let (m, map) := x.ctxs.foldl (fun (a : Mod × List Byte) r => let (m, e) := a.1.restoreCtx i r; (m, a.2 ++ e)) (m, [])
        (m.instEvent i F.INST_EVENT_RESTORED, some (m.inLimit c (okWith [tlv 0x101 map])))

/-- INST_RESUME (R452). -/
def execInstResume (c : Cmd) (s : State) : Host.Outcome State Fault Refusal :=
  run s fun m => m.runCmd c 0x0109 [.inst c.inst] fun m =>
    let i := c.inst
    if m.instState i ≠ 3 then (m, some (badHeader 1))
    else
      let m := m.set F.INST_STATUS_STATE [i] 1
      let m := ((m.ringsOf i).map fun r => (r.1, r.2.pend.length)).foldl (fun m (r : Nat × Nat) => m.pendAll r.1 r.2) (m.pauseRings i false)
      let m := if m.isStorage i then (m.ctl i).cqs.foldl (fun m q => m.cqFlush i q.1 q.2.wait.length) m else m.sweep i
      ((m.raiseAll (m.instFn i)).instEvent i F.INST_EVENT_RESUMED, some {})

/-! ### The boot (R437, R456) -/

/-- A boot ends: its outcome, GO, BOOT_DONE. (DESIGN CHOICE, log 64) -/
def Mod.bootEnd (m : Mod) (i st : Nat) (admin : Nat := 0) (reply : Nat := 0) : Mod :=
  let m := ((m.set F.INST_BOOT_STATUS_STATUS [i] st).set F.INST_BOOT_STATUS_ADMIN [i] admin).set F.INST_BOOT_STATUS_REPLY [i] reply
  (m.set F.INST_BOOT_GO [i] 0).instEvent i F.INST_EVENT_BOOT_DONE

/-- A write of INST_BOOT by requester `mid`: GO = 1 starts a boot. -/
def Mod.bootWrite (m : Mod) (mid i v : Nat) : Mod :=
  if m.flag F.INST_BOOT_GO [i] then m.refuse mid (regAddr .INST_BOOT [i]) true true 3
  else
    let m := m.set F.INST_BOOT_ADDR [i] (bits v 6 58)
    if !bit v 0 || !m.instExists i then m
    else
      let m := m.set F.INST_BOOT_GO [i] 1
      if m.instState i ≠ 1 then m.bootEnd i stFrozen
      else if m.isStorage i || !m.issues (m.instFn i) then m.bootEnd i stInvalid
      else m.hostRead (m.instFn i) (64 * bits v 6 58) 64 none (.boot i)

/-- INST_BOOT_GO: the driver of an instance, or the manager, writes INST_BOOT with GO = 1 and an address. -/
def execInstBootGo (i : Fin 4096) (manager : Bool) (addr : BitVec 58) (s : State) : Host.Outcome State Fault Refusal :=
  run s fun m => m.bootWrite (if manager then m.managerMid else 0x2000 + i.val) i (1 + 64 * addr.toNat)

/-- The boot block has come, or its read has failed: the reply ring is created, then the admin ring. -/
def Mod.bootRead (m : Mod) (i : Nat) (bs : Option (List Byte)) : Mod :=
  match bs with
  | none => m.bootEnd i stInvalid
  | some bs =>
    let a := slice bs 0 32
    let r := slice bs 32 32
    if m.instState i ≠ 1 then m.bootEnd i stFrozen
    else if leAt a 0 1 ≠ 3 || leAt r 0 1 ≠ 2 || leAt r 3 1 ≠ 1 then m.bootEnd i stInvalid
    else match m.ringCreate i r with
      | .error (st, _) => m.bootEnd i st
      | .ok (m1, n) =>
        match m1.ringCreate i (overlay a 4 (leBytes 2 n)) with
        | .error (st, _) => m.bootEnd i st
        | .ok (m2, k) => m2.bootEnd i stOk k n

end Sys2Proof.Machine
end

