-- ==== Sys2Proof/Machine/Power.lean ====
section
/-! DEFINITION. *Power, pins and physical characteristics* and the tempo loop: what a turn boundary measures and decides (R86 to R92,
R543 to R550), gating and lifting, the loss of power. -/

namespace Sys2Proof.Machine

/-! ### Bands (R544) -/

/-- The lower limit of a band in mV. -/
def bandLow (b : Nat) : Nat := [44000, 34000, 28000, 22000, 17000, 14000, 11400, 9000].getD b 9000

/-- eta of a band in thousandths. -/
def bandEta (b : Nat) : Nat := [975, 970, 960, 950, 930, 920, 900, 880].getD b 880

/-- The most engines that a band leaves ungated. -/
def bandCeiling (b : Nat) : Nat := [12, 12, 10, 8, 6, 4, 3, 2].getD b 2

/-- The band that holds a VIN in mV; band 7 below 9 V. -/
def bandOf (vin : Nat) : Nat := ((List.range 8).find? fun b => decide (bandLow b ≤ vin)).getD 7

/-- The available power in µW (R543). -/
def Mod.availUw (m : Mod) (vin : Nat) : Nat :=
  min (m.get F.PWR_CFG_POWER_CAP_W * 1000000) (vin * 56 * bandEta (m.get F.PWR_INPUT_BAND))

/-- The engine of priority `p` (R545). -/
def Mod.oeAt (m : Mod) (p : Nat) : Nat := bits (m.get F.PWR_CFG_OE_ORDER) (4 * p) 4

/-! ### Gating (R545 to R547, R550) -/

/-- What gates engine `k`. -/
def Mod.gatesOf (m : Mod) (k : Nat) : Gates := tgetD m.pwr.gates k {}

/-- PWR_GATE_STATUS.BAND, CAP and THERMAL follow the gates. -/
def Mod.gateBits (m : Mod) : Mod :=
  let some' := fun (f : Gates → Bool) => m.pwr.gates.any fun g => f g.2
  ((m.setFlag F.PWR_GATE_STATUS_BAND [] (some' (·.band))).setFlag F.PWR_GATE_STATUS_CAP [] (some' (·.cap))).setFlag
    F.PWR_GATE_STATUS_THERMAL [] (some' fun g => g.thermal || g.hot)

/-- A gating or a lifting counts in GATINGS, sets GATE_EVENT and is logged (R545). (DESIGN CHOICE, log 74) -/
def Mod.gateNote (m : Mod) : Mod :=
  ((m.countSat F.PWR_STATS_GATINGS).set F.PWR_GATE_STATUS_GATE_EVENT [] 1).event 18 2 (regAddr .PWR_GATE_STATUS)

/-- The effects of a gate on engine `k` (R547). -/
def Mod.gateOn (m : Mod) (k : Nat) : Mod :=
  let m := m.set F.PWR_GATE_STATUS_GATED_OE [] (m.get F.PWR_GATE_STATUS_GATED_OE ||| 2 ^ k)
  let m := (List.range 8).foldl (fun m i => m.gatePort (8 * k + i)) m
  let m := (m.emit (.laser k false)).putBob k { m.bobOf k with dark := true }
  (m.bobFollow k).gateNote

/-- The effects of lifting the gate of engine `k`: the lasers are driven again, and the light returns when they are warm (R547). -/
def Mod.gateOff (m : Mod) (k : Nat) : Mod :=
  let g := m.get F.PWR_GATE_STATUS_GATED_OE
  let m := m.set F.PWR_GATE_STATUS_GATED_OE [] (g - 2 ^ k)
  let m := if m.bobState k = 3 || m.bobState k = 4 then m.emit (.laser k true) else m
  ((List.range 8).foldl (fun m i => m.liftPort (8 * k + i)) m).gateNote

/-- Changes what gates engine `k`. -/
def Mod.gateTo (m : Mod) (k : Nat) (f : Gates → Gates) : Mod :=
  let old := m.gatesOf k
  let g := f old
  let m : Mod := { m with pwr := { m.pwr with gates := if g.any then tput m.pwr.gates k g else tdel m.pwr.gates k } }
  let m := if g.any && !old.any then m.gateOn k else if !g.any && old.any then m.gateOff k else m
  m.gateBits

/-- The ungated engine of lowest priority. -/
def Mod.lastUngated (m : Mod) : Option Nat :=
  ((List.range 12).map m.oeAt).reverse.find? fun k => !(m.gatesOf k).any

/-- The engines at priorities from the band's ceiling on are gated. (DESIGN CHOICE, log 74) -/
def Mod.bandGates (m : Mod) : Mod :=
  (List.range 12).foldl (fun m p =>
    if m.get F.PWR_GATE_STATUS_OE_CEILING ≤ p then m.gateTo (m.oeAt p) fun g => { g with band := true } else m) m

/-- The module enters band `b` (R545). -/
def Mod.enterBand (m : Mod) (b : Nat) : Mod :=
  let m := (m.set F.PWR_INPUT_BAND [] b).set F.PWR_GATE_STATUS_OE_CEILING [] (bandCeiling b)
  let m : Mod := { m with pwr := { m.pwr with riseFrom := none, liftAt := max m.pwr.liftAt m.ns } }
  (m.set F.PWR_INPUT_BAND_EVENT [] 1).event 18 1 (regAddr .PWR_INPUT)

/-- Since when VIN has stayed at least 1.0 V above the lower limit of the next higher band (R545). (DEDUCED, log 74) -/
def Mod.riseMark (m : Mod) (vin : Nat) : Mod :=
  let b := m.get F.PWR_INPUT_BAND
  let up := b ≠ 0 && decide (bandLow (b - 1) + 1000 ≤ vin)
  { m with pwr := { m.pwr with riseFrom := if up then m.pwr.riseFrom.or (some m.ns) else none } }

/-- BAND_RISE: 1 s after VIN came to stay at least 1.0 V above the next band's lower limit, that band is
entered (R545). (DESIGN CHOICE, log 74) -/
def execBandRise (s : State) : Host.Outcome State Fault Refusal :=
  run s fun m =>
    let b := m.get F.PWR_INPUT_BAND
    match m.pwr.riseFrom with
    | none => m
    | some t => if b = 0 then m else ((m.runToNs (t + 1000000000)).enterBand (b - 1)).riseMark (m.get F.PWR_INPUT_VIN_MV)

/-- The engine of highest priority, below the band's ceiling, for which a cause holds. -/
def Mod.nextLift (m : Mod) (f : Gates → Bool) : Option Nat :=
  ((List.range (m.get F.PWR_GATE_STATUS_OE_CEILING)).map m.oeAt).find? fun k => f (m.gatesOf k)

/-- The instant of the next lift for a cause: a band's gates one every 100 ms (R545); the others 1 s after module power came to stay below
90 % of p_avail, and 1 s after the lift before (R546). (DEDUCED, log 74) -/
def Mod.liftDue (m : Mod) (cause : Nat) : Option Nat :=
  if cause = 0 then some m.pwr.liftAt else m.pwr.lowFrom.map fun t => max (t + 1000000000) m.pwr.otherLiftAt

/-- The wait that follows a lift. -/
def Mod.lifted (m : Mod) (cause : Nat) : Mod :=
  { m with pwr := if cause = 0 then { m.pwr with liftAt := m.ns + 100000000 } else { m.pwr with otherLiftAt := m.ns + 1000000000 } }

/-- GATE_LIFT: the wait of R545 (cause 0, the band) or of R546 (1 the power cap, 2 a junction) ends. (DESIGN CHOICE, log 74) -/
def execGateLift (cause : Fin 3) (s : State) : Host.Outcome State Fault Refusal :=
  run s fun m =>
    let of : Gates → Bool := match cause.val with | 0 => (·.band) | 1 => (·.cap) | _ => (·.thermal)
    let off : Gates → Gates := fun g => match cause.val with
      | 0 => { g with band := false } | 1 => { g with cap := false } | _ => { g with thermal := false }
    match m.nextLift of, m.liftDue cause with
    | some k, some t => ((m.runToNs t).gateTo k off).lifted cause
    | _, _ => m

/-- OE_OVERTEMP: engine `k` has reached 80 °C, or has fallen below 75 °C (R550). (DESIGN CHOICE, log 74) -/
def execOeOvertemp (k : Fin 12) (hot : Bool) (s : State) : Host.Outcome State Fault Refusal :=
  run s fun m => m.gateTo k fun g => { g with hot := hot }

/-! ### Tempo (R86 to R92) -/

/-- LOW_RESTART: TEMPO_LOW of slice `u`, of the hub for 8, restarts from the next turn. -/
def Mod.lowRestart (m : Mod) (u : Nat) : Mod :=
  if u < 8 then m.set F.PWR_TEMPO_SLICE_LOW_RESTART [u] 1 else m.set F.PWR_TEMPO_HUB_LOW_RESTART [] 1

/-- LOW_RESTART written 1. -/
def execLowRestart (_r : Req) (u : Fin 9) (s : State) : Host.Outcome State Fault Refusal := run s fun m => m.lowRestart u

/-- A target and an alarm threshold in the ranges of PWR_TEMPO_TARGET. -/
def tempoOk (target alarm : Nat) : Bool :=
  1700 ≤ target && target ≤ 3500 && (alarm = 0 || (1700 ≤ alarm && alarm ≤ 3500))

/-- TEMPO_TARGET_SET (R89). -/
def execTempoTargetSet (c : Cmd) (s : State) : Host.Outcome State Fault Refusal :=
  run s fun m => m.runCmd c 0x0008 [.tempo] fun m =>
    let t := match c.tlv 0x100 with | some (_, v) => leAt v 0 4 | none => m.get F.PWR_TEMPO_TARGET_TARGET
    let a := match c.tlv 0x101 with | some (_, v) => leAt v 0 4 | none => m.get F.PWR_TEMPO_TARGET_ALARM
    if !tempoOk t 0 then (m, some (badTlv (c.pos 0x100)))
    else if !tempoOk t a then (m, some (badTlv (c.pos 0x101)))
    else ((m.set F.PWR_TEMPO_TARGET_TARGET [] t).set F.PWR_TEMPO_TARGET_ALARM [] a, some {})

/-- The tempo that monitors give: the lowest of their laps in the turn of 8.192 µs, one step a lap, as whole Mstep/s (R86). The field holds
at most 8,191. (DESIGN CHOICE, log 73) -/
def tempoOf (laps : List Nat) : Nat := min ((laps.min?.getD 0) * 1000 / 8192) 8191

/-- The tempo and the junction of slice `s` are reported (R86). -/
def Mod.tempoSlice (m : Mod) (x : TurnMeas) (s : Nat) : Mod :=
  let t := tempoOf (x.laps.getD s [])
  let low := if m.flag F.PWR_TEMPO_SLICE_LOW_RESTART [s] then t else min t (m.get F.PWR_TEMPO_SLICE_TEMPO_LOW [s])
  let m := ((m.set F.PWR_TEMPO_SLICE_TEMPO [s] t).set F.PWR_TEMPO_SLICE_TEMPO_LOW [s] low).set F.PWR_TEMPO_SLICE_LOW_RESTART [s] 0
  let m := m.set F.PWR_TEMPO_SLICE_TJ [s] (min (x.tj.getD s 0) 127)
  m.setFlag F.PWR_TEMPO_SLICE_BELOW_ALARM [s] (decide (t < m.get F.PWR_TEMPO_TARGET_ALARM))

/-- The tempo and the junction of the hub. -/
def Mod.tempoHub (m : Mod) (x : TurnMeas) : Mod :=
  let t := tempoOf x.hub
  let low := if m.flag F.PWR_TEMPO_HUB_LOW_RESTART then t else min t (m.get F.PWR_TEMPO_HUB_TEMPO_LOW)
  let m := ((m.set F.PWR_TEMPO_HUB_TEMPO [] t).set F.PWR_TEMPO_HUB_TEMPO_LOW [] low).set F.PWR_TEMPO_HUB_LOW_RESTART [] 0
  m.set F.PWR_TEMPO_HUB_TJ [] (min x.tjHub 127)

/-- Tempos are reported; the module tempo is the lowest of the slices' (R87). -/
def Mod.tempoTurn (m : Mod) (x : TurnMeas) : Mod :=
  let m := ((List.range 8).foldl (fun m s => m.tempoSlice x s) m).tempoHub x
  let t := (List.range 8).foldl (fun a s => min a (m.get F.PWR_TEMPO_SLICE_TEMPO [s])) 8191
  let g := m.tack.golide
  let g : GolideAcc := { g with tempoMin := some (match g.tempoMin with | some a => min a t | none => t) }
  let m : Mod := { m with tack := { m.tack with golide := g } }
  m.set F.PWR_TEMPO_STATUS_MODULE_TEMPO [] t

/-- ALARM is set at a turn in which some slice is below the threshold; the event names the lowest such slice (R92). (DEDUCED, log 73) -/
def Mod.tempoAlarm (m : Mod) : Mod :=
  match (List.range 8).find? fun s => m.flag F.PWR_TEMPO_SLICE_BELOW_ALARM [s] with
  | some s =>
    if m.flag F.PWR_TEMPO_STATUS_ALARM then m
    else (m.set F.PWR_TEMPO_STATUS_ALARM [] 1).event 17 1 (regAddr .PWR_TEMPO_SLICE [s])
      (leBytes 1 s ++ leBytes 2 (m.get F.PWR_TEMPO_SLICE_TEMPO [s]) ++ leBytes 1 (bits (m.stored .PWR_TEMPO_STATUS) 13 3))
  | none => m

/-! ### The rails (R90, R91, R546, R550) -/

/-- Rail `d`: compute dies 0 to 3, hub 4. -/
def Mod.railOf (m : Mod) (d : Nat) : Rail := tgetD m.pwr.rails d {}

/-- The hottest junction on rail `d`. -/
def Mod.railTj (m : Mod) (d : Nat) : Nat :=
  if d < 4 then max (m.get F.PWR_TEMPO_SLICE_TJ [2 * d]) (m.get F.PWR_TEMPO_SLICE_TJ [2 * d + 1]) else m.get F.PWR_TEMPO_HUB_TJ

/-- The lowest tempo on rail `d`. -/
def Mod.railTempo (m : Mod) (d : Nat) : Nat :=
  if d < 4 then min (m.get F.PWR_TEMPO_SLICE_TEMPO [2 * d]) (m.get F.PWR_TEMPO_SLICE_TEMPO [2 * d + 1]) else m.get F.PWR_TEMPO_HUB_TEMPO

/-- The thermal ceiling of a rail whose hottest junction is `tj` (R550), in µV. (DESIGN CHOICE, log 72) -/
def thermalCeiling (limit tj c : Nat) : Nat :=
  if limit < tj then max (c - 10000) 600000 else if tj + 2 ≤ limit then min (c + 2500) 850000 else c

/-- A voltage in µV rounded up to whole steps of 2.5 mV. (DESIGN CHOICE, log 72) -/
def stepsUp (uv : Nat) : Nat := max 1 (ceilDiv uv 2500) * 2500

/-- The common ceiling after a turn (R546), in µV. -/
def commonCeiling (isOver isUnder : Bool) (cut c : Nat) : Nat :=
  if isOver then max (c - stepsUp cut) 600000 else if isUnder then min (c + 2500) 850000 else c

/-- Where the target alone would move a rail (R90): the voltage and the run of turns above the target. Before READY, when `on` is false,
it stays where it is (R501). (DEDUCED, log 73) -/
def railWant (on : Bool) (target t : Nat) (r : Rail) : Nat × Nat :=
  if !on then (r.uv, 0)
  else if t < target then (min (r.uv + 2500) 850000, 0)
  else if target + 25 ≤ t then (if r.high + 1 = 64 then (max (r.uv - 2500) 600000, 0) else (r.uv, r.high + 1))
  else (r.uv, 0)

/-- The move of a rail under its limit (R90): a limit is active when the target alone would leave the rail above it. (DESIGN CHOICE, log 72) -/
def railMove (on : Bool) (target t limit : Nat) (r : Rail) : Rail :=
  let (v, h) := railWant on target t r
  if limit < v then { r with uv := min r.uv limit, high := 0 } else { r with uv := v, high := h }

/-- The rails move, the junction limit before the power cap (R91), and PWR_TEMPO_STATUS says what holds them. (DESIGN CHOICE, log 72; DEDUCED, log 73) -/
def Mod.railTurn (m : Mod) : Mod :=
  let on := decide (m.phase = 5)
  let target := m.get F.PWR_TEMPO_TARGET_TARGET
  let limit := m.get F.PWR_THERM_CFG_TJ_LIMIT
  let common := m.pwr.ceiling
  let ds := List.range 5
  let warm := fun (d : Nat) => { m.railOf d with ceiling := thermalCeiling limit (m.railTj d) (m.railOf d).ceiling }
  let want := fun (d : Nat) => (railWant on target (m.railTempo d) (warm d)).1
  let capped := ds.any fun d => decide (common < want d)
  let hot := ds.any fun d => decide (limit < m.railTj d ∨ (warm d).ceiling < want d)
  let new := fun (d : Nat) => railMove on target (m.railTempo d) (min common (warm d).ceiling) (warm d)
  let m : Mod := { m with pwr := { m.pwr with rails := ds.map fun d => (d, new d) } }
  let short := ds.any fun d => decide ((m.railOf d).uv = 850000 ∧ m.railTempo d < target)
  let m := ((m.setFlag F.PWR_TEMPO_STATUS_POWER_CAPPED [] capped).setFlag F.PWR_TEMPO_STATUS_THERMAL_LIMITED [] hot).setFlag
    F.PWR_TEMPO_STATUS_TARGET_UNREACHED [] short
  let m := if hot then m.countSat F.PWR_STATS_THERMAL_TURNS else m
  let m := (List.range 8).foldl (fun m s => m.set F.PWR_TEMPO_SLICE_VCORE [s] ((m.railOf (s / 2)).uv / 1000)) m
  m.set F.PWR_TEMPO_HUB_VCORE [] ((m.railOf 4).uv / 1000)

/-! ### Input power (R543 to R548) -/

/-- PWR_INPUT and RIDE_THROUGH of the turn. (DESIGN CHOICE, log 75) -/
def Mod.inputTurn (m : Mod) (x : TurnMeas) : Mod :=
  let m := (m.set F.PWR_INPUT_VIN_MV [] (min x.vin 65535)).set F.PWR_INPUT_IIN [] (min x.iin 65535)
  let m := (m.set F.PWR_INPUT_POWER_W [] (min x.power 4095)).setFlag F.PWR_INPUT_CUR_LIMIT [] x.curLimit
  let m := if x.curLimit then m.countSat F.PWR_STATS_CUR_LIMIT_TURNS else m
  m.setFlag F.PWR_GATE_STATUS_RIDE_THROUGH [] x.ride

/-- A third consecutive turn boundary below the band's lower limit: the module enters the band that holds VIN (R545). -/
def Mod.bandTurn (m : Mod) (vin : Nat) : Mod :=
  let b := m.get F.PWR_INPUT_BAND
  let low := decide (vin < bandLow b ∧ b < 7)
  let n := if low then m.pwr.below + 1 else 0
  let m : Mod := { m with pwr := { m.pwr with below := if n < 3 then n else 0 } }
  ((if n < 3 then m else m.enterBand (bandOf vin)).riseMark vin).bandGates

/-- The power cap in a turn (R546): the ceiling falls or rises; with power still exceeded at 0.600 V, one engine is gated and the
manager waits 64 turns before it judges again. (DEDUCED, log 73) -/
def Mod.capTurn (m : Mod) (x : TurnMeas) : Mod :=
  let avail := m.availUw x.vin
  let isOver := decide (avail < x.power * 1000000)
  let isUnder := decide (x.power * 100000000 < 95 * avail)
  let isLow := decide (x.power * 10000000 < 9 * avail)
  let p := m.pwr
  let gate := isOver && p.ceiling = 600000 && p.wait = 0
  let m : Mod := { m with pwr := { p with ceiling := commonCeiling isOver isUnder x.cut p.ceiling,
                                          wait := if gate then 63 else p.wait - 1,
                                          lowFrom := if isLow then p.lowFrom.or (some m.ns) else none } }
  match m.lastUngated with
  | some k => if gate then m.gateTo k fun g => { g with cap := true } else m
  | none => m

/-- Thermal gating (R550): 1 ms of turns, 123, at or above TJ_GATE with the rail at 0.600 V, then one more engine every 10 ms, 1,221
turns. (DEDUCED, log 73) -/
def Mod.heatTurn (m : Mod) : Mod :=
  let hot := (List.range 5).any fun d => decide (m.get F.PWR_THERM_CFG_TJ_GATE ≤ m.railTj d ∧ (m.railOf d).uv = 600000)
  let n := if hot then m.pwr.hotTurns + 1 else 0
  let m : Mod := { m with pwr := { m.pwr with hotTurns := n } }
  match m.lastUngated with
  | some k => if 123 ≤ n && (n - 123) % 1221 = 0 then m.gateTo k fun g => { g with thermal := true } else m
  | none => m

/-! ### Overload (R308, R309) -/

/-- PLT_OVERLOAD of slice `s` takes what the turn saw; EVENT when an overload begins. (DESIGN CHOICE, log 75) -/
def Mod.overloadTurn (m : Mod) (s : Nat) : Mod :=
  let t := tgetD m.plt.seen s {}
  let wait := t.hostWait || (List.range 4).any fun h => m.hostWaits (4 * s + h)
  let pfc := t.pfc || m.plt.xoff.any fun x => decide (x.1 / 96 = s) && x.2.since.isSome
  let now := b2n t.dispatch + 2 * b2n t.seam + 4 * b2n t.cross + 8 * b2n t.egress + 16 * b2n t.spill
  let low := b2n (m.flag F.PWR_TEMPO_SLICE_BELOW_ALARM [s])
  let old := m.stored .PLT_OVERLOAD [s]
  let v := now + 32 * b2n wait + 64 * low + 128 * b2n pfc + 256 * (t.classes % 256)
  let begins := now ≠ 0 && old % 32 = 0
  let had := bit old 16
  let m := m.setStored .PLT_OVERLOAD [s] (v + 65536 * b2n (had || begins))
  if begins && !had then
    m.event 17 2 (regAddr .PLT_OVERLOAD [s]) (leBytes 1 s ++ leBytes 2 v ++ leBytes 2 (m.get F.PWR_TEMPO_SLICE_TEMPO [s]))
  else m

/-- FEC counts of a sub-port (R189); they come with the turn. (DESIGN CHOICE, log 33) -/
def Mod.fecTurn (m : Mod) (x : TurnMeas) : Mod :=
  x.fec.foldl (fun m f =>
    let stat := fun (m : Mod) (i v : Nat) => m.count F.PRT_STAT_COUNT [f.port.val, f.sub.val, i] v
    stat (stat (stat m 19 f.fixed) 20 f.lost) 21 f.symbols) m

/-- TURN_BOUNDARY: device time reaches the turn boundary `t`, in ns; `x` is what the turn measured. (DESIGN CHOICE, log 35) -/
def execTurnBoundary (t : Nat) (x : TurnMeas) (s : State) : Host.Outcome State Fault Refusal :=
  run s fun m =>
    if t % 8192 ≠ 0 || t < m.ns || !m.powered then m
    else
      let m := (m.runToNs t).stwActivate
      let m := ((m.tempoTurn x).inputTurn x).bandTurn x.vin
      let m := ((m.capTurn x).railTurn.heatTurn).tempoAlarm
      let m := (List.range 8).foldl (fun m s => m.overloadTurn s) m
      let m : Mod := { m with plt := { m.plt with seen := [] } }
      (m.fecTurn x).patTurn.hemRefresh.spoolTurn

/-! ### The pins of the power manager (R553) -/

/-- MOD_ALERT_N is held low. -/
def Mod.alert (m : Mod) : Bool :=
  m.tripped || (m.powered && (m.flag F.PWR_TEMPO_STATUS_POWER_CAPPED || m.flag F.PWR_TEMPO_STATUS_THERMAL_LIMITED ||
    m.get F.PWR_GATE_STATUS_GATED_OE ≠ 0))

/-! ### The loss of power (R542, R550) -/

/-- Every laser is cut, every host link drops, and what is not in Chalk is lost. (DESIGN CHOICE, log 75) -/
def Mod.railsOff (m : Mod) : Mod :=
  let lasers := ((List.range 12).filter fun k => m.bobState k ≠ 0).map fun k => Out.laser k false
  let links := ((List.range 32).filter fun e => m.linkUp e).map fun e => Out.linkDrop e
  { chalk := m.chalk, drawn := m.drawn, perst := m.perst, outs := links ++ lasers ++ m.outs }

/-- POWER_LOSS; `ride`: a deficit beyond what storage carries stopped the module (R548), and its entry is the last Chalk write. (DESIGN CHOICE, log 75) -/
def execPowerLoss (ride : Bool) (s : State) : Host.Outcome State Fault Refusal :=
  runMem s fun m _ =>
    if !m.powered then (m, [])
    else
      let m := if ride then m.logWrite { time := m.now, boot := m.chalk.boot, cls := 4, code := 3, traceable := m.flag F.TPL_STATE_TRACEABLE,
                                         source := regAddr .PWR_INPUT } else m
      (m.railsOff, [])

/-- THERMAL_TRIP: a junction at 110 °C or more. Its error-log entry is the last Chalk write (R569); the module stays off. -/
def execThermalTrip (s : State) : Host.Outcome State Fault Refusal :=
  runMem s fun m mem =>
    if !m.powered then (m, mem)
    else
      let m := m.logWrite { time := m.now, boot := m.chalk.boot, cls := 4, code := 2, traceable := m.flag F.TPL_STATE_TRACEABLE,
                            source := regAddr .PWR_TEMPO_STATUS }
      ({ m.railsOff with tripped := true }, [])

/-- INPUT_VALID: the input has been valid for 10 ms (R541) and a COLD start begins; `low`: how long MOD_EN was low before, in ms. After a
thermal trip the module stays off until it was low for 100 ms (R550). -/
def execInputValid (low : Nat) (s : State) : Host.Outcome State Fault Refusal :=
  run s fun m =>
    if m.powered || (m.tripped && low < 100) then m
    else { m with powered := true, tripped := false }

end Sys2Proof.Machine
end

