-- ==== Sys2Proof/Machine/Storage.lean ====
section
/-! DEFINITION. *Storage offload* (chapter 17): the virtual NVMe controllers, their commands, the associations with targets. -/

namespace Sys2Proof.Machine

/-! ### Statuses and the words of a command (R457 to R463) -/

/-- Invalid Command Opcode. -/
def nvOpcode : Nat := nvStatus 0 1 true
/-- Invalid Field in Command. -/
def nvField : Nat := nvStatus 0 2 true
/-- Invalid Namespace or Format. -/
def nvNamespace : Nat := nvStatus 0 0x0B true
/-- Data Transfer Error. -/
def nvTransfer : Nat := nvStatus 0 4
/-- Namespace Not Ready. -/
def nvNotReady : Nat := nvStatus 0 0x82 true
/-- Invalid Queue Identifier. -/
def nvQueueId : Nat := nvStatus 1 1 true

/-- Command Dword `n`. -/
def NvCmd.dw (c : NvCmd) (n : Nat) : Nat := leAt c.raw (4 * n) 4
/-- PRP1. -/
def NvCmd.prp1 (c : NvCmd) : Nat := leAt c.raw 24 8
/-- PRP2. -/
def NvCmd.prp2 (c : NvCmd) : Nat := leAt c.raw 32 8

/-- Changes a command that a controller holds. -/
def Mod.modNv (m : Mod) (i : Nat) (c : NvCmd) (f : NvCmd → NvCmd) : Mod :=
  m.modCtl i fun x => { x with cmds := x.cmds.map fun d => if d.sq = c.sq && d.cid = c.cid then f d else d }

/-- A command of a controller. -/
def Mod.nvCmd (m : Mod) (i q cid : Nat) : Option NvCmd := (m.ctl i).cmds.find? fun d => decide (d.sq = q ∧ d.cid = cid)

/-- A command refused under R457 or R458: counted UNSUPPORTED. (DEDUCED, log 66) -/
def Mod.nvRefuse (m : Mod) (i : Nat) (c : NvCmd) (status : Nat) : Mod := (m.stoCount i 11).nvEnd i c status

/-- Bytes into host memory of a controller's function: the first page is PRP1's, the rest PRP2's. (DESIGN CHOICE, log 66) -/
def Mod.nvReturn (m : Mod) (i : Nat) (c : NvCmd) (bs : List Byte) : Mod :=
  let n := 4096 - c.prp1 % 4096
  let f := m.instFn i
  let m := if bs.isEmpty then m else m.dataWrite f c.prp1 none (bs.take n)
  if bs.length ≤ n then m else m.dataWrite f c.prp2 none (bs.drop n)

/-! ### Asynchronous events (R457, R464) -/

/-- An Asynchronous Event Request that waits completes with a Namespace Attribute Changed notice that is due. -/
def Mod.nvNotice (m : Mod) (i : Nat) : Mod :=
  let c := m.ctl i
  match c.notice, c.cmds.find? fun d => d.stage = .aer with
  | true, some d => (m.modCtl i fun x => { x with notice := false }).nvEnd i d 0 (2 + 4 * 2 ^ 16)
  | _, _ => m

/-- Namespace `n` of an instance has changed: it joins the Changed Namespace List; the first one there raises the notice. (DESIGN CHOICE, log 66) -/
def Mod.nsChanged (m : Mod) (i n : Nat) : Mod :=
  if !m.isStorage i then m
  else
    let c := m.ctl i
    let first := c.changed.isEmpty && bit c.aec 8
    (m.putCtl i { c with changed := if c.changed.contains n then c.changed else c.changed ++ [n], notice := c.notice || first }).nvNotice i

/-- A write of STO_NS (R464). -/
def Mod.nsWrite (m : Mod) (s i n v : Nat) : Mod :=
  let x := [s, i, n - 1]
  let old := m.stored .STO_NS x
  let m := ((m.set F.STO_NS_VALID x (bits v 0 1)).set F.STO_NS_TARGET x (bits v 1 6)).set F.STO_NS_READ_ONLY x (bits v 7 1)
  let r := bits v 8 32
  let m := if r = 0 || r = 0xFFFFFFFF then m else m.set F.STO_NS_REMOTE_NSID x r
  let new := m.stored .STO_NS x
  if s = m.instSlice i && decide (old / 256 ≠ new / 256 ∨ old % 128 ≠ new % 128) then m.nsChanged i n else m

/-! ### Sending to targets (R464, R466, R468) -/

/-- A live I/O connection's remote queue has room. -/
def Mod.connRoom (m : Mod) (s t k : Nat) : Bool :=
  let sent := (m.sto.ctls.map fun (c : Nat × Nvme) =>
    if m.instSlice c.1 = s then c.2.cmds.countP fun d => d.stage = .sent && decide (d.target = t) && decide (d.conn = k) else 0).foldl (· + ·) 0
  decide (sent < m.get F.STO_TGT_CFG_QDEPTH [s, t])

/-- The data of a write in order. -/
def NvCmd.data (c : NvCmd) : List Byte := (List.range c.got.length).flatMap fun k => tgetD c.got k []

/-- Sends a waiting command on its connection (R464): its capsule, with the data where IOCCSZ allows (R466). One sent again counts in
REISSUED. (PRESUMED, log 65) -/
def Mod.nvSend (m : Mod) (i : Nat) (c : NvCmd) : Mod :=
  let s := m.instSlice i
  let k := (c.sq - 1) % max 1 (m.get F.STO_TGT_CFG_IOQ [s, c.target]) + 1
  let a := m.assoc s c.target
  if !m.isStorage i || m.tgtState s c.target ≠ 2 || !m.connRoom s c.target k then m
  else
    let caps := overlay c.raw 4 (leBytes 4 c.nsid)
    let inside := decide (c.data.length + 64 ≤ 16 * a.ioccsz)
    let m := m.emit (.target s c.target k 4 (if inside then caps ++ c.data else caps))
    let m := m.stoCount i 3 (b2n c.order.isSome)
    let m := if c.op = 1 && inside then m.stoCount i 2 c.data.length else m
    let n := m.sto.orders
    (m.setSto fun x => { x with orders := n + 1 }).modNv i c fun d => { d with stage := .sent, conn := k, order := d.order.or (some n) }

/-- The commands that wait for a target: those already sent once first, in the order in which they were first sent, then the others. -/
def Mod.nvWaiting (m : Mod) (s t : Nat) : List (Nat × NvCmd) :=
  let l := m.sto.ctls.flatMap fun (c : Nat × Nvme) =>
    if m.instSlice c.1 = s then (c.2.cmds.filter fun d => d.stage = .wait && decide (d.target = t)).map fun d => (c.1, d) else []
  let key := fun (x : Nat × NvCmd) => x.2.order.getD (m.sto.orders + x.2.at_)
  l.foldl (fun (a : List (Nat × NvCmd)) x =>
    (a.takeWhile fun y => decide (key y ≤ key x)) ++ x :: a.dropWhile fun y => decide (key y ≤ key x)) []

/-- Sends what can be sent to a target. -/
def Mod.nvKick (m : Mod) (s t : Nat) : Mod := (m.nvWaiting s t).foldl (fun m (x : Nat × NvCmd) => m.nvSend x.1 x.2) m

/-- A command is ready for its target: it waits and goes when it can; after CTRL_LOSS_S it ends (R468). -/
def Mod.nvReady (m : Mod) (i : Nat) (c : NvCmd) : Mod :=
  if m.tgtState (m.instSlice i) c.target = 4 then (m.stoCount i 5).nvEnd i c nvNotReady
  else (m.modNv i c fun d => { d with stage := .wait }).nvKick (m.instSlice i) c.target

/-! ### Buffers (R457: PRPs only) -/

/-- The segments of a buffer of `len` bytes on its pages. -/
def nvSegs : List Nat → Nat → List (Nat × Nat)
  | [], _ => []
  | p :: ps, len => let n := min len (4096 - p % 4096); if n = 0 then [] else (p, n) :: nvSegs ps (len - n)

/-- The pages of a buffer are known: a write's data is read, a read goes to its target. -/
def Mod.nvPaged (m : Mod) (i : Nat) (c : NvCmd) : Mod :=
  if c.op = 2 then m.nvReady i c
  else
    let segs := nvSegs c.pages (m.nvLen i c)
    let m := m.modNv i c fun d => { d with stage := .data, left := segs.length, got := [] }
    (segs.zipIdx).foldl (fun m (x : (Nat × Nat) × Nat) => m.hostRead (m.instFn i) x.1.1 x.1.2 none (.nvmeData i c.sq c.cid x.2)) m

/-- Entries of a PRP list that are read at once: those still needed, or those up to the end of its page. -/
def prpTake (list need : Nat) : Nat := min need ((4096 - list % 4096) / 8)

/-- Reads the next part of a PRP list. -/
def Mod.nvList (m : Mod) (i : Nat) (c : NvCmd) (list : Nat) (pages : List Nat) (need : Nat) : Mod :=
  (m.modNv i c fun d => { d with stage := .list, list := list, pages := pages, left := need }).hostRead (m.instFn i) list
    (8 * prpTake list need) none (.prps i c.sq c.cid)

/-- A part of a PRP list has come; its last entry points to the next part where more is needed. -/
def Mod.prpsRead (m : Mod) (i q cid : Nat) (bs : List Byte) : Mod :=
  match m.nvCmd i q cid with
  | none => m
  | some c =>
    if c.stage ≠ .list then m
    else
      let n := prpTake c.list c.left
      let es := (List.range n).map fun k => leAt bs (8 * k) 8
      if n < c.left then m.nvList i c (es.getLastD 0) (c.pages ++ es.dropLast) (c.left - (n - 1))
      else if es.any fun p => decide (p % 4096 ≠ 0) then m.nvEnd i c (nvStatus 0 0x13 true)
      else
        let ps := c.pages ++ es
        (m.modNv i c fun d => { d with pages := ps }).nvPaged i { c with pages := ps }

/-- A part of a write's data has come. -/
def Mod.nvmeData (m : Mod) (i q cid part : Nat) (bs : List Byte) : Mod :=
  match m.nvCmd i q cid with
  | none => m
  | some c =>
    if c.stage ≠ .data then m
    else
      let c := { c with got := tput c.got part bs, left := c.left - 1 }
      let m := m.modNv i c fun d => { d with got := c.got, left := c.left }
      if c.left = 0 then m.nvReady i c else m

/-! ### I/O commands (R458) -/

/-- What the target told of the namespace that a command was mapped to when it was read (R464). -/
def Mod.nvInfo (m : Mod) (i : Nat) (c : NvCmd) : Option NsInfo :=
  match c.map with
  | some (t, _, r) => tget (m.assoc (m.instSlice i) t).ns r
  | none => none

/-- Checks of an I/O command's namespace and transfer, then its buffer. A command that R458 does not let through counts in UNSUPPORTED
(R473). (DEDUCED, log 66) -/
def Mod.nvIo (m : Mod) (i : Nat) (c : NvCmd) : Mod :=
  let s := m.instSlice i
  let writes := c.op = 1 || c.op = 8 || c.op = 9
  match c.map, m.nvInfo i c with
  | some (t, ro, _), some x =>
    let len := m.nvLen i c
    let p := c.prp1
    let pages := ceilDiv (p % 4096 + len) 4096
    if !x.plain then m.nvRefuse i c nvNamespace
    else if writes && ro then m.nvRefuse i c (nvStatus 0 0x20 true)
    else if 262144 < len || c.op = 9 && c.dw 11 % 8 ≠ 4 then m.nvRefuse i c nvField
    else if m.tgtState s t = 4 then (m.stoCount i 5).nvEnd i c nvNotReady
    else if len = 0 then m.nvReady i c
    else if 2 < pages then m.nvList i c c.prp2 [p] (pages - 1)
    else if pages = 2 && c.prp2 % 4096 ≠ 0 then m.nvEnd i c (nvStatus 0 0x13 true)
    else
      let ps := if pages = 1 then [p] else [p, c.prp2]
      (m.modNv i c fun d => { d with pages := ps }).nvPaged i { c with pages := ps }
  | _, _ => m.nvRefuse i c nvNamespace

/-- The Spool of endpoint `e` serves its next work, when that is command `op` of an admin (`admin`) or an I/O queue. -/
def Mod.nvServe (m : Mod) (e : Nat) (admin : Bool) (op : Nat) (body : Mod → Nat → NvCmd → Mod) : Mod :=
  match m.pick e with
  | some (.nvme i c, m') => if decide (c.sq = 0) = admin && c.op = op then body m' i c else m
  | _ => m

/-- NVME_FLUSH. -/
def execNvmeFlush (e : Fin 32) (s : State) : Host.Outcome State Fault Refusal := run s fun m => m.nvServe e false 0 Mod.nvIo

/-- NVME_WRITE. -/
def execNvmeWrite (e : Fin 32) (s : State) : Host.Outcome State Fault Refusal := run s fun m => m.nvServe e false 1 Mod.nvIo

/-- NVME_READ. -/
def execNvmeRead (e : Fin 32) (s : State) : Host.Outcome State Fault Refusal := run s fun m => m.nvServe e false 2 Mod.nvIo

/-- WRITE_ZEROES. -/
def execWriteZeroes (e : Fin 32) (s : State) : Host.Outcome State Fault Refusal := run s fun m => m.nvServe e false 8 Mod.nvIo

/-- DATASET_MANAGEMENT. -/
def execDatasetManagement (e : Fin 32) (s : State) : Host.Outcome State Fault Refusal := run s fun m => m.nvServe e false 9 Mod.nvIo

/-! ### Queues (R459) -/

/-- QID and QSIZE of a create command. -/
def NvCmd.qid (c : NvCmd) : Nat := c.dw 10 % 65536
/-- QSIZE, as a number of entries. -/
def NvCmd.qsize (c : NvCmd) : Nat := c.dw 10 / 65536 + 1

/-- The status with which a create command fails: its identifier, size and base (R459). -/
def Mod.createFault (m : Mod) (i : Nat) (c : NvCmd) (taken : Bool) (limit kind : Nat) : Option Nat :=
  if c.qid = 0 || 64 < c.qid || limit < c.qid || taken then some nvQueueId
  else if c.qsize < 2 || 4096 < c.qsize then some (nvStatus 1 2 true)
  else if !bit (c.dw 11) 0 then some nvField
  else if c.prp1 % 4096 ≠ 0 then some (nvStatus 0 0x13 true)
  else if !m.mayTake i kind || (m.ringNumber kind).isNone then some nvQueueId
  else none

/-- Creates an I/O CQ. -/
def Mod.createCq (m : Mod) (i : Nat) (c : NvCmd) : Mod :=
  let x := m.ctl i
  match m.createFault i c (tget x.cqs c.qid).isSome (x.queues / 65536 + 1) 2 with
  | some st => m.nvEnd i c st
  | none =>
    if bit (c.dw 11) 1 && decide (m.vectorsOf i ≤ c.dw 11 / 65536) then m.nvEnd i c (nvStatus 1 8 true)
    else
      let q : Cq := { num := (m.ringNumber 2).getD 0, base := c.prp1, size := c.qsize, ien := bit (c.dw 11) 1, vector := c.dw 11 / 65536 }
      (m.modCtl i fun y => { y with cqs := tput y.cqs c.qid q, bells := tdel y.bells (2 * c.qid + 1) }).nvEnd i c 0

/-- Creates an I/O SQ. -/
def Mod.createSq (m : Mod) (i : Nat) (c : NvCmd) : Mod :=
  let x := m.ctl i
  match m.createFault i c (tget x.sqs c.qid).isSome (x.queues % 65536 + 1) 0 with
  | some st => m.nvEnd i c st
  | none =>
    let cq := c.dw 11 / 65536
    if cq = 0 || (tget x.cqs cq).isNone then m.nvEnd i c (nvStatus 1 0 true)
    else
      let q : Sq := { num := (m.ringNumber 0).getD 0, base := c.prp1, size := c.qsize, cq := cq }
      (m.modCtl i fun y => { y with sqs := tput y.sqs c.qid q, bells := tdel y.bells (2 * c.qid) }).nvEnd i c 0

/-- Deletes an I/O CQ that no SQ uses. -/
def Mod.deleteCq (m : Mod) (i : Nat) (c : NvCmd) : Mod :=
  let x := m.ctl i
  if c.qid = 0 || (tget x.cqs c.qid).isNone then m.nvEnd i c nvQueueId
  else if x.sqs.any fun q => decide (q.2.cq = c.qid) then m.nvEnd i c (nvStatus 1 0xC true)
  else (m.modCtl i fun y => { y with cqs := tdel y.cqs c.qid }).nvEnd i c 0

/-- Deletes an I/O SQ: its commands not yet sent complete as aborted; the deletion waits for the others. -/
def Mod.deleteSq (m : Mod) (i : Nat) (c : NvCmd) : Mod :=
  let x := m.ctl i
  if c.qid = 0 || (tget x.sqs c.qid).isNone then m.nvEnd i c nvQueueId
  else
    let unsent := x.cmds.filter fun d => decide (d.sq = c.qid) && d.stage ≠ .sent && d.order.isNone
    let m := unsent.foldl (fun m d => m.nvEnd i d (nvStatus 0 8)) m
    let m := m.modNv i c fun d => { d with stage := .deleting }
    (m.modCtl i fun y => { y with sqs := tadj y.sqs c.qid fun q => { q with delete := some c.cid } }).nvAfter i

/-- CREATE_IO_CQ. -/
def execCreateIoCq (e : Fin 32) (s : State) : Host.Outcome State Fault Refusal := run s fun m => m.nvServe e true 5 Mod.createCq

/-- CREATE_IO_SQ. -/
def execCreateIoSq (e : Fin 32) (s : State) : Host.Outcome State Fault Refusal := run s fun m => m.nvServe e true 1 Mod.createSq

/-- DELETE_IO_CQ. -/
def execDeleteIoCq (e : Fin 32) (s : State) : Host.Outcome State Fault Refusal := run s fun m => m.nvServe e true 4 Mod.deleteCq

/-- DELETE_IO_SQ. -/
def execDeleteIoSq (e : Fin 32) (s : State) : Host.Outcome State Fault Refusal := run s fun m => m.nvServe e true 0 Mod.deleteSq

/-! ### Other admin commands (R457, R463) -/

/-- The hottest junction of the module in °C (R550). -/
def Mod.hottest (m : Mod) : Nat :=
  (List.range 8).foldl (fun t s => max t (m.get F.PWR_TEMPO_SLICE_TJ [s])) (m.get F.PWR_TEMPO_HUB_TJ)

/-- The bytes of a log page; none for an identifier that is not supported. (PRESUMED, log 65) -/
def Mod.nvLog (m : Mod) (i lid : Nat) : Option (List Byte) :=
  let c := m.ctl i
  let units := fun n => leBytes 16 (ceilDiv n 1000)
  match lid with
  | 1 => some (slice c.errors.flatten 0 1024)
  | 2 =>
    let b := overlay (List.replicate 512 0) 1 (leBytes 2 (m.hottest + 273))
    some (overlay b 32 (units c.unitsRead ++ units c.unitsWritten ++ leBytes 16 c.hostReads ++ leBytes 16 c.hostWrites))
  | 4 => some (slice (c.changed.flatMap fun n => leBytes 4 n) 0 4096)
  | 5 =>
    let put := fun (b : List Byte) (x : Nat × Nat) => overlay b (4 * x.1) (leBytes 4 x.2)
    some ([0, 1, 2, 4, 5, 6, 8, 9, 0xA, 0xC, 0x7C].map (fun o => (o, 1)) ++
      [(256, 1), (257, 3), (258, 1), (264, 3), (265, 3)] |>.foldl put (List.replicate 4096 0))
  | _ => none

/-- Get Log Page. Reading the Changed Namespace List empties it, unless the event is retained. -/
def Mod.getLog (m : Mod) (i : Nat) (c : NvCmd) : Mod :=
  let lid := c.dw 10 % 256
  match m.nvLog i lid with
  | none => m.nvRefuse i c nvField
  | some bs =>
    let n := (c.dw 10 / 65536 + c.dw 11 % 65536 * 65536 + 1) * 4
    let o := c.dw 12 + c.dw 13 * 2 ^ 32
    let m := if lid = 4 && !bit (c.dw 10) 15 then m.modCtl i fun x => { x with changed := [] } else m
    (m.nvReturn i c ((bs.drop o).take n)).nvEnd i c 0

/-- A namespace is active (R464). -/
def Mod.nsActive (m : Mod) (i n : Nat) : Bool := match m.nsInfo i n with | some x => x.plain | none => false

/-- A number up to 9,999 in decimal digits. -/
def decDigits (n : Nat) : List Byte :=
  let d := fun k => BitVec.ofNat 8 (48 + n / 10 ^ k % 10)
  ((List.range 4).reverse.filter fun k => k = 0 || decide (10 ^ k ≤ n)).map d

/-- A byte in two hexadecimal digits. -/
def hexByte (b : Byte) : List Byte :=
  let d := fun n => BitVec.ofNat 8 (if n < 10 then 48 + n else 87 + n)
  [d (b.toNat / 16), d (b.toNat % 16)]

/-- The Identify Controller data (R453, R457). (PRESUMED, log 65) -/
def identifyController (i : Nat) : List Byte :=
  let nqn := ascii "nqn.2030-01.com.keaso:uxm:" ++ serialNumber.flatMap hexByte ++ ascii ":" ++ decDigits i
  [(77, [6]), (78, leBytes 2 (i + 1)), (80, leBytes 4 0x20100), (92, leBytes 4 0x100), (256, leBytes 2 0x100), (259, [3]), (512, [0x66, 0x44]),
   (514, leBytes 2 4096), (516, leBytes 4 16), (520, leBytes 2 0xC), (525, [1]), (536, leBytes 4 0), (768, slice nqn 0 256)].foldl
    (fun bs (x : Nat × List Byte) => overlay bs x.1 x.2) ((List.range 4096).map Config.identifyByte)

/-- Identify. -/
def Mod.identify (m : Mod) (i : Nat) (c : NvCmd) : Mod :=
  let cns := c.dw 10 % 256
  let bad := c.ns = 0 || 16 < c.ns
  let give := fun (bs : List Byte) => (m.nvReturn i c bs).nvEnd i c 0
  match cns with
  | 0 =>
    if bad then m.nvEnd i c nvNamespace
    else match m.nsInfo i c.ns with
      | some x =>
        let bs := List.replicate 4096 0
        give (if x.plain then overlay (overlay bs 0 (leBytes 8 x.size ++ leBytes 8 x.cap ++ leBytes 8 x.cap)) 128 (leBytes 2 0 ++ leBytes 1 x.lbads) else bs)
      | none => give (List.replicate 4096 0)
  | 1 => give (identifyController i)
  | 2 =>
    if 0xFFFFFFFD < c.ns then m.nvEnd i c nvNamespace
    else give (slice (((List.range 17).filter fun n => decide (c.ns < n) && m.nsActive i n).flatMap fun n => leBytes 4 n) 0 4096)
  | 3 => if bad || !m.nsActive i c.ns then m.nvEnd i c nvNamespace else give ((List.range 4096).map fun k => Config.identifyByte (4096 * (c.ns + 1) + k))
  | _ => m.nvRefuse i c nvField

/-- Abort: a command not yet sent to its target completes with Command Abort Requested. -/
def Mod.nvAbort (m : Mod) (i : Nat) (c : NvCmd) : Mod :=
  let unsent := fun (d : NvCmd) => d.sq ≠ 0 && d.order.isNone && d.stage ≠ .sent
  match m.nvCmd i (c.dw 10 % 65536) (c.dw 10 / 65536) with
  | some d => if unsent d then (m.nvEnd i d (nvStatus 0 7)).nvEnd i c 0 0 else m.nvEnd i c 0 1
  | none => m.nvEnd i c 0 1

/-- Set Features. -/
def Mod.setFeatures (m : Mod) (i : Nat) (c : NvCmd) : Mod :=
  let x := m.ctl i
  let v := c.dw 11
  if bit (c.dw 10) 31 then m.nvEnd i c (nvStatus 1 0xD true)
  else match c.dw 10 % 256 with
    | 1 => (m.putCtl i { x with arb := v % 8 }).nvEnd i c 0
    | 6 => m.nvEnd i c (nvStatus 1 0xE true)
    | 7 =>
      let q := min (v % 65536) 63 + min (v / 65536) 63 * 65536
      if v % 65536 = 65535 || v / 65536 = 65535 then m.nvEnd i c nvField
      else if x.sqs.any (fun s => s.1 ≠ 0) || x.cqs.any (fun s => s.1 ≠ 0) then m.nvEnd i c (nvStatus 0 0xC true)
      else (m.putCtl i { x with queues := q }).nvEnd i c 0 q
    | 8 => (m.putCtl i { x with coal := v % 65536 }).nvEnd i c 0
    | 9 =>
      let vec := v % 65536
      if m.vectorsOf i ≤ vec then m.nvEnd i c nvField
      else (m.putCtl i { x with cds := (if bit v 16 then [vec] else []) ++ x.cds.filter (· ≠ vec) }).nvEnd i c 0
    | 0xB => (m.putCtl i { x with aec := bits v 8 1 * 256 }).nvEnd i c 0
    | _ => m.nvRefuse i c nvField

/-- Get Features: the current value, or the default one. -/
def Mod.getFeatures (m : Mod) (i : Nat) (c : NvCmd) : Mod :=
  let sel := c.dw 10 / 256 % 8
  let x := if sel = 1 then {} else m.ctl i
  if 1 < sel then m.nvRefuse i c nvField
  else match c.dw 10 % 256 with
    | 1 => m.nvEnd i c 0 x.arb
    | 6 => m.nvEnd i c 0 1
    | 7 => m.nvEnd i c 0 x.queues
    | 8 => m.nvEnd i c 0 x.coal
    | 9 =>
      let vec := c.dw 11 % 65536
      if m.vectorsOf i ≤ vec then m.nvEnd i c nvField else m.nvEnd i c 0 (vec + b2n (x.cds.contains vec) * 65536)
    | 0xB => m.nvEnd i c 0 x.aec
    | _ => m.nvRefuse i c nvField

/-- Asynchronous Event Request: at most four are outstanding. -/
def Mod.asyncEvent (m : Mod) (i : Nat) (c : NvCmd) : Mod :=
  if 4 ≤ (m.ctl i).cmds.countP fun d => d.stage = .aer then m.nvEnd i c (nvStatus 1 5 true)
  else (m.modNv i c fun d => { d with stage := .aer }).nvNotice i

/-- Doorbell Buffer Config. -/
def Mod.bellBuffer (m : Mod) (i : Nat) (c : NvCmd) : Mod :=
  if c.prp1 = 0 || c.prp2 = 0 || c.prp1 % 4096 ≠ 0 || c.prp2 % 4096 ≠ 0 then m.nvEnd i c nvField
  else (m.modCtl i fun x => { x with shadow := some (c.prp1, c.prp2) }).nvEnd i c 0

/-- GET_LOG_PAGE. -/
def execGetLogPage (e : Fin 32) (s : State) : Host.Outcome State Fault Refusal := run s fun m => m.nvServe e true 2 Mod.getLog

/-- IDENTIFY. -/
def execIdentify (e : Fin 32) (s : State) : Host.Outcome State Fault Refusal := run s fun m => m.nvServe e true 6 Mod.identify

/-- ABORT. -/
def execAbortCmd (e : Fin 32) (s : State) : Host.Outcome State Fault Refusal := run s fun m => m.nvServe e true 8 Mod.nvAbort

/-- SET_FEATURES. -/
def execSetFeatures (e : Fin 32) (s : State) : Host.Outcome State Fault Refusal := run s fun m => m.nvServe e true 9 Mod.setFeatures

/-- GET_FEATURES. -/
def execGetFeatures (e : Fin 32) (s : State) : Host.Outcome State Fault Refusal := run s fun m => m.nvServe e true 0xA Mod.getFeatures

/-- ASYNCHRONOUS_EVENT_REQUEST. -/
def execAsynchronousEventRequest (e : Fin 32) (s : State) : Host.Outcome State Fault Refusal :=
  run s fun m => m.nvServe e true 0xC Mod.asyncEvent

/-- DOORBELL_BUFFER_CONFIG. -/
def execDoorbellBufferConfig (e : Fin 32) (s : State) : Host.Outcome State Fault Refusal :=
  run s fun m => m.nvServe e true 0x7C Mod.bellBuffer

/-! ### Doorbells, polls and entries (R460, R461, R464) -/

/-- The controller stops: an invalid doorbell value. -/
def Mod.nvFatal (m : Mod) (i : Nat) : Mod := m.modCtl i fun c => { c with cfs := true }

/-- A value of doorbell `d` is taken: SQ tails are even, CQ heads odd. A value beyond the queue, or one that moves backwards past entries
already read, is invalid. (DESIGN CHOICE, log 66) -/
def Mod.takeBell (m : Mod) (i d v : Nat) : Mod :=
  let c := m.ctl i
  let q := d / 2
  if d % 2 = 0 then
    match tget c.sqs q with
    | none => m
    | some x =>
      let used := (x.tail + x.size - x.asked) % x.size
      let want := (v + x.size - x.asked) % x.size
      if x.size ≤ v || want < used then m.nvFatal i
      else m.putCtl i { c with sqs := tput c.sqs q { x with tail := v } }
  else
    match tget c.cqs q with
    | none => m
    | some x =>
      let full := (x.tail + x.size - x.head) % x.size
      let step := (v + x.size - x.head) % x.size
      if x.size ≤ v || full < step then m.nvFatal i
      else m.putCtl i { c with cqs := tput c.cqs q { x with head := v } }

/-- NVME_DOORBELL_WRITE: the value is stored; the next poll reads it. -/
def Mod.nvBell (m : Mod) (i d v : Nat) : Mod :=
  if m.isStorage i && decide (d < 130) then m.modCtl i fun c => { c with bells := tput c.bells d (v % 65536) } else m

/-- NVME_DOORBELL_WRITE of the host of instance `i`: doorbell 2y is SQ y Tail, 2y + 1 is CQ y Head. -/
def execNvmeDoorbellWrite (i : Fin 4096) (d : Fin 130) (v : BitVec 32) (s : State) : Host.Outcome State Fault Refusal :=
  run s fun m => if m.issues (m.instFn i) then m.nvBell i d v.toNat else m

/-- Commands of a controller, and of a slice, that are at targets. -/
def Mod.nvAt (m : Mod) (i : Nat) : Nat := (m.ctl i).cmds.countP fun d => d.stage = .sent

/-- No further I/O entry is read (R464). -/
def Mod.nvHeld (m : Mod) (i : Nat) : Bool :=
  let all := (m.sto.ctls.map fun (c : Nat × Nvme) => if m.instSlice c.1 = m.instSlice i then m.nvAt c.1 else 0).foldl (· + ·) 0
  decide (4096 ≤ m.nvAt i) || decide (65536 ≤ all)

/-- Reads the entries of an SQ that the host has placed, as far as the end of the queue. (DESIGN CHOICE, log 66) -/
def Mod.nvFetch (m : Mod) (i q : Nat) : Mod :=
  let c := m.ctl i
  match tget c.sqs q with
  | none => m
  | some x =>
    let n := if x.asked ≤ x.tail then x.tail - x.asked else x.size - x.asked
    if n = 0 || x.asked ≠ x.head || c.cfs || c.shst ≠ 0 || x.delete.isSome || m.instState i ≠ 1 || (q ≠ 0 && m.nvHeld i) then m
    else (m.putCtl i { c with sqs := tput c.sqs q { x with asked := (x.asked + n) % x.size } }).hostRead (m.instFn i) (x.base + 64 * x.asked)
      (64 * n) none (.sqes i q)

/-- Reads new entries of every SQ and writes completions that wait for room. -/
def Mod.nvWork (m : Mod) (i : Nat) : Mod :=
  let m := (m.ctl i).cqs.foldl (fun m (q : Nat × Cq) => m.cqFlush i q.1 q.2.wait.length) m
  ((m.ctl i).sqs.map (·.1)).foldl (fun m q => m.nvFetch i q) m

/-- Lines of the shadow doorbell page in use. -/
def Nvme.lines (c : Nvme) : Nat := ceilDiv (8 * (((c.sqs.map (·.1)) ++ c.cqs.map (·.1)).foldl max 0 + 1)) 64

/-- NVME_POLL of a controller. -/
def execNvmePoll (i : Fin 4096) (s : State) : Host.Outcome State Fault Refusal :=
  run s fun m =>
    let c := m.ctl i
    let f := m.instFn i
    if !m.isStorage i || !m.issues f || !c.rdy || c.cfs then m
    else
      let m := c.bells.foldl (fun m (b : Nat × Nat) => m.takeBell i b.1 b.2) (m.modCtl i fun x => { x with bells := [] })
      let m := match c.shadow with
        | none => m
        | some (a, _) =>
          let busy := fun (m : Mod) (l : Nat) => m.sel.reads.any fun (r : Nat × HostRead) => decide (r.2.why = ReadFor.shadow i l) && !r.2.stale && !r.2.gone
          (List.range c.lines).foldl (fun m l => if busy m l then m else (m.splCount i 0).hostRead f (a + 64 * l) 64 none (.shadow i l)) m
      m.nvWork i

/-- A line of the shadow page has come: heads and tails of the I/O queues it holds are taken, and their EventIdx written. (PRESUMED, log 65) -/
def Mod.shadowRead (m : Mod) (i l : Nat) (bs : List Byte) : Mod :=
  match (m.ctl i).shadow with
  | none => m
  | some (_, ev) =>
    let one := fun (m : Mod) (d size : Nat) =>
      let v := leAt bs (4 * (d - 16 * l)) 4 % 65536
      (m.takeBell i d v).hostWrite (m.instFn i) (ev + 4 * d) none (leBytes 4 ((v + size - 1) % size))
    let m := (List.range 8).foldl (fun m k =>
      let q := 8 * l + k
      if q = 0 then m
      else
        let c := m.ctl i
        let m := match tget c.sqs q with | some x => one m (2 * q) x.size | none => m
        match tget c.cqs q with | some x => one m (2 * q + 1) x.size | none => m) m
    m.nvWork i

/-- The status with which a command ends as soon as it is read: an opcode that is not supported, a fused command, an SGL descriptor, a
metadata pointer (R457, R458). -/
def nvUnfit (q : Nat) (raw : List Byte) : Option Nat :=
  let op := leAt raw 0 1
  let known := if q = 0 then [0, 1, 2, 4, 5, 6, 8, 9, 0xA, 0xC, 0x7C] else [0, 1, 2, 8, 9]
  if !known.contains op then some nvOpcode
  else if leAt raw 1 1 % 4 ≠ 0 || 64 ≤ leAt raw 1 1 || leAt raw 16 8 ≠ 0 then some nvField
  else none

/-- Entries of an SQ have come: they become commands. (DESIGN CHOICE, log 66) -/
def Mod.sqesRead (m : Mod) (i q : Nat) (bs : List Byte) : Mod :=
  let m := (List.range (bs.length / 64)).foldl (fun m k =>
    match tget (m.ctl i).sqs q with
    | none => m
    | some x =>
      let raw := slice bs (64 * k) 64
      let map := if q = 0 then none else m.nsMap i (leAt raw 4 4)
      let c : NvCmd := { sq := q, raw := raw, at_ := m.ns, map := map, target := (map.map (·.1)).getD 0, nsid := (map.map (·.2.2)).getD 0 }
      let m := m.modCtl i fun y => { y with sqs := tput y.sqs q { x with head := (x.head + 1) % x.size }, cmds := y.cmds ++ [c] }
      let m := m.stoCount i 0
      match nvUnfit q raw with
      | some st => m.nvRefuse i c st
      | none => m) m
  m.nvFetch i q

/-! ### The controller's registers (R454 to R456) -/

/-- The fields of CC that are honoured (R455); the others read as zero. -/
def ccFields (v : Nat) : Nat := v &&& 0x00FFFFF1

/-- A write of CC. (DESIGN CHOICE, log 66) -/
def Mod.ccWrite (m : Mod) (i v : Nat) : Mod :=
  let c := m.ctl i
  let was := bit c.cc 0
  let now := bit v 0
  let ok := bits v 4 3 = 0 && bits v 7 4 = 0 && bits v 11 3 = 0 && bits v 16 4 = 6 && bits v 20 4 = 4
  let asqs := bits c.aqa 0 12
  let acqs := bits c.aqa 16 12
  let put := fun (m : Mod) => m.modCtl i fun x => { x with cc := ccFields v }
  if was && !now then put (m.vfReset (m.instFn i) true)
  else if !was && now then
    let good := ok && decide (1 ≤ asqs) && decide (1 ≤ acqs) && c.asq % 4096 = 0 && c.acq % 4096 = 0 && m.mayTake i 0 && m.mayTake i 2
    if m.instState i = 4 then put m
    else if !good then (put m).nvFatal i
    else
      let sq : Sq := { num := (m.ringNumber 0).getD 0, base := c.asq, size := asqs + 1 }
      let cq : Cq := { num := (m.ringNumber 2).getD 0, base := c.acq, size := acqs + 1 }
      (put m).modCtl i fun x => { x with rdy := true, sqs := [(0, sq)], cqs := [(0, cq)], bells := [] }
  else
    let m := put m
    let shn := bits v 14 2
    if (shn = 1 || shn = 2) && c.shst = 0 then (m.modCtl i fun x => { x with shst := 1, flushes := none, shutAt := m.ns }).nvAfter i else m

/-- The host's write of CC reaches a storage instance's controller, and moves EN from `a` to `b`. -/
def Mod.ccRow (m : Mod) (i v : Nat) (a b : Bool) : Mod :=
  if m.isStorage i && m.issues (m.instFn i) && bit (m.ctl i).cc 0 = a && bit v 0 = b then m.ccWrite i v else m

/-- NVME_ENABLE: a write of CC that sets EN. -/
def execNvmeEnable (i : Fin 4096) (v : BitVec 32) (s : State) : Host.Outcome State Fault Refusal :=
  run s fun m => m.ccRow i v.toNat false true

/-- NVME_DISABLE: a write of CC that clears EN. -/
def execNvmeDisable (i : Fin 4096) (v : BitVec 32) (s : State) : Host.Outcome State Fault Refusal :=
  run s fun m => m.ccRow i v.toNat true false

/-- NVME_SHUTDOWN: a write of CC with SHN 01b or 10b. -/
def execNvmeShutdown (i : Fin 4096) (v : BitVec 32) (s : State) : Host.Outcome State Fault Refusal :=
  run s fun m =>
    let en := bit (m.ctl i).cc 0
    if bits v.toNat 14 2 = 1 || bits v.toNat 14 2 = 2 then m.ccRow i v.toNat en en else m

/-- SHUTDOWN_TIMEOUT: CAP.TO after SHN was set, SHST becomes 10b. -/
def execShutdownTimeout (i : Fin 4096) (s : State) : Host.Outcome State Fault Refusal :=
  run s fun m => if (m.ctl i).shst = 1 then (m.runToNs ((m.ctl i).shutAt + 10000000000)).modCtl i fun c => { c with shst := 2 } else m

/-- A controller register read, `n` bytes at offset `off`. (PRESUMED, log 65) -/
def Mod.nvRegRead (m : Mod) (i off n : Nat) : Nat :=
  let c := m.ctl i
  let cap := 0xFFF + 2 ^ 16 + 20 * 2 ^ 24 + 2 ^ 37
  let csts := b2n c.rdy + 2 * b2n c.cfs + 4 * c.shst
  let all := leBytes 8 cap ++ leBytes 4 0x20100 ++ leBytes 8 0 ++ leBytes 4 c.cc ++ leBytes 4 0 ++ leBytes 4 csts ++ leBytes 4 0 ++
    leBytes 4 c.aqa ++ leBytes 8 c.asq ++ leBytes 8 c.acq
  leAt all off n

/-- A controller register written by its host, `n` bytes at offset `off`. -/
def Mod.nvRegWrite (m : Mod) (i off n v : Nat) : Mod :=
  let put := fun (old o : Nat) => leNat (overlay (leBytes 8 old) (off - o) (leBytes n v)) % 2 ^ 64
  if off = 0x14 then m.ccWrite i (v % 2 ^ 32)
  else if off = 0x24 then m.modCtl i fun c => { c with aqa := v &&& 0x0FFF0FFF }
  else if 0x28 ≤ off && off < 0x30 then m.modCtl i fun c => { c with asq := put c.asq 0x28 }
  else if 0x30 ≤ off && off < 0x38 then m.modCtl i fun c => { c with acq := put c.acq 0x30 }
  else m

/-! ### Associations (R465 to R468) -/

/-- Changes an association. -/
def Mod.modAssoc (m : Mod) (s t : Nat) (f : Assoc → Assoc) : Mod := m.setSto fun x => { x with assocs := tmod x.assocs (s * 64 + t) {} f }

/-- The commands that stand with a target: at it, or waiting for it. -/
def Mod.nvTied (m : Mod) (s t : Nat) : List (Nat × NvCmd) :=
  m.sto.ctls.flatMap fun (c : Nat × Nvme) =>
    if m.instSlice c.1 = s then (c.2.cmds.filter fun d => (d.stage = .sent || d.stage = .wait) && decide (d.target = t)).map fun d => (c.1, d) else []

/-- The association enters a state; its connections are closed, or the first is opened. -/
def Mod.tgtEnter (m : Mod) (s t st : Nat) : Mod :=
  let m := if m.tgtState s t = 1 || m.tgtState s t = 2 then m.emit (.target s t 0 1 []) else m
  let m := (m.set F.STO_TGT_STATUS_STATE [s, t] st).set F.STO_TGT_STATUS_LIVE_IOQ [s, t] 0
  let m := m.modAssoc s t fun a => { a with step := if st = 1 then 1 else 0, conn := 0, since := m.ns, retx := [] }
  if st = 1 then m.emit (.target s t 0 0 []) else m

/-- A LIVE association is lost (R466, R468). (DESIGN CHOICE, log 67) -/
def Mod.tgtLost (m : Mod) (s t cause : Nat) : Mod :=
  let m := (m.set F.STO_TGT_STATUS_LAST_LOSS [s, t] cause).count F.STO_CNT_COUNT [s, 9]
  let tied := m.nvTied s t
  let m := tied.foldl (fun m (x : Nat × NvCmd) =>
    if x.2.op = 2 && x.2.wrote then m.nvEnd x.1 x.2 nvTransfer else m.modNv x.1 x.2 fun d => { d with stage := .wait }) m
  let m := m.modAssoc s t fun a => { a with lossAt := some m.ns, fails := 0 }
  let m := m.tgtEnter s t 3
  m.modAssoc s t fun a => { a with since := m.ns }

/-- A step of CONNECTING has failed: RETRY_WAIT, RETRIES counts one. (DESIGN CHOICE, log 67) -/
def Mod.tgtFail (m : Mod) (s t : Nat) : Mod :=
  let m := (m.countSat F.STO_TGT_STATUS_RETRIES [s, t]).set F.STO_TGT_STATUS_LAST_LOSS [s, t] 9
  (m.modAssoc s t fun a => { a with fails := a.fails + 1 }).tgtEnter s t 3

/-- The reserved values of STO_TGT_CFG keep their fields (R8). -/
def Mod.tgtCfg (m : Mod) (s t v : Nat) : Mod :=
  let x := [s, t]
  let put := fun (m : Mod) (f : Fld) (ok : Nat → Bool) => let n := bits v f.lo f.w; if ok n then m.set f x n else m
  let any := fun (_ : Nat) => true
  let m := put m F.STO_TGT_CFG_ENABLE any
  let m := put m F.STO_TGT_CFG_PORT fun n => decide (n < 96)
  let m := put m F.STO_TGT_CFG_SUB any
  let m := put m F.STO_TGT_CFG_CLASS fun n => decide (n < 7)
  let m := put (put (put (put m F.STO_TGT_CFG_TLS any) F.STO_TGT_CFG_PSK_SLOT any) F.STO_TGT_CFG_HDGST any) F.STO_TGT_CFG_DDGST any
  let m := put m F.STO_TGT_CFG_REQUIRE_DGST any
  let m := put m F.STO_TGT_CFG_IOQ fun n => decide (1 ≤ n ∧ n ≤ 32)
  let m := put m F.STO_TGT_CFG_QDEPTH fun n => decide (2 ≤ n ∧ n ≤ 4096)
  let m := put m F.STO_TGT_CFG_IO_WAIT_S fun n => decide (1 ≤ n)
  put m F.STO_TGT_CFG_CTRL_LOSS_S fun n => decide (1 ≤ n)

/-- A write of STO_TGT_CFG by the manager (R464, R465). (DESIGN CHOICE, log 67) -/
def Mod.tgtWrite (m : Mod) (mid s t v : Nat) : Mod :=
  let on := m.flag F.STO_TGT_CFG_ENABLE [s, t]
  if m.tgtState s t ≠ 0 && bit v 0 then m.refuse mid (regAddr .STO_TGT_CFG [s, t]) true true 3
  else
    let m := m.tgtCfg s t v
    if !on && bit v 0 then m.tgtEnter s t 1
    else if m.tgtState s t ≠ 0 && !bit v 0 then
      let tied := m.nvTied s t
      let m := m.tgtEnter s t 0
      let m := ((m.set F.STO_TGT_STATUS_HDGST_ON [s, t] 0).set F.STO_TGT_STATUS_DDGST_ON [s, t] 0).setSto fun x =>
        { x with assocs := tdel x.assocs (s * 64 + t) }
      tied.foldl (fun m (x : Nat × NvCmd) => m.nvEnd x.1 x.2 nvTransient) m
    else m

/-- TARGET_ENABLE: the manager writes STO_TGT_CFG with ENABLE 1. -/
def execTargetEnable (sl : Fin 8) (t : Fin 64) (v : BitVec 63) (s : State) : Host.Outcome State Fault Refusal :=
  run s fun m => m.tgtWrite m.managerMid sl t (1 + 2 * v.toNat)

/-- TARGET_DISABLE: the manager writes STO_TGT_CFG with ENABLE 0. -/
def execTargetDisable (sl : Fin 8) (t : Fin 64) (v : BitVec 63) (s : State) : Host.Outcome State Fault Refusal :=
  run s fun m => m.tgtWrite m.managerMid sl t (2 * v.toNat)

/-- The association is LIVE: held commands are sent. -/
def Mod.tgtLive (m : Mod) (s t : Nat) : Mod :=
  let m := m.set F.STO_TGT_STATUS_STATE [s, t] 2
  (m.modAssoc s t fun a => { a with fails := 0, lossAt := none, step := 0, conn := 0, alive := m.ns }).nvKick s t

/-- The step after the one under way, on its connection: 1 TCP, 2 TLS, 3 ICReq, 4 Connect, and on the admin connection 5 enable,
6 Identify. -/
def nextStep (tls : Bool) (step conn : Nat) : Nat × Nat :=
  if step = 1 then (if tls then 2 else 3, conn)
  else if step < 4 then (step + 1, conn)
  else if conn = 0 && step < 6 then (step + 1, 0)
  else (1, conn + 1)

/-- What a completed step tells takes effect; whether the association can go on: a digest that is required must be granted. -/
def Mod.stepTold (m : Mod) (s t : Nat) (x : StepInfo) : Mod × Bool :=
  let a := m.assoc s t
  let ix := [s, t]
  if a.step = 3 then
    let h := m.flag F.STO_TGT_CFG_HDGST ix
    let d := m.flag F.STO_TGT_CFG_DDGST ix
    let short := m.flag F.STO_TGT_CFG_REQUIRE_DGST ix && ((h && !x.hdgst) || (d && !x.ddgst))
    ((m.setFlag F.STO_TGT_STATUS_HDGST_ON ix (h && x.hdgst)).setFlag F.STO_TGT_STATUS_DDGST_ON ix (d && x.ddgst), !short)
  else if a.step = 4 && a.conn = 0 then (m.set F.STO_TGT_STATUS_REMOTE_CNTLID ix x.cntlid, true)
  else if a.step = 6 then
    let ns := x.ns.foldl (fun (l : Tab NsInfo) n => tput l n.1 { size := n.2.1, cap := n.2.2.1, lbads := n.2.2.2.1, plain := n.2.2.2.2 }) []
    (m.modAssoc s t fun a => { a with ioccsz := x.ioccsz, vwc := x.vwc, ns := ns }, true)
  else (m, true)

/-- TARGET_CONNECT_STEP: the step of CONNECTING under way completes or fails. -/
def execTargetConnectStep (sl : Fin 8) (t : Fin 64) (ok : Bool) (x : StepInfo) (s : State) : Host.Outcome State Fault Refusal :=
  run s fun m =>
    let a := m.assoc sl t
    if m.tgtState sl t ≠ 1 then m
    else
      let (m, told) := m.stepTold sl t x
      let key := a.step ≠ 2 || (m.rootOf (m.get F.STO_TGT_CFG_PSK_SLOT [sl, t])).isSome
      if !ok || !told || !key then m.tgtFail sl t
      else
        let m := if a.step = 4 && a.conn ≠ 0 then m.set F.STO_TGT_STATUS_LIVE_IOQ [sl, t] a.conn else m
        let (st, k) := nextStep (m.flag F.STO_TGT_CFG_TLS [sl, t]) a.step a.conn
        if m.get F.STO_TGT_CFG_IOQ [sl, t] < k then m.tgtLive sl t
        else (m.modAssoc sl t fun a => { a with step := st, conn := k }).emit (.target sl t k 6 (leBytes 1 st))

/-- TARGET_CONNECT_TIMEOUT: CONNECTING has lasted 10 s. -/
def execTargetConnectTimeout (sl : Fin 8) (t : Fin 64) (s : State) : Host.Outcome State Fault Refusal :=
  run s fun m => if m.tgtState sl t ≠ 1 then m else (m.runToNs ((m.assoc sl t).since + 10000000000)).tgtFail sl t

/-- TARGET_RETRY_TIMER: the retry wait ends. -/
def execTargetRetryTimer (sl : Fin 8) (t : Fin 64) (s : State) : Host.Outcome State Fault Refusal :=
  run s fun m =>
    let a := m.assoc sl t
    if m.tgtState sl t ≠ 3 then m else (m.runToNs (a.since + min (100000000 * 2 ^ min a.fails 7) 10000000000)).tgtEnter sl t 1

/-- CTRL_LOSS_EXPIRY: CTRL_LOSS_S after the loss that left LIVE the association is LOST. -/
def execCtrlLossExpiry (sl : Fin 8) (t : Fin 64) (s : State) : Host.Outcome State Fault Refusal :=
  run s fun m =>
    match (m.assoc sl t).lossAt with
    | none => m
    | some l =>
      if m.tgtState sl t ≠ 1 && m.tgtState sl t ≠ 3 then m
      else
        let m := (m.runToNs (l + m.get F.STO_TGT_CFG_CTRL_LOSS_S [sl, t] * 1000000000)).tgtEnter sl t 4
        (m.nvTied sl t).foldl (fun m (x : Nat × NvCmd) => (m.stoCount x.1 5).nvEnd x.1 x.2 nvNotReady) m

/-- TARGET_CONNECTION_LOSS: a connection of an association is lost for a cause of R466. -/
def execTargetConnectionLoss (sl : Fin 8) (t : Fin 64) (cause : Fin 10) (s : State) : Host.Outcome State Fault Refusal :=
  run s fun m =>
    if m.tgtState sl t = 2 then m.tgtLost sl t cause else if m.tgtState sl t = 1 then m.tgtFail sl t else m

/-- TARGET_KEEP_ALIVE: every 5 s while LIVE. -/
def execTargetKeepAlive (sl : Fin 8) (t : Fin 64) (s : State) : Host.Outcome State Fault Refusal :=
  run s fun m =>
    if m.tgtState sl t ≠ 2 then m
    else
      let m := m.runToNs ((m.assoc sl t).alive + 5000000000)
      (m.modAssoc sl t fun a => { a with alive := a.alive + 5000000000 }).emit (.target sl t 0 3 [])

/-- TCP_RTO_EXPIRY: a segment of a connection is sent again; the eighth retransmission without acknowledgement loses the connection. (DESIGN CHOICE, log 67) -/
def execTcpRtoExpiry (sl : Fin 8) (t : Fin 64) (k : Fin 33) (s : State) : Host.Outcome State Fault Refusal :=
  run s fun m =>
    let st := m.tgtState sl t
    if st ≠ 1 && st ≠ 2 then m
    else
      let n := tgetD (m.assoc sl t).retx k 0 + 1
      let m := (m.modAssoc sl t fun a => { a with retx := tput a.retx k n }).emit (.target sl t k 2 [])
      if n < 8 then m else if st = 2 then m.tgtLost sl t 2 else m.tgtFail sl t

/-- IO_WAIT_EXPIRY: a command held for an association that is not LIVE has waited IO_WAIT_S since it was read. -/
def execIoWaitExpiry (i : Fin 4096) (q : Fin 65) (cid : Fin 65536) (s : State) : Host.Outcome State Fault Refusal :=
  run s fun m =>
    match m.nvCmd i q cid with
    | none => m
    | some c =>
      let sl := m.instSlice i
      if c.stage ≠ .wait || m.tgtState sl c.target = 2 then m
      else ((m.runToNs (c.at_ + m.get F.STO_TGT_CFG_IO_WAIT_S [sl, c.target] * 1000000000)).stoCount i 4).nvEnd i c nvTransient

/-! ### PDUs (R466, R469, R470) -/

/-- Writes read data of a command into its buffer, at an offset. -/
def Mod.nvPut (m : Mod) (i : Nat) (c : NvCmd) (off : Nat) (bs : List Byte) : Mod :=
  let segs := (nvSegs c.pages (m.nvLen i c)).foldl (fun (a : List (Nat × Nat × Nat) × Nat) x => (a.1 ++ [(x.1, a.2, x.2)], a.2 + x.2)) ([], 0)
  segs.1.foldl (fun m (x : Nat × Nat × Nat) =>
    let lo := max off x.2.1
    let hi := min (off + bs.length) (x.2.1 + x.2.2)
    if lo < hi then m.dataWrite (m.instFn i) (x.1 + (lo - x.2.1)) none (slice bs (lo - off) (hi - lo)) else m) m

/-- The command that a PDU of a connection names, when it is at that target and its function may be served. -/
def Mod.nvNamed (m : Mod) (s t k i q cid : Nat) : Option NvCmd :=
  if !m.isStorage i || m.instSlice i ≠ s || m.frozen (m.instFn i) then none
  else match m.nvCmd i q cid with
    | some c => if c.stage = .sent && c.target = t && c.conn = k then some c else none
    | none => none

/-- A response ends its command. -/
def Mod.nvResponse (m : Mod) (i : Nat) (c : NvCmd) (status dw0 : Nat) : Mod :=
  let units := m.nvLen i c / 512
  let m := if status ≠ 0 then m
    else if c.op = 2 then m.modCtl i fun x => { x with unitsRead := x.unitsRead + units, hostReads := x.hostReads + 1 }
    else if c.op = 1 then m.modCtl i fun x => { x with unitsWritten := x.unitsWritten + units, hostWrites := x.hostWrites + 1 }
    else m
  (m.nvEnd i c status dw0).nvKick (m.instSlice i) c.target

/-- TARGET_PDU_RECEIVED on connection `k` (0 the admin connection) of a target. `check`: 0 every check passes, 1 the header digest fails,
2 the data digest, 3 the tag of the TLS record. -/
def execTargetPduReceived (sl : Fin 8) (t : Fin 64) (k : Fin 33) (p : TargetPdu) (check : Fin 4) (s : State) : Host.Outcome State Fault Refusal :=
  run s fun m =>
    let stale := fun (m : Mod) => m.count F.STO_CNT_COUNT [sl.val, 10]
    let ruin := fun (m : Mod) (i : Nat) (c : NvCmd) => (m.stoCount i 8).nvEnd i c nvTransfer
    let after := fun (m : Mod) => match check.val with
      | 0 => m
      | 1 => m.tgtLost sl t 4
      | 2 => (m.count F.STO_CNT_COUNT [sl.val, 6]).tgtLost sl t 5
      | _ => (m.count F.STO_CNT_COUNT [sl.val, 7]).tgtLost sl t 6
    if m.tgtState sl t ≠ 2 then m
    else
      let m := m.modAssoc sl t fun a => { a with retx := tdel a.retx k }
      if check.val = 1 then after m
      else match p with
        | .data i q cid off bs =>
          (match m.nvNamed sl t k i q cid with
           | none => after (stale m)
           | some c =>
             if c.op ≠ 2 || decide (m.nvLen i c < off + bs.length) then m.tgtLost sl t 7
             else
               let m := ((m.modNv i c fun d => { d with wrote := true }).nvPut i c off bs).stoCount i 1 bs.length
               if check.val = 0 then m else after (ruin m i c))
        | .r2t i q cid off len =>
          if check.val ≠ 0 then after m
          else match m.nvNamed sl t k i q cid with
            | none => stale m
            | some c =>
              if decide (c.data.length < off + len) then m.tgtLost sl t 7
              else (m.stoCount i 2 len).emit (.target sl t k 5 (slice c.data off len))
        | .resp i q cid status dw0 =>
          if check.val ≠ 0 then after m
          else if q = 0x8000 then
            (m.modCtl i fun x => { x with flushes := x.flushes.map fun l => l.filter (· ≠ cid) }).nvAfter i
          else match m.nvNamed sl t k i q cid with
            | none => stale m
            | some c => m.nvResponse i c status dw0
        | .malformed => m.tgtLost sl t 7

end Sys2Proof.Machine
end

