-- ==== Sys2Proof/Machine/Access.lean ====
section
/-! DEFINITION. Accesses to the internal address space (R10 to R14, R31, R76, R435): where an address leads, reads with what they
clear and latch, writes under the access codes and the rules of each register, BAR windows (R368 to R370), the register commands
(R66). -/

namespace Sys2Proof.Machine

/-! ### Addresses -/

/-- What an internal address leads to: a register and the offset inside it; 64-bit part `p` of a control-store word (R242); the
manager's view of a controller register (R454); a byte of the microcode data region (R31, R32); nothing. -/
inductive Place where
  | reg (k : RegKey) (off : Nat)
  | word (s c a p : Nat)
  | nvme (s i off : Nat)
  | mem
  | nothing
  deriving DecidableEq, Repr

/-- Where an address leads. -/
def placeAt (a : Nat) : Place :=
  let o := a % 0x2000000
  if 2 ^ 39 ≤ a then (if inDataRegion a then .mem else .nothing)
  else match regAt a with
    | some (k, off) => .reg k off
    | none =>
      if o < 0x1000000 then .nothing
      else
        let o := o - 0x1000000
        if a / 2 ^ 28 = 3 && decide (o < 0x500000) then .word (a / 0x2000000 % 8) (o / 0x80000) (o % 0x80000 / 32) (o % 32 / 8)
        else if a / 2 ^ 28 = 2 then .nvme (a / 0x2000000 % 8) (o / 0x1000) (o % 0x1000)
        else .nothing

/-- The address that a requester reaches: INST_SELF stands for its own instance's page; direct pages are the manager's (R435).
`none`: unused for this requester. -/
def Mod.pageAddr (m : Mod) (mid a : Nat) : Option Nat :=
  if a / 0x1000 = 0x5000 then (driverOf mid).map fun i => 0x4000000 + i * 0x1000 + a % 0x1000
  else if a / 0x1000000 = 4 && !m.isManager mid then none
  else some a

/-- The offsets of the 64-bit registers of a controller: CAP, ASQ, ACQ. (PRESUMED, log 65) -/
def nvWide (off : Nat) : Bool := off = 0 || off = 0x28 || off = 0x30

/-- A 64-bit access at this offset of the controller registers meets 32-bit registers (R12). (PRESUMED, log 65) -/
def nvMismatch (off : Nat) : Bool := decide (off < 0x38) && !nvWide off

/-- The cause of R571 for which an access of `n` bytes at an address reaches nothing; `none` when it reaches its place (R11, R12). (DEDUCED, log 14) -/
def accessFault (a n : Nat) : Option Nat :=
  if (n ≠ 4 && n ≠ 8) || a % n ≠ 0 then some 2
  else match placeAt a with
    | .reg k _ => if n = 8 && k.reg.info.width = 32 then some 2 else none
    | .word _ _ _ _ => if n = 8 then none else some 2
    | .nvme _ _ off => if n = 8 && nvMismatch off then some 2 else none
    | .mem => none
    | .nothing => if n = 8 && (regAt (a + 4)).isSome then some 2 else some 1

/-- The registers that are read whatever the phase, and while a function is frozen (R17, R33, R41, R503, R539). (DESIGN CHOICE, log 12) -/
def alwaysRead : List Reg := [.GLB_ID, .GLB_CAPS, .GLB_START, .IMG_STATUS]

/-- The registers of a mailbox channel. -/
def mbxRegs : List Reg := [.MBX_BIND, .MBX_PAYLOAD, .MBX_RING, .MBX_PENDING, .MBX_MASK, .MBX_STATUS]

/-! ### Reads -/

/-- What software reads in a register: the active bank where READ_ACTIVE asks for it (R106, R209), a ring on the slice that serves it
(R428), the held window of a VF (R435). -/
def Mod.regView (m : Mod) (r : Reg) (ix : List Nat) : Nat :=
  let s := ixGet ix 0
  let e := ixGet ix 1
  let nib := fun (l : List Nat) (n : Nat) => sumOf (List.range n) fun i => l.getD i 0 % 16 * 16 ^ i
  let ring := fun (kind : Nat) =>
    let k := kind * 65536 + e
    match m.ring k with
    | some x => if m.ownerSlice x.owner = s then m.ringWord k else 0
    | none => 0
  match r with
  | .STW_OWN => if m.flag F.STW_UNIT_CTL_READ_ACTIVE [s] then nib ((m.stwTable s).drop (8 * e)) 8 else m.stored r ix
  | .SHU_THREAD_CFG => if m.flag F.SHU_ENGINE_CTL_READ_ACTIVE [s, e] then nib (m.eng s e).act.weights 16 else m.stored r ix
  | .SHU_SHARE => if m.flag F.SHU_ENGINE_CTL_READ_ACTIVE [s, e] then (m.eng s e).act.share else m.stored r ix
  | .SHU_SLOT =>
    if m.flag F.SHU_ENGINE_CTL_READ_ACTIVE [s, e] then nib ((m.eng s e).act.slots.drop (8 * ixGet ix 2)) 8 else m.stored r ix
  | .SPL_RING_SEND => ring 0
  | .SPL_RING_RECV => ring 1
  | .SPL_RING_CPL => ring 2
  | .SPL_RING_ADMIN => ring 3
  | .SEL_WIN_VF => if ixGet ix 4 = 3 then 0x05000001 else m.stored r ix
  | r => m.view r ix

/-- Clears the RC fields of one register that lie wholly at bit `from_` or above (R14, R190). (DEDUCED, log 13) -/
def Mod.clearRcOf (m : Mod) (k : RegKey) (from_ : Nat := 0) : Mod :=
  { m with regs := m.regs.filter fun e =>
      !(decide (e.1.fld.reg = k.reg ∧ e.1.ix = k.ix) && decide (e.1.fld.access = .rc) && decide (from_ ≤ e.1.fld.lo)) }

/-- Takes what a requester has latched for an address (R13). (DEDUCED, log 13) -/
def Mod.popLatch (m : Mod) (mid a : Nat) : Option Nat × Mod :=
  match m.latches.find? fun l => l.mid = mid && l.addr = a with
  | some l => (some l.high, { m with latches := m.latches.filter fun l => !(l.mid = mid && l.addr = a) })
  | none => (none, m)

/-- Latches words for a requester, each at its address. (DEDUCED, log 13) -/
def Mod.latch (m : Mod) (mid : Nat) (ws : List (Nat × Nat)) : Mod :=
  let rest := m.latches.filter fun l => !(l.mid = mid && (ws.any fun w => w.1 = l.addr))
  { m with latches := ws.map (fun w => ⟨mid, w.1, w.2⟩) ++ rest }

/-- The manager's address of a controller register (R454). -/
def Mod.nvAddr (m : Mod) (i off : Nat) : Nat := 0x20000000 + m.instSlice i * 0x2000000 + 0x1000000 + 0x1000 * i + off

/-- A read of `n` bytes in a storage instance's controller registers, by its host or in the manager's view (R454): the words of a 64-bit
register as R13 says. -/
def Mod.nvAccess (m : Mod) (mid i off n : Nat) : Nat × Mod :=
  if n = 4 && nvWide off then (m.nvRegRead i off 4, m.latch mid [(m.nvAddr i off, m.nvRegRead i (off + 4) 4)])
  else if n = 4 && decide (4 ≤ off) && nvWide (off - 4) then
    match m.popLatch mid (m.nvAddr i (off - 4)) with
    | (some h, m) => (h, m)
    | (none, m) => (m.nvRegRead i off 4, m)
  else (m.nvRegRead i off n, m)

/-- A read of TPL_NOW latches the whole of device time (R112). (DEDUCED, log 17) -/
def Mod.latchNow (m : Mod) (mid : Nat) : Mod :=
  m.latch mid [(regAddr .TPL_NOW, secOf m.now % 2 ^ 32), (regAddr .TPL_NOW_EXT, m.view .TPL_NOW_EXT [])]

/-- A read of `n` bytes that reaches a register at offset `off` of it (R13, R14, R76, R80, R112). (DEDUCED, log 13) -/
def Mod.readReg (m : Mod) (r : Req) (k : RegKey) (off n : Nat) : Nat × Mod :=
  if mbxRegs.contains k.reg && decide (m.party r (ixGet k.ix 0) = .none) then (0, m.refuse r.mid (k.addr + off) false (n = 8) 1)
  else if k.reg = .LCK_TRY then m.lockTry r.mid (ixGet k.ix 0)
  else
    let v := m.regView k.reg k.ix
    if off = 4 then
      match m.popLatch r.mid k.addr with
      | (some h, m) => (h, m)
      | (none, m) => (v / 2 ^ 32, m.clearRcOf k 32)
    else if k.reg = .TPL_NOW then (v % 2 ^ (8 * n), m.latchNow r.mid)
    else if k.reg = .TPL_NOW_EXT then
      match m.popLatch r.mid k.addr with
      | (some h, m) => (h, m)
      | (none, m) => (v, m)
    else
      let m := m.clearRcOf k
      if n = 4 && k.reg.info.width = 64 then (v % 2 ^ 32, m.latch r.mid [(k.addr, v / 2 ^ 32)]) else (v, m)

/-- A read of part `p` of a control-store word: the first part latches the others (R242). (DEDUCED, log 19) -/
def Mod.readWord (m : Mod) (mid a s c w p : Nat) : Nat × Mod :=
  let part := fun (i : Nat) => m.csWord s c w / 2 ^ (64 * i) % 2 ^ 64
  if p = 0 then (part 0, m.latch mid [(a + 8, part 1), (a + 16, part 2), (a + 24, part 3)])
  else match m.popLatch mid a with
    | (some h, m) => (h, m)
    | (none, m) => (part p, m)

/-- A read of `n` bytes at an internal address: the value and the module after it. Before READY only the registers of R33 are read. (DESIGN CHOICE, log 12) -/
def Mod.readAt (m : Mod) (mem : List Host.Cell) (r : Req) (a0 n : Nat) : Nat × Mod :=
  let refuse := fun (cause : Nat) => ((0, m.refuse r.mid a0 false (n = 8) cause) : Nat × Mod)
  if m.phase ≠ 5 then
    match placeAt a0 with
    | .reg k off => if alwaysRead.contains k.reg && (accessFault a0 n).isNone then m.readReg r k off n else (0, m)
    | _ => (0, m)
  else match m.pageAddr r.mid a0 with
    | none => refuse (if (n = 4 || n = 8) && a0 % n = 0 then 1 else 2)
    | some a =>
      match accessFault a n with
      | some c => refuse c
      | none => match placeAt a with
        | .reg k off => m.readReg r k off n
        | .word s c w p => if m.isManager r.mid then m.readWord r.mid a s c w p else refuse 4
        | .nvme s i off =>
          if !m.isManager r.mid then refuse 4
          else if m.isStorage i && decide (m.instSlice i = s) then m.nvAccess r.mid i off n
          else refuse 1
        | .mem => (leNat (memBytes mem a n), m.fgUse [hbmUnit a])
        | .nothing => refuse 1

/-! ### Writes -/

/-- The registers that the manager alone writes (R81, R89, R106, R144, R156, R161, R167, R182, R200, R209, R220, R244, R271, R286,
R310, R329, R370, R389, R428, R464, R555, R557, R564, R581, and the descriptions of the status bits). -/
def managerRegs : List Reg :=
  [.GLB_ERR_STATUS, .GLB_ERR_CFG, .SEL_LINK_CFG, .SEL_PF_CFG, .SEL_VF_CFG, .SEL_WIN_PF, .SEL_WIN_VF, .SPL_CFG, .SPL_OWNER_PF,
   .SHU_ENTRY, .SHU_TIMER, .SHU_ENGINE_CTL, .SHU_THREAD_CFG, .SHU_SHARE, .SHU_SLOT, .SHU_CS_STAGE, .SHU_CS_COMMIT, .SEA_CFG,
   .SEA_MODE, .PLT_PORT_CLASS, .PLT_DSCP_MAP, .PLT_CFG, .PLT_ING_CLASS, .PLT_EG_CLASS, .PLT_SPILL_CFG, .PLT_ECN_CFG, .PLT_PFC_CFG,
   .PLT_RX_WAIT, .PLT_OVERLOAD, .PLT_STATUS, .PLT_CNT, .PLT_IN_DROP, .PLT_EG_DROP, .PLT_EG_DROP_H, .HEM_SCHED, .HEM_SHAPE,
   .HEM_XBAR_W, .HEM_LAUNCH_CFG, .HEM_CAL_STATUS, .HEM_CNT, .PAT_TEL_CFG, .TPL_PTP_CFG, .TPL_PTP_PORT, .TPL_SRC, .TPL_SEL,
   .TPL_CFG, .TPL_UTC, .TPL_LOSS_POLICY, .TPL_STATE, .TCK_HIST_CFG, .TCK_HOST_CFG, .TCK_PPS_OUT, .PRT_CFG, .PRT_CT_CFG,
   .BOB_POLICY, .STW_OWN, .STW_UNIT_CTL, .STW_CFG, .PWR_TEMPO_TARGET, .PWR_TEMPO_STATUS, .PWR_CFG, .PWR_THERM_CFG, .PIN_CFG,
   .PIN_EDGE, .FIT_CFG, .FIT_FIRE, .LCK_CFG, .STO_TGT_CFG, .STO_TGT_NET, .STO_TGT_NQN, .STO_NS]

/-- The registers whose every register write is ignored and logged (R262, R428, R500). -/
def closedRegs : List Reg :=
  [.SPL_RING_SEND, .SPL_RING_RECV, .SPL_RING_CPL, .SPL_RING_ADMIN, .PAT_PORT_ACT, .JXL_LINK_CFG, .JXL_CREDIT, .JXL_ROUTE]

/-- A number lies in a range. -/
def within (lo hi n : Nat) : Bool := lo ≤ n && n ≤ hi

/-- The number `n` is no reserved encoding of the field of register `r` at bit `lo` (R8 and the register tables). (DEDUCED, log 19) -/
def Mod.fieldOk (m : Mod) (r : Reg) (ix : List Nat) (lo n : Nat) : Bool :=
  let profile := m.get F.TPL_PTP_CFG_PROFILE
  match r, lo with
  | .CUT_CFG, 17 | .CUT_CFG, 32 | .CUT_CFG, 48 => n ≠ 0
  | .CUT_OOB_CFG, 1 => n ≠ 255
  | .CUT_OOB_CFG, 9 | .CUT_OOB_CFG, 17 => n ≠ 0
  | .PWR_TEMPO_TARGET, 0 => tempoOk n 0
  | .PWR_TEMPO_TARGET, 13 => tempoOk 1700 n
  | .TPL_PTP_CFG, 0 => n ≠ 3
  | .TPL_PTP_PORT, 4 => (match profile with | 0 => n = 0 | 1 => n = 1 || n = 2 | _ => n ≠ 3)
  | .TPL_PTP_PORT, 8 => n ≠ 0
  | .TPL_PTP_PORT, 28 => n ≠ 2 ^ 19
  | .TPL_PTP_PORT, 16 => intervalOk profile 0 n
  | .TPL_PTP_PORT, 20 => intervalOk profile 1 n
  | .TPL_PTP_PORT, 24 => intervalOk profile 2 n
  | .TPL_SRC, 1 => n ≤ 4
  | .TPL_CFG, 0 => 100 ≤ n
  | .TPL_CFG, 16 | .TPL_CFG, 24 | .TPL_CFG, 42 => n ≠ 0
  | .TPL_CFG, 52 => within 1 480 n
  | .TPL_LOSS_POLICY, 0 | .TPL_LOSS_POLICY, 2 | .TPL_LOSS_POLICY, 4 => n ≠ 3
  | .TCK_HIST_CFG, 1 => n < 4
  | .TCK_PPS_OUT, 1 => n < 24
  | .TCK_PPS_OUT, 6 => within 1 500000 n
  | .PRT_CT_CFG, 1 | .PRT_CT_CFG, 7 | .PRT_CT_CFG, 13 => within 1 38 n
  | .PRT_CT_CFG, 19 => n ≠ 0
  | .BOB_POLICY, 1 => within 110 250 n
  | .SHU_SLICE_CFG, 0 => 64 ≤ n
  | .SHU_SLICE_CFG, 16 => n ≠ 0
  | .SHU_TIMER, 1 => n ≠ 0
  | .SHU_SHARE, 1 | .SHU_SHARE, 8 => n ≤ 4
  | .SHU_SHARE, 4 => within 1 8 n
  | .SHU_SHARE, 11 => within 1 32 n
  | .PAT_TEL_CFG, 0 => within 2 14 n
  | .SEA_CFG, 0 => within 256 32768 n
  | .PLT_PORT_CLASS, 0 => n ≠ 7
  | .PLT_PORT_CLASS, 3 => n ≠ 3
  | .PLT_PORT_CLASS, 5 => (List.range 8).all fun p => bits n (3 * p) 3 ≠ 7
  | .PLT_DSCP_MAP, _ => n ≠ 7
  | .PLT_CFG, 20 | .PLT_CFG, 38 => 64 ≤ n
  | .PLT_SPILL_CFG, 1 => 256 ≤ n
  | .PLT_SPILL_CFG, 19 => 64 ≤ n
  | .PLT_PFC_CFG, 0 => n = 0 || ixGet ix 1 ≠ 7
  | .PLT_PFC_CFG, 1 => 64 ≤ n
  | .PLT_RX_WAIT, 0 => n ≠ 0
  | .HEM_SCHED, lo => lo % 8 = 7 || n ≠ 0
  | .HEM_SHAPE, 0 => n ≤ 1600000
  | .HEM_SHAPE, 21 => 1600 ≤ n
  | .HEM_XBAR_W, _ => n ≠ 0
  | .HEM_LAUNCH_CFG, 1 => within 1 1000 n
  | .SEL_LINK_CFG, 1 => n ≠ 3
  | .SEL_WIN_PF, 18 => n % 16 = 0
  | .SEL_PF_CFG, 0 | .SEL_VF_CFG, 0 => n ≠ 3
  | .SEL_PF_CFG, 3 => within 1 2048 n
  | .SEL_PF_CFG, 15 | .SEL_VF_CFG, 10 => within 1 256 n
  | .SPL_CFG, 0 => n ≠ 0
  | .SPL_OWNER_PF, 5 => n ≠ 0
  | .INST_EVENT, 16 => n < m.instVectors (ixGet ix 0)
  | .JXL_CFG, 0 | .JXL_CFG, 48 => within 10 10000 n
  | .JXL_CFG, 16 => within 10 60000 n
  | .PWR_CFG, 0 => (List.range 12).all fun e => (List.range 12).any fun p => bits n (4 * p) 4 = e
  | .PWR_CFG, 48 => within 300 2400 n
  | .PWR_THERM_CFG, 0 => within 90 100 n
  | _, _ => true

/-- The fields of a register whose ranges depend on one another, with the relation (the register tables). (DEDUCED, log 16) -/
def relation : Reg → Option (List Fld × (Nat → Bool))
  | .TPL_PTP_CFG => some ([F.TPL_PTP_CFG_PROFILE, F.TPL_PTP_CFG_DOMAIN], ptpClockOk)
  | .PRT_CT_CFG => some ([F.PRT_CT_CFG_BASE, F.PRT_CT_CFG_MAX], fun v => bits v 1 6 ≤ bits v 13 6)
  | .SHU_TIMER => some ([F.SHU_TIMER_PERIOD_US, F.SHU_TIMER_PHASE_US], fun v => bits v 25 24 < bits v 1 24)
  | .PLT_ING_CLASS => some ([F.PLT_ING_CLASS_IN_MIN, F.PLT_ING_CLASS_IN_MAX, F.PLT_ING_CLASS_XOFF, F.PLT_ING_CLASS_XON_GAP], fun v =>
      bits v 0 12 ≤ bits v 12 18 && bits v 30 18 ≤ bits v 12 18 && within 1 (bits v 30 18) (bits v 48 16))
  | .PLT_EG_CLASS => some ([F.PLT_EG_CLASS_EG_MIN, F.PLT_EG_CLASS_EG_MAX], fun v => bits v 0 12 ≤ bits v 12 24)
  | .PLT_SPILL_CFG => some ([F.PLT_SPILL_CFG_SPILL_DEPTH, F.PLT_SPILL_CFG_REFILL], fun v => bits v 19 18 ≤ bits v 1 18)
  | .PLT_ECN_CFG => some ([F.PLT_ECN_CFG_KMIN, F.PLT_ECN_CFG_KMAX], fun v => bits v 0 24 < bits v 24 24)
  | .PWR_THERM_CFG => some ([F.PWR_THERM_CFG_TJ_LIMIT, F.PWR_THERM_CFG_TJ_GATE], fun v => within (bits v 0 7 + 1) 108 (bits v 7 7))
  | _ => none

/-- A field changes hands between two values of a register. (DEDUCED, log 16) -/
def graft (v old : Nat) (f : Fld) : Nat := v - bits v f.lo f.w * 2 ^ f.lo + bits old f.lo f.w * 2 ^ f.lo

/-- The value that the RW and RT fields of a register take when `new` is written over `old`: a reserved encoding leaves its field,
and fields whose relation the value would break stay as they are (R8). (DEDUCED, log 16) -/
def Mod.legal (m : Mod) (r : Reg) (ix : List Nat) (old new : Nat) : Nat :=
  let v := r.fields.foldl (fun v f =>
    let n := bits new f.lo f.w
    let takes := (f.acc = .rw || f.acc = .rt || f.acc = .rwl) && m.fieldOk r ix f.lo n
    v + (if takes then n else bits old f.lo f.w) * 2 ^ f.lo) 0
  match relation r with
  | some (fs, ok) => if ok v then v else fs.foldl (fun v f => graft v old f) v
  | none => v

/-- Puts the written fields of a register: RW and RT fields from `v`, W1C bits cleared where `ones` has them (R14). (DEDUCED, log 16) -/
def Mod.putFields (m : Mod) (k : RegKey) (v ones : Nat) : Mod :=
  k.reg.fields.foldl (fun m f =>
    let x : Fld := ⟨k.reg, f.lo, f.w⟩
    match f.acc with
    | .rw | .rt | .rwl => m.set x k.ix (bits v f.lo f.w)
    | .w1c => let old := m.get x k.ix; m.set x k.ix (old - (old &&& bits ones f.lo f.w))
    | _ => m) m

/-- A write of the settings of a Pleat leaves fewer than 65,536 shared cells (R291). -/
def Mod.poolShort (m : Mod) (s : Nat) : Bool := 262144 < m.setAsideFor s 100 12 + 65536

/-- A write that reaches a register: `new` is its whole value after the write, `ones` the written bits. (DEDUCED, log 14) -/
def Mod.writeReg (m : Mod) (r : Req) (k : RegKey) (off n w : Nat) : Mod :=
  let ix := k.ix
  let i := ixGet ix 0
  let j := ixGet ix 1
  let old := m.stored k.reg ix
  let ones := w * 2 ^ (8 * off)
  let new := if n = 8 || k.reg.info.width = 32 then w else if off = 0 then old / 2 ^ 32 * 2 ^ 32 + w else old % 2 ^ 32 + ones
  let no := fun (m : Mod) => m.refuse r.mid (k.addr + off) true (n = 8) 3
  let v := m.legal k.reg ix old new
  let plain := m.putFields k v ones
  if closedRegs.contains k.reg || (managerRegs.contains k.reg && !m.isManager r.mid) then no m
  else match k.reg with
    | .MBX_BIND =>
      if m.party r i = .none then m.refuse r.mid (k.addr + off) true (n = 8) 1
      else if m.flag F.MBX_BIND_LOCK_LOCKED then no m else plain
    | .MBX_PAYLOAD => m.mbxPayload r i j w
    | .MBX_RING => m.mbxRung r i w
    | .MBX_PENDING => m.mbxReceiverWrite r .MBX_PENDING i fun m => m.mbxClear i w
    | .MBX_MASK => m.mbxReceiverWrite r .MBX_MASK i fun m => m.mbxMask i w
    | .MBX_STATUS => m.mbxStatus r i w
    | .LCK_TRY => if bit w 3 then m.lockRelease r.mid i else m
    | .LCK_CFG => m.lockConfig r.mid i w
    | .PWR_TEMPO_SLICE => if bit ones 26 then m.lowRestart i else m
    | .PWR_TEMPO_HUB => if bit ones 26 then m.lowRestart 8 else m
    | .STW_OWN => m.stwOwnWrite i j w
    | .STW_UNIT_CTL =>
      let m := m.set F.STW_UNIT_CTL_READ_ACTIVE ix (bits w 5 1)
      if bit w 0 then m.stwApply i else m
    | .TPL_PTP_CFG => m.ptpClockSet v
    | .TPL_PTP_PORT => if bit v 0 && (m.linkAt i (bits v 1 3)).isSome then no m else m.ptpPortWrite r.mid i v
    | .TPL_SRC => if off = 4 then m else if m.srcBad i (v % 2 ^ 32) then no m else m.srcWrite r.mid i (v % 2 ^ 32)
    | .TPL_LOSS_POLICY => m.policySet v
    | .TCK_HIST_CFG =>
      if bits v 1 15 = bits old 1 15 then plain else { plain with tack := { plain.tack with hists := tdel plain.tack.hists i } }
    | .TCK_HOST_CFG => m.hostCfgWrite i v
    | .PRT_CFG => m.prtWrite r.mid i new (n = 8)
    | .BOB_POLICY => m.bobPolicy v
    | .PRT_CT_CFG => m.ctWrite r.mid i v
    | .SHU_ENGINE_CTL =>
      let m := (m.set F.SHU_ENGINE_CTL_DISPATCH_EN ix (bits w 0 1)).set F.SHU_ENGINE_CTL_READ_ACTIVE ix (bits w 7 1)
      let m := if bit w 1 then m.set F.SHU_ENGINE_CTL_QUARANTINED ix 0 else m
      if bit w 2 then m.shuApply i j else m
    | .SHU_CS_STAGE => if m.flag F.SHU_CS_COMMIT_GO [i] then no m else plain
    | .SHU_CS_COMMIT =>
      if m.flag F.SHU_CS_COMMIT_GO [i] then no m
      else if bit ones 24 then m.csPatch i (bits new 0 14) (bits new 14 10)
      else (m.set F.SHU_CS_COMMIT_ADDR [i] (bits new 0 14)).set F.SHU_CS_COMMIT_CLUSTERS [i] (bits new 14 10)
    | .PLT_CFG | .PLT_ING_CLASS | .PLT_EG_CLASS | .PLT_PFC_CFG => if plain.poolShort i then no m else plain
    | .SEL_WIN_VF =>
      let f : Fn := ⟨4 * i + 2 * j + ixGet ix 2, some (ixGet ix 3)⟩
      let held := match m.instOf f with | some x => m.isStorage x && ixGet ix 4 = 0 | none => false
      if held || ixGet ix 4 = 3 then m else plain
    | .SEL_PF_CFG =>
      if m.present (4 * i + 2 * j + ixGet ix 2) && decide (bits v 3 12 ≠ bits old 3 12 ∧ 65536 < plain.vectorsTaken) then no m else plain
    | .INST_BOOT => if m.flag F.INST_BOOT_GO [i] then no m else m.bootWrite r.mid i new
    | .STO_TGT_CFG => if m.tgtState i j ≠ 0 && bit new 0 then no m else m.tgtWrite r.mid i j new
    | .STO_TGT_NET | .STO_TGT_NQN => if m.tgtState i j ≠ 0 then no m else plain
    | .STO_NS => m.nsWrite i j (ixGet ix 2 + 1) new
    | .JXL_CFG => if r.viaCmd && m.isManager r.mid then plain else no m
    | .PIN_CFG => m.pinCfgWrite r.mid i w
    | .FIT_FIRE => m.fitFire r.mid w
    | _ => plain

/-- A write of `n` bytes at an internal address (R11, R12, R31, R33, R242, R454). (DESIGN CHOICE, log 12) -/
def Mod.writeAt (m : Mod) (mem : List Host.Cell) (r : Req) (a0 n v : Nat) : Mod × List Host.Cell :=
  let refuse := fun (cause : Nat) => ((m.refuse r.mid a0 true (n = 8) cause, mem) : Mod × List Host.Cell)
  let v := v % 2 ^ (8 * n)
  if m.phase ≠ 5 then (m, mem)
  else match m.pageAddr r.mid a0 with
    | none => refuse (if (n = 4 || n = 8) && a0 % n = 0 then 1 else 2)
    | some a =>
      match accessFault a n with
      | some c => refuse c
      | none => match placeAt a with
        | .reg k off => (m.writeReg r k off n v, mem)
        | .word _ _ _ _ => refuse 3
        | .nvme _ _ _ => refuse 3
        | .mem => (m.fgUse [hbmUnit a], memPutBytes mem a (leBytes n v))
        | .nothing => refuse 1

/-- RC_FIELD_READ: a 32-bit or 64-bit read by a requester. -/
def execRcFieldRead (r : Req) (addr : Nat) (wide : Bool) (s : State) : Host.Outcome State Fault Refusal :=
  run s fun m => let (v, m) := m.readAt s.mem r addr (if wide then 8 else 4); m.answerRead r v

/-- REGISTER_WRITE: a 32-bit or 64-bit write by a requester. -/
def execRegisterWrite (r : Req) (addr : Nat) (wide : Bool) (v : BitVec 64) (s : State) : Host.Outcome State Fault Refusal :=
  runMem s fun m mem => m.writeAt mem r addr (if wide then 8 else 4) v.toNat

/-! ### BAR windows (R368 to R372, R381, R454, R536) -/

/-- The window that holds offset `off` of a function's BAR0: EN, RO, the internal address. (PRESUMED, log 15) -/
def Mod.window (m : Mod) (f : Fn) (off : Nat) : Bool × Bool × Nat :=
  match f.vf with
  | none =>
    let ix := epIx f.ep ++ [off / 2 ^ 22]
    (m.flag F.SEL_WIN_PF_EN ix, m.flag F.SEL_WIN_PF_RO ix, m.get F.SEL_WIN_PF_BASE ix * 2 ^ 18 + off % 2 ^ 22)
  | some v =>
    let ix := epIx f.ep ++ [v, off / 2 ^ 18]
    if off / 2 ^ 18 = 3 then (true, false, 0x5000000 + off % 2 ^ 18)
    else (m.flag F.SEL_WIN_VF_EN ix, m.flag F.SEL_WIN_VF_RO ix, m.get F.SEL_WIN_VF_BASE ix * 2 ^ 18 + off % 2 ^ 18)

/-- The storage instance whose controller a BAR0 offset of a VF reaches (R454). -/
def Mod.nvmeOf (m : Mod) (f : Fn) (off : Nat) : Option Nat :=
  match f.vf, m.instOf f with
  | some _, some i => if m.isStorage i && decide (off < 2 ^ 18) then some i else none
  | _, _ => none

/-- The four words of an MSI-X table entry. -/
def MsixVec.words (v : MsixVec) : List Nat := [v.addr % 2 ^ 32, v.addr / 2 ^ 32, v.data, b2n v.mask]

/-- A word of a function's BAR2: its MSI-X table, then the Pending Bit Array at `pba` (R368). -/
def Msix.word (x : Msix) (pba off : Nat) : Nat :=
  if off < pba then (if off / 16 < x.size then (tgetD x.vecs (off / 16) {}).words.getD (off % 16 / 4) 0 else 0)
  else sumOf (List.range 32) fun i => b2n (tgetD x.vecs ((off - pba) * 8 + i) {}).pending * 2 ^ i

/-- A word written into an MSI-X table entry. -/
def MsixVec.put (e : MsixVec) (i v : Nat) : MsixVec :=
  match i with
  | 0 => { e with addr := e.addr / 2 ^ 32 * 2 ^ 32 + v }
  | 1 => { e with addr := e.addr % 2 ^ 32 + v * 2 ^ 32 }
  | 2 => { e with data := v }
  | _ => { e with mask := bit v 0 }

/-- A write of BAR2 reaches the table; the Pending Bit Array ignores it; a pending vector whose mask it clears sends its message. (PRESUMED, log 15) -/
def Mod.bar2Write (m : Mod) (f : Fn) (pba off n v : Nat) : Mod :=
  let put := fun (m : Mod) (off v : Nat) => if off < pba then m.msixVec f (off / 16) fun e => e.put (off % 16 / 4) v else m
  let m := put m off (v % 2 ^ 32)
  (if n = 8 then put m (off + 4) (v / 2 ^ 32 % 2 ^ 32) else m).msixFlush f

/-- A request in BAR0 of the recovery function: the registers of channel 0, under the party rules (R536). -/
def Mod.recoveryRequest (m : Mod) (off n : Nat) (data : Option Nat) : Nat × Mod :=
  let r : Req := { mid := 0x1000 }
  let held := off < 0x108 || off = 0x10C
  match regAt (0xE0000000 + off) with
  | some (k, o) =>
    if n ≠ 4 || off % 4 ≠ 0 || !held || 0x110 ≤ off then (0, m)
    else match data with
      | none => m.readReg r k o n
      | some v => (0, m.writeReg r k o n (v % 2 ^ 32))
  | none => (0, m)

/-- A memory request that reaches its function: the data of a read, the module and the microcode data region after it. (DEDUCED, log 14; PRESUMED, log 15) -/
def Mod.memoryRequest (m : Mod) (mem : List Host.Cell) (f : Fn) (bar2 : Bool) (off n : Nat) (data : Option Nat) :
    Nat × Mod × List Host.Cell :=
  let aligned := (n = 4 || n = 8) && off % n = 0
  let (en, ro, a) := m.window f off
  let mid := (m.fnMid f).getD 0
  let r : Req := { mid := mid }
  let refuse := fun (cause : Nat) => ((0, m.refuse mid a data.isSome (n = 8) cause, mem) : Nat × Mod × List Host.Cell)
  if m.frozen f || m.fnInReset f then
    let m' := m.selCount f.ep 5
    let open_ := match placeAt a with | .reg k _ => alwaysRead.contains k.reg && (accessFault a n).isNone | _ => false
    if data.isNone && !bar2 && en && open_ then let (v, m') := m'.readAt mem r a n; (v, m', mem) else (2 ^ (8 * n) - 1, m', mem)
  else if bar2 then
    let x := tgetD m.msix (fnKey f) {}
    let pba := if f.vf.isNone then 0x8000 else 0x1000
    if !aligned || m.phase ≠ 5 then (0, m, mem)
    else match data with
      | none => (x.word pba off + (if n = 8 then x.word pba (off + 4) * 2 ^ 32 else 0), m, mem)
      | some v => (0, m.bar2Write f pba off n v, mem)
  else match (if m.phase = 5 then m.nvmeOf f off else none) with
    | some i =>
      if !aligned then refuse 2
      else if off < 0x1000 then
        (if n = 8 && nvMismatch off then refuse 2
         else match data with
         | none => let (v, m) := m.nvAccess mid i off n; (v, m, mem)
         | some v => (0, m.nvRegWrite i off n (v % 2 ^ (8 * n)), mem))
      else if off < 0x1208 then
        (if n = 8 then refuse 2
         else match data with
           | none => (0, m, mem)
           | some v => (0, m.nvBell i ((off - 0x1000) / 4) (v % 2 ^ 32), mem))
      else refuse 1
    | none =>
      if m.phase = 5 && (!en || (ro && data.isSome)) then refuse 5
      else if !en then (0, m, mem)
      else match data with
        | none => let (v, m) := m.readAt mem r a n; (v, m, mem)
        | some v => let (m, mem) := if ro then (m, mem) else m.writeAt mem r a n v; (0, m, mem)

/-- HOST_MEMORY_REQUEST: a memory request of `n` bytes at offset `off` of BAR0 or BAR2 of a function; `data` is what a write
carries. A read completes with its data. -/
def execHostMemoryRequest (f : Fn) (bar2 : Bool) (off n : Nat) (data : Option Nat) (s : State) : Host.Outcome State Fault Refusal :=
  runMem s fun m mem =>
    let done := fun (m : Mod) (v : Nat) => if data.isNone then m.emit (.completion f.ep v) else m
    if m.phase = 6 then
      if f = pf 0 && !bar2 then let (v, m) := m.recoveryRequest off n data; (done m v, mem) else (m, mem)
    else if !m.fnExists f || !m.linkUp f.ep then (m, mem)
    else let (v, m, mem) := m.memoryRequest mem f bar2 off n data; (done m v, mem)

/-! ### REG_READ and REG_WRITE (R66) -/

/-- One READ or WRITE value: address, width, count, stride. -/
structure RegRun where
  addr : Nat
  width : Nat
  count : Nat
  stride : Nat
  deriving DecidableEq, Repr

/-- The head of a READ or WRITE value. -/
def regRun (v : List Byte) : RegRun :=
  let w := leAt v 5 1
  let s := leAt v 12 4
  ⟨leAt v 0 5, w, leAt v 8 4, if s = 0 then w else s⟩

/-- WIDTH is 4 or 8 and ADDR is aligned to it. -/
def RegRun.aligned (x : RegRun) : Bool := (x.width = 4 || x.width = 8) && x.addr % x.width = 0

/-- COUNT and STRIDE are in range. -/
def RegRun.ok (x : RegRun) : Bool := within 1 65536 x.count && x.stride % x.width = 0

/-- The reads of one READ TLV, one after another: the bytes read. -/
def Mod.readRun (m : Mod) (mem : List Host.Cell) (r : Req) (x : RegRun) : List Byte × Mod :=
  let (bs, m) := (List.range x.count).foldl (fun (a : List (List Byte) × Mod) j =>
    let (v, m) := a.2.readAt mem r (x.addr + j * x.stride) x.width
    (leBytes x.width v :: a.1, m)) ([], m)
  (bs.reverse.flatten, m)

/-- REG_READ (R66). (DEDUCED, log 21) -/
def execRegRead (c : Cmd) (s : State) : Host.Outcome State Fault Refusal :=
  run s fun m => m.runCmd c 0x0004 [] fun m =>
    let ts := (c.all 0x100).map fun t => (t.1, regRun t.2)
    let sizes := ts.map fun t => t.2.count * t.2.width
    let total := sizes.foldl (· + ·) 0
    let packet := 64 + 16 * b2n (c.tlv 3).isSome + (sizes.map fun n => ceilDiv (4 + n) 8 * 8).foldl (· + ·) 0
    match ts.find? fun t => !t.2.aligned with
    | some t => (m, some (badTlv t.1 2))
    | none =>
      match (ts.find? fun t => !t.2.ok).or (ts.drop 16).head? with
      | some t => (m, some (badTlv t.1))
      | none =>
        let go := fun (m : Mod) => ts.foldl (fun (a : List (List Byte) × Mod) t =>
          let (bs, m) := a.2.readRun s.mem { mid := c.mid, viaCmd := true } t.2
          (a.1 ++ [bs], m)) ([], m)
        match c.buffer with
        | some (_, n, _) =>
          if n < total then (m, some (badTlv (c.pos 1)))
          else let (bs, m) := go m; (m.bufferWrite c bs.flatten, some {})
        | none =>
          if c.src.limit < packet then (m, some (badHeader 1))
          else let (bs, m) := go m; (m, some (okWith (bs.map (tlv 0x101))))

/-- The writes of one WRITE TLV: the module, the microcode data region, writes made and refused. -/
def Mod.writeRun (m : Mod) (mem : List Host.Cell) (r : Req) (x : RegRun) (vals : List Byte) (made refused : Nat) :
    Mod × List Host.Cell × Nat × Nat :=
  (List.range x.count).foldl (fun (a : Mod × List Host.Cell × Nat × Nat) j =>
    let (m, mem) := a.1.writeAt a.2.1 r (x.addr + j * x.stride) x.width (leAt vals (j * x.width) x.width)
    if m.alog.count = a.1.alog.count then (m, mem, a.2.2.1 + 1, a.2.2.2) else (m, mem, a.2.2.1, a.2.2.2 + 1)) (m, mem, made, refused)

/-- REG_WRITE (R66): writes under every rule of their targets; a refused one is logged and does not fail the command. -/
def execRegWrite (c : Cmd) (s : State) : Host.Outcome State Fault Refusal :=
  runMem s fun m mem =>
    let ts := (c.all 0x100).map fun t => (t.1, regRun t.2, t.2.drop 16)
    let bad := match ts.find? fun t => !t.2.1.aligned with
      | some t => some (badTlv t.1 2)
      | none => (ts.find? fun t => !t.2.1.ok || t.2.2.length ≠ t.2.1.count * t.2.1.width).map fun t => badTlv t.1
    let go := fun (m : Mod) => ts.foldl (fun (a : Mod × List Host.Cell × Nat × Nat) t =>
      a.1.writeRun a.2.1 { mid := c.mid, viaCmd := true } t.2.1 t.2.2 a.2.2.1 a.2.2.2) (m, mem, 0, 0)
    let m' := m.runCmd c 0x0005 [] fun m =>
      match bad with
      | some a => (m, some a)
      | none => let (m, _, made, refused) := go m; (m, some (okWith [tlv 0x102 (leBytes 4 made ++ leBytes 4 refused)]))
    if bad.isNone && (m.cmdCheck { c with opcode := 0x0005 }).isNone then (m', (go m).2.1) else (m', mem)

end Sys2Proof.Machine
end

