-- ==== Sys2Proof/Machine/Jexdor.lean ====
section
/-! DEFINITION. *Jexdor links and multi-module systems*: frames between neighbours, credit, the receive dictionary, forwarding,
routes, the system's members and its time. Fields of a frame are in wire order (R475). -/

namespace Sys2Proof.Machine

/-! ### Frames sent (R476) -/

/-- State of link `l` (R478). -/
def Mod.linkState (m : Mod) (l : Nat) : Nat := m.get F.JXL_LINK_STATUS_STATE [l]

/-- A link-local frame leaves on link `l`. -/
def Mod.jxlSend (m : Mod) (l typ : Nat) (payload : List Byte) : Mod := (m.emit (.jxl l typ payload)).count F.JXL_CNT_COUNT [l, 0]

/-- The links that are UP. -/
def Mod.upLinks (m : Mod) : List Nat := (List.range 32).filter fun l => m.linkState l = 3

/-- SLOT_CELLS that a HELLO asks for (R476): of a request that waits, or of a slotted class. (DEDUCED, log 68) -/
def Mod.slotWant (m : Mod) (l c : Nat) : Nat :=
  match m.jxl.slots.find? fun q => decide (q.link = l ∧ q.cls = c) with
  | some q => q.cells
  | none => if m.flag F.JXL_CREDIT_SLOTTED [l, c] then m.get F.JXL_CREDIT_SLOT_CELLS [l, c] else 0

/-- The payload of a HELLO. -/
def Mod.helloBytes (m : Mod) (l : Nat) : List Byte :=
  let d := m.chalk.dir
  serial ++ leBytes 1 (if d.role = 0 then 0xFF else d.module) ++ leBytes 1 d.role ++ leBytes 1 l ++ [0] ++ beBytes 4 d.systemId ++
    (List.range 8).flatMap (fun c => beBytes 4 (m.slotWant l c)) ++ leBytes 1 (b2n (m.flag F.JXL_LINK_CFG_DICT_EN [l])) ++
    List.replicate 7 0

/-- JXL_HELLO_TIMER: every HELLO_US on a link whose sub-port is UP. -/
def execJxlHelloTimer (l : Fin 32) (s : State) : Host.Outcome State Fault Refusal :=
  run s fun m => if m.linkState l < 2 then m else m.jxlSend l 8 (m.helloBytes l)

/-- JXL_CREDIT_TIMER: FREED and HELD of every class, and up to 16 learn acknowledgements (R479, R483). -/
def execJxlCreditTimer (l : Fin 32) (s : State) : Host.Outcome State Fault Refusal :=
  run s fun m =>
    if m.linkState l ≠ 3 then m
    else
      let x := m.linkOf l
      let acks := x.acks.take 16
      let body := (List.range 8).flatMap (fun c => beBytes 4 (tgetD x.freed c 0) ++ beBytes 4 (sub32 (tgetD x.recvd c 0) (tgetD x.freed c 0))) ++
        leBytes 1 acks.length ++ [0] ++ acks.flatMap fun a => leBytes 1 a.1 ++ leBytes 1 a.2
      (m.putLink l { x with acks := x.acks.drop 16 }).jxlSend l 9 body

/-- JXL_MARK_TIMER: the SENT counts (R480). -/
def execJxlMarkTimer (l : Fin 32) (s : State) : Host.Outcome State Fault Refusal :=
  run s fun m =>
    if m.linkState l ≠ 3 then m
    else m.jxlSend l 10 ((List.range 8).flatMap fun c => beBytes 4 (tgetD (m.linkOf l).sent c 0))

/-- The payload of a TIME frame; the first twelve bytes are written as it leaves (R477). -/
def Mod.timeBytes (m : Mod) (l : Nat) : List Byte :=
  let echo := match (m.linkOf l).stamps with | some (a, b) => stamp12 a ++ stamp12 b | none => List.replicate 24 0
  let flags := b2n m.traceable + 2 * b2n (m.flag F.TPL_UTC_VALID) + 4 * b2n (m.flag F.TPL_UTC_LEAP61) + 8 * b2n (m.flag F.TPL_UTC_LEAP59)
  stamp12 m.now ++ echo ++ leBytes 1 m.servo ++ leBytes 1 flags ++ beBytes 2 (m.get F.TPL_UTC_OFFSET) ++ beBytes 4 (bound32 m.bound)

/-- JXL_TIME_TIMER: sixteen times a second on an UP link (R495). -/
def execJxlTimeTimer (l : Fin 32) (s : State) : Host.Outcome State Fault Refusal :=
  run s fun m => if m.linkState l ≠ 3 then m else m.jxlOwn l 3 7 ((m.linkOf l).peer.module % 64) 0 (m.timeBytes l)

/-- A BROADCAST goes out on every UP link but one (R497). (DESIGN CHOICE, log 69) -/
def Mod.flood (m : Mod) (but : Option Nat) (payload : List Byte) : Mod :=
  (m.upLinks.filter fun l => but ≠ some l).foldl (fun m l => m.jxlOwn l 4 7 ((m.linkOf l).peer.module % 64) 0 payload) m

/-- The payload of a BROADCAST: SEQ, KIND, TAG, zeros to byte 61 (R576). (DESIGN CHOICE, log 69) -/
def broadcastBytes (seq kind tag : Nat) : List Byte :=
  beBytes 4 seq ++ leBytes 1 kind ++ [0] ++ beBytes 4 tag ++ List.replicate 22 0

/-- A BROADCAST of the module's own: a sequence that it will not act on again. -/
def Mod.broadcast (m : Mod) (kind tag : Nat) : Mod :=
  let n := (m.fit.sentSeq + 1) % 2 ^ 32
  let m := { m with fit := { m.fit with sentSeq := n, seenSeqs := n :: m.fit.seenSeqs } }
  m.flood none (broadcastBytes n kind tag)

/-- JXL_BEACON_TIMER: the anchor's beacon (R493). -/
def execJxlBeaconTimer (s : State) : Host.Outcome State Fault Refusal :=
  run s fun m => if m.chalk.dir.role = 1 then m.broadcast 0 0 else m

/-- FIT_TRIGGER (R580): fires at execution; with BROADCAST it also floods a Fitting broadcast. The reply carries SNAP_SEQ, or the
MISSED count when the firing was not made. (DESIGN CHOICE, log 49) -/
def execFitTrigger (c : Cmd) (s : State) : Host.Outcome State Fault Refusal :=
  run s fun m => m.runCmd c 0x0902 [] fun m =>
    let v := c.val 0x100
    let tag := leAt v 4 4
    let before := m.get F.FIT_STATUS_MISSED
    let seq := m.fit.snapSeq
    let m := m.fire { source := 1, clear := bit (leAt v 0 1) 0, tag := tag }
    let missed := m.fit.snapSeq = seq && m.get F.FIT_STATUS_MISSED ≠ before
    let m := if bit (leAt v 0 1) 1 then m.broadcast 1 tag else m
    (m, some (okWith [if missed then tlv 0x102 (leBytes 4 (m.get F.FIT_STATUS_MISSED))
      else tlv 0x101 (leBytes 4 (m.fit.snapSeq % 2 ^ 32))]))

/-! ### Link-local frames received (R478 to R480, R485, R487, R488) -/

/-- The allowances that the peer asks for are set aside, or refused where R291 would break (R488). -/
def Mod.slotsAsked (m : Mod) (l : Nat) (want : List Nat) : Mod :=
  let sl := m.get F.JXL_LINK_CFG_PORT [l] / 12
  (List.range 7).foldl (fun m c =>
    let x := m.linkOf l
    let w := want.getD c 0
    let ok : Link := { x with slotFrom := if w = 0 then tdel x.slotFrom c else tput x.slotFrom c w,
                              slotBad := x.slotBad - (if bit x.slotBad c then 2 ^ c else 0) }
    let no : Link := { x with slotFrom := tdel x.slotFrom c, slotBad := x.slotBad ||| 2 ^ c }
    let m' := m.putLink l ok
    if w = 0 || m'.pleatFits sl then m' else m.putLink l no) m

/-- The neighbour answers slot requests: classes in `refused` stay credited (R488). -/
def Mod.slotsAnswered (m : Mod) (l answered refused : Nat) : Mod :=
  let hit := m.jxl.slots.filter fun q => q.link = l && bit answered q.cls
  let m := hit.foldl (fun m q =>
    if bit refused q.cls then
      ((m.set F.JXL_CREDIT_SLOT_REFUSED [l, q.cls] 1).set F.JXL_CREDIT_SLOTTED [l, q.cls] 0).set F.JXL_CREDIT_SLOT_CELLS [l, q.cls] 0
    else ((m.set F.JXL_CREDIT_SLOTTED [l, q.cls] 1).set F.JXL_CREDIT_SLOT_CELLS [l, q.cls] q.cells).set F.JXL_CREDIT_SLOT_REFUSED [l, q.cls] 0) m
  let no := (hit.filter fun q => bit refused q.cls).map (·.cmd)
  let m : Mod := { m with jxl := { m.jxl with slots := m.jxl.slots.filter fun q => !(q.link = l && bit answered q.cls),
                                              slotBad := (m.jxl.slotBad ++ no).eraseDups } }
  ((hit.map (·.cmd)).eraseDups).foldl (fun m c =>
    if m.jxl.slots.any fun q => decide (q.cmd = c) then m
    else if m.jxl.slotBad.contains c then
      ({ m with jxl := { m.jxl with slotBad := m.jxl.slotBad.filter fun x => decide (x ≠ c) } }).reply c
        { status := stNoResource, errDetail := 3, late := true }
    else m.reply c {}) m

/-- A HELLO (R478). -/
def Mod.jxlHello (m : Mod) (l : Nat) (d : List Byte) (answered refused : Nat) : Mod :=
  let st := m.linkState l
  if st < 2 then m
  else
    let x := m.linkOf l
    let p : Peer := { serial := slice d 30 16, module := byteAt d 46, role := byteAt d 47, link := byteAt d 48, systemId := wireAt d 50 4,
                      slots := (List.range 8).map fun c => wireAt d (54 + 4 * c) 4, dictEn := bit (byteAt d 86) 0 }
    let own := m.chalk.dir.systemId
    let differ := decide (own ≠ 0 ∧ p.systemId ≠ 0 ∧ own ≠ p.systemId)
    let n := if differ then 0 else x.agree + 1
    let m := m.putLink l { x with peer := p, helloAt := m.ns, agree := n }
    let m := (m.set F.JXL_LINK_STATUS_PEER_MODULE [l] p.module).set F.JXL_LINK_STATUS_PEER_LINK [l] p.link
    let m := m.setFlag F.JXL_LINK_STATUS_PEER_IN_SYSTEM [l] (decide (own ≠ 0 ∧ own = p.systemId))
    let m := if differ && st ≠ 4 then m.linkTo l 4
      else if st = 2 && decide (3 ≤ n) then m.linkTo l 3
      else if st = 4 && decide (3 ≤ n) then m.linkTo l 2
      else m
    if m.linkState l = 3 then (m.slotsAsked l p.slots).slotsAnswered l answered refused else m

/-- A CREDIT frame (R479, R483). -/
def Mod.jxlCredit (m : Mod) (l : Nat) (d : List Byte) : Mod :=
  if m.linkState l ≠ 3 then m
  else
    let x := m.linkOf l
    let at_ := fun (o : Nat) => (List.range 8).map fun c => (c, wireAt d (30 + 8 * c + o) 4)
    let acks := (List.range (min 16 (byteAt d 94))).map fun i => (byteAt d (96 + 2 * i), byteAt d (97 + 2 * i))
    let tx : Tab DictEntry := x.tx.map fun e => (e.1, { e.2 with confirmed := e.2.confirmed || acks.contains (e.1, e.2.version) })
    m.putLink l { x with repFreed := at_ 0, repHeld := at_ 4, tx := tx }

/-- A MARK: cells sent and never received are returned and counted (R480). -/
def Mod.jxlMark (m : Mod) (l : Nat) (d : List Byte) : Mod :=
  if m.linkState l ≠ 3 then m
  else
    (List.range 8).foldl (fun m c =>
      let x := m.linkOf l
      let sent := wireAt d (30 + 4 * c) 4
      let lost := sub32 sent (tgetD x.recvd c 0)
      (m.putLink l { x with recvd := tput x.recvd c sent, freed := tmod x.freed c 0 fun v => (v + lost) % 2 ^ 32 }).count
        F.JXL_CNT_COUNT [l, 7] lost) m

/-- A DICT frame: a NAK takes a transmit entry out (R485), a RESET clears the receive dictionary (R487). -/
def Mod.jxlDict (m : Mod) (l : Nat) (d : List Byte) : Mod :=
  let x := m.linkOf l
  if m.linkState l ≠ 3 then m
  else match byteAt d 30 with
    | 0 => m.putLink l { x with tx := tdel x.tx (byteAt d 31) }
    | 1 => m.putLink l { x with rx := [] }
    | _ => m

/-! ### The JEXDOR source (R494 to R496) -/

/-- Entry 15 of the source table of a member whose route to M00 leaves on link `l`. -/
def jexdorEntry (l : Nat) : Nat := 1 + 4 * 2 + l * 2 ^ 4 + 2 ^ 15 + 2 ^ 16

/-- The value that entry 15 has, or takes at the next tick. -/
def Mod.entry15 (m : Mod) : Nat :=
  (((m.tl.changes.flatMap (·.entries)).filter fun (e : Nat × Nat) => decide (e.1 = 15)).getLast?.map (·.2)).getD (m.stored .TPL_SRC [15] % 2 ^ 32)

/-- Entry 15 takes a value at the next tick (R129, R494). (DESIGN CHOICE, log 70) -/
def Mod.source15 (m : Mod) (v : Nat) : Mod :=
  if m.entry15 = v then m
  else m.setTl fun t => { t with changes := t.changes ++ [{ cmd := none, entries := [(15, v)], sel := none }] }

/-- Reads a stamp of twelve bytes. -/
def readStamp (d : List Byte) (o : Nat) : Nat := wireAt d o 6 * secUnit + wireAt d (o + 6) 4 * nsUnit + wireAt d (o + 10) 2

/-- The middle value of a list. (DESIGN CHOICE, log 70) -/
def median (l : List Int) : Int := ((l.foldl (fun (a : List Int) x => a.takeWhile (fun y => decide (y ≤ x)) ++ [x] ++
  a.dropWhile (fun y => decide (y ≤ x))) []).getD (l.length / 2) 0)

/-- The link by which the module's route to M00 leaves. -/
def Mod.towardAnchor (m : Mod) : Option Nat := if m.isMember then (m.route 0).map (·.1) else none

/-- A TIME frame received with stamp `rx` (R495, R496). (DESIGN CHOICE, log 70) -/
def Mod.jxlTime (m : Mod) (l : Nat) (d : List Byte) (rx : Nat) : Mod :=
  let x := m.linkOf l
  let t1 := readStamp d 30
  let t3 := readStamp d 42
  let t4 := readStamp d 54
  let asym : Int := signed 20 (m.get F.JXL_LINK_CFG_ASYM_PS [l]) * 65536 / 1000
  let a : Int := (rx : Int) - t1
  let b : Int := (t4 : Int) - t3
  let x : Link := { x with stamps := some (t1, rx) }
  let x : Link := if t3 = 0 then x else { x with offset := (a - b + asym) / 2, delays := ((a + b) / 2 :: x.delays).take 16 }
  let m := m.putLink l x
  let m := m.set F.JXL_LINK_STATUS_PATH_DELAY_PS [l] ((median x.delays).toNat * 1000 / 65536)
  if m.towardAnchor ≠ some l then m
  else
    let key := srcKey 4 l
    let st := byteAt d 66
    let fl := byteAt d 67
    let unc := ceilDiv (m.get F.JXL_LINK_CFG_ASYM_UNC_PS [l]) 1000
    let m := if st = 2 || st = 3 then m.srcGood key else m.srcLost key 1
    let m := (m.srcTrace key (bit fl 0)).takeUtc key (bit fl 1) (signed 16 (wireAt d 68 2)) (bit fl 2) (bit fl 3)
    m.setTl fun t => { t with jxBound := wireAt d 70 4 + unc }

/-! ### Credited frames received (R477, R483 to R486, R491, R492, R497) -/

/-- Cells that came on link `l` leave the receiver at once. -/
def Mod.freedNow (m : Mod) (l c n : Nat) : Mod :=
  let x := m.linkOf l
  m.putLink l { x with freed := tmod x.freed c 0 fun v => (v + n) % 2 ^ 32 }

/-- The payload after byte 29. -/
def jxlPayload (d : List Byte) : List Byte := slice d 30 (wireAt d 28 2)

/-- A routed frame for another module goes on (R491). -/
def Mod.jxlForward (m : Mod) (l : Nat) (d : List Byte) (stamp : Nat) : Mod :=
  let n := m.get F.JXL_LINK_CFG_PORT [l]
  let hops := byteAt d 18
  if hops = 0 then m.count F.JXL_CNT_COUNT [l, 9]
  else match m.route (byteAt d 16 % 64) with
    | none => m.count F.JXL_CNT_COUNT [l, 11]
    | some (out, _) =>
      let n' := m.get F.JXL_LINK_CFG_PORT [out]
      let k' := m.get F.JXL_LINK_CFG_SUB [out]
      let f := byteAt d 15
      let f := if bit f 1 && !(m.linkSecure l && m.linkSecure out) then f - 2 else f
      let d := overlay (putByte (putByte d 18 (hops - 1)) 15 f) 6 (beBytes 6 (portMac n' k'))
      m.placePort (n / 12) n' k' { bytes := d, origin := .port n (m.get F.JXL_LINK_CFG_SUB [l]), stamp := stamp, stepTag := m.stepTag,
                                   tc := jxlClass d, cls := jxlClass d } false

/-- A COMMAND frame for this module (R492). A standalone module takes a JXL_JOIN that an anchor sends it. (DESIGN CHOICE, log 69) -/
def Mod.jxlCommand (m : Mod) (src : Nat) (bs : List Byte) : Mod :=
  match m.chalk.dir.role, parsePacket (.jexdor src) (0x4000 + src) bs with
  | 0, .ok c => if c.opcode = 0x0702 then m.setCut fun x => { x with pool := x.pool ++ [{ cmd := c }] } else m.receive (.jexdor src) (0x4000 + src) bs
  | _, _ => m.receive (.jexdor src) (0x4000 + src) bs

/-- The Cutter takes a command of an origin now: it has a place (R58), and fewer than 32 of that origin are outstanding (R492). -/
def Mod.jxlRoom (m : Mod) (src : Nat) : Bool :=
  m.poolCount < 1024 && (m.cut.pool.filter fun e => decide (e.cmd.src = .jexdor src)).length < 32

/-- A COMMAND frame reaches the Cutter, or waits behind those that wait (R58). -/
def Mod.jxlArrives (m : Mod) (h : HeldCmd) : Mod :=
  if m.jxl.held.isEmpty && m.jxlRoom h.origin then (m.freedNow h.link h.cls h.cells).jxlCommand h.origin h.bytes
  else { m with jxl := { m.jxl with held := m.jxl.held ++ [h] } }

/-- The COMMAND frames that the Cutter now has room for, in their order; the cells of one whose link has left UP since return to no
count. -/
def Mod.jxlTakeHeld (m : Mod) : List HeldCmd → Mod
  | [] => m
  | h :: hs =>
    if m.jxlRoom h.origin then
      let m : Mod := { m with jxl := { m.jxl with held := m.jxl.held.erase h } }
      let m := if (m.linkOf h.link).session = h.session then m.freedNow h.link h.cls h.cells else m
      (m.jxlCommand h.origin h.bytes).jxlTakeHeld hs
    else m.jxlTakeHeld hs

/-- COMMAND_START: the Cutter takes the COMMAND frames that it has room for again, and a free execution place goes to the next command;
one for another module is forwarded (R56 to R60). (DESIGN CHOICE, log 9) -/
def execCommandStart (s : State) : Host.Outcome State Fault Refusal :=
  run s fun m =>
    let m := m.jxlTakeHeld m.jxl.held
    if 32 ≤ (m.cut.pool.filter fun e => decide (e.stage ≠ .queued)).length then m
    else match m.grant with
      | none => m
      | some (e, credit, ptr) =>
        let m := m.setCut fun c => { c with credit := credit, ptr := ptr }
        let m := m.setCut fun c =>
          { c with pool := changeFirst (fun x => decide (x.cmd = e.cmd ∧ x.stage = .queued)) (fun x => { x with stage := .executing }) c.pool }
        if m.foreign e.cmd then m.forward_ e.cmd else m

/-- A REPLY frame for this module: the forwarded command is answered; a reply given up before is discarded (R492). -/
def Mod.jxlReplied (m : Mod) (bs : List Byte) : Mod :=
  let hit := m.jxl.fwd.find? fun f => decide (f.cmd.opcode = leAt bs 2 2 ∧ f.cmd.tag = leAt bs 4 2 ∧ f.cmd.seq = leAt bs 24 4 ∧
    f.target = leAt bs 14 1)
  match hit with
  | none => m
  | some f =>
    let c := f.cmd
    let dead := match m.cut.pool.find? fun (e : PoolEntry) => decide (e.cmd = c) with | some e => e.dead | none => false
    let len := leAt bs 8 4
    let r : Reply := { src := c.src, mid := c.mid, unordered := c.unordered, opcode := c.opcode, tag := c.tag, status := leAt bs 6 2,
                       target := f.target, inst := leAt bs 16 2, gen := leAt bs 18 2, txn := leAt bs 20 4, seq := c.seq,
                       timeoutUs := c.timeoutUs, doneTime := leAt bs 32 8, errTlv := leAt bs 40 2, errDetail := leAt bs 42 2,
                       tlvs := (parseTlvs len (slice bs 64 (len - 64))).getD [], held := true }
    let m : Mod := { m with jxl := { m.jxl with fwd := m.jxl.fwd.filter fun x => decide (x ≠ f) } }
    let m := m.setCut fun x => { x with pool := dropEntry c x.pool }
    if dead then m else m.sendReply r

/-- A BROADCAST: acted on once by its sequence, and flooded on (R493, R497, R576). -/
def Mod.jxlBroadcast (m : Mod) (l : Nat) (p : List Byte) : Mod :=
  let seq := wireAt p 0 4
  if m.fit.seenSeqs.contains seq then m
  else
    let m := { m with fit := { m.fit with seenSeqs := seq :: m.fit.seenSeqs } }
    let m := match byteAt p 4 with
      | 0 => if m.isMember then ({ m with jxl := { m.jxl with beaconAt := m.ns } }).set F.JXL_SYS_ANCHOR_SEEN [] 1 else m
      | 1 =>
        let tag := wireAt p 6 4
        (m.fit.slots.filter fun (s : Nat × FitSlot) => s.2.source = 4 && s.2.param = tag).foldl (fun (m : Mod) (s : Nat × FitSlot) =>
          m.trigger { source := 4, slot := some s.1, clear := s.2.clear, tag := tag }) m
      | _ => m
    m.flood (some l) p

/-- A frame passed to the ingress elastic buffer: RX_FRAMES_OK and the counters beside it (R189). -/
def Mod.rxCount (m : Mod) (n k : Nat) (d : List Byte) : Mod :=
  let stat := fun (m : Mod) (i v : Nat) => m.count F.PRT_STAT_COUNT [n, k, i] v
  let m := stat (stat m 0 1) 1 (d.length + 4)
  match castOf d with | 1 => stat m 2 1 | 2 => stat m 3 1 | _ => m

/-- A credited frame, whole and expanded, on its way into Pleat; `full`: the elastic buffer has no room and it is dropped. (DESIGN CHOICE, log 69) -/
def Mod.jxlDeliver (m : Mod) (l : Nat) (d : List Byte) (stamp : Nat) (full : Bool) : Mod :=
  let n := m.get F.JXL_LINK_CFG_PORT [l]
  let k := m.get F.JXL_LINK_CFG_SUB [l]
  let c := jxlClass d
  let cells := cellsOf d.length
  let mine : Bool := decide (byteAt d 16 % 64 = m.chalk.dir.module)
  let m := m.rxCount n k d
  let gone := m.freedNow l c cells
  if full then gone.count F.PRT_STAT_COUNT [n, k, 7]
  else match jxlType d, mine with
    | 3, _ => gone.jxlTime l d stamp
    | 4, _ => gone.jxlBroadcast l (jxlPayload d)
    | 0, true =>
      let ch : Charge :=
        { slice := n / 12, acct := inAcct (n / 12) (n % 12) c, n := cells, src := 16 + l + 32 * (m.linkOf l).session }
      (m.charge ch).enqueueIn (n / 12) (n % 12)
        { bytes := d, origin := .port n k, stamp := stamp, stepTag := m.stepTag, cls := c, charges := [ch] }
    | 1, true => m.jxlArrives ⟨l, c, cells, (m.linkOf l).session, byteAt d 17 % 64, jxlPayload d⟩
    | 2, true => gone.jxlReplied (jxlPayload d)
    | _, _ => gone.jxlForward l d stamp

/-- A frame as the sender's program built it (R486): CMP and LEARN clear, no entry named. -/
def plainFrame (d : List Byte) : List Byte :=
  let f := byteAt d 15
  putByte (putByte (putByte d 15 (f - 32 * bits f 5 2)) 19 0) 20 0

/-- A credited frame that passed the checks of its sub-port; `bad`: the entry it names has an uncorrectable error (R485). (DEDUCED, log 68) -/
def Mod.jxlCredited (m : Mod) (l : Nat) (d : List Byte) (stamp : Nat) (bad full : Bool) : Mod :=
  if m.linkState l ≠ 3 then m
  else
    let c := jxlClass d
    let cells := cellsOf (30 + wireAt d 28 2)
    let x := m.linkOf l
    let m := m.putLink l { x with recvd := tmod x.recvd c 0 fun v => (v + cells) % 2 ^ 32 }
    let x := m.linkOf l
    let i := byteAt d 19
    let p := byteAt d 21
    let hit := (tget x.rx i).filter fun e => !bad && decide (e.version = byteAt d 20 ∧ e.bytes.length = p)
    if bit (byteAt d 15) 6 then
      match hit with
      | some e =>
        let pre := if e.fix then derive4 e.bytes e.ipOff (wireAt d 28 2) else e.bytes
        m.jxlDeliver l (plainFrame (d.take 30 ++ pre ++ d.drop 30)) stamp full
      | none =>
        let m := if bad then (m.putLink l { x with rx := tdel x.rx i }).eccFatal 7 (leBytes 1 l ++ leBytes 1 i) else m
        ((m.count F.JXL_CNT_COUNT [l, 5]).freedNow l c cells).jxlSend l 11 (0 :: leBytes 1 i ++ List.replicate 30 0)
    else if bit (byteAt d 15) 5 && m.flag F.JXL_LINK_CFG_DICT_EN [l] then
      let e : DictEntry := { bytes := slice d 30 p, version := byteAt d 20, fix := bit (byteAt d 22) 0, ipOff := byteAt d 23 }
      (m.putLink l { x with rx := tput x.rx i e, acks := x.acks ++ [(i, byteAt d 20)] }).jxlDeliver l (plainFrame d) stamp full
    else m.jxlDeliver l d stamp full

/-- A frame of a Jexdor sub-port after the MACsec check (R476, R477). -/
def Mod.jxlFrame (m : Mod) (l : Nat) (d : List Byte) (stamp : Nat) (bad full : Bool) : Mod :=
  let t := jxlType d
  if wireAt d 12 2 ≠ jxlEther || byteAt d 14 / 16 ≠ 1 || (5 ≤ t && t ≤ 7) || 12 ≤ t then m.count F.JXL_CNT_COUNT [l, 8]
  else
    let m := m.count F.JXL_CNT_COUNT [l, 1]
    match t with
    | 8 => m.jxlHello l d 0 0
    | 9 => m.jxlCredit l d
    | 10 => m.jxlMark l d
    | 11 => m.jxlDict l d
    | _ => m.jxlCredited l d stamp bad full

/-- An enabled link and a frame of a type. -/
def Mod.jxlGood (m : Mod) (l : Nat) (d : List Byte) (t : Nat) : Bool :=
  m.flag F.JXL_LINK_CFG_ENABLE [l] && wireAt d 12 2 = jxlEther && byteAt d 14 / 16 = 1 && jxlType d = t

/-- JXL_HELLO_RECEIVED; `answered` and `refused`: classes whose slot request the neighbour has answered, and refused. -/
def execJxlHelloReceived (l : Fin 32) (d : List Byte) (answered refused : Fin 256) (s : State) : Host.Outcome State Fault Refusal :=
  run s fun m => if m.jxlGood l d 8 then (m.count F.JXL_CNT_COUNT [l, 1]).jxlHello l d answered refused else m

/-- JXL_HELLO_TIMEOUT: no HELLO for 4 × HELLO_US on an UP link (R478). -/
def execJxlHelloTimeout (l : Fin 32) (t : Nat) (s : State) : Host.Outcome State Fault Refusal :=
  run s fun m =>
    let m := m.runToNs t
    if m.linkState l = 3 && decide ((m.linkOf l).helloAt + 4000 * m.get F.JXL_CFG_HELLO_US ≤ m.ns) then m.linkTo l 2 else m

/-- JXL_CREDIT_RECEIVED. -/
def execJxlCreditReceived (l : Fin 32) (d : List Byte) (s : State) : Host.Outcome State Fault Refusal :=
  run s fun m => if m.jxlGood l d 9 then (m.count F.JXL_CNT_COUNT [l, 1]).jxlCredit l d else m

/-- JXL_MARK_RECEIVED. -/
def execJxlMarkReceived (l : Fin 32) (d : List Byte) (s : State) : Host.Outcome State Fault Refusal :=
  run s fun m => if m.jxlGood l d 10 then (m.count F.JXL_CNT_COUNT [l, 1]).jxlMark l d else m

/-- JXL_DICT_RECEIVED. -/
def execJxlDictReceived (l : Fin 32) (d : List Byte) (s : State) : Host.Outcome State Fault Refusal :=
  run s fun m => if m.jxlGood l d 11 then (m.count F.JXL_CNT_COUNT [l, 1]).jxlDict l d else m

/-- JXL_DATA_RECEIVED; `bad`: the dictionary entry it names has an uncorrectable error. -/
def execJxlDataReceived (l : Fin 32) (d : List Byte) (stamp : Nat) (bad : Bool) (s : State) : Host.Outcome State Fault Refusal :=
  run s fun m => if m.jxlGood l d 0 then m.jxlFrame l d stamp bad false else m

/-- JXL_COMMAND_RECEIVED. -/
def execJxlCommandReceived (l : Fin 32) (d : List Byte) (stamp : Nat) (s : State) : Host.Outcome State Fault Refusal :=
  run s fun m => if m.jxlGood l d 1 then m.jxlFrame l d stamp false false else m

/-- JXL_REPLY_RECEIVED. -/
def execJxlReplyReceived (l : Fin 32) (d : List Byte) (stamp : Nat) (s : State) : Host.Outcome State Fault Refusal :=
  run s fun m => if m.jxlGood l d 2 then m.jxlFrame l d stamp false false else m

/-- JXL_TIME_RECEIVED. -/
def execJxlTimeReceived (l : Fin 32) (d : List Byte) (stamp : Nat) (s : State) : Host.Outcome State Fault Refusal :=
  run s fun m => if m.jxlGood l d 3 then m.jxlFrame l d stamp false false else m

/-- JXL_BROADCAST_RECEIVED. -/
def execJxlBroadcastReceived (l : Fin 32) (d : List Byte) (stamp : Nat) (s : State) : Host.Outcome State Fault Refusal :=
  run s fun m => if m.jxlGood l d 4 then m.jxlFrame l d stamp false false else m

/-! ### The system (R489, R490, R493) -/

/-- Writes the directory. -/
def Mod.setDir (m : Mod) (f : Directory → Directory) : Mod :=
  { m with chalk := { m.chalk with dir := f { m.chalk.dir with seq := m.chalk.dir.seq + 1 } } }

/-- Modules in a system (JXL_SYS.MEMBERS): the anchor's list. -/
def Mod.memberCount (m : Mod) : Mod :=
  m.set F.JXL_SYS_MEMBERS [] (if m.chalk.dir.role = 1 then (List.range 64).countP fun i => bit m.chalk.dir.members i else 0)

/-- SYSTEM_ID: the first four bytes of SHA-384 over the anchor's serial, in the order of the digest. -/
def systemIdOf (sn : List Byte) : Nat := beNat ((sha384 sn).take 4)

/-- A member returns to STANDALONE: its own manager is back, origin M00 dies, its routes and entry 15 go. -/
def Mod.leaveSystem (m : Mod) : Mod :=
  let m := m.die 0x4000
  let m := m.setDir fun d => { d with role := 0, module := 0, systemId := 0, members := 0 }
  let m := (List.range 64).foldl (fun m i => m.setStored .JXL_ROUTE [i] 0) (m.set F.JXL_SYS_ANCHOR_SEEN [] 0)
  let m := (List.range 32).foldl (fun m l => m.set F.JXL_LINK_STATUS_TOWARD_ANCHOR [l] 0) m
  (m.source15 0).memberCount

/-- JXL_BEACON_LEASE_EXPIRY: no beacon for LEASE_MS (R493). -/
def execJxlBeaconLeaseExpiry (t : Nat) (s : State) : Host.Outcome State Fault Refusal :=
  run s fun m =>
    let m := m.runToNs t
    if m.isMember && m.flag F.JXL_SYS_ANCHOR_SEEN && decide (m.jxl.beaconAt + m.get F.CUT_CFG_LEASE_MS * 1000000 ≤ m.ns) then
      (m.die 0x4000).set F.JXL_SYS_ANCHOR_SEEN [] 0
    else m

/-- JXL_ORPHAN_EXPIRY: no beacon for ORPHAN_S, where that is not zero (R493). -/
def execJxlOrphanExpiry (t : Nat) (s : State) : Host.Outcome State Fault Refusal :=
  run s fun m =>
    let m := m.runToNs t
    let o := m.get F.JXL_CFG_ORPHAN_S
    if m.isMember && o ≠ 0 && decide (m.jxl.beaconAt + o * 1000000000 ≤ m.ns) then m.leaveSystem.event 21 2 (regAddr .JXL_SYS) else m

/-- Hops from every module to `d`, up to 15, over the links that are UP. -/
def hopsTo (topo : List TopoRec) (d : Nat) : Tab Nat :=
  (List.range 15).foldl (fun t h => topo.foldl (fun t r =>
    if r.state = 3 && tget t r.peer = some h && (tget t r.mod).isNone then tput t r.mod (h + 1) else t) t) [(d, 0)]

/-- The route of module `me` to `d` (R490): the fewest hops, then the lowest next-hop module, then the lowest link. (DESIGN CHOICE, log 69) -/
def routeOf (topo : List TopoRec) (me d : Nat) : Option (Nat × Nat) :=
  let t := hopsTo topo d
  match tget t me with
  | none | some 0 => none
  | some (h + 1) =>
    let cand := (topo.filter fun r => r.state = 3 && r.mod = me && tget t r.peer = some h).map fun r => (r.peer, r.link)
    match cand with
    | [] => none
    | x :: xs => some ((xs.foldl (fun a b => if b.1 < a.1 || (b.1 = a.1 && b.2 < a.2) then b else a) x).2, h + 1)

/-- JXL_ROUTE_UPDATE: the module's JXL_ROUTE table is written from the link reports of the whole system (R490, R494); a module that no
route reaches any more is lost as an origin and as a target (R57, R84). -/
def execJxlRouteUpdate (topo : List TopoRec) (s : State) : Host.Outcome State Fault Refusal :=
  run s fun m =>
    if m.chalk.dir.role = 0 then m
    else
      let me := m.chalk.dir.module
      let gone := (List.range 64).filter fun d => m.flag F.JXL_ROUTE_VALID [d] && (routeOf topo me d).isNone
      let m : Mod := { m with jxl := { m.jxl with topo := topo } }
      let m := (List.range 64).foldl (fun m d =>
        m.setStored .JXL_ROUTE [d] (match routeOf topo me d with | some (l, h) => l + 32 + h * 64 | none => 0)) m
      let toward := m.towardAnchor
      let m := (List.range 32).foldl (fun m l => m.setFlag F.JXL_LINK_STATUS_TOWARD_ANCHOR [l] (decide (toward = some l))) m
      let m := match toward with | some l => m.source15 (jexdorEntry l) | none => m
      m.pathsLost gone

/-- JXL_FORWARD_TIMEOUT: the forwarded command at place `i` has had no reply for FWD_TIMEOUT_MS (R492). (DESIGN CHOICE, log 69) -/
def execJxlForwardTimeout (i t : Nat) (s : State) : Host.Outcome State Fault Refusal :=
  run s fun m =>
    let m := m.runToNs t
    match m.jxl.fwd[i]? with
    | none => m
    | some f =>
      if m.ns < f.at_ + m.get F.JXL_CFG_FWD_TIMEOUT_MS * 1000000 then m
      else ({ m with jxl := { m.jxl with fwd := m.jxl.fwd.eraseIdx i } }).reply f.cmd { status := stAborted, errDetail := 2, late := true }

/-! ### Commands (R499) -/

/-- A LINK TLV is of the values R474 allows. -/
def linkOk (v : List Byte) : Bool :=
  let w := leAt v 4 8
  leAt v 0 1 < 32 && bits w 1 7 < 96 && bits w 12 20 ≠ 2 ^ 19

/-- A GRANT TLV. -/
def grantOk (v : List Byte) : Bool :=
  leAt v 0 1 < 32 && leAt v 1 1 < 8 && 64 ≤ leAt v 4 4 && leAt v 4 4 ≤ 65535

/-- The port of an enabled link admits one (R474). -/
def Mod.linkFits (m : Mod) (w : Nat) : Bool :=
  let n := bits w 1 7
  !bit w 0 || (8240 ≤ m.get F.PRT_CFG_MAX_FRAME [n] && m.get F.PRT_CFG_PFC_EN [n] = 0 &&
    !(m.flag F.TPL_PTP_PORT_ENABLE [n] && m.get F.TPL_PTP_PORT_SUBPORT [n] = bits w 8 3))

/-- Two enabled links on one sub-port. -/
def Mod.linksClash (m : Mod) : Bool := (List.range 96).any fun n =>
  let subs := (m.linksOn n).map fun l => m.get F.JXL_LINK_CFG_SUB [l]
  subs.eraseDups.length ≠ subs.length

/-- Link `l` takes its JXL_LINK_CFG: a link that ran and changes stops first, and one that now runs waits for its port (R478). (DESIGN CHOICE, log 70) -/
def Mod.linkSet (m : Mod) (l w : Nat) : Mod :=
  let old := m.stored .JXL_LINK_CFG [l]
  let moved := bits old 0 11 ≠ bits w 0 11
  let m := if bit old 0 && moved then m.linkTo l 0 else m
  let m := m.setStored .JXL_LINK_CFG [l] w
  if bit w 0 && moved then
    let m := m.linkTo l 1
    if m.subState (bits w 1 7) (bits w 8 3) = 4 then m.linkTo l 2 else m
  else m

/-- JXL_LINK_SET (R474, R481). -/
def execJxlLinkSet (c : Cmd) (s : State) : Host.Outcome State Fault Refusal :=
  run s fun m =>
    let ls := c.all 0x100
    let gs := c.all 0x101
    m.runCmd c 0x0701 ((ls ++ gs).map fun v => Obj.link (leAt v.2 0 1)) fun m =>
      let wrong := (ls.find? fun v => !linkOk v.2).or (gs.find? fun v => !grantOk v.2)
      match wrong with
      | some (p, _) => (m, some (badTlv p))
      | none =>
        match gs.find? fun v => m.flag F.JXL_LINK_CFG_ENABLE [leAt v.2 0 1] with
        | some (p, _) => (m, some (badTlv p 2))
        | none =>
          match ls.find? fun v => !m.linkFits (leAt v.2 4 8) with
          | some (p, _) => (m, some (badTlv p 1))
          | none =>
            let m1 := gs.foldl (fun m v => m.set F.JXL_CREDIT_GRANT [leAt v.2 0 1, leAt v.2 1 1] (leAt v.2 4 4)) m
            let m1 := ls.foldl (fun m v => m.linkSet (leAt v.2 0 1) (leAt v.2 4 8)) m1
            if m1.linksClash then (m, some (badTlv (c.pos 0x100)))
            else if (List.range 8).all fun sl => m1.pleatFits sl then (m1, some {})
            else (m, some { status := stNoResource })

/-- The SYSTEM_ID that the HELLOs on the links that lead to a serial show; none when no UP link reaches it. -/
def Mod.reaches (m : Mod) (sn : List Byte) : Option Nat :=
  let near := (m.upLinks.map fun l => (m.linkOf l).peer).find? fun p => decide (p.serial = sn)
  match near with
  | some p => some p.systemId
  | none => (m.jxl.topo.find? fun r => decide (r.state = 3 ∧ r.serial = sn)).map (·.systemId)

/-- The first UP link whose peer has a serial. -/
def Mod.linkOfSerial (m : Mod) (sn : List Byte) : Option Nat := m.upLinks.find? fun l => decide ((m.linkOf l).peer.serial = sn)

/-- JXL_JOIN on a module that is to become a member: the anchor's command reached it over a link. -/
def Mod.becomeMember (m : Mod) (n : Nat) : Mod :=
  let up := m.upLinks.find? fun l => decide ((m.linkOf l).peer.systemId ≠ 0)
  let m := m.setDir fun d => { d with role := 2, module := n, systemId := match up with | some l => (m.linkOf l).peer.systemId | none => 0 }
  let m := { m with jxl := { m.jxl with beaconAt := m.ns } }
  match up with
  | some l => m.source15 (jexdorEntry l)
  | none => m

/-- JXL_JOIN (R489). (DESIGN CHOICE, log 69) -/
def execJxlJoin (c : Cmd) (s : State) : Host.Outcome State Fault Refusal :=
  run s fun m =>
    let c : Cmd := { c with opcode := 0x0702 }
    let v := c.val 0x100
    let sn := slice v 0 16
    let n := leAt v 16 1
    let joined := match c.src with | .jexdor _ => decide (m.chalk.dir.role = 0 ∧ sn = serial ∧ 0 < n ∧ n < 64 ∧ v.length = 20) | _ => false
    if joined then (m.becomeMember n).reply c {}
    else m.runCmd c 0x0702 [.system] fun m =>
      if 64 ≤ n then (m, some c.bad)
      else match m.chalk.dir.role with
        | 0 =>
          if sn = serial && n = 0 then
            ((m.setDir fun d => { d with role := 1, module := 0, systemId := systemIdOf serial, members := 1 }).memberCount, some {})
          else (m, some (c.bad 4))
        | 1 =>
          if bit m.chalk.dir.members n then (m, some (c.bad 2))
          else match m.reaches sn with
            | none => (m, some (c.bad 1))
            | some sys =>
              if sys ≠ 0 then (m, some (c.bad 3))
              else
                let m := (m.setDir fun d => { d with members := d.members ||| 2 ^ n }).memberCount
                (match m.linkOfSerial sn with
                 | some l => m.jxlOwn l 1 7 0 0 (cmdBytes { c with mid := 0x4000, target := 0 })
                 | none => m, some {})
        | _ => (m, some (c.bad 1))

/-- JXL_LEAVE (R489): at the anchor a member's number, or its own when it is alone; at a member its own. -/
def execJxlLeave (c : Cmd) (s : State) : Host.Outcome State Fault Refusal :=
  run s fun m => m.runCmd c 0x0703 [.system] fun m =>
    let v := c.val 0x100
    let n := leAt v 0 1
    let d := m.chalk.dir
    if 64 ≤ n then (m, some c.bad)
    else match d.role with
      | 1 =>
        if n = 0 then
          if d.members = 1 then (m.leaveSystem, some {}) else (m, some (c.bad 1))
        else if bit d.members n then
          let m := (m.setDir fun d => { d with members := d.members - 2 ^ n }).memberCount
          (match m.route n with
           | some (l, h) => m.jxlOwn l 1 7 n (h - 1) (cmdBytes { c with mid := 0x4000, target := n })
           | none => m, some {})
        else (m, some c.bad)
      | 2 => if n = d.module then (m.leaveSystem, some {}) else (m, some c.bad)
      | _ => (m, some c.bad)

/-- Link records in module and link order. -/
def topoSort (l : List TopoRec) : List TopoRec :=
  let le := fun (a b : TopoRec) => decide (a.mod < b.mod ∨ (a.mod = b.mod ∧ a.link ≤ b.link))
  l.foldl (fun (a : List TopoRec) x => a.takeWhile (fun y => le y x) ++ [x] ++ a.dropWhile (fun y => le y x)) []

/-- One record of TOPOLOGY. -/
def topoBytes (topo : List TopoRec) (r : TopoRec) : List Byte :=
  let toward := match routeOf topo r.mod 0 with | some (l, _) => decide (l = r.link) | none => false
  leBytes 1 r.mod ++ leBytes 1 r.link ++ leBytes 1 r.peer ++ leBytes 1 r.peerLink ++ leBytes 1 r.state ++ leBytes 1 (b2n toward) ++ [0, 0]

/-- JXL_TOPOLOGY_READ. (DESIGN CHOICE, log 70) -/
def execJxlTopologyRead (c : Cmd) (s : State) : Host.Outcome State Fault Refusal :=
  run s fun m => m.runCmd c 0x0704 [] fun m =>
    let recs := (topoSort (m.jxl.topo.filter fun r => decide (r.state = 3))).map (topoBytes m.jxl.topo)
    let all := recs.drop (leAt (c.val 0x100) 0 4)
    match c.buffer with
    | some (_, n, _) =>
      if n < 8 * recs.length then (m, some (badTlv (c.pos 1))) else (m.bufferWrite c recs.flatten, some {})
    | none => (m, some (okWith [tlv 0x101 (all.take (fits c 0 0 8)).flatten]))

/-- JXL_DICT_RESET (R487). (DESIGN CHOICE, log 70) -/
def execJxlDictReset (c : Cmd) (s : State) : Host.Outcome State Fault Refusal :=
  run s fun m =>
    let v := c.val 0x100
    let l := leAt v 0 1
    m.runCmd c 0x0705 [.link l] fun m =>
      if 32 ≤ l then (m, some c.bad)
      else if m.linkState l ≠ 3 then (m, some {})
      else ((m.putLink l { m.linkOf l with tx := [] }).jxlSend l 11 (1 :: List.replicate 31 0), some {})

/-- A SLOT TLV of a link and a class that exist, with SLOT_CELLS in its field; its reserved bits are ignored (R8). -/
def slotOk (v : List Byte) : Bool := leAt v 0 1 < 32 && leAt v 1 1 < 8 && leAt v 4 4 < 2 ^ 18

/-- JXL_SLOT_SET (R488): a class that becomes slotted waits for the neighbour's answer. (DESIGN CHOICE, log 70) -/
def execJxlSlotSet (c : Cmd) (s : State) : Host.Outcome State Fault Refusal :=
  run s fun m =>
    let c : Cmd := { c with opcode := 0x0706 }
    let ts := c.all 0x100
    m.runCmd c 0x0706 (ts.map fun v => Obj.link (leAt v.2 0 1)) fun m =>
      let f := fun (v : List Byte) => (leAt v 0 1, leAt v 1 1, leAt v 2 1 % 2, leAt v 4 4)
      match ts.find? fun v => !slotOk v.2 with
      | some (p, _) => (m, some (badTlv p))
      | none =>
        match ts.find? fun v => decide ((f v.2).2.1 = 7) with
        | some (p, _) => (m, some (badTlv p 2))
        | none =>
          match ts.find? fun v => (m.hemOf (m.get F.JXL_LINK_CFG_PORT [(f v.2).1])).active.isNone with
          | some (p, _) => (m, some (badTlv p 1))
          | none =>
            let m := ts.foldl (fun m v =>
              let (l, k, on, cells) := f v.2
              if on = 0 then
                let x := m.linkOf l
                ((m.set F.JXL_CREDIT_SLOTTED [l, k] 0).set F.JXL_CREDIT_SLOT_CELLS [l, k] 0).putLink l { x with left := tdel x.left k }
              else { m with jxl := { m.jxl with slots := m.jxl.slots ++ [{ cmd := c, link := l, cls := k, cells := cells }] } }) m
            if ts.all fun v => decide ((f v.2).2.2.1 = 0) then (m, some {})
            else if ts.any fun v => m.linkState (f v.2).1 ≠ 3 then
              ({ m with jxl := { m.jxl with slots := m.jxl.slots.filter fun q => decide (q.cmd ≠ c) } }, some { status := stAborted, late := true })
            else (m, none)

end Sys2Proof.Machine
end

