-- ==== Sys2Proof/Machine/Frames.lean ====
section
/-! DEFINITION. Frames that end at a port: the MAC checks, flow control frames, MACsec, the elastic buffer, admission (R178 to R180,
R187, R189, R292). -/

namespace Sys2Proof.Machine

/-- The MAC's checks in the order of R178: the counter of the first that fails. (DEDUCED, log 33) -/
def Mod.macFault (m : Mod) (n : Nat) (len : Nat) (fcsOk : Bool) : Option Nat :=
  if !fcsOk then some 4 else if len < 64 then some 5 else if m.get F.PRT_CFG_MAX_FRAME [n] < len then some 6 else none

/-- A PFC frame (IEEE 802.1Qbb): its priorities and the pause of each in quanta. -/
def pfcOf (d : List Byte) : Option (List (Nat × Nat)) :=
  if wireAt d 12 2 = 0x8808 && wireAt d 14 2 = 0x0101 then
    some (((List.range 8).filter fun p => bit (wireAt d 16 2) p).map fun p => (p, wireAt d (18 + 2 * p) 2))
  else none

/-- A PAUSE frame of IEEE 802.3 Annex 31B. -/
def isPause (d : List Byte) : Bool := wireAt d 12 2 = 0x8808 && wireAt d 14 2 = 0x0001

/-- A PFC frame whose last bit came at `t` (units): the priorities with PFC_EN pause from 200 ns later, or resume (R179); a priority
that is paused already stays so. A Jexdor sub-port honours none (R474). (DEDUCED, log 32) -/
def Mod.pfcIn (m : Mod) (n k t : Nat) (ps : List (Nat × Nat)) : Mod :=
  let m := m.count F.PRT_STAT_COUNT [n, k, 8]
  if (m.linkAt n k).isSome then m
  else
    let h := m.hsubOf n k
    let on := ps.filter fun p => bit (m.get F.PRT_CFG_PFC_EN [n]) p.1
    m.putHsub n k { h with paused := on.foldl (fun q p =>
      if p.2 = 0 then tdel q p.1
      else
        let from_ := match tget q p.1 with
          | some old => if t ≤ old.2 then min old.1 (t + 200 * nsUnit) else t + 200 * nsUnit
          | none => t + 200 * nsUnit
        tput q p.1 (from_, t + p.2 * m.byteTime n 64)) h.paused }

/-- A frame without its FCS whose first bit was stamped `stamp` (units) has ended at sub-port `k` of port `n`; `full`: it found the
elastic buffer full, which the model does not fill itself (R187); such a frame counts in RX_FRAMES_OK and its octets, and in
RX_ELASTIC_DROP (R189). (DESIGN CHOICE, log 33) -/
def Mod.frameIn (m : Mod) (n k : Nat) (d : List Byte) (fcsOk : Bool) (stamp : Nat) (full : Bool) : Mod :=
  match m.macFault n (d.length + 4) fcsOk with
  | some i => m.count F.PRT_STAT_COUNT [n, k, i]
  | none =>
    match pfcOf d with
    | some ps => m.pfcIn n k (stamp + m.byteTime n (d.length + 4)) ps
    | none =>
      if isPause d then m.count F.PRT_STAT_COUNT [n, k, 9]
      else match m.macVerify n k d with
        | (none, m) => m
        | (some d, m) =>
          match m.linkAt n k with
          | some l => m.jxlFrame l d stamp false full
          | none =>
            let m := m.rxCount n k d
            if full then m.count F.PRT_STAT_COUNT [n, k, 7]
            else m.ingress n k { bytes := d, origin := .port n k, stamp := stamp, stepTag := m.stepTag }

/-- FRAME_RECEIVED. -/
def execFrameReceived (n : Fin 96) (k : Fin 8) (d : List Byte) (fcsOk : Bool) (stamp : Nat) (full : Bool) (s : State) :
    Host.Outcome State Fault Refusal :=
  run s fun m => if m.subState n k ≠ 4 then m else (m.runTo stamp).frameIn n k d fcsOk (stamp / 8192 * 8192) full

/-- PFC_FRAME_RECEIVED: a PFC frame whose last bit comes at `t` units of device time. -/
def execPfcFrameReceived (n : Fin 96) (k : Fin 8) (d : List Byte) (fcsOk : Bool) (t : Nat) (s : State) : Host.Outcome State Fault Refusal :=
  run s fun m =>
    if m.subState n k ≠ 4 then m
    else match m.macFault n (d.length + 4) fcsOk, pfcOf d with
      | some i, _ => m.count F.PRT_STAT_COUNT [n.val, k.val, i]
      | none, some ps => (m.runTo t).pfcIn n k t ps
      | none, none => m

end Sys2Proof.Machine
end

