-- ==== Sys2Proof/Machine/HostConfig.lean ====
section
/-! DEFINITION. Configuration space (R365 to R368, R373, R375), IDE and SPDM (R376, R377). -/

namespace Sys2Proof.Machine

/-! ### Reads -/

/-- The kind of a function for configuration space: 0 PF, 1 network VF, 2 storage VF, 3 the recovery function (R18, R365, R536). (DESIGN CHOICE, log 52) -/
def Mod.cfgKind (m : Mod) (f : Fn) : Nat :=
  if m.phase = 6 then 3
  else match f.vf with
    | none => 0
    | some _ => match m.instOf f with | some i => if m.isStorage i then 2 else 1 | none => 1

/-- The capability at an offset and the next (R367), by the identifiers of the PCI Express Base Specification. (PRESUMED, log 51) -/
def capList : List (Nat × Nat × Bool) :=
  [(0x40, 0x01, false), (0x50, 0x11, true), (0x60, 0x10, true)]

/-- The extended capabilities: offset, identifier, whether VFs have it. (PRESUMED, log 51) -/
def extList : List (Nat × Nat × Bool) :=
  [(0x100, 0x0001, true), (0x148, 0x000E, true), (0x150, 0x0003, false), (0x160, 0x0010, false), (0x1A0, 0x000F, true),
   (0x1B0, 0x001B, false), (0x1C0, 0x001F, false), (0x1D0, 0x002E, false), (0x200, 0x0030, false), (0x300, 0x002A, false)]

/-- Identifier and next pointer of a capability that a function of a kind has at an offset. -/
def capAt (l : List (Nat × Nat × Bool)) (vf : Bool) (off : Nat) : Option (Nat × Nat) :=
  let l := if vf then l.filter (·.2.2) else l
  match l.dropWhile fun c => decide (c.1 ≠ off) with
  | [] => none
  | c :: rest => some (c.2.1, (rest.head?.map (·.1)).getD 0)

/-- The size of BAR `n` of a PF (R368): of BAR0 and BAR2. -/
def barSize (n : Nat) : Nat := match n with | 0 => 2 ^ 28 | 2 => 2 ^ 16 | _ => 0

/-- BAR dword `n` of a PF: a 64-bit non-prefetchable memory BAR, or the high half of one. -/
def Mod.barWord (m : Mod) (f : Fn) (n : Nat) : Nat :=
  let v := tgetD (m.fnCfg f).bar (n / 2 * 2) 0
  if f.vf.isSome || 3 < n then 0 else if n % 2 = 0 then v % 2 ^ 32 / barSize n * barSize n + 4 else v / 2 ^ 32

/-- `v` with the `w` bits from bit `lo` up replaced by `x`. (PRESUMED, log 51) -/
def withBits (v lo w x : Nat) : Nat := v - bits v lo w * 2 ^ lo + x % 2 ^ w * 2 ^ lo

/-- A dword of a function's configuration space (R365 to R368, R371, R373 to R375): fields that the host has written read back where the
PCI Express Base Specification places them. (PRESUMED, log 51) -/
def Mod.cfgRead (m : Mod) (f : Fn) (off : Nat) : Nat :=
  let k := m.cfgKind f
  let vf := f.vf.isSome
  let dev := [0x9616, 0x9617, 0x9618, 0x96F0].getD k 0
  let cls := [0x020000, 0x020000, 0x010802, 0x088080].getD k 0
  let rev := stepping
  let open_ := (Config.cfgWord k off).toNat
  let x := m.fnCfg f
  let p := m.fnCfg (pf f.ep)
  let mx := tgetD m.msix (fnKey f) {}
  let ser := fun (i : Nat) => leNat ((List.range 4).map fun j => Config.serialByte (i + j))
  if off = 0x00 then 0xCEA5 + dev * 2 ^ 16
  else if off = 0x04 then open_ / 2 ^ 16 * 2 ^ 16 + x.command % 2 ^ 16
  else if off = 0x08 then rev + (if k = 3 then 0x088000 else cls) * 2 ^ 8
  else if off = 0x0C then 0
  else if 0x10 ≤ off && off < 0x28 then
    (if k = 3 then (if off = 0x10 then open_ / 4096 * 4096 + 4 else if off = 0x14 then open_ else 0) else m.barWord f ((off - 0x10) / 4))
  else if off = 0x2C then 0xCEA5 + m.get F.SEL_PF_CFG_SUBSYS_ID (epIx f.ep) * 2 ^ 16
  else if off = 0x30 then 0
  else if off = 0x34 then 0x40
  else if off = 0x3C then open_ % 2 ^ 8
  else if k = 3 then
    (match off with
     | 0x40 => withBits open_ 0 16 0x6001
     | 0x60 => withBits open_ 0 16 0x0010
     | 0x100 => withBits (withBits open_ 0 16 0x0001) 20 12 0
     | _ => open_)
  else if off = 0x44 then withBits (withBits open_ 0 2 (3 * b2n x.d3)) 3 1 0
  else if off = 0x64 then withBits (withBits open_ 0 3 2) 28 1 1
  else if off = 0x68 then
    let v := withBits open_ 21 1 (b2n (m.sel.reads.any fun r => decide (r.2.fn = f)))
    if vf then v else withBits (withBits (withBits v 4 1 (b2n x.ro)) 5 3 (x.mps / 128).log2) 12 3 (x.mrrs / 128).log2
  else if off = 0x6C then withBits open_ 10 2 0
  else if off = 0x84 then withBits (withBits open_ 0 5 15) 16 2 3
  else if off = 0x88 && !vf then withBits (withBits open_ 0 4 x.cto) 12 1 (b2n (x.tags = 1))
  else if off = 0x1A4 then withBits (withBits open_ 0 7 0x60) 31 1 (b2n x.ats)
  else if off = 0x1B4 && !vf then withBits 0x1400 16 1 (b2n x.pasid)
  else if off = 0x1C4 && !vf then withBits open_ 0 3 1
  else if off = 0x1C8 && !vf then withBits open_ 0 1 (m.get F.TCK_HOST_STATUS_PTM_ENABLED [f.ep])
  else if off = 0x50 then 0x11 + 0x60 * 2 ^ 8 + (mx.size - 1) % 2048 * 2 ^ 16 + b2n mx.fmask * 2 ^ 30 + b2n mx.enable * 2 ^ 31
  else if off = 0x54 then 2
  else if off = 0x58 then (if vf then 0x1000 else 0x8000) + 2
  else if off = 0x154 && !vf then ser 0
  else if off = 0x158 && !vf then ser 4
  else if off = 0x164 && !vf then withBits open_ 0 1 0
  else if off = 0x168 && !vf then open_ / 2 * 2 + b2n p.vfEnable
  else if off = 0x16C && !vf then 1024 + 1024 * 2 ^ 16
  else if off = 0x170 && !vf then open_ / 2 ^ 16 * 2 ^ 16 + p.numVfs
  else if off = 0x174 && !vf then 1 + 2 ^ 16
  else if off = 0x178 && !vf then 0x9617 * 2 ^ 16
  else if off = 0x17C && !vf then 1
  else if off = 0x184 && !vf then open_ / 2 ^ 20 * 2 ^ 20 + 4
  else if off = 0x18C && !vf then open_ / 2 ^ 13 * 2 ^ 13 + 4
  else if (off = 0x194 || off = 0x198) && !vf then 0
  else match capAt capList vf off, capAt extList vf off with
    | some (id, next), _ => open_ / 2 ^ 16 * 2 ^ 16 + id + next * 2 ^ 8
    | _, some (id, next) => open_ / 2 ^ 16 % 16 * 2 ^ 16 + id + next * 2 ^ 20
    | none, none => open_

/-! ### Writes -/

/-- Changes a function's configuration. -/
def Mod.modCfg (m : Mod) (f : Fn) (g : FnCfg → FnCfg) : Mod := m.setSel fun s => { s with cfg := tmod s.cfg (fnKey f) {} g }

/-- A write of the SR-IOV capability (R373): a cleared VF Enable, or a NumVFs changed while it is 0, resets the VFs concerned. (DESIGN CHOICE, log 52) -/
def Mod.cfgSriov (m : Mod) (e : Nat) (vfe : Bool) (n : Nat) : Mod :=
  let x := m.fnCfg (pf e)
  let n := min n 1024
  if x.vfEnable then (if vfe then m else m.vfEnableClear e)
  else
    let between := (m.vfsOf e).filter fun f => match f.vf with
      | some v => decide (min n x.numVfs ≤ v ∧ v < max n x.numVfs)
      | none => false
    (between.foldl (fun m f => m.vfReset f) m).modCfg (pf e) fun c => { c with numVfs := n, vfEnable := vfe }

/-- A configuration write takes effect. -/
def Mod.cfgWrite (m : Mod) (f : Fn) (q : CfgReq) : Mod :=
  let isPf := f.vf.isNone
  match q with
  | .read _ | .other _ _ => m
  | .command v => m.modCfg f fun c => { c with command := v % 2 ^ 16 }
  | .bar n v => if isPf then m.modCfg f fun c => { c with bar := tput c.bar (n / 2 * 2) v } else m
  | .powerState d3 => if d3 then m.modCfg f fun c => { c with d3 := true } else m.d3ToD0 f
  | .msixCtl en fm =>
    let x := tgetD m.msix (fnKey f) {}
    ({ m with msix := tput m.msix (fnKey f) { x with enable := en, fmask := fm } } : Mod).msixFlush f
  | .devCtl mps mrrs ro flr =>
    let m := m.modCfg f fun c => { c with mps := max 128 (min mps 512), mrrs := max 128 (min mrrs 4096), ro := ro }
    if flr then (if isPf then m.pfFlr f.ep else m.vfReset f) else m
  | .devCtl2 cto tags => m.modCfg f fun c => { c with cto := cto, tags := tags }
  | .ptm en => if isPf then m.setFlag F.TCK_HOST_STATUS_PTM_ENABLED [f.ep] en else m
  | .pasid en => if isPf then m.modCfg f fun c => { c with pasid := en } else m
  | .ats en => m.modCfg f fun c => { c with ats := en }
  | .sriov vfe n => if isPf then m.cfgSriov f.ep vfe n else m

/-- HOST_CONFIG_REQUEST: answered while the link is up: with Request Retry Status before READY (R504), and as the specification has it for
a function that does not exist; in every freeze state and during resets as usual (R381, R385). -/
def execHostConfigRequest (f : Fn) (q : CfgReq) (s : State) : Host.Outcome State Fault Refusal :=
  run s fun m =>
    if !m.linkUp f.ep then m
    else if m.phase < 5 then m.emit (.cfgRetry f.ep)
    else if !m.fnExists f || (m.phase = 6 && decide (f ≠ pf 0)) then m.emit (.cfgNone f.ep)
    else match q with
      | .read off => m.emit (.completion f.ep (m.cfgRead f (off / 4 * 4)))
      | q => (if m.phase = 6 then m else m.cfgWrite f q).emit (.completion f.ep 0)

/-! ### SPDM and IDE (R376, R377) -/

/-- The bytes of a configuration bank that its measurement covers: its header's digest and records. -/
def CfgRec.raw (r : CfgRec) : List Byte :=
  leBytes 8 r.addr ++ leBytes 1 r.width ++ leBytes 2 r.count ++ leBytes 8 r.stride ++ leBytes 2 r.layout ++ r.vals.flatMap (leBytes 8)

/-- The committed configuration: the valid bank with the higher sequence. -/
def Chalk.committed (c : Chalk) : List Byte :=
  let b := if c.bankA.valid && (!c.bankB.valid || decide (c.bankB.commitSeq < c.bankA.commitSeq)) then c.bankA else c.bankB
  if b.valid then b.records.flatMap CfgRec.raw else []

/-- The measurement of an index (R377). (PRESUMED, log 57) -/
def Mod.measurement (m : Mod) (i : Nat) : List Byte :=
  match i with
  | 1 => (List.range 48).map Config.romDigest
  | 2 => imageDigest m.img.file
  | 3 => (imageInfo m.img.file).take 8
  | 4 => sha384 m.chalk.committed
  | 5 => sha384 ((List.range 64).flatMap fun k => leBytes 4 (m.viewRootId k) ++ leBytes 1 (m.viewRoot k % 4))
  | 6 => leBytes 4 glbId
  | _ => []

/-- The certificate chain of slot 0. -/
def certChain : List Byte := (List.range Config.certLength).map Config.certByte

/-- The streams of an endpoint, with stream `n` secure or not. (PRESUMED, log 57) -/
def Mod.setStream (m : Mod) (e n : Nat) (on : Bool) (fns : List Nat) : Mod :=
  let l := (tgetD m.sel.streams e []).filter fun s => decide (s.num ≠ n)
  let l := if on then l ++ [{ num := n, secure := true, fns := fns }] else l
  let link := l.any fun s => s.num = 0 && s.secure
  m.setSel fun s => { s with streams := tput s.streams e l,
                             ide := if link then (if s.ide.contains e then s.ide else s.ide ++ [e]) else s.ide.filter (· ≠ e) }

/-- SPDM_REQUEST on the PF of an endpoint: the answer goes out over DOE; IDE keys are set only inside a session. (PRESUMED, log 57) -/
def execSpdmRequest (e : Fin 32) (q : SpdmMsg) (s : State) : Host.Outcome State Fault Refusal :=
  run s fun m =>
    if !m.present e || !m.linkUp e || m.phase ≠ 5 then m
    else
      let inSession := (tget m.sel.sessions e.val).isSome
      let err := m.emit (.doe e [0x12, 0x7F, 0x01, 0x00])
      match q with
      | .discovery i => m.emit (.doe e (leBytes 2 1 ++ leBytes 1 (min i 2) ++ leBytes 1 (if i < 2 then i + 1 else 0)))
      | .certificate slot => m.emit (.doe e (if slot = 0 then certChain else []))
      | .challenge n => m.emit (.doe e (sha384 certChain ++ ed25519Sign (sha384 certChain ++ n)))
      | .measurements i n =>
        if 6 < i && i ≠ 255 then err
        else
          let b := if i = 0 then [6] else if i = 255 then (List.range 6).flatMap fun j => m.measurement (j + 1) else m.measurement i
          m.emit (.doe e (b ++ ed25519Sign (b ++ n)))
      | .keyExchange share =>
        let (priv, m) := m.draw (2 ^ 384)
        let m := m.setSel fun s => { s with sessions := tput s.sessions e.val 1 }
        m.emit (.doe e (p384Public (leBytes 48 priv) ++ ed25519Sign (p384Public (leBytes 48 priv) ++ share)))
      | .endSession => (m.setSel fun s => { s with sessions := tdel s.sessions e.val }).emit (.doe e [])
      | .keySetGo n fns => if inSession && n < 9 then (m.setStream e n true fns).emit (.doe e []) else err
      | .keySetStop n => if inSession && n < 9 then (m.setStream e n false []).emit (.doe e []) else err
      | .other => err

end Sys2Proof.Machine
end

