-- ==== Sys2Proof/Machine/HostDone.lean ====
section
/-! DEFINITION. The ends of the module's reads of host memory: completions, their errors, timeouts, fences (R378, R379, R385, R387), and
what the data of a whole read does. -/

namespace Sys2Proof.Machine

/-- A fence of a function has its answer: it is no longer outstanding; a failure or a difference freezes the function (R387). -/
def Mod.fenceDone (m : Mod) (f : Fn) (fail differs : Bool) : Mod :=
  let m := m.setSel fun s => { s with fences := tadj s.fences (fnKey f) fun x => { x with out := x.out - 1 } }
  if fail then (m.selCount f.ep 11).freeze f.ep (some f) 12
  else if differs then (m.selCount f.ep 12).freeze f.ep (some f) 13
  else m

/-- A transfer of a host-memory loop-back test has read its source, or has read its destination back (R70). -/
def Mod.loopRead (m : Mod) (e : Nat) (bs : List Byte) : Mod :=
  match m.cut.loops.find? fun t => decide (t.kind = 2 ∧ t.port = e) with
  | none => m
  | some t =>
    let put := fun (m : Mod) (u : LoopTest) => m.setCut fun c => { c with loops := c.loops.map fun x => if x.cmd = t.cmd then u else x }
    if t.left = 0 then m
    else if !t.back then
      ((put m { t with back := true, data := bs }).dataWrite (pf e) t.dst none bs).hostRead (pf e) t.dst t.len none .loopback
    else
      let same := bs = t.data
      let u : LoopTest := { t with back := false, data := [], left := t.left - 1, good := t.good + b2n same, bad := t.bad + b2n (!same) }
      let m := put m u
      if u.left = 0 then m else m.hostRead (pf e) t.src t.len none .loopback

/-- The data of a whole read goes where it was wanted. -/
def Mod.readDone (m : Mod) (r : HostRead) : Mod :=
  let bs := r.bytes
  match r.why with
  | .summary o => m.summaryRead o bs
  | .doorbell k => m.recordRead k bs
  | .entries k => m.entriesRead k bs r.stamp
  | .send k a j => m.sendData k a j bs
  | .fence verify expect => m.fenceDone r.fn false (verify && decide (bs ≠ expect))
  | .boot i => m.bootRead i (some bs)
  | .loopback => m.loopRead r.fn.ep bs
  | .buffer => m
  | .shadow i l => m.shadowRead i l bs
  | .sqes i q => m.sqesRead i q bs
  | .prps i q cid => m.prpsRead i q cid bs
  | .nvmeData i q cid part => m.nvmeData i q cid part bs

/-- A read has failed: the function freezes for the cause; a fence's failure has a cause of its own; a boot ends with INVALID. -/
def Mod.readFailed (m : Mod) (r : HostRead) (cause : Nat) : Mod :=
  let m := match r.why with
    | .fence _ _ => m.fenceDone r.fn true false
    | _ => m.freeze r.fn.ep (some r.fn) cause
  match r.why with
  | .boot i => m.bootRead i none
  | _ => m

/-- A read that no tag holds and no piece waits for is forgotten. -/
def Mod.sweepRead (m : Mod) (e id : Nat) : Mod :=
  if m.sel.tags.any (fun t => decide (t.2.read = id)) || (m.tagWaits e).any (fun p => decide (p.read = id)) then m else m.dropRead id

/-- A read that failed, or that was cut, brings nothing any more. -/
def Mod.goneRead (m : Mod) (e id : Nat) : Mod :=
  ((m.setSel fun s => { s with reads := tadj s.reads id fun x => { x with gone := true } }).dropWaits e).sweepRead e id

/-- A boot block read that a freeze or a timeout cut has failed. (DESIGN CHOICE, log 64) -/
def Mod.bootCut (m : Mod) (r : HostRead) : Mod := match r.why with | .boot i => m.bootRead i none | _ => m

/-- Data of a live read arrives: its first completion's stamp is kept, and so is the first of a send's data (R145, R149). -/
def Mod.dataStamp (m : Mod) (id : Nat) (r : HostRead) (stamp : Nat) : Mod :=
  let x := some (hostStamp stamp, m.stepTag)
  let m := m.setSel fun s => { s with reads := tput s.reads id { r with stamp := r.stamp.or x } }
  match r.why with
  | .send k a _ => m.modEntry k a fun e => { e with stamp := e.stamp.or x }
  | _ => m

/-- A completion leaves data of its piece to come. -/
def Piece.short (p : Piece) : ReadResult → Bool
  | .data bs => decide (p.got.length + bs.length < p.len)
  | _ => false

/-- A completion for the tag `t` of endpoint `e` (R378, R379, R381, R385); the one that brings the last data of its piece, or an error,
frees the tag. -/
def Mod.readCompleted (m : Mod) (e t : Nat) (res : ReadResult) (stamp : Nat) : Mod :=
  match tget m.sel.tags (e * 16384 + t) with
  | none => (m.emit (.aer e 0)).selCount e 9
  | some p =>
    let m := match res, tget m.sel.reads p.read with
      | .data _, some r => if r.stale || r.gone then m else m.dataStamp p.read r stamp
      | _, _ => m
    let got := match res with | .data bs => p.got ++ bs | _ => p.got
    if p.short res then m.setSel fun s => { s with tags := tput s.tags (e * 16384 + t) { p with got := got } }
    else
    let m := m.endTag e t
    match tget m.sel.reads p.read with
    | none => m
    | some r =>
      if r.stale then ((m.selCount e 0).sweepRead e p.read).atsDone
      else if r.gone then ((m.bootCut r).sweepRead e p.read).atsDone
      else match res with
        | .data _ =>
          let r := { r with got := r.got ++ [(p.off, slice got 0 p.len)], left := r.left - 1 }
          if r.left = 0 then ((m.dropRead p.read).readDone r).atsDone
          else m.setSel fun s => { s with reads := tput s.reads p.read r }
        | .poisoned => (((m.selCount e 7).goneRead e p.read).readFailed r 9).atsDone
        | .urCa => (((m.selCount e 8).goneRead e p.read).readFailed r 10).atsDone
        | .ecrc => ((m.goneRead e p.read).readFailed r 11).atsDone

/-- HOST_READ_COMPLETION: a completion for a tag of endpoint `e`, whose flit starts at device time `stamp` (2^-16 ns) (R145). -/
def execHostReadCompletion (e : Fin 32) (t : Fin 16384) (res : ReadResult) (stamp : Nat) (s : State) : Host.Outcome State Fault Refusal :=
  run s fun m => (m.runTo stamp).readCompleted e t res stamp

/-- COMPLETION_TIMEOUT of a tag, once its time has run out (R379): it is free; the function freezes unless the read is stale or was cut before. (DEDUCED, log 43; DESIGN CHOICE, log 54) -/
def execCompletionTimeout (e : Fin 32) (t : Fin 16384) (s : State) : Host.Outcome State Fault Refusal :=
  run s fun m =>
    match tget m.sel.tags (e.val * 16384 + t.val) with
    | none => m
    | some p =>
      let m := (m.runTo (p.at_ + m.cplTimeout e)).endTag e t
      match tget m.sel.reads p.read with
      | none => m
      | some r =>
        let m := m.selCount e 6
        if r.stale then (m.sweepRead e p.read).atsDone
        else if r.gone then ((m.bootCut r).sweepRead e p.read).atsDone
        else ((m.goneRead e p.read).readFailed r 8).atsDone

/-- BOOT_BLOCK_READ: the completion of the boot block read of instance `i`. (DESIGN CHOICE, log 64) -/
def execBootBlockRead (i : Fin 4096) (res : ReadResult) (stamp : Nat) (s : State) : Host.Outcome State Fault Refusal :=
  run s fun m =>
    let hit := m.sel.tags.find? fun (t : Nat × Piece) =>
      match tget m.sel.reads t.2.read with | some r => decide (r.why = ReadFor.boot i) | none => false
    match hit with
    | some (k, _) => (m.runTo stamp).readCompleted (k / 16384) (k % 16384) res stamp
    | none => m

end Sys2Proof.Machine
end

