-- ==== Sys2Proof/Machine/Start.lean ====
section
/-! DEFINITION. The start sequence, recovery, the retained settings (*Start-up and retained state*, *Images, updates and
recovery*), and the commands that identify, reset and commit. -/

namespace Sys2Proof.Machine

/-! ### Resets that follow a reply (R502, R532) -/

/-- The reply of a command is issued, with those of its admin ring before it; a COLD reset follows. (DESIGN CHOICE, log 22) -/
def Mod.replyThenReset (m : Mod) (c : Cmd) : Mod :=
  let m := match c.src with
    | .admin n => (List.range m.replies.length).foldl (fun (m : Mod) _ => m.replyStep n true) m
    | .jexdor _ => m.jxlFlush
    | _ => m
  m.coldReset

/-- MOD_RESET (R502). (DESIGN CHOICE, log 22) -/
def execModReset (c : Cmd) (s : State) : Host.Outcome State Fault Refusal :=
  run s fun m =>
    let m := m.runCmd c 0x0003 [] fun m => ({ m with img := { m.img with resetAfter := true } }, some {})
    if m.img.resetAfter then m.replyThenReset c else m

/-- IMG_INSTALL (R530 to R532, R534). `cut`: power fails or a COLD reset falls after that many of the Chalk writes of steps 2
to 6; the install is then left as it stands, unanswered, and POWER_LOSS or the reset follows. (DESIGN CHOICE, log 22) -/
def execImgInstall (c : Cmd) (cut : Option Nat) (s : State) : Host.Outcome State Fault Refusal :=
  run s fun m =>
    let bad := fun (m : Mod) => (m.error 5 2 (regAddr .IMG_STATUS), some { badHeader 2 with late := true })
    let m := m.runCmd c 0x0805 [.image, .stage] fun m =>
      let st := m.chalk.stage
      if !st.isOpen || !st.verified then (m, some (badHeader 1))
      else if !st.complete || st.chunks.any (fun k => crcOf k.2.data ≠ k.2.crc) then bad m
      else
        let w := installWrites m.chalk
        let done := fun (m : Mod) (ws : List (Chalk → Chalk)) =>
          let m := { m with chalk := applyWrites ws m.chalk, img := { m.img with patchLock := true, failed := false } }
          m.set F.IMG_STATUS_IMAGE_GEN [] m.chalk.journal.gen
        match cut with
        | some k =>
          let m := done m (w.1.take k)
          ({ m with img := { m.img with installing := true } }, none)
        | none =>
          let m := done m w.1
          if w.2 then
            let m := m.set F.IMG_STATUS_INSTALL_DONE [] 1
            ({ m with img := { m.img with resetAfter := bit (leAt (c.val 0x100) 0 4) 0 } }, some {})
          else bad { m with img := { m.img with failed := true } }
    if m.img.resetAfter then m.replyThenReset c else m

/-! ### Phases (R501) -/

/-- The start enters a phase. -/
def Mod.toPhase (m : Mod) (p : Nat) : Mod := m.set F.GLB_START_PHASE [] p

/-- The registers that tell of the start itself and of errors; they stay when a start ends in RECOVERY. -/
def startRegs : List Reg := [.GLB_START, .IMG_STATUS, .GLB_ERR_STATUS, .GLB_ECC_CNT, .GLB_LOG_STATUS]

/-- The start enters RECOVERY with a code of IMG_STATUS.CHECK (R535): nothing of the configuration stands, links other than H00 go
down, and H00 trains where its PERST_N is high (R536). (DESIGN CHOICE, log 76) -/
def Mod.recover (m : Mod) (code : Nat) : Mod :=
  let drops := ((List.range 32).filter fun e => m.present e).map fun e => Out.linkDrop e
  let x : Mod := { chalk := m.chalk, powered := m.powered, drawn := m.drawn, perst := m.perst, now := m.now, logq := m.logq,
                   outs := drops ++ m.outs, regs := m.regs.filter fun e => startRegs.contains e.1.fld.reg,
                   img := { failed := true } }
  let x := ((x.toPhase 6).set F.IMG_STATUS_CHECK [] code).set F.IMG_STATUS_RECOVERY [] 1
  let x := x.error 5 1 (regAddr .IMG_STATUS) (leBytes 1 code)
  if x.perst.contains 0 then x.perstUp 0 else x

/-- The previous start ended without a power loss to report: the module reset itself, or a thermal trip wrote its own entry
(R569). (DESIGN CHOICE, log 76) -/
def Mod.quietStart (m : Mod) : Bool :=
  m.ownReset || (match m.chalk.logs.errors with
    | e :: _ => decide (e.cls = 4 ∧ e.code = 2 ∧ e.boot = m.chalk.boot)
    | [] => false)

/-- The stage is the one that the journal's install copies (R533). -/
def Chalk.stageIntact (c : Chalk) : Bool :=
  c.stage.isOpen && decide (c.stage.id = c.journal.stageId ∧ c.stage.digest = c.journal.digest)

/-- ROM (R501, R508, R509, R533, R569). `dirBad`: neither copy of the directory is valid; `cut`: power fails after that many
Chalk writes of a resumed install, and POWER_LOSS follows. (DEDUCED, log 5; DESIGN CHOICE, log 76) -/
def execRom (dirBad : Bool) (cut : Option Nat) (s : State) : Host.Outcome State Fault Refusal :=
  runMem s fun m mem =>
    if !m.powered || m.phase ≠ 1 then (m, mem)
    else
      let quiet := m.quietStart
      let ch := m.chalk
      let dir : Directory := if dirBad then { seq := ch.dir.seq + 1 } else ch.dir
      let m : Mod := { m with chalk := { ch with boot := (ch.boot + 1) % 2 ^ 32, dir := dir }, ownReset := false }
      let e : LogEntry := { time := m.now, boot := m.chalk.boot, cls := 4, code := 1, traceable := false,
                            source := regAddr .PWR_INPUT, detail := leBytes 8 ((ch.logs.eventSeq + 2 ^ 64 - 1) % 2 ^ 64) }
      let m := if quiet then m else (m.logWrite e).errStatus F.GLB_ERR_STATUS_CLASS 3
      let m := (m.set F.GLB_START_BOOT [] m.chalk.boot).setFlag F.GLB_START_CLEAR_PENDING [] dir.clearPending
      let j := m.chalk.journal
      let m := (if j.valid then m.set F.IMG_STATUS_IMAGE_GEN [] j.gen else m).memberCount
      if !(j.valid && j.install) then (m.toPhase 2, [])
      else if !m.chalk.stageIntact then (m.recover 10, [])
      else
        let w := resumeWrites m.chalk
        let put := fun (ws : List (Chalk → Chalk)) => ({ m with chalk := applyWrites ws m.chalk } : Mod)
        match cut with
        | some k => (put (w.1.take k), [])
        | none => if w.2 then (((put w.1).set F.IMG_STATUS_INSTALL_RESUMED [] 1).toPhase 2, []) else ((put w.1).recover 10, [])

/-- IMAGE_CHECK (R523, R533). (DESIGN CHOICE, log 76; DEDUCED, log 78) -/
def execImageCheck (s : State) : Host.Outcome State Fault Refusal :=
  run s fun m =>
    if !m.powered || m.phase ≠ 2 then m
    else
      let j := m.chalk.journal
      let b0 := tgetD m.chalk.blocks 0 {}
      let gen := if j.valid then j.gen else b0.gen
      let n := min 768 (if j.valid then j.blocks else chunksOf (leAt b0.data 0x0C 4))
      let whole := (List.range n).all fun b => decide (m.chalk.header b = .written ∧ (tgetD m.chalk.blocks b {}).gen = gen)
      let f := (List.range n).flatMap fun b => (tgetD m.chalk.blocks b {}).data
      let code := if whole then imageCheck f else 1
      let m := m.set F.IMG_STATUS_IMAGE_GEN [] gen
      if code ≠ 0 then m.recover code
      else
        let idle := jWrite fun j => { j with install := false, phase := 0, gen := gen, blocks := n }
        let m : Mod := { m with chalk := if j.valid then m.chalk else idle m.chalk, img := { m.img with file := f } }
        m.toPhase 3

/-! ### Settings (R510 to R515, R521) -/

/-- The entries of a SETTINGS section (R521): each run with its factory values, and the layouts that can be converted. -/
def settingsFrom : Nat → List Byte → List (CfgRec × List Nat)
  | 0, _ => []
  | n + 1, f =>
    if f.length < 48 then []
    else
      let w := leAt f 5 1
      let k := leAt f 6 2
      let r : CfgRec := ⟨leAt f 0 5, w, k, leAt f 8 2, leAt f 10 2, (List.range k).map fun i => leAt f (48 + w * i) w⟩
      (r, (List.range (min 8 (leAt f 12 1))).map fun i => leAt f (0x10 + 2 * i) 2) ::
        settingsFrom n (f.drop (48 + ceilDiv (k * w) 16 * 16))

/-- The settings table of an image. -/
def settings (f : List Byte) : List (CfgRec × List Nat) :=
  ((sections f).filter fun s => decide (s.typ = 7)).flatMap fun s => settingsFrom (s.len / 48) (slice f s.off s.len)

/-- The registers of a run, each with its value (R512). -/
def CfgRec.cells (r : CfgRec) : List (RegKey × Nat) :=
  (List.range r.count).filterMap fun i =>
    match regAt (r.addr + i * (if r.stride = 0 then r.width else r.stride)) with
    | some (k, 0) => some (k, r.vals.getD i 0)
    | _ => none

/-- The bytes of a record in a bank (R512). -/
def CfgRec.bytes (r : CfgRec) : List Byte :=
  let d := r.vals.flatMap fun v => leBytes r.width v
  leBytes 5 r.addr ++ leBytes 1 r.width ++ leBytes 2 r.count ++ leBytes 2 r.stride ++ leBytes 2 r.layout ++ leBytes 4 0 ++
    slice d 0 (ceilDiv d.length 16 * 16)

/-- A field that configuration banks bring back: RT, or a reset value "ret" among those R516 keeps in the banks. -/
def retained (r : Reg) (f : FieldInfo) : Bool :=
  f.acc = .rt || [Reg.MBX_BIND, .PAT_SCOPE_CFG, .PAT_SCOPE_CTR, .PAT_SCOPE_GAUGE, .PAT_HASH, .PAT_PORT_ACT].contains r ||
    (r = .PAT_SCOPE_PINS && f.lo = 0)

/-- Puts the retained fields of a register from a whole value. -/
def Mod.restore (m : Mod) (k : RegKey) (v : Nat) : Mod :=
  k.reg.fields.foldl (fun m f => if retained k.reg f then m.set ⟨k.reg, f.lo, f.w⟩ k.ix (bits v f.lo f.w) else m) m

/-- Puts the registers of a run. -/
def Mod.restoreRun (m : Mod) (r : CfgRec) : Mod := r.cells.foldl (fun m x => m.restore x.1 x.2) m

/-- New hash seeds, the second another than the first (R250). (DEDUCED, log 77) -/
def Mod.newSeeds (m : Mod) : Mod :=
  let (a, m) := m.draw (2 ^ 32)
  let (b, m) := m.draw (2 ^ 32 - 1)
  (m.set F.PAT_HASH_SEED1 [] a).set F.PAT_HASH_SEED2 [] ((a + 1 + b) % 2 ^ 32)

/-- Every retained field at its factory value, as the image defines them (R16, R521); the hash seeds are random. -/
def Mod.factory (m : Mod) (known : List (CfgRec × List Nat)) : Mod := (known.foldl (fun m x => m.restoreRun x.1) m).newSeeds

/-- An event of R514 or R515 names the record; `check` is the check that failed, 0 for R514. -/
def Mod.recordEvent (m : Mod) (r : CfgRec) (check : Nat) : Mod := m.event 20 2 r.addr (leBytes 8 r.addr ++ leBytes 1 check)

/-- Some record was not restored, or was restored with factory values. -/
def Mod.partly (m : Mod) : Mod := m.set F.GLB_START_CFG_PARTIAL [] 1

/-- The values a conversion routine gives (R514): the image's own, so free. (DEDUCED, log 77) -/
def Mod.converted (m : Mod) (r : CfgRec) : List Nat × Mod :=
  (List.range r.count).foldl (fun (x : List Nat × Mod) _ => let (v, m) := x.2.draw (2 ^ (8 * r.width)); (x.1 ++ [v], m)) ([], m)

/-- Treats one record against the settings table of the image (R514); the runs restored, each as it now is. (DEDUCED, log 77) -/
def Mod.takeRecord (known : List (CfgRec × List Nat)) (x : Mod × List CfgRec) (r : CfgRec) : Mod × List CfgRec :=
  let (m, l) := x
  match known.find? fun k => decide (k.1.addr = r.addr) with
  | none => ((m.recordEvent r 0).partly, l)
  | some (k, conv) =>
    if k.layout = r.layout then (m.restoreRun r, l ++ [r])
    else if conv.contains r.layout then
      let (vs, m) := (m.recordEvent r 0).converted k
      let r' : CfgRec := { k with vals := vs }
      (m.restoreRun r', l ++ [r'])
    else ((m.recordEvent r 0).partly, l)

/-- No field of a restored register holds a reserved encoding, and its relations hold (R8). Stitch wheel tables and Shuttle banks are
checked in LOADING. -/
def Mod.encodingOk (m : Mod) (k : RegKey) : Bool :=
  let v := m.stored k.reg k.ix
  match k.reg with
  | .STW_OWN | .SHU_SLOT | .SHU_SHARE | .SHU_THREAD_CFG => true
  | .PRT_CFG => maxFrameOk v
  | .PRT_CT_CFG => ctOk v
  | .PIN_CFG => pinCfgOk (ixGet k.ix 0) v
  | .LCK_CFG => bits v 0 2 ≠ 3
  | .JXL_CREDIT => within 64 65535 (bits v 0 18)
  | .JXL_LINK_CFG => bits v 1 7 < 96 && bits v 12 20 ≠ 2 ^ 19
  | .STO_TGT_CFG => bits v 1 7 < 96 && bits v 11 3 < 7 && within 1 32 (bits v 24 6) && within 2 4096 (bits v 30 13) &&
      bits v 43 10 ≠ 0 && bits v 53 11 ≠ 0
  | .PAT_SCOPE_CFG =>
    let q := ixGet k.ix 0
    let kind := bits v 0 2
    let kw := bits v 2 3
    !((q < 0x1000 && kind = 2) || (q ≥ 0x1000 && kind ≠ 0 && kind ≠ 2) || ((kind = 1 || kind = 2) && kw = 0) || (kind = 3 && kw ≠ 0))
  | r => (r.fields.all fun f => !retained r f || m.fieldOk r k.ix f.lo (bits v f.lo f.w)) &&
      (match relation r with | some (_, ok) => ok v | none => true)

/-- Register kinds whose settings R291 sums for a slice. -/
def shareRegs : List Reg := [.PLT_CFG, .PLT_ING_CLASS, .PLT_EG_CLASS, .PLT_PFC_CFG]

/-- Check `n` of R515 fails for a restored register. (DEDUCED, log 77) -/
def Mod.checkFails (m : Mod) (n : Nat) (k : RegKey) : Bool :=
  let i := ixGet k.ix 0
  match n with
  | 1 => !m.encodingOk k
  | 2 => k.reg = .TPL_SRC && !srcTableOk m.srcTable
  | 3 =>
    let s := if k.reg = .JXL_LINK_CFG || k.reg = .JXL_CREDIT then m.get F.JXL_LINK_CFG_PORT [i] / 12 else i
    (shareRegs.contains k.reg || k.reg = .JXL_LINK_CFG || k.reg = .JXL_CREDIT) && m.poolShort s
  | 4 => [Reg.PAT_SCOPE_CFG, .PAT_SCOPE_CTR, .PAT_SCOPE_GAUGE, .PAT_SCOPE_PINS].contains k.reg &&
      ((m.scopeFault i).isSome || !m.quotaSums)
  | 5 => k.reg = .JXL_LINK_CFG && (!m.linkFits (m.stored .JXL_LINK_CFG [i]) || (m.flag F.JXL_LINK_CFG_ENABLE [i] && m.linksClash))
  | _ => k.reg = .MBX_BIND && !bindOk (m.stored .MBX_BIND [i])

/-- Check `n` of R515 over the restored runs: a run that holds a register the check names returns to its factory values, which `m0` holds. -/
def Mod.applyCheck (m0 : Mod) (runs : List CfgRec) (m : Mod) (n : Nat) : Mod :=
  let hit := runs.filter fun r => r.cells.any fun x => m.checkFails n x.1
  hit.foldl (fun m r => ((r.cells.foldl (fun m x => m.restore x.1 (m0.stored x.1.reg x.1.ix)) m).recordEvent r n).partly) m

/-- The bank a start restores (R513): 0 A, 1 B. -/
def Chalk.newest (c : Chalk) : Option Nat :=
  if c.bankA.valid && (!c.bankB.valid || c.bankB.commitSeq ≤ c.bankA.commitSeq) then some 0
  else if c.bankB.valid then some 1 else none

/-- A configuration bank. -/
def Chalk.bank (c : Chalk) (b : Nat) : Bank := if b = 0 then c.bankA else c.bankB

/-- Puts a configuration bank. -/
def Chalk.setBank (c : Chalk) (b : Nat) (x : Bank) : Chalk := if b = 0 then { c with bankA := x } else { c with bankB := x }

/-- The Chalk writes of a factory clear, in order (R517). -/
def clearWrites : List (Chalk → Chalk) :=
  [fun c => { c with bankA := {}, bankB := {} }, fun c => { c with roots := [] },
   fun c => { c with dir := { clearPending := c.dir.clearPending, seq := c.dir.seq + 1 } },
   fun c => { c with dir := { c.dir with clearPending := false, seq := c.dir.seq + 1 } }]

/-- A bank whose read meets an uncorrectable error becomes invalid; the error is logged (R513). -/
def Mod.bankError (m : Mod) (b : Nat) (bad : Bool) : Mod :=
  if bad then ({ m with chalk := m.chalk.setBank b {} }).eccFatal 4 (leBytes 4 b) else m

/-- No bank is valid (R513): factory values are in force, and an event tells so unless a factory clear does. (DEDUCED, log 77) -/
def Mod.noBank (m : Mod) : Mod :=
  let m := m.set F.GLB_START_CFG_FACTORY [] 1
  if m.flag F.GLB_START_FACTORY_CLEARED then m else m.event 20 2 (regAddr .GLB_START)

/-- The settings come back: factory values, then the records of the newest valid bank, then the checks (R513 to R515). (DEDUCED, log 77) -/
def Mod.restoreSettings (m : Mod) : Mod :=
  let known := settings m.img.file
  let m0 := m.factory known
  match m0.chalk.newest with
  | none => m0.noBank
  | some b =>
    let (m1, runs) := (m0.chalk.bank b).records.foldl (Mod.takeRecord known) (m0.set F.GLB_START_CFG_BANK [] b, [])
    [1, 2, 3, 4, 5, 6].foldl (fun m n => Mod.applyCheck m0 runs m n) m1

/-- The end of CONFIG: bindings locked, the pins handed to their functions as in a switch, corrections and ports at their settings (R77,
R188, R501, R558); host links may train (R504). -/
def Mod.configDone (m : Mod) : Mod :=
  let m := m.set F.MBX_BIND_LOCK_LOCKED [] 1
  let m := (List.range 96).foldl (fun m n => (m.set F.PRT_CT_STATUS_THRESH [n] (m.get F.PRT_CT_CFG_BASE [n])).portFollow n) m
  let pins := (List.range 24).filter fun p => m.get F.PIN_CFG_FUNC [p] ≠ 0
  let m := pins.foldl (fun m p =>
    { m with holds := tput m.holds p ⟨m.stored .PIN_CFG [p], bit (m.get F.PIN_STATUS_IN) p, none, m.nextStitch⟩ }) m
  let m := m.toPhase 4
  m.perst.foldl (fun m e => m.perstUp e) m

/-- CONFIG. `eccA`, `eccB`: an uncorrectable error in the read of a bank; `cut`: power fails after that many Chalk writes of a factory
clear, and POWER_LOSS follows. (DESIGN CHOICE, log 76) -/
def execConfig (eccA eccB : Bool) (cut : Option Nat) (s : State) : Host.Outcome State Fault Refusal :=
  run s fun m =>
    if !m.powered || m.phase ≠ 3 then m
    else if m.chalk.dir.clearPending then
      let put := fun (ws : List (Chalk → Chalk)) => ({ m with chalk := applyWrites ws m.chalk } : Mod)
      match cut with
      | some k => put (clearWrites.take k)
      | none =>
        let m := ((put clearWrites).set F.GLB_START_CLEAR_PENDING [] 0).set F.GLB_START_FACTORY_CLEARED [] 1
        (m.event 20 4 (regAddr .GLB_START)).memberCount.restoreSettings.configDone
    else ((m.bankError 0 eccA).bankError 1 eccB).restoreSettings.configDone

/-! ### Loading (R501, R533, R535) -/

/-- SHU_ENTRY and SHU_TIMER of the slices that the VECTORS sections name (R220, R519). -/
def Mod.loadVectors (m : Mod) : Mod :=
  let f := m.img.file
  ((sections f).filter fun s => decide (s.typ = 2)).foldl (fun m x =>
    ((List.range 8).filter fun s => bit (x.mask 1) s).foldl (fun m s =>
      let m := (List.range 32).foldl (fun m i => m.setStored .SHU_ENTRY [s, i] (leAt f (x.off + 4 * i) 4)) m
      (List.range 64).foldl (fun m i => m.setStored .SHU_TIMER [s, i] (leAt f (x.off + 128 + 8 * i) 8)) m) m) m

/-- What begins at READY: the policies act on untraceable time (R506), the Golide interval opens with FIRST, PTP ports start, the
Bobbins' identity is read, Jexdor links wait for their ports, storage targets connect, LEDs show READY. -/
def Mod.becomeReady (m : Mod) : Mod :=
  let m := (m.toPhase 5).set F.GLB_START_READY_MS [] (min 0xFFFF (m.ns / 1000000))
  let m : Mod := { m with tack := { m.tack with golide := { start := m.now } } }
  let m := (m.setTl fun t => { t with readyAt := some m.now }).lossPolicy.ptpRestart
  let m := ((List.range 12).filter fun k => decide (m.bobState k = 1) && m.i3cUp).foldl (fun m k => m.emit (.i3cRead k)) m
  let m := ((List.range 32).filter fun l => m.flag F.JXL_LINK_CFG_ENABLE [l]).foldl (fun m l => m.linkTo l 1) m
  let m := (List.range 512).foldl (fun m i => if m.flag F.STO_TGT_CFG_ENABLE [i / 64, i % 64] then m.tgtEnter (i / 64) (i % 64) 1 else m) m
  let m : Mod := if m.isMember then { m with jxl := { m.jxl with beaconAt := m.ns } } else m
  ((List.range 24).filter fun p => decide (m.get F.PIN_CFG_LED_SRC [p] = 1)).foldl (fun m p => m.pinDriveOut p) m

/-- LOADING, which ends `t` ns after the start; `ok`: every write reads back as written. (DESIGN CHOICE, log 76) -/
def execLoading (ok : Bool) (t : Nat) (s : State) : Host.Outcome State Fault Refusal :=
  run s fun m =>
    if !m.powered || m.phase ≠ 4 then m
    else
      let m := m.runToNs t
      if !ok then m.recover 9
      else
        let m := m.stwLoad.shuLoad.loadVectors
        let m : Mod := { m with img := { m.img with loaded := some (imageInfo m.img.file) } }
        (m.set F.IMG_STATUS_KEY_ID [] (keyId m.img.file)).becomeReady

/-! ### Committing (R510, R517) -/

/-- The value of a retained register that a commit stores: the shadow bank where there is one; of a mailbox binding, the stored one
(R77). -/
def Mod.commitVal (m : Mod) (k : RegKey) : Nat :=
  if k.reg = .MBX_BIND then tgetD m.mbxStored (ixGet k.ix 0) (m.stored .MBX_BIND k.ix) else m.view k.reg k.ix

/-- The record of one run that the image knows. -/
def Mod.commitRec (m : Mod) (r : CfgRec) : CfgRec :=
  { r with vals := (List.range r.count).map fun i =>
      match regAt (r.addr + i * (if r.stride = 0 then r.width else r.stride)) with
      | some (k, 0) => m.commitVal k % 2 ^ (8 * r.width)
      | _ => 0 }

/-- The bank that a commit writes. (DEDUCED, log 77) -/
def Mod.commitBank (m : Mod) (other : Bank) : Bank :=
  let recs := (settings m.img.file).map fun x => m.commitRec x.1
  let body := recs.flatMap fun r => r.bytes
  let seq := if other.valid then other.commitSeq + 1 else 1
  let schema := leAt m.img.file 0x18 4
  let n := 64 + body.length
  let head := ascii "UXCF" ++ leBytes 2 1 ++ leBytes 2 0 ++ leBytes 8 seq ++ leBytes 4 n ++ leBytes 4 recs.length ++
    leBytes 4 schema ++ leBytes 4 m.chalk.boot ++ leBytes 8 (time64 m.now)
  { valid := true, commitSeq := seq, schema := schema, boot := m.chalk.boot, committedAt := time64 m.now, length := n,
    digest := (sha384 (head ++ body)).take 24, records := recs }

/-- CONFIG_COMMIT (R510). A Chalk write may fail; power may fail, or a COLD reset fall, before the header is written. -/
def execConfigCommit (c : Cmd) (fate : CommitFate) (s : State) : Host.Outcome State Fault Refusal :=
  run s fun m => m.runCmd c 0x0006 [.config] fun m =>
    let b := match m.chalk.newest with | some 0 => 1 | _ => 0
    let x := m.commitBank (m.chalk.bank (1 - b))
    let lost : Mod := { m with chalk := m.chalk.setBank b {} }
    if m.chalk.dir.clearPending then (m, some (badHeader 1))
    else match fate with
      | .fails => (lost, some { status := stNoResource, errDetail := 2, late := true })
      | .cut => (lost, none)
      | .done =>
        (({ m with chalk := m.chalk.setBank b x }).event 20 1 (regAddr .GLB_START) (leBytes 8 x.commitSeq),
          some (okWith [tlv 0x101 (leBytes 8 x.commitSeq ++ leBytes 4 x.length ++ leBytes 4 x.records.length ++ x.digest)]))

/-- FACTORY_CLEAR (R517). -/
def execFactoryClear (c : Cmd) (s : State) : Host.Outcome State Fault Refusal :=
  run s fun m => m.runCmd c 0x0007 [.config] fun m =>
    let on := !bit (leAt (c.val 0x100) 0 1) 0
    ((m.setDir fun d => { d with clearPending := on }).setFlag F.GLB_START_CLEAR_PENDING [] on, some {})

/-! ### Identity and status (R65) -/

/-- MOD_IDENTIFY. -/
def execModIdentify (c : Cmd) (s : State) : Host.Outcome State Fault Refusal :=
  run s fun m => m.query c 0x0001 fun m =>
    okWith [tlv 0x101 (serial ++ leBytes 4 glbId ++ leBytes 4 0 ++ leBytes 8 (m.view .GLB_CAPS []) ++ beBytes 6 oobMac ++
      beBytes 6 portMacBase ++ beBytes 8 Config.clockIdentity.toNat ++
      (match m.img.loaded with | some b => b.take 8 | none => List.replicate 8 0) ++
      leBytes 1 m.chalk.dir.role ++ leBytes 1 m.chalk.dir.module ++ [0, 0])]

/-- MOD_STATUS. -/
def execModStatus (c : Cmd) (s : State) : Host.Outcome State Fault Refusal :=
  run s fun m => m.query c 0x0002 fun m =>
    let flags := b2n (m.flag F.TPL_STATE_TRACEABLE) + 2 * b2n (m.flag F.TPL_STATE_HOLD_READY) + 4 * b2n (m.flag F.TPL_STATE_HOLD_GRADE_A)
    okWith [tlv 0x101 (leBytes 8 (m.view .GLB_START []) ++ leBytes 4 (m.view .CUT_STATUS []) ++ leBytes 4 (m.view .PWR_TEMPO_STATUS []) ++
      ((List.range 8).flatMap fun s => leBytes 2 (m.get F.PWR_TEMPO_SLICE_TEMPO [s])) ++ leBytes 2 (m.get F.PWR_TEMPO_HUB_TEMPO) ++
      leBytes 2 0 ++ leBytes 8 (m.view .PWR_INPUT []) ++ leBytes 4 (bound32 m.bound) ++ leBytes 1 m.servo ++ leBytes 1 flags ++
      leBytes 2 (m.phaseSrc.getD 0xFFFF) ++ leBytes 4 (m.view .PWR_GATE_STATUS [] % 2 ^ 32))]

end Sys2Proof.Machine
end

