-- ==== Sys2Proof/Machine/Stitch.lean ====
section
/-! DEFINITION. A stitch boundary (R97, R107 to R110) and what a granted stitch does: the scrub (R565), counter flushes (R270) and log
writes (R568). -/

namespace Sys2Proof.Machine

/-! ### Errors that a stitch finds (R565, R566) -/

/-- The line in a way of a flow-cache set is dropped, with the key's other line where it has two, so that the next lookup fills it (R255). -/
def Mod.loseLine (m : Mod) (k way : Nat) : Mod :=
  match (m.lines k).find? fun l => l.ways.contains way with
  | some l => ((m.putLines k ((m.lines k).filter fun x => !x.of l.e.scope l.e.key)).cacheCount (k / 2 ^ 18) 7).eccFatal 2 (leBytes 2 l.e.scope)
  | none => m

/-- Accumulator `i` restarts from zero, and the entry names its index (R565). -/
def Mod.loseAccum (m : Mod) (i : Nat) : Mod :=
  ({ m with pat := { m.pat with accum := tdel m.pat.accum i } }).eccFatal 3 (leBytes 3 i)

/-- A log slot is treated as not valid (R565). -/
def Mod.loseLog (m : Mod) (isError : Bool) (seq : Nat) : Mod :=
  let keep := fun (e : LogEntry) => decide (e.seq ≠ seq)
  let l := m.chalk.logs
  let l := if isError then { l with errors := l.errors.filter keep } else { l with events := l.events.filter keep }
  ({ m with chalk := { m.chalk with logs := l } }).eccFatal 4 (leBytes 8 seq)

/-- A Golide slot is treated as not valid (R565). -/
def Mod.loseGolide (m : Mod) (seq : Nat) : Mod :=
  ({ m with chalk := { m.chalk with golide := m.chalk.golide.filter fun (r : GolideRec) => decide (r.seq ≠ seq) } }).eccFatal 4 (leBytes 4 seq)

/-- A counter with no valid slot is treated as exhausted (R508). -/
def Mod.loseCounter (m : Mod) (k : Nat) : Mod :=
  ({ m with chalk := { m.chalk with exhausted := k :: m.chalk.exhausted.filter (· ≠ k) } }).eccFatal 4 (leBytes 4 k)

/-- A configuration bank that cannot be read is not valid (R513). -/
def Mod.loseBank (m : Mod) (second : Bool) : Mod :=
  let c := m.chalk
  ({ m with chalk := if second then { c with bankB := { c.bankB with valid := false } }
                     else { c with bankA := { c.bankA with valid := false } } }).eccFatal 4 (leBytes 1 (b2n second))

/-- Eight bytes of an image block are lost: what a later read gives is open (R524). -/
def Mod.loseImage (m : Mod) (b w : Nat) : Mod :=
  let (v, m) := m.draw (2 ^ 64)
  match tget m.chalk.blocks b with
  | some x =>
    let x := { x with data := overlay x.data (8 * w) (leBytes 8 v) }
    ({ m with chalk := { m.chalk with blocks := tput m.chalk.blocks b x } }).eccFatal 4 (leBytes 4 b)
  | none => m.eccFatal 4 (leBytes 4 b)

/-- A cell of an egress entry that has not started: the frame is dropped; a send so lost reports reason 6 (R413, R565). -/
def Mod.loseEntry (m : Mod) (k id : Nat) : Mod :=
  match (m.egq k).find? (·.id = id) with
  | some e =>
    let m := if e.hbm then m.eccFatal 3 else m.eccFatal 6
    (m.dropEntryOf k id).sendLost e.pkt 6
  | none => m

/-- Each error goes to the owner of its memory. (DEDUCED, log 28) -/
def Mod.eccHit (m : Mod) (h : EccHit) : Mod :=
  match h with
  | .corrected k => m.eccCorrected k
  | .control s c a => m.csError s c a
  | .rule s n => m.loseRule s n
  | .cacheLine k w => m.loseLine k w
  | .accum i => m.loseAccum i
  | .hbm a => m.eccFatal 3 (leBytes 5 a)
  | .chalk a => m.eccFatal 4 (leBytes 4 a)
  | .logSlot b n => m.loseLog b n
  | .golide n => m.loseGolide n
  | .counter k => m.loseCounter k
  | .bank b => m.loseBank b
  | .image b w => m.loseImage b w
  | .seamCtx s q => m.seamCtxError s q
  | .seamLane s l => m.seamLaneError s l
  | .pleat k i => m.loseEntry k i
  | .sending n k => if (m.hsubOf n k).tx.isSome then (m.eccFatal 6).cutTx n k 6 else m

/-! ### What a granted stitch does -/

/-- The oldest write of Chalk that waits for class `c` is done (R102): a Golide record's second half brings the head on (R173). -/
def Mod.chalkStitch (m : Mod) (c : Nat) : Mod :=
  match m.wheel.chalkq.find? (·.cls = c) with
  | none => m
  | some w =>
    let m := { m with wheel := { m.wheel with chalkq := m.wheel.chalkq.erase w } }
    match w with
    | .golide r second => if second then m.golideHead r else m
    | .hours serial eq => m.hoursKept serial eq
    | .calib serial bias => m.calibKept serial bias

/-- What class `c` does with the stitch of unit `u`: one log entry (R568), eight counters flushed in sixteen accesses (R100, R270), or one
64-byte write of Chalk. A scrub's finds are the boundary's operand. (DEDUCED, log 71) -/
def Mod.stitchWork (m : Mod) (u c : Nat) : Mod :=
  if u = 64 then (if c = 6 then m.logStitch else m.chalkStitch c)
  else if c = 4 && 145 ≤ u && u < 153 then (List.range 8).foldl (fun m _ => m.telemStitch (u - 145)) m
  else m

/-- The writes of a control-store patch whose foreground stitch ends are done, and GO clears with the last of them (R244). -/
def Mod.csWritten (m : Mod) : Mod :=
  m.shu.csq.foldl (fun m p =>
    let (wait, done) := p.left.partition fun c => (tget m.wheel.waits (65 + 10 * p.slice + c)).isSome
    let m := m.setShu fun u =>
      { u with words := done.foldl (fun (t : Tab Nat) c => tput t (csKey p.slice c p.addr) p.word) u.words,
               csq := u.csq.filterMap fun q => if q ≠ p then some q else if wait.isEmpty then none else some { p with left := wait } }
    if wait.isEmpty then (m.set F.SHU_CS_COMMIT_RESULT [p.slice] 0).set F.SHU_CS_COMMIT_GO [p.slice] 0 else m) m

/-! ### A boundary -/

/-- The foreground requests that reached a unit in the stitch that ends at `t`. -/
def Mod.stitchEnd (m : Mod) (t : Nat) (u : UnitStitch) : Mod := (u.fg.filter (· < t)).foldl (fun m a => m.fgAt u.unit.val a) m

/-- The foreground requests that wait for unit `u` start at `t` ns: MAX_WAIT keeps the longest wait behind a holder. -/
def Mod.fgServed (m : Mod) (u t : Nat) : Mod :=
  match tget m.wheel.waits u with
  | none => m
  | some ws =>
    let far := ((ws.filter (·.behind)).map fun q => min ((t - q.at_) / 4) 0xFF).foldl max (m.get F.STW_STATS_MAX_WAIT [u])
    { m with wheel := { m.wheel with waits := tdel m.wheel.waits u } }.set F.STW_STATS_MAX_WAIT [u] far

/-- A background grant makes the foreground requests of unit `u` wait on; FG_DELAYED counts each once (R109). -/
def Mod.fgPassed (m : Mod) (u : Nat) : Mod :=
  let ws := tgetD m.wheel.waits u []
  if ws.isEmpty then m
  else { m with wheel := { m.wheel with waits := tput m.wheel.waits u (ws.map fun (q : FgWait) => { q with behind := true }) } }.countSat
    F.STW_STATS_FG_DELAYED [u] (ws.filter fun (q : FgWait) => !q.behind).length

/-- The classes that have work for unit `u` now: those the boundary names, and those for which the module itself holds work (R110). -/
def Mod.bgPending (m : Mod) (u : UnitStitch) : List Nat :=
  let n := u.unit.val
  u.bg.map (·.1) ++
    (if n = 64 then (if m.logq.queue.isEmpty then [] else [6]) ++ m.wheel.chalkq.map ChalkWrite.cls
     else if 145 ≤ n && n < 153 && m.pat.flushQ.any (fun k => k / 4194304 = n - 145) then [4] else [])

/-- The requester whose turn it is, after the one served last (R108). -/
def nextTurn (rs : List Nat) (last : Option Nat) : Option Nat :=
  match last with
  | some p => ((rs.filter (p < ·)).min?).or rs.min?
  | none => rs.min?

/-- Class `c` holds unit `u` for the stitch, and the next of its requesters is served. -/
def Mod.stitchHold (m : Mod) (u c : Nat) (rs : List Nat) : Mod :=
  let w := { m.wheel with holder := tput m.wheel.holder u c }
  { m with wheel := match nextTurn rs (tget w.rr (8 * u + c)) with
    | some r => { w with rr := tput w.rr (8 * u + c) r }
    | none => w }

/-- The stitch that begins at `t` ns for one unit: the choice of R108. -/
def Mod.stitchBegin (m : Mod) (t : Nat) (u : UnitStitch) : Mod :=
  let n := u.unit.val
  let own := m.stwOwner n t
  let m := (u.fg.filter (· = t)).foldl (fun m a => m.fgWait n a false) m
  let fg := (tget m.wheel.waits n).isSome
  let m := match stitchGrant (stwKind n) own fg (m.flag F.STW_CFG_BORROW_EN) (m.flag F.STW_CFG_LEND_EN) (m.bgPending u) with
    | .background c =>
      let m := if own = 0 then m.countSat F.STW_STATS_BORROWED [n] else m
      (((m.fgPassed n).stitchHold n c ((u.bg.filter (·.1 = c)).map (·.2)))).stitchWork n c
    | .foreground => m.fgServed n t
    | .nobody => if fg && m.flag F.STW_CFG_LEND_EN then (m.fgServed n t).lend n t else m
  u.hits.foldl Mod.eccHit m

/-- A unit that the boundary does not list has something to do. -/
def Mod.unitBusy (m : Mod) (n : Fin 154) : Bool := (tget m.wheel.waits n.val).isSome || !(m.bgPending { unit := n }).isEmpty

/-- The boundary at `t` ns: the stitch that ends, or the realign gap (R98), is settled, banks change at a turn boundary, and each unit
chooses. -/
def Mod.boundary (m : Mod) (t : Nat) (us : List UnitStitch) : Mod :=
  let m := us.foldl (fun m u => m.stitchEnd t u) m
  let m := if m.wheel.realign then m.wheel.waits.foldl (fun m w => m.fgServed w.1 m.wheel.tail) m else m
  let m := m.csWritten
  let m := if t % 8192 = 0 then m.stwActivate else m
  let m : Mod := { m with wheel := { m.wheel with holder := [], realign := false, cur := t / 32 } }
  let more := (List.finRange 154).filter fun n => !us.any (·.unit = n) && m.unitBusy n
  (us ++ more.map fun n => ({ unit := n } : UnitStitch)).foldl (fun m u => m.stitchBegin t u) m

/-- STITCH_BOUNDARY: device time reaches the boundary `t`, in ns. A boundary that a step brings before the end of the stitch under way
passes (R98). (DEDUCED, log 71) -/
def execStitchBoundary (t : Nat) (us : List UnitStitch) (s : State) : Host.Outcome State Fault Refusal :=
  run s fun m =>
    if t % 32 ≠ 0 || t < m.ns then m
    else if m.wheel.realign && t < m.wheel.tail then m.runToNs t
    else (m.runToNs t).boundary t us

end Sys2Proof.Machine
end

