-- ==== Sys2Proof/Machine/Dispatch.lean ====
section
/-! DEFINITION. The dispatch: one arm per command. -/

namespace Sys2Proof.Machine

/-- The effect of a command on everything but the queue. (DESIGN CHOICE, log 3) -/
def exec (i : Instr) (s : State) : Host.Outcome State Fault Refusal :=
  match i with
  | .inputValid low => Sys2Proof.Machine.execInputValid low s
  | .powerLoss ride => Sys2Proof.Machine.execPowerLoss ride s
  | .thermalTrip => Sys2Proof.Machine.execThermalTrip s
  | .oeOvertemp k hot => Sys2Proof.Machine.execOeOvertemp k hot s
  | .rom dirBad cut => Sys2Proof.Machine.execRom dirBad cut s
  | .imageCheck => Sys2Proof.Machine.execImageCheck s
  | .config eccA eccB cut => Sys2Proof.Machine.execConfig eccA eccB cut s
  | .loading ok t => Sys2Proof.Machine.execLoading ok t s
  | .initialTimeTimeout t => Sys2Proof.Machine.execInitialTimeTimeout t s
  | .stitchBoundary t us => Sys2Proof.Machine.execStitchBoundary t us s
  | .turnBoundary t x => Sys2Proof.Machine.execTurnBoundary t x s
  | .bandRise => Sys2Proof.Machine.execBandRise s
  | .gateLift cause => Sys2Proof.Machine.execGateLift cause s
  | .selectionTick t offs => Sys2Proof.Machine.execSelectionTick t offs s
  | .servoSecond t off delay temp => Sys2Proof.Machine.execServoSecond t off delay temp s
  | .holdoverLimit t => Sys2Proof.Machine.execHoldoverLimit t s
  | .leapAt t => Sys2Proof.Machine.execLeapAt t s
  | .ptpMessageReceived n msg t => Sys2Proof.Machine.execPtpMessageReceived n msg t s
  | .ptpAnnounceTimeout n => Sys2Proof.Machine.execPtpAnnounceTimeout n s
  | .esmcReceived n ql ok => Sys2Proof.Machine.execEsmcReceived n ql ok s
  | .esmcTimeout n => Sys2Proof.Machine.execEsmcTimeout n s
  | .ppsInputEdge stamp => Sys2Proof.Machine.execPpsInputEdge stamp s
  | .todSentenceReceived bytes t => Sys2Proof.Machine.execTodSentenceReceived bytes t s
  | .ref10mLoss => Sys2Proof.Machine.execRef10mLoss s
  | .ppsOutRise j k => Sys2Proof.Machine.execPpsOutRise j k s
  | .ppsOutFall j => Sys2Proof.Machine.execPpsOutFall j s
  | .todOutputSentence k => Sys2Proof.Machine.execTodOutputSentence k s
  | .golideRecord min => Sys2Proof.Machine.execGolideRecord min s
  | .timePairUpdate k => Sys2Proof.Machine.execTimePairUpdate k s
  | .ptmDialogStart e => Sys2Proof.Machine.execPtmDialogStart e s
  | .ptmResponse e dev host delay => Sys2Proof.Machine.execPtmResponse e dev host delay s
  | .ptmDialogTimeout e => Sys2Proof.Machine.execPtmDialogTimeout e s
  | .frameReceived n k d fcsOk stamp full => Sys2Proof.Machine.execFrameReceived n k d fcsOk stamp full s
  | .pfcFrameReceived n k d fcsOk t => Sys2Proof.Machine.execPfcFrameReceived n k d fcsOk t s
  | .pfcRefresh n k => Sys2Proof.Machine.execPfcRefresh n k s
  | .pfcWatchdog n c => Sys2Proof.Machine.execPfcWatchdog n c s
  | .laneLockAcquired n lanes => Sys2Proof.Machine.execLaneLockAcquired n lanes s
  | .laneLockLost n lanes => Sys2Proof.Machine.execLaneLockLost n lanes s
  | .remoteFaultReceived n k => Sys2Proof.Machine.execRemoteFaultReceived n k s
  | .faultClear n k => Sys2Proof.Machine.execFaultClear n k s
  | .trainingTimeout n k => Sys2Proof.Machine.execTrainingTimeout n k s
  | .lightLost n tx rx => Sys2Proof.Machine.execLightLost n tx rx s
  | .lightPresent n tx rx => Sys2Proof.Machine.execLightPresent n tx rx s
  | .transmitUnderrun n k => Sys2Proof.Machine.execTransmitUnderrun n k s
  | .threshDecay n => Sys2Proof.Machine.execThreshDecay n s
  | .frameBoundary n k => Sys2Proof.Machine.execFrameBoundary n k s
  | .frameTransmitEnd n k => Sys2Proof.Machine.execFrameTransmitEnd n k s
  | .calendarEntryBoundary n t => Sys2Proof.Machine.execCalendarEntryBoundary n t s
  | .calendarActivation n => Sys2Proof.Machine.execCalendarActivation n s
  | .timedFrameDue n => Sys2Proof.Machine.execTimedFrameDue n s
  | .bobbinPresenceGained k => Sys2Proof.Machine.execBobbinPresenceGained k s
  | .bobbinPresenceLost k => Sys2Proof.Machine.execBobbinPresenceLost k s
  | .bobbinIdentified k x => Sys2Proof.Machine.execBobbinIdentified k x s
  | .bobbinWarmed k bias pass => Sys2Proof.Machine.execBobbinWarmed k bias pass s
  | .laserServo k bias fault temp engine => Sys2Proof.Machine.execLaserServo k bias fault temp engine s
  | .spareSwitchDone k j => Sys2Proof.Machine.execSpareSwitchDone k j s
  | .bobbinHoursWrite k => Sys2Proof.Machine.execBobbinHoursWrite k s
  | .lifePrediction k j => Sys2Proof.Machine.execLifePrediction k j s
  | .dispatch sl => Sys2Proof.Machine.execDispatch sl s
  | .shuttleTimerFire sl k t ptp esmc => Sys2Proof.Machine.execShuttleTimerFire sl k t ptp esmc s
  | .microwordIssue sl e err => Sys2Proof.Machine.execMicrowordIssue sl e err s
  | .shuBankSwitch sl e => Sys2Proof.Machine.execShuBankSwitch sl e s
  | .channelResponse sl e t tag => Sys2Proof.Machine.execChannelResponse sl e t tag s
  | .creditAvailable sl e t => Sys2Proof.Machine.execCreditAvailable sl e t s
  | .residencyExpiry sl e t => Sys2Proof.Machine.execResidencyExpiry sl e t s
  | .csEccRewrite sl c a ok => Sys2Proof.Machine.execCsEccRewrite sl c a ok s
  | .endPass sl e t => Sys2Proof.Machine.execEndPass sl e t s
  | .trap sl e => Sys2Proof.Machine.execTrap sl e s
  | .exactMatch sl e t tag bad => Sys2Proof.Machine.execExactMatch sl e t tag bad s
  | .exactNowait sl e t tag bad => Sys2Proof.Machine.execExactNowait sl e t tag bad s
  | .ruleMatch sl e t tag bad => Sys2Proof.Machine.execRuleMatch sl e t tag bad s
  | .dataRead sl e t tag bad => Sys2Proof.Machine.execDataRead sl e t tag bad s
  | .dataWrite sl e t tag bad => Sys2Proof.Machine.execDataWrite sl e t tag bad s
  | .dataAdd sl e t tag bad => Sys2Proof.Machine.execDataAdd sl e t tag bad s
  | .dataCas sl e t tag bad => Sys2Proof.Machine.execDataCas sl e t tag bad s
  | .localRead sl e t tag bad => Sys2Proof.Machine.execLocalRead sl e t tag bad s
  | .localWrite sl e t tag bad => Sys2Proof.Machine.execLocalWrite sl e t tag bad s
  | .localAdd sl e t tag bad => Sys2Proof.Machine.execLocalAdd sl e t tag bad s
  | .localCas sl e t tag bad => Sys2Proof.Machine.execLocalCas sl e t tag bad s
  | .countUpdate sl e t tag => Sys2Proof.Machine.execCountUpdate sl e t tag s
  | .writeback sl e t tag => Sys2Proof.Machine.execWriteback sl e t tag s
  | .insertBytes sl e t tag => Sys2Proof.Machine.execInsertBytes sl e t tag s
  | .stripBytes sl e t tag => Sys2Proof.Machine.execStripBytes sl e t tag s
  | .rewriteRead sl e t tag => Sys2Proof.Machine.execRewriteRead sl e t tag s
  | .rewriteWrite sl e t tag => Sys2Proof.Machine.execRewriteWrite sl e t tag s
  | .cellAlloc sl e t tag => Sys2Proof.Machine.execCellAlloc sl e t tag s
  | .copyCell sl e t tag => Sys2Proof.Machine.execCopyCell sl e t tag s
  | .mirrorPass sl e t tag => Sys2Proof.Machine.execMirrorPass sl e t tag s
  | .recircPass sl e t tag => Sys2Proof.Machine.execRecircPass sl e t tag s
  | .sealData sl e t tag => Sys2Proof.Machine.execSealData sl e t tag s
  | .openData sl e t tag => Sys2Proof.Machine.execOpenData sl e t tag s
  | .espOut sl e t tag => Sys2Proof.Machine.execEspOut sl e t tag s
  | .espIn sl e t tag => Sys2Proof.Machine.execEspIn sl e t tag s
  | .tlsOut sl e t tag => Sys2Proof.Machine.execTlsOut sl e t tag s
  | .tlsIn sl e t tag => Sys2Proof.Machine.execTlsIn sl e t tag s
  | .xtsEnc sl e t tag => Sys2Proof.Machine.execXtsEnc sl e t tag s
  | .xtsDec sl e t tag => Sys2Proof.Machine.execXtsDec sl e t tag s
  | .qdepth sl e t tag => Sys2Proof.Machine.execQdepth sl e t tag s
  | .gateQuery sl e t tag => Sys2Proof.Machine.execGateQuery sl e t tag s
  | .calpos sl e t tag => Sys2Proof.Machine.execCalpos sl e t tag s
  | .flowFillDone sl k0 bad => Sys2Proof.Machine.execFlowFillDone sl k0 bad s
  | .thimbleOpDone sl k0 fail => Sys2Proof.Machine.execThimbleOpDone sl k0 fail s
  | .epochKeyDerive k t => Sys2Proof.Machine.execEpochKeyDerive k t s
  | .epochKeyErase k t => Sys2Proof.Machine.execEpochKeyErase k t s
  | .seamRelease sl busy => Sys2Proof.Machine.execSeamRelease sl busy s
  | .laneRebuildDone sl lane => Sys2Proof.Machine.execLaneRebuildDone sl lane s
  | .crossbarCell b => Sys2Proof.Machine.execCrossbarCell b s
  | .spillReadback sl e c => Sys2Proof.Machine.execSpillReadback sl e c s
  | .receiveDelivery e stamp => Sys2Proof.Machine.execReceiveDelivery e stamp s
  | .rxWaitExpiry n => Sys2Proof.Machine.execRxWaitExpiry n s
  | .spoolPoll o => Sys2Proof.Machine.execSpoolPoll o s
  | .entryTimeout kind n => Sys2Proof.Machine.execEntryTimeout kind n s
  | .sendDataRead e => Sys2Proof.Machine.execSendDataRead e s
  | .adminEntryTake e => Sys2Proof.Machine.execAdminEntryTake e s
  | .completionWrite kind n last => Sys2Proof.Machine.execCompletionWrite kind n last s
  | .moderationTimer n => Sys2Proof.Machine.execModerationTimer n s
  | .ringDrainDone kind n => Sys2Proof.Machine.execRingDrainDone kind n s
  | .hostConfigRequest f q => Sys2Proof.Machine.execHostConfigRequest f q s
  | .hostMemoryRequest f bar2 off n data => Sys2Proof.Machine.execHostMemoryRequest f bar2 off n data s
  | .msixUnmask f v => Sys2Proof.Machine.execMsixUnmask f v s
  | .hostReadCompletion e t res stamp => Sys2Proof.Machine.execHostReadCompletion e t res stamp s
  | .completionTimeout e t => Sys2Proof.Machine.execCompletionTimeout e t s
  | .pcieError f cause => Sys2Proof.Machine.execPcieError f cause s
  | .atsInvalidate f lo hi => Sys2Proof.Machine.execAtsInvalidate f lo hi s
  | .spdmRequest e q => Sys2Proof.Machine.execSpdmRequest e q s
  | .perstAssert e => Sys2Proof.Machine.execPerstAssert e s
  | .perstDeassert e => Sys2Proof.Machine.execPerstDeassert e s
  | .hotReset e => Sys2Proof.Machine.execHotReset e s
  | .linkDown e ordered => Sys2Proof.Machine.execLinkDown e ordered s
  | .flr f => Sys2Proof.Machine.execFlr f s
  | .vfEnableClear e => Sys2Proof.Machine.execVfEnableClear e s
  | .d3hotToD0 f => Sys2Proof.Machine.execD3hotToD0 f s
  | .functionResetDone f => Sys2Proof.Machine.execFunctionResetDone f s
  | .linkReleaseDone e => Sys2Proof.Machine.execLinkReleaseDone e s
  | .instDrainDone k0 => Sys2Proof.Machine.execInstDrainDone k0 s
  | .bootBlockRead k0 res stamp => Sys2Proof.Machine.execBootBlockRead k0 res stamp s
  | .commandReceived src bs => Sys2Proof.Machine.execCommandReceived src bs s
  | .commandStart => Sys2Proof.Machine.execCommandStart s
  | .objectWaitTimeout k0 => Sys2Proof.Machine.execObjectWaitTimeout k0 s
  | .lockWaitTimeout n k0 => Sys2Proof.Machine.execLockWaitTimeout n k0 s
  | .txnIdleLimit slot t => Sys2Proof.Machine.execTxnIdleLimit slot t s
  | .oobFrameReceived from_ to_ ether rx bs => Sys2Proof.Machine.execOobFrameReceived from_ to_ ether rx bs s
  | .oobLeaseExpiry k => Sys2Proof.Machine.execOobLeaseExpiry k s
  | .oobLinkDown => Sys2Proof.Machine.execOobLinkDown s
  | .jxlHelloTimer l => Sys2Proof.Machine.execJxlHelloTimer l s
  | .jxlHelloReceived l d answered refused => Sys2Proof.Machine.execJxlHelloReceived l d answered refused s
  | .jxlHelloTimeout l t => Sys2Proof.Machine.execJxlHelloTimeout l t s
  | .jxlCreditTimer l => Sys2Proof.Machine.execJxlCreditTimer l s
  | .jxlCreditReceived l d => Sys2Proof.Machine.execJxlCreditReceived l d s
  | .jxlMarkTimer l => Sys2Proof.Machine.execJxlMarkTimer l s
  | .jxlMarkReceived l d => Sys2Proof.Machine.execJxlMarkReceived l d s
  | .jxlDictReceived l d => Sys2Proof.Machine.execJxlDictReceived l d s
  | .jxlDataReceived l d stamp bad => Sys2Proof.Machine.execJxlDataReceived l d stamp bad s
  | .jxlCommandReceived l d stamp => Sys2Proof.Machine.execJxlCommandReceived l d stamp s
  | .jxlReplyReceived l d stamp => Sys2Proof.Machine.execJxlReplyReceived l d stamp s
  | .jxlTimeTimer l => Sys2Proof.Machine.execJxlTimeTimer l s
  | .jxlTimeReceived l d stamp => Sys2Proof.Machine.execJxlTimeReceived l d stamp s
  | .jxlBroadcastReceived l d stamp => Sys2Proof.Machine.execJxlBroadcastReceived l d stamp s
  | .jxlBeaconTimer => Sys2Proof.Machine.execJxlBeaconTimer s
  | .jxlBeaconLeaseExpiry t => Sys2Proof.Machine.execJxlBeaconLeaseExpiry t s
  | .jxlOrphanExpiry t => Sys2Proof.Machine.execJxlOrphanExpiry t s
  | .jxlRouteUpdate topo => Sys2Proof.Machine.execJxlRouteUpdate topo s
  | .jxlForwardTimeout k0 t => Sys2Proof.Machine.execJxlForwardTimeout k0 t s
  | .fitTaiTrigger n => Sys2Proof.Machine.execFitTaiTrigger n s
  | .pinInputEdge p level => Sys2Proof.Machine.execPinInputEdge p level s
  | .pinTakeover p inputs => Sys2Proof.Machine.execPinTakeover p inputs s
  | .nvmePoll k0 => Sys2Proof.Machine.execNvmePoll k0 s
  | .nvmeDoorbellWrite k0 d v => Sys2Proof.Machine.execNvmeDoorbellWrite k0 d v s
  | .nvmeEnable k0 v => Sys2Proof.Machine.execNvmeEnable k0 v s
  | .nvmeDisable k0 v => Sys2Proof.Machine.execNvmeDisable k0 v s
  | .nvmeShutdown k0 v => Sys2Proof.Machine.execNvmeShutdown k0 v s
  | .deleteIoSq e => Sys2Proof.Machine.execDeleteIoSq e s
  | .createIoSq e => Sys2Proof.Machine.execCreateIoSq e s
  | .getLogPage e => Sys2Proof.Machine.execGetLogPage e s
  | .deleteIoCq e => Sys2Proof.Machine.execDeleteIoCq e s
  | .createIoCq e => Sys2Proof.Machine.execCreateIoCq e s
  | .identify e => Sys2Proof.Machine.execIdentify e s
  | .abortCmd e => Sys2Proof.Machine.execAbortCmd e s
  | .setFeatures e => Sys2Proof.Machine.execSetFeatures e s
  | .getFeatures e => Sys2Proof.Machine.execGetFeatures e s
  | .asynchronousEventRequest e => Sys2Proof.Machine.execAsynchronousEventRequest e s
  | .doorbellBufferConfig e => Sys2Proof.Machine.execDoorbellBufferConfig e s
  | .nvmeFlush e => Sys2Proof.Machine.execNvmeFlush e s
  | .nvmeWrite e => Sys2Proof.Machine.execNvmeWrite e s
  | .nvmeRead e => Sys2Proof.Machine.execNvmeRead e s
  | .writeZeroes e => Sys2Proof.Machine.execWriteZeroes e s
  | .datasetManagement e => Sys2Proof.Machine.execDatasetManagement e s
  | .targetPduReceived sl t k p check => Sys2Proof.Machine.execTargetPduReceived sl t k p check s
  | .targetConnectionLoss sl t cause => Sys2Proof.Machine.execTargetConnectionLoss sl t cause s
  | .targetConnectStep sl t ok x => Sys2Proof.Machine.execTargetConnectStep sl t ok x s
  | .targetRetryTimer sl t => Sys2Proof.Machine.execTargetRetryTimer sl t s
  | .targetConnectTimeout sl t => Sys2Proof.Machine.execTargetConnectTimeout sl t s
  | .targetKeepAlive sl t => Sys2Proof.Machine.execTargetKeepAlive sl t s
  | .ioWaitExpiry k0 q cid => Sys2Proof.Machine.execIoWaitExpiry k0 q cid s
  | .ctrlLossExpiry sl t => Sys2Proof.Machine.execCtrlLossExpiry sl t s
  | .targetEnable sl t v => Sys2Proof.Machine.execTargetEnable sl t v s
  | .targetDisable sl t v => Sys2Proof.Machine.execTargetDisable sl t v s
  | .lckTryRead r n => Sys2Proof.Machine.execLckTryRead r n s
  | .lckTryRelease r n => Sys2Proof.Machine.execLckTryRelease r n s
  | .forceRelease r n => Sys2Proof.Machine.execForceRelease r n s
  | .lckCfgClear r n => Sys2Proof.Machine.execLckCfgClear r n s
  | .mbxRingWrite r c v => Sys2Proof.Machine.execMbxRingWrite r c v s
  | .mbxPendingClear r c v => Sys2Proof.Machine.execMbxPendingClear r c v s
  | .mbxMaskWrite r c v => Sys2Proof.Machine.execMbxMaskWrite r c v s
  | .mbxPayloadWrite r c w v => Sys2Proof.Machine.execMbxPayloadWrite r c w v s
  | .stwApply r u => Sys2Proof.Machine.execStwApply r u s
  | .shuApply r sl e => Sys2Proof.Machine.execShuApply r sl e s
  | .quarantineRelease r sl e => Sys2Proof.Machine.execQuarantineRelease r sl e s
  | .csPatchGo r sl addr clusters => Sys2Proof.Machine.execCsPatchGo r sl addr clusters s
  | .instBootGo k0 manager addr => Sys2Proof.Machine.execInstBootGo k0 manager addr s
  | .fitFire r clear => Sys2Proof.Machine.execFitFire r clear s
  | .lowRestart r u => Sys2Proof.Machine.execLowRestart r u s
  | .tplNowRead r t => Sys2Proof.Machine.execTplNowRead r t s
  | .rcFieldRead r addr wide => Sys2Proof.Machine.execRcFieldRead r addr wide s
  | .registerWrite r addr wide v => Sys2Proof.Machine.execRegisterWrite r addr wide v s
  | .modIdentify c => Sys2Proof.Machine.execModIdentify c s
  | .modStatus c => Sys2Proof.Machine.execModStatus c s
  | .modReset c => Sys2Proof.Machine.execModReset c s
  | .regRead c => Sys2Proof.Machine.execRegRead c s
  | .regWrite c => Sys2Proof.Machine.execRegWrite c s
  | .configCommit c fate => Sys2Proof.Machine.execConfigCommit c fate s
  | .factoryClear c => Sys2Proof.Machine.execFactoryClear c s
  | .tempoTargetSet c => Sys2Proof.Machine.execTempoTargetSet c s
  | .pinFunctionSet c => Sys2Proof.Machine.execPinFunctionSet c s
  | .cmdCancel c => Sys2Proof.Machine.execCmdCancel c s
  | .eventLogRead c => Sys2Proof.Machine.execEventLogRead c s
  | .linkReleaseReset c => Sys2Proof.Machine.execLinkReleaseReset c s
  | .linkReleaseResume c => Sys2Proof.Machine.execLinkReleaseResume c s
  | .instCreate c => Sys2Proof.Machine.execInstCreate c s
  | .instDestroy c => Sys2Proof.Machine.execInstDestroy c s
  | .instResize c => Sys2Proof.Machine.execInstResize c s
  | .instReset c => Sys2Proof.Machine.execInstReset c s
  | .instQuery c => Sys2Proof.Machine.execInstQuery c s
  | .instFreeze c => Sys2Proof.Machine.execInstFreeze c s
  | .instSave c => Sys2Proof.Machine.execInstSave c s
  | .instRestore c bs => Sys2Proof.Machine.execInstRestore c bs s
  | .instResume c => Sys2Proof.Machine.execInstResume c s
  | .ringCreate c => Sys2Proof.Machine.execRingCreate c s
  | .ringDestroy c => Sys2Proof.Machine.execRingDestroy c s
  | .ringModify c => Sys2Proof.Machine.execRingModify c s
  | .ringQuery c => Sys2Proof.Machine.execRingQuery c s
  | .summarySet c => Sys2Proof.Machine.execSummarySet c s
  | .pollIntervalSet c => Sys2Proof.Machine.execPollIntervalSet c s
  | .tblWrite c => Sys2Proof.Machine.execTblWrite c s
  | .tblDelete c => Sys2Proof.Machine.execTblDelete c s
  | .tblRead c => Sys2Proof.Machine.execTblRead c s
  | .txnBegin c => Sys2Proof.Machine.execTxnBegin c s
  | .txnCommit c => Sys2Proof.Machine.execTxnCommit c s
  | .txnAbort c => Sys2Proof.Machine.execTxnAbort c s
  | .txnQuery c => Sys2Proof.Machine.execTxnQuery c s
  | .defaultActionSet c => Sys2Proof.Machine.execDefaultActionSet c s
  | .malformedActionSet c => Sys2Proof.Machine.execMalformedActionSet c s
  | .counterPin c => Sys2Proof.Machine.execCounterPin c s
  | .counterUnpin c => Sys2Proof.Machine.execCounterUnpin c s
  | .telemetryRead c => Sys2Proof.Machine.execTelemetryRead c s
  | .tblScopeAssign c => Sys2Proof.Machine.execTblScopeAssign c s
  | .timeGet c t => Sys2Proof.Machine.execTimeGet c t s
  | .timeSourceSet c => Sys2Proof.Machine.execTimeSourceSet c s
  | .ptpPortSet c => Sys2Proof.Machine.execPtpPortSet c s
  | .servoStatus c => Sys2Proof.Machine.execServoStatus c s
  | .timeLossPolicySet c => Sys2Proof.Machine.execTimeLossPolicySet c s
  | .golideRead c => Sys2Proof.Machine.execGolideRead c s
  | .hostTimeSet c => Sys2Proof.Machine.execHostTimeSet c s
  | .ppsOutSet c => Sys2Proof.Machine.execPpsOutSet c s
  | .calWrite c => Sys2Proof.Machine.execCalWrite c s
  | .calActivate c => Sys2Proof.Machine.execCalActivate c s
  | .calQuery c => Sys2Proof.Machine.execCalQuery c s
  | .keyRootInstallClear c secure => Sys2Proof.Machine.execKeyRootInstallClear c secure s
  | .keyRootInstallWrapped c => Sys2Proof.Machine.execKeyRootInstallWrapped c s
  | .agreeStart c => Sys2Proof.Machine.execAgreeStart c s
  | .agreeFinish c => Sys2Proof.Machine.execAgreeFinish c s
  | .keyRootErase c => Sys2Proof.Machine.execKeyRootErase c s
  | .incarnationAdvance c => Sys2Proof.Machine.execIncarnationAdvance c s
  | .keyCtxCreate c fail => Sys2Proof.Machine.execKeyCtxCreate c fail s
  | .keyCtxDestroy c => Sys2Proof.Machine.execKeyCtxDestroy c s
  | .epochKeySet c => Sys2Proof.Machine.execEpochKeySet c s
  | .saCreate c => Sys2Proof.Machine.execSaCreate c s
  | .tlsCreate c => Sys2Proof.Machine.execTlsCreate c s
  | .keyshare c => Sys2Proof.Machine.execKeyshare c s
  | .binder c => Sys2Proof.Machine.execBinder c s
  | .handshake c => Sys2Proof.Machine.execHandshake c s
  | .finished c => Sys2Proof.Machine.execFinished c s
  | .application c => Sys2Proof.Machine.execApplication c s
  | .keyUpdate c => Sys2Proof.Machine.execKeyUpdate c s
  | .saDestroy c => Sys2Proof.Machine.execSaDestroy c s
  | .macsecSaSet c => Sys2Proof.Machine.execMacsecSaSet c s
  | .portConfig c => Sys2Proof.Machine.execPortConfig c s
  | .portEnable c => Sys2Proof.Machine.execPortEnable c s
  | .portDisable c => Sys2Proof.Machine.execPortDisable c s
  | .portStatus c => Sys2Proof.Machine.execPortStatus c s
  | .portStatsRead c => Sys2Proof.Machine.execPortStatsRead c s
  | .breakoutSet c => Sys2Proof.Machine.execBreakoutSet c s
  | .optCalibrate c => Sys2Proof.Machine.execOptCalibrate c s
  | .bobbinStatus c => Sys2Proof.Machine.execBobbinStatus c s
  | .bobbinSpareSwitch c => Sys2Proof.Machine.execBobbinSpareSwitch c s
  | .bobbinRemovePrepare c => Sys2Proof.Machine.execBobbinRemovePrepare c s
  | .jxlLinkSet c => Sys2Proof.Machine.execJxlLinkSet c s
  | .jxlJoin c => Sys2Proof.Machine.execJxlJoin c s
  | .jxlLeave c => Sys2Proof.Machine.execJxlLeave c s
  | .jxlTopologyRead c => Sys2Proof.Machine.execJxlTopologyRead c s
  | .jxlDictReset c => Sys2Proof.Machine.execJxlDictReset c s
  | .jxlSlotSet c => Sys2Proof.Machine.execJxlSlotSet c s
  | .imgStageOpen c => Sys2Proof.Machine.execImgStageOpen c s
  | .imgChunkWrite c host => Sys2Proof.Machine.execImgChunkWrite c host s
  | .imgStageStatus c => Sys2Proof.Machine.execImgStageStatus c s
  | .imgStageVerify c => Sys2Proof.Machine.execImgStageVerify c s
  | .imgInstall c cut => Sys2Proof.Machine.execImgInstall c cut s
  | .imgStageDiscard c => Sys2Proof.Machine.execImgStageDiscard c s
  | .imgQuery c => Sys2Proof.Machine.execImgQuery c s
  | .fitArm c => Sys2Proof.Machine.execFitArm c s
  | .fitTrigger c => Sys2Proof.Machine.execFitTrigger c s
  | .fitRead c => Sys2Proof.Machine.execFitRead c s
  | .fitDisarm c => Sys2Proof.Machine.execFitDisarm c s
  | .errLogRead c => Sys2Proof.Machine.execErrLogRead c s
  | .accessLogRead c => Sys2Proof.Machine.execAccessLogRead c s
  | .portLocal c => Sys2Proof.Machine.execPortLocal c s
  | .portRemote c => Sys2Proof.Machine.execPortRemote c s
  | .hostDma c => Sys2Proof.Machine.execHostDma c s
  | .lockAcquire c => Sys2Proof.Machine.execLockAcquire c s
  | .lockRelease c => Sys2Proof.Machine.execLockRelease c s
  | .lockQuery c => Sys2Proof.Machine.execLockQuery c s
  | .lockConfig c => Sys2Proof.Machine.execLockConfig c s
  | .mbxBindSet c => Sys2Proof.Machine.execMbxBindSet c s
  | .mbxQuery c => Sys2Proof.Machine.execMbxQuery c s
  | .diagLoopbackEnd host n r => Sys2Proof.Machine.execDiagLoopbackEnd host n r s
  | .fullCalibrationDone k pass => Sys2Proof.Machine.execFullCalibrationDone k pass s
  | .linkUp e rate width flit => Sys2Proof.Machine.execLinkUp e rate width flit s
  | .ref10mInputReturn t => Sys2Proof.Machine.execRef10mInputReturn t s
  | .ovenStable => Sys2Proof.Machine.execOvenStable s
  | .bobbinIdentifyTimeout k => Sys2Proof.Machine.execBobbinIdentifyTimeout k s
  | .tcpRtoExpiry sl t k => Sys2Proof.Machine.execTcpRtoExpiry sl t k s
  | .shutdownTimeout k0 => Sys2Proof.Machine.execShutdownTimeout k0 s
  | .plcaBeaconLoss => Sys2Proof.Machine.execPlcaBeaconLoss s
  | .plcaBeaconReturn => Sys2Proof.Machine.execPlcaBeaconReturn s

end Sys2Proof.Machine
end

