-- ==== Sys2Proof/Safety.lean ====
section
/-! DEFINITION. What counts as a safe run of the module, and the terms the statements use: a state with no Fitting trigger left to fire,
a command that may run, a reply that has gone out and what it says, what a step leaves as it was. -/

namespace Sys2Proof.Machine

/-- A step goes on: neither a fault nor a refusal. -/
def goesOn (s : State) : Prop := ∃ t, step s = .next t

/-- No Fitting trigger waits for the end of a step (R575): every step leaves the module so. -/
def Quiet (s : State) : Prop := s.m.fit.pend = []

/-- The state with another module state: the queue and the microcode data region as they were. -/
def State.put (s : State) (m : Mod) : State := { s with m := m }

/-- The state at the end of a step whose command left the module as `m`: Fitting triggers that it detected fire (R575). -/
def State.ends (s : State) (m : Mod) : State := { s with m := settle m }

/-- Every register field but those listed reads as before. -/
def regsBut (l : List (Fld × List Nat)) (m m' : Mod) : Prop := ∀ f ix, (f, ix) ∉ l → m'.get f ix = m.get f ix

/-- A command under the opcode of its row. -/
def asOp (c : Cmd) (op : Nat) : Cmd := { c with opcode := op }

/-- A command passes the checks of R20 and R58, the objects it needs are free (R61) and its requester lives (R84). -/
structure mayRun (m : Mod) (c : Cmd) (op : Nat) (objs : List Obj := []) : Prop where
  check : m.cmdCheck (asOp c op) = none
  free : m.holder (asOp c op) objs = none
  lives : m.isDead (asOp c op) = false

/-- A reply has gone out on the transport of its command: sent, written, or queued for its reply ring or its frame (R48, R49). -/
def answered (m : Mod) (r : Reply) : Prop :=
  match r.src with
  | .oob k => .oobReply k r ∈ m.outs
  | .mailbox ch => .mbxReply ch r ∈ m.outs
  | .admin _ => r ∈ m.replies
  | .jexdor o => (o, r) ∈ m.jxl.outq

/-- What the reply to a command says (R44). -/
structure Answers (m : Mod) (c : Cmd) (a : Ans) (r : Reply) : Prop where
  src : r.src = c.src
  opcode : r.opcode = c.opcode
  tag : r.tag = c.tag
  seq : r.seq = c.seq
  status : r.status = a.status
  err : r.errTlv = a.errTlv ∧ r.errDetail = a.errDetail
  time : r.doneTime = time64 m.now
  tlvs : r.tlvs = a.tlvs ++ (match c.tlv 3 with | some (_, v) => [⟨3, v⟩] | none => [])

/-- A thread's packet and window once the pending changes of a REWRITE request are written back (R221, R222). -/
def Thread.wrote (x : Thread) (q : ChanReq) : Thread :=
  { x with pkt := { x.pkt with bytes := checksums q.w4 (backTo x.pkt.bytes q.back) } }

/-- The module then. -/
def Mod.wrote (m : Mod) (w : ThreadRef) (q : ChanReq) : Mod := m.putTh w.s w.e w.t ((m.th w.s w.e w.t).wrote q)

/-- Nothing waits for a stitch of the wheel: no foreground request, no write of Chalk, no log entry, no counter to flush, no patch of the
control store. -/
structure wheelIdle (m : Mod) : Prop where
  waits : m.wheel.waits = []
  chalkq : m.wheel.chalkq = []
  logs : m.logq.queue = []
  flush : m.pat.flushQ = []
  patch : m.shu.csq = []

/-- The mailbox registers that a reply writes (R79). -/
def replyFields : List Fld := [F.MBX_PAYLOAD_DATA, F.MBX_PENDING_BITS, F.MBX_STATUS_STATE]

/-- A step has left everything as it was but what a reply changes: what was sent out, the replies on their way, the command's place,
vectors pending, the registers of a mailbox. -/
structure onlyReplied (m m' : Mod) : Prop where
  parts : m' = { m with regs := m'.regs, outs := m'.outs, msix := m'.msix, cut := m'.cut, replies := m'.replies, jxl := m'.jxl }
  regs : ∀ f ix, f ∉ replyFields → m'.get f ix = m.get f ix
  links : m'.jxl = { m.jxl with outq := m'.jxl.outq }

end Sys2Proof.Machine
end

