-- ==== Sys2Proof/Certificates/Slice0/Obligations.lean ====
section
/-! DEFINITION. The statements for the provers: whole-machine rules first, then the families of commands in the table's order. -/

open Sys2Proof Sys2Proof.Machine


/-- Hardware locks (R80, R82, R83): what a read of LCK_TRY does and answers; what a release, FORCE_RELEASE and CLEAR do to a lock and its first waiter, and
that nothing else changes. -/
def Obligations.LockRegisters : Prop :=
  (∀ (s : State) (r : Req) (n : Fin 1024), Quiet s → s.m.lockAdmits n r.mid = true → (s.m.lock n).owner = none →
    exec (.lckTryRead r n) s = .next (s.put ((s.m.putLock n ⟨some r.mid, false, (s.m.lock n).queue⟩).answerRead r
      (1 + 2 * b2n (s.m.lock n).broken + r.mid * 65536)))) ∧
  (∀ (s : State) (r : Req) (n : Fin 1024) (o : Nat), Quiet s → s.m.lockAdmits n r.mid = true → (s.m.lock n).owner = some o →
    exec (.lckTryRead r n) s = .next (s.put (s.m.answerRead r (if o = r.mid then 5 + r.mid * 65536 else o * 65536)))) ∧
  (∀ (s : State) (r : Req) (n : Fin 1024), Quiet s → s.m.lockAdmits n r.mid = false →
    exec (.lckTryRead r n) s = .next (s.put ((s.m.refuse r.mid (regAddr .LCK_TRY [n]) false false 4).answerRead r 0))) ∧
  (∀ (s : State) (r : Req) (n : Fin 1024), Quiet s → (s.m.lock n).owner = some r.mid → (s.m.lock n).queue = [] →
    exec (.lckTryRelease r n) s = .next (s.put (s.m.putLock n {}))) ∧
  (∀ (s : State) (r : Req) (n : Fin 1024) (w : Waiter) (ws : List Waiter), Quiet s → (s.m.lock n).owner = some r.mid →
    (s.m.lock n).queue = w :: ws →
    exec (.lckTryRelease r n) s = .next (s.put ((s.m.putLock n ⟨some w.mid, false, ws⟩).reply w.cmd
      (okWith [lockState n ⟨some w.mid, false, ws⟩ false false])))) ∧
  (∀ (s : State) (r : Req) (n : Fin 1024), Quiet s → (s.m.lock n).owner ≠ some r.mid →
    exec (.lckTryRelease r n) s = .next (s.put (s.m.refuse r.mid (regAddr .LCK_TRY [n]) true false 3))) ∧
  (∀ (s : State) (r : Req) (n : Fin 1024), s.m.isManager r.mid = true → (s.m.lock n).owner ≠ none → (s.m.lock n).queue = [] →
    ∃ t, exec (.forceRelease r n) s = .next t ∧ t.m.lock n = ⟨none, true, []⟩ ∧ (∀ k, k ≠ n.val → t.m.lock k = s.m.lock k) ∧
      t.m.get F.LCK_CFG_SCOPE [n.val] = s.m.get F.LCK_CFG_SCOPE [n.val]) ∧
  (∀ (s : State) (r : Req) (n : Fin 1024) (w : Waiter) (ws : List Waiter), s.m.isManager r.mid = true →
    (s.m.lock n).owner ≠ none → (s.m.lock n).queue = w :: ws → s.m.isDead w.cmd = false →
    ∃ t, exec (.forceRelease r n) s = .next t ∧ t.m.lock n = ⟨some w.mid, false, ws⟩ ∧ (∀ k, k ≠ n.val → t.m.lock k = s.m.lock k) ∧
      ∃ p, answered t.m p ∧ p.tag = w.cmd.tag ∧ p.src = w.cmd.src ∧ p.status = stBroken) ∧
  (∀ (s : State) (r : Req) (n : Fin 1024), s.m.isManager r.mid = true →
    ∃ t, exec (.lckCfgClear r n) s = .next t ∧ t.m.lock n = {} ∧ (∀ k, k ≠ n.val → t.m.lock k = s.m.lock k)) ∧
  (∀ (s : State) (r : Req) (n : Fin 1024), Quiet s → s.m.isManager r.mid = false →
    exec (.forceRelease r n) s = .next (s.put (s.m.refuse r.mid (regAddr .LCK_CFG [n]) true false 3)) ∧
    exec (.lckCfgClear r n) s = .next (s.put (s.m.refuse r.mid (regAddr .LCK_CFG [n]) true false 3)))

/-- Locks by command (R68, R82, R83): LOCK_ACQUIRE of a FREE, a BROKEN, an own and a held lock, full queues,
LOCK_RELEASE, LOCK_QUERY, LOCK_CONFIG, a waiter whose TIMEOUT_US has passed, and waiters that die. -/
def Obligations.LockCommands : Prop :=
  (∀ (s : State) (c : Cmd), Quiet s → mayRun s.m c 0x0A01 → Cmd.lockNo c < 1024 → s.m.lockAdmits (Cmd.lockNo c) c.mid = true →
    (s.m.lock (Cmd.lockNo c)).owner = none →
    exec (.lockAcquire c) s =
      .next (s.put ((s.m.putLock (Cmd.lockNo c) ⟨some c.mid, false, (s.m.lock (Cmd.lockNo c)).queue⟩).reply (asOp c 0x0A01)
        { status := if (s.m.lock (Cmd.lockNo c)).broken then stBroken else stOk,
          tlvs := [lockState (Cmd.lockNo c) ⟨some c.mid, false, (s.m.lock (Cmd.lockNo c)).queue⟩ false
            (s.m.lock (Cmd.lockNo c)).broken] }))) ∧
  (∀ (s : State) (c : Cmd), Quiet s → mayRun s.m c 0x0A01 → Cmd.lockNo c < 1024 → s.m.lockAdmits (Cmd.lockNo c) c.mid = true →
    (s.m.lock (Cmd.lockNo c)).owner = some c.mid →
    exec (.lockAcquire c) s = .next (s.put (s.m.reply (asOp c 0x0A01)
      (okWith [lockState (Cmd.lockNo c) (s.m.lock (Cmd.lockNo c)) true false])))) ∧
  (∀ (s : State) (c : Cmd) (o : Nat), mayRun s.m c 0x0A01 → Cmd.lockNo c < 1024 → s.m.lockAdmits (Cmd.lockNo c) c.mid = true →
    (s.m.lock (Cmd.lockNo c)).owner = some o → o ≠ c.mid → (s.m.lock (Cmd.lockNo c)).queue.length < 32 → s.m.waiters < 4096 →
    ∃ t, exec (.lockAcquire c) s = .next t ∧ (t.m.lock (Cmd.lockNo c)).owner = some o ∧
      (t.m.lock (Cmd.lockNo c)).queue = (s.m.lock (Cmd.lockNo c)).queue ++ [⟨c.mid, asOp c 0x0A01⟩] ∧
      t.m.replies = s.m.replies ∧ t.m.jxl.outq = s.m.jxl.outq) ∧
  (∀ (s : State) (c : Cmd) (o : Nat), Quiet s → mayRun s.m c 0x0A01 → Cmd.lockNo c < 1024 → s.m.lockAdmits (Cmd.lockNo c) c.mid = true →
    (s.m.lock (Cmd.lockNo c)).owner = some o → o ≠ c.mid → 32 ≤ (s.m.lock (Cmd.lockNo c)).queue.length ∨ 4096 ≤ s.m.waiters →
    exec (.lockAcquire c) s = .next (s.put (s.m.reply (asOp c 0x0A01)
      { status := stNoResource, tlvs := [lockState (Cmd.lockNo c) (s.m.lock (Cmd.lockNo c)) false false] }))) ∧
  (∀ (m : Mod) (n : Nat) (b : Bool) (w : Waiter) (ws : List Waiter), (m.lock n).queue = w :: ws → (m.passLock n b).lock n = ⟨some w.mid, false, ws⟩) ∧
  (∀ (m : Mod) (mid n : Nat) (w : Waiter), w ∈ ((m.breakLocks mid).lock n).queue → w.mid ≠ mid) ∧
  (∀ (m : Mod) (mid : Nat), (m.dropCmds mid).outs = m.outs ∧ (m.dropCmds mid).replies = m.replies ∧ (m.dropCmds mid).jxl = m.jxl ∧
    ∀ e ∈ (m.dropCmds mid).cut.pool, e.cmd.mid = mid → e.cmd.opcode ≠ 0x0A01) ∧
  (∀ (s : State) (c : Cmd), Quiet s → mayRun s.m c 0x0A02 → Cmd.lockNo c < 1024 → (s.m.lock (Cmd.lockNo c)).owner = some c.mid →
    exec (.lockRelease c) s = .next (s.put ((s.m.passLock (Cmd.lockNo c) false).reply (asOp c 0x0A02) {}))) ∧
  (∀ (s : State) (c : Cmd), Quiet s → mayRun s.m c 0x0A02 → Cmd.lockNo c < 1024 → (s.m.lock (Cmd.lockNo c)).owner ≠ some c.mid →
    exec (.lockRelease c) s = .next (s.put ((s.m.refuse c.mid (regAddr .LCK_TRY [Cmd.lockNo c]) true false 3).reply (asOp c 0x0A02)
      { badHeader with late := true }))) ∧
  (∀ (s : State) (c : Cmd), Quiet s → mayRun s.m c 0x0A03 → Cmd.lockNo c < 1024 → s.m.lockAdmits (Cmd.lockNo c) c.mid = true →
    exec (.lockQuery c) s = .next (s.put (s.m.reply (asOp c 0x0A03)
      (okWith [lockState (Cmd.lockNo c) (s.m.lock (Cmd.lockNo c)) ((s.m.lock (Cmd.lockNo c)).owner = some c.mid) false,
        tlv 0x102 (leBytes 4 (s.m.stored .LCK_CFG [Cmd.lockNo c]))])))) ∧
  (∀ (s : State) (c : Cmd) (n v : Nat), Quiet s → mayRun s.m c 0x0A04 [.lock n] →
    (c.all 0x100).map (·.2) = [leBytes 4 n ++ leBytes 4 v] → n < 1024 → v % 4 ≠ 3 → v < 2 ^ 32 →
    exec (.lockConfig c) s = .next (s.put ((s.m.lockConfig c.mid n v).reply (asOp c 0x0A04) {}))) ∧
  (∀ (s : State) (n : Fin 1024) (i : Nat) (w : Waiter), (s.m.lock n).queue[i]? = some w → s.m.isDead w.cmd = false →
    ∃ t, exec (.lockWaitTimeout n i) s = .next t ∧ (t.m.lock n).owner = (s.m.lock n).owner ∧
      (t.m.lock n).queue = (s.m.lock n).queue.eraseIdx i ∧ ∃ p, answered t.m p ∧ p.tag = w.cmd.tag ∧ p.status = stBusy)

/-- Mailboxes by register (R76, R78): the sender's ring, the receiver's clears and masks, payload words by either party in its state of
the channel, and what is turned away. Clauses on the model's choices: log 14. -/
def Obligations.MailboxRegisters : Prop :=
  (∀ (s : State) (r : Req) (c : Fin 64) (v : BitVec 32), Quiet s → r.viaCmd = false → r.mid = s.m.mbxSender c →
    s.m.mbxReceiver c ≠ 0xF000 → v ≠ 0 → s.m.midInReset (s.m.mbxReceiver c) = false → s.m.midFrozen (s.m.mbxReceiver c) = false →
    s.m.flag F.MBX_BIND_ENABLE [c] = true →
    ∃ t, exec (.mbxRingWrite r c v) s = .next t ∧ t.m.get F.MBX_PENDING_BITS [c] = (s.m.get F.MBX_PENDING_BITS [c] ||| v.toNat) ∧
      t.m.get F.MBX_STATUS_STATE [c] = 1 ∧ t.m.get F.MBX_STATUS_LAST_RESULT [c] = stOk ∧
      regsBut [(F.MBX_PENDING_BITS, [c]), (F.MBX_STATUS_STATE, [c]), (F.MBX_STATUS_LAST_RESULT, [c])] s.m t.m ∧
      (s.m.get F.MBX_MASK_BITS [c] = 2 ^ 32 - 1 → t.m.outs = s.m.outs ∧ t.m.msix = s.m.msix)) ∧
  (∀ (s : State) (r : Req) (c : Fin 64) (v : BitVec 32), Quiet s → r.viaCmd = false → r.mid = s.m.mbxSender c → v ≠ 0 →
    s.m.midInReset (s.m.mbxReceiver c) = true →
    exec (.mbxRingWrite r c v) s =
      .next (s.put (((s.m.set F.MBX_STATUS_ABORTED [c] 1).set F.MBX_STATUS_LAST_RESULT [c] stAborted).raiseTx c))) ∧
  (∀ (s : State) (r : Req) (c : Fin 64) (v : BitVec 32), Quiet s → r.viaCmd = false → r.mid = s.m.mbxSender c → v ≠ 0 →
    s.m.midInReset (s.m.mbxReceiver c) = false → s.m.midFrozen (s.m.mbxReceiver c) = true →
    exec (.mbxRingWrite r c v) s =
      .next (s.put ((s.m.set F.MBX_STATUS_REFUSED [c] 1).set F.MBX_STATUS_LAST_RESULT [c] stFrozen))) ∧
  (∀ (s : State) (r : Req) (c : Fin 64) (v : BitVec 32), Quiet s → r.viaCmd = false → r.mid = s.m.mbxReceiver c →
    r.mid ≠ s.m.mbxSender c → s.m.mbxGone.contains c.val = false → s.m.get F.MBX_PENDING_BITS [c] &&& v.toNat ≠ 0 →
    s.m.get F.MBX_PENDING_BITS [c] &&& v.toNat ≠ s.m.get F.MBX_PENDING_BITS [c] →
    exec (.mbxPendingClear r c v) s = .next (s.put (s.m.set F.MBX_PENDING_BITS [c]
      (s.m.get F.MBX_PENDING_BITS [c] - (s.m.get F.MBX_PENDING_BITS [c] &&& v.toNat))))) ∧
  (∀ (s : State) (r : Req) (c : Fin 64) (v : BitVec 32), Quiet s → r.viaCmd = false → r.mid = s.m.mbxReceiver c →
    r.mid ≠ s.m.mbxSender c → s.m.mbxGone.contains c.val = false → s.m.get F.MBX_PENDING_BITS [c] ≠ 0 →
    s.m.get F.MBX_PENDING_BITS [c] &&& v.toNat = s.m.get F.MBX_PENDING_BITS [c] →
    exec (.mbxPendingClear r c v) s =
      .next (s.put (((s.m.set F.MBX_PENDING_BITS [c] 0).set F.MBX_STATUS_STATE [c] 0).raiseTx c))) ∧
  (∀ (s : State) (r : Req) (c : Fin 64) (v : BitVec 32), Quiet s → r.viaCmd = false → r.mid = s.m.mbxReceiver c →
    r.mid ≠ s.m.mbxSender c → s.m.mbxGone.contains c.val = false →
    ∃ t, exec (.mbxMaskWrite r c v) s = .next t ∧ t.m.get F.MBX_MASK_BITS [c] = v.toNat ∧
      regsBut [(F.MBX_MASK_BITS, [c])] s.m t.m ∧
      (s.m.get F.MBX_PENDING_BITS [c] = 0 → t.m.outs = s.m.outs ∧ t.m.msix = s.m.msix)) ∧
  (∀ (s : State) (r : Req) (c w : Fin 64) (v : BitVec 32), Quiet s → r.viaCmd = false → r.mid = s.m.mbxSender c →
    s.m.get F.MBX_STATUS_STATE [c] ≠ 1 →
    exec (.mbxPayloadWrite r c w v) s = .next (s.put (s.m.set F.MBX_PAYLOAD_DATA [c, w] v.toNat))) ∧
  (∀ (s : State) (r : Req) (c w : Fin 64) (v : BitVec 32), Quiet s → r.viaCmd = false → r.mid = s.m.mbxSender c →
    s.m.get F.MBX_STATUS_STATE [c] = 1 →
    exec (.mbxPayloadWrite r c w v) s = .next (s.put ((s.m.set F.MBX_STATUS_REFUSED [c] 1).refuse r.mid
      (regAddr .MBX_PAYLOAD [c, w]) true false 3))) ∧
  (∀ (s : State) (r : Req) (c : Fin 64) (v : BitVec 32), Quiet s → r.viaCmd = false → r.mid ≠ s.m.mbxReceiver c →
    r.mid ≠ s.m.mbxSender c →
    exec (.mbxRingWrite r c v) s = .next (s.put (s.m.refuse r.mid (regAddr .MBX_RING [c]) true false 1)) ∧
    exec (.mbxPendingClear r c v) s = .next (s.put (s.m.refuse r.mid (regAddr .MBX_PENDING [c]) true false 1)) ∧
    exec (.mbxMaskWrite r c v) s = .next (s.put (s.m.refuse r.mid (regAddr .MBX_MASK [c]) true false 1)))

/-- A ring of a command mailbox (R79) and its reply: the command in the payload reaches the Cutter as from the channel's sender; a reply
clears the pending bits and takes the channel back to IDLE. Clauses on the model's choices: log 21. -/
def Obligations.MailboxCommands : Prop :=
  (∀ (s : State) (r : Req) (c : Fin 64) (v : BitVec 32), Quiet s → r.viaCmd = false → r.mid = s.m.mbxSender c →
    s.m.mbxReceiver c = 0xF000 → s.m.get F.MBX_PENDING_BITS [c] = 0 → v ≠ 0 → s.m.flag F.MBX_BIND_ENABLE [c] = true →
    leAt (s.m.mbxBytes c) 8 4 = 256 →
    exec (.mbxRingWrite r c v) s = .next (s.put (Mod.receive
      { (((s.m.set F.MBX_PENDING_BITS [c] v.toNat).set F.MBX_STATUS_STATE [c] 1).set F.MBX_STATUS_LAST_RESULT [c] stOk) with
        mbxGone := s.m.mbxGone.filter (· ≠ c.val) } (.mailbox c) (s.m.mbxSender c) (s.m.mbxBytes c)))) ∧
  (∀ (m : Mod) (c : Cmd) (a : Ans) (ch : Nat), c.src = .mailbox ch → m.isDead c = false →
    (m.reply c a).get F.MBX_PENDING_BITS [ch] = 0 ∧ (m.reply c a).get F.MBX_STATUS_STATE [ch] = 0 ∧
    ∃ r, Answers m c a r ∧ .mbxReply ch r ∈ (m.reply c a).outs ∧
      ∀ w, w < 64 → (m.reply c a).get F.MBX_PAYLOAD_DATA [ch, w] = leAt r.bytes (4 * w) 4) ∧
  (∀ (s : State) (c : Cmd) (ch v : Nat), Quiet s → mayRun s.m c 0x0A05 [.config] →
    (c.all 0x100).map (·.2) = [leBytes 1 ch ++ [0, 0, 0] ++ leBytes 8 v] → ch < 64 → bindOk v = true → v < 2 ^ 55 →
    exec (.mbxBindSet c) s = .next (s.put (Mod.reply { s.m with mbxStored := tput s.m.mbxStored ch v } (asOp c 0x0A05) {}))) ∧
  (∀ (s : State) (c : Cmd), Quiet s → mayRun s.m c 0x0A06 → leAt (c.val 0x100) 0 1 < 64 → leAt (c.val 0x100) 1 1 = 0 →
    exec (.mbxQuery c) s = .next (s.put (s.m.reply (asOp c 0x0A06)
      (okWith [tlv 0x101 (leBytes 8 (s.m.stored .MBX_BIND [leAt (c.val 0x100) 0 1]) ++
        leBytes 8 ((tget s.m.mbxStored (leAt (c.val 0x100) 0 1)).getD 0) ++
        leBytes 4 (s.m.stored .MBX_PENDING [leAt (c.val 0x100) 0 1]) ++ leBytes 4 (s.m.stored .MBX_MASK [leAt (c.val 0x100) 0 1]) ++
        leBytes 4 (s.m.stored .MBX_STATUS [leAt (c.val 0x100) 0 1]) ++
        leBytes 1 (b2n (tget s.m.mbxStored (leAt (c.val 0x100) 0 1)).isSome) ++ List.replicate 11 0)]))))

/-- A command packet at the Cutter (R20, R33, R50, R56, R58, R585): unreadable it is counted and nothing else, faulty or failing its checks
it is answered at once, BUSY before READY, FROZEN and STALE_GENERATION before anything else; and otherwise it waits at the end of the pool. Clauses on the model's choices: log 20. -/
def Obligations.CommandReceipt : Prop :=
  (∀ (s : State) (src : Transport) (bs : List Byte), Quiet s → bs.length < 64 →
    ∃ t, exec (.commandReceived src bs) s = .next t ∧ t.m.cut.pool = s.m.cut.pool ∧ t.m.replies = s.m.replies ∧
      t.m.get F.CUT_DISCARD_HEADER = min (s.m.get F.CUT_DISCARD_HEADER + 1) (2 ^ F.CUT_DISCARD_HEADER.w - 1)) ∧
  (∀ (s : State) (src : Transport) (bs : List Byte) (c : Cmd), Quiet s → parsePacket src (s.m.srcMid src) bs = .bad c →
    exec (.commandReceived src bs) s = .next (s.put (s.m.reply c ((s.m.firstCheck c).getD badHeader)))) ∧
  (∀ (s : State) (src : Transport) (bs : List Byte) (c : Cmd) (a : Ans), Quiet s →
    parsePacket src (s.m.srcMid src) bs = .ok c → c.target = 0xFF → s.m.cmdCheck c = some a →
    exec (.commandReceived src bs) s = .next (s.put (s.m.reply c a))) ∧
  (∀ (s : State) (src : Transport) (bs : List Byte) (c : Cmd), Quiet s →
    parsePacket src (s.m.srcMid src) bs = .ok c → c.target ≠ 0xFF → c.target ≠ s.m.chalk.dir.module → s.m.isManager c.mid = false →
    exec (.commandReceived src bs) s = .next (s.put (s.m.reply c ((s.m.firstCheck { c with inst := 0xFFFF }).getD badHeader)))) ∧
  (∀ (m : Mod) (c : Cmd), m.phase = 5 →
    (m.requesterFrozen c = true → m.firstCheck c = some { status := stFrozen }) ∧
    (m.requesterFrozen c = false → c.inst ≠ 0xFFFF → m.instExists c.inst = true → c.gen ≠ m.instGen c.inst →
      m.firstCheck c = some { status := stStale })) ∧
  (∀ (m : Mod) (c : Cmd), m.phase < 5 → c.opcode ≠ 0x0001 → m.cmdCheck c = some { status := stBusy }) ∧
  (∀ (s : State) (src : Transport) (bs : List Byte) (c : Cmd), Quiet s →
    parsePacket src (s.m.srcMid src) bs = .ok c → c.target = 0xFF → s.m.cmdCheck c = none → c.opcode ≠ 0x000A →
    s.m.poolCount < 1024 →
    exec (.commandReceived src bs) s = .next (s.put { s.m with cut := { s.m.cut with pool := s.m.cut.pool ++ [{ cmd := c }] } })) ∧
  (∀ (src : Transport) (mid : Nat) (bs : List Byte) (c : Cmd), parsePacket src mid bs = .ok c →
    64 ≤ bs.length ∧ leAt bs 0 1 = 1 ∧ bit (leAt bs 1 1) 0 = false ∧ leAt bs 8 4 % 8 = 0 ∧ leAt bs 8 4 ≤ src.limit ∧
      c.mid = mid ∧ c.opcode = leAt bs 2 2 ∧ c.tag = leAt bs 4 2 ∧ c.seq = leAt bs 24 4)

/-- A command starts (R59, R60): at most 32 hold a place; the one chosen, and it alone, leaves the queue, and an ordered one has no
command of its channel before it. Clauses on the model's choices: log 9. -/
def Obligations.CommandStarts : Prop :=
  (∀ (s : State), Quiet s → s.m.jxl.held = [] → 32 ≤ (s.m.cut.pool.filter fun e => decide (e.stage ≠ .queued)).length →
    exec .commandStart s = .next s) ∧
  (∀ (s : State) (e : PoolEntry) (cr pt : List Nat), Quiet s → s.m.jxl.held = [] →
    (s.m.cut.pool.filter fun e => decide (e.stage ≠ .queued)).length < 32 → s.m.grant = some (e, cr, pt) → s.m.foreign e.cmd = false →
    exec .commandStart s = .next (s.put { s.m with cut := { s.m.cut with
      credit := cr, ptr := pt,
      pool := changeFirst (fun x => decide (x.cmd = e.cmd ∧ x.stage = .queued)) (fun x => { x with stage := .executing })
        s.m.cut.pool } })) ∧
  (∀ (f : PoolEntry → PoolEntry) (t : PoolEntry → Bool) (l1 l2 : List PoolEntry) (e : PoolEntry), (∀ x ∈ l1, t x = false) →
    t e = true → changeFirst t f (l1 ++ e :: l2) = l1 ++ f e :: l2) ∧
  (∀ (m : Mod) (e : PoolEntry) (cr pt : List Nat), m.grant = some (e, cr, pt) →
    e.stage = .queued ∧ ∃ l1 l2, m.cut.pool = l1 ++ e :: l2 ∧
      (e.cmd.unordered = false → ∀ x ∈ l1, x.cmd.src ≠ e.cmd.src) ∧
      (e.cmd.unordered = true → ∀ x ∈ l1, x.cmd.src = e.cmd.src → x.stage ≠ .queued)) ∧
  (∀ (s : State) (i : Nat) (e : PoolEntry), Quiet s → s.m.cut.pool[i]? = some e → e.stage = .waiting →
    exec (.objectWaitTimeout i) s = .next (s.put (s.m.reply e.cmd { status := stBusy }))) ∧
  (∀ (s : State) (c : Cmd) (e : PoolEntry), Quiet s → s.m.cmdCheck (asOp c 0x000A) = none →
    (s.m.cut.pool.filter fun e => e.cmd.mid = c.mid && e.cmd.tag = leAt (c.val 0x100) 0 2 && e.cmd.opcode ≠ 0x000A) = [e] →
    e.stage = .queued → s.m.cut.loops = [] →
    exec (.cmdCancel c) s = .next (s.put (((s.m.cancelUndo e.cmd).reply e.cmd
      { status := stAborted, late := true, tlvs := (s.m.cancelUndo e.cmd).cancelTlvs e.cmd }).reply
      (asOp c 0x000A) { late := true, tlvs := [tlv 0x101 ([1, 0, 0, 0] ++ List.replicate 4 0)] }))) ∧
  (∀ (s : State) (c : Cmd), Quiet s → s.m.cmdCheck (asOp c 0x000A) = none →
    (s.m.cut.pool.filter fun e => e.cmd.mid = c.mid && e.cmd.tag = leAt (c.val 0x100) 0 2 && e.cmd.opcode ≠ 0x000A) = [] →
    exec (.cmdCancel c) s = .next (s.put (s.m.reply (asOp c 0x000A) c.bad)))

/-- Stations on the OOB port (R51 to R55): frames counted and ignored, a station learned, a repeated command answered from the cache, a
command still at work counted as a duplicate; frames that collisions stopped; the fallback of PLCA, which the coordinator does not make. Clauses on the model's choices: log 81. -/
def Obligations.OobStations : Prop :=
  (∀ (s : State) (a b : Nat) (e : Fin 65536) (bs : List Byte), Quiet s →
    exec (.oobFrameReceived a b e ⟨false, 0⟩ bs) s = .next (s.put (s.m.countSat F.CUT_OOB_ERR_FCS_ERRORS))) ∧
  (∀ (s : State) (a b : Nat) (e : Fin 65536) (bs : List Byte), Quiet s →
    e.val ≠ 0x88B6 ∨ b ≠ oobMac ∨ s.m.flag F.CUT_CFG_OOB_ENABLE = false → exec (.oobFrameReceived a b e ⟨true, 0⟩ bs) s = .next s) ∧
  (∀ (s : State) (a k : Nat) (bs : List Byte), Quiet s → s.m.flag F.CUT_CFG_OOB_ENABLE = true → 64 ≤ bs.length →
    s.m.cut.stations.find? (fun x => x.2.mac = a) = none → tfree s.m.cut.stations 16 = some k →
    exec (.oobFrameReceived a oobMac 0x88B6 ⟨true, 0⟩ bs) s = .next (s.put (Mod.receive
      { s.m with cut := { s.m.cut with oobUp := true, stations := tput s.m.cut.stations k { mac := a } } }
      (.oob k) (0x3000 + k) bs))) ∧
  (∀ (s : State) (a k : Nat) (st : Station) (r : Reply) (bs : List Byte), Quiet s → s.m.flag F.CUT_CFG_OOB_ENABLE = true →
    64 ≤ bs.length → (s.m.cut.stations.find? fun x => x.2.mac = a) = some (k, st) → tget s.m.cut.stations k = some st →
    st.cache.find? (fun r => decide (r.seq = leAt bs 24 4)) = some r →
    exec (.oobFrameReceived a oobMac 0x88B6 ⟨true, 0⟩ bs) s =
      .next (s.put { s.m with cut := { s.m.cut with oobUp := true }, outs := .oobReply k r :: s.m.outs })) ∧
  (∀ (s : State) (a k : Nat) (st : Station) (bs : List Byte), Quiet s → s.m.flag F.CUT_CFG_OOB_ENABLE = true → 64 ≤ bs.length →
    (s.m.cut.stations.find? fun x => x.2.mac = a) = some (k, st) → tget s.m.cut.stations k = some st →
    st.cache.find? (fun r => decide (r.seq = leAt bs 24 4)) = none →
    (s.m.cut.pool.any fun e => e.cmd.src = .oob k && e.cmd.seq = leAt bs 24 4) = true →
    exec (.oobFrameReceived a oobMac 0x88B6 ⟨true, 0⟩ bs) s =
      .next (s.put (Mod.countSat { s.m with cut := { s.m.cut with oobUp := true } } F.CUT_OOB_ERR_DUPLICATES))) ∧
  (∀ (s : State) (a b : Nat) (e : Fin 65536) (bs : List Byte) (n : Nat), Quiet s → n ≠ 0 →
    (s.m.plcaRuns = false → exec (.oobFrameReceived a b e ⟨false, n⟩ bs) s =
      .next (s.put ((s.m.countSat F.CUT_OOB_ERR_EXCESS_COLLISIONS [] n).countSat F.CUT_OOB_ERR_FCS_ERRORS))) ∧
    (s.m.plcaRuns = true → exec (.oobFrameReceived a b e ⟨false, n⟩ bs) s = .next (s.put (s.m.countSat F.CUT_OOB_ERR_FCS_ERRORS)))) ∧
  (∀ (s : State), Quiet s → s.m.flag F.CUT_OOB_CFG_PLCA_EN = true → s.m.get F.CUT_OOB_CFG_NODE_ID = 0 →
    s.m.plcaBeacons = some (s.m.get F.CUT_OOB_CFG_NODE_COUNT) ∧ exec .plcaBeaconLoss s = .next s) ∧
  (∀ (s : State), Quiet s → s.m.flag F.CUT_OOB_CFG_PLCA_EN = true → s.m.get F.CUT_OOB_CFG_NODE_ID ≠ 0 →
    exec .plcaBeaconLoss s = .next (s.put { s.m with cut := { s.m.cut with plcaFallback := true } }) ∧
    exec .plcaBeaconReturn s = .next (s.put { s.m with cut := { s.m.cut with plcaFallback := false } })) ∧
  (∀ (s : State), Quiet s → s.m.flag F.CUT_OOB_CFG_PLCA_EN = false →
    exec .plcaBeaconLoss s = .next s ∧ exec .plcaBeaconReturn s = .next s)

/-- The death of an owner (R54, R84): a station whose lease ends holds no lock, has no open transaction, and what is left of its commands
executes without a reply; with the OOB link every station goes. -/
def Obligations.OwnerDeath : Prop :=
  (∀ (s : State) (k : Fin 16), tget s.m.cut.stations k ≠ none →
    ∃ t, exec (.oobLeaseExpiry k) s = .next t ∧ tget t.m.cut.stations k = none ∧
      (∀ n, (t.m.lock n).owner ≠ some (0x3000 + k.val)) ∧
      (∀ j x, tget t.m.txns j = some x → x.owner = 0x3000 + k.val → x.state ≠ .opened) ∧
      (∀ e ∈ t.m.cut.pool, e.cmd.mid = 0x3000 + k.val → e.dead = true ∧ e.stage = .executing)) ∧
  (∀ (s : State) (k : Fin 16), Quiet s → tget s.m.cut.stations k = none → exec (.oobLeaseExpiry k) s = .next s) ∧
  (∀ (s : State), ∃ t, exec .oobLinkDown s = .next t ∧ t.m.cut.stations = [] ∧ t.m.cut.oobUp = false ∧
    ∀ k st, (k, st) ∈ s.m.cut.stations → ∀ e ∈ t.m.cut.pool, e.cmd.mid = 0x3000 + k → e.dead = true)

/-- Staged transactions end and are asked for (R67, R74): TXN_ABORT, TXN_QUERY, the idle limit. Clauses on the model's choices: log 23. -/
def Obligations.TransactionEnds : Prop :=
  (∀ (s : State) (c : Cmd) (slot : Nat) (x : Txn), Quiet s → mayRun s.m c 0x0306 → s.m.handle c.txn = .live slot x → x.owner = c.mid →
    x.state = .opened →
    exec (.txnAbort c) s = .next (s.put ((Mod.endTxn { s.m with txns := tput s.m.txns slot { x with named := s.m.ns } }
      slot .aborted 1).reply (asOp c 0x0306) {}))) ∧
  (∀ (s : State) (c : Cmd) (slot : Nat) (x : Txn), Quiet s → mayRun s.m c 0x0307 → s.m.handle c.txn = .live slot x → x.owner = c.mid →
    x.state = .opened →
    exec (.txnQuery c) s = .next (s.put (Mod.reply { s.m with txns := tput s.m.txns slot { x with named := s.m.ns } } (asOp c 0x0307)
      (okWith [tlv 0x102 (leBytes 4 c.txn ++ [0, 0] ++ leBytes 2 x.scope ++ leBytes 4 x.count ++ leBytes 2 x.owner ++ [0, 0])])))) ∧
  (∀ (s : State) (slot : Fin 64) (t : Nat) (x : Txn), Quiet s → tget s.m.txns slot = some x → x.state = .opened →
    s.m.ns ≤ t → x.named + s.m.get F.CUT_CFG_TXN_IDLE_MS * 1000000 ≤ t →
    exec (.txnIdleLimit slot t) s = .next (s.put ((s.m.runToNs t).endTxn slot .aborted 3))) ∧
  (∀ (s : State) (slot : Fin 64) (t : Nat) (x : Txn), Quiet s → tget s.m.txns slot = some x → x.state = .opened →
    s.m.ns ≤ t → t < x.named + s.m.get F.CUT_CFG_TXN_IDLE_MS * 1000000 →
    exec (.txnIdleLimit slot t) s = .next (s.put (s.m.runToNs t))) ∧
  (∀ (m : Mod) (slot : Nat) (x : Txn) (st : TxnState) (n : Nat), tget m.txns slot = some x →
    ∃ y, tget (m.endTxn slot st n).txns slot = some y ∧ y.state = st ∧ y.cause = n ∧ y.ops = [] ∧ y.owner = x.owner)

/-- Reads of the address space (R11 to R14, R31, R571): a refused read is logged with its cause and reads zero; an RC field reads and
clears; a low word latches the high word of its register for its requester, and a high word read without clears what lies in it; the data region reads its bytes; nothing else changes. Clauses on the model's choices: logs 13, 14, 17. -/
def Obligations.RegisterReads : Prop :=
  (∀ (s : State) (r : Req) (addr a c : Nat) (wide : Bool), Quiet s → s.m.phase = 5 → s.m.pageAddr r.mid addr = some a →
    accessFault a (if wide then 8 else 4) = some c →
    exec (.rcFieldRead r addr wide) s = .next (s.put ((s.m.refuse r.mid addr false wide c).answerRead r 0))) ∧
  (∀ (s : State) (r : Req) (addr a : Nat) (wide : Bool) (k : RegKey), Quiet s → s.m.phase = 5 → s.m.pageAddr r.mid addr = some a →
    accessFault a (if wide then 8 else 4) = none → placeAt a = .reg k 0 → k.reg.info.width = (if wide then 64 else 32) →
    mbxRegs.contains k.reg = false → k.reg ≠ .LCK_TRY → k.reg ≠ .TPL_NOW → k.reg ≠ .TPL_NOW_EXT →
    exec (.rcFieldRead r addr wide) s = .next (s.put ((s.m.clearRcOf k).answerRead r (s.m.regView k.reg k.ix)))) ∧
  (∀ (s : State) (r : Req) (addr a : Nat) (k : RegKey), Quiet s → s.m.phase = 5 → s.m.pageAddr r.mid addr = some a →
    accessFault a 4 = none → placeAt a = .reg k 0 → k.reg.info.width = 64 →
    mbxRegs.contains k.reg = false → k.reg ≠ .LCK_TRY → k.reg ≠ .TPL_NOW →
    exec (.rcFieldRead r addr false) s = .next (s.put (((s.m.clearRcOf k).latch r.mid
      [(k.addr, s.m.regView k.reg k.ix / 2 ^ 32)]).answerRead r (s.m.regView k.reg k.ix % 2 ^ 32)))) ∧
  (∀ (s : State) (r : Req) (addr a h : Nat) (k : RegKey), Quiet s → s.m.phase = 5 → s.m.pageAddr r.mid addr = some a →
    accessFault a 4 = none → placeAt a = .reg k 4 → mbxRegs.contains k.reg = false → k.reg ≠ .LCK_TRY →
    (s.m.popLatch r.mid k.addr).1 = some h →
    exec (.rcFieldRead r addr false) s = .next (s.put ((s.m.popLatch r.mid k.addr).2.answerRead r h))) ∧
  (∀ (s : State) (r : Req) (addr : Nat) (wide : Bool), Quiet s → s.m.phase = 5 → s.m.pageAddr r.mid addr = some addr →
    accessFault addr (if wide then 8 else 4) = none → placeAt addr = .mem →
    exec (.rcFieldRead r addr wide) s =
      .next (s.put ((s.m.fgUse [hbmUnit addr]).answerRead r (leNat (memBytes s.mem addr (if wide then 8 else 4)))))) ∧
  (∀ (s : State) (r : Req) (addr a : Nat) (k : RegKey), Quiet s → s.m.phase = 5 → s.m.pageAddr r.mid addr = some a →
    accessFault a 4 = none → placeAt a = .reg k 4 → mbxRegs.contains k.reg = false → k.reg ≠ .LCK_TRY →
    (s.m.popLatch r.mid k.addr).1 = none →
    exec (.rcFieldRead r addr false) s = .next (s.put ((s.m.clearRcOf k 32).answerRead r (s.m.regView k.reg k.ix / 2 ^ 32)))) ∧
  (∀ (m : Mod) (k : RegKey) (f : Fld) (ix : List Nat) (n : Nat),
    (m.clearRcOf k n).get f ix =
      if f.reg = k.reg ∧ ix = k.ix ∧ f.access = .rc ∧ n ≤ f.lo then (FKey.mk f ix).resetVal else m.get f ix) ∧
  (∀ (m : Mod) (mid a h : Nat), ((m.latch mid [(a, h)]).popLatch mid a).1 = some h) ∧
  (∀ (s : State) (r : Req) (t : Nat), r.viaCmd = false → s.m.now ≤ t →
    ∃ t', exec (.tplNowRead r t) s = .next t' ∧ t'.m.now = t ∧
      (t'.m.popLatch r.mid (regAddr .TPL_NOW)).1 = some (secOf t % 2 ^ 32) ∧
      ∀ f, s.m.midFn r.mid = some f → .completion f.ep (time64 t) ∈ t'.m.outs)

/-- Writes of the address space (R8, R11, R14, R31): a refused write is logged and changes nothing else; the data region takes the bytes;
a register takes its RW fields, keeps its RO and RC ones, and clears the W1C bits written 1. Clauses on the model's choices: logs 12, 14. -/
def Obligations.RegisterWrites : Prop :=
  (∀ (s : State) (r : Req) (addr a c : Nat) (wide : Bool) (v : BitVec 64), Quiet s → s.m.phase = 5 →
    s.m.pageAddr r.mid addr = some a → accessFault a (if wide then 8 else 4) = some c →
    exec (.registerWrite r addr wide v) s = .next (s.put (s.m.refuse r.mid addr true wide c))) ∧
  (∀ (s : State) (r : Req) (addr : Nat) (wide : Bool) (v : BitVec 64), Quiet s → s.m.phase = 5 →
    s.m.pageAddr r.mid addr = some addr → accessFault addr (if wide then 8 else 4) = none → placeAt addr = .mem →
    exec (.registerWrite r addr wide v) s = .next { s with
      m := s.m.fgUse [hbmUnit addr],
      mem := memPutBytes s.mem addr (leBytes (if wide then 8 else 4) (v.toNat % 2 ^ (if wide then 64 else 32))) }) ∧
  (∀ (s : State) (r : Req) (addr : Nat) (wide : Bool) (v : BitVec 64), Quiet s → s.m.phase ≠ 5 →
    exec (.registerWrite r addr wide v) s = .next s) ∧
  (∀ (s : State) (r : Req) (v : BitVec 64), Quiet s → s.m.phase = 5 → s.m.isManager r.mid = true →
    exec (.registerWrite r 0x28 false v) s = .next (s.put (((s.m.set F.GLB_ERR_CFG_VECTOR [] (v.toNat % 2 ^ 11)).set
      F.GLB_ERR_CFG_VEC_EN [] (v.toNat / 2 ^ 11 % 2)).set F.GLB_ERR_CFG_CE_THRESH [] (v.toNat / 2 ^ 12 % 2 ^ 16)))) ∧
  (∀ (s : State) (r : Req) (v : BitVec 64), Quiet s → s.m.phase = 5 → s.m.isManager r.mid = false →
    exec (.registerWrite r 0x28 false v) s = .next (s.put (s.m.refuse r.mid 0x28 true false 3))) ∧
  (∀ (s : State) (r : Req) (v : BitVec 64), Quiet s → s.m.phase = 5 → s.m.isManager r.mid = true →
    ∃ t, exec (.registerWrite r 0x20 true v) s = .next t ∧
      t.m.get F.GLB_ERR_STATUS_ACCESS = (if v.toNat.testBit 8 then 0 else s.m.get F.GLB_ERR_STATUS_ACCESS) ∧
      (∀ i, i < 6 → (t.m.get F.GLB_ERR_STATUS_CLASS).testBit i =
        ((s.m.get F.GLB_ERR_STATUS_CLASS).testBit i && !v.toNat.testBit (i + 1)))) ∧
  (∀ (m : Mod) (mid addr cause : Nat) (write wide : Bool), ∃ e, (m.refuse mid addr write wide cause).alog.entries.head? = some e ∧
    e.addr = addr ∧ e.write = write ∧ e.wide = wide ∧ e.mid = mid ∧ e.cause = cause ∧ e.time = time64 m.now ∧
    (m.refuse mid addr write wide cause).alog.count = m.alog.count + 1 ∧
    bit ((m.refuse mid addr write wide cause).get F.GLB_ERR_STATUS_ACCESS) 0 = true)

/-- Requests of a host in a function's BARs (R368, R369, R381, R571): a read outside every open window reads zeros and is logged, one in a
window reads the register behind it, a write through a read-only window is refused, BAR2 writes reach the MSI-X table, and a function that
does not exist is silent. Clauses on the model's choices: log 15. -/
def Obligations.HostWindows : Prop :=
  (∀ (s : State) (f : Fn) (bar2 : Bool) (off n : Nat) (data : Option Nat), Quiet s → s.m.phase ≠ 6 →
    s.m.fnExists f = false ∨ s.m.linkUp f.ep = false → exec (.hostMemoryRequest f bar2 off n data) s = .next s) ∧
  (∀ (s : State) (e off n : Nat) (ro : Bool) (a : Nat), Quiet s → s.m.phase = 5 → s.m.fnExists (pf e) = true →
    s.m.linkUp e = true → s.m.frozen (pf e) = false → s.m.fnInReset (pf e) = false → s.m.window (pf e) off = (false, ro, a) →
    exec (.hostMemoryRequest (pf e) false off n none) s =
      .next (s.put ((s.m.refuse ((s.m.fnMid (pf e)).getD 0) a false (n = 8) 5).emit (.completion e 0)))) ∧
  (∀ (s : State) (e off n : Nat) (ro : Bool) (a : Nat), Quiet s → s.m.phase = 5 → s.m.fnExists (pf e) = true →
    s.m.linkUp e = true → s.m.frozen (pf e) = false → s.m.fnInReset (pf e) = false → s.m.window (pf e) off = (true, ro, a) →
    exec (.hostMemoryRequest (pf e) false off n none) s =
      .next (s.put ((s.m.readAt s.mem ⟨(s.m.fnMid (pf e)).getD 0, false⟩ a n).2.emit
        (.completion e (s.m.readAt s.mem ⟨(s.m.fnMid (pf e)).getD 0, false⟩ a n).1)))) ∧
  (∀ (s : State) (e off n v a : Nat), Quiet s → s.m.phase = 5 → s.m.fnExists (pf e) = true →
    s.m.linkUp e = true → s.m.frozen (pf e) = false → s.m.fnInReset (pf e) = false → s.m.window (pf e) off = (true, true, a) →
    exec (.hostMemoryRequest (pf e) false off n (some v)) s =
      .next (s.put (s.m.refuse ((s.m.fnMid (pf e)).getD 0) a true (n = 8) 5))) ∧
  (∀ (s : State) (f : Fn) (off n : Nat), Quiet s → s.m.phase ≠ 6 → s.m.fnExists f = true → s.m.linkUp f.ep = true →
    s.m.frozen f = true →
    exec (.hostMemoryRequest f true off n none) s =
      .next (s.put ((s.m.selCount f.ep 5).emit (.completion f.ep (2 ^ (8 * n) - 1))))) ∧
  (∀ (s : State) (e off v : Nat), Quiet s → s.m.phase = 5 → s.m.fnExists (pf e) = true → s.m.linkUp e = true →
    s.m.frozen (pf e) = false → s.m.fnInReset (pf e) = false → off % 4 = 0 →
    exec (.hostMemoryRequest (pf e) true off 4 (some v)) s = .next (s.put (s.m.bar2Write (pf e) 0x8000 off 4 v)))

/-- REG_READ and REG_WRITE (R66): each TLV's reads and writes one after another, as accesses of the requester; what is read goes back in
the reply, and writes made and refused are counted there. Clauses on the model's choices: logs 12, 16. -/
def Obligations.RegisterCommands : Prop :=
  (∀ (s : State) (c : Cmd) (p : Nat) (v : List Byte), mayRun s.m c 0x0004 → s.m.fit.pend = [] → c.all 0x100 = [(p, v)] →
    c.buffer = none → c.tlv 3 = none → (regRun v).width = 4 → (regRun v).addr % 4 = 0 → (regRun v).count = 1 → (regRun v).stride = 4 →
    (s.m.readAt s.mem ⟨c.mid, true⟩ (regRun v).addr 4).2.fit.pend = [] →
    exec (.regRead c) s = .next (s.put ((s.m.readAt s.mem ⟨c.mid, true⟩ (regRun v).addr 4).2.reply (asOp c 0x0004)
      (okWith [tlv 0x101 (leBytes 4 (s.m.readAt s.mem ⟨c.mid, true⟩ (regRun v).addr 4).1)])))) ∧
  (∀ (s : State) (c : Cmd) (p : Nat) (v : List Byte), Quiet s → mayRun s.m c 0x0004 → c.all 0x100 = [(p, v)] →
    (regRun v).aligned = false → exec (.regRead c) s = .next (s.put (s.m.reply (asOp c 0x0004) (badTlv p 2)))) ∧
  (∀ (s : State) (c : Cmd) (p : Nat) (v : List Byte) (m : Mod) (mem : List Host.Cell), mayRun s.m c 0x0005 →
    c.all 0x100 = [(p, v)] → (regRun v).width = 4 → (regRun v).addr % 4 = 0 → (regRun v).count = 1 → (regRun v).stride = 4 →
    v.length = 20 → s.m.writeAt s.mem ⟨c.mid, true⟩ (regRun v).addr 4 (leAt (v.drop 16) 0 4) = (m, mem) → m.fit.pend = [] →
    exec (.regWrite c) s = .next { s with mem := mem, m := (m.reply (asOp c 0x0005) (okWith [tlv 0x102
      (if m.alog.count = s.m.alog.count then [1, 0, 0, 0, 0, 0, 0, 0] else [0, 0, 0, 0, 1, 0, 0, 0])])) }) ∧
  (∀ (s : State) (c : Cmd) (p : Nat) (v : List Byte), Quiet s → mayRun s.m c 0x0005 → c.all 0x100 = [(p, v)] →
    (regRun v).aligned = false → exec (.regWrite c) s = .next (s.put (s.m.reply (asOp c 0x0005) (badTlv p 2))))

/-- The logs (R567, R568, R570, R572): an entry waits in the queue and is written in its turn with the next SEQ; a full queue loses it and
counts; reading a log by command gives the entries asked for, oldest first; reading the access-error log with CLEAR empties it. Clauses on the model's choices: log 79. -/
def Obligations.Logs : Prop :=
  (∀ (m : Mod) (cls code src : Nat) (d : List Byte), m.logq.queue.length < 1024 →
    m.queueLog cls code src d = { m with logq := { m.logq with queue := m.logq.queue ++
      [{ time := m.now, boot := m.chalk.boot, cls := cls, code := code, traceable := m.flag F.TPL_STATE_TRACEABLE, source := src,
         detail := d.take 24 }] } }) ∧
  (∀ (m : Mod) (cls code src : Nat) (d : List Byte), 1024 ≤ m.logq.queue.length →
    (m.queueLog cls code src d).logq.queue = m.logq.queue ∧
    (m.queueLog cls code src d).get F.GLB_LOG_STATUS_LOST =
      min (m.get F.GLB_LOG_STATUS_LOST + 1) (2 ^ F.GLB_LOG_STATUS_LOST.w - 1) ∧
    bit ((m.queueLog cls code src d).get F.GLB_ERR_STATUS_LOG_LOST) 0 = true) ∧
  (∀ (m : Mod) (e : LogEntry) (es : List LogEntry), m.logq.queue = e :: es → m.logq.lostErrors = 0 → m.logq.lostEvents = 0 →
    m.logStitch.logq.queue = es ∧
    (16 ≤ e.cls → m.logStitch.chalk.logs.eventSeq = m.chalk.logs.eventSeq + 1 ∧
      m.logStitch.chalk.logs.events.head? = some { e with seq := m.chalk.logs.eventSeq } ∧
      m.logStitch.chalk.logs.errors = m.chalk.logs.errors) ∧
    (e.cls < 16 → m.logStitch.chalk.logs.errorSeq = m.chalk.logs.errorSeq + 1 ∧
      m.logStitch.chalk.logs.errors.head? = some { e with seq := m.chalk.logs.errorSeq } ∧
      m.logStitch.chalk.logs.events = m.chalk.logs.events)) ∧
  (∀ (s : State) (c : Cmd) (e : LogEntry), Quiet s → mayRun s.m c 0x000B → s.m.chalk.logs.events = [e] →
    s.m.chalk.logs.eventSeq = e.seq + 1 → leAt (c.val 0x100) 0 8 = e.seq → leAt (c.val 0x100) 8 4 = 1 → c.buffer = none → c.tlv 3 = none →
    exec (.eventLogRead c) s = .next (s.put ((s.m.fgUse [64]).reply (asOp c 0x000B)
      (okWith [tlv 0x101 (leBytes 8 e.seq ++ leBytes 8 e.seq ++ leBytes 8 1), tlv 0x102 e.bytes])))) ∧
  (∀ (s : State) (c : Cmd) (e : LogEntry), Quiet s → mayRun s.m c 0x0905 → s.m.chalk.logs.errors = [e] →
    s.m.chalk.logs.errorSeq = e.seq + 1 → leAt (c.val 0x100) 0 8 = e.seq → leAt (c.val 0x100) 8 4 = 1 → c.buffer = none → c.tlv 3 = none →
    exec (.errLogRead c) s = .next (s.put ((s.m.fgUse [64]).reply (asOp c 0x0905)
      (okWith [tlv 0x101 (leBytes 8 e.seq ++ leBytes 8 e.seq ++ leBytes 8 1), tlv 0x102 e.bytes])))) ∧
  (∀ (s : State) (c : Cmd), Quiet s → mayRun s.m c 0x000B →
    leAt (c.val 0x100) 8 4 ≠ 0 → leAt (c.val 0x100) 8 4 ≤ 65536 → s.m.chalk.logs.eventSeq ≤ leAt (c.val 0x100) 0 8 →
    exec (.eventLogRead c) s = .next (s.put (s.m.reply (asOp c 0x000B) (badTlv (c.pos 0x100) 1)))) ∧
  (∀ (s : State) (c : Cmd), Quiet s → mayRun s.m c 0x0906 →
    ∃ t n, exec (.accessLogRead c) s = .next t ∧ t.m.alog.seen = s.m.alog.count ∧ t.m.alog.count = s.m.alog.count ∧
      t.m.alog.entries = (if bit (leAt (c.val 0x102) 0 4) 0 then [] else s.m.alog.entries) ∧
      ∃ p, answered t.m p ∧ p.tag = c.tag ∧ p.status = stOk ∧
        p.tlvs.head? = some (tlv 0x101 (leBytes 4 (min n s.m.alog.entries.length) ++ leBytes 4 0 ++ leBytes 8 s.m.alog.overwritten ++
          (s.m.alog.entries.take n).reverse.flatMap AccessEntry.bytes))) ∧
  (∀ (e : LogEntry), e.bytes.length = 64)

/-- The Fitting's slots and triggers (R575, R577, R580, R581): arming, disarming and reading by command, and what makes a trigger fire: the
register, the command, the time of a slot. Clauses on the model's choices: log 49. -/
def Obligations.FittingCommands : Prop :=
  (∀ (s : State) (c : Cmd) (n src param ns w : Nat), Quiet s → mayRun s.m c 0x0901 → leAt (c.val 0x100) 0 1 = n →
    leAt (c.val 0x100) 1 1 = src → leAt (c.val 0x100) 4 4 = param → leAt (c.val 0x100) 16 4 = ns →
    leAt (c.val 0x100) 8 6 * 1000000000 + ns = w → n < 8 → tget s.m.fit.slots n = none → 2 ≤ src → src ≤ 5 →
    (src = 2 → param % 2 = 0 ∧ param < 128) → (src = 3 → param < 24 ∧ s.m.pinFunc param = some 3) →
    (src = 5 → ns % 8 = 0 ∧ ns < 1000000000 ∧ s.m.ns + 100000 ≤ w ∧
      (s.m.flag F.TPL_LOSS_POLICY_FIT = false ∨ s.m.flag F.TPL_STATE_TRACEABLE = true)) →
    exec (.fitArm c) s = .next (s.put (Mod.reply { s.m with fit := { s.m.fit with slots := tput s.m.fit.slots n (⟨src, bit (leAt (c.val 0x100) 2 1) 0, bit (leAt (c.val 0x100) 2 1) 1, param,
        if src = 5 then w else 0⟩) } } (asOp c 0x0901) {}))) ∧
  (∀ (s : State) (c : Cmd) (n : Nat) (x : FitSlot), Quiet s → mayRun s.m c 0x0901 → leAt (c.val 0x100) 0 1 = n → n < 8 →
    leAt (c.val 0x100) 1 1 = 4 → tget s.m.fit.slots n = some x →
    exec (.fitArm c) s = .next (s.put (s.m.reply (asOp c 0x0901) (badTlv (c.pos 0x100) 1)))) ∧
  (∀ (s : State) (c : Cmd) (n : Nat) (x : FitSlot), Quiet s → mayRun s.m c 0x0904 → leAt (c.val 0x100) 0 1 = n → n < 8 →
    tget s.m.fit.slots n = some x →
    exec (.fitDisarm c) s = .next (s.put (Mod.reply { s.m with fit := { s.m.fit with slots := tdel s.m.fit.slots n } }
      (asOp c 0x0904) {}))) ∧
  (∀ (s : State) (c : Cmd) (n k a : Nat), Quiet s → mayRun s.m c 0x0903 → leAt (c.val 0x100) 0 1 = n → n < 2 →
    leAt (c.val 0x100) 4 4 = k → 0 < k → k ≤ 14 → leAt (c.val 0x100) 8 8 = a → a % 8 = 0 →
    (s.m.fit.bank n).full = true → c.buffer = none →
    exec (.fitRead c) s = .next (s.put (Mod.reply
      (if bit (leAt (c.val 0x100) 1 1) 0 then { s.m with fit := s.m.fit.putBank n { s.m.fit.bank n with full := false } } else s.m)
      (asOp c 0x0903) (okWith [tlv 0x101 ((s.m.fit.bank n).header n s.m.chalk.boot),
        tlv 0x102 ((List.range k).flatMap fun i => leBytes 8 ((s.m.fit.bank n).slot (a + 8 * i)))])))) ∧
  (∀ (s : State) (c : Cmd), Quiet s → mayRun s.m c 0x0903 → leAt (c.val 0x100) 0 1 < 2 → leAt (c.val 0x100) 4 4 ≠ 0 →
    leAt (c.val 0x100) 4 4 ≤ 65536 → leAt (c.val 0x100) 8 8 % 8 = 0 → (s.m.fit.bank (leAt (c.val 0x100) 0 1)).full = false →
    exec (.fitRead c) s = .next (s.put (s.m.reply (asOp c 0x0903) (badTlv (c.pos 0x100) 1)))) ∧
  (∀ (s : State) (r : Req) (clear : Bool), Quiet s → s.m.isManager r.mid = true →
    ∃ m, m = (s.m.trigger ⟨0, none, clear, 0, 0, false⟩).fire ⟨0, none, clear, 0, 0, false⟩ ∧
      exec (.fitFire r clear) s = .next (s.put { m with fit := { m.fit with pend := [] } })) ∧
  (∀ (s : State) (r : Req) (clear : Bool), Quiet s → s.m.isManager r.mid = false →
    exec (.fitFire r clear) s = .next (s.put (s.m.refuse r.mid (regAddr .FIT_FIRE) true false 3))) ∧
  (∀ (s : State) (n : Fin 8) (x : FitSlot), Quiet s → tget s.m.fit.slots n = some x → x.source = 5 → s.m.fit.lastFire = none →
    s.m.fit.bank0.full = false → s.m.now ≤ x.whenNs * nsUnit →
    ∃ t, exec (.fitTaiTrigger n) s = .next t ∧ tget t.m.fit.slots n = none ∧ t.m.fit.bank0.full = true ∧
      t.m.fit.bank0.fireTime = x.whenNs ∧ t.m.fit.bank0.slots = 2 ^ n.val ∧ t.m.fit.bank0.sources = 2 ^ 5) ∧
  (∀ (s : State) (c : Cmd), mayRun s.m c 0x0902 → s.m.fit.pend = [] → leAt (c.val 0x100) 0 1 = 0 → s.m.fit.lastFire = none →
    s.m.fit.bank0.full = false →
    ∃ t, exec (.fitTrigger c) s = .next t ∧ t.m.fit.bank0.full = true ∧ t.m.fit.bank0.tag = leAt (c.val 0x100) 4 4 ∧
      t.m.fit.snapSeq = s.m.fit.snapSeq + 1 ∧
      ∃ p, answered t.m p ∧ p.tag = c.tag ∧ p.status = stOk ∧ p.tlvs.head? = some (tlv 0x101 (leBytes 4 ((s.m.fit.snapSeq + 1) % 2 ^ 32))))

/-- A firing (R575, R578): it takes a FREE bank and the whole snapshot with it, joins the firing of the last 100 ns, replaces the older
bank under KEEP 0, and is counted missed under KEEP 1 with both banks full. -/
def Obligations.FittingFires : Prop :=
  (∀ (m : Mod) (p : FitPend) (ft : Nat), m.fit.bank0.full = false → p.slot = none →
    (m.fireNew p ft).fit.bank0.full = true ∧ (m.fireNew p ft).fit.bank0.vals = m.snapshot ∧
    (m.fireNew p ft).fit.bank0.fireTime = ft ∧ (m.fireNew p ft).fit.newer = 0 ∧ (m.fireNew p ft).fit.bank1 = m.fit.bank1 ∧
    (m.fireNew p ft).fit.snapSeq = m.fit.snapSeq + 1) ∧
  (∀ (m : Mod) (p : FitPend) (ft : Nat), m.fit.bank0.full = true → m.fit.bank1.full = true → m.flag F.FIT_CFG_KEEP = true →
    p.slot = none → m.fireNew p ft = m.countSat F.FIT_STATUS_MISSED) ∧
  (∀ (m : Mod) (p : FitPend) (ft : Nat), m.fit.bank0.full = true → m.fit.bank1.full = true → m.flag F.FIT_CFG_KEEP = false →
    m.fit.newer = 0 → p.slot = none →
    (m.fireNew p ft).fit.bank0 = m.fit.bank0 ∧ (m.fireNew p ft).fit.newer = 1 ∧ (m.fireNew p ft).fit.bank1.vals = m.snapshot) ∧
  (∀ (m : Mod) (p : FitPend) (last b : Nat), m.fit.lastFire = some (last, b) → last ≤ m.fireTime p →
    ceilDiv m.now nsUnit ≤ last + 100 → (m.fit.bank b).full = true → m.fire p = m.fireJoin p b) ∧
  (∀ (m : Mod) (p : FitPend) (f : Fld) (ix : List Nat), m.fit.bank0.full = false → p.clear = true → p.slot = none → f.access = .rc →
    (m.fireNew p 0).get f ix = (FKey.mk f ix).resetVal) ∧
  (∀ (m : Mod) (p : FitPend) (f : Fld) (ix : List Nat), f.access ≠ .rc → f ≠ F.FIT_STATUS_MISSED → (m.fire p).get f ix = m.get f ix) ∧
  (∀ (m : Mod) (r : Reg) (ix : List Nat), r.hasRc = true ∨ r ∈ snapStatus → ix ∈ allIx r.info.dims → m.view r ix ≠ 0 →
    r ∈ Reg.all → ((RegKey.mk r ix).addr, m.view r ix) ∈ m.snapshot)

/-- The pins (R556 to R558): an edge of a pad is sampled and, where it is selected, recorded and reported; a change of function goes
through a hold, in which the pin keeps its level, and ends with the take-over, which answers the command. -/
def Obligations.Pins : Prop :=
  (∀ (s : State) (p : Fin 24) (level : Bool),
    ∃ t, exec (.pinInputEdge p level) s = .next t ∧
      ∀ q, q < 24 → bit (t.m.get F.PIN_STATUS_IN) q = if q = p.val then level else bit (s.m.get F.PIN_STATUS_IN) q) ∧
  (∀ (s : State) (p : Fin 24), s.m.pinFunc p = some 0 → s.m.get F.PIN_CFG_EDGE [p.val] % 2 = 1 → bit (s.m.get F.PIN_STATUS_IN) p = false →
    ∃ t, exec (.pinInputEdge p true) s = .next t ∧ bit (t.m.get F.PIN_EDGE_EDGE) p = true) ∧
  (∀ (s : State) (p : Fin 24) (level : Bool), Quiet s → s.m.get F.PIN_CFG_EDGE [p.val] = 0 →
    ∃ t, exec (.pinInputEdge p level) s = .next t ∧ t.m.get F.PIN_EDGE_EDGE = s.m.get F.PIN_EDGE_EDGE ∧ t.m.outs = s.m.outs) ∧
  (∀ (s : State) (c : Cmd) (q p v : Nat), Quiet s → mayRun s.m c 0x0009 [.pin p] → c.all 0x100 = [(q, leBytes 4 p ++ leBytes 4 v)] →
    p < 24 → pinCfgOk p v = true → v < 2 ^ 32 → v % 16 ≠ s.m.get F.PIN_CFG_FUNC [p] →
    s.m.get F.PIN_CFG_FUNC [p] ≠ 2 → s.m.get F.PIN_CFG_FUNC [p] ≠ 3 →
    exec (.pinFunctionSet c) s = .next (s.put (Mod.place { s.m with holds := tput s.m.holds p (⟨v, (s.m.pinDrive p).getD
      (bit (s.m.get F.PIN_STATUS_IN) p), some (asOp c 0x0009), s.m.nextStitch⟩) }
      (asOp c 0x0009) .executing [.pin p]))) ∧
  (∀ (s : State) (c : Cmd) (q p v : Nat), Quiet s → mayRun s.m c 0x0009 [.pin p] → c.all 0x100 = [(q, leBytes 4 p ++ leBytes 4 v)] →
    p < 24 → pinCfgOk p v = true → v < 2 ^ 32 → s.m.get F.PIN_CFG_FUNC [p] = v % 16 →
    exec (.pinFunctionSet c) s = .next (s.put (((s.m.setStored .PIN_CFG [p] v).pinDriveOut p).reply (asOp c 0x0009) {}))) ∧
  (∀ (s : State) (p : Fin 24) (inputs : BitVec 24) (h : Hold), s.m.holds = [(p.val, h)] →
    ∃ t, exec (.pinTakeover p inputs) s = .next t ∧ t.m.holds = [] ∧ h.s0 + 8192 ≤ t.m.ns ∧
      t.m.get F.PIN_CFG_FUNC [p.val] = h.cfg % 16 ∧
      bit (t.m.get F.PIN_STATUS_IN) p = bit inputs.toNat p ∧
      ∀ c, h.cmd = some c → s.m.isDead c = false → ∃ r, answered t.m r ∧ r.tag = c.tag ∧ r.status = stOk)

/-- The Stitch wheel (R97, R98, R102, R103, R106 to R109): a bank is checked when it is applied and becomes active at the turn boundary;
the factory tables pass; at each boundary a unit goes to whom its table and the requests say, and foreground that waited is counted. Clauses on the model's choices: log 71. -/
def Obligations.StitchWheel : Prop :=
  (∀ (s : State) (r : Req) (u : Fin 154), Quiet s → s.m.isManager r.mid = true → stwCheck u (s.m.stwShadow u) = 0 →
    exec (.stwApply r u) s = .next (s.put (Mod.set { (s.m.set F.STW_UNIT_CTL_REJECT [u] 0) with
      wheel := { s.m.wheel with pending := tput s.m.wheel.pending u (s.m.stwShadow u) } } F.STW_UNIT_CTL_APPLY [u] 1))) ∧
  (∀ (s : State) (r : Req) (u : Fin 154), Quiet s → s.m.isManager r.mid = true → stwCheck u (s.m.stwShadow u) ≠ 0 →
    exec (.stwApply r u) s = .next (s.put (s.m.set F.STW_UNIT_CTL_REJECT [u] (stwCheck u (s.m.stwShadow u))))) ∧
  (∀ (s : State) (r : Req) (u : Fin 154), Quiet s → s.m.isManager r.mid = false →
    exec (.stwApply r u) s = .next (s.put (s.m.refuse r.mid (regAddr .STW_UNIT_CTL [u]) true false 3))) ∧
  (∀ (u : Nat) (t : List Nat), stwCheck u t = 0 ↔ t.all (stwValid (stwKind u)) = true ∧ (∀ c ∈ stwRequired (stwKind u), c ∈ t) ∧
    bgRun (t ++ t) 0 0 ≤ 16 ∧ stwLeastFg (stwKind u) ≤ t.countP (· = 0)) ∧
  (∀ (u : Fin 154), stwCheck u ((List.range 256).map (stwFactory u)) = 0) ∧
  (∀ (s : State) (t : Nat), Quiet s → wheelIdle s.m → t % 32 = 0 → s.m.ns ≤ t → t % 8192 ≠ 0 →
    (s.m.wheel.realign = true → s.m.wheel.tail ≤ t) → exec (.stitchBoundary t []) s =
      .next (s.put { (s.m.runToNs t) with wheel := { s.m.wheel with holder := [], realign := false, cur := t / 32 } })) ∧
  (∀ (s : State) (t : Nat) (us : List UnitStitch), Quiet s → t % 32 = 0 → s.m.ns ≤ t → s.m.wheel.realign = true →
    t < s.m.wheel.tail → exec (.stitchBoundary t us) s = .next (s.put (s.m.runToNs t))) ∧
  (∀ (s : State) (t u : Nat) (tab : List Nat), wheelIdle s.m → t % 8192 = 0 → s.m.ns ≤ t →
    (s.m.wheel.realign = true → s.m.wheel.tail ≤ t) → s.m.wheel.pending = [(u, tab)] →
    ∃ t', exec (.stitchBoundary t []) s = .next t' ∧ t'.m.stwTable u = tab ∧ t'.m.wheel.pending = [] ∧
      t'.m.get F.STW_UNIT_CTL_APPLY [u] = 0 ∧
      t'.m.get F.STW_UNIT_CTL_ACTIVE_BANK [u] = (1 - s.m.get F.STW_UNIT_CTL_ACTIVE_BANK [u]) % 2 ^ F.STW_UNIT_CTL_ACTIVE_BANK.w) ∧
  (∀ (kind own : Nat) (fg borrow lend : Bool) (bg : List Nat),
    (own = 0 → fg = true → stitchGrant kind own fg borrow lend bg = .foreground) ∧
    (own = 0 → fg = false → borrow = false → stitchGrant kind own fg borrow lend bg = .nobody) ∧
    (own ≠ 0 → own ∈ bg → stitchGrant kind own fg borrow lend bg = .background own) ∧
    (own ≠ 0 → own ∉ bg → fg = true → lend = true → stitchGrant kind own fg borrow lend bg = .nobody) ∧
    (bg = [] → own ≠ 0 ∨ fg = false → stitchGrant kind own fg borrow lend bg = .nobody)) ∧
  (∀ (s : State) (t c r : Nat) (u : Fin 154), Quiet s → wheelIdle s.m → s.m.wheel.realign = false → t % 32 = 0 → s.m.ns ≤ t →
    t % 8192 ≠ 0 → s.m.stwOwner u t = c → 0 < c → exec (.stitchBoundary t [{ unit := u, bg := [(c, r)] }]) s =
      .next (s.put { (s.m.runToNs t) with wheel := { s.m.wheel with
        holder := [(u.val, c)], cur := t / 32, rr := tput s.m.wheel.rr (8 * u + c) r } })) ∧
  (∀ (s : State) (t a c : Nat) (u : Fin 154), wheelIdle s.m → s.m.wheel.realign = false → t % 32 = 0 → s.m.ns ≤ t → t % 8192 ≠ 0 →
    a < t → a / 32 = s.m.wheel.cur → tget s.m.wheel.holder u.val = some c → s.m.stwOwner u t = 0 →
    ∃ t', exec (.stitchBoundary t [{ unit := u, fg := [a] }]) s = .next t' ∧ t'.m.wheel.waits = [] ∧ t'.m.wheel.holder = [] ∧
      t'.m.get F.STW_STATS_FG_DELAYED [u] = min (s.m.get F.STW_STATS_FG_DELAYED [u] + 1) (2 ^ F.STW_STATS_FG_DELAYED.w - 1) ∧
      t'.m.get F.STW_STATS_MAX_WAIT [u] = max (s.m.get F.STW_STATS_MAX_WAIT [u]) (min ((t - a) / 4) 0xFF)) ∧
  (∀ (s : State) (t : Nat) (u : Fin 154), wheelIdle s.m → s.m.wheel.realign = false → t % 32 = 0 → s.m.ns ≤ t → t % 8192 ≠ 0 →
    s.m.stwOwner u t ≠ 0 → s.m.flag F.STW_CFG_LEND_EN = true → tget s.m.wheel.lent u.val ≠ some (t / 32) →
    ∃ t', exec (.stitchBoundary t [{ unit := u, fg := [t] }]) s = .next t' ∧ t'.m.wheel.waits = [] ∧ t'.m.wheel.holder = [] ∧
      t'.m.get F.STW_STATS_LENT [u] = min (s.m.get F.STW_STATS_LENT [u] + 1) (2 ^ F.STW_STATS_LENT.w - 1))

/-- The input and the start and end of power (R541, R542, R548, R550, R569): what the loss of power leaves, what a thermal trip writes
last, and when power comes back. Clauses on the model's choices: log 75. -/
def Obligations.PowerLossAndReturn : Prop :=
  (∀ (s : State) (low : Nat), Quiet s → s.m.powered = false → (s.m.tripped = false ∨ 100 ≤ low) →
    exec (.inputValid low) s = .next (s.put { s.m with powered := true, tripped := false })) ∧
  (∀ (s : State) (low : Nat), Quiet s → s.m.powered = true ∨ (s.m.tripped = true ∧ low < 100) →
    exec (.inputValid low) s = .next s) ∧
  (∀ (s : State), s.m.powered = true →
    ∃ t, exec (.powerLoss false) s = .next t ∧ t.m.chalk = s.m.chalk ∧ t.m.powered = false ∧ t.m.regs = [] ∧ t.m.cut = {} ∧ t.mem = [] ∧
      (∀ k, k < 12 → s.m.bobState k ≠ 0 → .laser k false ∈ t.m.outs) ∧ (∀ e, e < 32 → s.m.linkUp e = true → .linkDrop e ∈ t.m.outs)) ∧
  (∀ (s : State), s.m.powered = true →
    ∃ t e, exec (.powerLoss true) s = .next t ∧ t.m.powered = false ∧ t.mem = [] ∧ t.m.chalk.logs.errors.head? = some e ∧
      e.cls = 4 ∧ e.code = 3 ∧ e.time = s.m.now) ∧
  (∀ (s : State), s.m.powered = true →
    ∃ t e, exec .thermalTrip s = .next t ∧ t.m.powered = false ∧ t.m.tripped = true ∧ t.m.regs = [] ∧ t.mem = [] ∧
      t.m.chalk.logs.errors.head? = some e ∧ e.cls = 4 ∧ e.code = 2 ∧ e.time = s.m.now) ∧
  (∀ (s : State) (ride : Bool), Quiet s → s.m.powered = false →
    exec (.powerLoss ride) s = .next { s with mem := [] } ∧ exec .thermalTrip s = .next s)

/-- Bands, gates and their lifting (R544, R545, R546, R547, R550): a band's limits, entering one, the cause that lifts a gate and its
instant, an engine's own heat. Clauses on the model's choices: log 74. -/
def Obligations.PowerBands : Prop :=
  (∀ v, 9000 ≤ v → bandLow (bandOf v) ≤ v ∧ ∀ b, b < bandOf v → v < bandLow b) ∧
  (∀ (s : State) (b t : Nat), Quiet s → s.m.get F.PWR_INPUT_BAND = b → 0 < b → s.m.pwr.riseFrom = some t →
    exec .bandRise s = .next (s.put (Mod.riseMark (Mod.enterBand (s.m.runToNs (t + 1000000000)) (b - 1)) (s.m.get F.PWR_INPUT_VIN_MV)))) ∧
  (∀ (s : State), Quiet s → s.m.get F.PWR_INPUT_BAND = 0 ∨ s.m.pwr.riseFrom = none → exec .bandRise s = .next s) ∧
  (∀ (m : Mod) (v : Nat), ((m.riseMark v).pwr.riseFrom = none ↔ m.get F.PWR_INPUT_BAND = 0 ∨ v < bandLow (m.get F.PWR_INPUT_BAND - 1) + 1000) ∧
    (m.pwr.riseFrom = none → m.get F.PWR_INPUT_BAND ≠ 0 → bandLow (m.get F.PWR_INPUT_BAND - 1) + 1000 ≤ v → (m.riseMark v).pwr.riseFrom = some m.ns)) ∧
  (∀ (m : Mod) (b : Nat), b < 8 → (m.enterBand b).get F.PWR_INPUT_BAND = b ∧
    (m.enterBand b).get F.PWR_GATE_STATUS_OE_CEILING = bandCeiling b ∧ (m.enterBand b).get F.PWR_INPUT_BAND_EVENT = 1) ∧
  (∀ (s : State) (k : Nat), s.m.nextLift (·.band) = some k →
    exec (.gateLift 0) s = .next (s.ends (Mod.lifted (Mod.gateTo (s.m.runToNs s.m.pwr.liftAt) k fun g => { g with band := false }) 0))) ∧
  (∀ (s : State) (k t : Nat), s.m.nextLift (·.cap) = some k → s.m.pwr.lowFrom = some t →
    exec (.gateLift 1) s = .next (s.ends (Mod.lifted (Mod.gateTo (s.m.runToNs (max (t + 1000000000) s.m.pwr.otherLiftAt)) k fun g =>
      { g with cap := false }) 1))) ∧
  (∀ (s : State) (k t : Nat), s.m.nextLift (·.thermal) = some k → s.m.pwr.lowFrom = some t →
    exec (.gateLift 2) s = .next (s.ends (Mod.lifted (Mod.gateTo (s.m.runToNs (max (t + 1000000000) s.m.pwr.otherLiftAt)) k fun g =>
      { g with thermal := false }) 2))) ∧
  (∀ (s : State) (c : Fin 3), Quiet s → c ≠ 0 → s.m.pwr.lowFrom = none → exec (.gateLift c) s = .next s) ∧
  (∀ (m : Mod) (c : Nat), (m.lifted c).pwr.liftAt = (if c = 0 then m.ns + 100000000 else m.pwr.liftAt) ∧
    (m.lifted c).pwr.otherLiftAt = (if c = 0 then m.pwr.otherLiftAt else m.ns + 1000000000)) ∧
  (∀ (s : State) (k : Fin 12) (hot : Bool), exec (.oeOvertemp k hot) s = .next (s.ends (s.m.gateTo k fun g => { g with hot := hot }))) ∧
  (∀ (m : Mod) (k : Nat) (f : Gates → Gates), (m.gatesOf k).any = true → (f (m.gatesOf k)).any = true →
    (m.gateTo k f).gatesOf k = f (m.gatesOf k) ∧ (m.gateTo k f).outs = m.outs ∧
    (m.gateTo k f).get F.PWR_STATS_GATINGS = m.get F.PWR_STATS_GATINGS) ∧
  (∀ (m : Mod) (k : Nat), .laser k false ∈ (m.gateOn k).outs)

/-- The tempo loop and the power cap (R87, R89, R90, R91, R546, R550): targets by command, LOW_RESTART, how a rail moves, how the ceilings
move, the tempo as the slowest monitor's, and the order of work at a turn boundary. Clauses on the model's choices: logs 72, 73. -/
def Obligations.TempoLoop : Prop :=
  (∀ (s : State) (c : Cmd) (p q : Nat) (v w : List Byte), Quiet s → mayRun s.m c 0x0008 [.tempo] → c.tlv 0x100 = some (p, v) →
    c.tlv 0x101 = some (q, w) → tempoOk (leAt v 0 4) (leAt w 0 4) = true →
    exec (.tempoTargetSet c) s = .next (s.put (((s.m.set F.PWR_TEMPO_TARGET_TARGET [] (leAt v 0 4)).set F.PWR_TEMPO_TARGET_ALARM []
      (leAt w 0 4)).reply (asOp c 0x0008) {}))) ∧
  (∀ (s : State) (c : Cmd) (p : Nat) (v : List Byte), Quiet s → mayRun s.m c 0x0008 [.tempo] → c.tlv 0x100 = some (p, v) →
    c.tlv 0x101 = none → tempoOk (leAt v 0 4) (s.m.get F.PWR_TEMPO_TARGET_ALARM) = true →
    exec (.tempoTargetSet c) s = .next (s.put (((s.m.set F.PWR_TEMPO_TARGET_TARGET [] (leAt v 0 4)).set F.PWR_TEMPO_TARGET_ALARM []
      (s.m.get F.PWR_TEMPO_TARGET_ALARM)).reply (asOp c 0x0008) {}))) ∧
  (∀ (s : State) (c : Cmd) (p : Nat) (v : List Byte), Quiet s → mayRun s.m c 0x0008 [.tempo] → c.tlv 0x100 = some (p, v) →
    tempoOk (leAt v 0 4) 0 = false → exec (.tempoTargetSet c) s = .next (s.put (s.m.reply (asOp c 0x0008) (badTlv p)))) ∧
  (∀ (s : State) (r : Req) (u : Fin 9), Quiet s → exec (.lowRestart r u) s = .next (s.put
    (if u.val < 8 then s.m.set F.PWR_TEMPO_SLICE_LOW_RESTART [u.val] 1 else s.m.set F.PWR_TEMPO_HUB_LOW_RESTART [] 1))) ∧
  (∀ (target t limit : Nat) (r : Rail), r.uv ≤ 850000 → 600000 ≤ r.uv → 600000 ≤ limit →
    (railMove true target t limit r).uv ≤ max limit r.uv ∧ (railMove true target t limit r).uv ≤ 850000 ∧
    600000 ≤ (railMove true target t limit r).uv ∧
    (t < target → r.uv + 2500 ≤ limit → r.uv + 2500 ≤ 850000 → (railMove true target t limit r).uv = r.uv + 2500) ∧
    (target ≤ t → t < target + 25 → r.uv ≤ limit → (railMove true target t limit r).uv = r.uv) ∧
    (target + 25 ≤ t → r.high < 63 → r.uv ≤ limit →
      (railMove true target t limit r).uv = r.uv ∧ (railMove true target t limit r).high = r.high + 1)) ∧
  (∀ (up down : Bool) (cut c : Nat), 600000 ≤ c → c ≤ 850000 → 600000 ≤ commonCeiling up down cut c ∧
    commonCeiling up down cut c ≤ 850000 ∧ (up = true → commonCeiling up down cut c ≤ max 600000 (c - 2500))) ∧
  (∀ (limit tj c : Nat), (limit < tj → thermalCeiling limit tj c = max (c - 10000) 600000) ∧
    (tj + 2 ≤ limit → thermalCeiling limit tj c = min (c + 2500) 850000) ∧ (tj = limit ∨ tj + 1 = limit → thermalCeiling limit tj c = c)) ∧
  (∀ (m : Mod) (x : TurnMeas) (k : Nat), k < 8 →
    (m.tempoSlice x k).get F.PWR_TEMPO_SLICE_TEMPO [k] = tempoOf (x.laps.getD k []) ∧
    (m.tempoSlice x k).get F.PWR_TEMPO_SLICE_LOW_RESTART [k] = 0 ∧
    (m.tempoSlice x k).get F.PWR_TEMPO_SLICE_TEMPO_LOW [k] = (if m.flag F.PWR_TEMPO_SLICE_LOW_RESTART [k] then tempoOf (x.laps.getD k [])
      else min (tempoOf (x.laps.getD k [])) (m.get F.PWR_TEMPO_SLICE_TEMPO_LOW [k]))) ∧
  (∀ (s : State) (t : Nat) (x : TurnMeas), t % 8192 = 0 → s.m.ns ≤ t → s.m.powered = true →
    ∃ m, m = (List.range 8).foldl (fun m k => m.overloadTurn k)
        (((((((s.m.runToNs t).stwActivate).tempoTurn x).inputTurn x).bandTurn x.vin).capTurn x).railTurn.heatTurn.tempoAlarm) ∧
      exec (.turnBoundary t x) s =
        .next (s.ends ((({ m with plt := { m.plt with seen := [] } } : Mod).fecTurn x).patTurn.hemRefresh.spoolTurn))) ∧
  (∀ (s : State) (t : Nat) (x : TurnMeas), Quiet s → t % 8192 ≠ 0 ∨ t < s.m.ns ∨ s.m.powered = false →
    exec (.turnBoundary t x) s = .next s)

/-- The start (R501, R508, R509, R513, R523, R533, R535, R569): what each phase needs, does, and goes to; a failed check ends in
RECOVERY, which keeps Chalk. Clauses on the model's choices: logs 76, 78. -/
def Obligations.StartSequence : Prop :=
  (∀ (s : State) (cut : Option Nat), s.m.powered = true → s.m.phase = 1 → s.m.chalk.journal.install = false →
    ∃ t, exec (.rom false cut) s = .next t ∧ t.m.phase = 2 ∧ t.m.chalk.boot = (s.m.chalk.boot + 1) % 2 ^ 32 ∧
      t.m.get F.GLB_START_BOOT = (s.m.chalk.boot + 1) % 2 ^ 32 ∧ t.m.chalk.dir = s.m.chalk.dir ∧
      t.m.flag F.GLB_START_CLEAR_PENDING = s.m.chalk.dir.clearPending ∧ t.m.ownReset = false ∧ t.mem = [] ∧
      (s.m.quietStart = true → t.m.chalk.logs = s.m.chalk.logs) ∧
      (s.m.quietStart = false → ∃ e, t.m.chalk.logs.errors.head? = some e ∧ e.cls = 4 ∧ e.code = 1 ∧
        e.boot = (s.m.chalk.boot + 1) % 2 ^ 32 ∧ e.time = s.m.now)) ∧
  (∀ (s : State) (cut : Option Nat), s.m.powered = true → s.m.phase = 1 → s.m.chalk.journal.install = false →
    ∃ t, exec (.rom true cut) s = .next t ∧ t.m.phase = 2 ∧ t.m.chalk.dir = { seq := s.m.chalk.dir.seq + 1 }) ∧
  (∀ (s : State), s.m.powered = true → s.m.phase = 1 → s.m.chalk.journal.valid = true → s.m.chalk.journal.install = true →
    s.m.chalk.stageIntact = false →
    ∃ t, exec (.rom false none) s = .next t ∧ t.m.phase = 6 ∧ t.m.get F.IMG_STATUS_CHECK = 10) ∧
  (∀ (s : State) (n : Nat) (f : List Byte), s.m.powered = true → s.m.phase = 2 → s.m.chalk.journal.valid = true →
    s.m.chalk.journal.blocks = n → n ≤ 768 →
    (∀ b, b < n → s.m.chalk.header b = .written ∧ (tgetD s.m.chalk.blocks b {}).gen = s.m.chalk.journal.gen) →
    (List.range n).flatMap (fun b => (tgetD s.m.chalk.blocks b {}).data) = f →
    exec .imageCheck s = .next (s.ends (if imageCheck f = 0 then
      Mod.toPhase { (s.m.set F.IMG_STATUS_IMAGE_GEN [] s.m.chalk.journal.gen) with img := { s.m.img with file := f } } 3
      else (s.m.set F.IMG_STATUS_IMAGE_GEN [] s.m.chalk.journal.gen).recover (imageCheck f)))) ∧
  (∀ (m : Mod) (code : Nat), code < 16 → (m.recover code).phase = 6 ∧ (m.recover code).get F.IMG_STATUS_CHECK = code ∧
    (m.recover code).get F.IMG_STATUS_RECOVERY = 1 ∧ (m.recover code).chalk = m.chalk ∧ (m.recover code).locks = []) ∧
  (∀ (s : State) (a b : Bool) (cut : Option Nat), s.m.powered = true → s.m.phase = 3 → s.m.chalk.dir.clearPending = false →
    exec (.config a b cut) s = .next (s.ends ((s.m.bankError 0 a).bankError 1 b).restoreSettings.configDone)) ∧
  (∀ (s : State) (a b : Bool), s.m.powered = true → s.m.phase = 3 → s.m.chalk.dir.clearPending = true →
    ∃ m, m = ({ s.m with chalk := applyWrites clearWrites s.m.chalk }.set F.GLB_START_CLEAR_PENDING [] 0).set
        F.GLB_START_FACTORY_CLEARED [] 1 ∧ m.chalk.roots = [] ∧ m.chalk.bankA = {} ∧ m.chalk.bankB = {} ∧ m.chalk.dir.clearPending = false ∧
      exec (.config a b none) s =
        .next (s.ends (m.event 20 4 (regAddr .GLB_START)).memberCount.restoreSettings.configDone)) ∧
  (∀ (m : Mod), m.chalk.newest = none → m.restoreSettings = (m.factory (settings m.img.file)).noBank) ∧
  (∀ (m : Mod), m.noBank.flag F.GLB_START_CFG_FACTORY = true) ∧
  (∀ (c : Chalk), (c.newest = none ↔ c.bankA.valid = false ∧ c.bankB.valid = false) ∧
    (c.newest = some 0 → c.bankA.valid = true ∧ (c.bankB.valid = true → c.bankB.commitSeq ≤ c.bankA.commitSeq)) ∧
    (c.newest = some 1 → c.bankB.valid = true ∧ (c.bankA.valid = true → c.bankA.commitSeq < c.bankB.commitSeq))) ∧
  (∀ (s : State) (t : Nat), s.m.powered = true → s.m.phase = 4 →
    exec (.loading false t) s = .next (s.ends ((s.m.runToNs t).recover 9)) ∧
    ∃ m, m = (s.m.runToNs t).stwLoad.shuLoad.loadVectors ∧ exec (.loading true t) s = .next (s.ends (Mod.becomeReady
      ({ m with img := { m.img with loaded := some (imageInfo m.img.file) } }.set F.IMG_STATUS_KEY_ID [] (keyId m.img.file))))) ∧
  (∀ (s : State) (a b ok : Bool) (cut : Option Nat) (t : Nat), Quiet s → s.m.powered = false →
    exec (.rom a cut) s = .next s ∧ exec .imageCheck s = .next s ∧ exec (.config a b cut) s = .next s ∧ exec (.loading ok t) s = .next s)

/-- Reset and retained settings by command (R502, R510, R512, R517): MOD_RESET answers and restarts with Chalk kept; CONFIG_COMMIT writes
the bank that is not the newest; FACTORY_CLEAR sets what the next CONFIG does. Clauses on the model's choices: logs 22, 77. -/
def Obligations.ResetAndCommit : Prop :=
  (∀ (s : State) (c : Cmd), mayRun s.m c 0x0003 →
    ∃ t, exec (.modReset c) s = .next t ∧ t.m.chalk = s.m.chalk ∧ t.m.ownReset = true ∧ t.m.regs = [] ∧ t.m.cut = {} ∧
      t.m.now = 0 ∧ t.m.perst = s.m.perst ∧ t.m.powered = s.m.powered ∧ ∀ e, e < 32 → .linkDrop e ∈ t.m.outs) ∧
  (∀ (s : State) (c : Cmd) (k : Nat), mayRun s.m c 0x0003 → c.src = .oob k →
    ∃ t r, exec (.modReset c) s = .next t ∧ .oobReply k r ∈ t.m.outs ∧ r.tag = c.tag ∧ r.status = stOk) ∧
  (∀ (s : State) (c : Cmd) (b : Nat), Quiet s → mayRun s.m c 0x0006 [.config] → s.m.chalk.dir.clearPending = false →
    b = (match s.m.chalk.newest with | some 0 => 1 | _ => 0) →
    ∃ x, x = s.m.commitBank (s.m.chalk.bank (1 - b)) ∧ x.valid = true ∧
      x.records = (settings s.m.img.file).map (fun r => s.m.commitRec r.1) ∧
      exec (.configCommit c .done) s = .next (s.put (Mod.reply
        ((Mod.event { s.m with chalk := s.m.chalk.setBank b x } 20 1 (regAddr .GLB_START) (leBytes 8 x.commitSeq)).fgUse [64]) (asOp c 0x0006)
        (okWith [tlv 0x101 (leBytes 8 x.commitSeq ++ leBytes 4 x.length ++ leBytes 4 x.records.length ++ x.digest)]))) ∧
      exec (.configCommit c .fails) s = .next (s.put (Mod.reply (Mod.fgUse { s.m with chalk := s.m.chalk.setBank b {} } [64]) (asOp c 0x0006)
        { status := stNoResource, errDetail := 2, late := true }))) ∧
  (∀ (m : Mod) (x : Bank), (m.commitBank x).commitSeq = if x.valid then x.commitSeq + 1 else 1) ∧
  (∀ (s : State) (c : Cmd), Quiet s → mayRun s.m c 0x0006 [.config] → s.m.chalk.dir.clearPending = true →
    exec (.configCommit c .done) s = .next (s.put (s.m.reply (asOp c 0x0006) (badHeader 1)))) ∧
  (∀ (s : State) (c : Cmd) (v : Nat), Quiet s → mayRun s.m c 0x0007 [.config] → leAt (c.val 0x100) 0 4 = v →
    exec (.factoryClear c) s = .next (s.put (((s.m.setDir fun d => { d with clearPending := v % 2 = 0 }).setFlag
      F.GLB_START_CLEAR_PENDING [] (v % 2 = 0)).reply (asOp c 0x0007) {})))

/-- Staging an image (R525 to R529): opening, pieces of a chunk, a chunk complete, status, discarding, the check of the whole. Clauses on the model's choices: log 11. -/
def Obligations.ImageStaging : Prop :=
  (∀ (s : State) (c : Cmd) (n : Nat), Quiet s → mayRun s.m c 0x0801 [.stage] → leAt (c.val 0x100) 0 4 = n → lengthOk n = true →
    s.m.chalk.stage.isOpen = false →
    ∃ st, st.id = (if (s.m.chalk.stage.lastId + 1) % 2 ^ 32 = 0 then 1 else (s.m.chalk.stage.lastId + 1) % 2 ^ 32) ∧ st.lastId = st.id ∧
      st.length = n ∧ st.digest = slice (c.val 0x100) 4 24 ∧ st.chunks = [] ∧ st.verified = false ∧
      exec (.imgStageOpen c) s = .next (s.put (Mod.reply { (s.m.setStage st) with img := { s.m.img with pieces := [] } }
        (asOp c 0x0801) (okWith [stageTlv st 0x101 false])))) ∧
  (∀ (s : State) (c : Cmd) (n : Nat), Quiet s → mayRun s.m c 0x0801 [.stage] → leAt (c.val 0x100) 0 4 = n → lengthOk n = true →
    s.m.chalk.stage.isOpen = true → s.m.chalk.stage.length = n → s.m.chalk.stage.digest = slice (c.val 0x100) 4 24 →
    bit (leAt (c.val 0x100) 28 1) 0 = false →
    exec (.imgStageOpen c) s = .next (s.put (s.m.reply (asOp c 0x0801) (okWith [stageTlv s.m.chalk.stage 0x101 true])))) ∧
  (∀ (s : State) (c : Cmd), Quiet s → mayRun s.m c 0x0801 [.stage] → lengthOk (leAt (c.val 0x100) 0 4) = false →
    exec (.imgStageOpen c) s = .next (s.put (s.m.reply (asOp c 0x0801) (badTlv (c.pos 0x100) 1)))) ∧
  (∀ (s : State) (c : Cmd) (h d : List Byte) (k p : Nat), Quiet s → mayRun s.m c 0x0802 [.stage] → c.buffer = none →
    c.tlv 0x101 = some (p, d) → s.m.chalk.stage.isOpen = true → leAt (c.val 0x100) 0 4 = s.m.chalk.stage.id →
    leAt (c.val 0x100) 4 2 = k → k < chunksOf s.m.chalk.stage.length → leAt (c.val 0x100) 8 4 = 0 → 0 < d.length →
    d.length = chunkLen s.m.chalk.stage.length k → tget s.m.chalk.stage.chunks k = none → tget s.m.img.pieces k = none →
    s.m.img.pieces.length < 16 → crcOf d = leAt (c.val 0x100) 12 4 →
    exec (.imgChunkWrite c h) s = .next (s.put (Mod.reply (Mod.fgUse
      { (s.m.setStage { s.m.chalk.stage with chunks := tput s.m.chalk.stage.chunks k ⟨crcOf d, d⟩ }) with
        img := { s.m.img with pieces := tdel s.m.img.pieces k } } [64]) (asOp c 0x0802)
      (progress k (tput s.m.chalk.stage.chunks k ⟨crcOf d, d⟩).length true)))) ∧
  (∀ (s : State) (c : Cmd) (h d : List Byte) (k p : Nat) (x : Chunk), Quiet s → mayRun s.m c 0x0802 [.stage] → c.buffer = none →
    c.tlv 0x101 = some (p, d) → s.m.chalk.stage.isOpen = true → leAt (c.val 0x100) 0 4 = s.m.chalk.stage.id →
    leAt (c.val 0x100) 4 2 = k → k < chunksOf s.m.chalk.stage.length → leAt (c.val 0x100) 8 4 = 0 →
    d.length = chunkLen s.m.chalk.stage.length k → tget s.m.chalk.stage.chunks k = some x → x.crc = leAt (c.val 0x100) 12 4 →
    exec (.imgChunkWrite c h) s =
      .next (s.put ((s.m.fgUse [64]).reply (asOp c 0x0802) (progress k s.m.chalk.stage.chunks.length true)))) ∧
  (∀ (s : State) (c : Cmd), Quiet s → mayRun s.m c 0x0803 →
    exec (.imgStageStatus c) s = .next (s.put (s.m.reply (asOp c 0x0803) (okWith [stageTlv s.m.chalk.stage 0x101 false])))) ∧
  (∀ (s : State) (c : Cmd), Quiet s → mayRun s.m c 0x0806 [.stage, .image] →
    exec (.imgStageDiscard c) s = .next (s.put (Mod.reply { (s.m.setStage { lastId := s.m.chalk.stage.lastId, seq := s.m.chalk.stage.seq })
      with img := { s.m.img with pieces := [] } } (asOp c 0x0806) {}))) ∧
  (∀ (s : State) (c : Cmd), Quiet s → s.m.cmdCheck (asOp c 0x0806) = none →
    (s.m.holder (asOp c 0x0806) [.stage, .image] = some true → exec (.imgStageDiscard c) s = .next (s.put (s.m.reply (asOp c 0x0806) { status := stBusy }))) ∧
    (s.m.holder (asOp c 0x0806) [.stage, .image] = some false → exec (.imgStageDiscard c) s = .next (s.put (s.m.place (asOp c 0x0806) .waiting [.stage, .image])))) ∧
  (∀ (x : Staging) (n : Nat) (r : Bool), x.isOpen = false → stageTlv x n r = tlv n (List.replicate 112 0)) ∧
  (({ lastId := 0, seq := 0 } : Staging).isOpen = false) ∧
  (∀ (s : State) (c : Cmd), Quiet s → mayRun s.m c 0x0804 [.stage] → s.m.chalk.stage.isOpen = true → s.m.chalk.stage.complete = true →
    (sha384 s.m.chalk.stage.file).take 24 = s.m.chalk.stage.digest →
    exec (.imgStageVerify c) s = .next (s.put
      (if imageCheck s.m.chalk.stage.file = 0 then
        (s.m.setStage { s.m.chalk.stage with verified := true, seq := s.m.chalk.stage.seq + 1 }).reply (asOp c 0x0804)
          (okWith [tlv 0x101 (imageInfo s.m.chalk.stage.file)])
       else if 3 ≤ imageCheck s.m.chalk.stage.file ∧ imageCheck s.m.chalk.stage.file ≤ 6 then
        s.m.reply (asOp c 0x0804) { status := stAuthFail, errDetail := imageCheck s.m.chalk.stage.file }
       else s.m.reply (asOp c 0x0804) (badHeader (imageCheck s.m.chalk.stage.file))))) ∧
  (∀ (s : State) (c : Cmd), Quiet s → mayRun s.m c 0x0807 →
    exec (.imgQuery c) s = .next (s.put (s.m.reply (asOp c 0x0807) (s.m.inLimit c (okWith [tlv 0x101 (s.m.img.loaded.getD (List.replicate 80 0)),
      tlv 0x102 (leBytes 1 s.m.areaState ++ leBytes 1 (s.m.get F.IMG_STATUS_CHECK) ++ [0, 0] ++
        leBytes 4 (s.m.get F.IMG_STATUS_IMAGE_GEN)), stageTlv s.m.chalk.stage 0x103 false,
      tlv 0x104 (leBytes 8 Config.romVersion.toNat)])))))

/-- Installing an image (R530 to R533): only a verified stage is installed; its writes, in their order, leave the area holding the
stage's chunks with an idle journal; a write order cut anywhere leaves a journal that ROM resumes from. Clauses on the model's choices: logs 22, 76. -/
def Obligations.ImageInstall : Prop :=
  (∀ (s : State) (c : Cmd), Quiet s → mayRun s.m c 0x0805 [.image, .stage] → s.m.img.resetAfter = false →
    s.m.chalk.stage.isOpen = false ∨ s.m.chalk.stage.verified = false →
    exec (.imgInstall c none) s = .next (s.put (s.m.reply (asOp c 0x0805) (badHeader 1)))) ∧
  (∀ (s : State) (c : Cmd), mayRun s.m c 0x0805 [.image, .stage] → s.m.img.resetAfter = false → s.m.chalk.stage.isOpen = true →
    s.m.chalk.stage.verified = true → s.m.chalk.stage.complete = true →
    (s.m.chalk.stage.chunks.any fun k => crcOf k.2.data ≠ k.2.crc) = false → bit (leAt (c.val 0x100) 0 4) 0 = false →
    (installWrites s.m.chalk).2 = true ∧
    ∃ t, exec (.imgInstall c none) s = .next t ∧ t.m.chalk = applyWrites (installWrites s.m.chalk).1 s.m.chalk ∧
      t.m.get F.IMG_STATUS_INSTALL_DONE = 1 ∧ ∃ p, answered t.m p ∧ p.tag = c.tag ∧ p.status = stOk) ∧
  (∀ (s : State) (c : Cmd) (k : Nat), mayRun s.m c 0x0805 [.image, .stage] → s.m.img.resetAfter = false →
    s.m.chalk.stage.isOpen = true → s.m.chalk.stage.verified = true → s.m.chalk.stage.complete = true →
    (s.m.chalk.stage.chunks.any fun k => crcOf k.2.data ≠ k.2.crc) = false →
    ∃ t, exec (.imgInstall c (some k)) s = .next t ∧ t.m.chalk = applyWrites ((installWrites s.m.chalk).1.take k) s.m.chalk ∧
      t.m.areaState = 1) ∧
  (∀ (c : Chalk), (∀ k, k < chunksOf c.stage.length → ∃ x, tget c.stage.chunks k = some x ∧ crcOf x.data = x.crc) →
    (installWrites c).2 = true ∧ (applyWrites (installWrites c).1 c).journal.install = false ∧
    (applyWrites (installWrites c).1 c).journal.blocks = chunksOf c.stage.length ∧
    ∀ k x, k < chunksOf c.stage.length → tget c.stage.chunks k = some x →
      (applyWrites (installWrites c).1 c).header k = .written ∧ (tgetD (applyWrites (installWrites c).1 c).blocks k {}).data = x.data) ∧
  (∀ (c : Chalk) (k : Nat), 0 < k → (applyWrites ((installWrites c).1.take k) c).stage = c.stage ∧
    ((applyWrites ((installWrites c).1.take k) c).journal.install = true ∨ (installWrites c).1.length ≤ k))

/-- Sources, the servo and initial time (R113, R122, R123, R125, R131, R136): what each test of a source does, when the servo changes
its state, and how device time is first set. Clauses on the model's choices: logs 47, 48. -/
def Obligations.TimeSources : Prop :=
  (∀ (s : State) (n : Fin 96) (ok : Bool), Quiet s → tget s.m.tl.good (srcKey 1 n) = none →
    exec (.esmcReceived n 15 ok) s = .next (s.put (s.m.setTl fun t => { t with synce := tput t.synce n 15, fail := tput t.fail (srcKey 1 n) 3 }))) ∧
  (∀ (s : State) (n : Fin 96) (ql : Fin 16), Quiet s → ql ≠ 15 → tget s.m.tl.good (srcKey 1 n) = none →
    exec (.esmcReceived n ql true) s = .next (s.put (s.m.setTl fun t => { t with synce := tput t.synce n ql, good := tput t.good (srcKey 1 n) s.m.now, fail := tdel t.fail (srcKey 1 n) }))) ∧
  (∀ (s : State) (n : Fin 96), ∃ t, exec (.esmcTimeout n) s = .next t ∧ tget t.m.tl.synce n = none ∧
    tget t.m.tl.good (srcKey 1 n) = none ∧ tget t.m.tl.fail (srcKey 1 n) = some 2) ∧
  (∀ (s : State), ∃ t, exec .ref10mLoss s = .next t ∧ t.m.tl.ref10 = none ∧ tget t.m.tl.good (srcKey 3 0) = none ∧
    tget t.m.tl.fail (srcKey 3 0) = some 1) ∧
  (∀ (s : State) (t : Nat), Quiet s →
    exec (.ref10mInputReturn t) s = .next (s.put ((s.m.runToNs t).setTl fun x => { x with ref10 := some (max s.m.now (t * nsUnit)) }))) ∧
  (∀ (s : State) (stamp v : Nat), stamp / 8192 * 8192 - s.m.ppsComp = v →
    ∃ t, exec (.ppsInputEdge stamp) s = .next t ∧ t.m.tl.ppsTod.lastEdge = some v ∧ t.m.tl.ppsTod.waits = true ∧
      (t.m.tl.ppsTod.onTime = true ↔
        ∃ e, s.m.tl.ppsTod.lastEdge = some e ∧ e + secUnit ≤ v + 1000 * nsUnit ∧ v ≤ e + secUnit + 1000 * nsUnit)) ∧
  (∀ (m : Mod), (2 ≤ m.tl.ppsTod.goodRun → (tget (m.todSecond true).tl.good (srcKey 2 0)).isSome = true) ∧
    (m.tl.ppsTod.goodRun < 2 → (m.todSecond true).tl.good = m.tl.good) ∧
    (m.tl.ppsTod.badRun = 0 → (m.todSecond false).tl.good = m.tl.good) ∧
    (1 ≤ m.tl.ppsTod.badRun → tget (m.todSecond false).tl.good (srcKey 2 0) = none)) ∧
  (∀ (s : State) (bs : List Byte) (t e l : Nat) (sec off leap q : Int), s.m.tl.ppsTod.waits = true → s.m.tl.ppsTod.onTime = true →
    s.m.tl.ppsTod.lastEdge = some e → s.m.tl.ppsTod.lastSec = some l → todParse bs = some (sec, off, leap, q) → sec = l + 1 →
    s.m.now ≤ t * nsUnit → e + 1000000 * nsUnit ≤ t * nsUnit → t * nsUnit ≤ e + 500000000 * nsUnit →
    ∃ t', exec (.todSentenceReceived bs t) s = .next t' ∧ t'.m.tl.ppsTod.goodRun = s.m.tl.ppsTod.goodRun + 1 ∧
      t'.m.tl.ppsTod.badRun = 0 ∧ t'.m.tl.ppsTod.lastSec = some (l + 1) ∧ t'.m.tl.ppsTod.waits = false) ∧
  (∀ (s : State) (bs : List Byte) (t : Nat), s.m.tl.ppsTod.waits = true → todParse bs = none →
    ∃ t', exec (.todSentenceReceived bs t) s = .next t' ∧ t'.m.tl.ppsTod.goodRun = 0 ∧
      t'.m.tl.ppsTod.badRun = s.m.tl.ppsTod.badRun + 1 ∧ t'.m.tl.ppsTod.waits = false ∧
      t'.m.tl.ppsTod.lastSec = s.m.tl.ppsTod.lastSec.map (· + 1)) ∧
  (∀ (m : Mod) (key code k g : Nat), tget m.tl.good key = some g → m.phaseSrc = some k → m.srcOf k = key → m.servo = 2 →
    (m.srcLost key code).phaseSrc = none ∧ (m.srcLost key code).get F.TPL_UTC_VALID = 0 ∧
    (m.srcLost key code).servo = if m.flag F.TPL_STATE_HOLD_READY then 3 else 0) ∧
  (∀ (s : State) (t : Nat), s.m.servo = 3 → s.m.now ≤ t * nsUnit →
    s.m.tl.holdAt + s.m.get F.TPL_CFG_HOLD_MAX_MIN * 60 * secUnit ≤ t * nsUnit →
    ∃ t', exec (.holdoverLimit t) s = .next t' ∧ t'.m.servo = 0 ∧ t'.m.get F.TPL_STATE_HOLD_READY = 0 ∧ t'.m.now = t * nsUnit) ∧
  (∀ (s : State) (t d k : Nat) (off temp : Int), s.m.phaseSrc = some k → s.m.servo = 1 →
    (off - s.m.asymmetry k).natAbs ≤ s.m.get F.TPL_CFG_STEP_NS * nsUnit →
    (off - s.m.asymmetry k).natAbs ≤ s.m.get F.TPL_CFG_LOCK_NS * nsUnit →
    ∃ t', exec (.servoSecond t off d temp) s = .next t' ∧
      (s.m.get F.TPL_CFG_LOCK_S ≤ s.m.tl.lockRun + 1 → t'.m.servo = 2) ∧
      (s.m.tl.lockRun + 1 < s.m.get F.TPL_CFG_LOCK_S → t'.m.servo = 1 ∧ t'.m.tl.lockRun = s.m.tl.lockRun + 1)) ∧
  (∀ (s : State) (t d k : Nat) (off temp : Int), s.m.phaseSrc = some k → s.m.servo = 1 → s.m.now ≤ t * nsUnit →
    s.m.get F.TPL_CFG_STEP_NS * nsUnit < (off - s.m.asymmetry k).natAbs →
    ∃ t', exec (.servoSecond t off d temp) s = .next t' ∧ t'.m.now = ((t : Int) * nsUnit - roundNs (off - s.m.asymmetry k) * nsUnit).toNat ∧
      t'.m.tl.lockRun = 0 ∧ t'.m.tl.steps = s.m.tl.steps + 1) ∧
  (∀ (s : State) (t d k : Nat) (off temp : Int), s.m.phaseSrc = some k → s.m.servo = 2 →
    s.m.get F.TPL_CFG_STEP_NS * nsUnit < (off - s.m.asymmetry k).natAbs →
    ∃ t', exec (.servoSecond t off d temp) s = .next t' ∧ (15 ≤ s.m.tl.farRun → t'.m.servo = 1) ∧
      (s.m.tl.farRun < 15 → t'.m.servo = 2 ∧ t'.m.tl.farRun = s.m.tl.farRun + 1 ∧
        (600 ≤ s.m.tl.lockedSecs + 1 → t'.m.get F.TPL_STATE_HOLD_READY = 1))) ∧
  (∀ (s : State) (t d : Nat) (off temp : Int), Quiet s → s.m.phaseSrc = none ∨ s.m.servo = 0 ∨ s.m.servo = 3 →
    exec (.servoSecond t off d temp) s = .next (s.put (s.m.runToNs t))) ∧
  (∀ (s : State) (t r : Nat) (g : GolideRec) (gs : List GolideRec), s.m.tl.readyAt = some r → s.m.tl.timeSet = false →
    s.m.now ≤ t * nsUnit → r + 10 * secUnit ≤ t * nsUnit → s.m.chalk.golide = g :: gs →
    ∃ t', exec (.initialTimeTimeout t) s = .next t' ∧ t'.m.now = (g.endTime + 60) * secUnit ∧ t'.m.tl.timeSet = true ∧
      t'.m.tl.steps = s.m.tl.steps + 1) ∧
  (∀ (s : State) (t r : Nat), Quiet s → s.m.tl.readyAt = some r → s.m.tl.timeSet = false → r + 10 * secUnit ≤ t * nsUnit →
    s.m.chalk.golide = [] →
    exec (.initialTimeTimeout t) s = .next (s.put ((s.m.runToNs t).setTl fun x => { x with timeSet := true })))

/-- Selection (R126 to R131, R134): the order of the candidates, what selecting a phase source does to the servo, the verdict, the tick,
and a change of the source table, which waits for the next tick. Clauses on the model's choices: log 48. -/
def Obligations.TimeSelection : Prop :=
  (∀ (m : Mod) (k : Nat) (gone : List Nat), m.choose true none gone = some k →
    k < 16 ∧ m.flag F.TPL_SRC_ENABLE [k] = true ∧ m.flag F.TPL_SRC_QUALIFIED [k] = true ∧ m.usePhase k = true ∧ m.restored k = true ∧
    m.srcOf k ∉ gone ∧ ∀ j, j < 16 → m.srcOf j ∉ gone → m.flag F.TPL_SRC_ENABLE [j] = true → m.flag F.TPL_SRC_QUALIFIED [j] = true → m.usePhase j = true →
      m.restored j = true → lexLt (m.srcRank true j) (m.srcRank true k) = false) ∧
  (∀ (m : Mod) (k : Nat) (gone : List Nat), m.returned gone = some k → ∃ t, m.tl.lossSrc = some (k, m.srcOf k, t) ∧ t < m.now ∧
    m.flag F.TPL_SRC_ENABLE [k] = true ∧ m.flag F.TPL_SRC_QUALIFIED [k] = true ∧ m.usePhase k = true ∧ m.srcOf k ∉ gone ∧
    ∃ g, tget m.tl.good (m.srcOf k) = some g ∧ g ≤ t + m.get F.TPL_SEL_HOLD_OFF_MS * 1000000 * nsUnit) ∧
  (∀ (m : Mod) (k : Nat) (off : Int) (same : Bool), k < 16 →
    (m.selectPhase k off same).phaseSrc = some k ∧
    (m.servo = 0 → m.tl.timeSet = true → (m.selectPhase k off same).servo = 1) ∧
    (m.servo = 2 → off.natAbs ≤ m.get F.TPL_CFG_STEP_NS * nsUnit → (m.selectPhase k off same).servo = 2) ∧
    (m.servo = 2 → m.get F.TPL_CFG_STEP_NS * nsUnit < off.natAbs → (m.selectPhase k off same).servo = 1) ∧
    (m.servo = 3 → same = true → off.natAbs ≤ m.get F.TPL_CFG_STEP_NS * nsUnit → (m.selectPhase k off same).servo = 2) ∧
    (m.servo = 3 → same = false → (m.selectPhase k off same).servo = 1)) ∧
  (∀ (m : Mod), m.verdict = true ↔ (∃ b, m.bound = some b ∧ b ≤ m.get F.TPL_CFG_TRACE_LIMIT_NS) ∧
    ((m.servo = 2 ∧ ∃ k, m.phaseSrc = some k ∧ m.flag F.TPL_SRC_TRACEABLE_SRC [k] = true) ∨
     (m.servo = 3 ∧ m.flag F.TPL_STATE_HOLD_GRADE_A = true ∧ m.tl.holdTrace = true))) ∧
  (∀ (m : Mod) (v : Bool), (m.traceEvent v).traceable = v ∧ (m.traceEvent v).get F.TPL_STATE_TRACE_EVENT = 1 ∧
    (v = false → (m.traceEvent v).tack.golide.lost = true) ∧ (v = true → (m.traceEvent v).tack.golide.gained = true)) ∧
  (∀ (m : Mod) (k : Nat), k < 16 →
    (m.applyGains.flag F.TPL_SRC_QUALIFIED [k] = true ↔
      m.flag F.TPL_SRC_QUALIFIED [k] = true ∨ (tget m.tl.good (m.srcOf k)).isSome = true) ∧
    (m.applyGains.flag F.TPL_SRC_TRACEABLE_SRC [k] = true ↔ (tget m.tl.good (m.srcOf k)).isSome = true ∧ m.srcOf k ∈ m.tl.traced) ∧
    (m.applyLosses.flag F.TPL_SRC_QUALIFIED [k] = true ↔ m.flag F.TPL_SRC_QUALIFIED [k] = true ∧ m.srcOf k ∉ m.tl.losses)) ∧
  (∀ (s : State) (t : Nat) (offs : Tab Int) (m0 m : Mod), s.m.tl.changes = [] → m0 = (s.m.runToNs t).ptpInit.sourceTests →
    m = (((m0.applyLosses.setTl fun x => { x with changes := [] }).applyGains.selectAt offs m0.tl.losses).applyStatus) →
    m.servo ≠ 2 → m.verdict = m.traceable →
    exec (.selectionTick t offs) s = .next (s.ends { m with tack := { m.tack with golide :=
      { m.tack.golide with boundMax := max m.tack.golide.boundMax (bound16 m.bound) } } })) ∧
  (∀ (s : State) (t : Nat) (offs : Tab Int) (c : Cmd), s.m.tl.changes = [⟨some c, [], none⟩] →
    (∀ e ∈ s.m.cut.pool, e.cmd = c → e.dead = false) →
    ∃ t', exec (.selectionTick t offs) s = .next t' ∧ t'.m.tl.changes = [] ∧ ∃ p, answered t'.m p ∧ p.tag = c.tag ∧ p.status = stOk) ∧
  (∀ (s : State) (c : Cmd) (q k w : Nat), Quiet s → mayRun s.m c 0x0402 [.timeSources] → s.m.isMember = false →
    c.all 0x100 = [(q, leBytes 1 k ++ [0, 0, 0] ++ leBytes 4 w)] → k < 16 → w < 2 ^ 32 → bits w 1 3 ≤ 4 →
    srcTableOk (s.m.srcTableNext.set k w) = true →
    exec (.timeSourceSet c) s = .next (s.put (Mod.place (s.m.setTl fun t => { t with changes := t.changes ++ [⟨some (asOp c 0x0402), [(k, w)], (c.tlv 0x101).map fun x => leAt x.2 0 4⟩] })
      (asOp c 0x0402) .executing [.timeSources]))) ∧
  (∀ (s : State) (c : Cmd) (q k w : Nat), Quiet s → mayRun s.m c 0x0402 [.timeSources] →
    c.all 0x100 = [(q, leBytes 1 k ++ [0, 0, 0] ++ leBytes 4 w)] → k < 256 → w < 2 ^ 32 → 15 < k ∨ 4 < bits w 1 3 →
    exec (.timeSourceSet c) s = .next (s.put (s.m.reply (asOp c 0x0402) (badTlv q))))

/-- PTP, UTC, the loss policies and records (R117 to R121, R124, R137, R139, R142, R143, R170, R173, R174, R503). Clauses on the model's choices: logs 47, 49. -/
def Obligations.TimeService : Prop :=
  (∀ (s : State) (n : Fin 96) (msg : PtpMsg) (t : Nat), Quiet s →
    s.m.ptpOn n = false ∨ PtpMsg.domainOf msg ≠ some (s.m.get F.TPL_PTP_CFG_DOMAIN) →
    exec (.ptpMessageReceived n msg t) s = .next (s.put (s.m.runToNs t))) ∧
  (∀ (s : State) (n : Fin 96) (d : AnnounceData) (t : Nat), s.m.ptpOn n = true → d.domain = s.m.get F.TPL_PTP_CFG_DOMAIN →
    ∃ t' f, exec (.ptpMessageReceived n (.announce d) t) s = .next t' ∧ tget t'.m.tl.ptp.foreign n = some f ∧ f.ds = d ∧
      (∀ g, tget s.m.tl.ptp.foreign n = some g → f.count = if g.ds.gmIdentity = d.gmIdentity then g.count + 1 else 1)) ∧
  (∀ (s : State) (n : Fin 96) (d t : Nat), s.m.ptpOn n = true → d = s.m.get F.TPL_PTP_CFG_DOMAIN → s.m.tl.ptp.parent = some n.val →
    ∃ t', exec (.ptpMessageReceived n (.sync d) t) s = .next t' ∧ t'.m.tl.ptp.synced = true ∧ (tget t'.m.tl.good 0).isSome = true) ∧
  (∀ (s : State) (n : Fin 96) (d t : Nat), Quiet s → s.m.ptpOn n = true → d = s.m.get F.TPL_PTP_CFG_DOMAIN →
    s.m.get F.TPL_PTP_PORT_PORT_STATE [n.val] = 6 →
    exec (.ptpMessageReceived n (.delayReq d) t) s = .next (s.put ((s.m.runToNs t).emit (.ptp n 9 (t * nsUnit))))) ∧
  (∀ (s : State) (n : Fin 96) (d clock secs t : Nat), Quiet s → s.m.ptpOn n = true → d = s.m.get F.TPL_PTP_CFG_DOMAIN →
    s.m.get F.TPL_PTP_CFG_PROFILE = 1 → s.m.tl.ptp.grants = [] → s.m.now ≤ t * nsUnit →
    exec (.ptpMessageReceived n (.unicastRequest d clock secs) t) s = .next (s.put (((s.m.runToNs t).setTl fun x =>
      { x with ptp := { x.ptp with grants := [⟨n, clock, secOf (t * nsUnit) + secs⟩] } }).emit (.ptp n 12 0)))) ∧
  (∀ (s : State) (n : Fin 96), ∃ t, exec (.ptpAnnounceTimeout n) s = .next t ∧ tget t.m.tl.ptp.foreign n = none ∧
    t.m.tl.ptp.parent ≠ some n.val) ∧
  (∀ (m : Mod) (n : Nat), m.bmca.tl.ptp.parent = some n → m.ptpOn n = true ∧ m.subState n (m.get F.TPL_PTP_PORT_SUBPORT [n]) = 4 ∧
    m.flag F.TPL_PTP_PORT_MASTER_ONLY [n] = false ∧ 127 < m.ownDs.clockClass ∧ ∃ f, (n, f) ∈ m.tl.ptp.foreign ∧ 2 ≤ f.count) ∧
  (∀ (m : Mod) (n : Nat), n < 96 → m.ptpRestart.get F.TPL_PTP_PORT_PORT_STATE [n] = b2n (m.ptpOn n) ∧ m.ptpRestart.tl.ptp.parent = none) ∧
  (∀ (s : State) (c : Cmd) (q p n v : Nat), Quiet s → mayRun s.m c 0x0403 (ptpObjs c) → c.all 0x100 = [(q, leBytes 1 n ++ [0, 0, 0] ++ leBytes 8 v)] →
    n < 256 → v < 2 ^ 64 → s.m.get F.TPL_PTP_CFG_PROFILE = p → c.tlv 0x101 = none →
    95 < n ∨ ptpPortOk p v = false ∨ s.m.subCount n ≤ bits v 1 3 →
    exec (.ptpPortSet c) s = .next (s.put (s.m.reply (asOp c 0x0403) (badTlv q)))) ∧
  (∀ (s : State) (c : Cmd) (q p n v : Nat), mayRun s.m c 0x0403 (ptpObjs c) → c.all 0x100 = [(q, leBytes 1 n ++ [0, 0, 0] ++ leBytes 8 v)] →
    n < 96 → v < 2 ^ 64 → s.m.get F.TPL_PTP_CFG_PROFILE = p → c.tlv 0x101 = none → ptpPortOk p v = true → bits v 1 3 < s.m.subCount n →
    exec (.ptpPortSet c) s = .next (s.ends ((s.m.ptpPortWrite c.mid n v).reply (asOp c 0x0403) {}))) ∧
  (∀ (m : Mod) (mid n v : Nat), (m.linkAt n (bits v 1 3)).isSome = false →
    (m.ptpPortWrite mid n v).get F.TPL_PTP_PORT_ENABLE [n] = v % 2 ∧
    (m.ptpPortWrite mid n v).get F.TPL_PTP_PORT_SUBPORT [n] = bits v 1 3 ∧
    (m.ptpPortWrite mid n v).get F.TPL_PTP_PORT_LOCAL_PRIORITY [n] = bits v 8 8) ∧
  (∀ (s : State) (t : Nat) (new : Int), s.m.tl.leapNew = some new → s.m.now ≤ t * nsUnit →
    s.m.get F.TPL_UTC_LEAP_AT ≤ secOf (t * nsUnit) % 2 ^ 32 →
    ∃ t', exec (.leapAt t) s = .next t' ∧ t'.m.get F.TPL_UTC_OFFSET = unsigned 16 new ∧ t'.m.get F.TPL_UTC_LEAP61 = 0 ∧
      t'.m.get F.TPL_UTC_LEAP59 = 0 ∧ t'.m.get F.TPL_UTC_LEAP_AT = 0 ∧ t'.m.tl.leapNew = none) ∧
  (∀ (s : State) (t : Nat), Quiet s → s.m.tl.leapNew = none → exec (.leapAt t) s = .next (s.put (s.m.runToNs t))) ∧
  (∀ (s : State) (c : Cmd) (v : Nat), Quiet s → mayRun s.m c 0x0405 [.policy] → leAt (c.val 0x100) 0 4 = v → policyOk v = true →
    s.m.traceable = true →
    exec (.timeLossPolicySet c) s = .next (s.put ((s.m.setStored .TPL_LOSS_POLICY [] v).reply (asOp c 0x0405) {}))) ∧
  (∀ (s : State) (c : Cmd), Quiet s → mayRun s.m c 0x0405 [.policy] → policyOk (leAt (c.val 0x100) 0 4) = false →
    exec (.timeLossPolicySet c) s = .next (s.put (s.m.reply (asOp c 0x0405) (badTlv (c.pos 0x100))))) ∧
  (∀ (s : State) (c : Cmd), mayRun s.m c 0x0405 [.policy] → policyOk (leAt (c.val 0x100) 0 4) = true → s.m.traceable = false →
    bit (leAt (c.val 0x100) 0 4) 6 = true →
    ∃ t, exec (.timeLossPolicySet c) s = .next t ∧ ∀ n x, (n, x) ∈ t.m.fit.slots → x.source ≠ 5) ∧
  (∀ (s : State) (c : Cmd) (t : Nat), Quiet s → mayRun (s.m.runTo t) c 0x0401 →
    exec (.timeGet c t) s = .next (s.put ((s.m.runTo t).reply (asOp c 0x0401)
      (okWith [tlv 0x100 (s.m.runTo t).nowBytes, tlv 0x101 (leBytes 4 (bound32 (s.m.runTo t).bound))])))) ∧
  (∀ (s : State) (c : Cmd), Quiet s → mayRun s.m c 0x0404 → s.m.servo ≠ 3 → s.m.tl.offsets = [] → 256 < c.src.limit →
    exec (.servoStatus c) s = .next (s.put (s.m.reply (asOp c 0x0404) (okWith [tlv 0x100 (leBytes 8 (s.m.view .TPL_STATE [])),
      tlv 0x101 (List.replicate 40 0), tlv 0x102 (List.replicate 8 0),
      tlv 0x103 ((List.range 16).flatMap fun k => leBytes 8 (s.m.view .TPL_SRC [k]))])))) ∧
  (∀ (s : State) (c : Cmd) (ch : Nat), Quiet s → mayRun s.m c 0x0404 → c.src = .mailbox ch →
    exec (.servoStatus c) s = .next (s.put (s.m.reply (asOp c 0x0404) badHeader))) ∧
  (∀ (s : State) (min : Nat), s.m.phase = 5 → s.m.now ≤ min * 60 * secUnit →
    ∃ t r b, exec (.golideRecord min) s = .next t ∧ t.m.chalk = s.m.chalk ∧
      t.m.wheel.chalkq = s.m.wheel.chalkq ++ [.golide r false, .golide r true] ∧
      r.seq = s.m.golideSeq ∧ b = (s.m.runTo (min * 60 * secUnit)).golideBody none ∧
      r.bytes = b ++ ed25519Sign (ascii "KEASO-GOLIDE" ++ serial ++ b) ∧ b.length = 64 ∧
      t.m.tack.golide = { first := false, start := min * 60 * secUnit }) ∧
  (∀ (m : Mod) (r : GolideRec) (ws : List ChalkWrite), m.wheel.chalkq = .golide r false :: .golide r true :: ws →
    (m.chalkStitch 3).chalk = m.chalk ∧ ((m.chalkStitch 3).chalkStitch 3).wheel.chalkq = ws ∧
    ((m.chalkStitch 3).chalkStitch 3).chalk.golide = (r :: m.chalk.golide).take 1048576 ∧
    ((m.chalkStitch 3).chalkStitch 3).chalk.golideNext = m.chalk.golideNext + 1) ∧
  (∀ (s : State) (min : Nat), Quiet s → s.m.phase ≠ 5 → s.m.now ≤ min * 60 * secUnit →
    exec (.golideRecord min) s = .next (s.put (s.m.runTo (min * 60 * secUnit)))) ∧
  (∀ (s : State) (min : Nat), Quiet s → min * 60 * secUnit < s.m.now → exec (.golideRecord min) s = .next s) ∧
  (∀ (s : State) (c : Cmd) (r : GolideRec), Quiet s → mayRun s.m c 0x0406 → s.m.chalk.golide = [r] → s.m.chalk.golideNext = r.seq + 1 →
    leAt (c.val 0x100) 0 4 = r.seq → leAt (c.val 0x100) 4 4 = 1 → c.buffer = none →
    exec (.golideRead c) s = .next (s.put (s.m.reply (asOp c 0x0406) (okWith [tlv 0x101 (leBytes 4 r.seq ++ leBytes 4 r.seq ++
      leBytes 4 s.m.chalk.boot ++ leBytes 4 1), tlv 0x102 r.bytes])))) ∧
  (∀ (s : State) (c : Cmd), Quiet s → mayRun s.m c 0x0406 → leAt (c.val 0x100) 4 4 ≠ 0 → leAt (c.val 0x100) 4 4 ≤ 65536 →
    s.m.chalk.golideNext ≤ leAt (c.val 0x100) 0 4 →
    exec (.golideRead c) s = .next (s.put (s.m.reply (asOp c 0x0406) (badTlv (c.pos 0x100) 1)))) ∧
  (∀ (s : State), Quiet s → exec .ovenStable s = .next (s.put (s.m.set F.GLB_START_OSC_WARM [] 1)))

/-- Outputs and host time (R124, R158 to R164, R167 to R169): 1PPS edges, the time-of-day sentence, PTM dialogs, pages. Clauses on the model's choices: log 50. -/
def Obligations.TimeOutputs : Prop :=
  (∀ (s : State) (j : Fin 8) (k now : Nat), Quiet s → s.m.flag F.TCK_PPS_OUT_ENABLE [j.val] = true →
    s.m.flag F.TPL_LOSS_POLICY_PPS = false ∨ s.m.traceable = true → (k * secUnit : Nat) - s.m.ppsLead j = (now : Int) → s.m.now ≤ now →
    tget s.m.tack.ppsHigh j = none →
    exec (.ppsOutRise j k) s = .next (s.put (Mod.emit ({ (s.m.set F.TCK_PPS_OUT_SQUELCHED [j.val] 0) with
      now := now, tack := { s.m.tack with ppsHigh := tput s.m.tack.ppsHigh j (now + s.m.get F.TCK_PPS_OUT_WIDTH_US [j.val] * 1000 * nsUnit) } })
      (.pps j true)))) ∧
  (∀ (s : State) (j : Fin 8) (k now : Nat), Quiet s → s.m.flag F.TCK_PPS_OUT_ENABLE [j.val] = true → s.m.flag F.TPL_LOSS_POLICY_PPS = true →
    s.m.traceable = false → (k * secUnit : Nat) - s.m.ppsLead j = (now : Int) → s.m.now ≤ now → tget s.m.tack.ppsHigh j = none →
    exec (.ppsOutRise j k) s = .next (s.put ((s.m.runTo now).set F.TCK_PPS_OUT_SQUELCHED [j.val] 1))) ∧
  (∀ (s : State) (j : Fin 8) (k : Nat), Quiet s → (k * secUnit : Nat) - s.m.ppsLead j < s.m.now →
    exec (.ppsOutRise j k) s = .next s) ∧
  (∀ (s : State) (j : Fin 8) (x : Nat), Quiet s → tget s.m.tack.ppsHigh j = some x →
    exec (.ppsOutFall j) s =
      .next (s.put (Mod.emit { (s.m.runTo x) with tack := { s.m.tack with ppsHigh := tdel s.m.tack.ppsHigh j } } (.pps j false)))) ∧
  (∀ (s : State) (j : Fin 8), Quiet s → tget s.m.tack.ppsHigh j = none → exec (.ppsOutFall j) s = .next s) ∧
  (∀ (s : State) (k : Nat), Quiet s → exec (.todOutputSentence k) s =
    .next (s.put ((s.m.runTo (k * secUnit)).emit (.tod (s.m.todSentence k))))) ∧
  (∀ (s : State) (c : Cmd) (q j v : Nat), Quiet s → mayRun s.m c 0x0408 ((c.all 0x100).map fun t => .pps (leAt t.2 0 1)) → c.all 0x100 = [(q, leBytes 1 j ++ [0, 0, 0] ++ leBytes 8 v)] →
    j < 8 → v < 2 ^ 64 → ppsOk v = true →
    (∀ vs, vs = (List.range 8).map (fun i => if i = j then v else s.m.stored .TCK_PPS_OUT [i]) → s.m.ppsTableOk vs = true) →
    exec (.ppsOutSet c) s = .next (s.put ((s.m.setStored .TCK_PPS_OUT [j] (v % 2 ^ 45 +
      s.m.get F.TCK_PPS_OUT_SQUELCHED [j] * 2 ^ 45)).reply (asOp c 0x0408) {}))) ∧
  (∀ (s : State) (c : Cmd) (q j v : Nat), Quiet s → mayRun s.m c 0x0408 ((c.all 0x100).map fun t => .pps (leAt t.2 0 1)) → c.all 0x100 = [(q, leBytes 1 j ++ [0, 0, 0] ++ leBytes 8 v)] →
    j < 256 → v < 2 ^ 64 → 7 < j ∨ ppsOk v = false →
    exec (.ppsOutSet c) s = .next (s.put (s.m.reply (asOp c 0x0408) (badTlv q)))) ∧
  (∀ (s : State) (e : Fin 32), Quiet s → s.m.ptmOn e = true → (s.m.ptmOf e).outstanding = none →
    exec (.ptmDialogStart e) s = .next (s.put (((s.m.runTo (s.m.ptmDue e)).putPtm e
      { s.m.ptmOf e with outstanding := some (s.m.ptmDue e), began := some (s.m.ptmDue e) }).emit (.ptm e)))) ∧
  (∀ (m : Mod) (e : Nat), m.ptmDue e % ptmPeriod = 0 ∧ m.now ≤ m.ptmDue e ∧ (m.ptmOf e).began ≠ some (m.ptmDue e)) ∧
  (∀ (s : State) (e : Fin 32), Quiet s → s.m.ptmOn e = false → exec (.ptmDialogStart e) s = .next s) ∧
  (∀ (s : State) (e : Fin 32) (stamp master delay x : Nat) (l : Nat × Nat), Quiet s → s.m.ptmOn e = true →
    (s.m.ptmOf e).outstanding = some x → s.m.now ≤ stamp → stamp ≤ x + 10000 * nsUnit → (s.m.ptmOf e).last = some l →
    exec (.ptmResponse e stamp master delay) s = .next (s.put ((s.m.runTo stamp).putPtm e
      { s.m.ptmOf e with
        outstanding := none, last := some (x, hostStamp stamp),
        samples := (s.m.ptmOf e).samples ++ [ptmSample x (master * nsUnit) (delay * nsUnit) l] }))) ∧
  (∀ (s : State) (e : Fin 32) (stamp master delay x : Nat), Quiet s → s.m.ptmOn e = true → (s.m.ptmOf e).outstanding = some x →
    s.m.now ≤ stamp → stamp ≤ x + 10000 * nsUnit → (s.m.ptmOf e).last = none →
    exec (.ptmResponse e stamp master delay) s = .next (s.put ((s.m.runTo stamp).putPtm e
      { s.m.ptmOf e with outstanding := none, last := some (x, hostStamp stamp) }))) ∧
  (∀ (s : State) (e : Fin 32) (x : Nat), Quiet s → (s.m.ptmOf e).outstanding = some x →
    exec (.ptmDialogTimeout e) s = .next (s.put (((s.m.runTo (x + 10000 * nsUnit)).putPtm e
      { s.m.ptmOf e with outstanding := none, last := none }).countSat F.TCK_HOST_STATUS_DIALOG_TIMEOUTS [e.val]))) ∧
  (∀ (m : Mod) (e p : Nat), ((m.ptmOf e).samples.length < 4 → (m.formPair e p).1.valid = false ∧
      ((m.formPair e p).2.ptmOf e).validRun = 0) ∧
    (4 ≤ (m.ptmOf e).samples.length → ((m.formPair e p).2.ptmOf e).validRun = (m.ptmOf e).validRun + 1 ∧
      (64 ≤ (m.ptmOf e).validRun → (m.formPair e p).1.valid = true)) ∧ ((m.formPair e p).2.ptmOf e).samples = []) ∧
  (∀ (s : State) (c : Cmd) (o : Nat) (f : Fn), Quiet s → mayRun s.m c 0x0407 (s.m.ownerObjs c) → s.m.cmdOwner c = some o → s.m.ownerFn o = f →
    bit (leAt (c.val 0x100) 12 4) 0 = true → leAt (c.val 0x100) 0 8 % 128 = 0 → bit (leAt (c.val 0x100) 8 4) 31 = false →
    s.m.tack.pairs = [] →
    exec (.hostTimeSet c) s = .next (s.put (Mod.reply { s.m with tack := { s.m.tack with pairs :=
      [(f, { addr := leAt (c.val 0x100) 0 8, pasid := none, stepTag := s.m.tl.steps })] } } (asOp c 0x0407) {}))) ∧
  (∀ (s : State) (c : Cmd) (o : Nat), Quiet s → mayRun s.m c 0x0407 (s.m.ownerObjs c) → s.m.cmdOwner c = some o →
    bit (leAt (c.val 0x100) 12 4) 0 = false →
    exec (.hostTimeSet c) s = .next (s.put ((s.m.dropPair (s.m.ownerFn o)).reply (asOp c 0x0407) {}))) ∧
  (∀ (s : State) (k : Nat), Quiet s → k * 1000000 < s.m.ns → exec (.timePairUpdate k) s = .next s) ∧
  (∀ (s : State) (k : Nat) (f : Fn) (p : TimePair), s.m.ns ≤ k * 1000000 → s.m.tack.pairs = [(f, p)] → s.m.issues f = true →
    p.seq % 2 = 0 → p.seq < 2 ^ 32 →
    ∃ t, exec (.timePairUpdate k) s = .next t ∧
      t.m.tack.pairs = [(f, { p with seq := (p.seq + 2) % 2 ^ 32, first := false, stepTag := s.m.tl.steps, pairs := p.pairs + 1 })] ∧
      .hostWrite f p.addr p.pasid (leBytes 4 (p.seq + 1)) ∈ t.m.outs ∧ .hostWrite f p.addr p.pasid (leBytes 4 (p.seq + 2)) ∈ t.m.outs) ∧
  (∀ (s : State) (k : Nat) (f : Fn) (p : TimePair), s.m.ns ≤ k * 1000000 → s.m.tack.pairs = [(f, p)] → s.m.issues f = false →
    ∃ t, exec (.timePairUpdate k) s = .next t ∧ t.m.tack.pairs = [(f, { p with first := true })])

/-- Frames at a port and the states of sub-ports (R178, R179, R184, R185, R188, R195): the MAC's checks, flow control frames, lanes, faults,
light, the cut-through threshold. Clauses on the model's choices: logs 33, 35. -/
def Obligations.PortEvents : Prop :=
  (∀ (s : State) (n : Fin 96) (k : Fin 8) (d : List Byte) (fcs full : Bool) (st : Nat), Quiet s → s.m.subState n k ≠ 4 →
    exec (.frameReceived n k d fcs st full) s = .next s ∧ exec (.pfcFrameReceived n k d fcs st) s = .next s) ∧
  (∀ (s : State) (n : Fin 96) (k : Fin 8) (d : List Byte) (full : Bool) (st : Nat), Quiet s → s.m.subState n k = 4 →
    exec (.frameReceived n k d false st full) s = .next (s.put ((s.m.runTo st).count F.PRT_STAT_COUNT [n.val, k.val, 4])) ∧
    exec (.pfcFrameReceived n k d false st) s = .next (s.put (s.m.count F.PRT_STAT_COUNT [n.val, k.val, 4]))) ∧
  (∀ (s : State) (n : Fin 96) (k : Fin 8) (d : List Byte) (full : Bool) (st : Nat), Quiet s → s.m.subState n k = 4 → d.length < 60 →
    exec (.frameReceived n k d true st full) s = .next (s.put ((s.m.runTo st).count F.PRT_STAT_COUNT [n.val, k.val, 5]))) ∧
  (∀ (s : State) (n : Fin 96) (k : Fin 8) (d : List Byte) (full : Bool) (st : Nat), Quiet s → s.m.subState n k = 4 → 60 ≤ d.length →
    s.m.get F.PRT_CFG_MAX_FRAME [n.val] < d.length + 4 →
    exec (.frameReceived n k d true st full) s = .next (s.put ((s.m.runTo st).count F.PRT_STAT_COUNT [n.val, k.val, 6]))) ∧
  (∀ (s : State) (n : Fin 96) (k : Fin 8) (d : List Byte) (st : Nat), Quiet s → s.m.subState n k = 4 →
    s.m.macFault n (d.length + 4) true = none → pfcOf d = none → isPause d = false → s.m.macRx n k = false → s.m.linkAt n k = none →
    exec (.frameReceived n k d true st true) s =
      .next (s.put (((s.m.runTo st).rxCount n k d).count F.PRT_STAT_COUNT [n.val, k.val, 7]))) ∧
  (∀ (s : State) (n : Fin 96) (k : Fin 8) (d : List Byte) (st : Nat), s.m.subState n k = 4 →
    s.m.macFault n (d.length + 4) true = none → pfcOf d = none → isPause d = false → s.m.macRx n k = false → s.m.linkAt n k = none →
    exec (.frameReceived n k d true st false) s = .next (s.ends (((s.m.runTo st).rxCount n k d).ingress n k
      { bytes := d, origin := .port n k, stamp := st / 8192 * 8192, stepTag := s.m.tl.steps % 16 }))) ∧
  (∀ (s : State) (n : Fin 96) (k : Fin 8) (d : List Byte) (t : Nat) (ps : List (Nat × Nat)), s.m.subState n k = 4 →
    s.m.macFault n (d.length + 4) true = none → pfcOf d = some ps → s.m.linkAt n k = none →
    ∃ t', exec (.pfcFrameReceived n k d true t) s = .next t' ∧
      ∀ p q, ps = [(p, q)] → bit (s.m.get F.PRT_CFG_PFC_EN [n.val]) p = true → q ≠ 0 →
        ((∀ o, tget (s.m.hsubOf n k).paused p = some o → o.2 < t) →
          tget (t'.m.hsubOf n k).paused p = some (t + 200 * nsUnit, t + q * s.m.byteTime n 64)) ∧
        (∀ o, tget (s.m.hsubOf n k).paused p = some o → o.1 ≤ t → t ≤ o.2 →
          tget (t'.m.hsubOf n k).paused p = some (o.1, t + q * s.m.byteTime n 64))) ∧
  (∀ (s : State) (n : Fin 96) (lanes : Fin 256), ∃ t, exec (.laneLockAcquired n lanes) s = .next t ∧
    t.m.get F.PRT_STATUS_LANE_LOCK [n.val] = s.m.get F.PRT_STATUS_LANE_LOCK [n.val] ||| lanes.val ∧
    ∀ k, k < s.m.subCount n → t.m.subState n k =
      if s.m.subState n k = 3 ∧ ∀ l ∈ s.m.lanes n k, bit (s.m.get F.PRT_STATUS_LANE_LOCK [n.val] ||| lanes.val) l = true then 4
      else s.m.subState n k) ∧
  (∀ (s : State) (n : Fin 96) (lanes : Fin 256) (k : Nat), k < s.m.subCount n → s.m.subState n k = 3 →
    (∀ l ∈ s.m.lanes n k, bit (s.m.get F.PRT_STATUS_LANE_LOCK [n.val] ||| lanes.val) l = true) →
    ∃ t, exec (.laneLockAcquired n lanes) s = .next t ∧ .linkUp n k ∈ t.m.outs) ∧
  (∀ (s : State) (n : Fin 96) (lanes : Fin 256) (k l : Nat), k < s.m.subCount n → s.m.subState n k = 4 → l ∈ s.m.lanes n k →
    bit lanes l = true → bit (s.m.prtOf n).closing k = false →
    ∃ t, exec (.laneLockLost n lanes) s = .next t ∧ t.m.subState n k = 5 ∧ bit (t.m.get F.PRT_STATUS_LANE_LOCK [n.val]) l = false ∧
      .remoteFault n k true ∈ t.m.outs) ∧
  (∀ (s : State) (n : Fin 96) (k : Fin 8), s.m.subState n k = 4 → bit (s.m.prtOf n).closing k = false →
    ∃ t, exec (.remoteFaultReceived n k) s = .next t ∧ t.m.subState n k = 6 ∧ (t.m.hsubOf n k).tx = none) ∧
  (∀ (s : State) (n : Fin 96) (k : Fin 8), Quiet s → s.m.subState n k ≠ 4 → exec (.remoteFaultReceived n k) s = .next s) ∧
  (∀ (s : State) (n : Fin 96) (k : Fin 8), s.m.subState n k = 5 →
    (∀ l ∈ s.m.lanes n k, bit (s.m.get F.PRT_STATUS_LANE_LOCK [n.val]) l = true) →
    ∃ t, exec (.faultClear n k) s = .next t ∧ t.m.subState n k = 4 ∧ .remoteFault n k false ∈ t.m.outs) ∧
  (∀ (s : State) (n : Fin 96) (k : Fin 8), s.m.subState n k = 6 → ∃ t, exec (.faultClear n k) s = .next t ∧ t.m.subState n k = 4) ∧
  (∀ (s : State) (n : Fin 96) (k : Fin 8), Quiet s → s.m.subState n k ≠ 5 → s.m.subState n k ≠ 6 → exec (.faultClear n k) s = .next s) ∧
  (∀ (s : State) (n : Fin 96) (k : Fin 8), s.m.subState n k = 3 →
    ∃ t, exec (.trainingTimeout n k) s = .next t ∧ (∀ j, j < 8 → t.m.subState n j = s.m.subState n j) ∧
      ∀ l, bit (t.m.get F.PRT_STATUS_LANE_LOCK [n.val]) l =
        if l ∈ s.m.lanes n k then false else bit (s.m.get F.PRT_STATUS_LANE_LOCK [n.val]) l) ∧
  (∀ (s : State) (n : Fin 96) (tx rx : Fin 256), ∃ t, exec (.lightLost n tx rx) s = .next t ∧
    (t.m.prtOf n).txDark = (s.m.prtOf n).txDark ||| tx.val ∧
    ∀ k l, k < s.m.subCount n → s.m.subState n k = 4 → bit (s.m.prtOf n).closing k = false → l ∈ s.m.lanes n k → bit tx l = true →
      t.m.subState n k = 2) ∧
  (∀ (s : State) (n : Fin 96) (tx rx : Fin 256), ∃ t, exec (.lightPresent n tx rx) s = .next t ∧
    (t.m.prtOf n).rxLit = (s.m.prtOf n).rxLit ||| rx.val ∧
    ∀ k, k < s.m.subCount n → s.m.subState n k = 2 → (∀ l ∈ s.m.lanes n k, s.m.delivers (n.val / 8) (4 * (n.val % 8 / 2) + l % 4) = true ∧
      bit tx l = true) → t.m.subState n k = 3) ∧
  (∀ (s : State) (n : Fin 96) (k : Fin 8) (x : Tx), (s.m.hsubOf n k).tx = some x → x.entry.present < x.entry.pkt.cells →
    ∃ t, exec (.transmitUnderrun n k) s = .next t ∧ (t.m.hsubOf n k).tx = none ∧
      .cutFrame n k (x.wire.take (256 * x.entry.present) ++ leBytes 4 (fcsOf (x.wire.take (256 * x.entry.present)) ^^^ 0xFFFFFFFF))
        ∈ t.m.outs ∧
      t.m.get F.PRT_CT_STATUS_THRESH [n.val] = max (s.m.get F.PRT_CT_STATUS_THRESH [n.val])
        (min (s.m.get F.PRT_CT_STATUS_THRESH [n.val] + s.m.get F.PRT_CT_CFG_STEP [n.val]) (s.m.get F.PRT_CT_CFG_MAX [n.val]))) ∧
  (∀ (s : State) (n : Fin 96) (k : Fin 8), Quiet s → (s.m.hsubOf n k).tx = none → exec (.transmitUnderrun n k) s = .next s) ∧
  (∀ (s : State) (n : Fin 96) (th base : Nat), s.m.get F.PRT_CT_STATUS_THRESH [n.val] = th → s.m.get F.PRT_CT_CFG_BASE [n.val] = base →
    ∃ t, exec (.threshDecay n) s = .next t ∧ t.m.get F.PRT_CT_STATUS_THRESH [n.val] =
      (if th < base then th else max base (th - s.m.get F.PRT_CT_CFG_STEP [n.val])) ∧
      t.m.ns = max s.m.ns ((s.m.prtOf n).quietAt + s.m.get F.PRT_CT_CFG_DECAY_S [n.val] * 1000000000) ∧ (t.m.prtOf n).quietAt = t.m.ns)

/-- The port commands and loop-back tests (R70, R182, R183, R184, R186, R190): configuration, enabling, disabling, status, breakout, tests. Clauses on the model's choices: logs 34, 82. -/
def Obligations.PortCommands : Prop :=
  (∀ (s : State) (c : Cmd) (q n v : Nat) (objs : List Obj), objs = [.port n] → mayRun s.m c 0x0601 objs →
    c.all 0x100 = [(q, leBytes 1 n ++ [0, 0, 0] ++ leBytes 8 v)] → c.all 0x101 = [] → n < 96 → v < 2 ^ 64 → maxFrameOk v = true →
    exec (.portConfig c) s = .next (s.ends ((s.m.prtApply c.mid n v).reply (asOp c 0x0601) {}))) ∧
  (∀ (s : State) (c : Cmd) (q n v : Nat), Quiet s → mayRun s.m c 0x0601 [.port n] →
    c.all 0x100 = [(q, leBytes 1 n ++ [0, 0, 0] ++ leBytes 8 v)] → c.all 0x101 = [] → n < 256 → v < 2 ^ 64 →
    95 < n ∨ maxFrameOk v = false →
    exec (.portConfig c) s = .next (s.put (s.m.reply (asOp c 0x0601) (badTlv q)))) ∧
  (∀ (s : State) (c : Cmd) (q n v : Nat), Quiet s → mayRun s.m c 0x0601 [.port n] → c.all 0x100 = [] →
    c.all 0x101 = [(q, leBytes 1 n ++ [0, 0, 0] ++ leBytes 4 v)] → n < 96 → v < 2 ^ 32 → ctOk v = true →
    exec (.portConfig c) s = .next (s.put ((s.m.ctApply n v).reply (asOp c 0x0601) {}))) ∧
  (∀ (m : Mod) (mid n v : Nat), m.linksOn n = [] →
    (m.prtApply mid n v).get F.PRT_CFG_SUB_EN [n] = bits v 3 8 ∧ (m.prtApply mid n v).get F.PRT_CFG_MAX_FRAME [n] = bits v 11 14 ∧
    (m.prtApply mid n v).get F.PRT_CFG_PFC_EN [n] = bits v 25 8) ∧
  (∀ (m : Mod) (n v : Nat), (m.ctApply n v).get F.PRT_CT_CFG_BASE [n] = bits v 1 6 ∧
    (m.ctApply n v).get F.PRT_CT_STATUS_THRESH [n] =
      if bits v 1 6 = m.get F.PRT_CT_CFG_BASE [n] then m.get F.PRT_CT_STATUS_THRESH [n] else bits v 1 6) ∧
  (∀ (s : State) (c : Cmd), mayRun s.m c 0x0602 ((maskPorts c).map .port) →
    exec (.portEnable c) s = .next (s.ends (((maskPorts c).foldl (fun m n => (m.set F.PRT_CFG_ENABLE [n] 1).portFollow n) s.m).reply
      (asOp c 0x0602) {}))) ∧
  (∀ (s : State) (c : Cmd) (m : Mod), mayRun s.m c 0x0603 ((maskPorts c).map .port) →
    m = (maskPorts c).foldl (fun m n => (m.set F.PRT_CFG_ENABLE [n] 0).portFollow n) s.m →
    (∀ n ∈ maskPorts c, (m.prtOf n).closing = 0) →
    exec (.portDisable c) s = .next (s.ends (m.reply (asOp c 0x0603) {}))) ∧
  (∀ (s : State) (c : Cmd) (m : Mod) (n : Nat), mayRun s.m c 0x0603 [.port n] → maskPorts c = [n] →
    m = (s.m.set F.PRT_CFG_ENABLE [n] 0).portFollow n → (m.prtOf n).closing ≠ 0 →
    exec (.portDisable c) s = .next (s.ends ((m.putPrt n { m.prtOf n with waits := (m.prtOf n).waits ++ [asOp c 0x0603] }).place
      (asOp c 0x0603) .executing [.port n]))) ∧
  (∀ (m : Mod) (n k : Nat), k < 8 →
    (m.subOn n k = true → m.subState n k = 0 → (m.portFollow n).subState n k = if m.gated n then 1 else m.lit n) ∧
    (m.subOn n k = false → (m.hsubOf n k).tx = none → (m.portFollow n).subState n k = 0) ∧
    (m.subOn n k = false → m.subState n k ≠ 0 → (m.hsubOf n k).tx ≠ none →
      (m.portFollow n).subState n k = m.subState n k ∧ bit ((m.portFollow n).prtOf n).closing k = true)) ∧
  (∀ (s : State) (c : Cmd) (a : Ans), Quiet s → mayRun s.m c 0x0604 →
    a = okWith [tlv 0x101 ((maskPorts c).flatMap fun n => leBytes 8 n ++ leBytes 8 (s.m.view .PRT_STATUS [n]))] →
    exec (.portStatus c) s = .next (s.put (s.m.reply (asOp c 0x0604)
      (if c.src.limit < (s.m.mkReply c a).bytes.length then badHeader else a)))) ∧
  (∀ (s : State) (c : Cmd) (ch : Nat), Quiet s → mayRun s.m c 0x0605 → c.src = .mailbox ch → leAt (c.val 0x100) 0 1 < 96 →
    leAt (c.val 0x100) 1 1 < 8 →
    exec (.portStatsRead c) s = .next (s.put (s.m.reply (asOp c 0x0605) badHeader))) ∧
  (∀ (s : State) (c : Cmd) (n k : Nat), Quiet s → mayRun s.m c 0x0605 → 256 < c.src.limit → leAt (c.val 0x100) 0 1 = n → leAt (c.val 0x100) 1 1 = k →
    n < 96 → k < 8 →
    exec (.portStatsRead c) s = .next (s.put (Mod.reply (if bit (leAt (c.val 0x100) 2 1) 0 then s.m.resetReg .PRT_STAT [n, k] else s.m)
      (asOp c 0x0605) (okWith [tlv 0x101 ((List.range 32).flatMap fun i => leBytes 8 (s.m.get F.PRT_STAT_COUNT [n, k, i]))])))) ∧
  (∀ (s : State) (c : Cmd), Quiet s → mayRun s.m c 0x0605 → 95 < leAt (c.val 0x100) 0 1 ∨ 7 < leAt (c.val 0x100) 1 1 →
    exec (.portStatsRead c) s = .next (s.put (s.m.reply (asOp c 0x0605) (badTlv (c.pos 0x100))))) ∧
  (∀ (s : State) (c : Cmd) (n code : Nat), mayRun s.m c 0x0606 [.port n] → leAt (c.val 0x100) 0 1 = n →
    leAt (c.val 0x100) 1 1 = code → n < 96 → code < 4 → s.m.flag F.PRT_CFG_ENABLE [n] = false → s.m.flag F.TPL_PTP_PORT_ENABLE [n] = false →
    exec (.breakoutSet c) s = .next (s.ends ((((s.m.set F.PRT_CFG_BREAKOUT [n] code).resetReg .PRT_STAT [n]).lightRefresh n).reply
      (asOp c 0x0606) {}))) ∧
  (∀ (s : State) (c : Cmd) (n : Nat), Quiet s → mayRun s.m c 0x0606 [.port n] → leAt (c.val 0x100) 0 1 = n →
    leAt (c.val 0x100) 1 1 < 4 → n < 96 → s.m.flag F.PRT_CFG_ENABLE [n] = true →
    exec (.breakoutSet c) s = .next (s.put (s.m.reply (asOp c 0x0606) (badTlv (c.pos 0x100) 1)))) ∧
  (∀ (s : State) (c : Cmd) (p n sub : Nat) (v : List Byte) (m : Mod), mayRun s.m c 0x0907 [.port n] → c.tlv 0x100 = some (p, v) →
    leAt v 0 1 = 0 → leAt v 1 1 = n → leAt v 2 1 = sub → n < 96 → sub < s.m.subCount n → 0 < leAt v 4 4 → leAt v 4 4 ≤ 60000 →
    64 ≤ leAt v 12 2 → leAt v 12 2 ≤ s.m.get F.PRT_CFG_MAX_FRAME [n] → s.m.subState n sub = 3 ∨ s.m.subState n sub = 4 →
    m = (((s.m.cutTx n sub 4).subTo n sub 7).closeSub n sub) →
    exec (.portLocal c) s = .next (s.ends (Mod.place (Mod.emit ({ m with cut := { m.cut with loops := m.cut.loops ++
      [{ cmd := asOp c 0x0907, kind := 0, port := n, sub := sub, since := m.ns, dur := leAt v 4 4, count := leAt v 8 4 }] } }) (.loopFrame n sub (leAt v 8 4) (leAt v 12 2))) (asOp c 0x0907) .executing [.port n]))) ∧
  (∀ (s : State) (c : Cmd) (p n sub : Nat) (v : List Byte) (m : Mod), mayRun s.m c 0x0907 [.port n] → c.tlv 0x100 = some (p, v) →
    leAt v 0 1 = 1 → leAt v 1 1 = n → leAt v 2 1 = sub → n < 96 → sub < s.m.subCount n → 0 < leAt v 4 4 → leAt v 4 4 ≤ 60000 →
    s.m.subState n sub = 3 ∨ s.m.subState n sub = 4 → m = (((s.m.cutTx n sub 4).subTo n sub 7).closeSub n sub) →
    exec (.portRemote c) s = .next (s.ends (Mod.place { m with cut := { m.cut with loops := m.cut.loops ++
      [{ cmd := asOp c 0x0907, kind := 1, port := n, sub := sub, since := m.ns, dur := leAt v 4 4, count := leAt v 8 4 }] } } (asOp c 0x0907) .executing [.port n]))) ∧
  (∀ (s : State) (c : Cmd) (p n : Nat) (v : List Byte), mayRun s.m c 0x0907 [.endpoint n] → c.tlv 0x100 = some (p, v) →
    leAt v 0 1 = 2 → leAt v 1 1 = n → n < 32 → 0 < leAt v 8 4 → leAt v 8 4 ≤ 65536 → 64 ≤ leAt v 12 2 →
    s.m.midFn s.m.managerMid = some (pf n) → s.m.get F.SEL_FREEZE_EP_STATE (epIx n) = 0 →
    exec (.hostDma c) s = .next (s.ends (Mod.place (Mod.hostRead ({ s.m with cut := { s.m.cut with loops := s.m.cut.loops ++
      [{ cmd := asOp c 0x0907, kind := 2, port := n, sub := 0, since := s.m.ns, count := leAt v 8 4, src := leAt v 16 8, dst := leAt v 24 8, len := leAt v 12 2, left := leAt v 8 4 }] } })
        (pf n) (leAt v 16 8) (leAt v 12 2) none .loopback) (asOp c 0x0907) .executing [.endpoint n]))) ∧
  (∀ (s : State) (c : Cmd) (p n sub : Nat) (v : List Byte), Quiet s → mayRun s.m c 0x0907 [.port n] → c.tlv 0x100 = some (p, v) →
    leAt v 0 1 = 1 → leAt v 1 1 = n → leAt v 2 1 = sub → n < 96 → sub < s.m.subCount n → 0 < leAt v 4 4 → leAt v 4 4 ≤ 60000 →
    s.m.subState n sub ≠ 3 → s.m.subState n sub ≠ 4 →
    exec (.portRemote c) s = .next (s.put (s.m.reply (asOp c 0x0907) (badTlv p 1)))) ∧
  (∀ (s : State) (n : Fin 96) (r : LoopResult) (x : LoopTest), s.m.cut.loops = [x] → x.port = n.val → x.kind < 2 →
    exec (.diagLoopbackEnd false n r) s = .next (s.ends ((s.m.runToNs (x.since + x.dur * 1000000)).loopEnd x stOk r))) ∧
  (∀ (s : State) (n : Fin 96) (r : LoopResult) (x : LoopTest), s.m.cut.loops = [x] → x.port = n.val → x.kind = 2 → x.left = 0 →
    exec (.diagLoopbackEnd true n r) s = .next (s.ends (s.m.loopEnd x stOk r))) ∧
  (∀ (s : State) (host : Bool) (n : Fin 96) (r : LoopResult), Quiet s → s.m.cut.loops = [] →
    exec (.diagLoopbackEnd host n r) s = .next s) ∧
  (∀ (m : Mod) (x : LoopTest) (st : Nat) (r : LoopResult), (∀ e ∈ m.cut.pool, e.cmd = x.cmd → e.dead = false) →
    (∀ y ∈ (m.loopEnd x st r).cut.loops, y.cmd ≠ x.cmd) ∧
    ∃ p, answered (m.loopEnd x st r) p ∧ p.tag = x.cmd.tag ∧ p.status = st ∧ p.tlvs.head? = some (tlv 0x101 (x.result r)))

/-- What the module says of itself (R65, R66): MOD_IDENTIFY before and after READY, MOD_STATUS; nothing else changes. Clauses on the model's choices: log 8. -/
def Obligations.ModuleQueries : Prop :=
  (∀ (s : State) (c : Cmd), Quiet s → mayRun s.m c 0x0001 →
    exec (.modIdentify c) s = .next (s.put (s.m.reply (asOp c 0x0001) (okWith [tlv 0x101 (serial ++ leBytes 4 glbId ++ leBytes 4 0 ++
      leBytes 8 (s.m.view .GLB_CAPS []) ++ beBytes 6 oobMac ++ beBytes 6 portMacBase ++
      beBytes 8 Config.clockIdentity.toNat ++ (match s.m.img.loaded with | some b => b.take 8 | none => List.replicate 8 0) ++
      leBytes 1 s.m.chalk.dir.role ++ leBytes 1 s.m.chalk.dir.module ++ [0, 0])])))) ∧
  (∀ (s : State) (c : Cmd), Quiet s → mayRun s.m c 0x0002 → s.m.phaseSrc = none →
    exec (.modStatus c) s = .next (s.put (s.m.reply (asOp c 0x0002) (okWith [tlv 0x101 (leBytes 8 (s.m.view .GLB_START []) ++
      leBytes 4 (s.m.view .CUT_STATUS []) ++ leBytes 4 (s.m.view .PWR_TEMPO_STATUS []) ++
      ((List.range 8).flatMap fun k => leBytes 2 (s.m.get F.PWR_TEMPO_SLICE_TEMPO [k])) ++ leBytes 2 (s.m.get F.PWR_TEMPO_HUB_TEMPO) ++
      leBytes 2 0 ++ leBytes 8 (s.m.view .PWR_INPUT []) ++ leBytes 4 (bound32 s.m.bound) ++ leBytes 1 s.m.servo ++
      leBytes 1 (b2n (s.m.flag F.TPL_STATE_TRACEABLE) + 2 * b2n (s.m.flag F.TPL_STATE_HOLD_READY) +
        4 * b2n (s.m.flag F.TPL_STATE_HOLD_GRADE_A)) ++
      leBytes 2 0xFFFF ++ leBytes 4 (s.m.view .PWR_GATE_STATUS [] % 2 ^ 32))])))) ∧
  (∀ (s : State) (c : Cmd), s.m.phase < 5 → s.m.requesterFrozen (asOp c 0x0001) = false → c.inst = 0xFFFF →
    s.m.hasA c.mid = true → c.tlvs = [] → s.m.holder (asOp c 0x0001) [] = none → s.m.isDead (asOp c 0x0001) = false →
    mayRun s.m c 0x0001) ∧
  (∀ (s : State) (c : Cmd), Quiet s → s.m.phase < 5 → s.m.requesterFrozen (asOp c 0x0002) = false → c.inst = 0xFFFF →
    s.m.hasA c.mid = true → c.tlvs = [] →
    exec (.modStatus c) s = .next (s.put (s.m.reply (asOp c 0x0002) { status := stBusy })))

/-- Transmission (R311, R312, R316, R323 to R326): a sub-port starts a frame at a frame boundary, the timed list first, then the class that
strict priority gives; a frame that ends is sent and told; a timed frame is prepared, late, or dropped. Clauses on the model's choices: logs 33, 37. -/
def Obligations.Transmission : Prop :=
  (∀ (s : State) (n : Fin 96) (k : Fin 8), Quiet s →
    s.m.subState n k ≠ 4 ∨ (s.m.hsubOf n k).tx ≠ none ∨ bit (s.m.prtOf n).closing k = true → exec (.frameBoundary n k) s = .next s) ∧
  (∀ (s : State) (n : Fin 96) (k : Fin 8) (m : Mod), s.m.subState n k = 4 → (s.m.hsubOf n k).tx = none →
    bit (s.m.prtOf n).closing k = false → m = s.m.jxlFlush.hemGates n → (m.hemOf n).timed = [] →
    exec (.frameBoundary n k) s = .next (s.ends ((m.putHsub n k { m.hsubOf n k with
      deficit := (m.hsubOf n k).deficit.filter fun d => bit (m.gatesNow n) d.1 }).startClass n k))) ∧
  (∀ (s : State) (n : Fin 96) (k : Fin 8) (m : Mod) (x : Timed) (xs : List Timed), s.m.subState n k = 4 → (s.m.hsubOf n k).tx = none →
    bit (s.m.prtOf n).closing k = false → m = s.m.jxlFlush.hemGates n → (m.hemOf n).timed = x :: xs → x.leave = .onTime → x.due = true →
    x.sub = k.val → m.pausedBy n k x.entry.pkt.tc = false →
    exec (.frameBoundary n k) s = .next (s.ends (((m.putHsub n k { m.hsubOf n k with
      deficit := (m.hsubOf n k).deficit.filter fun d => bit (m.gatesNow n) d.1 }).untime n x).startTx n k x.entry.pkt.tc x.entry
        (some .onTime) (max m.now (x.launch * nsUnit))))) ∧
  (∀ (m : Mod) (n k : Nat) (el : List Elig), el.getD 7 .no = .yes → (m.pickClass n k el).map (·.1) = some 7) ∧
  (∀ (m : Mod) (n k c : Nat) (el : List Elig), el.getD 7 .no ≠ .yes → c < 7 → el.getD c .no = .yes →
    m.get (F.HEM_SCHED_STRICT c) (portIx n) = 1 →
    (∀ j, c < j → j < 7 → m.get (F.HEM_SCHED_STRICT j) (portIx n) = 1 → el.getD j .no ≠ .yes) →
    (m.pickClass n k el).map (·.1) = some c) ∧
  (∀ (m : Mod) (n k : Nat) (el : List Elig), (∀ c, c < 8 → el.getD c .no ≠ .yes) → m.pickClass n k el = none) ∧
  (∀ (m : Mod) (n k c : Nat), m.elig n k c = .yes → ∃ e, m.classHead n k c = some e ∧ m.startable n e false = true ∧
    bit (m.gatesNow n) c = true ∧ m.pausedBy n k c = false ∧ m.creditOk n k e.pkt.bytes = true) ∧
  (∀ (m : Mod) (n k c start : Nat) (e : EgEntry) (timed : Option Leave) (w : List Byte),
    (m.toWire n k (ownStamp (m.linkAt n k).isSome e.pkt.bytes start)).1 = some w →
    (w.length + 4 ≤ m.get F.PRT_CFG_MAX_FRAME [n] → ((m.startTx n k c e timed start).hsubOf n k).tx =
      some ⟨e, c, timed, start, m.stepTag, w, m.flag F.HEM_LAUNCH_CFG_GUARD_EN (portIx n) && timed.isNone⟩) ∧
    (m.get F.PRT_CFG_MAX_FRAME [n] < w.length + 4 → ((m.startTx n k c e timed start).hsubOf n k).tx = (m.hsubOf n k).tx)) ∧
  (∀ (d : List Byte), 60 ≤ (padded d).length ∧ (padded d).take d.length = d ∧ ∀ b ∈ (padded d).drop d.length, b = 0) ∧
  (∀ (s : State) (n : Fin 96) (k : Fin 8) (x : Tx), (s.m.hsubOf n k).tx = some x → x.entry.pkt.cells ≤ x.entry.present →
    ∃ t, exec (.frameTransmitEnd n k) s = .next t ∧ (t.m.hsubOf n k).tx = none ∧ .frame n k x.wire ∈ t.m.outs ∧
      t.m.now = max s.m.now (x.start + s.m.byteTime n (x.wire.length + 4))) ∧
  (∀ (s : State) (n : Fin 96) (k : Fin 8), Quiet s → ((s.m.hsubOf n k).tx = none ∨
      ∃ x, (s.m.hsubOf n k).tx = some x ∧ x.entry.present < x.entry.pkt.cells) → exec (.frameTransmitEnd n k) s = .next s) ∧
  (∀ (s : State) (n : Fin 96) (x : Timed), Quiet s → (s.m.hemOf n).timed = [x] → x.leave = .onTime → x.due = false →
    s.m.ns ≤ x.launch - 1000 → s.m.startable n x.entry true = true →
    exec (.timedFrameDue n) s = .next (s.put ((s.m.runToNs (x.launch - 1000)).timedMap fun y =>
      if y.entry.id = x.entry.id then { y with due := true } else y))) ∧
  (∀ (s : State) (n : Fin 96) (x : Timed), Quiet s → (s.m.hemOf n).timed = [x] → x.leave = .onTime → x.due = false →
    x.launch - 1000 < s.m.ns → s.m.flag F.HEM_LAUNCH_CFG_LATE (portIx n) = false →
    exec (.timedFrameDue n) s = .next (s.put (s.m.timedMap fun y => if y.entry.id = x.entry.id then { y with leave := .late } else y))) ∧
  (∀ (s : State) (n : Fin 96) (x : Timed), Quiet s → (s.m.hemOf n).timed = [x] → x.leave = .onTime → x.due = false →
    x.launch - 1000 < s.m.ns → s.m.flag F.HEM_LAUNCH_CFG_LATE (portIx n) = true →
    ∃ t, exec (.timedFrameDue n) s = .next t ∧ (t.m.hemOf n).timed = []) ∧
  (∀ (s : State) (n : Fin 96), Quiet s → (s.m.hemOf n).timed = [] → exec (.timedFrameDue n) s = .next s)

/-- Calendars (R314, R315, R318 to R322, R330): which entry runs, what happens at its boundaries, writing, activating and reading one. Clauses on the model's choices: log 37. -/
def Obligations.Calendars : Prop :=
  (∀ (c : Cal) (t : Nat), 0 < c.length → c.index t < c.length ∧ c.startOf (c.index t) ≤ c.offset t / 8 ∧
    (c.index t + 1 < c.length → c.offset t / 8 < c.startOf (c.index t + 1))) ∧
  (∀ (c : Cal) (t : Nat), 0 < c.cycle → c.offset t < 8 * c.cycle ∧ t ≤ c.cycleAt t ∧ c.offset (c.cycleAt t) = 0 ∧
    c.cycleAt t < t + 8 * c.cycle) ∧
  (∀ (s : State) (n : Fin 96) (t : Nat), Quiet s → (s.m.hemOf n).active = none → exec (.calendarEntryBoundary n t) s = .next s) ∧
  (∀ (s : State) (n : Fin 96) (t : Nat) (c : Cal), Quiet s → (s.m.hemOf n).active = some c → s.m.ns ≤ t → c.begins t = true →
    c.offset t ≠ 0 → exec (.calendarEntryBoundary n t) s = .next (s.put ((s.m.runToNs t).hemGates n))) ∧
  (∀ (s : State) (n : Fin 96) (t : Nat) (c : Cal), Quiet s → (s.m.hemOf n).active = some c → s.m.ns ≤ t → c.offset t = 0 →
    (s.m.hemOf n).held = none →
    exec (.calendarEntryBoundary n t) s = .next (s.put ((((s.m.runToNs t).putHem n { s.m.hemOf n with override_ := s.m.calPolicy }).jxlCycle n).hemGates n))) ∧
  (∀ (m : Mod) (n : Nat), ((m.hemGates n).hemOf n).gates = m.gatesNow n ∧ (m.hemGates n).gatesNow n = m.gatesNow n) ∧
  (∀ (h : HemPort) (pol : Option Nat) (now t : Nat), h.held = none → h.arm = none →
    (h.active = none → h.gatesAt pol now t = 255) ∧
    (∀ c, h.active = some c → t < c.cycleAfter now → h.override_ = none → h.gatesAt pol now t = c.gates t)) ∧
  (∀ (s : State) (n : Fin 96) (a : CalArm), (s.m.hemOf n).arm = some a →
    ∃ t, exec (.calendarActivation n) s = .next t ∧ (t.m.hemOf n).arm = none ∧ t.m.now = max s.m.now (a.whenNs * nsUnit) ∧
      (a.stop = true → (t.m.hemOf n).active = none ∧ (t.m.hemOf n).gates = 255) ∧
      (a.stop = false → (t.m.hemOf n).active = some (s.m.hemOf n).shadow ∧ (t.m.hemOf n).shadow = (s.m.hemOf n).active.getD {})) ∧
  (∀ (s : State) (n : Fin 96), Quiet s → (s.m.hemOf n).arm = none → exec (.calendarActivation n) s = .next s) ∧
  (∀ (s : State) (c : Cmd) (q n : Nat) (v : List Byte), Quiet s → mayRun s.m c 0x0409 [.calendar n] → leAt (c.val 0x100) 0 1 = n → n < 96 →
    c.all 0x101 = [(q, v)] → c.all 0x102 = [] → cycleOk v = true →
    exec (.calWrite c) s = .next (s.put ((s.m.putHem n { s.m.hemOf n with shadow :=
      { (if bit (leAt (c.val 0x100) 1 1) 0 then {} else (s.m.hemOf n).shadow) with
        base := leAt v 0 6 * 1000000000 + leAt v 6 4, cycle := leAt v 12 4, length := leAt v 16 2 } }).reply (asOp c 0x0409) {}))) ∧
  (∀ (s : State) (c : Cmd) (q n i e : Nat), Quiet s → mayRun s.m c 0x0409 [.calendar n] → leAt (c.val 0x100) 0 1 = n → n < 96 →
    bit (leAt (c.val 0x100) 1 1) 0 = false → c.all 0x101 = [] → i < 4096 → 0 < entryInterval e → e < 2 ^ 31 →
    c.all 0x102 = [(q, leBytes 2 i ++ leBytes 2 1 ++ leBytes 4 e)] →
    exec (.calWrite c) s = .next (s.put ((s.m.putHem n { s.m.hemOf n with shadow := { (s.m.hemOf n).shadow with
      entries := tput (s.m.hemOf n).shadow.entries i e } }).reply (asOp c 0x0409) {}))) ∧
  (∀ (s : State) (c : Cmd) (q n : Nat) (v : List Byte), Quiet s → mayRun s.m c 0x0409 [.calendar n] → leAt (c.val 0x100) 0 1 = n → n < 96 →
    c.all 0x101 = [(q, v)] → cycleOk v = false → exec (.calWrite c) s = .next (s.put (s.m.reply (asOp c 0x0409) (badTlv q)))) ∧
  (∀ (s : State) (c : Cmd) (q n : Nat) (v : List Byte), Quiet s → c.all 0x100 = [(q, v)] → leAt v 0 1 = n →
    mayRun s.m c 0x040A [.calendar n] → s.m.activateBad v = none → s.m.calPolicy = none →
    exec (.calActivate c) s = .next (s.put ((s.m.putHem n { s.m.hemOf n with arm := some { whenNs := s.m.calWhen v, stop := bit (leAt v 1 1) 0, cmd := asOp c 0x040A } }).place (asOp c 0x040A)
        .executing [.calendar n]))) ∧
  (∀ (s : State) (c : Cmd) (q n d : Nat) (v : List Byte), Quiet s → c.all 0x100 = [(q, v)] → leAt v 0 1 = n →
    mayRun s.m c 0x040A [.calendar n] → s.m.activateBad v = some d →
    exec (.calActivate c) s = .next (s.put (s.m.reply (asOp c 0x040A) (badTlv q d)))) ∧
  (∀ (s : State) (c : Cmd) (q n p : Nat) (v : List Byte), Quiet s → c.all 0x100 = [(q, v)] → leAt v 0 1 = n →
    mayRun s.m c 0x040A [.calendar n] → s.m.activateBad v = none → s.m.calPolicy = some p →
    exec (.calActivate c) s = .next (s.put (s.m.reply (asOp c 0x040A) { status := stNotTraceable }))) ∧
  (∀ (m : Mod) (v : List Byte), m.activateBad v = none → leAt v 0 1 < 96 ∧ m.ns + 100000 ≤ m.calWhen v ∧
    m.calWhen v ≤ m.ns + 60000000000 ∧ (bit (leAt v 1 1) 0 = false → (m.hemOf (leAt v 0 1)).shadow.cycle ≠ 0)) ∧
  (∀ (s : State) (c : Cmd) (n : Nat) (cal : Cal), Quiet s → mayRun s.m c 0x040B → leAt (c.val 0x100) 0 1 = n → n < 96 →
    leAt (c.val 0x100) 2 2 = 0 → leAt (c.val 0x100) 4 2 = 1 → c.tlv 3 = none →
    cal = (if bit (leAt (c.val 0x100) 1 1) 0 then (s.m.hemOf n).shadow else (s.m.hemOf n).active.getD {}) → cal.cycle ≠ 0 →
    exec (.calQuery c) s = .next (s.put (s.m.reply (asOp c 0x040B) (okWith [tlv 0x101 (leBytes 8 (s.m.viewCal n)), tlv 0x102 cal.bytes,
      tlv 0x103 (leBytes 2 0 ++ leBytes 2 1 ++ leBytes 4 (cal.entry 0))])))) ∧
  (∀ (s : State) (c : Cmd), Quiet s → mayRun s.m c 0x040B → 95 < leAt (c.val 0x100) 0 1 ∨ 4096 ≤ leAt (c.val 0x100) 2 2 ∨
      1024 < leAt (c.val 0x100) 4 2 →
    exec (.calQuery c) s = .next (s.put (s.m.reply (asOp c 0x040B) (badTlv (c.pos 0x100)))))

/-- Bobbins and optical engines (R193 to R200): a slot's states, the laser servo, spares, hours, life, calibration. Clauses on the model's choices: log 36. -/
def Obligations.Bobbins : Prop :=
  (∀ (s : State) (k : Fin 12), Quiet s → s.m.bobState k = 0 →
    exec (.bobbinPresenceGained k) s = .next (s.put (if s.m.i3cUp then ((s.m.set F.BOB_STATUS_STATE [k.val] 1).putBob k
      { s.m.bobOf k with seated := decide (s.m.phase ≠ 5) }).emit (.i3cRead k)
      else (s.m.set F.BOB_STATUS_STATE [k.val] 1).putBob k { s.m.bobOf k with seated := decide (s.m.phase ≠ 5) }))) ∧
  (∀ (s : State) (k : Fin 12), Quiet s → s.m.bobState k ≠ 0 → exec (.bobbinPresenceGained k) s = .next s) ∧
  (∀ (s : State) (k : Fin 12), s.m.bobState k ≠ 0 →
    ∃ t, exec (.bobbinPresenceLost k) s = .next t ∧ t.m.bobState k = 0 ∧ .laser k false ∈ t.m.outs ∧
      (s.m.bobState k ≠ 5 → t.m.get F.BOB_STATUS_UNPREPARED_REMOVAL [k.val] = 1) ∧
      (s.m.bobState k = 5 → t.m.get F.BOB_STATUS_UNPREPARED_REMOVAL [k.val] = s.m.get F.BOB_STATUS_UNPREPARED_REMOVAL [k.val])) ∧
  (∀ (s : State) (k : Fin 12), Quiet s → s.m.bobState k = 0 → exec (.bobbinPresenceLost k) s = .next s) ∧
  (∀ (s : State) (k : Fin 12) (x : BobbinIdent), s.m.bobState k = 1 →
    ∃ t, exec (.bobbinIdentified k x) s = .next t ∧ t.m.bobState k = (if x.ok && s.m.partListed x.part then 2 else 6) ∧
      (x.ok = true → s.m.partListed x.part = true → .laser k true ∈ t.m.outs ∧ (t.m.bobOf k).serial = slice x.serial 0 16 ∧
        ((s.m.bobOf k).seated = false → t.m.get F.OPT_STATUS_CAL [k.val] = 1))) ∧
  (∀ (s : State) (k : Fin 12) (x : BobbinIdent), Quiet s → s.m.bobState k ≠ 1 →
    exec (.bobbinIdentified k x) s = .next s ∧ exec (.bobbinIdentifyTimeout k) s = .next s) ∧
  (∀ (s : State) (k : Fin 12), s.m.bobState k = 1 → s.m.i3cUp = false →
    ∃ t, exec (.bobbinIdentifyTimeout k) s = .next t ∧ t.m.bobState k = 6) ∧
  (∀ (s : State) (k : Fin 12) (bias : List Nat), s.m.bobState k = 2 →
    (∃ t, exec (.bobbinWarmed k bias true) s = .next t ∧ (t.m.bobState k = 3 ∨ t.m.bobState k = 4) ∧
      t.m.get F.OPT_STATUS_CAL [k.val] = 0 ∧ ∃ l, .calib (s.m.bobOf k).serial l ∈ t.m.wheel.chalkq ∧
        ∀ j, j < 20 → l.getD j 0 = bias.getD j 0 % 2 ^ F.BOB_LASER_BIAS.w) ∧
    (s.m.bobStored k = false → ∃ t, exec (.bobbinWarmed k bias false) s = .next t ∧ t.m.bobState k = 6 ∧
      t.m.get F.OPT_STATUS_CAL [k.val] = 2 ∧ .laser k false ∈ t.m.outs)) ∧
  (∀ (s : State) (k : Fin 12) (bias : List Nat) (p : Bool), s.m.bobState k = 3 ∨ s.m.bobState k = 4 →
    bit (s.m.get F.PWR_GATE_STATUS_GATED_OE) k = false →
    ∃ t, exec (.bobbinWarmed k bias p) s = .next t ∧ (t.m.bobOf k).dark = false) ∧
  (∀ (s : State) (k : Fin 12) (bias : List Nat) (fault : Fin 1048576) (temp eng : Fin 256), s.m.driven k = true →
    ∃ t, exec (.laserServo k bias fault temp eng) s = .next t ∧ t.m.get F.BOB_STATUS_TEMP [k.val] = temp ∧
      t.m.get F.OPT_STATUS_TEMP [k.val] = eng ∧ ∀ j, j < 20 → t.m.get F.BOB_LASER_BIAS [k.val, j] = bias.getD j 0 % 2 ^ F.BOB_LASER_BIAS.w ∧
        t.m.flag F.BOB_LASER_FAULT [k.val, j] = bit fault j ∧ .bias k j (bias.getD j 0) ∈ t.m.outs) ∧
  (∀ (s : State) (k : Fin 12) (j : Fin 16) (c : Option Cmd), tget (s.m.bobOf k).switching j = some c →
    ∃ t, exec (.spareSwitchDone k j) s = .next t ∧ t.m.laserRole k j = 3 ∧ t.m.laserRole k (16 + j.val % 4) = 2 ∧
      t.m.get F.BOB_LASER_SERVING [k.val, 16 + j.val % 4] = j ∧ tget (t.m.bobOf k).switching j = none) ∧
  (∀ (s : State) (k : Fin 12) (j : Fin 16), Quiet s → tget (s.m.bobOf k).switching j = none →
    exec (.spareSwitchDone k j) s = .next s) ∧
  (∀ (s : State) (k : Fin 12), Quiet s → 2 ≤ s.m.bobState k → s.m.bobState k ≠ 6 →
    ∃ t, exec (.bobbinHoursWrite k) s = .next t ∧ t.m.regs = s.m.regs ∧ (s.m.i3cUp = true →
      ∀ j, j < 20 → .i3cHours k j (s.m.get F.BOB_LASER_EQ_HOURS [k.val, j]) ∈ t.m.outs) ∧
      .hours (s.m.bobOf k).serial ((List.range 20).map fun j => s.m.get F.BOB_LASER_EQ_HOURS [k.val, j]) ∈ t.m.wheel.chalkq) ∧
  (∀ (m : Mod) (serial : List Byte) (l : List Nat),
    (∀ r ∈ (m.hoursKept serial l).chalk.bobbins, r.serial = serial → ∀ j, j < l.length → tgetD r.hours j 0 = l.getD j 0) ∧
    (∀ r ∈ (m.calibKept serial l).chalk.calib, r.serial = serial → r.bias = l)) ∧
  (ageRate 45 = 2 ^ 32 ∧ ∀ t, 45 ≤ t → ageRate (t + 10) = 2 * ageRate t) ∧
  (∀ (s : State) (k : Fin 12) (j : Fin 20), Quiet s → tgetD (s.m.bobOf k).aged j 0 < eqHour → exec (.lifePrediction k j) s = .next s) ∧
  (∀ (s : State) (k : Fin 12) (j : Fin 20) (eq : Nat), eqHour ≤ tgetD (s.m.bobOf k).aged j 0 → eq = min 131071 (s.m.get F.BOB_LASER_EQ_HOURS [k.val, j.val] + 1) →
    ∃ t, exec (.lifePrediction k j) s = .next t ∧ t.m.get F.BOB_LASER_EQ_HOURS [k.val, j.val] = eq ∧
      t.m.get F.BOB_LASER_REMAIN_H [k.val, j.val] = remainHours (s.m.get F.BOB_LASER_BOL_BIAS [k.val, j.val]) (s.m.get F.BOB_POLICY_EOL_PCT)
        (s.m.get F.BOB_LASER_BIAS [k.val, j.val]) eq (((eq, s.m.get F.BOB_LASER_BIAS [k.val, j.val]) :: tgetD (s.m.bobOf k).history j []).filter
          fun p => decide (eq < p.1 + 1000))) ∧
  (∀ bol pct bias eq pts, (eq < 1000 → remainHours bol pct bias eq pts = 0xFFFF) ∧ remainHours bol pct bias eq pts ≤ 0xFFFF) ∧
  (∀ (s : State) (c : Cmd) (e : Nat), Quiet s → mayRun s.m c 0x0607 [.oe e] → leAt (c.val 0x100) 0 1 = e → e < 12 →
    leAt (c.val 0x100) 1 1 = 0 →
    exec (.optCalibrate c) s = .next (s.put ((if s.m.driven e then s.m.calibDone e else s.m).reply (asOp c 0x0607) {}))) ∧
  (∀ (s : State) (c : Cmd) (e : Nat), mayRun s.m c 0x0607 [.oe e] → leAt (c.val 0x100) 0 1 = e → e < 12 →
    leAt (c.val 0x100) 1 1 = 1 → exec (.optCalibrate c) s = .next (s.ends ((((s.m.set F.OPT_STATUS_CAL [e] 1).putBob e
      { s.m.bobOf e with calCmd := some (asOp c 0x0607) }).bobFollow e).place (asOp c 0x0607) .executing [.oe e]))) ∧
  (∀ (s : State) (k : Fin 12) (pass : Bool) (c : Cmd), (s.m.bobOf k).calCmd = some c → (∀ e ∈ s.m.cut.pool, e.cmd = c → e.dead = false) →
    ∃ t, exec (.fullCalibrationDone k pass) s = .next t ∧ t.m.get F.OPT_STATUS_CAL [k.val] = (if pass then 0 else 2) ∧
      (t.m.bobOf k).calCmd = none ∧ ∃ p, answered t.m p ∧ p.tag = c.tag ∧ p.status = stOk) ∧
  (∀ (s : State) (k : Fin 12) (pass : Bool), Quiet s → (s.m.bobOf k).calCmd = none → exec (.fullCalibrationDone k pass) s = .next s) ∧
  (∀ (s : State) (c : Cmd) (k : Nat), Quiet s → mayRun s.m c 0x0608 → leAt (c.val 0x100) 0 1 = k → k < 12 → 256 < c.src.limit →
    exec (.bobbinStatus c) s = .next (s.put (s.m.reply (asOp c 0x0608) (okWith [tlv 0x101 (slice (s.m.bobOf k).ident 0 128),
      tlv 0x102 (leBytes 8 (s.m.view .BOB_STATUS [k])), tlv 0x103 ((List.range 20).flatMap fun j => leBytes 8 (s.m.view .BOB_LASER [k, j]))])))) ∧
  (∀ (s : State) (c : Cmd) (ch : Nat), Quiet s → mayRun s.m c 0x0608 → c.src = .mailbox ch → leAt (c.val 0x100) 0 1 < 12 →
    exec (.bobbinStatus c) s = .next (s.put (s.m.reply (asOp c 0x0608) badHeader))) ∧
  (∀ (s : State) (c : Cmd) (k j : Nat), Quiet s → mayRun s.m c 0x0609 [.bobbin (16 + k)] → leAt (c.val 0x100) 0 1 = k →
    leAt (c.val 0x100) 1 1 = j → k < 12 → j < 16 → s.m.driven k = true → s.m.laserRole k j = 0 →
    exec (.bobbinSpareSwitch c) s = .next (s.put (if s.m.spareFree k j then
      (s.m.spareBegin k j (some (asOp c 0x0609))).place (asOp c 0x0609) .executing [.bobbin (16 + k)]
      else s.m.reply (asOp c 0x0609) { status := stNoResource }))) ∧
  (∀ (s : State) (c : Cmd) (k : Nat), mayRun s.m c 0x060A [.bobbin k] → leAt (c.val 0x100) 0 1 = k → k < 12 →
    bit (leAt (c.val 0x100) 1 1) 0 = false → s.m.bobState k = 3 ∨ s.m.bobState k = 4 → (s.m.bobOf k).switching = [] →
    exec (.bobbinRemovePrepare c) s = .next (s.ends ((s.m.bobPrepare k).reply (asOp c 0x060A) {})) ∧
    (s.m.bobPrepare k).bobState k = 5 ∧ .laser k false ∈ (s.m.bobPrepare k).outs) ∧
  (∀ (s : State) (c : Cmd) (k : Nat), Quiet s → mayRun s.m c 0x060A [.bobbin k] → leAt (c.val 0x100) 0 1 = k → k < 12 →
    bit (leAt (c.val 0x100) 1 1) 0 = false → s.m.bobState k = 3 ∨ s.m.bobState k = 4 → (s.m.bobOf k).switching ≠ [] →
    exec (.bobbinRemovePrepare c) s = .next (s.put ((s.m.putBob k { s.m.bobOf k with prepare := some (asOp c 0x060A) }).place (asOp c 0x060A)
      .executing [.bobbin k])))

/-- Threads and engines (R203 to R218, R239, R244, R245): dispatch, timers, one step of an engine, responses, faults, banks, quarantine, the
control store. Clauses on the model's choices: logs 41, 42. -/
def Obligations.ShuttleThreads : Prop :=
  (∀ (s : State) (sl : Fin 8), Quiet s → s.m.plt.inq = [] → exec (.dispatch sl) s = .next s) ∧
  (∀ (s : State) (sl : Fin 8) (q k e t : Nat) (p : Pkt), Quiet s → q < 17 → k = inqKey sl q false → s.m.plt.inq = [(k, [p])] →
    s.m.offer sl p false = .ok e t →
    exec (.dispatch sl) s = .next (s.put (((s.m.putInq k []).startPass sl e t { p with waited := false, laneWaited := false } false).setShu
      fun u => { u with lastQ := tput u.lastQ sl q }))) ∧
  (∀ (s : State) (sl : Fin 8) (q k : Nat) (p : Pkt), Quiet s → q < 17 → k = inqKey sl q false → s.m.plt.inq = [(k, [p])] →
    s.m.offer sl p false = .noEntry →
    exec (.dispatch sl) s = .next (s.put ((((((s.m.putInq k []).freeAll p.charges).shuCount sl 1).sendLost p 6)).setShu
      fun u => { u with lastQ := tput u.lastQ sl q }))) ∧
  (∀ (m : Mod) (s e t : Nat) (p : Pkt) (ctrl : Bool), ((m.startPass s e t p ctrl).th s e t).state = 1 ∧
    ((m.startPass s e t p ctrl).th s e t).upc = m.entryOf s p ∧
    ((m.startPass s e t p ctrl).th s e t).seq = (m.seamOf s).next ∧ ((m.startPass s e t p ctrl).th s e t).window = slice p.bytes 0 256 ∧
    ((m.startPass s e t p ctrl).seamOf s).next = ((m.seamOf s).next + 1) % 2 ^ 24) ∧
  (∀ (s : State) (sl : Fin 8) (k : Fin 64) (t : Nat) (ptp : List (PtpSend × Fin 96)) (esmc : List (Fin 96)), Quiet s →
    s.m.flag F.SHU_TIMER_ENABLE [sl.val, k.val] = false ∨ s.m.get F.SHU_TIMER_PERIOD_US [sl.val, k.val] = 0 →
    exec (.shuttleTimerFire sl k t ptp esmc) s = .next s) ∧
  (∀ (s : State) (sl : Fin 8) (k : Fin 64) (t : Nat) (ptp : List (PtpSend × Fin 96)) (esmc : List (Fin 96)), Quiet s →
    s.m.flag F.SHU_TIMER_ENABLE [sl.val, k.val] = true → s.m.get F.SHU_TIMER_PERIOD_US [sl.val, k.val] ≠ 0 → t % 1000 = 0 →
    t / 1000 % s.m.get F.SHU_TIMER_PERIOD_US [sl.val, k.val] = s.m.get F.SHU_TIMER_PHASE_US [sl.val, k.val] →
    sl.val * 64 + k.val ∈ s.m.shu.timersLive →
    exec (.shuttleTimerFire sl k t ptp esmc) s = .next (s.put ((s.m.runToNs t).shuCount sl 12))) ∧
  (∀ (s : State) (sl : Fin 8) (k : Fin 64) (t : Nat), s.m.flag F.SHU_TIMER_ENABLE [sl.val, k.val] = true →
    s.m.get F.SHU_TIMER_PERIOD_US [sl.val, k.val] ≠ 0 → t % 1000 = 0 →
    t / 1000 % s.m.get F.SHU_TIMER_PERIOD_US [sl.val, k.val] = s.m.get F.SHU_TIMER_PHASE_US [sl.val, k.val] →
    sl.val * 64 + k.val ∉ s.m.shu.timersLive → s.m.plt.inq = [] →
    ∃ t' p, exec (.shuttleTimerFire sl k t [] []) s = .next t' ∧ t'.m.shu.timersLive = (sl.val * 64 + k.val) :: s.m.shu.timersLive ∧
      t'.m.plt.inq = [(inqKey sl 16 true, [p])] ∧ p.origin = .timer sl k ∧ p.bytes = [] ∧ p.cls = 7) ∧
  (∀ (s : State) (sl : Fin 8) (e : Fin 160) (err : Fin 3) (g : Engine), Quiet s → (s.m.eng sl e).choose = (none, g) →
    exec (.microwordIssue sl e err) s = .next (s.put (s.m.putEng sl e g))) ∧
  (∀ (s : State) (sl : Fin 8) (e : Fin 160) (t w : Nat) (g : Engine) (m : Mod), Quiet s → (s.m.eng sl e).choose = (some t, g) →
    m = s.m.putEng sl e g → m.wordOf sl e t = w → (m.th sl e t).words < m.get F.SHU_SLICE_CFG_STEP_LIMIT [sl.val] →
    csKey sl (e.val / 16) (m.th sl e t).upc ∉ m.shu.bad → (m.eng sl e).check t w = .go → mwSeqop w ≠ 7 →
    exec (.microwordIssue sl e 0) s = .next (s.put (m.putTh sl e t ((m.th sl e t).execute w)))) ∧
  (∀ (s : State) (sl : Fin 8) (e : Fin 160) (err : Fin 3) (t : Nat) (g : Engine) (m : Mod), (s.m.eng sl e).choose = (some t, g) →
    m = s.m.putEng sl e g → m.get F.SHU_SLICE_CFG_STEP_LIMIT [sl.val] ≤ (m.th sl e t).words →
    exec (.microwordIssue sl e err) s = .next (s.ends (m.faultThread sl e t 2))) ∧
  (∀ (s : State) (sl : Fin 8) (e : Fin 160) (t w : Nat) (g : Engine) (m : Mod), (s.m.eng sl e).choose = (some t, g) →
    m = s.m.putEng sl e g → m.wordOf sl e t = w → (m.th sl e t).words < m.get F.SHU_SLICE_CFG_STEP_LIMIT [sl.val] →
    csKey sl (e.val / 16) (m.th sl e t).upc ∉ m.shu.bad → mwSeqop w = 8 → illegalWord w = false →
    exec (.trap sl e) s = exec (.microwordIssue sl e 0) s ∧ exec (.trap sl e) s = .next (s.ends (m.faultThread sl e t 6))) ∧
  (∀ (s : State) (sl : Fin 8) (e : Fin 160) (g : Engine), Quiet s → (s.m.eng sl e).choose = (none, g) → exec (.trap sl e) s = .next s) ∧
  (∀ (m : Mod) (s e t cause : Nat), cause < 8 → e < 256 → t < 16 →
    (m.faultThread s e t cause).get F.SHU_FAULT_LAST_CAUSE [s] = cause ∧ (m.faultThread s e t cause).get F.SHU_FAULT_LAST_VALID [s] = 1 ∧
    (m.faultThread s e t cause).get F.SHU_FAULT_LAST_ENGINE [s] = e ∧
    ((∀ g ∈ (m.th s e t).tags, g.2.outstanding = false) →
      ((m.faultThread s e t cause).th s e t).state = if ((m.faultThread s e t cause).eng s e).weight t = 0 then 5 else 0)) ∧
  (∀ (s : State) (sl : Fin 8) (e : Fin 160) (t : Fin 16) (d : Nat), (s.m.th sl e t).ending = some d →
    (∀ g ∈ (s.m.th sl e t).tags, g.2.outstanding = false) →
    exec (.endPass sl e t) s = .next (s.ends (s.m.finishPass sl e t d))) ∧
  (∀ (s : State) (sl : Fin 8) (e : Fin 160) (t : Fin 16) (g : Engine), (s.m.th sl e t).ending = none →
    (s.m.eng sl e).choose = (some t.val, g) → mwSeqop (s.m.wordOf sl e t) = 7 →
    exec (.endPass sl e t) s = exec (.microwordIssue sl e 0) s) ∧
  (∀ (s : State) (sl : Fin 8) (e : Fin 160) (t : Fin 16) (tag : Fin 8) (ch : Nat) (r : Resp), Quiet s →
    tget (s.m.th sl e t).tags tag = some (.flying ch r) → (s.m.th sl e t).state = 2 → (s.m.th sl e t).awaits = some tag.val →
    (s.m.th sl e t).ending = none →
    exec (.channelResponse sl e t tag) s = .next (s.put (s.m.putTh sl e t
      { s.m.th sl e t with tags := tput (s.m.th sl e t).tags tag (.held r), awaits := none, state := 1 }))) ∧
  (∀ (s : State) (sl : Fin 8) (e : Fin 160) (t : Fin 16) (tag : Fin 8) (ch : Nat) (r : Resp), Quiet s →
    tget (s.m.th sl e t).tags tag = some (.flying ch r) → (s.m.th sl e t).state = 1 →
    exec (.channelResponse sl e t tag) s = .next (s.put (s.m.putTh sl e t
      { s.m.th sl e t with tags := tput (s.m.th sl e t).tags tag (.held r) }))) ∧
  (∀ (s : State) (sl : Fin 8) (e : Fin 160) (t : Fin 16) (tag : Fin 8), Quiet s →
    (∀ ch r, tget (s.m.th sl e t).tags tag ≠ some (.flying ch r)) → exec (.channelResponse sl e t tag) s = .next s) ∧
  (∀ (s : State) (sl : Fin 8) (e : Fin 160) (t : Fin 16), Quiet s → (s.m.th sl e t).state = 3 →
    exec (.creditAvailable sl e t) s = .next (s.put (if (s.m.eng sl e).hasCredit t (mwReqCh (s.m.wordOf sl e t)) then
      s.m.putTh sl e t { s.m.th sl e t with state := 1 } else s.m))) ∧
  (∀ (s : State) (sl : Fin 8) (e : Fin 160) (t : Fin 16), (s.m.th sl e t).running = true →
    exec (.residencyExpiry sl e t) s = .next (s.ends ((s.m.runToNs ((s.m.th sl e t).start +
      s.m.get F.SHU_SLICE_CFG_RESIDENCY_US [sl.val] * 1000)).faultThread sl e t 3))) ∧
  (∀ (s : State) (sl : Fin 8) (e : Fin 160) (t : Fin 16), Quiet s → (s.m.th sl e t).running = false →
    exec (.residencyExpiry sl e t) s = .next s) ∧
  (∀ (s : State) (r : Req) (sl : Fin 8) (e : Fin 160), Quiet s → s.m.isManager r.mid = true →
    exec (.shuApply r sl e) s = .next (s.put (s.m.shuApply sl e)) ∧
    exec (.quarantineRelease r sl e) s = .next (s.put (s.m.set F.SHU_ENGINE_CTL_QUARANTINED [sl.val, e.val] 0))) ∧
  (∀ (m : Mod) (s e : Nat), (m.shuApply s e).get F.SHU_ENGINE_CTL_REJECT [s, e] = (m.shuShadow s e).check ∧
    ((m.shuShadow s e).check = 0 → ((m.shuApply s e).eng s e).apply = some (m.shuShadow s e)) ∧
    ((m.shuShadow s e).check ≠ 0 → ((m.shuApply s e).eng s e).apply = none)) ∧
  (∀ (b : EngBank), b.check = 0 ↔ (∀ t, t < 16 → b.weights.getD t 0 ≠ 0 → t ∈ b.slots) ∧ (∃ w ∈ b.weights, w ≠ 0) ∧
    bits b.share 1 3 ≤ bits b.share 4 4 ∧ bits b.share 8 3 ≤ bits b.share 11 6) ∧
  (∀ (s : State) (sl : Fin 8) (e : Fin 160) (b : EngBank), (s.m.eng sl e).apply = some b →
    ∃ t, exec (.shuBankSwitch sl e) s = .next t ∧ (t.m.eng sl e).bank = some b ∧ (t.m.eng sl e).apply = none ∧
      (t.m.eng sl e).step % 32 = 0 ∧ t.m.get F.SHU_ENGINE_CTL_APPLY [sl.val, e.val] = 0) ∧
  (∀ (s : State) (sl : Fin 8) (e : Fin 160), Quiet s → (s.m.eng sl e).apply = none → exec (.shuBankSwitch sl e) s = .next s) ∧
  (∀ (s : State) (r : Req) (sl : Fin 8) (a : Fin 16384) (cl : BitVec 10), Quiet s → s.m.isManager r.mid = true →
    s.m.flag F.SHU_CS_COMMIT_GO [sl.val] = false →
    exec (.csPatchGo r sl a cl) s = .next (s.put (s.m.csPatch sl a cl.toNat))) ∧
  (∀ (m : Mod) (s a cl : Nat), illegalWord (m.csStage s) = false → cl ≠ 0 → (tgetD m.shu.patches s []).length < 1024 →
    (m.csPatch s a cl).get F.SHU_CS_COMMIT_GO [s] = 1 ∧ tget (tgetD (m.csPatch s a cl).shu.patches s []) a = some (m.csStage s) ∧
    (m.csPatch s a cl).shu.csq = m.shu.csq ++ [⟨s, a, m.csStage s, (List.range 10).filter fun c => bit cl c⟩]) ∧
  (∀ (m : Mod) (p : CsPatch), m.shu.csq = [p] → (∀ c ∈ p.left, tget m.wheel.waits (65 + 10 * p.slice + c) = none) →
    m.csWritten.get F.SHU_CS_COMMIT_RESULT [p.slice] = 0 ∧ m.csWritten.get F.SHU_CS_COMMIT_GO [p.slice] = 0 ∧ m.csWritten.shu.csq = [] ∧
    ∀ c ∈ p.left, m.csWritten.csWord p.slice c p.addr = p.word) ∧
  (∀ (m : Mod) (s a cl : Nat), illegalWord (m.csStage s) = true →
    (m.csPatch s a cl).get F.SHU_CS_COMMIT_RESULT [s] = 2 ∧ (m.csPatch s a cl).shu = m.shu) ∧
  (∀ (s : State) (sl : Fin 8) (c : Fin 10) (a : Fin 16384), Quiet s → csKey sl c a ∉ s.m.shu.bad →
    exec (.csEccRewrite sl c a true) s = .next s) ∧
  (∀ (s : State) (sl : Fin 8) (c : Fin 10) (a : Fin 16384) (k : Nat), k = csKey sl c a → k ∈ s.m.shu.bad → k ∉ s.m.shu.stuck → s.m.img.patchLock = false →
    ∃ t, exec (.csEccRewrite sl c a true) s = .next t ∧ k ∉ t.m.shu.bad ∧
      t.m.csWord sl c a = (tget (tgetD s.m.shu.patches sl []) a).getD (imageWord s.m.img.file (sl.val * 10 + c.val) a)) ∧
  (∀ (s : State) (sl : Fin 8) (c : Fin 10) (a : Fin 16384) (k : Nat), k = csKey sl c a → k ∈ s.m.shu.bad → k ∉ s.m.shu.stuck →
    ∃ t, exec (.csEccRewrite sl c a false) s = .next t ∧ k ∈ t.m.shu.bad ∧ k ∈ t.m.shu.stuck ∧ t.m.shu.words = s.m.shu.words) ∧
  (∀ (s : State) (sl : Fin 8) (c : Fin 10) (a : Fin 16384) (ok : Bool), Quiet s → csKey sl c a ∈ s.m.shu.stuck →
    exec (.csEccRewrite sl c a ok) s = .next s)

/-- The microword (R222, R226 to R230): the ALU's operations, extraction and deposit at window bits, the sequencer's next address, and the
context bits a program may write. -/
def Obligations.Microword : Prop :=
  (∀ a b, a < 2 ^ 64 → b < 2 ^ 64 → alu 1 a b = (a + b) % 2 ^ 64 ∧ (alu 2 a b + b) % 2 ^ 64 = a ∧ alu 6 a b ||| (a &&& b) = a ∧
    alu 6 a b &&& b = 0 ∧ alu 10 a b = b ∧ alu 17 a b = min a b ∧ alu 18 a b = max a b) ∧
  (∀ a b, a < 2 ^ 64 → b < 64 → alu 7 a b = a * 2 ^ b % 2 ^ 64 ∧ alu 8 a b = a / 2 ^ b ∧
    (a < 2 ^ 63 → alu 9 a b = a / 2 ^ b) ∧ (2 ^ 63 ≤ a → alu 9 a b = 2 ^ 64 - 2 ^ (64 - b) + a / 2 ^ b)) ∧
  (∀ a b, a < 2 ^ 64 → b < 2 ^ 64 → (alu 11 a b = 1 ↔ a = b) ∧ (alu 13 a b = 1 ↔ a < b) ∧ (alu 15 a b = 1 ↔ signed 64 a < signed 64 b) ∧
    alu 12 a b + alu 11 a b = 1 ∧ alu 14 b a + alu 13 a b = 1 ∧ alu 16 b a + alu 15 a b = 1) ∧
  (∀ a b, b < 2 ^ 64 → alu 19 a (alu 19 a b) = b ∧ alu 19 a b < 2 ^ 64 ∧ alu 21 a b ≤ 64 ∧
    (b = 0 → alu 22 a b = 64) ∧ (b ≠ 0 → 2 ^ (63 - alu 22 a b) ≤ b ∧ b < 2 ^ (64 - alu 22 a b))) ∧
  (∀ (win : List Byte) (p n v : Nat), win.length = 256 → 0 < n → n ≤ 64 → p + n ≤ 2048 →
    extract (deposit win p n v) p n = v % 2 ^ n ∧ (deposit win p n v).length = 256 ∧
    ∀ x, x < p ∨ p + n ≤ x → x < 2048 → extract (deposit win p n v) x 1 = extract win x 1) ∧
  (∀ (win : List Byte) (p n v : Nat), 2048 ≤ p → deposit win p n v = win ∧ depositBytes p n = []) ∧
  (∀ (w upc : Nat) (rd : Nat → Nat), (mwSeqop w = 0 → nextAddr w upc rd = upc + 1) ∧ (mwSeqop w = 1 → nextAddr w upc rd = mwNext w) ∧
    (mwSeqop w = 2 → nextAddr w upc rd = if bit (rd (mwCondReg w)) (mwCondBit w) then mwNext w else upc + 1) ∧
    (mwSeqop w = 3 → nextAddr w upc rd = if bit (rd (mwCondReg w)) (mwCondBit w) then upc + 1 else mwNext w) ∧
    (mwSeqop w = 5 → nextAddr w upc rd < 2 ^ 14) ∧
    (mwSeqop w = 6 → mwNext w ≤ nextAddr w upc rd ∧ nextAddr w upc rd ≤ mwNext w + 15)) ∧
  (∀ (i old v b : Nat), bit (ctxWrite i old v) b =
    if (ctxWritable i).1 ≤ b ∧ b < (ctxWritable i).2 then bit v b else bit old b) ∧
  (∀ (x : Thread) (w : Nat), (x.execute w).words = x.words + 1 ∧ (x.execute w).upc = nextAddr w x.upc x.reg ∧
    (mwReadEn w = false → mwReqEn w = false → (x.execute w).tags = x.tags) ∧
    (mwReqEn w = false → (x.execute w).orders = x.orders) ∧
    (mwReqEn w = true → ∃ q, tget (x.execute w).tags (mwReqTag w) = some (.out q) ∧ q.ch = mwReqCh w ∧ q.op = mwReqOp w ∧
      q.args = (List.range (mwReqArgn w + 1)).map fun i => x.reg (mwReqArg w + i)))

/-- The LOOKUP channel (R231, R234, R235, R253 to R257, R263, R267): what a request answers and what it changes, in every form: refused
operands, a hit, a miss that waits, rules, data memory, scratch, counters, and a fill that returns. Clauses on the model's choices: logs 25, 28, 71. -/
def Obligations.LookupChannel : Prop :=
  (∀ (m : Mod) (w : ThreadRef) (tag ch op : Nat) (q : ChanReq), m.takeReq w tag ch op = some q →
    tget (m.th w.s w.e w.t).tags tag = some (.out q) ∧ q.ch = ch ∧ q.op = op ∧
    (ch = 1 ∨ ch = 2 → ∀ g ∈ (m.th w.s w.e w.t).tags, ∀ o, g.2 = .out o → o.ch = 1 ∨ o.ch = 2 → q.order ≤ o.order)) ∧
  (∀ (s : State) (sl : Fin 8) (e : Fin 160) (t : Fin 16) (tag : Fin 8) (bad : Bool) (w : ThreadRef), Quiet s → w = ⟨sl, e, t⟩ →
    (s.m.takeReq w tag 0 0 = none → exec (.exactMatch sl e t tag bad) s = .next s) ∧
    (s.m.takeReq w tag 0 1 = none → exec (.exactNowait sl e t tag bad) s = .next s) ∧
    (s.m.takeReq w tag 0 2 = none → exec (.ruleMatch sl e t tag none) s = .next s) ∧
    (s.m.takeReq w tag 0 8 = none → exec (.dataRead sl e t tag bad) s = .next s) ∧
    (s.m.takeReq w tag 0 12 = none → exec (.localRead sl e t tag bad) s = .next s)) ∧
  (∀ (s : State) (sl : Fin 8) (e : Fin 160) (t : Fin 16) (tag : Fin 8) (bad : Bool) (w : ThreadRef) (q : ChanReq), Quiet s → w = ⟨sl, e, t⟩ →
    (s.m.takeReq w tag 0 0 = some q → s.m.lookupKey q 1 = none →
      exec (.exactMatch sl e t tag bad) s = .next (s.put (s.m.answer w tag { status := 5 }))) ∧
    (s.m.takeReq w tag 0 1 = some q → s.m.lookupKey q 1 = none →
      exec (.exactNowait sl e t tag bad) s = .next (s.put (s.m.answer w tag { status := 5 }))) ∧
    (s.m.takeReq w tag 0 2 = some q → s.m.lookupKey q 2 = none →
      exec (.ruleMatch sl e t tag none) s = .next (s.put (s.m.answer w tag { status := 5 })))) ∧
  (∀ (s : State) (sl : Fin 8) (e : Fin 160) (t : Fin 16) (tag : Fin 8) (w : ThreadRef) (q : ChanReq) (scope k : Nat) (key : List Nat)
      (l : Line), Quiet s → w = ⟨sl, e, t⟩ → k = s.m.setKey sl scope key → s.m.lines k = [l] → l.of scope key = true → l.absent = false →
    s.m.visible sl (s.m.th sl e t).seq l.e.role l.e.tag = true → s.m.lookupKey q 1 = some (scope, key) →
    (s.m.takeReq w tag 0 0 = some q → exec (.exactMatch sl e t tag false) s =
      .next (s.put (((s.m.putLines k [l]).cacheCount sl 0).answer w tag (hitResp l.e false)))) ∧
    (s.m.takeReq w tag 0 1 = some q → exec (.exactNowait sl e t tag false) s =
      .next (s.put (((s.m.putLines k [l]).cacheCount sl 0).answer w tag (hitResp l.e false))))) ∧
  (∀ (s : State) (sl : Fin 8) (e : Fin 160) (t : Fin 16) (tag : Fin 8) (w : ThreadRef) (q : ChanReq) (scope k : Nat) (key : List Nat),
    Quiet s → w = ⟨sl, e, t⟩ → k = s.m.setKey sl scope key → s.m.lines k = [] → s.m.pat.fills = [] →
    s.m.lookupKey q 1 = some (scope, key) →
    (s.m.takeReq w tag 0 0 = some q → exec (.exactMatch sl e t tag false) s = .next (s.put ((Mod.cacheCount { s.m with pat :=
      { s.m.pat with fills := [⟨sl, scope, key, [(w, tag.val)], false⟩] } } sl 2).busyTag w tag 0))) ∧
    (s.m.takeReq w tag 0 1 = some q → exec (.exactNowait sl e t tag false) s = .next (s.put (((Mod.cacheCount { s.m with pat :=
      { s.m.pat with fills := [⟨sl, scope, key, [], false⟩] } } sl 2).cacheCount sl 4).answer w tag
        (s.m.missResp (s.m.th sl e t).pkt.origin false false true true))))) ∧
  (∀ (s : State) (sl : Fin 8) (e : Fin 160) (t : Fin 16) (tag : Fin 8) (w : ThreadRef) (q : ChanReq) (scope : Nat) (key : List Nat) (r : Resp)
      (m : Mod), Quiet s → w = ⟨sl, e, t⟩ → s.m.takeReq w tag 0 2 = some q → s.m.lookupKey q 2 = some (scope, key) →
    s.m.ruleLookup sl scope key (s.m.th sl e t).seq (s.m.th sl e t).pkt.origin none = (r, m) →
    exec (.ruleMatch sl e t tag none) s = .next (s.put (m.answer w tag r))) ∧
  (∀ (m : Mod) (s scope seq : Nat) (key : List Nat) (o : Origin) (r : Resp), (m.ruleLookup s scope key seq o none).1 = r → r.status = 0 →
    ∃ n x, (n, x) ∈ m.rulesOn s ∧ x.scope = scope ∧ m.ruleMatches x key = true ∧ r.data = x.act ∧
      ∀ n' y, (n', y) ∈ m.rulesOn s → y.scope = scope → m.visible s seq y.role y.tag = true → m.ruleMatches y key = true →
        x.priority ≤ y.priority) ∧
  (∀ (s : State) (sl : Fin 8) (e : Fin 160) (t : Fin 16) (tag : Fin 8) (w : ThreadRef) (q : ChanReq) (a addr n : Nat) (vs old : List Nat),
    Quiet s → w = ⟨sl, e, t⟩ → q.args = a :: vs → a % 2 ^ 40 = addr → bits a 40 3 + 1 = n → inDataRegion addr = true →
    old = (List.range n).map (fun i => leNat (memBytes s.mem (addr + 8 * i) 8)) →
    (s.m.takeReq w tag 0 8 = some q → memBad 0 addr n (vs.length + 1) = false →
      exec (.dataRead sl e t tag false) s =
        .next (s.put ((s.m.fgUse [hbmUnit addr]).answer w tag { status := 0, data := old }))) ∧
    (s.m.takeReq w tag 0 9 = some q → memBad 1 addr n (vs.length + 1) = false → exec (.dataWrite sl e t tag false) s =
      .next { s with m := (s.m.fgUse [hbmUnit addr]).answer w tag { status := 0 }, mem := memPutBytes s.mem addr (vs.flatMap (leBytes 8)) }) ∧
    (s.m.takeReq w tag 0 10 = some q → memBad 2 addr n (vs.length + 1) = false → exec (.dataAdd sl e t tag false) s =
      .next { s with m := (s.m.fgUse [hbmUnit addr]).answer w tag { status := 0, data := old }, mem := memPutBytes s.mem addr (((List.range n).map fun i =>
        (old.getD i 0 + vs.getD i 0) % 2 ^ 64).flatMap (leBytes 8)) }) ∧
    (s.m.takeReq w tag 0 11 = some q → memBad 3 addr n (vs.length + 1) = false → exec (.dataCas sl e t tag false) s =
      .next { s.put ((s.m.fgUse [hbmUnit addr]).answer w tag { status := if old.getD 0 0 = vs.getD 0 0 then 0 else 4, data := old }) with mem :=
        (if old.getD 0 0 = vs.getD 0 0 then memPutBytes s.mem addr (leBytes 8 (vs.getD 1 0)) else s.mem) })) ∧
  (∀ (s : State) (sl : Fin 8) (e : Fin 160) (t : Fin 16) (tag : Fin 8) (w : ThreadRef) (q : ChanReq) (a addr n : Nat) (vs : List Nat),
    Quiet s → w = ⟨sl, e, t⟩ → q.args = a :: vs → a % 2 ^ 40 = addr → bits a 40 3 + 1 = n →
    (s.m.takeReq w tag 0 8 = some q → memBad 0 addr n (vs.length + 1) = true ∨ inDataRegion addr = false →
      exec (.dataRead sl e t tag false) s = .next (s.put (s.m.answer w tag { status := 5 }))) ∧
    (s.m.takeReq w tag 0 9 = some q → memBad 1 addr n (vs.length + 1) = true ∨ inDataRegion addr = false →
      exec (.dataWrite sl e t tag false) s = .next (s.put (s.m.answer w tag { status := 5 })))) ∧
  (∀ (s : State) (sl : Fin 8) (e : Fin 160) (t : Fin 16) (tag : Fin 8) (w : ThreadRef) (q : ChanReq) (off key : Nat) (vs : List Nat),
    Quiet s → w = ⟨sl, e, t⟩ → q.args = off :: vs → off < 2 ^ 18 → off % 8 = 0 → key = (sl.val * 10 + e.val / 16) * 32768 + off / 8 →
    (s.m.takeReq w tag 0 12 = some q → vs = [] → exec (.localRead sl e t tag false) s =
      .next (s.put (s.m.answer w tag { status := 0, data := [tgetD s.m.shu.scratch key 0] }))) ∧
    (∀ v, s.m.takeReq w tag 0 13 = some q → vs = [v] → ∃ t', exec (.localWrite sl e t tag false) s = .next t' ∧
      tgetD t'.m.shu.scratch key 0 = v ∧ ∀ k, k ≠ key → tgetD t'.m.shu.scratch k 0 = tgetD s.m.shu.scratch k 0) ∧
    (∀ v, s.m.takeReq w tag 0 14 = some q → vs = [v] → ∃ t', exec (.localAdd sl e t tag false) s = .next t' ∧
      tgetD t'.m.shu.scratch key 0 = (tgetD s.m.shu.scratch key 0 + v) % 2 ^ 64 ∧
      ∀ k, k ≠ key → tgetD t'.m.shu.scratch k 0 = tgetD s.m.shu.scratch k 0) ∧
    (∀ v x, s.m.takeReq w tag 0 15 = some q → vs = [v, x] → ∃ t', exec (.localCas sl e t tag false) s = .next t' ∧
      tgetD t'.m.shu.scratch key 0 = (if tgetD s.m.shu.scratch key 0 = v then x else tgetD s.m.shu.scratch key 0) ∧
      ∀ k, k ≠ key → tgetD t'.m.shu.scratch k 0 = tgetD s.m.shu.scratch k 0)) ∧
  (∀ (s : State) (sl : Fin 8) (e : Fin 160) (t : Fin 16) (tag : Fin 8) (w : ThreadRef) (q : ChanReq), Quiet s → w = ⟨sl, e, t⟩ →
    (s.m.takeReq w tag 0 16 = none → exec (.countUpdate sl e t tag) s = .next s) ∧
    (s.m.takeReq w tag 0 16 = some q → exec (.countUpdate sl e t tag) s =
      .next (s.put ((s.m.countOp sl (q.args.headD 0) q.len).2.answer w tag (s.m.countOp sl (q.args.headD 0) q.len).1)))) ∧
  (∀ (s : State) (sl : Fin 8) (i : Nat) (bad : Bool), Quiet s → s.m.pat.fills = [] → exec (.flowFillDone sl i bad) s = .next s) ∧
  (∀ (s : State) (sl : Fin 8) (f : Fill) (bad : Bool), Quiet s → s.m.pat.fills = [f] → f.slice = sl.val → f.stale = true →
    exec (.flowFillDone sl 0 bad) s =
      .next (s.put (Mod.cacheCount { s.m with pat := { s.m.pat with fills := [{ f with stale := false }] } } sl 8))) ∧
  (∀ (s : State) (sl : Fin 8) (f : Fill) (w : ThreadRef) (tag n : Nat) (c : ExEntry) (m : Mod), Quiet s → s.m.pat.fills = [f] → f.slice = sl.val →
    f.stale = false → f.waits = [(w, tag)] → s.m.copies f.scope f.key = [(n, c)] →
    m = Mod.install (Mod.fgUse { s.m with pat := { s.m.pat with fills := [] } } [hbmUnit (HbmRegion.flow.unitAddr (s.m.buckets f.scope f.key).1),
      hbmUnit (HbmRegion.flow.unitAddr (s.m.buckets f.scope f.key).2), 145 + sl.val]) sl false c →
    m.visible sl (m.th w.s w.e w.t).seq c.role c.tag = true →
    exec (.flowFillDone sl 0 false) s = .next (s.put (m.answer w tag (hitResp c true))))

/-- The REWRITE and HEM channels (R221, R222, R236 to R238, R328): the write-back before each operation, and what each operation does to the
packet, its window and its cells. Clauses on the model's choices: logs 39, 40. -/
def Obligations.RewriteChannel : Prop :=
  (∀ (s : State) (sl : Fin 8) (e : Fin 160) (t : Fin 16) (tag : Fin 8) (w : ThreadRef), Quiet s → w = ⟨sl, e, t⟩ →
    (s.m.takeReq w tag 1 0 = none → exec (.writeback sl e t tag) s = .next s) ∧
    (s.m.takeReq w tag 1 1 = none → exec (.insertBytes sl e t tag) s = .next s) ∧
    (s.m.takeReq w tag 3 0 = none → exec (.qdepth sl e t tag) s = .next s)) ∧
  (∀ (s : State) (sl : Fin 8) (e : Fin 160) (t : Fin 16) (tag : Fin 8) (w : ThreadRef) (q : ChanReq), Quiet s → w = ⟨sl, e, t⟩ →
    s.m.takeReq w tag 1 0 = some q → (s.m.th sl e t).state ≠ 4 →
    exec (.writeback sl e t tag) s = .next (s.put ((s.m.wrote w q).answer w tag {}))) ∧
  (∀ (s : State) (sl : Fin 8) (e : Fin 160) (t : Fin 16) (tag : Fin 8) (w : ThreadRef) (q : ChanReq), Quiet s → w = ⟨sl, e, t⟩ →
    s.m.takeReq w tag 1 2 = some q → (s.m.th sl e t).state = 4 →
    exec (.stripBytes sl e t tag) s = .next (s.put (s.m.answer w tag {}))) ∧
  (∀ (s : State) (sl : Fin 8) (e : Fin 160) (t : Fin 16) (tag : Fin 8) (w : ThreadRef) (q : ChanReq) (a off n : Nat) (d : List Byte),
    Quiet s → w = ⟨sl, e, t⟩ → (s.m.th sl e t).state ≠ 4 → q.args.headD 0 = a → a % 256 = off → bits a 8 8 + 1 = n →
    d = ((s.m.th sl e t).wrote q).pkt.bytes →
    (s.m.takeReq w tag 1 1 = some q → d.length < off ∨ 9600 < d.length + n →
      exec (.insertBytes sl e t tag) s = .next (s.put ((s.m.wrote w q).answer w tag { status := 5 }))) ∧
    (s.m.takeReq w tag 1 1 = some q → off ≤ d.length → d.length + n ≤ 9600 →
      (s.m.wrote w q).useCells sl e t (ceilDiv (d.length + n) 256 - ceilDiv d.length 256) = none →
      exec (.insertBytes sl e t tag) s = .next (s.put (((s.m.wrote w q).shuCount sl 10).answer w tag { status := 2 }))) ∧
    (∀ m' d', s.m.takeReq w tag 1 1 = some q → off ≤ d.length → d.length + n ≤ 9600 →
      (s.m.wrote w q).useCells sl e t (ceilDiv (d.length + n) 256 - ceilDiv d.length 256) = some m' →
      d' = d.take off ++ List.replicate n 0 ++ d.drop off → m'.fit.pend = [] →
      exec (.insertBytes sl e t tag) s = .next (s.put ((m'.putBytes w d').answer w tag { install := some (0, windowOf d'), len := some (d.length + n) }))) ∧
    (s.m.takeReq w tag 1 2 = some q → d.length < off + n →
      exec (.stripBytes sl e t tag) s = .next (s.put ((s.m.wrote w q).answer w tag { status := 5 }))) ∧
    (∀ d', s.m.takeReq w tag 1 2 = some q → off + n ≤ d.length → d' = d.take off ++ d.drop (off + n) →
      exec (.stripBytes sl e t tag) s = .next (s.put (((s.m.wrote w q).putBytes w d').answer w tag { install := some (0, windowOf d'), len := some (d.length - n) })))) ∧
  (∀ (s : State) (sl : Fin 8) (e : Fin 160) (t : Fin 16) (tag : Fin 8) (w : ThreadRef) (q : ChanReq) (a off n : Nat) (ws : List Nat)
      (d : List Byte), Quiet s → w = ⟨sl, e, t⟩ → (s.m.th sl e t).state ≠ 4 → q.args = a :: ws → a % 65536 = off → bits a 16 3 + 1 = n →
    d = ((s.m.th sl e t).wrote q).pkt.bytes →
    (s.m.takeReq w tag 1 3 = some q → off + 8 * n ≤ d.length → exec (.rewriteRead sl e t tag) s =
      .next (s.put ((s.m.wrote w q).answer w tag { data := (List.range n).map fun i => beNat (slice d (off + 8 * i) 8) }))) ∧
    (s.m.takeReq w tag 1 3 = some q → d.length < off + 8 * n → exec (.rewriteRead sl e t tag) s =
      .next (s.put ((s.m.wrote w q).answer w tag { status := 5 }))) ∧
    (s.m.takeReq w tag 1 4 = some q → ws.length = n → off + 8 * n ≤ d.length → exec (.rewriteWrite sl e t tag) s =
      .next (s.put (((s.m.wrote w q).putBytes w (overlay d off (ws.flatMap (beBytes 8)))).answer w tag { install := if off < 256 then some (off, (ws.flatMap (beBytes 8)).take (256 - off)) else none }))) ∧
    (s.m.takeReq w tag 1 4 = some q → d.length < off + 8 * n → exec (.rewriteWrite sl e t tag) s =
      .next (s.put ((s.m.wrote w q).answer w tag { status := 5 })))) ∧
  (∀ (s : State) (sl : Fin 8) (e : Fin 160) (t : Fin 16) (tag : Fin 8) (w : ThreadRef) (q : ChanReq), Quiet s → w = ⟨sl, e, t⟩ →
    s.m.takeReq w tag 1 5 = some q → (s.m.th sl e t).state ≠ 4 →
    ((s.m.wrote w q).takeCells sl e t (q.args.headD 0 % 64) true = none →
      exec (.cellAlloc sl e t tag) s = .next (s.put (((s.m.wrote w q).shuCount sl 10).answer w tag { status := 2 }))) ∧
    (∀ m', (s.m.wrote w q).takeCells sl e t (q.args.headD 0 % 64) true = some m' → m'.fit.pend = [] →
      exec (.cellAlloc sl e t tag) s = .next (s.put (m'.answer w tag {})))) ∧
  (∀ (m m' : Mod) (s e t n : Nat), m.takeCells s e t n true = some m' →
    (m'.th s e t).reserved = (m.th s e t).reserved + n ∧ (m'.th s e t).held = (m.th s e t).held) ∧
  (∀ (s : State) (sl : Fin 8) (e : Fin 160) (t : Fin 16) (tag : Fin 8) (w : ThreadRef) (q : ChanReq) (a : Nat) (d : Dest) (b : List Byte)
      (m' : Mod), Quiet s → w = ⟨sl, e, t⟩ → s.m.takeReq w tag 1 6 = some q → (s.m.th sl e t).state ≠ 4 → q.args.headD 0 = a →
    destOf a = some d → (s.m.th sl e t).copies.length < 16 → b = ((s.m.th sl e t).wrote q).pkt.bytes →
    (s.m.wrote w q).useCells sl e t (ceilDiv b.length 256) = some m' → m'.fit.pend = [] →
    exec (.copyCell sl e t tag) s = .next (s.put ((m'.putTh sl e t { m'.th sl e t with copies := (m'.th sl e t).copies ++
      [({ (m'.th sl e t).pkt with bytes := b, charges := [], launch := none, reason := none }, d)] }).answer w tag {}))) ∧
  (∀ (s : State) (sl : Fin 8) (e : Fin 160) (t : Fin 16) (tag : Fin 8) (w : ThreadRef) (q : ChanReq) (a tr : Nat) (d : Dest) (b : List Byte)
      (m' : Mod), Quiet s → w = ⟨sl, e, t⟩ → s.m.takeReq w tag 1 7 = some q → (s.m.th sl e t).state ≠ 4 → q.args = [a, tr] →
    destOf a = some d → (s.m.th sl e t).copies.length < 16 → tr < 65536 → tr ≠ 0 → b = ((s.m.th sl e t).wrote q).pkt.bytes.take tr →
    (s.m.wrote w q).useCells sl e t (ceilDiv b.length 256) = some m' → m'.fit.pend = [] →
    exec (.mirrorPass sl e t tag) s = .next (s.put ((m'.putTh sl e t { m'.th sl e t with copies := (m'.th sl e t).copies ++
      [({ (m'.th sl e t).pkt with bytes := b, charges := [], launch := none, reason := none }, d)] }).answer w tag {}))) ∧
  (∀ (s : State) (sl : Fin 8) (e : Fin 160) (t : Fin 16) (tag : Fin 8) (w : ThreadRef) (q : ChanReq), Quiet s → w = ⟨sl, e, t⟩ →
    (s.m.th sl e t).state ≠ 4 → destOf (q.args.headD 0) = none →
    (s.m.takeReq w tag 1 6 = some q → exec (.copyCell sl e t tag) s = .next (s.put ((s.m.wrote w q).answer w tag { status := 5 })))) ∧
  (∀ (s : State) (sl : Fin 8) (e : Fin 160) (t : Fin 16) (tag : Fin 8) (w : ThreadRef) (q : ChanReq) (v : Nat), Quiet s → w = ⟨sl, e, t⟩ →
    s.m.takeReq w tag 1 8 = some q → (s.m.th sl e t).state ≠ 4 → bits (q.args.headD 0) 3 5 = v →
    exec (.recircPass sl e t tag) s = .next (s.put (if v < 16 then (s.m.wrote w q).answer w tag { status := 5 }
      else ((s.m.wrote w q).putTh sl e t { (s.m.th sl e t).wrote q with recirc := some (q.args.headD 0 % 8, v) }).answer w tag {}))) ∧
  (∀ (s : State) (sl : Fin 8) (e : Fin 160) (t : Fin 16) (tag : Fin 8) (w : ThreadRef) (q : ChanReq) (a n k c : Nat) (l : List Nat), Quiet s →
    w = ⟨sl, e, t⟩ → q.args = a :: l → bits a 0 7 = n → bits a 7 3 = k → bits a 10 3 = c → n < 96 → k < s.m.subCount n →
    (s.m.takeReq w tag 3 0 = some q →
      exec (.qdepth sl e t tag) s = .next (s.put (s.m.answer w tag { data := [tgetD s.m.hcopy.depth ((n * 8 + k) * 8 + c) 0] }))) ∧
    (s.m.takeReq w tag 3 1 = some q →
      exec (.gateQuery sl e t tag) s = .next (s.put (s.m.answer w tag { data := [tgetD s.m.hcopy.gate n 255] }))) ∧
    (s.m.takeReq w tag 3 2 = some q →
      exec (.calpos sl e t tag) s = .next (s.put (s.m.answer w tag { data := [tgetD s.m.hcopy.pos n 0] })))) ∧
  (∀ (s : State) (sl : Fin 8) (e : Fin 160) (t : Fin 16) (tag : Fin 8) (w : ThreadRef) (q : ChanReq) (a : Nat) (l : List Nat), Quiet s →
    w = ⟨sl, e, t⟩ → q.args = a :: l → 95 < bits a 0 7 ∨ s.m.subCount (bits a 0 7) ≤ bits a 7 3 → s.m.takeReq w tag 3 0 = some q →
    exec (.qdepth sl e t tag) s = .next (s.put (s.m.answer w tag { status := 5 })))

/-- Direct changes of the tables and what reads them back (R248, R263, R264, R266): a TBL_WRITE or TBL_DELETE that passes every check
applies its operations in order, one that a check stops applies nothing; what one operation leaves; TBL_READ, TBL_SCOPE_ASSIGN, the port
actions. Clauses on the model's choices: logs 21, 25, 26, 27, 71. -/
def Obligations.TableChanges : Prop :=
  (∀ (s : State) (c : Cmd) (ops : List (Nat × TblOp)) (m' : Mod), s.m.parseOps (asOp c 0x0301) 0x100 0x102 = .ok ops →
    mayRun s.m c 0x0301 (((ops.map fun o => o.2.scope).eraseDups).map Obj.scope) → ops ≠ [] → ops.length ≤ 64 → c.txn = 0 →
    (∀ t ∈ s.m.txns, t.2.owner ≠ c.mid) → (∀ o ∈ ops, s.m.opTagged o.2 = false) → s.m.existFault ops [] = none →
    s.m.quotaFault false ops [] [] = none → s.m.changes (asOp c 0x0301) ops = .ok m' →
    (∀ p ∈ m'.pat.parked, p.cmd ≠ some (asOp c 0x0301)) →
    exec (.tblWrite c) s = .next (s.ends ((m'.fgUse tablePorts).reply (asOp c 0x0301) {}))) ∧
  (∀ (s : State) (c : Cmd) (ops : List (Nat × TblOp)) (m' : Mod), s.m.parseOps (asOp c 0x0302) 0x103 0x105 = .ok ops →
    mayRun s.m c 0x0302 (((ops.map fun o => o.2.scope).eraseDups).map Obj.scope) → ops ≠ [] → c.txn = 0 →
    (∀ t ∈ s.m.txns, t.2.owner ≠ c.mid) → (∀ o ∈ ops, s.m.opTagged o.2 = false) → s.m.existFault ops [] = none →
    s.m.quotaFault false ops [] [] = none → s.m.changes (asOp c 0x0302) ops = .ok m' →
    exec (.tblDelete c) s = .next (s.ends (if m'.pat.parked.any (fun p => p.cmd = some (asOp c 0x0302)) then
        (m'.fgUse tablePorts).place (asOp c 0x0302) .executing (((ops.map fun o => o.2.scope).eraseDups).map Obj.scope)
      else (m'.fgUse tablePorts).reply (asOp c 0x0302) {}))) ∧
  (∀ (s : State) (c : Cmd) (ops : List (Nat × TblOp)) (p d : Nat), Quiet s → s.m.parseOps (asOp c 0x0301) 0x100 0x102 = .ok ops →
    mayRun s.m c 0x0301 (((ops.map fun o => o.2.scope).eraseDups).map Obj.scope) → ops ≠ [] → ops.length ≤ 64 → c.txn = 0 →
    (∀ t ∈ s.m.txns, t.2.owner ≠ c.mid) → (∀ o ∈ ops, s.m.opTagged o.2 = false) → s.m.existFault ops [] = some (p, d) →
    exec (.tblWrite c) s = .next (s.put (s.m.reply (asOp c 0x0301) (badTlv p d)))) ∧
  (∀ (s : State) (c : Cmd) (a : Ans), Quiet s → s.m.cmdCheck (asOp c 0x0302) = none → s.m.parseOps (asOp c 0x0302) 0x103 0x105 = .error a →
    a.status = stInvalid → a.late = false →
    exec (.tblDelete c) s = .next (s.put (s.m.reply (asOp c 0x0302) a))) ∧
  (∀ (s : State) (c : Cmd) (ops : List (Nat × TblOp)) (t : Nat × Txn), Quiet s → s.m.cmdCheck (asOp c 0x0301) = none →
    s.m.parseOps (asOp c 0x0301) 0x100 0x102 = .ok ops → ops ≠ [] → ops.length ≤ 64 → c.txn = 0 →
    t ∈ s.m.txns → t.2.holds = true → t.2.owner = c.mid → t.2.scope ∈ ops.map (fun o => o.2.scope) →
    exec (.tblWrite c) s = .next (s.put (s.m.reply (asOp c 0x0301) badHeader))) ∧
  (∀ (m : Mod) (c : Cmd) (q p i n : Nat) (d : Bool) (k : List Nat) (cir pir cbs pbs : Nat) (r : Nat × Rule), k ≠ [] →
    (∃ m', m.change c (.delRule q p) = .ok m' ∧ m'.ruleCopies q p = [] ∧
      (r ∈ m.ruleCopies q p → ⟨.rule (r.1 / 65536) (r.1 % 65536), r.2.scope, m.epoch, none⟩ ∈ m'.pat.parked)) ∧
    (∃ m', m.change c (.delExact q d k) = .ok m' ∧ m'.copies q k = [] ∧ ∀ x ∈ m.copies q k,
      ⟨.slot x.1, q, m.epoch, if d then some c else none⟩ ∈ m'.pat.parked) ∧
    (∃ m', m.change c (.putMeter q i cir pir cbs pbs) = .ok m' ∧ (n ∈ m.scopeSlices q →
      tget m'.pat.meters (n * 16384 + i) = some (m.freshMeter q cir pir cbs pbs)) ∧ m'.pat.hbm = m.pat.hbm ∧ m'.pat.rules = m.pat.rules) ∧
    (∃ m', m.change c (.delMeter q i) = .ok m' ∧ (∀ x ∈ m'.pat.meters, x.1 % 16384 = i → x.2.scope ≠ q) ∧
      (∀ x ∈ m.pat.meters, x.2.scope ≠ q → x ∈ m'.pat.meters))) ∧
  (∀ (w : Nat × ExEntry → Nat) (l : List (Nat × ExEntry)) (x : Nat × ExEntry), laterOf w l = some x → x ∈ l ∧
    nextWseq w l = (w x + 1) % 256) ∧
  (∀ (s : State) (c : Cmd) (q p : Nat) (d : Bool) (k : List Nat) (e : Nat × ExEntry), Quiet s → mayRun s.m c 0x0303 →
    s.m.parseOps c 0x103 0x105 = .ok [(p, .delExact q d k)] → s.m.current q k = some e →
    exec (.tblRead c) s = .next (s.put (s.m.reply (asOp c 0x0303) (s.m.inLimit c
      (okWith [tlv 0x110 (leBytes 2 q ++ leBytes 1 0xFF ++ leBytes 1 0 ++ e.2.bytes)]))))) ∧
  (∀ (s : State) (c : Cmd) (q p : Nat) (d : Bool) (k : List Nat), Quiet s → mayRun s.m c 0x0303 →
    s.m.parseOps c 0x103 0x105 = .ok [(p, .delExact q d k)] → s.m.current q k = none →
    exec (.tblRead c) s = .next (s.put (s.m.reply (asOp c 0x0303) (badTlv p 4)))) ∧
  (∀ (s : State) (c : Cmd) (p : Nat) (v : List Byte), Quiet s → mayRun s.m c 0x030D [.scope (leAt v 0 2)] → c.all 0x100 = [(p, v)] →
    s.m.scopeTlvFault v = none → bit (leAt v 2 1) 0 = false → (s.m.scopePut v).scopeFault (leAt v 0 2) = none →
    (s.m.scopePut v).quotaSums = true →
    exec (.tblScopeAssign c) s = .next (s.put ((s.m.scopePut v).reply (asOp c 0x030D) {}))) ∧
  (∀ (s : State) (c : Cmd) (p d : Nat) (v : List Byte), Quiet s → mayRun s.m c 0x030D [.scope (leAt v 0 2)] → c.all 0x100 = [(p, v)] →
    s.m.scopeTlvFault v = some d →
    exec (.tblScopeAssign c) s = .next (s.put (s.m.reply (asOp c 0x030D) (badTlv p d)))) ∧
  (∀ (m : Mod) (q : Nat), (m.scopeClear q).scopeHolds q = false) ∧
  (∀ (s : State) (c : Cmd) (p n a b e d : Nat), Quiet s → mayRun s.m c 0x0308 (actionObjs c) → n < 128 → a < 2 ^ 64 → b < 2 ^ 64 → e < 2 ^ 64 → d < 2 ^ 64 →
    bits a 48 3 < 4 → bit a 47 = false → bits a 54 10 = 0 → (bits a 48 3 ≠ 3 → bits e 16 48 = 0) → bit e 47 = false →
    c.all 0x100 = [(p, leBytes 2 n ++ leBytes 6 0 ++ leBytes 8 a ++ leBytes 8 b ++ leBytes 8 e ++ leBytes 8 d)] →
    exec (.defaultActionSet c) s = .next (s.put (Mod.reply ((((s.m.set F.PAT_PORT_ACT_WORD [n, 0] a).set F.PAT_PORT_ACT_WORD [n, 1] b).set
      F.PAT_PORT_ACT_WORD [n, 2] e).set F.PAT_PORT_ACT_WORD [n, 3] d) (asOp c 0x0308) {}))) ∧
  (∀ (s : State) (c : Cmd) (p n a b e d : Nat), Quiet s → mayRun s.m c 0x0309 (actionObjs c) → n < 96 → a < 2 ^ 64 → b < 2 ^ 64 → e < 2 ^ 64 → d < 2 ^ 64 →
    bits a 48 3 < 4 → bit a 47 = false → bits a 54 10 = 0 → (bits a 48 3 ≠ 3 → bits e 16 48 = 0) → bit e 47 = false →
    c.all 0x100 = [(p, leBytes 2 n ++ leBytes 6 0 ++ leBytes 8 a ++ leBytes 8 b ++ leBytes 8 e ++ leBytes 8 d)] →
    exec (.malformedActionSet c) s = .next (s.put (Mod.reply ((((s.m.set F.PAT_PORT_ACT_WORD [n, 4] a).set F.PAT_PORT_ACT_WORD [n, 5] b).set
      F.PAT_PORT_ACT_WORD [n, 6] e).set F.PAT_PORT_ACT_WORD [n, 7] d) (asOp c 0x0309) {}))) ∧
  (∀ (s : State) (c : Cmd) (p n : Nat) (v : List Byte), Quiet s → mayRun s.m c 0x0308 (actionObjs c) → c.all 0x100 = [(p, leBytes 2 n ++ v)] → n < 65536 →
    128 ≤ n →
    exec (.defaultActionSet c) s = .next (s.put (s.m.reply (asOp c 0x0308) (badTlv p 1))))

/-- Transactions, pins and counters (R67, R71 to R75, R265, R268, R271, R273): begin, staging, commit and its publication, what a lookup
sees of a tagged copy, clean-up; pins allocated and given back; the record of a counter. Clauses on the model's choices: logs 23, 24. -/
def Obligations.Transactions : Prop :=
  (∀ (s : State) (c : Cmd) (q n : Nat), Quiet s → mayRun s.m c 0x0304 [.scope q] → leAt (c.val 0x100) 0 2 = q →
    s.m.scopeRight c.mid q = true → (∀ t ∈ s.m.txns, t.2.scope ≠ q) → n < 64 → tget s.m.txns n = none →
    (∀ k, k < n → (tget s.m.txns k).isSome = true) →
    exec (.txnBegin c) s = .next (s.put (Mod.reply { s.m with txns := tput s.m.txns n { serial := 1, scope := q, owner := c.mid, named := s.m.ns } } (asOp c 0x0304) (okWith [tlv 0x101 (leBytes 4 (n * 2 ^ 26 + 1))])))) ∧
  (∀ (s : State) (c : Cmd) (q : Nat) (t : Nat × Txn), Quiet s → s.m.cmdCheck (asOp c 0x0304) = none → leAt (c.val 0x100) 0 2 = q →
    s.m.scopeRight c.mid q = true → t ∈ s.m.txns → t.2.holds = true → t.2.scope = q → t.2.owner = c.mid →
    exec (.txnBegin c) s = .next (s.put (s.m.reply (asOp c 0x0304) (badHeader 8)))) ∧
  (∀ (s : State) (c : Cmd) (ops : List (Nat × TblOp)) (t : Txn) (n : Nat), Quiet s → mayRun s.m c 0x0301 →
    s.m.parseOps (asOp c 0x0301) 0x100 0x102 = .ok ops → ops ≠ [] → ops.length ≤ 64 → c.txn = n * 2 ^ 26 + t.serial → t.serial < 2 ^ 26 →
    t.serial ≠ 0 → tget s.m.txns n = some t → t.owner = c.mid → t.state = .opened → (∀ o ∈ ops, o.2.scope = t.scope) →
    t.ops.length + ops.length ≤ 16384 → s.m.quotaFault true (t.ops.map (fun o => (0, o)) ++ ops) [] [] = none →
    exec (.tblWrite c) s = .next (s.put (Mod.reply { s.m with txns := tput s.m.txns n { t with ops := t.ops ++ ops.map (·.2), count := t.count + ops.length, named := s.m.ns } } (asOp c 0x0301) {}))) ∧
  (∀ (s : State) (c : Cmd) (ops : List (Nat × TblOp)) (t : Txn) (n p : Nat) (op : TblOp), Quiet s → s.m.cmdCheck (asOp c 0x0302) = none →
    s.m.parseOps (asOp c 0x0302) 0x103 0x105 = .ok ((p, op) :: ops) → c.txn = n * 2 ^ 26 + t.serial → t.serial < 2 ^ 26 →
    t.serial ≠ 0 → tget s.m.txns n = some t → t.owner = c.mid → t.state = .opened → op.scope ≠ t.scope →
    exec (.tblDelete c) s = .next (s.put (Mod.reply { s.m with txns := tput s.m.txns n { t with named := s.m.ns } } (asOp c 0x0302) (badTlv p 7)))) ∧
  (∀ (s : State) (c : Cmd) (t : Txn) (n g : Nat) (m m' : Mod), mayRun s.m c 0x0305 → c.txn = n * 2 ^ 26 + t.serial → t.serial < 2 ^ 26 →
    tget s.m.txns n = some t → t.owner = c.mid → t.state = .opened → (∀ p ∈ s.m.pat.pubs, p.2.cmd ≠ some (asOp c 0x0305)) →
    m = { s.m with txns := tput s.m.txns n { t with named := s.m.ns } } → s.m.freeTag = some g →
    m.judge m g [] (numbered 1 t.ops) = .placed m' →
    exec (.txnCommit c) s = .next (s.ends (Mod.place (Mod.switchNext { m' with txns := tadj m'.txns n fun t => { t with state := .publishing } } g
      { cmd := some (asOp c 0x0305), slot := n, rules := t.ops.filterMap TblOp.rule,
        drain := t.ops.any fun o => match o with | .delExact _ d _ => d | _ => false }) (asOp c 0x0305) .executing []))) ∧
  (∀ (s : State) (c : Cmd) (g : Nat) (p : Pub), s.m.pat.pubs = [(g, p)] → p.cmd = some (asOp c 0x0305) → p.seqs.length < 8 →
    exec (.txnCommit c) s = .next (s.ends (s.m.switchNext g p))) ∧
  (∀ (m : Mod) (g : Nat) (p : Pub), tget (m.switchNext g p).pat.pubs g =
      some { p with seqs := p.seqs ++ [(m.seamOf p.seqs.length).next], epoch := m.epoch } ∧
    (p.seqs.length < 7 → (m.switchNext g p).txns = m.txns ∧ (m.switchNext g p).outs = m.outs ∧ (m.switchNext g p).replies = m.replies) ∧
    (p.seqs.length = 7 → ∀ t, tget m.txns p.slot = some t → ∃ t', tget (m.switchNext g p).txns p.slot = some t' ∧
      t'.state = .committed ∧ t'.ops = [])) ∧
  (∀ (s : State) (c : Cmd) (t : Txn) (n g : Nat) (m : Mod) (a : Ans), mayRun s.m c 0x0305 → c.txn = n * 2 ^ 26 + t.serial → t.serial < 2 ^ 26 →
    tget s.m.txns n = some t → t.owner = c.mid → t.state = .opened → (∀ p ∈ s.m.pat.pubs, p.2.cmd ≠ some (asOp c 0x0305)) → Quiet s →
    m = { s.m with txns := tput s.m.txns n { t with named := s.m.ns } } → s.m.freeTag.getD 64 = g →
    m.judge m g [] (numbered 1 t.ops) = .fails a →
    a.late = true ∧ (a.status = stInvalid ∨ a.status = stNoResource) ∧ exec (.txnCommit c) s = .next (s.put (m.reply (asOp c 0x0305) a))) ∧
  (∀ (s : State) (c : Cmd) (t : Txn) (n g : Nat) (m : Mod), mayRun s.m c 0x0305 → c.txn = n * 2 ^ 26 + t.serial → t.serial < 2 ^ 26 →
    tget s.m.txns n = some t → t.owner = c.mid → t.state = .opened → (∀ p ∈ s.m.pat.pubs, p.2.cmd ≠ some (asOp c 0x0305)) → Quiet s →
    m = { s.m with txns := tput s.m.txns n { t with named := s.m.ns } } → s.m.freeTag.getD 64 = g →
    m.judge m g [] (numbered 1 t.ops) = .waits →
    exec (.txnCommit c) s = .next (s.put (m.place (asOp c 0x0305) .executing []))) ∧
  (∀ (m m' : Mod) (g p d : Nat) (op : TblOp) (done l : List (Nat × TblOp)),
    (m.opTagged op = true → m.judge m' g done ((p, op) :: l) = .waits) ∧
    (m.opTagged op = false → m.existFault [(p, op)] (done.map fun x => (x.2.scope, x.2.key, x.2.isPut)) = some (p, d) →
      m.judge m' g done ((p, op) :: l) = .fails { status := stInvalid, late := true, errTlv := p, errDetail := d })) ∧
  (∀ (m : Mod) (x seq tag : Nat), m.visible x seq 0 tag = true ∧ m.visible x seq 2 tag = !m.visible x seq 1 tag) ∧
  (∀ (m : Mod) (x seq tag q : Nat) (p : Pub), tget m.pat.pubs tag = some p → p.seqs[x]? = some q → q < 2 ^ 24 → seq < 2 ^ 24 →
    (m.visible x seq 1 tag = true ↔ (seq + 2 ^ 24 - q) % 2 ^ 24 < 2 ^ 23)) ∧
  (∀ (m : Mod) (g : Nat) (p : Pub),
    (∀ e ∈ (m.cleanTag g p).pat.hbm, ¬ (e.2.role ≠ 0 ∧ e.2.role < 3 ∧ e.2.tag = g)) ∧
    (∀ e ∈ (m.cleanTag g p).pat.rules, ¬ (e.2.role ≠ 0 ∧ e.2.role < 3 ∧ e.2.tag = g)) ∧
    tget (m.cleanTag g p).pat.pubs g = none ∧ (m.cleanTag g p).pat.parked = m.pat.parked) ∧
  (∀ (s : State) (c : Cmd) (q n f : Nat), Quiet s → mayRun s.m c 0x030A → leAt (c.val 0x100) 0 2 = q → leAt (c.val 0x100) 4 4 = n →
    s.m.scopeRight c.mid q = true → n ≠ 0 → n ≤ 65536 → s.m.pinsUsed q + n ≤ s.m.get F.PAT_SCOPE_PINS_PIN_QUOTA [q] →
    s.m.pinRange n = some f →
    exec (.counterPin c) s = .next (s.put (Mod.reply { s.m with pat := { s.m.pat with pins := (List.range n).foldl (fun (t : Tab Pin) i => tput t (f + i) { scope := q }) s.m.pat.pins } } (asOp c 0x030A) (okWith [tlv 0x101 (leBytes 4 f ++ leBytes 4 n)])))) ∧
  (∀ (m : Mod) (n f : Nat), m.pinRange n = some f → f + n ≤ 1048576 ∧ ∀ p ∈ m.pat.pins, p.1 < f ∨ f + n ≤ p.1) ∧
  (∀ (s : State) (c : Cmd) (q n : Nat), Quiet s → mayRun s.m c 0x030A → leAt (c.val 0x100) 0 2 = q → leAt (c.val 0x100) 4 4 = n →
    s.m.scopeRight c.mid q = true → n ≠ 0 → n ≤ 65536 → s.m.get F.PAT_SCOPE_PINS_PIN_QUOTA [q] < s.m.pinsUsed q + n →
    exec (.counterPin c) s = .next (s.put (s.m.reply (asOp c 0x030A) { status := stNoResource }))) ∧
  (∀ (s : State) (c : Cmd) (f : Nat) (x : Pin), Quiet s → mayRun s.m c 0x030B (pinObjs c) → leAt (c.val 0x100) 0 4 = f → leAt (c.val 0x100) 4 4 = 1 →
    s.m.pat.pins = [(f, x)] → s.m.scopeRight c.mid x.scope = true → (∀ b, c.buffer = some b → 24 ≤ b.2.1) →
    exec (.counterUnpin c) s = .next (s.put (Mod.place (Mod.park { s.m with pat := { s.m.pat with pins := [] } } (.pins f [x.read 255]) x.scope
      (some (asOp c 0x030B))) (asOp c 0x030B) .executing (pinObjs c)))) ∧
  (∀ (p : Pin) (k n : Nat), k < 8 → p.parts = [] → (p.add k n).read 255 = ((p.pk + 1) % 2 ^ 64, (p.by_ + n) % 2 ^ 64) ∧
    (n < 2 ^ 40 → (p.add k n).parts = [(k, 1, n)])) ∧
  (∀ (s : State) (c : Cmd), Quiet s → mayRun s.m c 0x030B (pinObjs c) → tget s.m.pat.pins (leAt (c.val 0x100) 0 4) = none →
    exec (.counterUnpin c) s = .next (s.put (s.m.reply (asOp c 0x030B) (badTlv (c.pos 0x100))))) ∧
  (∀ (s : State) (c : Cmd) (q f : Nat) (x : Pin), Quiet s → mayRun s.m c 0x030C → (c.tlv 0x100).isSome = true → c.tlv 0x180 = none →
    leAt (c.val 0x100) 0 2 = q → leAt (c.val 0x100) 2 1 = 1 → leAt (c.val 0x100) 4 4 = f → leAt (c.val 0x100) 8 4 = 1 → c.buffer = none →
    s.m.scopeRight c.mid q = true → s.m.pat.pins = [(f, x)] → x.scope = q →
    exec (.telemetryRead c) s = .next (s.put ((s.m.fgUse [153]).reply (asOp c 0x030C)
      (okWith [s.m.ctrData 1 (ctrRecord (x.read (leAt (c.val 0x100) 3 1)).1 (x.read (leAt (c.val 0x100) 3 1)).2 0 0 false)])))) ∧
  (∀ (s : State) (c : Cmd), Quiet s → mayRun s.m c 0x030C → (c.tlv 0x100).isSome = true → (c.tlv 0x180).isSome = true →
    exec (.telemetryRead c) s = .next (s.put (s.m.reply (asOp c 0x030C) (badTlv (max (c.pos 0x100) (c.pos 0x180)))))) ∧
  (∀ (s : State) (c : Cmd), Quiet s → mayRun s.m c 0x030C → c.tlv 0x100 = none → c.tlv 0x180 = none →
    exec (.telemetryRead c) s = .next (s.put (s.m.reply (asOp c 0x030C) missing))) ∧
  (∀ (m : Mod) (i mask x : Nat), x < 8 → bit mask x = true → mask < 256 →
    tget (m.ctrClear i mask).pat.ctrs (ctrKey x i) = none ∧ tget (m.ctrClear i mask).pat.accum i = none)

/-- Seam and Pleat (R274 to R282, R288, R290, R292, R296, R300 to R302): release in order, a rebuilt lane, what an account admits, the
crossbar, the spill, priority flow control. Clauses on the model's choices: logs 29, 30, 32, 83. -/
def Obligations.OrderAndBuffers : Prop :=
  (∀ (s : State) (sl : Fin 8) (busy : Bool), Quiet s → (s.m.seamOf sl).ready = [] → exec (.seamRelease sl busy) s = .next s) ∧
  (∀ (s : State) (sl : Fin 8) (busy : Bool) (q : Nat) (qs : List Nat) (c : SeamCtx) (m1 : Mod), (s.m.seamOf sl).ready = q :: qs →
    (s.m.seamOf sl).ctxs.find? (·.seq = q) = some c →
    m1 = Mod.freeAll (Mod.seaCount (Mod.putSeam (s.m.set F.SEA_LANE_STATUS_HOLD_MAX [sl.val] (max (s.m.get F.SEA_LANE_STATUS_HOLD_MAX [sl.val]) (min ((s.m.ns - c.endNs) / 64) 0xFFFF)))
      sl ((s.m.seamOf sl).drop q)) sl 0) c.input →
    exec (.seamRelease sl busy) s = .next (s.ends (if s.m.staleOrigin c.origin then c.place.foldl (fun m p => m.sendLost p.1 6) (m1.seaCount sl 7)
      else m1.placeList sl busy c.place))) ∧
  (∀ (x : Seam) (l : Nat) (c : SeamCtx), x.head l = some c → l ∉ x.rebuild →
    (c.ended = true → c.seq ∈ (x.wake (some l)).ready) ∧ (c.ended = false → x.wake (some l) = x)) ∧
  (∀ (x : Seam) (l : Nat) (a b : List SeamCtx), (x.ctxs.filter fun c => c.lane = some l) = a ++ b → (∀ c ∈ a, c.ended = true) →
    l ∉ x.rebuild → ∀ c ∈ a, c.seq ∈ (x.wake (some l)).ready) ∧
  (∀ (m : Mod) (home b c n ref : Nat) (v : VoqEntry), home ≠ b → ref ≠ 0 → v ∈ tgetD m.plt.voq ((home * 8 + b) * 8 + c) [] → v.ref = ref →
    m.crossing home b c n ref = some (m, .with_ ref)) ∧
  (∀ (x : Seam) (q : Nat), (∀ c ∈ (x.drop q).ctxs, c.seq ≠ q) ∧ ∀ c ∈ x.ctxs, c.seq ≠ q → c ∈ (x.drop q).ctxs) ∧
  (∀ (s : State) (sl : Fin 8) (lane : Fin 4096), Quiet s →
    (lane.val ∈ (s.m.seamOf sl).rebuild → exec (.laneRebuildDone sl lane) s = .next (s.put (s.m.putSeam sl
      (Seam.wake { s.m.seamOf sl with rebuild := (s.m.seamOf sl).rebuild.filter (· ≠ lane.val) } (some lane))))) ∧
    (lane.val ∉ (s.m.seamOf sl).rebuild → exec (.laneRebuildDone sl lane) s = .next s)) ∧
  (∀ (m : Mod) (a : AcctInfo) (n : Nat) (x : Acct), m.acct a.num = x → a.cls ≠ 7 →
    (m.admitSrc a n = some 1 ↔ x.minUsed + n ≤ a.lo) ∧
    (a.lo < x.minUsed + n → (m.admitSrc a n = some 2 ↔
      x.depth + n ≤ a.hi ∧ 16 * (x.sharedUsed + n) ≤ 2 ^ a.alpha * m.sharedFree a.slice ∧ n ≤ m.sharedFree a.slice)) ∧
    (a.lo < x.minUsed + n → a.hi < x.depth + n → a.head = none → m.admitSrc a n = none)) ∧
  (∀ (m : Mod) (a : AcctInfo) (n : Nat), a.cls = 7 → tgetD m.plt.ctrlUsed a.slice 0 + n ≤ m.get F.PLT_CFG_CTRL_RESERVE [a.slice] →
    m.admitSrc a n = some 0) ∧
  (∀ (m m' : Mod) (a : AcctInfo) (n : Nat) (ch : Charge), m.admitCells a n = some (m', ch) →
    ch.acct = a.num ∧ ch.n = n ∧ (m'.acct a.num).depth = (m.acct a.num).depth + n ∧ m'.regs = m.regs) ∧
  (∀ (m : Mod) (c : Charge) (k : Nat), c.src < 16 → 2000 ≤ c.acct → c.n ≤ (m.acct c.acct).depth →
    ((m.free c).acct c.acct).depth = (m.acct c.acct).depth - c.n ∧ (k ≠ c.acct → (m.free c).acct k = m.acct k)) ∧
  (∀ (s : State) (b : Fin 8), Quiet s → s.m.xPick b = none → exec (.crossbarCell b) s = .next s) ∧
  (∀ (s : State) (b : Fin 8) (c a : Nat) (l : List Nat) (v : VoqEntry), s.m.xPick b = some (c, a, l) →
    tgetD s.m.plt.voq ((a * 8 + b.val) * 8 + c) [] = [v] → v.left ≤ 1 →
    exec (.crossbarCell b) s = .next (s.ends (((v.queue, v.id) :: v.also).foldl (fun m t => m.cellArrived b t.1 t.2) (Mod.free { s.m with plt := { s.m.plt with voq := tdel s.m.plt.voq ((a * 8 + b.val) * 8 + c), xbarRr := tput s.m.plt.xbarRr b l } }
      { v.charge with n := 1 })))) ∧
  (∀ (m : Mod) (b c a : Nat) (l : List Nat), m.xPick b = some (c, a, l) → tgetD m.plt.voq ((a * 8 + b) * 8 + c) [] ≠ [] ∧
    (c ≠ 7 → ∀ x, x < 8 → tgetD m.plt.voq ((x * 8 + b) * 8 + 7) [] = [])) ∧
  (∀ (s : State) (sl : Fin 8) (e : Fin 100) (c : Fin 8), Quiet s → (∀ x ∈ s.m.egq (egKey sl e c), x.hbm = false) →
    exec (.spillReadback sl e c) s = .next s) ∧
  (∀ (s : State) (sl : Fin 8) (e : Fin 100) (c : Fin 8) (x : EgEntry) (m1 m' : Mod) (ch : Charge), s.m.egq (egKey sl e c) = [x] →
    x.hbm = true → m1 = s.m.freeAll x.pkt.charges → x.pkt.cells ≤ x.present →
    (s.m.acct (egAcct sl e c)).depth - (s.m.acct (egAcct sl e c)).hbm < s.m.get F.PLT_SPILL_CFG_REFILL [sl.val] →
    m1.admitCells (m1.egInfo sl e c) x.pkt.cells = some (m', ch) →
    exec (.spillReadback sl e c) s = .next (s.ends ((m'.pltCount sl 37 x.pkt.cells).putEgq (egKey sl e c)
      [{ x with hbm := false, pkt := { x.pkt with charges := [ch] } }]))) ∧
  (∀ (s : State) (n : Fin 96) (k : Fin 8), Quiet s → s.m.subState n k ≠ 4 ∨ (∀ c, c < 8 → (s.m.xoffOf n c).since = none) →
    exec (.pfcRefresh n k) s = .next s) ∧
  (∀ (s : State) (n : Fin 96) (k c : Fin 8), s.m.subState n k = 4 → (s.m.xoffOf n c).since.isSome = true → c.val ≠ 7 →
    s.m.pfcPrios n c ≠ 0 →
    ∃ t, exec (.pfcRefresh n k) s = .next t ∧ .pfc n k (s.m.pfcPrios n c) 0xFFFF ∈ t.m.outs ∧ t.m.plt = s.m.plt) ∧
  (∀ (s : State) (n : Fin 96) (c : Fin 8), Quiet s →
    (s.m.xoffOf n c).since = none ∨ s.m.get F.PLT_PFC_CFG_WD_MS [n.val / 12, c.val] = 0 → exec (.pfcWatchdog n c) s = .next s) ∧
  (∀ (s : State) (n : Fin 96) (c : Fin 8) (t0 wd : Nat), (s.m.xoffOf n c).since = some t0 →
    s.m.get F.PLT_PFC_CFG_WD_MS [n.val / 12, c.val] = wd → wd ≠ 0 →
    ∃ t, exec (.pfcWatchdog n c) s = .next t ∧ t.m.xoffOf n c = { since := none, tripped := true } ∧ t.m.lossless n c = false ∧
      t.m.now = max s.m.now ((t0 + wd * 1000000) * nsUnit) ∧ t.m.plt.accts = s.m.plt.accts)

/-- The THIMBLE channel (R331 to R337, R347, R350 to R353, R358): the scheduler takes a request in its eight forms, refuses it, or answers
without effect; the counter an encryption takes, the window of an ESP_IN, the sequence of a TLS_OUT; the end of an operation. Clauses on the model's choices: log 44. -/
def Obligations.CipherChannel : Prop :=
  (∀ (s : State) (sl : Fin 8) (e : Fin 160) (t : Fin 16) (tag : Fin 8) (w : ThreadRef) (q : ChanReq) (d : List Byte) (x : ThmArgs)
      (o o' : ThmObj) (p : ThmOp) (m0 m' : Mod) (k : Nat), w = ⟨sl, e, t⟩ → (tgetD s.m.thm.ops sl []).length < 4096 → q.args.length = 3 →
    ((tgetD s.m.thm.ops sl []).any fun p => p.under w x) = false →
    d = checksums q.w4 (backTo (s.m.th sl e t).pkt.bytes q.back) → m0 = s.m.putBytes w d → x = thmArgs q → thmRefused q.op d.length x = false →
    m0.object x.handle = some o → k = x.handle % 2 ^ 18 → k / 32768 = sl →
    let done : State := s.ends (Mod.setThm ((m'.putObj k o').busyTag w tag 2) fun y => { y with ops := tput y.ops sl (tgetD s.m.thm.ops sl [] ++ [p]) })
    (s.m.takeReq w tag 2 0 = some q → q.op = 0 → m0.seal (thmOp w tag k {}) o x d = .ok (o', p, m') → exec (.sealData sl e t tag) s = .next done) ∧
    (s.m.takeReq w tag 2 1 = some q → q.op = 1 → m0.openOp (thmOp w tag k {}) o x d = .ok (o', p, m') → exec (.openData sl e t tag) s = .next done) ∧
    (s.m.takeReq w tag 2 2 = some q → q.op = 2 → m0.espOut (thmOp w tag k {}) o x d = .ok (o', p, m') → exec (.espOut sl e t tag) s = .next done) ∧
    (s.m.takeReq w tag 2 3 = some q → q.op = 3 → m0.espIn (thmOp w tag k {}) o x d = .ok (o', p, m') → exec (.espIn sl e t tag) s = .next done) ∧
    (s.m.takeReq w tag 2 4 = some q → q.op = 4 → m0.tlsOut (thmOp w tag k {}) o x d = .ok (o', p, m') → exec (.tlsOut sl e t tag) s = .next done) ∧
    (s.m.takeReq w tag 2 5 = some q → q.op = 5 → m0.tlsIn (thmOp w tag k {}) o x d = .ok (o', p, m') → exec (.tlsIn sl e t tag) s = .next done) ∧
    (s.m.takeReq w tag 2 6 = some q → q.op = 6 → m0.xtsOp 0 (thmOp w tag k {}) o x d = .ok (o', p, m') → exec (.xtsEnc sl e t tag) s = .next done) ∧
    (s.m.takeReq w tag 2 7 = some q → q.op = 7 → m0.xtsOp 1 (thmOp w tag k {}) o x d = .ok (o', p, m') → exec (.xtsDec sl e t tag) s = .next done)) ∧
  (∀ (s : State) (sl : Fin 8) (e : Fin 160) (t : Fin 16) (tag : Fin 8) (w : ThreadRef) (q : ChanReq) (d : List Byte) (x : ThmArgs),
    Quiet s → w = ⟨sl, e, t⟩ → (tgetD s.m.thm.ops sl []).length < 4096 → d = checksums q.w4 (backTo (s.m.th sl e t).pkt.bytes q.back) →
    x = thmArgs q → ((tgetD s.m.thm.ops sl []).any fun p => p.under w x) = false →
    (q.args.length ≠ 3 ∨ thmRefused 0 d.length x = true → s.m.takeReq w tag 2 0 = some q →
      exec (.sealData sl e t tag) s = .next (s.put ((s.m.putBytes w d).answer w tag { status := chRefused }))) ∧
    (q.args.length ≠ 3 ∨ thmRefused 1 d.length x = true → s.m.takeReq w tag 2 1 = some q →
      exec (.openData sl e t tag) s = .next (s.put ((s.m.putBytes w d).answer w tag { status := chRefused }))) ∧
    (q.args.length = 3 → thmRefused 2 d.length x = false → s.m.takeReq w tag 2 2 = some q → (s.m.putBytes w d).object x.handle = none →
      exec (.espOut sl e t tag) s = .next (s.put (((s.m.putBytes w d).thmCount sl 6).answer w tag { status := thBadHandle })))) ∧
  (∀ (s : State) (sl : Fin 8) (e : Fin 160) (t : Fin 16) (tag : Fin 8), Quiet s → s.m.takeReq ⟨sl, e, t⟩ tag 2 0 = none →
    exec (.sealData sl e t tag) s = .next s) ∧
  (∀ (s : State) (sl : Fin 8) (e : Fin 160) (t : Fin 16) (tag : Fin 8) (q : ChanReq) (p : ThmOp), Quiet s →
    p ∈ tgetD s.m.thm.ops sl [] → p.under ⟨sl, e, t⟩ (thmArgs q) = true →
    (s.m.takeReq ⟨sl, e, t⟩ tag 2 0 = some q → exec (.sealData sl e t tag) s = .next s) ∧
    (s.m.takeReq ⟨sl, e, t⟩ tag 2 1 = some q → exec (.openData sl e t tag) s = .next s)) ∧
  (∀ (op n : Nat) (x : ThmArgs), (9600 < x.len ∨ x.len = 0 ∨ 64 < x.aadLen ∨ n < x.off + x.len ∨ n < x.aadOff + x.aadLen →
      thmRefused op n x = true) ∧ (thmRefused 0 n x = false → x.off + x.len + 16 ≤ n)) ∧
  (∀ (m : Mod) (p : ThmOp) (o : ThmObj) (x : ThmArgs) (d : List Byte), o.purpose = 1 → o.dir = 0 → o.kind = .ctx → o.epoch = none →
    o.counter < 2 ^ 64 - 1 →
    m.seal p o x d = .ok ({ o with counter := o.counter + 1, used := true },
      withWrite { p with resp := { data := [o.counter, epochWord o 0] }, sealed_ := x.len } x.off
        (aeadSeal o.alg ((m.keyOf o 0).take 32) (nonceOf (m.keyOf o 0) o.counter) (slice d x.aadOff x.aadLen) (slice d x.off x.len)), m)) ∧
  (∀ (m : Mod) (p : ThmOp) (o : ThmObj) (x : ThmArgs) (d : List Byte), o.purpose ≠ 1 ∨ o.dir ≠ 0 ∨ o.kind ≠ .ctx →
    m.seal p o x d = .error thWrongState) ∧
  (∀ (m : Mod) (o o' : ThmObj) (e : Int) (n : Nat), m.takeCounter o = .ok (e, n, o') → n < 2 ^ 64 - 1 ∧ o'.counter = n + 1 ∧
    o'.used = true ∧ (o.epoch = none → n = o.counter) ∧
    ((o.epoch).isSome = true → o'.eHigh = some e ∧ m.epochRefused = false ∧ (∀ h, o.eHigh = some h → h ≤ e))) ∧
  (∀ (m : Mod) (o : ThmObj), o.epoch = none → 2 ^ 64 - 1 ≤ o.counter → m.takeCounter o = .error thExpired) ∧
  (∀ (m : Mod) (o : ThmObj), (o.epoch).isSome = true → m.epochRefused = true → m.takeCounter o = .error thNotTraceable) ∧
  (∀ (r : Replay) (w n : Nat), n ≠ 0 → 0 < w → r.rejects w n = false → (r.note w n).rejects w n = true ∧ r.top ≤ (r.note w n).top) ∧
  (∀ (t t' : TlsDir) (n h k : Nat), (t.take n = some t' → t'.take n = none) ∧ (t.high = some h → k + 1024 < h → t.take k = none)) ∧
  (∀ (s : State) (sl : Fin 8) (i : Fin 4096) (fail : Bool), Quiet s → (tgetD s.m.thm.ops sl [])[i.val]? = none →
    exec (.thimbleOpDone sl i fail) s = .next s) ∧
  (∀ (s : State) (sl : Fin 8) (i : Fin 4096) (fail : Bool), Quiet s → s.m.get F.THM_STATUS_CORES_OK [sl.val] = 0 →
    exec (.thimbleOpDone sl i fail) s = .next s) ∧
  (∀ (s : State) (sl : Fin 8) (p : ThmOp) (o : ThmObj) (off : Nat) (bs : List Byte), Quiet s → tgetD s.m.thm.ops sl [] = [p] →
    s.m.get F.THM_STATUS_CORES_OK [sl.val] ≠ 0 → tget s.m.thm.objs p.obj = some o → o.dying = false → o.destroy = [] →
    p.replay = none → p.write = some (off, bs) → p.resp.status = 0 → p.who.s = sl →
    exec (.thimbleOpDone sl 0 false) s = .next (s.put (Mod.answer ((((Mod.putBytes (s.m.setThm fun y => { y with ops := tput y.ops sl [] }) p.who
      (overlay (s.m.th sl p.who.e p.who.t).pkt.bytes off bs)).thmCount sl 0).thmCount sl 1 p.sealed_).thmCount sl 2 p.opened) p.who p.tag p.resp))) ∧
  (∀ (m : Mod) (p : ThmOp), m.get F.THM_STATUS_CORES_OK [p.who.s] ≠ 0 → p.who.s < 8 →
    (m.thmFinish p true).get F.THM_STATUS_CORES_OK [p.who.s] = m.get F.THM_STATUS_CORES_OK [p.who.s] - 1)

/-- Roots, incarnations and contexts (R338 to R348, R357, R359): what installs a root, what a draw uses up, how a context is made and
destroyed, epochs. Clauses on the model's choices: log 45. -/
def Obligations.KeyCommands : Prop :=
  (∀ (s : State) (c : Cmd) (k : Nat) (b : List Byte), Quiet s → mayRun s.m c 0x0501 [.root 0 k] → (∀ n, c.src ≠ .oob n) →
    c.val 0x100 = leBytes 1 k ++ leBytes 1 0 ++ [0, 0] ++ b → b.length = 48 → k < 64 → s.m.rootNamed k = false →
    s.m.clearAllowed c true = true →
    exec (.keyRootInstallClear c true) s = .next (s.put ((s.m.putRoot k b).reply (asOp c 0x0501) ((s.m.putRoot k b).rootInfo k)))) ∧
  (∀ (s : State) (c : Cmd) (k : Nat) (b : List Byte), Quiet s → mayRun s.m c 0x0501 [.root 0 k] → (∀ n, c.src ≠ .oob n) →
    c.val 0x100 = leBytes 1 k ++ leBytes 1 0 ++ [0, 0] ++ b → b.length = 48 → k < 64 → s.m.rootNamed k = false →
    s.m.clearAllowed c false = false →
    exec (.keyRootInstallClear c false) s = .next (s.put (s.m.reply (asOp c 0x0501) (c.bad 1)))) ∧
  (∀ (s : State) (c : Cmd) (n : Nat), Quiet s → s.m.cmdCheck (asOp c 0x0501) = none → c.src = .oob n →
    exec (.keyRootErase c) s = .next (s.put (s.m.reply (asOp c 0x0501) badHeader)) ∧
    exec (.agreeStart c) s = .next (s.put (s.m.reply (asOp c 0x0501) badHeader)) ∧
    exec (.keyRootInstallWrapped c) s = .next (s.put (s.m.reply (asOp c 0x0501) badHeader))) ∧
  (∀ (m : Mod) (k : Nat) (root : List Byte), (m.putRoot k root).rootOf k = some root ∧ (m.clearRoot k).rootOf k = none ∧
    ∀ j, j ≠ k → (m.putRoot k root).rootOf j = m.rootOf j ∧ (m.clearRoot k).rootOf j = m.rootOf j) ∧
  (∀ (s : State) (c : Cmd) (k w : Nat) (root key x : List Byte), Quiet s → mayRun s.m c 0x0501 [.root 0 k] → (∀ n, c.src ≠ .oob n) →
    (c.val 0x100).length = 88 → leAt (c.val 0x100) 0 1 = k → leAt (c.val 0x100) 1 1 = 1 → k < 64 → s.m.rootNamed k = false →
    leAt (c.val 0x100) 4 1 = w → w < 64 → s.m.rootOf w = some root →
    key = kdf root "UXM-THIMBLE" (labelOf 5 5 none 0xFFFF (leAt (c.val 0x100) 8 4) (leAt (c.val 0x100) 12 4) (slice (c.val 0x100) 16 16)) 32 →
    x = slice (c.val 0x100) 32 56 →
    (keyUnwrapOk key x = true → exec (.keyRootInstallWrapped c) s = .next (s.put ((s.m.putRoot k ((keyUnwrap key x).take 48)).reply (asOp c 0x0501)
      ((s.m.putRoot k ((keyUnwrap key x).take 48)).rootInfo k)))) ∧
    (keyUnwrapOk key x = false → exec (.keyRootInstallWrapped c) s =
      .next (s.put (s.m.reply (asOp c 0x0501) { status := stAuthFail })))) ∧
  (∀ (s : State) (c : Cmd) (k : Nat), Quiet s → mayRun s.m c 0x0501 [.root 0 k] → (∀ n, c.src ≠ .oob n) →
    c.val 0x100 = leBytes 1 k ++ leBytes 1 2 ++ [0, 0] → k < 64 → s.m.rootNamed k = false →
    exec (.agreeStart c) s = .next (s.put (Mod.reply ((s.m.randomBytes 48).2.setThm fun t => { t with agree := tput t.agree k (s.m.randomBytes 48).1 })
      (asOp c 0x0501) (okWith [tlv 0x101 (p384Public (s.m.randomBytes 48).1)])))) ∧
  (∀ (s : State) (c : Cmd) (k : Nat) (priv peer root : List Byte), Quiet s → mayRun s.m c 0x0501 [.root 0 k] → (∀ n, c.src ≠ .oob n) →
    c.val 0x100 = leBytes 1 k ++ leBytes 1 3 ++ [0, 0] ++ peer → peer.length = 97 → k < 64 → tget s.m.thm.agree k = some priv →
    root = kdf (p384Agree priv peer) "UXM-AGREE" (if beNat (p384Public priv) ≤ beNat peer then p384Public priv ++ peer
      else peer ++ p384Public priv) 48 →
    exec (.agreeFinish c) s = .next (s.put ((s.m.putRoot k root).reply (asOp c 0x0501) ((s.m.putRoot k root).rootInfo k)))) ∧
  (∀ (s : State) (c : Cmd) (k : Nat), Quiet s → mayRun s.m c 0x0501 [.root 0 k] → (∀ n, c.src ≠ .oob n) →
    c.val 0x100 = leBytes 1 k ++ leBytes 1 4 ++ [0, 0] → k < 64 →
    (s.m.rootNamed k = false → exec (.keyRootErase c) s = .next (s.put ((s.m.clearRoot k).reply (asOp c 0x0501) ((s.m.clearRoot k).rootInfo k)))) ∧
    (s.m.rootNamed k = true → exec (.keyRootErase c) s = .next (s.put (s.m.reply (asOp c 0x0501) (c.bad 2))))) ∧
  (∀ (s : State) (c : Cmd) (k lo n : Nat), Quiet s → mayRun s.m c 0x0502 [.root 0 k] → leAt (c.val 0x100) 0 1 = k → leAt (c.val 0x100) 4 4 = lo →
    k < 64 → 1 < lo → n = max (tgetD s.m.chalk.incarnations k 0) (lo - 1) →
    exec (.incarnationAdvance c) s = .next (s.put (Mod.reply (Mod.fgUse { s.m with chalk := { s.m.chalk with incarnations := tput s.m.chalk.incarnations k n } } [64])
      (asOp c 0x0502) (okWith [tlv 0x101 (leBytes 4 n)])))) ∧
  (∀ (m : Mod) (k n : Nat), tgetD m.chalk.incarnations k 0 = n →
    (n ≠ 0xFFFFFFFF → m.drawIncarnation k false = (.ok (n + 1), { m with chalk := { m.chalk with incarnations := tput m.chalk.incarnations k (n + 1) } })) ∧
    (n = 0xFFFFFFFF → (m.drawIncarnation k false).1 = .error 3 ∧ k ∈ (m.drawIncarnation k false).2.chalk.exhausted)) ∧
  (∀ (s : State) (c : Cmd) (v root : List Byte) (k sl h : Nat) (m1 m2 : Mod), Quiet s → mayRun s.m c 0x0503 [.inst c.inst] →
    c.val 0x100 = v → leAt v 0 1 = k → k < 64 → s.m.rootOf k = some root → s.m.homeSlice c (leAt v 5 1) = some sl →
    ctxFits (leAt v 1 1) (leAt v 2 1) (leAt v 3 1) = true → leAt v 3 1 = 0 → leAt v 12 4 = 0 → leAt v 16 16 = 0 →
    (s.m.freeObj sl).isSome = true → s.m.ctxRoom c.inst sl = true → tgetD s.m.chalk.incarnations k 0 ≠ 0xFFFFFFFF →
    m1 = { s.m with chalk := { s.m.chalk with incarnations := tput s.m.chalk.incarnations k (tgetD s.m.chalk.incarnations k 0 + 1) } } →
    m1.newObj sl { serial := 0, inst := c.inst, root := some k, purpose := leAt v 1 1, alg := leAt v 2 1, dir := 0, ctxId := leAt v 8 4, incarnation := tgetD s.m.chalk.incarnations k 0 + 1, origin := serialNumber } = some (h, m2) →
    exec (.keyCtxCreate c false) s = .next (s.put (m2.reply (asOp c 0x0503) (okWith [tlv 0x101 (leBytes 4 h ++
      leBytes 4 (tgetD s.m.chalk.incarnations k 0 + 1) ++ serialNumber ++ leBytes 4 (m2.viewRootId k))])))) ∧
  (∀ (m m' : Mod) (sl h : Nat) (o : ThmObj), m.newObj sl o = some (h, m') → sl < 8 →
    o.dying = false → ∃ n, m'.object h = some { o with serial := n } ∧ n ≠ 0 ∧ h % 2 ^ 18 / 32768 = sl) ∧
  (∀ (s : State) (c : Cmd) (h k : Nat) (o : ThmObj), Quiet s → leAt (c.val 0x100) 0 4 = h → h % 2 ^ 18 = k → s.m.cmdObj c h = some o →
    s.m.objNamed k = false →
    (mayRun s.m c 0x0504 [.ctx k] → o.kind = .ctx → s.m.objBusy k = false → exec (.keyCtxDestroy c) s =
      .next (s.put (Mod.reply (s.m.setThm fun t => { t with objs := tdel t.objs k }) (asOp c 0x0504) {}))) ∧
    (mayRun s.m c 0x0507 [.ctx k] → o.kind ≠ .ctx → s.m.objBusy k = false → exec (.saDestroy c) s =
      .next (s.put (Mod.reply (s.m.setThm fun t => { t with objs := tdel t.objs k }) (asOp c 0x0507) {}))) ∧
    (mayRun s.m c 0x0504 [.ctx k] → o.kind = .ctx → s.m.objBusy k = true → exec (.keyCtxDestroy c) s =
      .next (s.put (Mod.place (s.m.putObj k { o with destroy := o.destroy ++ [asOp c 0x0504] }) (asOp c 0x0504) .executing [.ctx k])))) ∧
  (∀ (s : State) (c : Cmd) (h : Nat), Quiet s → leAt (c.val 0x100) 0 4 = h →
    (s.m.cmdCheck (asOp c 0x0504) = none → s.m.cmdObj c h = none → exec (.keyCtxDestroy c) s = .next (s.put (s.m.reply (asOp c 0x0504) c.bad))) ∧
    (s.m.cmdCheck (asOp c 0x0507) = none → s.m.cmdObj c h = none → exec (.saDestroy c) s = .next (s.put (s.m.reply (asOp c 0x0507) c.bad)))) ∧
  (∀ (s : State) (c : Cmd) (v : List Byte) (h k per guard : Nat) (o : ThmObj), Quiet s → mayRun s.m c 0x0505 [.ctx k] → c.val 0x100 = v →
    leAt v 0 4 = h → h % 2 ^ 18 = k → s.m.cmdObj c h = some o → leAt v 4 4 = per → leAt v 16 4 = guard → o.used = false → o.kind = .ctx →
    o.purpose = 1 ∨ o.purpose = 2 → per ≠ 0 → per ≤ 31622400 → guard ≤ per * 250 → s.m.epochRefused = false →
    exec (.epochKeySet c) s = .next (s.put (Mod.reply (s.m.putObj k { o with epoch := some ⟨per, leAt v 8 6, guard⟩, keys := [EpochSet.at_ ⟨per, leAt v 8 6, guard⟩ s.m.now] })
      (asOp c 0x0505) {}))) ∧
  (∀ (s : State) (c : Cmd) (o : ThmObj), Quiet s → s.m.cmdCheck (asOp c 0x0505) = none → s.m.cmdObj c (leAt (c.val 0x100) 0 4) = some o →
    o.used = true → exec (.epochKeySet c) s = .next (s.put (s.m.reply (asOp c 0x0505) (c.bad 1)))) ∧
  (∀ (s : State) (k : Fin 262144) (t : Nat) (o : ThmObj) (x : EpochSet), Quiet s → tget s.m.thm.objs k = some o → o.epoch = some x → o.dir = 1 →
    s.m.ns ≤ t → (t : Int) + (x.guard + 1 : Nat) * 1000000 = x.startNs (x.at_ (t * nsUnit) + 1) →
    exec (.epochKeyDerive k t) s = .next (s.put ((s.m.runToNs t).putObj k { o with keys := (o.keys ++ [x.at_ (s.m.runToNs t).now + 1]).eraseDups }))) ∧
  (∀ (s : State) (k : Fin 262144) (t : Nat) (o : ThmObj) (x : EpochSet), Quiet s → tget s.m.thm.objs k = some o → o.epoch = some x → o.dir = 1 →
    s.m.ns ≤ t → (t : Int) = x.startNs (x.at_ (t * nsUnit)) + x.guard * 1000000 →
    ∃ t', exec (.epochKeyErase k t) s = .next t' ∧ ∃ o', tget t'.m.thm.objs k = some o' ∧
      o'.keys = o.keys.filter (fun n => decide (x.at_ (max s.m.now (t * nsUnit)) ≤ n)) ∧ t'.m.chalk = s.m.chalk)

/-- ESP, TLS and MACsec associations (R351 to R356): creation, the steps of a handshake in order, a step out of order, SAs of a port. Clauses on the model's choices: logs 45, 46. -/
def Obligations.SecurityAssociations : Prop :=
  (∀ (s : State) (c : Cmd) (v : List Byte) (h w n : Nat) (o : ThmObj) (m' : Mod), Quiet s → mayRun s.m c 0x0506 [.ctx (h % 2 ^ 18)] →
    (c.tlv 0x100).isSome = true → c.val 0x100 = v → leAt v 0 4 = h → leAt v 8 2 = w → s.m.cmdObj c h = some o → o.kind = .ctx → o.purpose = 2 →
    o.dir ≠ 1 ∨ w ∈ [64, 128, 256, 512, 1024, 2048, 4096] → s.m.ctxRoom o.inst (h % 2 ^ 18 / 32768) = true →
    s.m.newObj (h % 2 ^ 18 / 32768) { serial := 0, inst := o.inst, root := o.root, purpose := 10, kind := .esp (h % 2 ^ 18) (leAt v 4 4) (if o.dir = 1 then w else 0) [] } = some (n, m') →
    exec (.saCreate c) s = .next (s.put (m'.reply (asOp c 0x0506) (okWith [tlv 0x101 (leBytes 4 n)])))) ∧
  (∀ (s : State) (c : Cmd) (v : List Byte) (sl h : Nat) (m' : Mod), Quiet s → mayRun s.m c 0x0506 [.inst c.inst] → (c.tlv 0x110).isSome = true →
    c.val 0x110 = v → s.m.homeSlice c (leAt v 11 1) = some sl → leAt v 10 1 = 0xFF → leAt v 0 1 = 1 → leAt v 8 1 ≤ 1 → leAt v 9 1 ≤ 1 →
    leAt v 4 4 = 0 → s.m.ctxRoom c.inst sl = true →
    s.m.newObj sl { serial := 0, inst := c.inst, root := none, purpose := 11, kind := .tls { role := leAt v 8 1, suite := leAt v 9 1, psk := none, early := hmac (leAt v 9 1) (List.replicate (tlsHash (leAt v 9 1)) 0) (List.replicate (tlsHash (leAt v 9 1)) 0) } } = some (h, m') →
    exec (.tlsCreate c) s = .next (s.put (m'.reply (asOp c 0x0506) (okWith [tlv 0x111 (leBytes 4 h)])))) ∧
  (∀ (s : State) (c : Cmd) (v : List Byte) (h k : Nat) (o : ThmObj) (t : TlsSa), Quiet s → mayRun s.m c 0x0506 [.ctx k] →
    (c.tlv 0x110).isSome = true → c.val 0x110 = v → leAt v 4 4 = h → h % 2 ^ 18 = k → s.m.cmdObj c h = some o → o.kind = .tls t →
    let into : TlsSa → Mod → Mod := fun u m => m.putObj k { o with kind := .tls u }
    let went : Mod → Ans → State := fun m a => s.put (m.reply (asOp c 0x0506) a)
    let n := tlsHash t.suite
    (leAt v 0 1 = 2 → t.step = 1 ∨ ((t.step = 2 ∨ t.step = 3) ∧ t.shares < 2) → leAt v 8 1 = 0 → p384Public (s.m.randomBytes 48).1 ≠ [] →
      exec (.keyshare c) s = .next (went (into { t with step := 2, shares := t.shares + 1, group := 0, priv := (s.m.randomBytes 48).1 } (s.m.randomBytes 48).2)
        (okWith [tlv 0x111 (p384Public (s.m.randomBytes 48).1)]))) ∧
    (leAt v 0 1 = 3 → t.step = 2 → t.psk.isSome = true → t.role = 1 →
      v.drop (8 + n) = finishedMac t.suite (tlsSecret t.suite t.early "ext binder" (emptyHash t.suite)) (slice v 8 n) →
      exec (.binder c) s = .next (went (into { t with step := 3 } s.m) {})) ∧
    (leAt v 0 1 = 3 → t.step = 2 → t.psk.isSome = true → t.role = 1 →
      v.drop (8 + n) ≠ finishedMac t.suite (tlsSecret t.suite t.early "ext binder" (emptyHash t.suite)) (slice v 8 n) →
      exec (.binder c) s = .next (went s.m { status := stAuthFail })) ∧
    (leAt v 0 1 = 4 → t.step = (if t.psk.isSome then 3 else 2) → ∃ u, exec (.handshake c) s = .next (went (into u s.m) {}) ∧ u.step = 4 ∧
      u.priv = [] ∧ u.tx = some { secret := u.hsOwn } ∧ u.rx = some { secret := u.hsPeer } ∧ u.role = t.role ∧ u.suite = t.suite) ∧
    (leAt v 0 1 = 5 → t.step = 4 ∨ t.step = 5 → leAt v 8 1 = 0 → finishedMac t.suite t.hsOwn (slice v 9 n) ≠ [] →
      exec (.finished c) s = .next (went (into { t with step := 5 } s.m) (okWith [tlv 0x111 (finishedMac t.suite t.hsOwn (slice v 9 n))]))) ∧
    (leAt v 0 1 = 5 → t.step = 4 ∨ t.step = 5 → leAt v 8 1 = 1 → v.drop (9 + n) = finishedMac t.suite t.hsPeer (slice v 9 n) →
      exec (.finished c) s = .next (went (into { t with step := 5 } s.m) {})) ∧
    (leAt v 0 1 = 5 → t.step = 4 ∨ t.step = 5 → leAt v 8 1 = 1 → v.drop (9 + n) ≠ finishedMac t.suite t.hsPeer (slice v 9 n) →
      exec (.finished c) s = .next (went s.m { status := stAuthFail })) ∧
    (leAt v 0 1 = 6 → t.step = 6 → exec (.application c) s = .next (went (into { t with step := 6, tx := if bit (leAt v 8 1) 0 then some { secret := t.apOwn } else t.tx, rx := if bit (leAt v 8 1) 1 then some { secret := t.apPeer } else t.rx } s.m) {})) ∧
    (leAt v 0 1 = 6 → t.step = 5 → bit (leAt v 8 1) 0 = true → ∃ u, exec (.application c) s = .next (went (into u s.m) {}) ∧ u.step = 6 ∧
      u.tx = some { secret := u.apOwn } ∧ (bit (leAt v 8 1) 1 = false → u.rx = t.rx)) ∧
    (leAt v 0 1 = 7 → t.step = 6 ∨ t.step = 7 → bit (leAt v 8 1) 1 = false → ∃ u, exec (.keyUpdate c) s = .next (went (into u s.m) {}) ∧
      u.step = 7 ∧ u.rx = t.rx ∧ (bit (leAt v 8 1) 0 = false → u.tx = t.tx)) ∧
    (leAt v 0 1 ≠ 4 ∨ t.step = 1 → exec (.handshake c) s = .next (went s.m (c.badStep 2))) ∧
    (leAt v 0 1 ≠ 7 ∨ t.step < 6 → exec (.keyUpdate c) s = .next (went s.m (c.badStep 2)))) ∧
  (∀ (s : State) (c : Cmd) (a : Ans), Quiet s → s.m.cmdCheck (asOp c 0x0508) = some a →
    exec (.macsecSaSet c) s = .next (s.put (s.m.reply (asOp c 0x0508) a))) ∧
  (∀ (s : State) (c : Cmd) (p : Nat) (v : List Byte), Quiet s → mayRun s.m c 0x0508 [.port (leAt v 0 1)] → c.all 0x100 = [(p, v)] →
    (s.m.macOk v = false → exec (.macsecSaSet c) s = .next (s.put (s.m.reply (asOp c 0x0508) (badTlv p)))) ∧
    (s.m.macOk v = true → bit (leAt v 2 1) 5 = false → exec (.macsecSaSet c) s =
      .next (s.put ((s.m.macSet v).2.reply (asOp c 0x0508) {}))) ∧
    (s.m.macOk v = true → bit (leAt v 2 1) 5 = true → exec (.macsecSaSet c) s =
      .next (s.put ((s.m.macSet v).2.reply (asOp c 0x0508) (okWith [tlv 0x101 (s.m.macSet v).1]))))) ∧
  (∀ (m : Mod) (v : List Byte) (n k f : Nat), leAt v 0 1 = n → leAt v 1 1 = k → leAt v 2 1 = f → bit f 6 = false →
    ∃ sa, tget (m.macSet v).2.thm.macsec (macKey n k (f % 2) (bits f 1 2)) = some sa ∧ sa.enable = bit f 3 ∧ sa.suite = leAt v 3 1 ∧
      sa.pn = (if bit f 0 then leAt v 20 8 else max (leAt v 20 8) (m.freshPn sa.ctx sa.sci)) ∧ sa.window = leAt v 28 4 ∧ sa.ctx = leAt v 16 4 % 2 ^ 18 ∧
      (bit f 4 = true → bit f 0 = false → tget (m.macSet v).2.thm.txAn (n * 8 + k) = some (bits f 1 2)) ∧
      ∀ j, j ≠ macKey n k (f % 2) (bits f 1 2) → tget (m.macSet v).2.thm.macsec j = tget m.thm.macsec j)

/-- The Spool's work (R394 to R421, R427): polls, entries and their errors, service of sends and commands, completions and moderation,
deliveries into receive rings. Clauses on the model's choices: logs 58, 59, 60, 61. -/
def Obligations.SpoolWork : Prop :=
  (∀ (s : State) (o : Fin 4128), Quiet s → s.m.ownerExists o = false ∨ s.m.issues (s.m.ownerFn o) = false ∨ s.m.isStorage o = true →
    exec (.spoolPoll o) s = .next s) ∧
  (∀ (s : State) (o : Fin 4128), Quiet s → s.m.ownerExists o = true → s.m.issues (s.m.ownerFn o) = true → s.m.isStorage o = false →
    (s.m.owner o).summary = none → (∀ r ∈ s.m.ringsOf o, r.2.asked = false ∧ r.2.hiddenAt = none) →
    (s.m.toSweep o ≠ 0 → exec (.spoolPoll o) s = .next (s.put (s.m.setToSweep o (s.m.toSweep o - 1)))) ∧
    (s.m.toSweep o = 0 → exec (.spoolPoll o) s = .next (s.ends ((s.m.setToSweep o 1023).sweep o)))) ∧
  (∀ (s : State) (o : Fin 4128) (a : Nat) (p : Option Nat), s.m.ownerExists o = true → s.m.issues (s.m.ownerFn o) = true →
    s.m.isStorage o = false → (s.m.owner o).summary = some (a, p) → (s.m.owner o).asked = false → s.m.toSweep o ≠ 0 →
    (∀ r ∈ s.m.ringsOf o, r.2.asked = false ∧ r.2.hiddenAt = none) →
    exec (.spoolPoll o) s = .next (s.ends (Mod.hostRead (((s.m.setToSweep o (s.m.toSweep o - 1)).splCount o 0).modOwner o fun x => { x with asked := true })
      (s.m.ownerFn o) a 64 p (.summary o)))) ∧
  (∀ (m : Mod) (k c p : Nat) (r : Ring) (bs : List Byte), m.ring k = some r → k / 65536 ≠ 2 → r.state = 1 → leAt bs 0 4 = p →
    (r.size < countSub p r.consumed → m.recordRead k bs = m.ringError k 1) ∧
    (countSub p r.consumed ≤ r.size → countSub p r.consumed < countSub p r.read → m.recordRead k bs = m.ringError k 2) ∧
    (countSub p r.consumed ≤ r.size → countSub p r.read ≤ countSub p r.consumed → m.recordRead k bs = (m.putRing k { r with produced := p }).fetchEntries k) ∧
    ∃ r', (m.ringError k c).ring k = some r' ∧ r'.state = 4 ∧ r'.cause = c ∧ r'.read = r.read ∧
      (k / 65536 < 2 → ∃ ev, r'.events = r.events ++ [ev] ∧ ev.kind = 2 ∧ ev.reason = c)) ∧
  (∀ (m : Mod) (k w : Nat) (r : Ring) (bs : List Byte) (st : Option (Nat × Nat)), m.ring k = some r → k / 65536 < 3 → r.state = 1 →
    m.readable k r ≠ 0 → 32 ≤ bs.length → leAt bs 0 4 = w → bits w 16 1 = r.phase r.read → w % 2 ^ 16 ≠ r.eseq →
    ∀ n, m.takeEntries k st (n + 1) bs = m.ringError k 3) ∧
  (∀ (r : Ring) (x : Nat), r.phase x = 1 - x / 2 ^ r.log2 % 2) ∧
  (∀ (e : RingEntry), sendOk e = true → 14 ≤ e.len ∧ e.len ≤ 9600 ∧ e.units = sendUnits e ∧ (e.inline_ = true → e.len ≤ 2032 ∧ e.nsegs = 0)) ∧
  (∀ (s : State) (kind : Fin 4) (n : Fin 65536), Quiet s →
    s.m.ring (ringKey kind n) = none ∨ (∃ r, s.m.ring (ringKey kind n) = some r ∧ (r.hiddenAt = none ∨ r.state ≠ 1)) →
    exec (.entryTimeout kind n) s = .next s) ∧
  (∀ (s : State) (kind : Fin 4) (n : Fin 65536) (r : Ring) (t0 : Nat), s.m.ring (ringKey kind n) = some r → r.hiddenAt = some t0 → r.state = 1 →
    exec (.entryTimeout kind n) s = .next (s.ends ((s.m.runToNs (t0 + 1000000)).ringError (ringKey kind n) 5))) ∧
  (∀ (s : State) (e : Fin 32), Quiet s → (s.m.countWaits e).fit.pend = [] → (s.m.countWaits e).pick e = none →
    exec (.sendDataRead e) s = .next (s.put (s.m.countWaits e))) ∧
  (∀ (s : State) (e : Fin 32) (k : Nat) (en : RingEntry) (m' : Mod), (s.m.countWaits e).pick e = some (.entry k en, m') → k < 65536 →
    exec (.sendDataRead e) s = .next (s.ends (m'.sendRead k en))) ∧
  (∀ (m m' : Mod) (k : Nat) (e : RingEntry) (r : Ring) (ch : Charge), m.ring k = some r → m.admitCells (m.sendAcct r) (cellsOf e.len) = some (m', ch) →
    e.inline_ = true → m.sendRead k e = (m'.modEntry k e.at_ fun x => { x with stage := .fetching, charge := [ch] }).launchRing k) ∧
  (∀ (m : Mod) (k : Nat) (r : Ring) (e : RingEntry) (es : List RingEntry), e.pad = false →
    (∀ bs, e.stage = .fetching → e.whole = some bs → m.launchWhole k r (e :: es) = (m.launchSend k r e bs).launchWhole k r es) ∧
    (e.stage = .fetching → e.whole = none → m.launchWhole k r (e :: es) = m) ∧ (e.stage = .read → m.launchWhole k r (e :: es) = m) ∧
    (e.inline_ = true → e.whole = some (slice e.raw 16 e.len))) ∧
  (∀ (s : State) (e : Fin 32), Quiet s → s.m.pick e = none → exec (.adminEntryTake e) s = .next s) ∧
  (∀ (s : State) (e : Fin 32) (n : Nat) (en : RingEntry) (m' : Mod) (r : Ring), s.m.pick e = some (.entry (ringKey 3 n) en, m') → n < 65536 →
    m'.ring (ringKey 3 n) = some r →
    exec (.adminEntryTake e) s = .next (s.ends (Mod.fetchMore (Mod.receive (Mod.hostWrite (m'.modRing (ringKey 3 n) fun x => x.settle en.at_ 1)
      (m'.ownerFn (r.settle en.at_ 1).owner) ((r.settle en.at_ 1).record + 4) (r.settle en.at_ 1).pasid (leBytes 4 (r.settle en.at_ 1).consumed))
      (.admin n) (ownerMid (r.settle en.at_ 1).owner) (overlay en.raw 24 [0, 0, 0, 0])) (ringKey 3 n)))) ∧
  (∀ (s : State) (n : Fin 65536) (last : Bool), exec (.completionWrite 3 n last) s = .next (s.ends (s.m.replyStep n last)) ∧
    exec (.completionWrite 2 n last) s = .next (s.ends (s.m.pendStep (ringKey 2 n) last)) ∧
    exec (.completionWrite 0 n last) s = .next (s.ends ((s.m.cplStep (ringKey 0 n) last).fetchMore (ringKey 0 n))) ∧
    exec (.completionWrite 1 n last) s = .next (s.ends ((s.m.cplStep (ringKey 1 n) last).fetchMore (ringKey 1 n)))) ∧
  (∀ (m m' : Mod) (k : Nat) (last : Bool) (r cr : Ring) (c : Cpl), m.ring k = some r → m.takeCpl k r = some (m', c) →
    m.ring (ringKey 2 r.peer) = some cr → m.issues (m.ringFn r) = true → m.fenceFull (m.ringFn r) = false → cr.takes = true →
    c.kind = 2 ∨ c.gen = m.ownerGen r.owner → m.ownerStill r.owner = false → cr.pend = [] → k / 65536 ≠ 1 ∨ r.events ≠ [] →
    (cr.room 1 (m.reserved (ringKey 2 r.peer)) = true → m.cplStep k last = m'.writeCpl (ringKey 2 r.peer) c last) ∧
    (cr.room 1 (m.reserved (ringKey 2 r.peer)) = false → m.cplStep k last = m.askRoom (ringKey 2 r.peer) false)) ∧
  (∀ (r : Ring) (n held : Nat), (r.room n held = true ↔ countSub r.produced r.consumed + r.padFor n + n + held ≤ r.size) ∧
    (r.produced % r.size + n ≤ r.size → r.padFor n = 0) ∧ (r.size < r.produced % r.size + n → r.padFor n = r.size - r.produced % r.size)) ∧
  (∀ (m : Mod) (n : Nat) (r : Ring) (x : RingEntry) (c : Cpl), x.pad = false → x.cpl = some c → r.entries.head? = some x →
    m.headCpl n r = some (x, c)) ∧
  (∀ (n : Nat) (e : RingEntry) (x : SendRec), (x.stamp = none → (sendFate n e x).flags % 8 = 4 ∧ (sendFate n e x).reason = x.cause.getD 1) ∧
    (∀ t, x.stamp = some t → (sendFate n e x).status = stOk ∧ (sendFate n e x).stamp = stampC t)) ∧
  (∀ (s : State) (n : Fin 65536) (r : Ring), Quiet s → s.m.ring (ringKey 2 n) = some r →
    (r.unsent = 0 ∨ r.modUs = 0 ∨ r.takes = false → exec (.moderationTimer n) s = .next s) ∧
    (r.unsent ≠ 0 → r.modUs ≠ 0 → r.takes = true → exec (.moderationTimer n) s =
      .next (s.put ((s.m.runToNs (r.firstAt + r.modUs * 1000)).cplMessage (ringKey 2 n) r)))) ∧
  (∀ (m : Mod) (k v : Nat) (r : Ring), r.vector = some v →
    m.cplMessage k r = ((m.putRing k { r with unsent := 0 }).raise (m.ringFn r) v).splCount r.owner 13) ∧
  (∀ (s : State) (e : Fin 32) (stamp : Nat), Quiet s → s.m.heads e = [] →
    exec (.receiveDelivery e stamp) s = .next (s.put (s.m.runTo stamp))) ∧
  (∀ (s : State) (e : Fin 32) (stamp k d : Nat) (x : EgEntry) (r : Ring) (m : Mod), s.m.heads e = [(k, x)] → s.m.recvRing x.ring = some r →
    spoolDrr (tgetD s.m.spl.delivered e 0) [⟨r.owner, x.pkt.bytes.length, (s.m.owner r.owner).rxDeficit, s.m.quantum r.owner⟩] =
      some (r.owner, [(r.owner, d)]) →
    m = (((s.m.runTo stamp).modOwner r.owner fun y => { y with rxDeficit := d }).modOwner r.owner fun y => { y with rxRing := x.ring }).setSpl
      (fun u => { u with delivered := tput u.delivered e r.owner }) →
    (∀ bufs, s.m.fateOf x = .deliver bufs →
      exec (.receiveDelivery e stamp) s = .next (s.ends (m.deliverTo k x bufs (hostStamp stamp)))) ∧
    (s.m.fateOf x = .noBuf → exec (.receiveDelivery e stamp) s = .next (s.ends ((m.pltCount (e.val / 4) 33).dropHead k x)))) ∧
  (∀ (m : Mod) (k stamp p j : Nat) (x : EgEntry) (r : Ring) (b y : RingEntry) (bufs : List RingEntry), m.recvRing x.ring = some r →
    x.pkt.origin = .port p j → y ∈ r.entries → y.at_ = b.at_ →
    ∃ r' y' c, (m.deliverTo k x (b :: bufs) stamp).recvRing x.ring = some r' ∧ y' ∈ r'.entries ∧ y'.at_ = y.at_ ∧ y'.stage = .busy ∧
      y'.cpl = some c ∧ c.kind = 1 ∧ c.nbuf = bufs.length + 1 ∧ c.count = x.pkt.bytes.length ∧ c.stamp = stampC x.pkt.stamp ∧
      c.status = if x.pkt.untrusted then stAuthFail else stOk) ∧
  (∀ (m : Mod) (x : EgEntry) (r cr : Ring) (bufs : List RingEntry), x.hbm = false → x.pkt.cells ≤ x.present → m.recvRing x.ring = some r →
    m.frozen (m.ringFn r) = false → m.issues (m.ringFn r) = true → r.state = 1 → takeBufs x.pkt.bytes.length r.unused = some bufs →
    m.ring (ringKey 2 r.peer) = some cr →
    (cr.takes = true → cr.room 1 (m.reserved (ringKey 2 r.peer)) = true → m.fateOf x = .deliver bufs) ∧
    (cr.room 1 (m.reserved (ringKey 2 r.peer)) = false → m.fateOf x = .cqFull)) ∧
  (∀ (m : Mod) (x : EgEntry) (r : Ring), x.hbm = false → x.pkt.cells ≤ x.present → m.recvRing x.ring = some r →
    m.frozen (m.ringFn r) = false → m.issues (m.ringFn r) = true → r.state = 1 → takeBufs x.pkt.bytes.length r.unused = none →
    m.fateOf x = if r.attr = 0 then .noBuf else .hold) ∧
  (∀ (len : Nat) (es bs : List RingEntry), takeBufs len es = some bs → bs <+: es ∧ len ≤ (bs.map fun e => leAt e.raw 4 2).foldl (· + ·) 0) ∧
  (∀ (s : State) (n : Fin 65536), Quiet s → s.m.recvRing n = none → exec (.rxWaitExpiry n) s = .next s) ∧
  (∀ (s : State) (n : Fin 65536) (r : Ring) (k : Nat) (x : EgEntry), s.m.recvRing n = some r →
    (s.m.heads (s.m.ownerEp r.owner)).find? (fun (x : Nat × EgEntry) => decide (x.2.ring = n.val)) = some (k, x) → r.attr = 1 →
    s.m.fateOf x = .hold ∨ s.m.fateOf x = .cqFull →
    exec (.rxWaitExpiry n) s = .next (s.ends (((s.m.runToNs (x.at_ + s.m.get F.PLT_RX_WAIT_WAIT_US [s.m.ownerEp r.owner / 4] * 1000)).pltCount
      (s.m.ownerEp r.owner / 4) 33).dropHead k x)))

/-- Ring commands (R390, R404, R407, R422 to R427): a ring is created with a number of its kind, changed, queried, drained and freed. -/
def Obligations.RingCommands : Prop :=
  (∀ (s : State) (c : Cmd) (o n : Nat) (v : List Byte), Quiet s → mayRun s.m c 0x0201 (s.m.ownerObjs c) → s.m.cmdOwner c = some o → c.val 0x100 = v →
    s.m.ringBad o v = false → s.m.peerOk o v = true → s.m.mayTake o (leAt v 0 1) = true → s.m.ringNumber (leAt v 0 1) = some n →
    exec (.ringCreate c) s = .next (s.put ((s.m.putRing (ringKey (leAt v 0 1) n) (s.m.ringOf o v)).reply (asOp c 0x0201)
      (okWith [tlv 0x101 (leBytes 1 (leAt v 0 1) ++ [0] ++ leBytes 2 n)])))) ∧
  (∀ (s : State) (c : Cmd) (o : Nat) (v : List Byte), Quiet s → mayRun s.m c 0x0201 (s.m.ownerObjs c) → s.m.cmdOwner c = some o → c.val 0x100 = v →
    (s.m.ringBad o v = true → exec (.ringCreate c) s = .next (s.put (s.m.reply (asOp c 0x0201) (c.bad 1)))) ∧
    (s.m.ringBad o v = false → s.m.peerOk o v = false → exec (.ringCreate c) s = .next (s.put (s.m.reply (asOp c 0x0201) (c.bad 2)))) ∧
    (s.m.ringBad o v = false → s.m.peerOk o v = true → s.m.mayTake o (leAt v 0 1) = false →
      exec (.ringCreate c) s = .next (s.put (s.m.reply (asOp c 0x0201) { status := stNoResource })))) ∧
  (∀ (s : State) (c : Cmd), Quiet s → s.m.cmdCheck (asOp c 0x0201) = none → s.m.cmdOwner c = none →
    exec (.ringCreate c) s = .next (s.put (s.m.reply (asOp c 0x0201) badHeader))) ∧
  (∀ (m : Mod) (kind n : Nat), m.ringNumber kind = some n → n < kindTotal kind ∧ m.ring (ringKey kind n) = none ∧
    ∀ j, j < n → (m.ring (ringKey kind j)).isSome = true ∨ j ∈ (m.stoNums kind).map (·.2)) ∧
  (∀ (m : Mod) (o : Nat) (v : List Byte), (m.ringOf o v).owner = o ∧ (m.ringOf o v).produced = 0 ∧ (m.ringOf o v).read = 0 ∧
    (m.ringOf o v).consumed = 0 ∧ (m.ringOf o v).eseq = 0 ∧ (m.ringOf o v).addr = leAt v 8 8 ∧ (m.ringOf o v).record = leAt v 16 8 ∧
    (m.frozen (m.ownerFn o) = false → (m.ringOf o v).state = if m.ownerStill o then 2 else 1) ∧
    (m.frozen (m.ownerFn o) = true → (m.ringOf o v).state = 3)) ∧
  (∀ (s : State) (c : Cmd), Quiet s → s.m.target (asOp c 0x0202) = none → s.m.cmdCheck (asOp c 0x0202) = none →
    exec (.ringDestroy c) s = .next (s.put (s.m.reply (asOp c 0x0202) c.bad))) ∧
  (∀ (s : State) (c : Cmd) (k : Nat) (r : Ring), mayRun s.m c 0x0202 [targetObj c] → s.m.target (asOp c 0x0202) = some (k, r) → k / 65536 ≠ 2 →
    r.state ≠ 3 → r.state ≠ 5 →
    exec (.ringDestroy c) s = .next (s.ends ((s.m.drainRing k r (asOp c 0x0202)).place (asOp c 0x0202) .executing [targetObj c]))) ∧
  (∀ (s : State) (c : Cmd) (k : Nat) (r : Ring), Quiet s → mayRun s.m c 0x0202 [targetObj c] → s.m.target (asOp c 0x0202) = some (k, r) →
    k / 65536 = 2 →
    ((∃ x ∈ s.m.spl.rings, x.1 / 65536 ≠ 2 ∧ x.2.peer = k % 65536) →
      exec (.ringDestroy c) s = .next (s.put (s.m.reply (asOp c 0x0202) (c.bad 1)))) ∧
    ((∀ x ∈ s.m.spl.rings, x.1 / 65536 = 2 ∨ x.2.peer ≠ k % 65536) → r.state = 3 →
      exec (.ringDestroy c) s = .next (s.put (s.m.reply (asOp c 0x0202) { status := stBusy })))) ∧
  (∀ (m : Mod) (n : Nat) (r : Ring) (c : Cmd), n < 65536 → ∃ r', (m.drainRing n r c).ring n = some r' ∧ r'.state = 5 ∧ r'.destroy = some c ∧
    r'.entries = r.entries) ∧
  (∀ (s : State) (kind : Fin 4) (n : Fin 65536) (r : Ring), Quiet s → s.m.ring (ringKey kind n) = some r →
    r.state ≠ 5 ∨ s.m.ringDrained (ringKey kind n) r = false → exec (.ringDrainDone kind n) s = .next s) ∧
  (∀ (s : State) (kind : Fin 4) (n : Fin 65536) (r : Ring) (c : Cmd), s.m.ring (ringKey kind n) = some r → r.state = 5 →
    s.m.ringDrained (ringKey kind n) r = true → r.destroy = some c →
    exec (.ringDrainDone kind n) s = .next (s.ends ((s.m.freeRing (ringKey kind n)).reply c {}))) ∧
  (∀ (m : Mod) (k : Nat), (m.freeRing k).ring k = none ∧ ∀ j, j ≠ k → (m.freeRing k).ring j = m.ring j) ∧
  (∀ (s : State) (c : Cmd) (n g : Nat) (r : Ring), Quiet s → mayRun s.m c 0x0203 [targetObj c] → s.m.target c = some (n, r) → n < 65536 →
    leAt (c.val 0x102) 0 1 = 1 → leAt (c.val 0x102) 1 1 = g →
    (g ≤ 63 → exec (.ringModify c) s = .next (s.put ((s.m.putRing n { r with group := g }).reply (asOp c 0x0203) {}))) ∧
    (63 < g → exec (.ringModify c) s = .next (s.put (s.m.reply (asOp c 0x0203) (badTlv (c.pos 0x102) 1))))) ∧
  (∀ (s : State) (c : Cmd) (k : Nat) (r : Ring), Quiet s → mayRun s.m c 0x0203 [targetObj c] → s.m.target c = some (k, r) →
    leAt (c.val 0x102) 0 1 = 16 → 6 ≤ leAt (c.val 0x102) 8 1 → leAt (c.val 0x102) 8 1 ≤ 16 →
    leAt (c.val 0x102) 16 8 % min (32 * 2 ^ leAt (c.val 0x102) 8 1) 4096 = 0 →
    (r.entries = [] → r.produced = r.consumed → r.read = r.consumed → exec (.ringModify c) s = .next (s.put ((s.m.putRing k
      { r with log2 := leAt (c.val 0x102) 8 1, addr := leAt (c.val 0x102) 16 8, produced := 0, read := 0, consumed := 0, eseq := 0 }).reply (asOp c 0x0203) {}))) ∧
    (r.produced ≠ r.consumed → exec (.ringModify c) s = .next (s.put (s.m.reply (asOp c 0x0203) (badTlv (c.pos 0x102) 2))))) ∧
  (∀ (s : State) (c : Cmd) (k : Nat) (r : Ring), Quiet s → mayRun s.m c 0x0204 → s.m.target c = some (k, r) →
    exec (.ringQuery c) s = .next (s.put (s.m.reply (asOp c 0x0204) (okWith [tlv 0x103 (leBytes 8 (s.m.ringWord k) ++ leBytes 4 r.produced ++
      leBytes 4 r.read ++ leBytes 4 r.consumed ++ leBytes 2 r.eseq ++ [0, 0])])))) ∧
  (∀ (s : State) (c : Cmd), Quiet s → mayRun s.m c 0x0204 → s.m.target c = none →
    exec (.ringQuery c) s = .next (s.put (s.m.reply (asOp c 0x0204) c.bad))) ∧
  (∀ (s : State) (c : Cmd) (o : Nat) (v : List Byte), Quiet s → mayRun s.m c 0x0205 (s.m.ownerObjs c) → s.m.cmdOwner c = some o → c.val 0x100 = v →
    o < 4096 ∧ s.m.isStorage o = false ∨ 4096 ≤ o →
    (bit (leAt v 12 4) 0 = false → exec (.summarySet c) s = .next (s.put (Mod.reply (Mod.setSumEn (s.m.modOwner o fun x => { x with summary := none, last := none }) o false) (asOp c 0x0205) {}))) ∧
    (bit (leAt v 12 4) 0 = true → leAt v 0 8 % 64 = 0 → s.m.pasidOk (s.m.ownerEp o) (leAt v 8 4) = true →
      exec (.summarySet c) s = .next (s.put (Mod.reply (Mod.setSumEn (s.m.modOwner o fun x => { x with summary := some (leAt v 0 8, pasidOf (leAt v 8 4)), last := none }) o true) (asOp c 0x0205) {}))) ∧
    (bit (leAt v 12 4) 0 = true → leAt v 0 8 % 64 ≠ 0 → exec (.summarySet c) s = .next (s.put (s.m.reply (asOp c 0x0205) c.bad)))) ∧
  (∀ (s : State) (c : Cmd) (o k : Nat), Quiet s → mayRun s.m c 0x0206 (s.m.ownerObjs c) → s.m.cmdOwner c = some o → leAt (c.val 0x100) 0 1 = k →
    (k ≤ 14 → exec (.pollIntervalSet c) s = .next (s.put ((s.m.setK o k).reply (asOp c 0x0206) {}))) ∧
    (14 < k → exec (.pollIntervalSet c) s = .next (s.put (s.m.reply (asOp c 0x0206) c.bad))))

/-- The host interface (R365, R368, R372 to R381, R385, R504): configuration requests, vectors, completions of reads and their failures,
errors that freeze, invalidations, SPDM. Clauses on the model's choices: logs 51, 54, 57. -/
def Obligations.HostRequests : Prop :=
  (∀ (s : State) (f : Fn) (q : CfgReq), Quiet s →
    (s.m.linkUp f.ep = false → exec (.hostConfigRequest f q) s = .next s) ∧
    (s.m.linkUp f.ep = true → s.m.phase < 5 → exec (.hostConfigRequest f q) s = .next (s.put (s.m.emit (.cfgRetry f.ep)))) ∧
    (s.m.linkUp f.ep = true → 5 ≤ s.m.phase → s.m.fnExists f = false →
      exec (.hostConfigRequest f q) s = .next (s.put (s.m.emit (.cfgNone f.ep))))) ∧
  (∀ (s : State) (f : Fn) (off v n : Nat) (en fm ats : Bool), s.m.linkUp f.ep = true → s.m.phase = 5 → s.m.fnExists f = true →
    exec (.hostConfigRequest f (.read off)) s = .next (s.ends (s.m.emit (.completion f.ep (s.m.cfgRead f (off / 4 * 4))))) ∧
    exec (.hostConfigRequest f (.command v)) s = .next (s.ends (Mod.emit (s.m.modCfg f fun c => { c with command := v % 2 ^ 16 }) (.completion f.ep 0))) ∧
    exec (.hostConfigRequest f (.ats ats)) s = .next (s.ends (Mod.emit (s.m.modCfg f fun c => { c with ats := ats }) (.completion f.ep 0))) ∧
    exec (.hostConfigRequest f (.powerState true)) s = .next (s.ends (Mod.emit (s.m.modCfg f fun c => { c with d3 := true }) (.completion f.ep 0))) ∧
    exec (.hostConfigRequest f (.other n v)) s = .next (s.ends (s.m.emit (.completion f.ep 0))) ∧
    exec (.hostConfigRequest f (.msixCtl en fm)) s = .next (s.ends (Mod.emit (Mod.msixFlush { s.m with msix := tput s.m.msix (fnKey f) { tgetD s.m.msix (fnKey f) {} with enable := en, fmask := fm } } f) (.completion f.ep 0)))) ∧
  (∀ (m : Mod) (f : Fn), m.phase = 5 → m.cfgRead f 0x00 % 2 ^ 16 = 0xCEA5 ∧ m.cfgRead f 0x30 = 0 ∧ m.cfgRead f 0x34 = 0x40 ∧
    (f.vf = none → m.cfgRead f 0x00 / 2 ^ 16 = 0x9616 ∧ m.cfgRead f 0x08 / 2 ^ 8 = 0x020000 ∧ m.cfgRead f 0x16C = 1024 + 1024 * 2 ^ 16) ∧
    (∀ i, m.instOf f = some i → f.vf.isSome = true → m.isStorage i = true → m.cfgRead f 0x08 / 2 ^ 8 = 0x010802)) ∧
  (∀ (s : State) (f : Fn) (v : Fin 2048), Quiet s →
    (s.m.fnExists f = false → exec (.msixUnmask f v) s = .next s) ∧
    (s.m.fnExists f = true → exec (.msixUnmask f v) s = .next (s.put (Mod.msixFlush (s.m.msixVec f v fun x => { x with mask := false }) f)))) ∧
  (∀ (m : Mod) (f : Fn) (v : Nat) (x : Msix), tgetD m.msix (fnKey f) {} = x → m.frozen f = false →
    (x.enable = true → x.fmask = false → (tgetD x.vecs v {}).mask = false → m.raise f v = m.emit (.msix f v (tgetD x.vecs v {}).addr (tgetD x.vecs v {}).data)) ∧
    (x.enable = false ∨ x.fmask = true ∨ (tgetD x.vecs v {}).mask = true → (m.raise f v).outs = m.outs ∧
      (tgetD (tgetD (m.raise f v).msix (fnKey f) {}).vecs v {}).pending = true)) ∧
  (∀ (m : Mod) (f : Fn) (v : Nat), m.frozen f = true → m.raise f v = m) ∧
  (∀ (s : State) (e : Fin 32) (t : Fin 16384) (res : ReadResult) (stamp : Nat), Quiet s → tget s.m.sel.tags (e.val * 16384 + t.val) = none →
    exec (.hostReadCompletion e t res stamp) s = .next (s.put (((s.m.runTo stamp).emit (.aer e 0)).selCount e 9)) ∧
    exec (.completionTimeout e t) s = .next s) ∧
  (∀ (s : State) (e : Fin 32) (t : Fin 16384) (p : Piece) (r : HostRead) (bs : List Byte) (stamp : Nat) (m : Mod), r.stale = false →
    r.gone = false → tget s.m.sel.tags (e.val * 16384 + t.val) = some p → tget s.m.sel.reads p.read = some r →
    m = (s.m.runTo stamp).dataStamp p.read r stamp →
    (p.got.length + bs.length < p.len → exec (.hostReadCompletion e t (.data bs) stamp) s = .next (s.ends (m.setSel fun x =>
      { x with tags := tput x.tags (e.val * 16384 + t.val) { p with got := p.got ++ bs } }))) ∧
    (∀ r', p.len ≤ p.got.length + bs.length → tget (m.endTag e t).sel.reads p.read = some r' → r'.stale = false → r'.gone = false →
      (r'.left = 1 → exec (.hostReadCompletion e t (.data bs) stamp) s = .next (s.ends (Mod.atsDone (Mod.readDone ((m.endTag e t).dropRead p.read)
        { r' with got := r'.got ++ [(p.off, slice (p.got ++ bs) 0 p.len)], left := 0 })))) ∧
      (r'.left ≠ 1 → r'.left ≠ 0 → exec (.hostReadCompletion e t (.data bs) stamp) s = .next (s.ends (Mod.setSel (m.endTag e t) fun x =>
        { x with reads := tput x.reads p.read { r' with got := r'.got ++ [(p.off, slice (p.got ++ bs) 0 p.len)], left := r'.left - 1 } }))))) ∧
  (∀ (m : Mod) (id stamp : Nat) (r : HostRead), tget (m.dataStamp id r stamp).sel.reads id =
    some { r with stamp := r.stamp.or (some (stamp / 8192 * 8192, m.stepTag)) }) ∧
  (∀ (s : State) (e : Fin 32) (t : Fin 16384) (p : Piece) (r : HostRead) (stamp : Nat) (m : Mod), r.stale = false → r.gone = false →
    tget s.m.sel.tags (e.val * 16384 + t.val) = some p → m = (s.m.runTo stamp).endTag e t → tget m.sel.reads p.read = some r →
    exec (.hostReadCompletion e t .poisoned stamp) s = .next (s.ends (Mod.atsDone (Mod.readFailed (Mod.goneRead (m.selCount e 7) e p.read) r 9))) ∧
    exec (.hostReadCompletion e t .urCa stamp) s = .next (s.ends (Mod.atsDone (Mod.readFailed (Mod.goneRead (m.selCount e 8) e p.read) r 10))) ∧
    exec (.hostReadCompletion e t .ecrc stamp) s = .next (s.ends (Mod.atsDone (Mod.readFailed (Mod.goneRead m e p.read) r 11)))) ∧
  (∀ (s : State) (e : Fin 32) (t : Fin 16384) (p : Piece) (r : HostRead) (m : Mod), r.stale = false → r.gone = false →
    tget s.m.sel.tags (e.val * 16384 + t.val) = some p → m = (s.m.runTo (p.at_ + s.m.cplTimeout e)).endTag e t →
    tget m.sel.reads p.read = some r →
    exec (.completionTimeout e t) s = .next (s.ends (Mod.atsDone (Mod.readFailed (Mod.goneRead (m.selCount e 6) e p.read) r 8)))) ∧
  (∀ (s : State) (e : Fin 32) (t : Fin 16384) (p : Piece) (r r' : HostRead) (res : ReadResult) (stamp : Nat), r.stale = true → r'.stale = true →
    tget s.m.sel.tags (e.val * 16384 + t.val) = some p → tget s.m.sel.reads p.read = some r → p.short res = false →
    tget ((s.m.runTo stamp).endTag e t).sel.reads p.read = some r' →
    exec (.hostReadCompletion e t res stamp) s =
      .next (s.ends (Mod.atsDone (Mod.sweepRead (((s.m.runTo stamp).endTag e t).selCount e 0) e p.read)))) ∧
  (∀ (s : State) (i : Fin 4096) (res : ReadResult) (stamp : Nat), Quiet s → (∀ k r, (k, r) ∈ s.m.sel.reads → r.why ≠ .boot i) →
    exec (.bootBlockRead i res stamp) s = .next s) ∧
  (∀ (s : State) (i : Fin 4096) (e : Fin 32) (t : Fin 16384) (p : Piece) (r : HostRead) (res : ReadResult) (stamp : Nat),
    s.m.sel.tags = [(e.val * 16384 + t.val, p)] → tget s.m.sel.reads p.read = some r → r.why = .boot i →
    exec (.bootBlockRead i res stamp) s = exec (.hostReadCompletion e t res stamp) s) ∧
  (∀ (s : State) (f : Fn) (c : Fin 16), Quiet s → s.m.linkUp f.ep = false ∨ c.val < 2 ∨ (6 < c.val ∧ c.val ≠ 10) →
    exec (.pcieError f c) s = .next s) ∧
  (∀ (s : State) (f : Fn) (c : Fin 16), s.m.linkUp f.ep = true →
    (2 ≤ c.val → c.val ≤ 6 → exec (.pcieError f c) s = .next (s.ends (s.m.freeze f.ep none c))) ∧
    (c.val = 10 → s.m.fnExists f = true → exec (.pcieError f c) s = .next (s.ends ((s.m.selCount f.ep 8).freeze f.ep (some f) 10)))) ∧
  (∀ (m : Mod) (e c : Nat), e < 32 → c < 16 → m.frzState e none = 0 → (∀ x ∈ m.cut.pool, x.stage = .executing) →
    (m.freeze e none c).frzState e none = 1 ∧ (m.freeze e none c).frzCause e none = c ∧ .aer e c ∈ (m.freeze e none c).outs ∧
    (∀ k r, (k, r) ∈ (m.freeze e none c).spl.rings → (m.ringFn r).ep = e → r.state ≠ 1 ∧ r.state ≠ 2 ∧ r.state ≠ 4)) ∧
  (∀ (m : Mod) (e c : Nat) (f : Option Fn), m.frzState e f = 1 ∨ m.frzState e f = 3 → m.freeze e f c = m.emit (.aer e c)) ∧
  (∀ (s : State) (f : Fn) (lo hi : Nat), Quiet s →
    (s.m.fnExists f = false ∨ s.m.linkUp f.ep = false → exec (.atsInvalidate f lo hi) s = .next s) ∧
    (s.m.fnExists f = true → s.m.linkUp f.ep = true → s.m.sel.ats = [] → (∀ r ∈ s.m.sel.reads, r.2.uses f lo hi = false) →
      exec (.atsInvalidate f lo hi) s = .next (s.put ((s.m.emit (.atsDone f)).selCount f.ep 15))) ∧
    (s.m.fnExists f = true → s.m.linkUp f.ep = true → s.m.sel.ats = [] → (∃ r ∈ s.m.sel.reads, r.2.uses f lo hi = true) →
      exec (.atsInvalidate f lo hi) s = .next (s.put (s.m.setSel fun x => { x with ats := [⟨f, lo, hi⟩] })))) ∧
  (∀ (s : State) (e : Fin 32) (q : SpdmMsg), Quiet s → s.m.present e = false ∨ s.m.linkUp e = false ∨ s.m.phase ≠ 5 →
    exec (.spdmRequest e q) s = .next s) ∧
  (∀ (s : State) (e : Fin 32) (n : Nat) (nonce : List Byte) (fns : List Nat), Quiet s → s.m.present e = true → s.m.linkUp e = true → s.m.phase = 5 →
    exec (.spdmRequest e (.measurements 6 nonce)) s = .next (s.put (s.m.emit (.doe e (s.m.measurement 6 ++ ed25519Sign (s.m.measurement 6 ++ nonce))))) ∧
    exec (.spdmRequest e (.certificate 0)) s = .next (s.put (s.m.emit (.doe e certChain))) ∧
    (tget s.m.sel.sessions e.val = none → exec (.spdmRequest e (.keySetGo n fns)) s = .next (s.put (s.m.emit (.doe e [0x12, 0x7F, 0x01, 0x00])))) ∧
    ((tget s.m.sel.sessions e.val).isSome = true → n < 9 → exec (.spdmRequest e (.keySetGo n fns)) s =
      .next (s.put ((s.m.setStream e n true fns).emit (.doe e [])))))

/-- Resets of links and functions, and releases of a freeze (R364, R378, R382 to R386). Clauses on the model's choices: logs 52, 53, 55, 56. -/
def Obligations.HostResets : Prop :=
  (∀ (s : State) (e : Fin 32), Quiet s → e.val ∈ s.m.perst → exec (.perstDeassert e) s = .next s) ∧
  (∀ (s : State) (e : Fin 32), e.val ∉ s.m.perst → exec (.perstDeassert e) s =
    .next (s.ends (Mod.perstUp { s.m with perst := s.m.perst ++ [e.val] } e))) ∧
  (∀ (m : Mod) (e : Nat), m.phase < 4 → m.perstUp e = m) ∧
  (∀ (s : State) (e : Fin 32), exec (.perstAssert e) s = .next (s.ends (if s.m.perstActs e && s.m.present e
    then Mod.linkReset { s.m with perst := s.m.perst.filter (· ≠ e.val) } e else { s.m with perst := s.m.perst.filter (· ≠ e.val) }))) ∧
  (∀ (s : State) (e : Fin 32), (s.m.present e = true → exec (.hotReset e) s = .next (s.ends ((s.m.linkReset e).emit (.linkTrain e)))) ∧
    (Quiet s → s.m.present e = false → exec (.hotReset e) s = .next s)) ∧
  (∀ (m : Mod) (e : Nat), e < 32 → (m.linkReset e).linkUp e = false ∧ (∀ t ∈ (m.linkReset e).sel.tags, t.1 / 16384 ≠ e) ∧
    (∀ r ∈ (m.linkReset e).sel.reads, r.2.fn.ep ≠ e) ∧ tget (m.linkReset e).sel.waiting e = none) ∧
  (∀ (s : State) (e : Fin 32) (ordered : Bool), Quiet s → s.m.linkUp e = false → exec (.linkDown e ordered) s = .next s) ∧
  (∀ (s : State) (e : Fin 32), s.m.linkUp e = true → exec (.linkDown e true) s = .next (s.ends (s.m.linkReset e)) ∧
    (s.m.frzState e none ≠ 2 → exec (.linkDown e false) s = .next (s.ends ((s.m.linkReset e).freeze e none 1))) ∧
    (s.m.frzState e none = 2 → exec (.linkDown e false) s = .next (s.ends ((s.m.linkReset e).emit (.aer e 1))))) ∧
  (∀ (s : State) (e : Fin 32) (rate : Fin 3) (width : Fin 17) (flit : Bool), Quiet s → s.m.present e = false →
    exec (.linkUp e rate width flit) s = .next s) ∧
  (∀ (s : State) (e : Fin 32) (rate : Fin 3) (width : Fin 17), Quiet s → s.m.present e = true → e.val ∈ s.m.perst →
    width.val = 8 ∨ (width.val = 16 ∧ e.val / 2 ∉ s.m.sel.split) → s.m.phase = 5 →
    rate.val ≤ s.m.get F.SEL_LINK_CFG_MAX_RATE ((epIx e).take 2) →
    exec (.linkUp e rate width (decide (0 < rate.val))) s = .next (s.put ((((s.m.set F.SEL_EP_STATUS_LINK_UP (epIx e) 1).set F.SEL_EP_STATUS_RATE (epIx e) rate).set
      F.SEL_EP_STATUS_WIDTH (epIx e) width).setFlag F.SEL_EP_STATUS_FLIT (epIx e) (decide (0 < rate.val))))) ∧
  (∀ (s : State) (f : Fn), (Quiet s → s.m.fnExists f = false → exec (.flr f) s = .next s) ∧
    (s.m.fnExists f = true → exec (.flr f) s = .next (s.ends (if f.vf.isNone then s.m.pfFlr f.ep else s.m.vfReset f)))) ∧
  (∀ (m : Mod) (f : Fn), f ∈ (m.fnScrub f).sel.inReset ∧ tget (m.fnScrub f).sel.cfg (fnKey f) = none ∧
    (tgetD (m.fnScrub f).msix (fnKey f) {}).size = (tgetD m.msix (fnKey f) {}).size ∧
    (tgetD (m.fnScrub f).msix (fnKey f) {}).enable = false ∧ ∀ r ∈ (m.fnScrub f).sel.reads, r.2.fn = f → r.2.stale = true) ∧
  (∀ (s : State) (e : Fin 32), (Quiet s → (s.m.fnCfg (pf e)).vfEnable = false → exec (.vfEnableClear e) s = .next s) ∧
    ((s.m.fnCfg (pf e)).vfEnable = true → ∃ t, exec (.vfEnableClear e) s = .next t ∧ t.m = settle (Mod.setSel (s.m.vfsReset e) fun x =>
      { x with cfg := tadj x.cfg (fnKey (pf e)) fun c => { c with vfEnable := false } }))) ∧
  (∀ (s : State) (f : Fn), (Quiet s → (s.m.fnCfg f).d3 = false → exec (.d3hotToD0 f) s = .next s) ∧
    ((s.m.fnCfg f).d3 = true → f.vf.isSome = true → exec (.d3hotToD0 f) s = .next (s.ends (s.m.vfReset f))) ∧
    ((s.m.fnCfg f).d3 = true → f.vf = none → exec (.d3hotToD0 f) s = .next (s.ends (Mod.setSel (s.m.pfReset f.ep) fun x =>
      { x with cfg := tput x.cfg (fnKey f) { numVfs := (s.m.fnCfg f).numVfs, vfEnable := (s.m.fnCfg f).vfEnable } })))) ∧
  (∀ (s : State) (f : Fn), Quiet s → f ∉ s.m.sel.inReset → exec (.functionResetDone f) s = .next s) ∧
  (∀ (s : State) (f : Fn), Quiet s → f ∈ s.m.sel.inReset → f.vf = none → exec (.functionResetDone f) s =
    .next (s.put (s.m.setSel fun x => { x with inReset := x.inReset.filter (· ≠ f) }))) ∧
  (∀ (s : State) (f : Fn) (v i : Nat), f ∈ s.m.sel.inReset → f.vf = some v → s.m.instOf f = some i → s.m.instState i = 4 →
    (s.m.inst i).resetCmd = none → exec (.functionResetDone f) s = .next (s.ends (Mod.stoResetDone (((s.m.setSel fun x =>
      { x with inReset := x.inReset.filter (· ≠ f) }).set F.INST_STATUS_STATE [i] (s.m.inst i).back).modInst i fun y => { y with resetCmd := none }) i))) ∧
  (∀ (s : State) (c : Cmd) (e : Nat), leAt (c.val 0x100) 0 1 = e → e < 32 → leAt (c.val 0x100) 2 2 = 0xFFFF → (c.tlv 0x100).isSome = true →
    s.m.frzState e none = 1 → s.m.linkUp e = true → mayRun s.m c 0x000C →
    (leAt (c.val 0x100) 4 1 = 1 → exec (.linkReleaseResume c) s = .next (s.ends (Mod.place (Mod.setSel (s.m.frzPut e none 2 (s.m.frzCause e none)) fun x =>
      { x with releases := x.releases ++ [⟨asOp c 0x000C, e, none, true, none⟩] }) (asOp c 0x000C) .executing []))) ∧
    (leAt (c.val 0x100) 4 1 = 0 → s.m.frzCause e none ≠ 1 → exec (.linkReleaseReset c) s = .next (s.ends (Mod.place (Mod.pfFlr (Mod.setSel (s.m.frzPut e none 2 (s.m.frzCause e none)) fun x =>
      { x with releases := x.releases ++ [⟨asOp c 0x000C, e, none, false, none⟩] }) e) (asOp c 0x000C) .executing [])))) ∧
  (∀ (s : State) (c : Cmd) (e : Nat), Quiet s → leAt (c.val 0x100) 0 1 = e → e < 32 → leAt (c.val 0x100) 2 2 = 0xFFFF →
    (c.tlv 0x100).isSome = true → s.m.frzState e none ≠ 1 → s.m.frzState e (some (pf e)) ≠ 1 → mayRun s.m c 0x000C →
    (leAt (c.val 0x100) 4 1 = 1 → exec (.linkReleaseResume c) s = .next (s.put (s.m.reply (asOp c 0x000C) (c.bad 1)))) ∧
    (leAt (c.val 0x100) 4 1 = 0 → exec (.linkReleaseReset c) s = .next (s.put (s.m.reply (asOp c 0x000C) (c.bad 1))))) ∧
  (∀ (s : State) (e : Fin 32), Quiet s → (∀ r ∈ s.m.sel.releases, r.ep ≠ e) → exec (.linkReleaseDone e) s = .next s) ∧
  (∀ (s : State) (e : Fin 32) (r : Release) (rs : List Release) (m1 : Mod), s.m.sel.releases = r :: rs → r.ep = e → r.again = none →
    m1 = Mod.thawRings (Mod.frzPut (s.m.setSel fun x => { x with releases := rs }) e r.fn 0 0) e r.fn →
    exec (.linkReleaseDone e) s = .next (s.ends (Mod.reply (if r.resume then (m1.scopeFns e r.fn).foldl (fun m f => m.resumeFn f) m1 else m1) r.cmd {})))

/-- Tenant instances (R430 to R450, R452): creation and destruction, quotas, reset, freeze and its drain, save, restore, resume, boot. Clauses on the model's choices: logs 62, 63, 64, 71. -/
def Obligations.Instances : Prop :=
  (∀ (s : State) (c : Cmd) (v : List Byte) (i : Nat), Quiet s → mayRun s.m c 0x0101 [.inst i] → c.val 0x100 = v → s.m.newInst v = some i →
    c.inst = 0xFFFF → leAt v 2 1 ≤ 31 → s.m.present (leAt v 2 1) = true → leAt v 0 2 = 0xFFFF → leAt v 4 2 ≤ 1023 →
    s.m.instOf ⟨leAt v 2 1, some (leAt v 4 2)⟩ = none → leAt v 6 1 ≠ 0 → leAt v 6 1 ≤ 64 → leAt v 3 1 = 0 → c.tlv 0x101 = none →
    s.m.vectorsTaken + leAt v 6 1 ≤ 65536 →
    exec (.instCreate c) s = .next (s.put ((s.m.instBorn i v {} (c.val 0x102)).reply (asOp c 0x0101)
      (okWith [(s.m.instBorn i v {} (c.val 0x102)).instTlv i])))) ∧
  (∀ (m : Mod) (v : List Byte) (i : Nat), m.newInst v = some i → leAt v 0 2 = 0xFFFF → i < 4096 ∧ m.instExists i = false ∧
    ∀ j, j < i → m.instExists j = true) ∧
  (∀ (m : Mod) (i : Nat) (v w : List Byte) (q : Quota), i < 4096 → leAt v 2 1 < 32 → leAt v 4 2 < 1024 → leAt v 3 1 < 8 →
    (m.instBorn i v q w).instState i = (if bit (leAt v 3 1) 2 then 3 else 1) ∧ (m.instBorn i v q w).instFn i = ⟨leAt v 2 1, some (leAt v 4 2)⟩ ∧
    ((m.instBorn i v q w).inst i).quota = q ∧ (m.instBorn i v q w).instGen i = genNext (tgetD m.spl.lastGen i 0) % 65536 ∧
    (m.instBorn i v q w).isStorage i = bit (leAt v 3 1) 0) ∧
  (∀ (s : State) (c : Cmd) (v : List Byte), Quiet s → c.val 0x100 = v → s.m.cmdCheck (asOp c 0x0101) = none → c.inst = 0xFFFF →
    (31 < leAt v 2 1 ∨ s.m.present (leAt v 2 1) = false → exec (.instCreate c) s = .next (s.put (s.m.reply (asOp c 0x0101) (c.bad 1)))) ∧
    (leAt v 2 1 ≤ 31 → s.m.present (leAt v 2 1) = true → leAt v 0 2 = 0xFFFF → 1023 < leAt v 4 2 →
      exec (.instCreate c) s = .next (s.put (s.m.reply (asOp c 0x0101) (c.bad 2))))) ∧
  (∀ (s : State) (c : Cmd), mayRun s.m c 0x0102 [.inst c.inst] → c.inst < 4096 → s.m.instExists c.inst = true → s.m.ownsAny c.inst = false →
    c.mid / 4096 = 1 →
    ∃ t, exec (.instDestroy c) s = .next t ∧ tget t.m.spl.insts c.inst = none ∧ tget t.m.sto.ctls c.inst = none ∧
      (∀ r ∈ t.m.spl.rings, r.2.owner ≠ c.inst) ∧ t.m.instState c.inst = 0) ∧
  (∀ (s : State) (c : Cmd), Quiet s → mayRun s.m c 0x0102 [.inst c.inst] → s.m.instExists c.inst = true → s.m.ownsAny c.inst = true →
    exec (.instDestroy c) s = .next (s.put (s.m.reply (asOp c 0x0102) (badHeader 1)))) ∧
  (∀ (s : State) (c : Cmd) (q : Quota), mayRun s.m c 0x0103 [.inst c.inst] → s.m.instExists c.inst = true → s.m.fixedShare c.inst = false →
    q = (s.m.inst c.inst).quota.masked (quotaOf (c.val 0x101)) (leAt (c.val 0x101) 22 2) →
    (q.ok = true → exec (.instResize c) s = .next (s.ends (Mod.reply (((s.m.modInst c.inst fun x => { x with quota := q }).setWeight c.inst q.weight).instEvent
      c.inst F.INST_EVENT_RESIZED) (asOp c 0x0103) {}))) ∧
    (Quiet s → q.ok = false → exec (.instResize c) s = .next (s.put (s.m.reply (asOp c 0x0103) (badTlv (c.pos 0x101) 2))))) ∧
  (∀ (q : Quota), q.ok = true ↔ q.send ≤ 16384 ∧ q.recv ≤ 16384 ∧ 1 ≤ q.cpl ∧ q.cpl ≤ 16384 ∧ 1 ≤ q.admin ∧ q.admin ≤ 16 ∧ q.ctx ≤ 32768 ∧
    64 ≤ q.cap ∧ q.cap ≤ 262143 ∧ 1 ≤ q.weight) ∧
  (∀ (s : State) (c : Cmd), mayRun s.m c 0x0104 [.inst c.inst] → s.m.instExists c.inst = true →
    (s.m.vfReset (s.m.instFn c.inst)).isManager c.mid = true → driverOf c.mid = none →
    exec (.instReset c) s = .next (s.ends (Mod.place (Mod.modInst (s.m.vfReset (s.m.instFn c.inst)) c.inst fun x => { x with resetCmd := some (asOp c 0x0104) })
      (asOp c 0x0104) .executing [.inst c.inst]))) ∧
  (∀ (s : State) (c : Cmd) (i : Nat), Quiet s → mayRun s.m c 0x0105 [.inst c.inst] → c.inst = i → s.m.instExists i = true →
    exec (.instQuery c) s = .next (s.put (s.m.reply (asOp c 0x0105) (okWith [s.m.instTlv i, tlv 0x111 ((s.m.inst i).quota.bytes ++ Quota.bytes
      ⟨s.m.ringUse i 0, s.m.ringUse i 1, s.m.ringUse i 2, s.m.ringUse i 3, s.m.instObjs i, s.m.instCells i, 0⟩)])))) ∧
  (∀ (s : State) (c : Cmd), Quiet s → mayRun s.m c 0x0106 [.inst c.inst] → s.m.instState c.inst = 1 →
    exec (.instFreeze c) s = .next (s.put (Mod.place (Mod.pauseRings ((s.m.set F.INST_STATUS_STATE [c.inst] 2).modInst c.inst fun x => { x with freeze := some (asOp c 0x0106) }) c.inst true)
      (asOp c 0x0106) .executing [.inst c.inst]))) ∧
  (∀ (s : State) (c : Cmd), Quiet s → s.m.cmdCheck (asOp c 0x0106) = none → s.m.instState c.inst ≠ 1 →
    exec (.instFreeze c) s = .next (s.put (s.m.reply (asOp c 0x0106) (badHeader 1)))) ∧
  (∀ (m : Mod) (i k : Nat) (r : Ring), m.ring k = some r → r.owner = i → r.state = 1 →
    ∃ r', (m.pauseRings i true).ring k = some r' ∧ r'.state = 2 ∧ r'.entries = r.entries) ∧
  (∀ (s : State) (i : Fin 4096), Quiet s → s.m.instState i ≠ 2 ∨ s.m.instDrained i = false → exec (.instDrainDone i) s = .next s) ∧
  (∀ (s : State) (i : Fin 4096) (c : Cmd), Quiet s → s.m.instState i = 2 → s.m.instDrained i = true → (s.m.inst i).freeze = some c →
    exec (.instDrainDone i) s = .next (s.put (Mod.reply ((s.m.set F.INST_STATUS_STATE [i.val] 3).modInst i fun x => { x with freeze := none }) c {}))) ∧
  (∀ (s : State) (c : Cmd), Quiet s → mayRun s.m c 0x0107 [.inst c.inst] →
    (s.m.instState c.inst ≠ 3 → exec (.instSave c) s = .next (s.put (s.m.reply (asOp c 0x0107) (badHeader 1)))) ∧
    (s.m.instState c.inst = 3 → (s.m.imageOf c.inst).length ≤ 0x200000 → c.buffer = none →
      exec (.instSave c) s = .next (s.put (Mod.reply (Mod.fgUse (s.m.setSpl fun x => { x with saves := tput x.saves c.inst (s.m.imageOf c.inst) }) (List.range 64)) (asOp c 0x0107)
        (okWith [tlv 0x100 (leBytes 4 (s.m.imageOf c.inst).length ++ leBytes 2 c.inst ++ [0, 0] ++
          slice (s.m.imageOf c.inst) ((s.m.imageOf c.inst).length - 64) 48)]))))) ∧
  (∀ (s : State) (c : Cmd) (bs : List Byte) (a : Ans), Quiet s → mayRun s.m c 0x0108 [.inst c.inst] → s.m.instExists c.inst = true →
    leAt (c.val 0x100) 0 1 ≠ s.m.chalk.dir.module → c.buffer.isSome = true → s.m.restoreFault c c.inst bs (imageMap bs) = some a →
    exec (.instRestore c bs) s = .next (s.put ((if a.status = stAuthFail then s.m.fgUse (List.range 64) else s.m).reply (asOp c 0x0108) a))) ∧
  (∀ (m : Mod) (c : Cmd) (i : Nat) (bs : List Byte) (x : ImageMap), m.restoreFault c i bs x = none → m.instState i = 3 ∧ m.ringsOf i = [] ∧
    m.instObjs i = 0 ∧ bs.take 4 = ascii "UXIS" ∧ leAt bs 8 4 ≤ bs.length ∧ sha384 (bs.take (leAt bs 8 4 - 64)) = slice bs (leAt bs 8 4 - 64) 48) ∧
  (∀ (s : State) (c : Cmd) (bs : List Byte) (m : Mod), mayRun s.m c 0x0108 [.inst c.inst] → s.m.instExists c.inst = true →
    leAt (c.val 0x100) 0 1 ≠ s.m.chalk.dir.module → c.buffer.isSome = true → s.m.restoreFault c c.inst bs (imageMap bs) = none →
    (imageMap bs).ctxs = [] → (imageMap bs).kind = 0 → (imageMap bs).pend = [] →
    m = Mod.restoreMsix (Mod.restoreGeneral ((imageMap bs).rings.foldl (fun m r => m.putRing (recKey r) (m.recRing c.inst r)) s.m)
      c.inst (imageMap bs).general) c.inst (imageMap bs) →
    exec (.instRestore c bs) s = .next (s.ends (Mod.reply (Mod.fgUse (m.instEvent c.inst F.INST_EVENT_RESTORED) (List.range 64)) (asOp c 0x0108)
      (m.inLimit c (okWith [tlv 0x101 []]))))) ∧
  (∀ (s : State) (c : Cmd), Quiet s → s.m.cmdCheck (asOp c 0x0109) = none → s.m.instState c.inst ≠ 3 →
    exec (.instResume c) s = .next (s.put (s.m.reply (asOp c 0x0109) (badHeader 1)))) ∧
  (∀ (s : State) (c : Cmd), Quiet s → mayRun s.m c 0x0109 [.inst c.inst] → s.m.instState c.inst = 3 → c.inst < 4096 → s.m.isStorage c.inst = false →
    s.m.ringsOf c.inst = [] →
    ∃ t, exec (.instResume c) s = .next t ∧ t.m.instState c.inst = 1 ∧ t.m.get F.INST_EVENT_RESUMED [c.inst] = 1 ∧ t.m.spl.rings = s.m.spl.rings) ∧
  (∀ (s : State) (i : Fin 4096) (mgr : Bool) (a : BitVec 58), Quiet s → s.m.flag F.INST_BOOT_GO [i.val] = true →
    exec (.instBootGo i mgr a) s = .next (s.put (s.m.refuse (if mgr then s.m.managerMid else 0x2000 + i.val) (regAddr .INST_BOOT [i.val]) true true 3))) ∧
  (∀ (s : State) (i : Fin 4096) (mgr : Bool) (a : BitVec 58), s.m.flag F.INST_BOOT_GO [i.val] = false → s.m.instExists i = true →
    s.m.instState i = 1 → s.m.isStorage i = false → s.m.issues (s.m.instFn i) = true →
    exec (.instBootGo i mgr a) s = .next (s.ends (Mod.hostRead ((s.m.set F.INST_BOOT_ADDR [i.val] a.toNat).set F.INST_BOOT_GO [i.val] 1)
      (s.m.instFn i) (64 * a.toNat) 64 none (.boot i)))) ∧
  (∀ (m : Mod) (i : Nat), i < 4096 → (m.bootRead i none).get F.INST_BOOT_GO [i] = 0 ∧ (m.bootRead i none).get F.INST_BOOT_STATUS_STATUS [i] = stInvalid % 65536)

/-- Jexdor links (R476 to R480, R483 to R488, R491, R495, R497): what a link sends at its timers, what each frame that it receives does,
and when it leaves UP. Clauses on the model's choices: log 68. -/
def Obligations.JexdorLinks : Prop :=
  (∀ (s : State) (l : Fin 32), Quiet s →
    (s.m.linkState l < 2 → exec (.jxlHelloTimer l) s = .next s) ∧
    (2 ≤ s.m.linkState l → exec (.jxlHelloTimer l) s = .next (s.put (s.m.jxlSend l 8 (s.m.helloBytes l)))) ∧
    (s.m.linkState l ≠ 3 → exec (.jxlCreditTimer l) s = .next s ∧ exec (.jxlMarkTimer l) s = .next s ∧ exec (.jxlTimeTimer l) s = .next s)) ∧
  (∀ (s : State) (l : Fin 32), Quiet s → s.m.linkState l = 3 →
    exec (.jxlMarkTimer l) s = .next (s.put (s.m.jxlSend l 10 ((List.range 8).flatMap fun c => beBytes 4 (tgetD (s.m.linkOf l).sent c 0)))) ∧
    ((s.m.linkOf l).acks = [] → ∃ t p, exec (.jxlCreditTimer l) s = .next t ∧ .jxl l 9 p ∈ t.m.outs ∧ p.length = 66 ∧
      ∀ c, c < 8 → wireAt p (8 * c) 4 = tgetD (s.m.linkOf l).freed c 0 % 2 ^ 32 ∧
        wireAt p (8 * c + 4) 4 = sub32 (tgetD (s.m.linkOf l).recvd c 0) (tgetD (s.m.linkOf l).freed c 0))) ∧
  (∀ (s : State) (l : Fin 32), s.m.linkState l = 3 → exec (.jxlTimeTimer l) s =
    .next (s.ends (s.m.jxlOwn l 3 7 ((s.m.linkOf l).peer.module % 64) 0 (s.m.timeBytes l)))) ∧
  (∀ (s : State), (s.m.chalk.dir.role = 1 → exec .jxlBeaconTimer s = .next (s.ends (s.m.broadcast 0 0))) ∧
    (Quiet s → s.m.chalk.dir.role ≠ 1 → exec .jxlBeaconTimer s = .next s)) ∧
  (∀ (s : State) (l : Fin 32) (d : List Byte) (a r : Fin 256) (t : Nat) (bad : Bool), Quiet s →
    (s.m.jxlGood l d 8 = false → exec (.jxlHelloReceived l d a r) s = .next s) ∧
    (s.m.jxlGood l d 9 = false → exec (.jxlCreditReceived l d) s = .next s) ∧
    (s.m.jxlGood l d 10 = false → exec (.jxlMarkReceived l d) s = .next s) ∧
    (s.m.jxlGood l d 11 = false → exec (.jxlDictReceived l d) s = .next s) ∧
    (s.m.jxlGood l d 0 = false → exec (.jxlDataReceived l d t bad) s = .next s)) ∧
  (∀ (s : State) (l : Fin 32) (d : List Byte) (a r : Fin 256) (t : Nat) (bad : Bool) (m0 : Mod), m0 = s.m.count F.JXL_CNT_COUNT [l.val, 1] →
    (s.m.jxlGood l d 8 = true → exec (.jxlHelloReceived l d a r) s = .next (s.ends (m0.jxlHello l d a r))) ∧
    (s.m.jxlGood l d 9 = true → exec (.jxlCreditReceived l d) s = .next (s.ends (m0.jxlCredit l d))) ∧
    (s.m.jxlGood l d 10 = true → exec (.jxlMarkReceived l d) s = .next (s.ends (m0.jxlMark l d))) ∧
    (s.m.jxlGood l d 11 = true → exec (.jxlDictReceived l d) s = .next (s.ends (m0.jxlDict l d))) ∧
    (s.m.jxlGood l d 0 = true → exec (.jxlDataReceived l d t bad) s = .next (s.ends (m0.jxlCredited l d t bad false))) ∧
    (s.m.jxlGood l d 1 = true → exec (.jxlCommandReceived l d t) s = .next (s.ends (m0.jxlCredited l d t false false))) ∧
    (s.m.jxlGood l d 2 = true → exec (.jxlReplyReceived l d t) s = .next (s.ends (m0.jxlCredited l d t false false))) ∧
    (s.m.jxlGood l d 3 = true → exec (.jxlTimeReceived l d t) s = .next (s.ends (m0.jxlCredited l d t false false))) ∧
    (s.m.jxlGood l d 4 = true → exec (.jxlBroadcastReceived l d t) s = .next (s.ends (m0.jxlCredited l d t false false)))) ∧
  (∀ (m : Mod) (l c : Nat) (d : List Byte), l < 32 → c < 8 → m.linkState l = 3 →
    tgetD ((m.jxlCredit l d).linkOf l).repFreed c 0 = wireAt d (30 + 8 * c) 4 ∧
    tgetD ((m.jxlCredit l d).linkOf l).repHeld c 0 = wireAt d (34 + 8 * c) 4 ∧
    tgetD ((m.jxlMark l d).linkOf l).recvd c 0 = wireAt d (30 + 4 * c) 4 ∧
    tgetD ((m.jxlMark l d).linkOf l).freed c 0 = (tgetD (m.linkOf l).freed c 0 + sub32 (wireAt d (30 + 4 * c) 4) (tgetD (m.linkOf l).recvd c 0)) % 2 ^ 32) ∧
  (∀ (m : Mod) (l : Nat) (d : List Byte), m.linkState l = 3 →
    (byteAt d 30 = 1 → ((m.jxlDict l d).linkOf l).rx = []) ∧
    (byteAt d 30 = 0 → tget ((m.jxlDict l d).linkOf l).tx (byteAt d 31) = none)) ∧
  (∀ (m : Mod) (l : Nat) (d : List Byte) (a r : Nat), l < 32 → m.linkState l = 2 → (m.linkOf l).agree = 2 → m.chalk.dir.systemId = wireAt d 50 4 →
    m.jxl.slots = [] → (∀ c, c < 8 → wireAt d (54 + 4 * c) 4 = 0) → (m.jxlHello l d a r).linkState l = 3) ∧
  (∀ (m : Mod) (l : Nat) (d : List Byte) (a r : Nat), l < 32 → m.linkState l = 2 → m.chalk.dir.systemId ≠ 0 → wireAt d 50 4 ≠ 0 →
    m.chalk.dir.systemId ≠ wireAt d 50 4 → (m.jxlHello l d a r).linkState l = 4) ∧
  (∀ (m : Mod) (l : Nat) (d : List Byte) (t : Nat) (bad full : Bool), m.linkState l ≠ 3 → m.jxlCredited l d t bad full = m) ∧
  (∀ (m : Mod) (l : Nat) (d : List Byte) (t : Nat), m.linkState l = 3 → bit (byteAt d 15) 6 = false → bit (byteAt d 15) 5 = false →
    m.jxlCredited l d t false false = (m.putLink l { m.linkOf l with recvd := tmod (m.linkOf l).recvd (jxlClass d) 0 fun v => (v + cellsOf (30 + wireAt d 28 2)) % 2 ^ 32 }).jxlDeliver l d t false) ∧
  (∀ (m : Mod) (h : HeldCmd), (m.jxl.held = [] → m.jxlRoom h.origin = true →
      m.jxlArrives h = (m.freedNow h.link h.cls h.cells).jxlCommand h.origin h.bytes) ∧
    (m.jxl.held ≠ [] ∨ m.jxlRoom h.origin = false → m.jxlArrives h = { m with jxl := { m.jxl with held := m.jxl.held ++ [h] } }) ∧
    (1024 ≤ m.poolCount → m.jxlRoom h.origin = false)) ∧
  (∀ (m : Mod) (l : Nat) (d : List Byte) (t : Nat), byteAt d 18 = 0 → m.jxlForward l d t = m.count F.JXL_CNT_COUNT [l, 9]) ∧
  (∀ (m : Mod) (l : Nat) (p : List Byte), wireAt p 0 4 ∈ m.fit.seenSeqs → m.jxlBroadcast l p = m) ∧
  (∀ (s : State) (l : Fin 32) (t : Nat), Quiet s → s.m.linkState l ≠ 3 → exec (.jxlHelloTimeout l t) s = .next (s.put (s.m.runToNs t))) ∧
  (∀ (s : State) (l : Fin 32) (t : Nat), s.m.linkState l = 3 → (s.m.linkOf l).helloAt + 4000 * s.m.get F.JXL_CFG_HELLO_US ≤ (s.m.runToNs t).ns →
    exec (.jxlHelloTimeout l t) s = .next (s.ends ((s.m.runToNs t).linkTo l 2))) ∧
  (∀ (m : Mod) (l st : Nat), l < 32 → st < 8 → m.linkState l = 3 → st ≠ 3 → m.jxl.slots = [] → (m.linkTo l st).linkState l = st ∧
    ((m.linkTo l st).linkOf l).session = (m.linkOf l).session + 1 ∧ ((m.linkTo l st).linkOf l).tx = [] ∧ ((m.linkTo l st).linkOf l).rx = [])

/-- The system of modules (R489 to R494, R499): routes, leases, forwarded commands, and the Jexdor commands. Clauses on the model's choices: logs 69, 70. -/
def Obligations.JexdorSystem : Prop :=
  (∀ (s : State) (t : Nat), Quiet s → s.m.isMember = false ∨ s.m.flag F.JXL_SYS_ANCHOR_SEEN = false →
    exec (.jxlBeaconLeaseExpiry t) s = .next (s.put (s.m.runToNs t))) ∧
  (∀ (s : State) (t : Nat), s.m.isMember = true → s.m.flag F.JXL_SYS_ANCHOR_SEEN = true →
    s.m.jxl.beaconAt + s.m.get F.CUT_CFG_LEASE_MS * 1000000 ≤ (s.m.runToNs t).ns →
    exec (.jxlBeaconLeaseExpiry t) s = .next (s.ends (((s.m.runToNs t).die 0x4000).set F.JXL_SYS_ANCHOR_SEEN [] 0))) ∧
  (∀ (s : State) (t : Nat), Quiet s → s.m.isMember = false ∨ s.m.get F.JXL_CFG_ORPHAN_S = 0 →
    exec (.jxlOrphanExpiry t) s = .next (s.put (s.m.runToNs t))) ∧
  (∀ (s : State) (t : Nat), s.m.isMember = true → s.m.get F.JXL_CFG_ORPHAN_S ≠ 0 →
    s.m.jxl.beaconAt + s.m.get F.JXL_CFG_ORPHAN_S * 1000000000 ≤ (s.m.runToNs t).ns →
    exec (.jxlOrphanExpiry t) s = .next (s.ends ((s.m.runToNs t).leaveSystem.event 21 2 (regAddr .JXL_SYS)))) ∧
  (∀ (m : Mod), m.leaveSystem.chalk.dir.role = 0 ∧ m.leaveSystem.chalk.dir.systemId = 0 ∧ m.leaveSystem.chalk.dir.members = 0 ∧
    m.leaveSystem.get F.JXL_SYS_ANCHOR_SEEN = 0 ∧ ∀ d, d < 64 → m.leaveSystem.route d = none) ∧
  (∀ (s : State) (topo : List TopoRec), Quiet s → s.m.chalk.dir.role = 0 → exec (.jxlRouteUpdate topo) s = .next s) ∧
  (∀ (s : State) (topo : List TopoRec), s.m.chalk.dir.role ≠ 0 → ∃ t, exec (.jxlRouteUpdate topo) s = .next t ∧ t.m.jxl.topo = topo ∧
    (∀ d l h, d < 64 → routeOf topo s.m.chalk.dir.module d = some (l, h) → l < 32 → h < 16 → t.m.route d = some (l, h)) ∧
    ∀ f ∈ t.m.jxl.fwd, s.m.flag F.JXL_ROUTE_VALID [f.target] = true → f.target < 64 → (routeOf topo s.m.chalk.dir.module f.target).isSome = true) ∧
  (∀ (m : Mod) (ds : List Nat), ∀ f ∈ (m.pathsLost ds).jxl.fwd, f.target ∉ ds) ∧
  (∀ (m : Mod) (d : Nat) (f : Fwd), (m.die (0x4000 + d)).jxl.fwd = [f] → f.target = d →
    m.pathsLost [d] = Mod.reply { m.die (0x4000 + d) with jxl := { (m.die (0x4000 + d)).jxl with fwd := [] } } f.cmd
      { status := stAborted, errDetail := 1, late := true }) ∧
  (∀ (topo : List TopoRec) (me d l h : Nat), routeOf topo me d = some (l, h) → h ≤ 15 ∧ 0 < h ∧
    ∃ r ∈ topo, r.state = 3 ∧ r.mod = me ∧ r.link = l) ∧
  (∀ (s : State) (i t : Nat), Quiet s → s.m.jxl.fwd[i]? = none → exec (.jxlForwardTimeout i t) s = .next (s.put (s.m.runToNs t))) ∧
  (∀ (s : State) (i t : Nat) (f : Fwd), Quiet s → s.m.jxl.fwd[i]? = some f → f.at_ + s.m.get F.JXL_CFG_FWD_TIMEOUT_MS * 1000000 ≤ (s.m.runToNs t).ns →
    exec (.jxlForwardTimeout i t) s = .next (s.put (Mod.reply { s.m.runToNs t with jxl := { s.m.jxl with fwd := s.m.jxl.fwd.eraseIdx i } } f.cmd
      { status := stAborted, errDetail := 2, late := true }))) ∧
  (∀ (s : State) (c : Cmd) (p : Nat) (v : List Byte), mayRun s.m c 0x0701 [.link (leAt v 0 1)] → c.all 0x100 = [(p, v)] → c.all 0x101 = [] →
    (Quiet s → linkOk v = false → exec (.jxlLinkSet c) s = .next (s.put (s.m.reply (asOp c 0x0701) (badTlv p)))) ∧
    (Quiet s → linkOk v = true → s.m.linkFits (leAt v 4 8) = false → exec (.jxlLinkSet c) s = .next (s.put (s.m.reply (asOp c 0x0701) (badTlv p 1)))) ∧
    (linkOk v = true → s.m.linkFits (leAt v 4 8) = true → (s.m.linkSet (leAt v 0 1) (leAt v 4 8)).linksClash = false →
      (∀ sl, sl < 8 → (s.m.linkSet (leAt v 0 1) (leAt v 4 8)).pleatFits sl = true) →
      exec (.jxlLinkSet c) s = .next (s.ends ((s.m.linkSet (leAt v 0 1) (leAt v 4 8)).reply (asOp c 0x0701) {})))) ∧
  (∀ (s : State) (c : Cmd) (v : List Byte), Quiet s → mayRun s.m c 0x0702 [.system] → c.val 0x100 = serial ++ leBytes 1 0 ++ v → (∀ o, c.src ≠ .jexdor o) →
    s.m.chalk.dir.role = 0 → serial.length = 16 →
    exec (.jxlJoin c) s = .next (s.put (Mod.reply ((s.m.setDir fun d => { d with role := 1, module := 0, systemId := systemIdOf serial, members := 1 }).memberCount)
      (asOp c 0x0702) {}))) ∧
  (∀ (s : State) (c : Cmd) (o n : Nat) (v : List Byte), Quiet s → c.src = .jexdor o → s.m.isDead (asOp c 0x0702) = false →
    c.val 0x100 = serial ++ leBytes 1 n ++ v → v.length = 3 → 0 < n →
    n < 64 → s.m.chalk.dir.role = 0 → serial.length = 16 →
    exec (.jxlJoin c) s = .next (s.put ((s.m.becomeMember n).reply (asOp c 0x0702) {}))) ∧
  (∀ (s : State) (c : Cmd), Quiet s → mayRun s.m c 0x0702 [.system] → leAt (c.val 0x100) 16 1 < 64 → s.m.chalk.dir.role = 1 →
    bit s.m.chalk.dir.members (leAt (c.val 0x100) 16 1) = true → (∀ o, c.src ≠ .jexdor o) →
    exec (.jxlJoin c) s = .next (s.put (s.m.reply (asOp c 0x0702) (c.bad 2)))) ∧
  (∀ (s : State) (c : Cmd) (n : Nat), mayRun s.m c 0x0703 [.system] → leAt (c.val 0x100) 0 1 = n → n < 64 →
    (s.m.chalk.dir.role = 2 → n = s.m.chalk.dir.module → exec (.jxlLeave c) s = .next (s.ends (s.m.leaveSystem.reply (asOp c 0x0703) {}))) ∧
    (Quiet s → s.m.chalk.dir.role = 2 → n ≠ s.m.chalk.dir.module → exec (.jxlLeave c) s = .next (s.put (s.m.reply (asOp c 0x0703) c.bad))) ∧
    (Quiet s → s.m.chalk.dir.role = 1 → n = 0 → s.m.chalk.dir.members ≠ 1 → exec (.jxlLeave c) s = .next (s.put (s.m.reply (asOp c 0x0703) (c.bad 1)))) ∧
    (Quiet s → s.m.chalk.dir.role = 0 → exec (.jxlLeave c) s = .next (s.put (s.m.reply (asOp c 0x0703) c.bad)))) ∧
  (∀ (s : State) (c : Cmd), Quiet s → mayRun s.m c 0x0704 → c.buffer = none → s.m.jxl.topo = [] →
    exec (.jxlTopologyRead c) s = .next (s.put (s.m.reply (asOp c 0x0704) (okWith [tlv 0x101 []])))) ∧
  (∀ (s : State) (c : Cmd) (r : TopoRec), Quiet s → mayRun s.m c 0x0704 → c.buffer = none → s.m.jxl.topo = [r] → r.state = 3 →
    leAt (c.val 0x100) 0 4 = 0 →
    exec (.jxlTopologyRead c) s = .next (s.put (s.m.reply (asOp c 0x0704) (okWith [tlv 0x101 (topoBytes [r] r)])))) ∧
  (∀ (s : State) (c : Cmd) (l : Nat), Quiet s → mayRun s.m c 0x0705 [.link l] → leAt (c.val 0x100) 0 1 = l → l < 32 →
    s.m.linkState l = 3 →
    exec (.jxlDictReset c) s = .next (s.put (Mod.reply ((s.m.putLink l { s.m.linkOf l with tx := [] }).jxlSend l 11 (1 :: List.replicate 31 0)) (asOp c 0x0705) {}))) ∧
  (∀ (s : State) (c : Cmd), Quiet s → s.m.cmdCheck (asOp c 0x0705) = none → 32 ≤ leAt (c.val 0x100) 0 1 →
    exec (.jxlDictReset c) s = .next (s.put (s.m.reply (asOp c 0x0705) c.bad))) ∧
  (∀ (s : State) (c : Cmd) (p l k : Nat) (v : List Byte), Quiet s → mayRun s.m c 0x0706 [.link l] → c.all 0x100 = [(p, v)] → slotOk v = true →
    leAt v 0 1 = l → leAt v 1 1 = k → k ≠ 7 → (s.m.hemOf (s.m.get F.JXL_LINK_CFG_PORT [l])).active.isSome = true →
    (leAt v 2 1 % 2 = 0 → exec (.jxlSlotSet c) s = .next (s.put (Mod.reply (((s.m.set F.JXL_CREDIT_SLOTTED [l, k] 0).set F.JXL_CREDIT_SLOT_CELLS [l, k] 0).putLink l
      { s.m.linkOf l with left := tdel (s.m.linkOf l).left k }) (asOp c 0x0706) {}))) ∧
    (leAt v 2 1 % 2 = 1 → s.m.linkState l = 3 → exec (.jxlSlotSet c) s = .next (s.put (Mod.place { s.m with jxl := { s.m.jxl with slots := s.m.jxl.slots ++ [⟨asOp c 0x0706, l, k, leAt v 4 4⟩] } }
      (asOp c 0x0706) .executing [.link l])))) ∧
  (∀ (s : State) (c : Cmd) (p : Nat) (v : List Byte), Quiet s → mayRun s.m c 0x0706 [.link (leAt v 0 1)] → c.all 0x100 = [(p, v)] →
    (slotOk v = false → exec (.jxlSlotSet c) s = .next (s.put (s.m.reply (asOp c 0x0706) (badTlv p)))) ∧
    (slotOk v = true → leAt v 1 1 = 7 → exec (.jxlSlotSet c) s = .next (s.put (s.m.reply (asOp c 0x0706) (badTlv p 2)))))

/-- The NVMe controllers (R453 to R464): registers, enable, disable and shutdown, doorbells and polls, every command served, its checks
and its queues. Clauses on the model's choices: logs 65, 66. -/
def Obligations.NvmeControllers : Prop :=
  (∀ (m : Mod) (i : Nat), m.nvRegRead i 0 8 = 0xFFF + 2 ^ 16 + 20 * 2 ^ 24 + 2 ^ 37 ∧ m.nvRegRead i 8 4 = 0x20100 ∧
    m.nvRegRead i 0x14 4 = (m.ctl i).cc % 2 ^ 32 ∧
    ((m.ctl i).shst < 4 → m.nvRegRead i 0x1C 4 = b2n (m.ctl i).rdy + 2 * b2n (m.ctl i).cfs + 4 * (m.ctl i).shst)) ∧
  (∀ (s : State) (i : Fin 4096) (v : BitVec 32), Quiet s → s.m.isStorage i = false ∨ s.m.issues (s.m.instFn i) = false →
    exec (.nvmeEnable i v) s = .next s ∧ exec (.nvmeDisable i v) s = .next s ∧ exec (.nvmeShutdown i v) s = .next s ∧ exec (.nvmePoll i) s = .next s) ∧
  (∀ (s : State) (i : Fin 4096) (v : BitVec 32) (c : Nvme), Quiet s → s.m.isStorage i = true → s.m.issues (s.m.instFn i) = true → s.m.ctl i = c →
    bit c.cc 0 = false → bit v.toNat 0 = true → s.m.instState i ≠ 4 →
    (bits v.toNat 4 3 = 0 → bits v.toNat 7 4 = 0 → bits v.toNat 11 3 = 0 → bits v.toNat 16 4 = 6 → bits v.toNat 20 4 = 4 →
      1 ≤ bits c.aqa 0 12 → 1 ≤ bits c.aqa 16 12 → c.asq % 4096 = 0 → c.acq % 4096 = 0 → s.m.mayTake i 0 = true → s.m.mayTake i 2 = true →
      ∃ t sq cq, exec (.nvmeEnable i v) s = .next t ∧ t = s.put (s.m.putCtl i { c with cc := ccFields v.toNat, rdy := true, sqs := [(0, sq)], cqs := [(0, cq)], bells := [] }) ∧
        sq.base = c.asq ∧ sq.size = bits c.aqa 0 12 + 1 ∧ sq.head = 0 ∧ sq.tail = 0 ∧ cq.base = c.acq ∧ cq.size = bits c.aqa 16 12 + 1 ∧ cq.phase = true) ∧
    (bits v.toNat 16 4 ≠ 6 ∨ bits v.toNat 20 4 ≠ 4 ∨ bits v.toNat 4 3 ≠ 0 ∨ bits v.toNat 7 4 ≠ 0 ∨ bits v.toNat 11 3 ≠ 0 ∨ bits c.aqa 0 12 = 0 ∨
      bits c.aqa 16 12 = 0 ∨ c.asq % 4096 ≠ 0 ∨ c.acq % 4096 ≠ 0 →
      exec (.nvmeEnable i v) s = .next (s.put (s.m.putCtl i { c with cc := ccFields v.toNat, cfs := true })))) ∧
  (∀ (s : State) (i : Fin 4096) (v : BitVec 32), s.m.isStorage i = true → s.m.issues (s.m.instFn i) = true → bit (s.m.ctl i).cc 0 = true →
    bit v.toNat 0 = false →
    exec (.nvmeDisable i v) s = .next (s.ends (Mod.modCtl (s.m.vfReset (s.m.instFn i) true) i fun x => { x with cc := ccFields v.toNat }))) ∧
  (∀ (s : State) (i : Fin 4096) (v : BitVec 32) (c : Nvme), s.m.isStorage i = true → s.m.issues (s.m.instFn i) = true → s.m.ctl i = c →
    bit c.cc 0 = bit v.toNat 0 → bits v.toNat 14 2 = 1 ∨ bits v.toNat 14 2 = 2 → c.shst = 0 →
    exec (.nvmeShutdown i v) s = .next (s.ends (Mod.nvAfter (s.m.putCtl i { c with cc := ccFields v.toNat, shst := 1, flushes := none, shutAt := s.m.ns }) i))) ∧
  (∀ (s : State) (i : Fin 4096), Quiet s →
    ((s.m.ctl i).shst = 1 → exec (.shutdownTimeout i) s = .next (s.put (Mod.modCtl (s.m.runToNs ((s.m.ctl i).shutAt + 10000000000)) i fun c => { c with shst := 2 }))) ∧
    ((s.m.ctl i).shst ≠ 1 → exec (.shutdownTimeout i) s = .next s)) ∧
  (∀ (s : State) (i : Fin 4096) (d : Fin 130) (v : BitVec 32), Quiet s → s.m.isStorage i = true → s.m.issues (s.m.instFn i) = true →
    exec (.nvmeDoorbellWrite i d v) s = .next (s.put (s.m.modCtl i fun c => { c with bells := tput c.bells d (v.toNat % 65536) }))) ∧
  (∀ (s : State) (i : Fin 4096), s.m.isStorage i = true → s.m.issues (s.m.instFn i) = true → (s.m.ctl i).rdy = true → (s.m.ctl i).cfs = false →
    (s.m.ctl i).shadow = none →
    exec (.nvmePoll i) s = .next (s.ends (((s.m.ctl i).bells.foldl (fun m (b : Nat × Nat) => m.takeBell i b.1 b.2)
      (s.m.modCtl i fun x => { x with bells := [] })).nvWork i))) ∧
  (∀ (m : Mod) (i q v : Nat) (x : Sq), tget (m.ctl i).sqs q = some x → x.tail < x.size → x.asked < x.size →
    (x.size ≤ v → (Mod.ctl (m.takeBell i (2 * q) v) i).cfs = true) ∧
    (v < x.size → (v + x.size - x.asked) % x.size < (x.tail + x.size - x.asked) % x.size → (Mod.ctl (m.takeBell i (2 * q) v) i).cfs = true) ∧
    (v < x.size → (x.tail + x.size - x.asked) % x.size ≤ (v + x.size - x.asked) % x.size →
      m.takeBell i (2 * q) v = m.putCtl i { m.ctl i with sqs := tput (m.ctl i).sqs q { x with tail := v } })) ∧
  (∀ (m : Mod) (i q v : Nat) (x : Cq), tget (m.ctl i).cqs q = some x → x.size ≤ v → (Mod.ctl (m.takeBell i (2 * q + 1) v) i).cfs = true) ∧
  (∀ (s : State) (e : Fin 32), Quiet s → (∀ i c m', s.m.pick e ≠ some (.nvme i c, m')) →
    exec (.nvmeFlush e) s = .next s ∧ exec (.nvmeWrite e) s = .next s ∧ exec (.nvmeRead e) s = .next s ∧ exec (.writeZeroes e) s = .next s ∧
    exec (.datasetManagement e) s = .next s ∧ exec (.identify e) s = .next s) ∧
  (∀ (s : State) (e : Fin 32) (i : Nat) (c : NvCmd) (m : Mod), s.m.pick e = some (.nvme i c, m) → c.sq ≠ 0 →
    (c.op = 0 → exec (.nvmeFlush e) s = .next (s.ends (m.nvIo i c))) ∧ (c.op = 1 → exec (.nvmeWrite e) s = .next (s.ends (m.nvIo i c))) ∧
    (c.op = 2 → exec (.nvmeRead e) s = .next (s.ends (m.nvIo i c))) ∧ (c.op = 8 → exec (.writeZeroes e) s = .next (s.ends (m.nvIo i c))) ∧
    (c.op = 9 → exec (.datasetManagement e) s = .next (s.ends (m.nvIo i c)))) ∧
  (∀ (s : State) (e : Fin 32) (i : Nat) (c : NvCmd) (m : Mod), s.m.pick e = some (.nvme i c, m) → c.sq = 0 →
    (c.op = 0 → exec (.deleteIoSq e) s = .next (s.ends (m.deleteSq i c))) ∧ (c.op = 1 → exec (.createIoSq e) s = .next (s.ends (m.createSq i c))) ∧
    (c.op = 2 → exec (.getLogPage e) s = .next (s.ends (m.getLog i c))) ∧ (c.op = 4 → exec (.deleteIoCq e) s = .next (s.ends (m.deleteCq i c))) ∧
    (c.op = 5 → exec (.createIoCq e) s = .next (s.ends (m.createCq i c))) ∧ (c.op = 6 → exec (.identify e) s = .next (s.ends (m.identify i c))) ∧
    (c.op = 8 → exec (.abortCmd e) s = .next (s.ends (m.nvAbort i c))) ∧ (c.op = 9 → exec (.setFeatures e) s = .next (s.ends (m.setFeatures i c))) ∧
    (c.op = 0xA → exec (.getFeatures e) s = .next (s.ends (m.getFeatures i c))) ∧
    (c.op = 0xC → exec (.asynchronousEventRequest e) s = .next (s.ends (m.asyncEvent i c))) ∧
    (c.op = 0x7C → exec (.doorbellBufferConfig e) s = .next (s.ends (m.bellBuffer i c)))) ∧
  (∀ (q : Nat) (raw : List Byte), (leAt raw 0 1 ∉ [0, 1, 2, 4, 5, 6, 8, 9, 0xA, 0xC, 0x7C] → nvUnfit q raw = some nvOpcode) ∧
    (q ≠ 0 → leAt raw 0 1 ∉ [0, 1, 2, 8, 9] → nvUnfit q raw = some nvOpcode)) ∧
  (nvOpcode = 0x4001 ∧ nvField = 0x4002 ∧ nvNamespace = 0x400B ∧ nvNotReady = 0x4082 ∧ nvTransfer = 4 ∧ nvTransient = 0x22 ∧ nvQueueId = 0x4101) ∧
  (∀ (m : Mod) (i : Nat) (c : NvCmd) (t r : Nat) (ro : Bool) (x : NsInfo), c.map = some (t, ro, r) → m.nvInfo i c = some x →
    x.plain = true → c.op = 1 ∨ c.op = 8 ∨ c.op = 9 → ro = true → m.nvIo i c = m.nvRefuse i c (nvStatus 0 0x20 true)) ∧
  (∀ (m : Mod) (i : Nat) (c : NvCmd), c.map = none ∨ m.nvInfo i c = none → m.nvIo i c = m.nvRefuse i c nvNamespace) ∧
  (∀ (m : Mod) (i : Nat) (c : NvCmd) (l kind : Nat) (b : Bool), c.qid = 0 ∨ 64 < c.qid ∨ b = true → m.createFault i c b l kind = some nvQueueId) ∧
  (∀ (m : Mod) (i : Nat) (c : NvCmd) (l kind : Nat) (b : Bool), m.createFault i c b l kind = none →
    1 ≤ c.qid ∧ c.qid ≤ 64 ∧ c.qid ≤ l ∧ b = false ∧ 2 ≤ c.qsize ∧ c.qsize ≤ 4096 ∧ bit (c.dw 11) 0 = true ∧ c.prp1 % 4096 = 0 ∧ m.mayTake i kind = true) ∧
  (∀ (m : Mod) (i : Nat) (c : NvCmd), c.qid ≠ 0 → (tget (m.ctl i).cqs c.qid).isSome = true → (∃ q ∈ (m.ctl i).sqs, q.2.cq = c.qid) →
    m.deleteCq i c = m.nvEnd i c (nvStatus 1 0xC true)) ∧
  (∀ (m : Mod) (i : Nat) (c : NvCmd), (∀ d, m.nvCmd i (c.dw 10 % 65536) (c.dw 10 / 65536) = some d → d.sq = 0 ∨ d.order.isSome = true ∨ d.stage = .sent) →
    m.nvAbort i c = m.nvEnd i c 0 1) ∧
  (∀ (m : Mod) (i : Nat) (c : NvCmd) (d : NvCmd), m.nvCmd i (c.dw 10 % 65536) (c.dw 10 / 65536) = some d → d.sq ≠ 0 → d.order = none → d.stage ≠ .sent →
    m.nvAbort i c = (m.nvEnd i d (nvStatus 0 7)).nvEnd i c 0) ∧
  (∀ (m : Mod) (i : Nat) (c : NvCmd), 4 ≤ ((m.ctl i).cmds.countP fun d => d.stage = .aer) → m.asyncEvent i c = m.nvEnd i c (nvStatus 1 5 true)) ∧
  (∀ (c : NvCpl) (h : Nat) (p : Bool), (nvCqe h p c).length = 16) ∧
  (∀ (m : Mod) (i q : Nat) (x : Cq), tget (m.ctl i).cqs q = some x → (x.tail + 1) % x.size = x.head ∨ (m.ctl i).cfs = true ∨ x.wait = [] → m.cqStep i q = m)

/-- The associations with targets (R464 to R470): enable and disable, the steps of CONNECTING, the retry wait, a loss and what becomes of
the commands, Keep Alive, retransmission, and PDUs received. Clauses on the model's choices: log 67. -/
def Obligations.StorageTargets : Prop :=
  (∀ (s : State) (sl : Fin 8) (t : Fin 64) (v : BitVec 63), s.m.tgtState sl t = 0 → s.m.flag F.STO_TGT_CFG_ENABLE [sl, t] = false →
    exec (.targetEnable sl t v) s = .next (s.ends ((s.m.tgtCfg sl t (1 + 2 * v.toNat)).tgtEnter sl t 1))) ∧
  (∀ (s : State) (sl : Fin 8) (t : Fin 64) (v : BitVec 63), s.m.tgtState sl t ≠ 0 →
    exec (.targetEnable sl t v) s = .next (s.ends (s.m.refuse s.m.managerMid (regAddr .STO_TGT_CFG [sl, t]) true true 3))) ∧
  (∀ (m : Mod) (l t st : Nat), m.tgtEnter l t st = (let w := if m.tgtState l t = 1 ∨ m.tgtState l t = 2 then m.emit (.target l t 0 1 []) else m
    let w := (w.set F.STO_TGT_STATUS_STATE [l, t] st).set F.STO_TGT_STATUS_LIVE_IOQ [l, t] 0
    let w := w.modAssoc l t fun a => { a with step := if st = 1 then 1 else 0, conn := 0, since := w.ns, retx := [] }
    if st = 1 then w.emit (.target l t 0 0 []) else w)) ∧
  (∀ (s : State) (sl : Fin 8) (t : Fin 64) (v : BitVec 63), (s.m.tgtCfg sl t (2 * v.toNat)).tgtState sl t ≠ 0 → (s.m.tgtCfg sl t (2 * v.toNat)).nvTied sl t = [] →
    exec (.targetDisable sl t v) s = .next (s.ends (Mod.setSto ((((s.m.tgtCfg sl t (2 * v.toNat)).tgtEnter sl t 0).set F.STO_TGT_STATUS_HDGST_ON [sl, t] 0).set
      F.STO_TGT_STATUS_DDGST_ON [sl, t] 0) fun x => { x with assocs := tdel x.assocs (sl.val * 64 + t.val) }))) ∧
  (∀ (s : State) (sl : Fin 8) (t : Fin 64) (x : StepInfo) (ok : Bool), Quiet s → s.m.tgtState sl t ≠ 1 →
    exec (.targetConnectStep sl t ok x) s = .next s ∧ exec (.targetConnectTimeout sl t) s = .next s) ∧
  (∀ (s : State) (sl : Fin 8) (t : Fin 64) (x : StepInfo), s.m.tgtState sl t = 1 →
    exec (.targetConnectStep sl t false x) s = .next (s.ends ((s.m.stepTold sl t x).1.tgtFail sl t))) ∧
  (∀ (s : State) (sl : Fin 8) (t : Fin 64) (x : StepInfo), s.m.tgtState sl t = 1 → (s.m.assoc sl t).step = 1 →
    exec (.targetConnectStep sl t true x) s = .next (s.ends (if s.m.get F.STO_TGT_CFG_IOQ [sl, t] < (s.m.assoc sl t).conn then s.m.tgtLive sl t
      else (s.m.modAssoc sl t fun a => { a with step := (if s.m.flag F.STO_TGT_CFG_TLS [sl, t] then 2 else 3), conn := (s.m.assoc sl t).conn }).emit
        (.target sl t (s.m.assoc sl t).conn 6 (leBytes 1 (if s.m.flag F.STO_TGT_CFG_TLS [sl, t] then 2 else 3)))))) ∧
  (nextStep false 1 0 = (3, 0) ∧ nextStep true 1 0 = (2, 0) ∧ nextStep true 2 0 = (3, 0) ∧ nextStep true 3 0 = (4, 0) ∧ nextStep true 4 0 = (5, 0) ∧
    nextStep true 5 0 = (6, 0) ∧ nextStep true 6 0 = (1, 1) ∧ ∀ k, 1 ≤ k → nextStep true 4 k = (1, k + 1)) ∧
  (∀ (m : Mod) (l t : Nat), m.tgtFail l t = ((((m.countSat F.STO_TGT_STATUS_RETRIES [l, t]).set F.STO_TGT_STATUS_LAST_LOSS [l, t] 9).modAssoc l t fun a =>
    { a with fails := a.fails + 1 }).tgtEnter l t 3)) ∧
  (∀ (s : State) (sl : Fin 8) (t : Fin 64), s.m.tgtState sl t = 1 →
    exec (.targetConnectTimeout sl t) s = .next (s.ends ((s.m.runToNs ((s.m.assoc sl t).since + 10000000000)).tgtFail sl t))) ∧
  (∀ (s : State) (sl : Fin 8) (t : Fin 64), s.m.tgtState sl t = 3 →
    exec (.targetRetryTimer sl t) s = .next (s.ends ((s.m.runToNs ((s.m.assoc sl t).since +
      min (100000000 * 2 ^ min (s.m.assoc sl t).fails 7) 10000000000)).tgtEnter sl t 1))) ∧
  (∀ (s : State) (sl : Fin 8) (t : Fin 64), Quiet s → s.m.tgtState sl t ≠ 3 → exec (.targetRetryTimer sl t) s = .next s) ∧
  (∀ (s : State) (sl : Fin 8) (t : Fin 64), Quiet s → (s.m.assoc sl t).lossAt = none ∨ s.m.tgtState sl t ≠ 1 ∧ s.m.tgtState sl t ≠ 3 →
    exec (.ctrlLossExpiry sl t) s = .next s) ∧
  (∀ (s : State) (sl : Fin 8) (t : Fin 64) (l : Nat) (m : Mod), (s.m.assoc sl t).lossAt = some l → s.m.tgtState sl t = 1 ∨ s.m.tgtState sl t = 3 →
    m = (s.m.runToNs (l + s.m.get F.STO_TGT_CFG_CTRL_LOSS_S [sl, t] * 1000000000)).tgtEnter sl t 4 →
    exec (.ctrlLossExpiry sl t) s = .next (s.ends ((m.nvTied sl t).foldl (fun m (x : Nat × NvCmd) => (m.stoCount x.1 5).nvEnd x.1 x.2 nvNotReady) m))) ∧
  (∀ (s : State) (sl : Fin 8) (t : Fin 64) (c : Fin 10), (s.m.tgtState sl t = 2 → exec (.targetConnectionLoss sl t c) s = .next (s.ends (s.m.tgtLost sl t c))) ∧
    (s.m.tgtState sl t = 1 → exec (.targetConnectionLoss sl t c) s = .next (s.ends (s.m.tgtFail sl t)))) ∧
  (∀ (m : Mod) (l t c : Nat) (w : Mod), (w = (m.set F.STO_TGT_STATUS_LAST_LOSS [l, t] c).count F.STO_CNT_COUNT [l, 9] → w.nvTied l t = [] →
    m.tgtLost l t c = ((w.modAssoc l t fun a => { a with lossAt := some w.ns, fails := 0 }).tgtEnter l t 3).modAssoc l t fun a =>
      { a with since := ((w.modAssoc l t fun a => { a with lossAt := some w.ns, fails := 0 }).tgtEnter l t 3).ns })) ∧
  (∀ (s : State) (sl : Fin 8) (t : Fin 64), Quiet s →
    (s.m.tgtState sl t = 2 → exec (.targetKeepAlive sl t) s = .next (s.put (Mod.emit (Mod.modAssoc (s.m.runToNs ((s.m.assoc sl t).alive + 5000000000)) sl t fun a =>
      { a with alive := a.alive + 5000000000 }) (.target sl t 0 3 [])))) ∧
    (s.m.tgtState sl t ≠ 2 → exec (.targetKeepAlive sl t) s = .next s)) ∧
  (∀ (s : State) (sl : Fin 8) (t : Fin 64) (k : Fin 33) (n : Nat) (m : Mod), Quiet s → s.m.tgtState sl t = 2 → tgetD (s.m.assoc sl t).retx k 0 + 1 = n →
    m = Mod.emit (s.m.modAssoc sl t fun a => { a with retx := tput a.retx k n }) (.target sl t k 2 []) →
    (n < 8 → exec (.tcpRtoExpiry sl t k) s = .next (s.put m)) ∧ (8 ≤ n → exec (.tcpRtoExpiry sl t k) s = .next (s.ends (m.tgtLost sl t 2)))) ∧
  (∀ (s : State) (i : Fin 4096) (q : Fin 65) (cid : Fin 65536), Quiet s →
    s.m.nvCmd i q cid = none ∨ (∃ c, s.m.nvCmd i q cid = some c ∧ (c.stage ≠ .wait ∨ s.m.tgtState (s.m.instSlice i) c.target = 2)) →
    exec (.ioWaitExpiry i q cid) s = .next s) ∧
  (∀ (s : State) (i : Fin 4096) (q : Fin 65) (cid : Fin 65536) (c : NvCmd), s.m.nvCmd i q cid = some c → c.stage = .wait →
    s.m.tgtState (s.m.instSlice i) c.target ≠ 2 →
    exec (.ioWaitExpiry i q cid) s = .next (s.ends ((Mod.stoCount (s.m.runToNs (c.at_ + s.m.get F.STO_TGT_CFG_IO_WAIT_S [s.m.instSlice i, c.target] * 1000000000)) i 4).nvEnd
      i c nvTransient))) ∧
  (∀ (s : State) (sl : Fin 8) (t : Fin 64) (k : Fin 33) (p : TargetPdu) (ch : Fin 4), Quiet s → s.m.tgtState sl t ≠ 2 →
    exec (.targetPduReceived sl t k p ch) s = .next s) ∧
  (∀ (s : State) (sl : Fin 8) (t : Fin 64) (k : Fin 33) (p : TargetPdu) (m : Mod), s.m.tgtState sl t = 2 →
    m = (s.m.modAssoc sl t fun a => { a with retx := tdel a.retx k }) →
    exec (.targetPduReceived sl t k p 1) s = .next (s.ends (m.tgtLost sl t 4)) ∧
    exec (.targetPduReceived sl t k .malformed 0) s = .next (s.ends (m.tgtLost sl t 7)) ∧
    (∀ i q cid st dw0 c, q ≠ 0x8000 → m.nvNamed sl t k i q cid = some c →
      exec (.targetPduReceived sl t k (.resp i q cid st dw0) 0) s = .next (s.ends (m.nvResponse i c st dw0)) ∧
      exec (.targetPduReceived sl t k (.resp i q cid st dw0) 2) s = .next (s.ends (Mod.tgtLost (m.count F.STO_CNT_COUNT [sl.val, 6]) sl t 5))) ∧
    (∀ i q cid st dw0, q ≠ 0x8000 → m.nvNamed sl t k i q cid = none →
      exec (.targetPduReceived sl t k (.resp i q cid st dw0) 0) s = .next (s.ends (m.count F.STO_CNT_COUNT [sl.val, 10]))) ∧
    (∀ i q cid off bs c, m.nvNamed sl t k i q cid = some c → c.op = 2 → off + bs.length ≤ m.nvLen i c →
      exec (.targetPduReceived sl t k (.data i q cid off bs) 0) s = .next (s.ends (Mod.stoCount ((m.modNv i c fun d => { d with wrote := true }).nvPut i c off bs) i 1 bs.length))) ∧
    (∀ i q cid off n c, m.nvNamed sl t k i q cid = some c → off + n ≤ c.data.length →
      exec (.targetPduReceived sl t k (.r2t i q cid off n) 0) s = .next (s.ends (Mod.emit (m.stoCount i 2 n) (.target sl t k 5 (slice c.data off n)))))) ∧
  (∀ (m : Mod) (i : Nat) (c : NvCmd), m.isStorage i = true → m.tgtState (m.instSlice i) c.target ≠ 2 → m.nvSend i c = m) ∧
  (∀ (m : Mod) (i n : Nat), n = 0 ∨ 16 < n → m.nsMap i n = none)

/-- A step runs the command at the front of the queue, on the state with the queue's rest; on an empty queue the module idles
(the model's own convention, logs 1 and 2). -/
def Obligations.StepRunsFront : Prop :=
  (∀ (s : State) (c : Instr) (rest : List Instr), s.pending = c :: rest → step s = exec c { s with pending := rest }) ∧
  (∀ (s : State), s.pending = [] → step s = .next s)

/-- Every command completes: from every state, with every operand, it answers a next state, and leaves the queue alone; only writes into
the internal address space, the DATA operations that store, and what stops or starts the module can change the microcode data region. Clauses on the model's choices: log 3. -/
def Obligations.EveryCommandCompletes : Prop :=
  ∀ (s : State) (i : Instr), ∃ t, exec i s = .next t ∧ t.pending = s.pending ∧
    (t.mem = s.mem ∨ (∃ r a w v, i = .registerWrite r a w v) ∨ (∃ f b o n d, i = .hostMemoryRequest f b o n (some d)) ∨ (∃ c, i = .regWrite c) ∨
      (∃ l e h g b, i = .dataWrite l e h g b) ∨ (∃ l e h g b, i = .dataAdd l e h g b) ∨ (∃ l e h g b, i = .dataCas l e h g b) ∨
      (∃ r, i = .powerLoss r) ∨ i = .thermalTrip ∨ (∃ b k, i = .rom b k))

/-- The state right after reset (R541): no command, an empty microcode data region in its canonical form, every register field at its
reset value, nothing in the command pool, no input yet, and no Fitting trigger left to fire. Clauses on the model's choices: logs 4, 5. -/
def Obligations.ResetState : Prop :=
  State.reset.pending = [] ∧ Memory.wf State.reset.mem = true ∧ (∀ a, memGet State.reset.mem a = memDefault) ∧ Quiet State.reset ∧
  (∀ (f : Fld) (ix : List Nat), State.reset.m.get f ix = f.reg.resetVal (ixGet ix) / 2 ^ f.lo % 2 ^ f.w) ∧
  State.reset.m.phase = 1 ∧ State.reset.m.powered = false ∧ State.reset.m.cut.pool = [] ∧ State.reset.m.outs = [] ∧ State.reset.m.txns = [] ∧
  State.reset.m.spl.rings = [] ∧ State.reset.m.replies = [] ∧ State.reset.m.chalk.blocks = []

/-- Every step keeps this: the microcode data region is in its canonical form, and no Fitting trigger is left to fire. -/
def Obligations.InvariantKept : Prop :=
  ∀ (s t : State), Memory.wf s.mem = true → Quiet s → step s = .next t → Memory.wf t.mem = true ∧ Quiet t ∧ (t.pending = s.pending.tail)

/-- The microcode data region (R6, R32, R235): bytes written read back, all others are as they were, the form stays canonical, and
regions that read alike are equal. Clauses on the model's choices: log 5. -/
def Obligations.MemoryLaws : Prop :=
  (∀ (l : List Host.Cell) (a : Nat) (bs : List Byte), Memory.wf l = true →
    memBytes (memPutBytes l a bs) a bs.length = bs ∧ Memory.wf (memPutBytes l a bs) = true ∧
    ∀ x, x < a ∨ a + bs.length ≤ x → memGet (memPutBytes l a bs) x = memGet l x) ∧
  (∀ (l l' : List Host.Cell), Memory.wf l = true → Memory.wf l' = true → (∀ a, memGet l a = memGet l' a) → l = l') ∧
  (∀ (n v : Nat), leNat (leBytes n v) = v % 2 ^ (8 * n))

/-- Replies (R44, R48, R49, R61, R84): a command whose requester lives is answered with what its reply must say; a reply changes nothing
else; a command that fails its checks has no other effect; one whose objects are held answers BUSY or waits; a query only replies. Clauses on the model's choices: logs 21, 71, 81. -/
def Obligations.Replies : Prop :=
  (∀ (m : Mod) (c : Cmd) (a : Ans), m.isDead c = false → ∃ r, answered (m.reply c a) r ∧ Answers m c a r) ∧
  (∀ (m : Mod) (c : Cmd) (a : Ans), m.isDead c = true → m.reply c a = m.leave c) ∧
  (∀ (m : Mod) (c : Cmd) (a : Ans), onlyReplied m (m.reply c a)) ∧
  (∀ (m : Mod) (c : Cmd) (op : Nat) (objs : List Obj) (body : Mod → Mod × Option Ans) (a : Ans), m.cmdCheck (asOp c op) = some a →
    m.runCmd c op objs body = m.reply (asOp c op) a) ∧
  (∀ (m : Mod) (c : Cmd) (op : Nat) (objs : List Obj) (body : Mod → Mod × Option Ans), m.cmdCheck (asOp c op) = none → (body m).2 = none →
    (m.holder (asOp c op) objs = some true → m.runCmd c op objs body = m.reply (asOp c op) { status := stBusy }) ∧
    (m.holder (asOp c op) objs = some false → m.runCmd c op objs body = m.place (asOp c op) .waiting objs) ∧
    (m.holder (asOp c op) objs = none → m.runCmd c op objs body = (body m).1.place (asOp c op) .executing objs)) ∧
  (∀ (m : Mod) (c : Cmd) (op : Nat) (objs : List Obj) (body : Mod → Mod × Option Ans) (a : Ans), m.cmdCheck (asOp c op) = none →
    (body m).2 = some a →
    (a.late = false → a.status = stInvalid ∨ a.status = stNoResource ∨ a.status = stNotTraceable → m.runCmd c op objs body = m.reply (asOp c op) a) ∧
    (a.late = true ∨ (a.status ≠ stInvalid ∧ a.status ≠ stNoResource ∧ a.status ≠ stNotTraceable) → m.holder (asOp c op) objs = none →
      m.runCmd c op objs body = ((body m).1.fgUse (commandUnits op)).reply (asOp c op) a)) ∧
  (∀ (s t : State) (c : Cmd), Quiet s → exec (.modIdentify c) s = .next t ∨ exec (.modStatus c) s = .next t ∨ exec (.servoStatus c) s = .next t ∨
    exec (.bobbinStatus c) s = .next t ∨ exec (.lockQuery c) s = .next t ∨ exec (.mbxQuery c) s = .next t ∨ exec (.calQuery c) s = .next t ∨
    exec (.imgStageStatus c) s = .next t ∨ exec (.imgQuery c) s = .next t ∨ exec (.portStatus c) s = .next t ∨ exec (.ringQuery c) s = .next t →
    onlyReplied s.m t.m ∧ t.mem = s.mem ∧ t.pending = s.pending)
end

