-- ==== Sys2Proof/Laws/Bytes.lean ====
section
/-! SUPPORT. Little-endian bytes: reading back a number that was written (R6). -/

namespace Sys2Proof.Machine

@[simp] theorem leBytes_length (n v : Nat) : (leBytes n v).length = n := by
  induction n generalizing v with
  | zero => rfl
  | succ n ih => simp [leBytes, ih]

@[simp] theorem leNat_leBytes (n v : Nat) : leNat (leBytes n v) = v % 256 ^ n := by
  induction n generalizing v with
  | zero => simp [leBytes, leNat, Nat.mod_one]
  | succ n ih =>
    simp only [leBytes, leNat, ih, BitVec.toNat_ofNat, Nat.mod_mod]
    rw [Nat.pow_succ, Nat.mul_comm (256 ^ n), Nat.mod_mul]

theorem leNat_append (a b : List Byte) : leNat (a ++ b) = leNat a + 256 ^ a.length * leNat b := by
  induction a with
  | nil => simp [leNat]
  | cons x xs ih =>
    simp only [List.cons_append, leNat, List.length_cons, Nat.pow_succ, ih]
    rw [Nat.mul_add, Nat.mul_comm (256 ^ xs.length) 256, Nat.mul_assoc, Nat.add_assoc]

theorem leNat_lt (a : List Byte) : leNat a < 256 ^ a.length := by
  induction a with
  | nil => simp [leNat]
  | cons x xs ih =>
    have hx : x.toNat < 256 := x.isLt
    simp only [leNat, List.length_cons, Nat.pow_succ]
    omega

/-- A part of the first bytes. -/
theorem slice_left (a b : List Byte) (o n : Nat) (h : o + n ≤ a.length) : slice (a ++ b) o n = slice a o n := by
  unfold slice
  rw [List.drop_append_of_le_length (by omega), List.take_append_of_le_length (by simp; omega)]

/-- A part of the bytes after the first ones. -/
theorem slice_right (a b : List Byte) (o n : Nat) : slice (a ++ b) (a.length + o) n = slice b o n := by
  unfold slice
  have h : a.drop (a.length + o) = [] := List.drop_eq_nil_of_le (by omega)
  simp [List.drop_append, h]

/-- All the bytes. -/
theorem slice_all (a : List Byte) : slice a 0 a.length = a := by simp [slice]

theorem leAt_left (a b : List Byte) (o n : Nat) (h : o + n ≤ a.length) : leAt (a ++ b) o n = leAt a o n := by
  simp [leAt, slice_left a b o n h]

theorem leAt_right (a b : List Byte) (o n : Nat) : leAt (a ++ b) (a.length + o) n = leAt b o n := by
  simp [leAt, slice_right]

/-- The low bytes of a number in bytes. -/
theorem leAt_low (n k v : Nat) (h : k ≤ n) : leAt (leBytes n v) 0 k = v % 256 ^ k := by
  unfold leAt slice
  have : ((leBytes n v).drop 0).take k = leBytes k v := by
    induction k generalizing n v with
    | zero => simp [leBytes]
    | succ k ih =>
      obtain ⟨n, rfl⟩ : ∃ m, n = m + 1 := ⟨n - 1, by omega⟩
      simpa [leBytes] using ih n (v / 256) (by omega)
  rw [this]
  simp

end Sys2Proof.Machine
end

