-- ==== Sys2Proof/Laws/Foreground.lean ====
section
/-! SUPPORT. What a foreground request to the shared units can do (R107 to R109): it changes the wheel and the counters of its units. -/

namespace Sys2Proof.Machine

theorem Mod.fgAt_cases (m : Mod) (u t : Nat) : ∃ w r, m.fgAt u t = { m with wheel := w, regs := r } := by
  unfold Mod.fgAt
  split
  · exact ⟨_, _, rfl⟩
  · split
    · exact ⟨m.wheel, m.regs, rfl⟩
    · split
      · unfold Mod.lend
        split
        · exact ⟨m.wheel, m.regs, rfl⟩
        · exact ⟨_, _, rfl⟩
      · exact ⟨_, m.regs, rfl⟩

theorem fgFold_cases (us : List Nat) (t : Nat) (m : Mod) :
    ∃ w r, us.foldl (fun m u => m.fgAt u t) m = { m with wheel := w, regs := r } := by
  induction us generalizing m with
  | nil => exact ⟨m.wheel, m.regs, rfl⟩
  | cons u us ih =>
    obtain ⟨w, r, h⟩ := m.fgAt_cases u t
    obtain ⟨w', r', h'⟩ := ih (m.fgAt u t)
    exact ⟨w', r', by rw [List.foldl_cons, h', h]⟩

theorem Mod.fgUse_cases (m : Mod) (us : List Nat) : ∃ w r, m.fgUse us = { m with wheel := w, regs := r } := fgFold_cases us m.ns m

@[simp] theorem Mod.fgUse_nil (m : Mod) : m.fgUse [] = m := rfl
@[simp] theorem Mod.fgUse_latches (m : Mod) (us : List Nat) : (m.fgUse us).latches = m.latches := by
  obtain ⟨w, r, h⟩ := m.fgUse_cases us; rw [h]
@[simp] theorem Mod.fgUse_outs (m : Mod) (us : List Nat) : (m.fgUse us).outs = m.outs := by
  obtain ⟨w, r, h⟩ := m.fgUse_cases us; rw [h]
@[simp] theorem Mod.fgUse_drawn (m : Mod) (us : List Nat) : (m.fgUse us).drawn = m.drawn := by
  obtain ⟨w, r, h⟩ := m.fgUse_cases us; rw [h]
@[simp] theorem Mod.fgUse_powered (m : Mod) (us : List Nat) : (m.fgUse us).powered = m.powered := by
  obtain ⟨w, r, h⟩ := m.fgUse_cases us; rw [h]
@[simp] theorem Mod.fgUse_tripped (m : Mod) (us : List Nat) : (m.fgUse us).tripped = m.tripped := by
  obtain ⟨w, r, h⟩ := m.fgUse_cases us; rw [h]
@[simp] theorem Mod.fgUse_perst (m : Mod) (us : List Nat) : (m.fgUse us).perst = m.perst := by
  obtain ⟨w, r, h⟩ := m.fgUse_cases us; rw [h]
@[simp] theorem Mod.fgUse_ownReset (m : Mod) (us : List Nat) : (m.fgUse us).ownReset = m.ownReset := by
  obtain ⟨w, r, h⟩ := m.fgUse_cases us; rw [h]
@[simp] theorem Mod.fgUse_holds (m : Mod) (us : List Nat) : (m.fgUse us).holds = m.holds := by
  obtain ⟨w, r, h⟩ := m.fgUse_cases us; rw [h]
@[simp] theorem Mod.fgUse_pwr (m : Mod) (us : List Nat) : (m.fgUse us).pwr = m.pwr := by
  obtain ⟨w, r, h⟩ := m.fgUse_cases us; rw [h]
@[simp] theorem Mod.fgUse_ecc (m : Mod) (us : List Nat) : (m.fgUse us).ecc = m.ecc := by
  obtain ⟨w, r, h⟩ := m.fgUse_cases us; rw [h]
@[simp] theorem Mod.fgUse_now (m : Mod) (us : List Nat) : (m.fgUse us).now = m.now := by
  obtain ⟨w, r, h⟩ := m.fgUse_cases us; rw [h]
@[simp] theorem Mod.fgUse_alog (m : Mod) (us : List Nat) : (m.fgUse us).alog = m.alog := by
  obtain ⟨w, r, h⟩ := m.fgUse_cases us; rw [h]
@[simp] theorem Mod.fgUse_logq (m : Mod) (us : List Nat) : (m.fgUse us).logq = m.logq := by
  obtain ⟨w, r, h⟩ := m.fgUse_cases us; rw [h]
@[simp] theorem Mod.fgUse_fit (m : Mod) (us : List Nat) : (m.fgUse us).fit = m.fit := by
  obtain ⟨w, r, h⟩ := m.fgUse_cases us; rw [h]
@[simp] theorem Mod.fgUse_cut (m : Mod) (us : List Nat) : (m.fgUse us).cut = m.cut := by
  obtain ⟨w, r, h⟩ := m.fgUse_cases us; rw [h]
@[simp] theorem Mod.fgUse_locks (m : Mod) (us : List Nat) : (m.fgUse us).locks = m.locks := by
  obtain ⟨w, r, h⟩ := m.fgUse_cases us; rw [h]
@[simp] theorem Mod.fgUse_mbxStored (m : Mod) (us : List Nat) : (m.fgUse us).mbxStored = m.mbxStored := by
  obtain ⟨w, r, h⟩ := m.fgUse_cases us; rw [h]
@[simp] theorem Mod.fgUse_mbxGone (m : Mod) (us : List Nat) : (m.fgUse us).mbxGone = m.mbxGone := by
  obtain ⟨w, r, h⟩ := m.fgUse_cases us; rw [h]
@[simp] theorem Mod.fgUse_tl (m : Mod) (us : List Nat) : (m.fgUse us).tl = m.tl := by
  obtain ⟨w, r, h⟩ := m.fgUse_cases us; rw [h]
@[simp] theorem Mod.fgUse_tack (m : Mod) (us : List Nat) : (m.fgUse us).tack = m.tack := by
  obtain ⟨w, r, h⟩ := m.fgUse_cases us; rw [h]
@[simp] theorem Mod.fgUse_replies (m : Mod) (us : List Nat) : (m.fgUse us).replies = m.replies := by
  obtain ⟨w, r, h⟩ := m.fgUse_cases us; rw [h]
@[simp] theorem Mod.fgUse_txns (m : Mod) (us : List Nat) : (m.fgUse us).txns = m.txns := by
  obtain ⟨w, r, h⟩ := m.fgUse_cases us; rw [h]
@[simp] theorem Mod.fgUse_txnEnds (m : Mod) (us : List Nat) : (m.fgUse us).txnEnds = m.txnEnds := by
  obtain ⟨w, r, h⟩ := m.fgUse_cases us; rw [h]
@[simp] theorem Mod.fgUse_plt (m : Mod) (us : List Nat) : (m.fgUse us).plt = m.plt := by
  obtain ⟨w, r, h⟩ := m.fgUse_cases us; rw [h]
@[simp] theorem Mod.fgUse_hem (m : Mod) (us : List Nat) : (m.fgUse us).hem = m.hem := by
  obtain ⟨w, r, h⟩ := m.fgUse_cases us; rw [h]
@[simp] theorem Mod.fgUse_hsub (m : Mod) (us : List Nat) : (m.fgUse us).hsub = m.hsub := by
  obtain ⟨w, r, h⟩ := m.fgUse_cases us; rw [h]
@[simp] theorem Mod.fgUse_hcopy (m : Mod) (us : List Nat) : (m.fgUse us).hcopy = m.hcopy := by
  obtain ⟨w, r, h⟩ := m.fgUse_cases us; rw [h]
@[simp] theorem Mod.fgUse_prt (m : Mod) (us : List Nat) : (m.fgUse us).prt = m.prt := by
  obtain ⟨w, r, h⟩ := m.fgUse_cases us; rw [h]
@[simp] theorem Mod.fgUse_bob (m : Mod) (us : List Nat) : (m.fgUse us).bob = m.bob := by
  obtain ⟨w, r, h⟩ := m.fgUse_cases us; rw [h]
@[simp] theorem Mod.fgUse_pat (m : Mod) (us : List Nat) : (m.fgUse us).pat = m.pat := by
  obtain ⟨w, r, h⟩ := m.fgUse_cases us; rw [h]
@[simp] theorem Mod.fgUse_shu (m : Mod) (us : List Nat) : (m.fgUse us).shu = m.shu := by
  obtain ⟨w, r, h⟩ := m.fgUse_cases us; rw [h]
@[simp] theorem Mod.fgUse_spl (m : Mod) (us : List Nat) : (m.fgUse us).spl = m.spl := by
  obtain ⟨w, r, h⟩ := m.fgUse_cases us; rw [h]
@[simp] theorem Mod.fgUse_thm (m : Mod) (us : List Nat) : (m.fgUse us).thm = m.thm := by
  obtain ⟨w, r, h⟩ := m.fgUse_cases us; rw [h]
@[simp] theorem Mod.fgUse_msix (m : Mod) (us : List Nat) : (m.fgUse us).msix = m.msix := by
  obtain ⟨w, r, h⟩ := m.fgUse_cases us; rw [h]
@[simp] theorem Mod.fgUse_sel (m : Mod) (us : List Nat) : (m.fgUse us).sel = m.sel := by
  obtain ⟨w, r, h⟩ := m.fgUse_cases us; rw [h]
@[simp] theorem Mod.fgUse_sto (m : Mod) (us : List Nat) : (m.fgUse us).sto = m.sto := by
  obtain ⟨w, r, h⟩ := m.fgUse_cases us; rw [h]
@[simp] theorem Mod.fgUse_jxl (m : Mod) (us : List Nat) : (m.fgUse us).jxl = m.jxl := by
  obtain ⟨w, r, h⟩ := m.fgUse_cases us; rw [h]
@[simp] theorem Mod.fgUse_chalk (m : Mod) (us : List Nat) : (m.fgUse us).chalk = m.chalk := by
  obtain ⟨w, r, h⟩ := m.fgUse_cases us; rw [h]
@[simp] theorem Mod.fgUse_img (m : Mod) (us : List Nat) : (m.fgUse us).img = m.img := by
  obtain ⟨w, r, h⟩ := m.fgUse_cases us; rw [h]

end Sys2Proof.Machine
end

