-- ==== Sys2Proof/Laws/Memory.lean ====
section
/-! SUPPORT. The microcode data region as a list in one canonical form: reading after writing, and that every write keeps
the form. -/

namespace Sys2Proof.Machine

theorem memAbove_mono {lo lo' : Option Nat} (h : ∀ a, (match lo with | some l => l < a | none => True) →
    (match lo' with | some l => l < a | none => True)) (l : List Host.Cell) (hl : memAbove lo l = true) : memAbove lo' l = true := by
  cases l with
  | nil => rfl
  | cons e t =>
    obtain ⟨a, v⟩ := e
    simp only [memAbove, Bool.and_eq_true] at hl ⊢
    refine ⟨⟨?_, hl.1.2⟩, hl.2⟩
    have h1 := hl.1.1
    cases lo with
    | none => have := h a trivial; cases lo' <;> simp_all
    | some x => have := h a (by simpa using h1); cases lo' <;> simp_all

theorem memAbove_none {lo : Option Nat} {l : List Host.Cell} (h : memAbove lo l = true) : memAbove none l = true :=
  memAbove_mono (fun _ _ => trivial) l h

/-- A write keeps the form, above any bound below its address. -/
theorem memPut_above (l : List Host.Cell) : ∀ (lo : Option Nat) (a : Nat) (v : Byte),
    (match lo with | some x => x < a | none => True) → memAbove lo l = true → memAbove lo (memPut l a v) = true := by
  induction l with
  | nil =>
    intro lo a v h _
    unfold memPut
    split
    · rfl
    · cases lo <;> simp_all [memAbove]
  | cons e t ih =>
    intro lo a v h hl
    obtain ⟨b, w⟩ := e
    simp only [memAbove, Bool.and_eq_true] at hl
    have h0 : (match lo with | some x => x < b | none => True) := by
      cases lo with
      | none => trivial
      | some x => simpa using hl.1.1
    unfold memPut
    split
    · rename_i hab
      split
      · simp only [memAbove, Bool.and_eq_true]; exact hl
      · have : memAbove (some a) ((b, w) :: t) = true := by
          simp only [memAbove, Bool.and_eq_true, decide_eq_true_eq]
          exact ⟨⟨hab, by simpa using hl.1.2⟩, hl.2⟩
        cases lo <;> simp_all [memAbove]
    · split
      · rename_i hab; subst hab
        split
        · refine memAbove_mono (lo := some a) ?_ t hl.2
          intro x hx
          cases lo with
          | none => trivial
          | some y => exact Nat.lt_trans h0 hx
        · cases lo <;> simp_all [memAbove]
      · have h2 : b < a := by omega
        have := ih (some b) a v h2 hl.2
        simp only [memAbove, Bool.and_eq_true]
        exact ⟨hl.1, this⟩

/-- A write of one byte keeps the canonical form. -/
theorem memPut_wf {l : List Host.Cell} (h : Memory.wf l = true) (a : Nat) (v : Byte) : Memory.wf (memPut l a v) = true :=
  memPut_above l none a v trivial h

/-- A write of bytes keeps the canonical form. -/
theorem memPutBytes_wf (bs : List Byte) : ∀ {l : List Host.Cell} (_ : Memory.wf l = true) (a : Nat),
    Memory.wf (memPutBytes l a bs) = true := by
  induction bs with
  | nil => intro l h a; exact h
  | cons b bs ih => intro l h a; exact ih (memPut_wf h a b) (a + 1)

/-- Below every listed address the default reads. -/
theorem memGet_below {l : List Host.Cell} : ∀ {b a : Nat}, memAbove (some b) l = true → a ≤ b → memGet l a = memDefault := by
  induction l with
  | nil => intro b a _ _; rfl
  | cons e t ih =>
    intro b a h hab
    obtain ⟨c, w⟩ := e
    simp only [memAbove, Bool.and_eq_true, decide_eq_true_eq] at h
    have hc : b < c := h.1.1
    unfold memGet
    rw [if_neg (by omega)]
    exact ih h.2 (by omega)

/-- A read after a write of one byte. -/
theorem memGet_memPut {l : List Host.Cell} : ∀ (lo : Option Nat), memAbove lo l = true → ∀ (a : Nat) (v : Byte) (x : Nat),
    memGet (memPut l a v) x = if x = a then v else memGet l x := by
  induction l with
  | nil =>
    intro lo _ a v x
    unfold memPut
    by_cases h : x = a
    · subst h
      split <;> simp_all [memGet]
    · split <;> simp [memGet, Ne.symm h]
  | cons e t ih =>
    intro lo hl a v x
    obtain ⟨b, w⟩ := e
    simp only [memAbove, Bool.and_eq_true] at hl
    unfold memPut
    split
    · rename_i hab
      have hb : memGet ((b, w) :: t) a = memDefault := by
        unfold memGet
        rw [if_neg (by omega)]
        exact memGet_below hl.2 (by omega)
      split
      · by_cases h : x = a
        · subst h; simp_all
        · simp [h]
      · by_cases h : x = a
        · simp [memGet, h]
        · rw [if_neg h]
          show (if a = x then v else memGet ((b, w) :: t) x) = _
          rw [if_neg (Ne.symm h)]
    · split
      · rename_i hab; subst hab
        split
        · by_cases h : x = a
          · subst h; rw [if_pos rfl, memGet_below hl.2 (Nat.le_refl _)]; simp_all
          · simp [h, memGet, Ne.symm h]
        · by_cases h : x = a
          · simp [h, memGet]
          · simp [h, memGet, Ne.symm h]
      · have := ih (some b) hl.2 a v x
        by_cases h : x = a
        · subst h
          simp [memGet, this]
          omega
        · simp [memGet, this, h]

/-- A read after a write of bytes, in a list of the canonical form. -/
theorem memGet_memPutBytes (bs : List Byte) : ∀ {l : List Host.Cell} (_ : Memory.wf l = true) (a x : Nat),
    memGet (memPutBytes l a bs) x = if a ≤ x ∧ x < a + bs.length then bs.getD (x - a) 0 else memGet l x := by
  induction bs with
  | nil =>
    intro l _ a x
    rw [if_neg (by simp only [List.length_nil]; omega)]
    rfl
  | cons b bs ih =>
    intro l h a x
    show memGet (memPutBytes (memPut l a b) (a + 1) bs) x = _
    rw [ih (memPut_wf h a b), memGet_memPut none h]
    by_cases h1 : x = a
    · subst h1
      rw [if_neg (by omega), if_pos rfl, if_pos (by simp)]; simp
    · by_cases h2 : a + 1 ≤ x ∧ x < a + 1 + bs.length
      · have h3 : x - a = (x - (a + 1)) + 1 := by omega
        rw [if_pos h2, if_pos (by simp; omega), h3]; simp
      · rw [if_neg h2, if_neg h1, if_neg (by simp; omega)]

end Sys2Proof.Machine
end

