-- ==== Sys2Proof/Laws/State.lean ====
section
/-! SUPPORT. What the updates of the module's state leave alone: one lemma per field and update, true by computation. -/

namespace Sys2Proof.Machine

/-! ### `Mod.set` -/

@[simp] theorem Mod.set_latches (m : Mod) (f : Fld) (ix : List Nat) (v : Nat) : (m.set f ix v).latches = m.latches := rfl
@[simp] theorem Mod.set_outs (m : Mod) (f : Fld) (ix : List Nat) (v : Nat) : (m.set f ix v).outs = m.outs := rfl
@[simp] theorem Mod.set_drawn (m : Mod) (f : Fld) (ix : List Nat) (v : Nat) : (m.set f ix v).drawn = m.drawn := rfl
@[simp] theorem Mod.set_powered (m : Mod) (f : Fld) (ix : List Nat) (v : Nat) : (m.set f ix v).powered = m.powered := rfl
@[simp] theorem Mod.set_tripped (m : Mod) (f : Fld) (ix : List Nat) (v : Nat) : (m.set f ix v).tripped = m.tripped := rfl
@[simp] theorem Mod.set_perst (m : Mod) (f : Fld) (ix : List Nat) (v : Nat) : (m.set f ix v).perst = m.perst := rfl
@[simp] theorem Mod.set_ownReset (m : Mod) (f : Fld) (ix : List Nat) (v : Nat) : (m.set f ix v).ownReset = m.ownReset := rfl
@[simp] theorem Mod.set_holds (m : Mod) (f : Fld) (ix : List Nat) (v : Nat) : (m.set f ix v).holds = m.holds := rfl
@[simp] theorem Mod.set_pwr (m : Mod) (f : Fld) (ix : List Nat) (v : Nat) : (m.set f ix v).pwr = m.pwr := rfl
@[simp] theorem Mod.set_ecc (m : Mod) (f : Fld) (ix : List Nat) (v : Nat) : (m.set f ix v).ecc = m.ecc := rfl
@[simp] theorem Mod.set_now (m : Mod) (f : Fld) (ix : List Nat) (v : Nat) : (m.set f ix v).now = m.now := rfl
@[simp] theorem Mod.set_alog (m : Mod) (f : Fld) (ix : List Nat) (v : Nat) : (m.set f ix v).alog = m.alog := rfl
@[simp] theorem Mod.set_logq (m : Mod) (f : Fld) (ix : List Nat) (v : Nat) : (m.set f ix v).logq = m.logq := rfl
@[simp] theorem Mod.set_fit (m : Mod) (f : Fld) (ix : List Nat) (v : Nat) : (m.set f ix v).fit = m.fit := rfl
@[simp] theorem Mod.set_cut (m : Mod) (f : Fld) (ix : List Nat) (v : Nat) : (m.set f ix v).cut = m.cut := rfl
@[simp] theorem Mod.set_locks (m : Mod) (f : Fld) (ix : List Nat) (v : Nat) : (m.set f ix v).locks = m.locks := rfl
@[simp] theorem Mod.set_mbxStored (m : Mod) (f : Fld) (ix : List Nat) (v : Nat) : (m.set f ix v).mbxStored = m.mbxStored := rfl
@[simp] theorem Mod.set_mbxGone (m : Mod) (f : Fld) (ix : List Nat) (v : Nat) : (m.set f ix v).mbxGone = m.mbxGone := rfl
@[simp] theorem Mod.set_tl (m : Mod) (f : Fld) (ix : List Nat) (v : Nat) : (m.set f ix v).tl = m.tl := rfl
@[simp] theorem Mod.set_tack (m : Mod) (f : Fld) (ix : List Nat) (v : Nat) : (m.set f ix v).tack = m.tack := rfl
@[simp] theorem Mod.set_wheel (m : Mod) (f : Fld) (ix : List Nat) (v : Nat) : (m.set f ix v).wheel = m.wheel := rfl
@[simp] theorem Mod.set_replies (m : Mod) (f : Fld) (ix : List Nat) (v : Nat) : (m.set f ix v).replies = m.replies := rfl
@[simp] theorem Mod.set_txns (m : Mod) (f : Fld) (ix : List Nat) (v : Nat) : (m.set f ix v).txns = m.txns := rfl
@[simp] theorem Mod.set_txnEnds (m : Mod) (f : Fld) (ix : List Nat) (v : Nat) : (m.set f ix v).txnEnds = m.txnEnds := rfl
@[simp] theorem Mod.set_plt (m : Mod) (f : Fld) (ix : List Nat) (v : Nat) : (m.set f ix v).plt = m.plt := rfl
@[simp] theorem Mod.set_hem (m : Mod) (f : Fld) (ix : List Nat) (v : Nat) : (m.set f ix v).hem = m.hem := rfl
@[simp] theorem Mod.set_hsub (m : Mod) (f : Fld) (ix : List Nat) (v : Nat) : (m.set f ix v).hsub = m.hsub := rfl
@[simp] theorem Mod.set_hcopy (m : Mod) (f : Fld) (ix : List Nat) (v : Nat) : (m.set f ix v).hcopy = m.hcopy := rfl
@[simp] theorem Mod.set_prt (m : Mod) (f : Fld) (ix : List Nat) (v : Nat) : (m.set f ix v).prt = m.prt := rfl
@[simp] theorem Mod.set_bob (m : Mod) (f : Fld) (ix : List Nat) (v : Nat) : (m.set f ix v).bob = m.bob := rfl
@[simp] theorem Mod.set_pat (m : Mod) (f : Fld) (ix : List Nat) (v : Nat) : (m.set f ix v).pat = m.pat := rfl
@[simp] theorem Mod.set_shu (m : Mod) (f : Fld) (ix : List Nat) (v : Nat) : (m.set f ix v).shu = m.shu := rfl
@[simp] theorem Mod.set_spl (m : Mod) (f : Fld) (ix : List Nat) (v : Nat) : (m.set f ix v).spl = m.spl := rfl
@[simp] theorem Mod.set_thm (m : Mod) (f : Fld) (ix : List Nat) (v : Nat) : (m.set f ix v).thm = m.thm := rfl
@[simp] theorem Mod.set_msix (m : Mod) (f : Fld) (ix : List Nat) (v : Nat) : (m.set f ix v).msix = m.msix := rfl
@[simp] theorem Mod.set_sel (m : Mod) (f : Fld) (ix : List Nat) (v : Nat) : (m.set f ix v).sel = m.sel := rfl
@[simp] theorem Mod.set_sto (m : Mod) (f : Fld) (ix : List Nat) (v : Nat) : (m.set f ix v).sto = m.sto := rfl
@[simp] theorem Mod.set_jxl (m : Mod) (f : Fld) (ix : List Nat) (v : Nat) : (m.set f ix v).jxl = m.jxl := rfl
@[simp] theorem Mod.set_chalk (m : Mod) (f : Fld) (ix : List Nat) (v : Nat) : (m.set f ix v).chalk = m.chalk := rfl
@[simp] theorem Mod.set_img (m : Mod) (f : Fld) (ix : List Nat) (v : Nat) : (m.set f ix v).img = m.img := rfl

/-! ### `Mod.setFlag` -/

@[simp] theorem Mod.setFlag_latches (m : Mod) (f : Fld) (ix : List Nat) (b : Bool) : (m.setFlag f ix b).latches = m.latches := rfl
@[simp] theorem Mod.setFlag_outs (m : Mod) (f : Fld) (ix : List Nat) (b : Bool) : (m.setFlag f ix b).outs = m.outs := rfl
@[simp] theorem Mod.setFlag_drawn (m : Mod) (f : Fld) (ix : List Nat) (b : Bool) : (m.setFlag f ix b).drawn = m.drawn := rfl
@[simp] theorem Mod.setFlag_powered (m : Mod) (f : Fld) (ix : List Nat) (b : Bool) : (m.setFlag f ix b).powered = m.powered := rfl
@[simp] theorem Mod.setFlag_tripped (m : Mod) (f : Fld) (ix : List Nat) (b : Bool) : (m.setFlag f ix b).tripped = m.tripped := rfl
@[simp] theorem Mod.setFlag_perst (m : Mod) (f : Fld) (ix : List Nat) (b : Bool) : (m.setFlag f ix b).perst = m.perst := rfl
@[simp] theorem Mod.setFlag_ownReset (m : Mod) (f : Fld) (ix : List Nat) (b : Bool) : (m.setFlag f ix b).ownReset = m.ownReset := rfl
@[simp] theorem Mod.setFlag_holds (m : Mod) (f : Fld) (ix : List Nat) (b : Bool) : (m.setFlag f ix b).holds = m.holds := rfl
@[simp] theorem Mod.setFlag_pwr (m : Mod) (f : Fld) (ix : List Nat) (b : Bool) : (m.setFlag f ix b).pwr = m.pwr := rfl
@[simp] theorem Mod.setFlag_ecc (m : Mod) (f : Fld) (ix : List Nat) (b : Bool) : (m.setFlag f ix b).ecc = m.ecc := rfl
@[simp] theorem Mod.setFlag_now (m : Mod) (f : Fld) (ix : List Nat) (b : Bool) : (m.setFlag f ix b).now = m.now := rfl
@[simp] theorem Mod.setFlag_alog (m : Mod) (f : Fld) (ix : List Nat) (b : Bool) : (m.setFlag f ix b).alog = m.alog := rfl
@[simp] theorem Mod.setFlag_logq (m : Mod) (f : Fld) (ix : List Nat) (b : Bool) : (m.setFlag f ix b).logq = m.logq := rfl
@[simp] theorem Mod.setFlag_fit (m : Mod) (f : Fld) (ix : List Nat) (b : Bool) : (m.setFlag f ix b).fit = m.fit := rfl
@[simp] theorem Mod.setFlag_cut (m : Mod) (f : Fld) (ix : List Nat) (b : Bool) : (m.setFlag f ix b).cut = m.cut := rfl
@[simp] theorem Mod.setFlag_locks (m : Mod) (f : Fld) (ix : List Nat) (b : Bool) : (m.setFlag f ix b).locks = m.locks := rfl
@[simp] theorem Mod.setFlag_mbxStored (m : Mod) (f : Fld) (ix : List Nat) (b : Bool) : (m.setFlag f ix b).mbxStored = m.mbxStored := rfl
@[simp] theorem Mod.setFlag_mbxGone (m : Mod) (f : Fld) (ix : List Nat) (b : Bool) : (m.setFlag f ix b).mbxGone = m.mbxGone := rfl
@[simp] theorem Mod.setFlag_tl (m : Mod) (f : Fld) (ix : List Nat) (b : Bool) : (m.setFlag f ix b).tl = m.tl := rfl
@[simp] theorem Mod.setFlag_tack (m : Mod) (f : Fld) (ix : List Nat) (b : Bool) : (m.setFlag f ix b).tack = m.tack := rfl
@[simp] theorem Mod.setFlag_wheel (m : Mod) (f : Fld) (ix : List Nat) (b : Bool) : (m.setFlag f ix b).wheel = m.wheel := rfl
@[simp] theorem Mod.setFlag_replies (m : Mod) (f : Fld) (ix : List Nat) (b : Bool) : (m.setFlag f ix b).replies = m.replies := rfl
@[simp] theorem Mod.setFlag_txns (m : Mod) (f : Fld) (ix : List Nat) (b : Bool) : (m.setFlag f ix b).txns = m.txns := rfl
@[simp] theorem Mod.setFlag_txnEnds (m : Mod) (f : Fld) (ix : List Nat) (b : Bool) : (m.setFlag f ix b).txnEnds = m.txnEnds := rfl
@[simp] theorem Mod.setFlag_plt (m : Mod) (f : Fld) (ix : List Nat) (b : Bool) : (m.setFlag f ix b).plt = m.plt := rfl
@[simp] theorem Mod.setFlag_hem (m : Mod) (f : Fld) (ix : List Nat) (b : Bool) : (m.setFlag f ix b).hem = m.hem := rfl
@[simp] theorem Mod.setFlag_hsub (m : Mod) (f : Fld) (ix : List Nat) (b : Bool) : (m.setFlag f ix b).hsub = m.hsub := rfl
@[simp] theorem Mod.setFlag_hcopy (m : Mod) (f : Fld) (ix : List Nat) (b : Bool) : (m.setFlag f ix b).hcopy = m.hcopy := rfl
@[simp] theorem Mod.setFlag_prt (m : Mod) (f : Fld) (ix : List Nat) (b : Bool) : (m.setFlag f ix b).prt = m.prt := rfl
@[simp] theorem Mod.setFlag_bob (m : Mod) (f : Fld) (ix : List Nat) (b : Bool) : (m.setFlag f ix b).bob = m.bob := rfl
@[simp] theorem Mod.setFlag_pat (m : Mod) (f : Fld) (ix : List Nat) (b : Bool) : (m.setFlag f ix b).pat = m.pat := rfl
@[simp] theorem Mod.setFlag_shu (m : Mod) (f : Fld) (ix : List Nat) (b : Bool) : (m.setFlag f ix b).shu = m.shu := rfl
@[simp] theorem Mod.setFlag_spl (m : Mod) (f : Fld) (ix : List Nat) (b : Bool) : (m.setFlag f ix b).spl = m.spl := rfl
@[simp] theorem Mod.setFlag_thm (m : Mod) (f : Fld) (ix : List Nat) (b : Bool) : (m.setFlag f ix b).thm = m.thm := rfl
@[simp] theorem Mod.setFlag_msix (m : Mod) (f : Fld) (ix : List Nat) (b : Bool) : (m.setFlag f ix b).msix = m.msix := rfl
@[simp] theorem Mod.setFlag_sel (m : Mod) (f : Fld) (ix : List Nat) (b : Bool) : (m.setFlag f ix b).sel = m.sel := rfl
@[simp] theorem Mod.setFlag_sto (m : Mod) (f : Fld) (ix : List Nat) (b : Bool) : (m.setFlag f ix b).sto = m.sto := rfl
@[simp] theorem Mod.setFlag_jxl (m : Mod) (f : Fld) (ix : List Nat) (b : Bool) : (m.setFlag f ix b).jxl = m.jxl := rfl
@[simp] theorem Mod.setFlag_chalk (m : Mod) (f : Fld) (ix : List Nat) (b : Bool) : (m.setFlag f ix b).chalk = m.chalk := rfl
@[simp] theorem Mod.setFlag_img (m : Mod) (f : Fld) (ix : List Nat) (b : Bool) : (m.setFlag f ix b).img = m.img := rfl

/-! ### `Mod.count` -/

@[simp] theorem Mod.count_latches (m : Mod) (f : Fld) (ix : List Nat) (n : Nat) : (m.count f ix n).latches = m.latches := rfl
@[simp] theorem Mod.count_outs (m : Mod) (f : Fld) (ix : List Nat) (n : Nat) : (m.count f ix n).outs = m.outs := rfl
@[simp] theorem Mod.count_drawn (m : Mod) (f : Fld) (ix : List Nat) (n : Nat) : (m.count f ix n).drawn = m.drawn := rfl
@[simp] theorem Mod.count_powered (m : Mod) (f : Fld) (ix : List Nat) (n : Nat) : (m.count f ix n).powered = m.powered := rfl
@[simp] theorem Mod.count_tripped (m : Mod) (f : Fld) (ix : List Nat) (n : Nat) : (m.count f ix n).tripped = m.tripped := rfl
@[simp] theorem Mod.count_perst (m : Mod) (f : Fld) (ix : List Nat) (n : Nat) : (m.count f ix n).perst = m.perst := rfl
@[simp] theorem Mod.count_ownReset (m : Mod) (f : Fld) (ix : List Nat) (n : Nat) : (m.count f ix n).ownReset = m.ownReset := rfl
@[simp] theorem Mod.count_holds (m : Mod) (f : Fld) (ix : List Nat) (n : Nat) : (m.count f ix n).holds = m.holds := rfl
@[simp] theorem Mod.count_pwr (m : Mod) (f : Fld) (ix : List Nat) (n : Nat) : (m.count f ix n).pwr = m.pwr := rfl
@[simp] theorem Mod.count_ecc (m : Mod) (f : Fld) (ix : List Nat) (n : Nat) : (m.count f ix n).ecc = m.ecc := rfl
@[simp] theorem Mod.count_now (m : Mod) (f : Fld) (ix : List Nat) (n : Nat) : (m.count f ix n).now = m.now := rfl
@[simp] theorem Mod.count_alog (m : Mod) (f : Fld) (ix : List Nat) (n : Nat) : (m.count f ix n).alog = m.alog := rfl
@[simp] theorem Mod.count_logq (m : Mod) (f : Fld) (ix : List Nat) (n : Nat) : (m.count f ix n).logq = m.logq := rfl
@[simp] theorem Mod.count_fit (m : Mod) (f : Fld) (ix : List Nat) (n : Nat) : (m.count f ix n).fit = m.fit := rfl
@[simp] theorem Mod.count_cut (m : Mod) (f : Fld) (ix : List Nat) (n : Nat) : (m.count f ix n).cut = m.cut := rfl
@[simp] theorem Mod.count_locks (m : Mod) (f : Fld) (ix : List Nat) (n : Nat) : (m.count f ix n).locks = m.locks := rfl
@[simp] theorem Mod.count_mbxStored (m : Mod) (f : Fld) (ix : List Nat) (n : Nat) : (m.count f ix n).mbxStored = m.mbxStored := rfl
@[simp] theorem Mod.count_mbxGone (m : Mod) (f : Fld) (ix : List Nat) (n : Nat) : (m.count f ix n).mbxGone = m.mbxGone := rfl
@[simp] theorem Mod.count_tl (m : Mod) (f : Fld) (ix : List Nat) (n : Nat) : (m.count f ix n).tl = m.tl := rfl
@[simp] theorem Mod.count_tack (m : Mod) (f : Fld) (ix : List Nat) (n : Nat) : (m.count f ix n).tack = m.tack := rfl
@[simp] theorem Mod.count_wheel (m : Mod) (f : Fld) (ix : List Nat) (n : Nat) : (m.count f ix n).wheel = m.wheel := rfl
@[simp] theorem Mod.count_replies (m : Mod) (f : Fld) (ix : List Nat) (n : Nat) : (m.count f ix n).replies = m.replies := rfl
@[simp] theorem Mod.count_txns (m : Mod) (f : Fld) (ix : List Nat) (n : Nat) : (m.count f ix n).txns = m.txns := rfl
@[simp] theorem Mod.count_txnEnds (m : Mod) (f : Fld) (ix : List Nat) (n : Nat) : (m.count f ix n).txnEnds = m.txnEnds := rfl
@[simp] theorem Mod.count_plt (m : Mod) (f : Fld) (ix : List Nat) (n : Nat) : (m.count f ix n).plt = m.plt := rfl
@[simp] theorem Mod.count_hem (m : Mod) (f : Fld) (ix : List Nat) (n : Nat) : (m.count f ix n).hem = m.hem := rfl
@[simp] theorem Mod.count_hsub (m : Mod) (f : Fld) (ix : List Nat) (n : Nat) : (m.count f ix n).hsub = m.hsub := rfl
@[simp] theorem Mod.count_hcopy (m : Mod) (f : Fld) (ix : List Nat) (n : Nat) : (m.count f ix n).hcopy = m.hcopy := rfl
@[simp] theorem Mod.count_prt (m : Mod) (f : Fld) (ix : List Nat) (n : Nat) : (m.count f ix n).prt = m.prt := rfl
@[simp] theorem Mod.count_bob (m : Mod) (f : Fld) (ix : List Nat) (n : Nat) : (m.count f ix n).bob = m.bob := rfl
@[simp] theorem Mod.count_pat (m : Mod) (f : Fld) (ix : List Nat) (n : Nat) : (m.count f ix n).pat = m.pat := rfl
@[simp] theorem Mod.count_shu (m : Mod) (f : Fld) (ix : List Nat) (n : Nat) : (m.count f ix n).shu = m.shu := rfl
@[simp] theorem Mod.count_spl (m : Mod) (f : Fld) (ix : List Nat) (n : Nat) : (m.count f ix n).spl = m.spl := rfl
@[simp] theorem Mod.count_thm (m : Mod) (f : Fld) (ix : List Nat) (n : Nat) : (m.count f ix n).thm = m.thm := rfl
@[simp] theorem Mod.count_msix (m : Mod) (f : Fld) (ix : List Nat) (n : Nat) : (m.count f ix n).msix = m.msix := rfl
@[simp] theorem Mod.count_sel (m : Mod) (f : Fld) (ix : List Nat) (n : Nat) : (m.count f ix n).sel = m.sel := rfl
@[simp] theorem Mod.count_sto (m : Mod) (f : Fld) (ix : List Nat) (n : Nat) : (m.count f ix n).sto = m.sto := rfl
@[simp] theorem Mod.count_jxl (m : Mod) (f : Fld) (ix : List Nat) (n : Nat) : (m.count f ix n).jxl = m.jxl := rfl
@[simp] theorem Mod.count_chalk (m : Mod) (f : Fld) (ix : List Nat) (n : Nat) : (m.count f ix n).chalk = m.chalk := rfl
@[simp] theorem Mod.count_img (m : Mod) (f : Fld) (ix : List Nat) (n : Nat) : (m.count f ix n).img = m.img := rfl

/-! ### `Mod.countSat` -/

@[simp] theorem Mod.countSat_latches (m : Mod) (f : Fld) (ix : List Nat) (n : Nat) : (m.countSat f ix n).latches = m.latches := rfl
@[simp] theorem Mod.countSat_outs (m : Mod) (f : Fld) (ix : List Nat) (n : Nat) : (m.countSat f ix n).outs = m.outs := rfl
@[simp] theorem Mod.countSat_drawn (m : Mod) (f : Fld) (ix : List Nat) (n : Nat) : (m.countSat f ix n).drawn = m.drawn := rfl
@[simp] theorem Mod.countSat_powered (m : Mod) (f : Fld) (ix : List Nat) (n : Nat) : (m.countSat f ix n).powered = m.powered := rfl
@[simp] theorem Mod.countSat_tripped (m : Mod) (f : Fld) (ix : List Nat) (n : Nat) : (m.countSat f ix n).tripped = m.tripped := rfl
@[simp] theorem Mod.countSat_perst (m : Mod) (f : Fld) (ix : List Nat) (n : Nat) : (m.countSat f ix n).perst = m.perst := rfl
@[simp] theorem Mod.countSat_ownReset (m : Mod) (f : Fld) (ix : List Nat) (n : Nat) : (m.countSat f ix n).ownReset = m.ownReset := rfl
@[simp] theorem Mod.countSat_holds (m : Mod) (f : Fld) (ix : List Nat) (n : Nat) : (m.countSat f ix n).holds = m.holds := rfl
@[simp] theorem Mod.countSat_pwr (m : Mod) (f : Fld) (ix : List Nat) (n : Nat) : (m.countSat f ix n).pwr = m.pwr := rfl
@[simp] theorem Mod.countSat_ecc (m : Mod) (f : Fld) (ix : List Nat) (n : Nat) : (m.countSat f ix n).ecc = m.ecc := rfl
@[simp] theorem Mod.countSat_now (m : Mod) (f : Fld) (ix : List Nat) (n : Nat) : (m.countSat f ix n).now = m.now := rfl
@[simp] theorem Mod.countSat_alog (m : Mod) (f : Fld) (ix : List Nat) (n : Nat) : (m.countSat f ix n).alog = m.alog := rfl
@[simp] theorem Mod.countSat_logq (m : Mod) (f : Fld) (ix : List Nat) (n : Nat) : (m.countSat f ix n).logq = m.logq := rfl
@[simp] theorem Mod.countSat_fit (m : Mod) (f : Fld) (ix : List Nat) (n : Nat) : (m.countSat f ix n).fit = m.fit := rfl
@[simp] theorem Mod.countSat_cut (m : Mod) (f : Fld) (ix : List Nat) (n : Nat) : (m.countSat f ix n).cut = m.cut := rfl
@[simp] theorem Mod.countSat_locks (m : Mod) (f : Fld) (ix : List Nat) (n : Nat) : (m.countSat f ix n).locks = m.locks := rfl
@[simp] theorem Mod.countSat_mbxStored (m : Mod) (f : Fld) (ix : List Nat) (n : Nat) : (m.countSat f ix n).mbxStored = m.mbxStored := rfl
@[simp] theorem Mod.countSat_mbxGone (m : Mod) (f : Fld) (ix : List Nat) (n : Nat) : (m.countSat f ix n).mbxGone = m.mbxGone := rfl
@[simp] theorem Mod.countSat_tl (m : Mod) (f : Fld) (ix : List Nat) (n : Nat) : (m.countSat f ix n).tl = m.tl := rfl
@[simp] theorem Mod.countSat_tack (m : Mod) (f : Fld) (ix : List Nat) (n : Nat) : (m.countSat f ix n).tack = m.tack := rfl
@[simp] theorem Mod.countSat_wheel (m : Mod) (f : Fld) (ix : List Nat) (n : Nat) : (m.countSat f ix n).wheel = m.wheel := rfl
@[simp] theorem Mod.countSat_replies (m : Mod) (f : Fld) (ix : List Nat) (n : Nat) : (m.countSat f ix n).replies = m.replies := rfl
@[simp] theorem Mod.countSat_txns (m : Mod) (f : Fld) (ix : List Nat) (n : Nat) : (m.countSat f ix n).txns = m.txns := rfl
@[simp] theorem Mod.countSat_txnEnds (m : Mod) (f : Fld) (ix : List Nat) (n : Nat) : (m.countSat f ix n).txnEnds = m.txnEnds := rfl
@[simp] theorem Mod.countSat_plt (m : Mod) (f : Fld) (ix : List Nat) (n : Nat) : (m.countSat f ix n).plt = m.plt := rfl
@[simp] theorem Mod.countSat_hem (m : Mod) (f : Fld) (ix : List Nat) (n : Nat) : (m.countSat f ix n).hem = m.hem := rfl
@[simp] theorem Mod.countSat_hsub (m : Mod) (f : Fld) (ix : List Nat) (n : Nat) : (m.countSat f ix n).hsub = m.hsub := rfl
@[simp] theorem Mod.countSat_hcopy (m : Mod) (f : Fld) (ix : List Nat) (n : Nat) : (m.countSat f ix n).hcopy = m.hcopy := rfl
@[simp] theorem Mod.countSat_prt (m : Mod) (f : Fld) (ix : List Nat) (n : Nat) : (m.countSat f ix n).prt = m.prt := rfl
@[simp] theorem Mod.countSat_bob (m : Mod) (f : Fld) (ix : List Nat) (n : Nat) : (m.countSat f ix n).bob = m.bob := rfl
@[simp] theorem Mod.countSat_pat (m : Mod) (f : Fld) (ix : List Nat) (n : Nat) : (m.countSat f ix n).pat = m.pat := rfl
@[simp] theorem Mod.countSat_shu (m : Mod) (f : Fld) (ix : List Nat) (n : Nat) : (m.countSat f ix n).shu = m.shu := rfl
@[simp] theorem Mod.countSat_spl (m : Mod) (f : Fld) (ix : List Nat) (n : Nat) : (m.countSat f ix n).spl = m.spl := rfl
@[simp] theorem Mod.countSat_thm (m : Mod) (f : Fld) (ix : List Nat) (n : Nat) : (m.countSat f ix n).thm = m.thm := rfl
@[simp] theorem Mod.countSat_msix (m : Mod) (f : Fld) (ix : List Nat) (n : Nat) : (m.countSat f ix n).msix = m.msix := rfl
@[simp] theorem Mod.countSat_sel (m : Mod) (f : Fld) (ix : List Nat) (n : Nat) : (m.countSat f ix n).sel = m.sel := rfl
@[simp] theorem Mod.countSat_sto (m : Mod) (f : Fld) (ix : List Nat) (n : Nat) : (m.countSat f ix n).sto = m.sto := rfl
@[simp] theorem Mod.countSat_jxl (m : Mod) (f : Fld) (ix : List Nat) (n : Nat) : (m.countSat f ix n).jxl = m.jxl := rfl
@[simp] theorem Mod.countSat_chalk (m : Mod) (f : Fld) (ix : List Nat) (n : Nat) : (m.countSat f ix n).chalk = m.chalk := rfl
@[simp] theorem Mod.countSat_img (m : Mod) (f : Fld) (ix : List Nat) (n : Nat) : (m.countSat f ix n).img = m.img := rfl

/-! ### `Mod.resetReg` -/

@[simp] theorem Mod.resetReg_latches (m : Mod) (r : Reg) (pre : List Nat) : (m.resetReg r pre).latches = m.latches := rfl
@[simp] theorem Mod.resetReg_outs (m : Mod) (r : Reg) (pre : List Nat) : (m.resetReg r pre).outs = m.outs := rfl
@[simp] theorem Mod.resetReg_drawn (m : Mod) (r : Reg) (pre : List Nat) : (m.resetReg r pre).drawn = m.drawn := rfl
@[simp] theorem Mod.resetReg_powered (m : Mod) (r : Reg) (pre : List Nat) : (m.resetReg r pre).powered = m.powered := rfl
@[simp] theorem Mod.resetReg_tripped (m : Mod) (r : Reg) (pre : List Nat) : (m.resetReg r pre).tripped = m.tripped := rfl
@[simp] theorem Mod.resetReg_perst (m : Mod) (r : Reg) (pre : List Nat) : (m.resetReg r pre).perst = m.perst := rfl
@[simp] theorem Mod.resetReg_ownReset (m : Mod) (r : Reg) (pre : List Nat) : (m.resetReg r pre).ownReset = m.ownReset := rfl
@[simp] theorem Mod.resetReg_holds (m : Mod) (r : Reg) (pre : List Nat) : (m.resetReg r pre).holds = m.holds := rfl
@[simp] theorem Mod.resetReg_pwr (m : Mod) (r : Reg) (pre : List Nat) : (m.resetReg r pre).pwr = m.pwr := rfl
@[simp] theorem Mod.resetReg_ecc (m : Mod) (r : Reg) (pre : List Nat) : (m.resetReg r pre).ecc = m.ecc := rfl
@[simp] theorem Mod.resetReg_now (m : Mod) (r : Reg) (pre : List Nat) : (m.resetReg r pre).now = m.now := rfl
@[simp] theorem Mod.resetReg_alog (m : Mod) (r : Reg) (pre : List Nat) : (m.resetReg r pre).alog = m.alog := rfl
@[simp] theorem Mod.resetReg_logq (m : Mod) (r : Reg) (pre : List Nat) : (m.resetReg r pre).logq = m.logq := rfl
@[simp] theorem Mod.resetReg_fit (m : Mod) (r : Reg) (pre : List Nat) : (m.resetReg r pre).fit = m.fit := rfl
@[simp] theorem Mod.resetReg_cut (m : Mod) (r : Reg) (pre : List Nat) : (m.resetReg r pre).cut = m.cut := rfl
@[simp] theorem Mod.resetReg_locks (m : Mod) (r : Reg) (pre : List Nat) : (m.resetReg r pre).locks = m.locks := rfl
@[simp] theorem Mod.resetReg_mbxStored (m : Mod) (r : Reg) (pre : List Nat) : (m.resetReg r pre).mbxStored = m.mbxStored := rfl
@[simp] theorem Mod.resetReg_mbxGone (m : Mod) (r : Reg) (pre : List Nat) : (m.resetReg r pre).mbxGone = m.mbxGone := rfl
@[simp] theorem Mod.resetReg_tl (m : Mod) (r : Reg) (pre : List Nat) : (m.resetReg r pre).tl = m.tl := rfl
@[simp] theorem Mod.resetReg_tack (m : Mod) (r : Reg) (pre : List Nat) : (m.resetReg r pre).tack = m.tack := rfl
@[simp] theorem Mod.resetReg_wheel (m : Mod) (r : Reg) (pre : List Nat) : (m.resetReg r pre).wheel = m.wheel := rfl
@[simp] theorem Mod.resetReg_replies (m : Mod) (r : Reg) (pre : List Nat) : (m.resetReg r pre).replies = m.replies := rfl
@[simp] theorem Mod.resetReg_txns (m : Mod) (r : Reg) (pre : List Nat) : (m.resetReg r pre).txns = m.txns := rfl
@[simp] theorem Mod.resetReg_txnEnds (m : Mod) (r : Reg) (pre : List Nat) : (m.resetReg r pre).txnEnds = m.txnEnds := rfl
@[simp] theorem Mod.resetReg_plt (m : Mod) (r : Reg) (pre : List Nat) : (m.resetReg r pre).plt = m.plt := rfl
@[simp] theorem Mod.resetReg_hem (m : Mod) (r : Reg) (pre : List Nat) : (m.resetReg r pre).hem = m.hem := rfl
@[simp] theorem Mod.resetReg_hsub (m : Mod) (r : Reg) (pre : List Nat) : (m.resetReg r pre).hsub = m.hsub := rfl
@[simp] theorem Mod.resetReg_hcopy (m : Mod) (r : Reg) (pre : List Nat) : (m.resetReg r pre).hcopy = m.hcopy := rfl
@[simp] theorem Mod.resetReg_prt (m : Mod) (r : Reg) (pre : List Nat) : (m.resetReg r pre).prt = m.prt := rfl
@[simp] theorem Mod.resetReg_bob (m : Mod) (r : Reg) (pre : List Nat) : (m.resetReg r pre).bob = m.bob := rfl
@[simp] theorem Mod.resetReg_pat (m : Mod) (r : Reg) (pre : List Nat) : (m.resetReg r pre).pat = m.pat := rfl
@[simp] theorem Mod.resetReg_shu (m : Mod) (r : Reg) (pre : List Nat) : (m.resetReg r pre).shu = m.shu := rfl
@[simp] theorem Mod.resetReg_spl (m : Mod) (r : Reg) (pre : List Nat) : (m.resetReg r pre).spl = m.spl := rfl
@[simp] theorem Mod.resetReg_thm (m : Mod) (r : Reg) (pre : List Nat) : (m.resetReg r pre).thm = m.thm := rfl
@[simp] theorem Mod.resetReg_msix (m : Mod) (r : Reg) (pre : List Nat) : (m.resetReg r pre).msix = m.msix := rfl
@[simp] theorem Mod.resetReg_sel (m : Mod) (r : Reg) (pre : List Nat) : (m.resetReg r pre).sel = m.sel := rfl
@[simp] theorem Mod.resetReg_sto (m : Mod) (r : Reg) (pre : List Nat) : (m.resetReg r pre).sto = m.sto := rfl
@[simp] theorem Mod.resetReg_jxl (m : Mod) (r : Reg) (pre : List Nat) : (m.resetReg r pre).jxl = m.jxl := rfl
@[simp] theorem Mod.resetReg_chalk (m : Mod) (r : Reg) (pre : List Nat) : (m.resetReg r pre).chalk = m.chalk := rfl
@[simp] theorem Mod.resetReg_img (m : Mod) (r : Reg) (pre : List Nat) : (m.resetReg r pre).img = m.img := rfl

/-! ### `Mod.setSub` -/

@[simp] theorem Mod.setSub_latches (m : Mod) (n k st : Nat) : (m.setSub n k st).latches = m.latches := rfl
@[simp] theorem Mod.setSub_outs (m : Mod) (n k st : Nat) : (m.setSub n k st).outs = m.outs := rfl
@[simp] theorem Mod.setSub_drawn (m : Mod) (n k st : Nat) : (m.setSub n k st).drawn = m.drawn := rfl
@[simp] theorem Mod.setSub_powered (m : Mod) (n k st : Nat) : (m.setSub n k st).powered = m.powered := rfl
@[simp] theorem Mod.setSub_tripped (m : Mod) (n k st : Nat) : (m.setSub n k st).tripped = m.tripped := rfl
@[simp] theorem Mod.setSub_perst (m : Mod) (n k st : Nat) : (m.setSub n k st).perst = m.perst := rfl
@[simp] theorem Mod.setSub_ownReset (m : Mod) (n k st : Nat) : (m.setSub n k st).ownReset = m.ownReset := rfl
@[simp] theorem Mod.setSub_holds (m : Mod) (n k st : Nat) : (m.setSub n k st).holds = m.holds := rfl
@[simp] theorem Mod.setSub_pwr (m : Mod) (n k st : Nat) : (m.setSub n k st).pwr = m.pwr := rfl
@[simp] theorem Mod.setSub_ecc (m : Mod) (n k st : Nat) : (m.setSub n k st).ecc = m.ecc := rfl
@[simp] theorem Mod.setSub_now (m : Mod) (n k st : Nat) : (m.setSub n k st).now = m.now := rfl
@[simp] theorem Mod.setSub_alog (m : Mod) (n k st : Nat) : (m.setSub n k st).alog = m.alog := rfl
@[simp] theorem Mod.setSub_logq (m : Mod) (n k st : Nat) : (m.setSub n k st).logq = m.logq := rfl
@[simp] theorem Mod.setSub_fit (m : Mod) (n k st : Nat) : (m.setSub n k st).fit = m.fit := rfl
@[simp] theorem Mod.setSub_cut (m : Mod) (n k st : Nat) : (m.setSub n k st).cut = m.cut := rfl
@[simp] theorem Mod.setSub_locks (m : Mod) (n k st : Nat) : (m.setSub n k st).locks = m.locks := rfl
@[simp] theorem Mod.setSub_mbxStored (m : Mod) (n k st : Nat) : (m.setSub n k st).mbxStored = m.mbxStored := rfl
@[simp] theorem Mod.setSub_mbxGone (m : Mod) (n k st : Nat) : (m.setSub n k st).mbxGone = m.mbxGone := rfl
@[simp] theorem Mod.setSub_tl (m : Mod) (n k st : Nat) : (m.setSub n k st).tl = m.tl := rfl
@[simp] theorem Mod.setSub_tack (m : Mod) (n k st : Nat) : (m.setSub n k st).tack = m.tack := rfl
@[simp] theorem Mod.setSub_wheel (m : Mod) (n k st : Nat) : (m.setSub n k st).wheel = m.wheel := rfl
@[simp] theorem Mod.setSub_replies (m : Mod) (n k st : Nat) : (m.setSub n k st).replies = m.replies := rfl
@[simp] theorem Mod.setSub_txns (m : Mod) (n k st : Nat) : (m.setSub n k st).txns = m.txns := rfl
@[simp] theorem Mod.setSub_txnEnds (m : Mod) (n k st : Nat) : (m.setSub n k st).txnEnds = m.txnEnds := rfl
@[simp] theorem Mod.setSub_plt (m : Mod) (n k st : Nat) : (m.setSub n k st).plt = m.plt := rfl
@[simp] theorem Mod.setSub_hem (m : Mod) (n k st : Nat) : (m.setSub n k st).hem = m.hem := rfl
@[simp] theorem Mod.setSub_hsub (m : Mod) (n k st : Nat) : (m.setSub n k st).hsub = m.hsub := rfl
@[simp] theorem Mod.setSub_hcopy (m : Mod) (n k st : Nat) : (m.setSub n k st).hcopy = m.hcopy := rfl
@[simp] theorem Mod.setSub_prt (m : Mod) (n k st : Nat) : (m.setSub n k st).prt = m.prt := rfl
@[simp] theorem Mod.setSub_bob (m : Mod) (n k st : Nat) : (m.setSub n k st).bob = m.bob := rfl
@[simp] theorem Mod.setSub_pat (m : Mod) (n k st : Nat) : (m.setSub n k st).pat = m.pat := rfl
@[simp] theorem Mod.setSub_shu (m : Mod) (n k st : Nat) : (m.setSub n k st).shu = m.shu := rfl
@[simp] theorem Mod.setSub_spl (m : Mod) (n k st : Nat) : (m.setSub n k st).spl = m.spl := rfl
@[simp] theorem Mod.setSub_thm (m : Mod) (n k st : Nat) : (m.setSub n k st).thm = m.thm := rfl
@[simp] theorem Mod.setSub_msix (m : Mod) (n k st : Nat) : (m.setSub n k st).msix = m.msix := rfl
@[simp] theorem Mod.setSub_sel (m : Mod) (n k st : Nat) : (m.setSub n k st).sel = m.sel := rfl
@[simp] theorem Mod.setSub_sto (m : Mod) (n k st : Nat) : (m.setSub n k st).sto = m.sto := rfl
@[simp] theorem Mod.setSub_jxl (m : Mod) (n k st : Nat) : (m.setSub n k st).jxl = m.jxl := rfl
@[simp] theorem Mod.setSub_chalk (m : Mod) (n k st : Nat) : (m.setSub n k st).chalk = m.chalk := rfl
@[simp] theorem Mod.setSub_img (m : Mod) (n k st : Nat) : (m.setSub n k st).img = m.img := rfl

/-! ### `Mod.emit` -/

@[simp] theorem Mod.emit_regs (m : Mod) (o : Out) : (m.emit o).regs = m.regs := rfl
@[simp] theorem Mod.emit_latches (m : Mod) (o : Out) : (m.emit o).latches = m.latches := rfl
@[simp] theorem Mod.emit_drawn (m : Mod) (o : Out) : (m.emit o).drawn = m.drawn := rfl
@[simp] theorem Mod.emit_powered (m : Mod) (o : Out) : (m.emit o).powered = m.powered := rfl
@[simp] theorem Mod.emit_tripped (m : Mod) (o : Out) : (m.emit o).tripped = m.tripped := rfl
@[simp] theorem Mod.emit_perst (m : Mod) (o : Out) : (m.emit o).perst = m.perst := rfl
@[simp] theorem Mod.emit_ownReset (m : Mod) (o : Out) : (m.emit o).ownReset = m.ownReset := rfl
@[simp] theorem Mod.emit_holds (m : Mod) (o : Out) : (m.emit o).holds = m.holds := rfl
@[simp] theorem Mod.emit_pwr (m : Mod) (o : Out) : (m.emit o).pwr = m.pwr := rfl
@[simp] theorem Mod.emit_ecc (m : Mod) (o : Out) : (m.emit o).ecc = m.ecc := rfl
@[simp] theorem Mod.emit_now (m : Mod) (o : Out) : (m.emit o).now = m.now := rfl
@[simp] theorem Mod.emit_alog (m : Mod) (o : Out) : (m.emit o).alog = m.alog := rfl
@[simp] theorem Mod.emit_logq (m : Mod) (o : Out) : (m.emit o).logq = m.logq := rfl
@[simp] theorem Mod.emit_fit (m : Mod) (o : Out) : (m.emit o).fit = m.fit := rfl
@[simp] theorem Mod.emit_cut (m : Mod) (o : Out) : (m.emit o).cut = m.cut := rfl
@[simp] theorem Mod.emit_locks (m : Mod) (o : Out) : (m.emit o).locks = m.locks := rfl
@[simp] theorem Mod.emit_mbxStored (m : Mod) (o : Out) : (m.emit o).mbxStored = m.mbxStored := rfl
@[simp] theorem Mod.emit_mbxGone (m : Mod) (o : Out) : (m.emit o).mbxGone = m.mbxGone := rfl
@[simp] theorem Mod.emit_tl (m : Mod) (o : Out) : (m.emit o).tl = m.tl := rfl
@[simp] theorem Mod.emit_tack (m : Mod) (o : Out) : (m.emit o).tack = m.tack := rfl
@[simp] theorem Mod.emit_wheel (m : Mod) (o : Out) : (m.emit o).wheel = m.wheel := rfl
@[simp] theorem Mod.emit_replies (m : Mod) (o : Out) : (m.emit o).replies = m.replies := rfl
@[simp] theorem Mod.emit_txns (m : Mod) (o : Out) : (m.emit o).txns = m.txns := rfl
@[simp] theorem Mod.emit_txnEnds (m : Mod) (o : Out) : (m.emit o).txnEnds = m.txnEnds := rfl
@[simp] theorem Mod.emit_plt (m : Mod) (o : Out) : (m.emit o).plt = m.plt := rfl
@[simp] theorem Mod.emit_hem (m : Mod) (o : Out) : (m.emit o).hem = m.hem := rfl
@[simp] theorem Mod.emit_hsub (m : Mod) (o : Out) : (m.emit o).hsub = m.hsub := rfl
@[simp] theorem Mod.emit_hcopy (m : Mod) (o : Out) : (m.emit o).hcopy = m.hcopy := rfl
@[simp] theorem Mod.emit_prt (m : Mod) (o : Out) : (m.emit o).prt = m.prt := rfl
@[simp] theorem Mod.emit_bob (m : Mod) (o : Out) : (m.emit o).bob = m.bob := rfl
@[simp] theorem Mod.emit_pat (m : Mod) (o : Out) : (m.emit o).pat = m.pat := rfl
@[simp] theorem Mod.emit_shu (m : Mod) (o : Out) : (m.emit o).shu = m.shu := rfl
@[simp] theorem Mod.emit_spl (m : Mod) (o : Out) : (m.emit o).spl = m.spl := rfl
@[simp] theorem Mod.emit_thm (m : Mod) (o : Out) : (m.emit o).thm = m.thm := rfl
@[simp] theorem Mod.emit_msix (m : Mod) (o : Out) : (m.emit o).msix = m.msix := rfl
@[simp] theorem Mod.emit_sel (m : Mod) (o : Out) : (m.emit o).sel = m.sel := rfl
@[simp] theorem Mod.emit_sto (m : Mod) (o : Out) : (m.emit o).sto = m.sto := rfl
@[simp] theorem Mod.emit_jxl (m : Mod) (o : Out) : (m.emit o).jxl = m.jxl := rfl
@[simp] theorem Mod.emit_chalk (m : Mod) (o : Out) : (m.emit o).chalk = m.chalk := rfl
@[simp] theorem Mod.emit_img (m : Mod) (o : Out) : (m.emit o).img = m.img := rfl
@[simp] theorem Mod.emit_get (m : Mod) (o : Out) (f' : Fld) (ix' : List Nat) : (m.emit o).get f' ix' = m.get f' ix' := rfl

/-! ### `Mod.runTo` -/

@[simp] theorem Mod.runTo_regs (m : Mod) (t : Nat) : (m.runTo t).regs = m.regs := rfl
@[simp] theorem Mod.runTo_latches (m : Mod) (t : Nat) : (m.runTo t).latches = m.latches := rfl
@[simp] theorem Mod.runTo_outs (m : Mod) (t : Nat) : (m.runTo t).outs = m.outs := rfl
@[simp] theorem Mod.runTo_drawn (m : Mod) (t : Nat) : (m.runTo t).drawn = m.drawn := rfl
@[simp] theorem Mod.runTo_powered (m : Mod) (t : Nat) : (m.runTo t).powered = m.powered := rfl
@[simp] theorem Mod.runTo_tripped (m : Mod) (t : Nat) : (m.runTo t).tripped = m.tripped := rfl
@[simp] theorem Mod.runTo_perst (m : Mod) (t : Nat) : (m.runTo t).perst = m.perst := rfl
@[simp] theorem Mod.runTo_ownReset (m : Mod) (t : Nat) : (m.runTo t).ownReset = m.ownReset := rfl
@[simp] theorem Mod.runTo_holds (m : Mod) (t : Nat) : (m.runTo t).holds = m.holds := rfl
@[simp] theorem Mod.runTo_pwr (m : Mod) (t : Nat) : (m.runTo t).pwr = m.pwr := rfl
@[simp] theorem Mod.runTo_ecc (m : Mod) (t : Nat) : (m.runTo t).ecc = m.ecc := rfl
@[simp] theorem Mod.runTo_alog (m : Mod) (t : Nat) : (m.runTo t).alog = m.alog := rfl
@[simp] theorem Mod.runTo_logq (m : Mod) (t : Nat) : (m.runTo t).logq = m.logq := rfl
@[simp] theorem Mod.runTo_fit (m : Mod) (t : Nat) : (m.runTo t).fit = m.fit := rfl
@[simp] theorem Mod.runTo_cut (m : Mod) (t : Nat) : (m.runTo t).cut = m.cut := rfl
@[simp] theorem Mod.runTo_locks (m : Mod) (t : Nat) : (m.runTo t).locks = m.locks := rfl
@[simp] theorem Mod.runTo_mbxStored (m : Mod) (t : Nat) : (m.runTo t).mbxStored = m.mbxStored := rfl
@[simp] theorem Mod.runTo_mbxGone (m : Mod) (t : Nat) : (m.runTo t).mbxGone = m.mbxGone := rfl
@[simp] theorem Mod.runTo_tl (m : Mod) (t : Nat) : (m.runTo t).tl = m.tl := rfl
@[simp] theorem Mod.runTo_tack (m : Mod) (t : Nat) : (m.runTo t).tack = m.tack := rfl
@[simp] theorem Mod.runTo_wheel (m : Mod) (t : Nat) : (m.runTo t).wheel = m.wheel := rfl
@[simp] theorem Mod.runTo_replies (m : Mod) (t : Nat) : (m.runTo t).replies = m.replies := rfl
@[simp] theorem Mod.runTo_txns (m : Mod) (t : Nat) : (m.runTo t).txns = m.txns := rfl
@[simp] theorem Mod.runTo_txnEnds (m : Mod) (t : Nat) : (m.runTo t).txnEnds = m.txnEnds := rfl
@[simp] theorem Mod.runTo_plt (m : Mod) (t : Nat) : (m.runTo t).plt = m.plt := rfl
@[simp] theorem Mod.runTo_hem (m : Mod) (t : Nat) : (m.runTo t).hem = m.hem := rfl
@[simp] theorem Mod.runTo_hsub (m : Mod) (t : Nat) : (m.runTo t).hsub = m.hsub := rfl
@[simp] theorem Mod.runTo_hcopy (m : Mod) (t : Nat) : (m.runTo t).hcopy = m.hcopy := rfl
@[simp] theorem Mod.runTo_prt (m : Mod) (t : Nat) : (m.runTo t).prt = m.prt := rfl
@[simp] theorem Mod.runTo_bob (m : Mod) (t : Nat) : (m.runTo t).bob = m.bob := rfl
@[simp] theorem Mod.runTo_pat (m : Mod) (t : Nat) : (m.runTo t).pat = m.pat := rfl
@[simp] theorem Mod.runTo_shu (m : Mod) (t : Nat) : (m.runTo t).shu = m.shu := rfl
@[simp] theorem Mod.runTo_spl (m : Mod) (t : Nat) : (m.runTo t).spl = m.spl := rfl
@[simp] theorem Mod.runTo_thm (m : Mod) (t : Nat) : (m.runTo t).thm = m.thm := rfl
@[simp] theorem Mod.runTo_msix (m : Mod) (t : Nat) : (m.runTo t).msix = m.msix := rfl
@[simp] theorem Mod.runTo_sel (m : Mod) (t : Nat) : (m.runTo t).sel = m.sel := rfl
@[simp] theorem Mod.runTo_sto (m : Mod) (t : Nat) : (m.runTo t).sto = m.sto := rfl
@[simp] theorem Mod.runTo_jxl (m : Mod) (t : Nat) : (m.runTo t).jxl = m.jxl := rfl
@[simp] theorem Mod.runTo_chalk (m : Mod) (t : Nat) : (m.runTo t).chalk = m.chalk := rfl
@[simp] theorem Mod.runTo_img (m : Mod) (t : Nat) : (m.runTo t).img = m.img := rfl
@[simp] theorem Mod.runTo_get (m : Mod) (t : Nat) (f' : Fld) (ix' : List Nat) : (m.runTo t).get f' ix' = m.get f' ix' := rfl

/-! ### `Mod.runToNs` -/

@[simp] theorem Mod.runToNs_regs (m : Mod) (t : Nat) : (m.runToNs t).regs = m.regs := rfl
@[simp] theorem Mod.runToNs_latches (m : Mod) (t : Nat) : (m.runToNs t).latches = m.latches := rfl
@[simp] theorem Mod.runToNs_outs (m : Mod) (t : Nat) : (m.runToNs t).outs = m.outs := rfl
@[simp] theorem Mod.runToNs_drawn (m : Mod) (t : Nat) : (m.runToNs t).drawn = m.drawn := rfl
@[simp] theorem Mod.runToNs_powered (m : Mod) (t : Nat) : (m.runToNs t).powered = m.powered := rfl
@[simp] theorem Mod.runToNs_tripped (m : Mod) (t : Nat) : (m.runToNs t).tripped = m.tripped := rfl
@[simp] theorem Mod.runToNs_perst (m : Mod) (t : Nat) : (m.runToNs t).perst = m.perst := rfl
@[simp] theorem Mod.runToNs_ownReset (m : Mod) (t : Nat) : (m.runToNs t).ownReset = m.ownReset := rfl
@[simp] theorem Mod.runToNs_holds (m : Mod) (t : Nat) : (m.runToNs t).holds = m.holds := rfl
@[simp] theorem Mod.runToNs_pwr (m : Mod) (t : Nat) : (m.runToNs t).pwr = m.pwr := rfl
@[simp] theorem Mod.runToNs_ecc (m : Mod) (t : Nat) : (m.runToNs t).ecc = m.ecc := rfl
@[simp] theorem Mod.runToNs_alog (m : Mod) (t : Nat) : (m.runToNs t).alog = m.alog := rfl
@[simp] theorem Mod.runToNs_logq (m : Mod) (t : Nat) : (m.runToNs t).logq = m.logq := rfl
@[simp] theorem Mod.runToNs_fit (m : Mod) (t : Nat) : (m.runToNs t).fit = m.fit := rfl
@[simp] theorem Mod.runToNs_cut (m : Mod) (t : Nat) : (m.runToNs t).cut = m.cut := rfl
@[simp] theorem Mod.runToNs_locks (m : Mod) (t : Nat) : (m.runToNs t).locks = m.locks := rfl
@[simp] theorem Mod.runToNs_mbxStored (m : Mod) (t : Nat) : (m.runToNs t).mbxStored = m.mbxStored := rfl
@[simp] theorem Mod.runToNs_mbxGone (m : Mod) (t : Nat) : (m.runToNs t).mbxGone = m.mbxGone := rfl
@[simp] theorem Mod.runToNs_tl (m : Mod) (t : Nat) : (m.runToNs t).tl = m.tl := rfl
@[simp] theorem Mod.runToNs_tack (m : Mod) (t : Nat) : (m.runToNs t).tack = m.tack := rfl
@[simp] theorem Mod.runToNs_wheel (m : Mod) (t : Nat) : (m.runToNs t).wheel = m.wheel := rfl
@[simp] theorem Mod.runToNs_replies (m : Mod) (t : Nat) : (m.runToNs t).replies = m.replies := rfl
@[simp] theorem Mod.runToNs_txns (m : Mod) (t : Nat) : (m.runToNs t).txns = m.txns := rfl
@[simp] theorem Mod.runToNs_txnEnds (m : Mod) (t : Nat) : (m.runToNs t).txnEnds = m.txnEnds := rfl
@[simp] theorem Mod.runToNs_plt (m : Mod) (t : Nat) : (m.runToNs t).plt = m.plt := rfl
@[simp] theorem Mod.runToNs_hem (m : Mod) (t : Nat) : (m.runToNs t).hem = m.hem := rfl
@[simp] theorem Mod.runToNs_hsub (m : Mod) (t : Nat) : (m.runToNs t).hsub = m.hsub := rfl
@[simp] theorem Mod.runToNs_hcopy (m : Mod) (t : Nat) : (m.runToNs t).hcopy = m.hcopy := rfl
@[simp] theorem Mod.runToNs_prt (m : Mod) (t : Nat) : (m.runToNs t).prt = m.prt := rfl
@[simp] theorem Mod.runToNs_bob (m : Mod) (t : Nat) : (m.runToNs t).bob = m.bob := rfl
@[simp] theorem Mod.runToNs_pat (m : Mod) (t : Nat) : (m.runToNs t).pat = m.pat := rfl
@[simp] theorem Mod.runToNs_shu (m : Mod) (t : Nat) : (m.runToNs t).shu = m.shu := rfl
@[simp] theorem Mod.runToNs_spl (m : Mod) (t : Nat) : (m.runToNs t).spl = m.spl := rfl
@[simp] theorem Mod.runToNs_thm (m : Mod) (t : Nat) : (m.runToNs t).thm = m.thm := rfl
@[simp] theorem Mod.runToNs_msix (m : Mod) (t : Nat) : (m.runToNs t).msix = m.msix := rfl
@[simp] theorem Mod.runToNs_sel (m : Mod) (t : Nat) : (m.runToNs t).sel = m.sel := rfl
@[simp] theorem Mod.runToNs_sto (m : Mod) (t : Nat) : (m.runToNs t).sto = m.sto := rfl
@[simp] theorem Mod.runToNs_jxl (m : Mod) (t : Nat) : (m.runToNs t).jxl = m.jxl := rfl
@[simp] theorem Mod.runToNs_chalk (m : Mod) (t : Nat) : (m.runToNs t).chalk = m.chalk := rfl
@[simp] theorem Mod.runToNs_img (m : Mod) (t : Nat) : (m.runToNs t).img = m.img := rfl
@[simp] theorem Mod.runToNs_get (m : Mod) (t : Nat) (f' : Fld) (ix' : List Nat) : (m.runToNs t).get f' ix' = m.get f' ix' := rfl

/-! ### `Mod.trigger` -/

@[simp] theorem Mod.trigger_regs (m : Mod) (p : FitPend) : (m.trigger p).regs = m.regs := rfl
@[simp] theorem Mod.trigger_latches (m : Mod) (p : FitPend) : (m.trigger p).latches = m.latches := rfl
@[simp] theorem Mod.trigger_outs (m : Mod) (p : FitPend) : (m.trigger p).outs = m.outs := rfl
@[simp] theorem Mod.trigger_drawn (m : Mod) (p : FitPend) : (m.trigger p).drawn = m.drawn := rfl
@[simp] theorem Mod.trigger_powered (m : Mod) (p : FitPend) : (m.trigger p).powered = m.powered := rfl
@[simp] theorem Mod.trigger_tripped (m : Mod) (p : FitPend) : (m.trigger p).tripped = m.tripped := rfl
@[simp] theorem Mod.trigger_perst (m : Mod) (p : FitPend) : (m.trigger p).perst = m.perst := rfl
@[simp] theorem Mod.trigger_ownReset (m : Mod) (p : FitPend) : (m.trigger p).ownReset = m.ownReset := rfl
@[simp] theorem Mod.trigger_holds (m : Mod) (p : FitPend) : (m.trigger p).holds = m.holds := rfl
@[simp] theorem Mod.trigger_pwr (m : Mod) (p : FitPend) : (m.trigger p).pwr = m.pwr := rfl
@[simp] theorem Mod.trigger_ecc (m : Mod) (p : FitPend) : (m.trigger p).ecc = m.ecc := rfl
@[simp] theorem Mod.trigger_now (m : Mod) (p : FitPend) : (m.trigger p).now = m.now := rfl
@[simp] theorem Mod.trigger_alog (m : Mod) (p : FitPend) : (m.trigger p).alog = m.alog := rfl
@[simp] theorem Mod.trigger_logq (m : Mod) (p : FitPend) : (m.trigger p).logq = m.logq := rfl
@[simp] theorem Mod.trigger_cut (m : Mod) (p : FitPend) : (m.trigger p).cut = m.cut := rfl
@[simp] theorem Mod.trigger_locks (m : Mod) (p : FitPend) : (m.trigger p).locks = m.locks := rfl
@[simp] theorem Mod.trigger_mbxStored (m : Mod) (p : FitPend) : (m.trigger p).mbxStored = m.mbxStored := rfl
@[simp] theorem Mod.trigger_mbxGone (m : Mod) (p : FitPend) : (m.trigger p).mbxGone = m.mbxGone := rfl
@[simp] theorem Mod.trigger_tl (m : Mod) (p : FitPend) : (m.trigger p).tl = m.tl := rfl
@[simp] theorem Mod.trigger_tack (m : Mod) (p : FitPend) : (m.trigger p).tack = m.tack := rfl
@[simp] theorem Mod.trigger_wheel (m : Mod) (p : FitPend) : (m.trigger p).wheel = m.wheel := rfl
@[simp] theorem Mod.trigger_replies (m : Mod) (p : FitPend) : (m.trigger p).replies = m.replies := rfl
@[simp] theorem Mod.trigger_txns (m : Mod) (p : FitPend) : (m.trigger p).txns = m.txns := rfl
@[simp] theorem Mod.trigger_txnEnds (m : Mod) (p : FitPend) : (m.trigger p).txnEnds = m.txnEnds := rfl
@[simp] theorem Mod.trigger_plt (m : Mod) (p : FitPend) : (m.trigger p).plt = m.plt := rfl
@[simp] theorem Mod.trigger_hem (m : Mod) (p : FitPend) : (m.trigger p).hem = m.hem := rfl
@[simp] theorem Mod.trigger_hsub (m : Mod) (p : FitPend) : (m.trigger p).hsub = m.hsub := rfl
@[simp] theorem Mod.trigger_hcopy (m : Mod) (p : FitPend) : (m.trigger p).hcopy = m.hcopy := rfl
@[simp] theorem Mod.trigger_prt (m : Mod) (p : FitPend) : (m.trigger p).prt = m.prt := rfl
@[simp] theorem Mod.trigger_bob (m : Mod) (p : FitPend) : (m.trigger p).bob = m.bob := rfl
@[simp] theorem Mod.trigger_pat (m : Mod) (p : FitPend) : (m.trigger p).pat = m.pat := rfl
@[simp] theorem Mod.trigger_shu (m : Mod) (p : FitPend) : (m.trigger p).shu = m.shu := rfl
@[simp] theorem Mod.trigger_spl (m : Mod) (p : FitPend) : (m.trigger p).spl = m.spl := rfl
@[simp] theorem Mod.trigger_thm (m : Mod) (p : FitPend) : (m.trigger p).thm = m.thm := rfl
@[simp] theorem Mod.trigger_msix (m : Mod) (p : FitPend) : (m.trigger p).msix = m.msix := rfl
@[simp] theorem Mod.trigger_sel (m : Mod) (p : FitPend) : (m.trigger p).sel = m.sel := rfl
@[simp] theorem Mod.trigger_sto (m : Mod) (p : FitPend) : (m.trigger p).sto = m.sto := rfl
@[simp] theorem Mod.trigger_jxl (m : Mod) (p : FitPend) : (m.trigger p).jxl = m.jxl := rfl
@[simp] theorem Mod.trigger_chalk (m : Mod) (p : FitPend) : (m.trigger p).chalk = m.chalk := rfl
@[simp] theorem Mod.trigger_img (m : Mod) (p : FitPend) : (m.trigger p).img = m.img := rfl
@[simp] theorem Mod.trigger_get (m : Mod) (p : FitPend) (f' : Fld) (ix' : List Nat) : (m.trigger p).get f' ix' = m.get f' ix' := rfl

/-! ### `Mod.setCut` -/

@[simp] theorem Mod.setCut_regs (m : Mod) (g : Cut → Cut) : (m.setCut g).regs = m.regs := rfl
@[simp] theorem Mod.setCut_latches (m : Mod) (g : Cut → Cut) : (m.setCut g).latches = m.latches := rfl
@[simp] theorem Mod.setCut_outs (m : Mod) (g : Cut → Cut) : (m.setCut g).outs = m.outs := rfl
@[simp] theorem Mod.setCut_drawn (m : Mod) (g : Cut → Cut) : (m.setCut g).drawn = m.drawn := rfl
@[simp] theorem Mod.setCut_powered (m : Mod) (g : Cut → Cut) : (m.setCut g).powered = m.powered := rfl
@[simp] theorem Mod.setCut_tripped (m : Mod) (g : Cut → Cut) : (m.setCut g).tripped = m.tripped := rfl
@[simp] theorem Mod.setCut_perst (m : Mod) (g : Cut → Cut) : (m.setCut g).perst = m.perst := rfl
@[simp] theorem Mod.setCut_ownReset (m : Mod) (g : Cut → Cut) : (m.setCut g).ownReset = m.ownReset := rfl
@[simp] theorem Mod.setCut_holds (m : Mod) (g : Cut → Cut) : (m.setCut g).holds = m.holds := rfl
@[simp] theorem Mod.setCut_pwr (m : Mod) (g : Cut → Cut) : (m.setCut g).pwr = m.pwr := rfl
@[simp] theorem Mod.setCut_ecc (m : Mod) (g : Cut → Cut) : (m.setCut g).ecc = m.ecc := rfl
@[simp] theorem Mod.setCut_now (m : Mod) (g : Cut → Cut) : (m.setCut g).now = m.now := rfl
@[simp] theorem Mod.setCut_alog (m : Mod) (g : Cut → Cut) : (m.setCut g).alog = m.alog := rfl
@[simp] theorem Mod.setCut_logq (m : Mod) (g : Cut → Cut) : (m.setCut g).logq = m.logq := rfl
@[simp] theorem Mod.setCut_fit (m : Mod) (g : Cut → Cut) : (m.setCut g).fit = m.fit := rfl
@[simp] theorem Mod.setCut_locks (m : Mod) (g : Cut → Cut) : (m.setCut g).locks = m.locks := rfl
@[simp] theorem Mod.setCut_mbxStored (m : Mod) (g : Cut → Cut) : (m.setCut g).mbxStored = m.mbxStored := rfl
@[simp] theorem Mod.setCut_mbxGone (m : Mod) (g : Cut → Cut) : (m.setCut g).mbxGone = m.mbxGone := rfl
@[simp] theorem Mod.setCut_tl (m : Mod) (g : Cut → Cut) : (m.setCut g).tl = m.tl := rfl
@[simp] theorem Mod.setCut_tack (m : Mod) (g : Cut → Cut) : (m.setCut g).tack = m.tack := rfl
@[simp] theorem Mod.setCut_wheel (m : Mod) (g : Cut → Cut) : (m.setCut g).wheel = m.wheel := rfl
@[simp] theorem Mod.setCut_replies (m : Mod) (g : Cut → Cut) : (m.setCut g).replies = m.replies := rfl
@[simp] theorem Mod.setCut_txns (m : Mod) (g : Cut → Cut) : (m.setCut g).txns = m.txns := rfl
@[simp] theorem Mod.setCut_txnEnds (m : Mod) (g : Cut → Cut) : (m.setCut g).txnEnds = m.txnEnds := rfl
@[simp] theorem Mod.setCut_plt (m : Mod) (g : Cut → Cut) : (m.setCut g).plt = m.plt := rfl
@[simp] theorem Mod.setCut_hem (m : Mod) (g : Cut → Cut) : (m.setCut g).hem = m.hem := rfl
@[simp] theorem Mod.setCut_hsub (m : Mod) (g : Cut → Cut) : (m.setCut g).hsub = m.hsub := rfl
@[simp] theorem Mod.setCut_hcopy (m : Mod) (g : Cut → Cut) : (m.setCut g).hcopy = m.hcopy := rfl
@[simp] theorem Mod.setCut_prt (m : Mod) (g : Cut → Cut) : (m.setCut g).prt = m.prt := rfl
@[simp] theorem Mod.setCut_bob (m : Mod) (g : Cut → Cut) : (m.setCut g).bob = m.bob := rfl
@[simp] theorem Mod.setCut_pat (m : Mod) (g : Cut → Cut) : (m.setCut g).pat = m.pat := rfl
@[simp] theorem Mod.setCut_shu (m : Mod) (g : Cut → Cut) : (m.setCut g).shu = m.shu := rfl
@[simp] theorem Mod.setCut_spl (m : Mod) (g : Cut → Cut) : (m.setCut g).spl = m.spl := rfl
@[simp] theorem Mod.setCut_thm (m : Mod) (g : Cut → Cut) : (m.setCut g).thm = m.thm := rfl
@[simp] theorem Mod.setCut_msix (m : Mod) (g : Cut → Cut) : (m.setCut g).msix = m.msix := rfl
@[simp] theorem Mod.setCut_sel (m : Mod) (g : Cut → Cut) : (m.setCut g).sel = m.sel := rfl
@[simp] theorem Mod.setCut_sto (m : Mod) (g : Cut → Cut) : (m.setCut g).sto = m.sto := rfl
@[simp] theorem Mod.setCut_jxl (m : Mod) (g : Cut → Cut) : (m.setCut g).jxl = m.jxl := rfl
@[simp] theorem Mod.setCut_chalk (m : Mod) (g : Cut → Cut) : (m.setCut g).chalk = m.chalk := rfl
@[simp] theorem Mod.setCut_img (m : Mod) (g : Cut → Cut) : (m.setCut g).img = m.img := rfl
@[simp] theorem Mod.setCut_get (m : Mod) (g : Cut → Cut) (f' : Fld) (ix' : List Nat) : (m.setCut g).get f' ix' = m.get f' ix' := rfl

/-! ### `Mod.place` -/

@[simp] theorem Mod.place_regs (m : Mod) (c : Cmd) (st : Stage) (objs : List Obj) : (m.place c st objs).regs = m.regs := rfl
@[simp] theorem Mod.place_latches (m : Mod) (c : Cmd) (st : Stage) (objs : List Obj) : (m.place c st objs).latches = m.latches := rfl
@[simp] theorem Mod.place_outs (m : Mod) (c : Cmd) (st : Stage) (objs : List Obj) : (m.place c st objs).outs = m.outs := rfl
@[simp] theorem Mod.place_drawn (m : Mod) (c : Cmd) (st : Stage) (objs : List Obj) : (m.place c st objs).drawn = m.drawn := rfl
@[simp] theorem Mod.place_powered (m : Mod) (c : Cmd) (st : Stage) (objs : List Obj) : (m.place c st objs).powered = m.powered := rfl
@[simp] theorem Mod.place_tripped (m : Mod) (c : Cmd) (st : Stage) (objs : List Obj) : (m.place c st objs).tripped = m.tripped := rfl
@[simp] theorem Mod.place_perst (m : Mod) (c : Cmd) (st : Stage) (objs : List Obj) : (m.place c st objs).perst = m.perst := rfl
@[simp] theorem Mod.place_ownReset (m : Mod) (c : Cmd) (st : Stage) (objs : List Obj) : (m.place c st objs).ownReset = m.ownReset := rfl
@[simp] theorem Mod.place_holds (m : Mod) (c : Cmd) (st : Stage) (objs : List Obj) : (m.place c st objs).holds = m.holds := rfl
@[simp] theorem Mod.place_pwr (m : Mod) (c : Cmd) (st : Stage) (objs : List Obj) : (m.place c st objs).pwr = m.pwr := rfl
@[simp] theorem Mod.place_ecc (m : Mod) (c : Cmd) (st : Stage) (objs : List Obj) : (m.place c st objs).ecc = m.ecc := rfl
@[simp] theorem Mod.place_now (m : Mod) (c : Cmd) (st : Stage) (objs : List Obj) : (m.place c st objs).now = m.now := rfl
@[simp] theorem Mod.place_alog (m : Mod) (c : Cmd) (st : Stage) (objs : List Obj) : (m.place c st objs).alog = m.alog := rfl
@[simp] theorem Mod.place_logq (m : Mod) (c : Cmd) (st : Stage) (objs : List Obj) : (m.place c st objs).logq = m.logq := rfl
@[simp] theorem Mod.place_fit (m : Mod) (c : Cmd) (st : Stage) (objs : List Obj) : (m.place c st objs).fit = m.fit := rfl
@[simp] theorem Mod.place_locks (m : Mod) (c : Cmd) (st : Stage) (objs : List Obj) : (m.place c st objs).locks = m.locks := rfl
@[simp] theorem Mod.place_mbxStored (m : Mod) (c : Cmd) (st : Stage) (objs : List Obj) : (m.place c st objs).mbxStored = m.mbxStored := rfl
@[simp] theorem Mod.place_mbxGone (m : Mod) (c : Cmd) (st : Stage) (objs : List Obj) : (m.place c st objs).mbxGone = m.mbxGone := rfl
@[simp] theorem Mod.place_tl (m : Mod) (c : Cmd) (st : Stage) (objs : List Obj) : (m.place c st objs).tl = m.tl := rfl
@[simp] theorem Mod.place_tack (m : Mod) (c : Cmd) (st : Stage) (objs : List Obj) : (m.place c st objs).tack = m.tack := rfl
@[simp] theorem Mod.place_wheel (m : Mod) (c : Cmd) (st : Stage) (objs : List Obj) : (m.place c st objs).wheel = m.wheel := rfl
@[simp] theorem Mod.place_replies (m : Mod) (c : Cmd) (st : Stage) (objs : List Obj) : (m.place c st objs).replies = m.replies := rfl
@[simp] theorem Mod.place_txns (m : Mod) (c : Cmd) (st : Stage) (objs : List Obj) : (m.place c st objs).txns = m.txns := rfl
@[simp] theorem Mod.place_txnEnds (m : Mod) (c : Cmd) (st : Stage) (objs : List Obj) : (m.place c st objs).txnEnds = m.txnEnds := rfl
@[simp] theorem Mod.place_plt (m : Mod) (c : Cmd) (st : Stage) (objs : List Obj) : (m.place c st objs).plt = m.plt := rfl
@[simp] theorem Mod.place_hem (m : Mod) (c : Cmd) (st : Stage) (objs : List Obj) : (m.place c st objs).hem = m.hem := rfl
@[simp] theorem Mod.place_hsub (m : Mod) (c : Cmd) (st : Stage) (objs : List Obj) : (m.place c st objs).hsub = m.hsub := rfl
@[simp] theorem Mod.place_hcopy (m : Mod) (c : Cmd) (st : Stage) (objs : List Obj) : (m.place c st objs).hcopy = m.hcopy := rfl
@[simp] theorem Mod.place_prt (m : Mod) (c : Cmd) (st : Stage) (objs : List Obj) : (m.place c st objs).prt = m.prt := rfl
@[simp] theorem Mod.place_bob (m : Mod) (c : Cmd) (st : Stage) (objs : List Obj) : (m.place c st objs).bob = m.bob := rfl
@[simp] theorem Mod.place_pat (m : Mod) (c : Cmd) (st : Stage) (objs : List Obj) : (m.place c st objs).pat = m.pat := rfl
@[simp] theorem Mod.place_shu (m : Mod) (c : Cmd) (st : Stage) (objs : List Obj) : (m.place c st objs).shu = m.shu := rfl
@[simp] theorem Mod.place_spl (m : Mod) (c : Cmd) (st : Stage) (objs : List Obj) : (m.place c st objs).spl = m.spl := rfl
@[simp] theorem Mod.place_thm (m : Mod) (c : Cmd) (st : Stage) (objs : List Obj) : (m.place c st objs).thm = m.thm := rfl
@[simp] theorem Mod.place_msix (m : Mod) (c : Cmd) (st : Stage) (objs : List Obj) : (m.place c st objs).msix = m.msix := rfl
@[simp] theorem Mod.place_sel (m : Mod) (c : Cmd) (st : Stage) (objs : List Obj) : (m.place c st objs).sel = m.sel := rfl
@[simp] theorem Mod.place_sto (m : Mod) (c : Cmd) (st : Stage) (objs : List Obj) : (m.place c st objs).sto = m.sto := rfl
@[simp] theorem Mod.place_jxl (m : Mod) (c : Cmd) (st : Stage) (objs : List Obj) : (m.place c st objs).jxl = m.jxl := rfl
@[simp] theorem Mod.place_chalk (m : Mod) (c : Cmd) (st : Stage) (objs : List Obj) : (m.place c st objs).chalk = m.chalk := rfl
@[simp] theorem Mod.place_img (m : Mod) (c : Cmd) (st : Stage) (objs : List Obj) : (m.place c st objs).img = m.img := rfl
@[simp] theorem Mod.place_get (m : Mod) (c : Cmd) (st : Stage) (objs : List Obj) (f' : Fld) (ix' : List Nat) : (m.place c st objs).get f' ix' = m.get f' ix' := rfl

/-! ### `Mod.leave` -/

@[simp] theorem Mod.leave_regs (m : Mod) (c : Cmd) : (m.leave c).regs = m.regs := rfl
@[simp] theorem Mod.leave_latches (m : Mod) (c : Cmd) : (m.leave c).latches = m.latches := rfl
@[simp] theorem Mod.leave_outs (m : Mod) (c : Cmd) : (m.leave c).outs = m.outs := rfl
@[simp] theorem Mod.leave_drawn (m : Mod) (c : Cmd) : (m.leave c).drawn = m.drawn := rfl
@[simp] theorem Mod.leave_powered (m : Mod) (c : Cmd) : (m.leave c).powered = m.powered := rfl
@[simp] theorem Mod.leave_tripped (m : Mod) (c : Cmd) : (m.leave c).tripped = m.tripped := rfl
@[simp] theorem Mod.leave_perst (m : Mod) (c : Cmd) : (m.leave c).perst = m.perst := rfl
@[simp] theorem Mod.leave_ownReset (m : Mod) (c : Cmd) : (m.leave c).ownReset = m.ownReset := rfl
@[simp] theorem Mod.leave_holds (m : Mod) (c : Cmd) : (m.leave c).holds = m.holds := rfl
@[simp] theorem Mod.leave_pwr (m : Mod) (c : Cmd) : (m.leave c).pwr = m.pwr := rfl
@[simp] theorem Mod.leave_ecc (m : Mod) (c : Cmd) : (m.leave c).ecc = m.ecc := rfl
@[simp] theorem Mod.leave_now (m : Mod) (c : Cmd) : (m.leave c).now = m.now := rfl
@[simp] theorem Mod.leave_alog (m : Mod) (c : Cmd) : (m.leave c).alog = m.alog := rfl
@[simp] theorem Mod.leave_logq (m : Mod) (c : Cmd) : (m.leave c).logq = m.logq := rfl
@[simp] theorem Mod.leave_fit (m : Mod) (c : Cmd) : (m.leave c).fit = m.fit := rfl
@[simp] theorem Mod.leave_locks (m : Mod) (c : Cmd) : (m.leave c).locks = m.locks := rfl
@[simp] theorem Mod.leave_mbxStored (m : Mod) (c : Cmd) : (m.leave c).mbxStored = m.mbxStored := rfl
@[simp] theorem Mod.leave_mbxGone (m : Mod) (c : Cmd) : (m.leave c).mbxGone = m.mbxGone := rfl
@[simp] theorem Mod.leave_tl (m : Mod) (c : Cmd) : (m.leave c).tl = m.tl := rfl
@[simp] theorem Mod.leave_tack (m : Mod) (c : Cmd) : (m.leave c).tack = m.tack := rfl
@[simp] theorem Mod.leave_wheel (m : Mod) (c : Cmd) : (m.leave c).wheel = m.wheel := rfl
@[simp] theorem Mod.leave_replies (m : Mod) (c : Cmd) : (m.leave c).replies = m.replies := rfl
@[simp] theorem Mod.leave_txns (m : Mod) (c : Cmd) : (m.leave c).txns = m.txns := rfl
@[simp] theorem Mod.leave_txnEnds (m : Mod) (c : Cmd) : (m.leave c).txnEnds = m.txnEnds := rfl
@[simp] theorem Mod.leave_plt (m : Mod) (c : Cmd) : (m.leave c).plt = m.plt := rfl
@[simp] theorem Mod.leave_hem (m : Mod) (c : Cmd) : (m.leave c).hem = m.hem := rfl
@[simp] theorem Mod.leave_hsub (m : Mod) (c : Cmd) : (m.leave c).hsub = m.hsub := rfl
@[simp] theorem Mod.leave_hcopy (m : Mod) (c : Cmd) : (m.leave c).hcopy = m.hcopy := rfl
@[simp] theorem Mod.leave_prt (m : Mod) (c : Cmd) : (m.leave c).prt = m.prt := rfl
@[simp] theorem Mod.leave_bob (m : Mod) (c : Cmd) : (m.leave c).bob = m.bob := rfl
@[simp] theorem Mod.leave_pat (m : Mod) (c : Cmd) : (m.leave c).pat = m.pat := rfl
@[simp] theorem Mod.leave_shu (m : Mod) (c : Cmd) : (m.leave c).shu = m.shu := rfl
@[simp] theorem Mod.leave_spl (m : Mod) (c : Cmd) : (m.leave c).spl = m.spl := rfl
@[simp] theorem Mod.leave_thm (m : Mod) (c : Cmd) : (m.leave c).thm = m.thm := rfl
@[simp] theorem Mod.leave_msix (m : Mod) (c : Cmd) : (m.leave c).msix = m.msix := rfl
@[simp] theorem Mod.leave_sel (m : Mod) (c : Cmd) : (m.leave c).sel = m.sel := rfl
@[simp] theorem Mod.leave_sto (m : Mod) (c : Cmd) : (m.leave c).sto = m.sto := rfl
@[simp] theorem Mod.leave_jxl (m : Mod) (c : Cmd) : (m.leave c).jxl = m.jxl := rfl
@[simp] theorem Mod.leave_chalk (m : Mod) (c : Cmd) : (m.leave c).chalk = m.chalk := rfl
@[simp] theorem Mod.leave_img (m : Mod) (c : Cmd) : (m.leave c).img = m.img := rfl
@[simp] theorem Mod.leave_get (m : Mod) (c : Cmd) (f' : Fld) (ix' : List Nat) : (m.leave c).get f' ix' = m.get f' ix' := rfl

/-! ### `Mod.putLock` -/

@[simp] theorem Mod.putLock_regs (m : Mod) (n : Nat) (l : Lock) : (m.putLock n l).regs = m.regs := rfl
@[simp] theorem Mod.putLock_latches (m : Mod) (n : Nat) (l : Lock) : (m.putLock n l).latches = m.latches := rfl
@[simp] theorem Mod.putLock_outs (m : Mod) (n : Nat) (l : Lock) : (m.putLock n l).outs = m.outs := rfl
@[simp] theorem Mod.putLock_drawn (m : Mod) (n : Nat) (l : Lock) : (m.putLock n l).drawn = m.drawn := rfl
@[simp] theorem Mod.putLock_powered (m : Mod) (n : Nat) (l : Lock) : (m.putLock n l).powered = m.powered := rfl
@[simp] theorem Mod.putLock_tripped (m : Mod) (n : Nat) (l : Lock) : (m.putLock n l).tripped = m.tripped := rfl
@[simp] theorem Mod.putLock_perst (m : Mod) (n : Nat) (l : Lock) : (m.putLock n l).perst = m.perst := rfl
@[simp] theorem Mod.putLock_ownReset (m : Mod) (n : Nat) (l : Lock) : (m.putLock n l).ownReset = m.ownReset := rfl
@[simp] theorem Mod.putLock_holds (m : Mod) (n : Nat) (l : Lock) : (m.putLock n l).holds = m.holds := rfl
@[simp] theorem Mod.putLock_pwr (m : Mod) (n : Nat) (l : Lock) : (m.putLock n l).pwr = m.pwr := rfl
@[simp] theorem Mod.putLock_ecc (m : Mod) (n : Nat) (l : Lock) : (m.putLock n l).ecc = m.ecc := rfl
@[simp] theorem Mod.putLock_now (m : Mod) (n : Nat) (l : Lock) : (m.putLock n l).now = m.now := rfl
@[simp] theorem Mod.putLock_alog (m : Mod) (n : Nat) (l : Lock) : (m.putLock n l).alog = m.alog := rfl
@[simp] theorem Mod.putLock_logq (m : Mod) (n : Nat) (l : Lock) : (m.putLock n l).logq = m.logq := rfl
@[simp] theorem Mod.putLock_fit (m : Mod) (n : Nat) (l : Lock) : (m.putLock n l).fit = m.fit := rfl
@[simp] theorem Mod.putLock_cut (m : Mod) (n : Nat) (l : Lock) : (m.putLock n l).cut = m.cut := rfl
@[simp] theorem Mod.putLock_mbxStored (m : Mod) (n : Nat) (l : Lock) : (m.putLock n l).mbxStored = m.mbxStored := rfl
@[simp] theorem Mod.putLock_mbxGone (m : Mod) (n : Nat) (l : Lock) : (m.putLock n l).mbxGone = m.mbxGone := rfl
@[simp] theorem Mod.putLock_tl (m : Mod) (n : Nat) (l : Lock) : (m.putLock n l).tl = m.tl := rfl
@[simp] theorem Mod.putLock_tack (m : Mod) (n : Nat) (l : Lock) : (m.putLock n l).tack = m.tack := rfl
@[simp] theorem Mod.putLock_wheel (m : Mod) (n : Nat) (l : Lock) : (m.putLock n l).wheel = m.wheel := rfl
@[simp] theorem Mod.putLock_replies (m : Mod) (n : Nat) (l : Lock) : (m.putLock n l).replies = m.replies := rfl
@[simp] theorem Mod.putLock_txns (m : Mod) (n : Nat) (l : Lock) : (m.putLock n l).txns = m.txns := rfl
@[simp] theorem Mod.putLock_txnEnds (m : Mod) (n : Nat) (l : Lock) : (m.putLock n l).txnEnds = m.txnEnds := rfl
@[simp] theorem Mod.putLock_plt (m : Mod) (n : Nat) (l : Lock) : (m.putLock n l).plt = m.plt := rfl
@[simp] theorem Mod.putLock_hem (m : Mod) (n : Nat) (l : Lock) : (m.putLock n l).hem = m.hem := rfl
@[simp] theorem Mod.putLock_hsub (m : Mod) (n : Nat) (l : Lock) : (m.putLock n l).hsub = m.hsub := rfl
@[simp] theorem Mod.putLock_hcopy (m : Mod) (n : Nat) (l : Lock) : (m.putLock n l).hcopy = m.hcopy := rfl
@[simp] theorem Mod.putLock_prt (m : Mod) (n : Nat) (l : Lock) : (m.putLock n l).prt = m.prt := rfl
@[simp] theorem Mod.putLock_bob (m : Mod) (n : Nat) (l : Lock) : (m.putLock n l).bob = m.bob := rfl
@[simp] theorem Mod.putLock_pat (m : Mod) (n : Nat) (l : Lock) : (m.putLock n l).pat = m.pat := rfl
@[simp] theorem Mod.putLock_shu (m : Mod) (n : Nat) (l : Lock) : (m.putLock n l).shu = m.shu := rfl
@[simp] theorem Mod.putLock_spl (m : Mod) (n : Nat) (l : Lock) : (m.putLock n l).spl = m.spl := rfl
@[simp] theorem Mod.putLock_thm (m : Mod) (n : Nat) (l : Lock) : (m.putLock n l).thm = m.thm := rfl
@[simp] theorem Mod.putLock_msix (m : Mod) (n : Nat) (l : Lock) : (m.putLock n l).msix = m.msix := rfl
@[simp] theorem Mod.putLock_sel (m : Mod) (n : Nat) (l : Lock) : (m.putLock n l).sel = m.sel := rfl
@[simp] theorem Mod.putLock_sto (m : Mod) (n : Nat) (l : Lock) : (m.putLock n l).sto = m.sto := rfl
@[simp] theorem Mod.putLock_jxl (m : Mod) (n : Nat) (l : Lock) : (m.putLock n l).jxl = m.jxl := rfl
@[simp] theorem Mod.putLock_chalk (m : Mod) (n : Nat) (l : Lock) : (m.putLock n l).chalk = m.chalk := rfl
@[simp] theorem Mod.putLock_img (m : Mod) (n : Nat) (l : Lock) : (m.putLock n l).img = m.img := rfl
@[simp] theorem Mod.putLock_get (m : Mod) (n : Nat) (l : Lock) (f' : Fld) (ix' : List Nat) : (m.putLock n l).get f' ix' = m.get f' ix' := rfl

/-! ### `Mod.setTl` -/

@[simp] theorem Mod.setTl_regs (m : Mod) (g : Tapeline → Tapeline) : (m.setTl g).regs = m.regs := rfl
@[simp] theorem Mod.setTl_latches (m : Mod) (g : Tapeline → Tapeline) : (m.setTl g).latches = m.latches := rfl
@[simp] theorem Mod.setTl_outs (m : Mod) (g : Tapeline → Tapeline) : (m.setTl g).outs = m.outs := rfl
@[simp] theorem Mod.setTl_drawn (m : Mod) (g : Tapeline → Tapeline) : (m.setTl g).drawn = m.drawn := rfl
@[simp] theorem Mod.setTl_powered (m : Mod) (g : Tapeline → Tapeline) : (m.setTl g).powered = m.powered := rfl
@[simp] theorem Mod.setTl_tripped (m : Mod) (g : Tapeline → Tapeline) : (m.setTl g).tripped = m.tripped := rfl
@[simp] theorem Mod.setTl_perst (m : Mod) (g : Tapeline → Tapeline) : (m.setTl g).perst = m.perst := rfl
@[simp] theorem Mod.setTl_ownReset (m : Mod) (g : Tapeline → Tapeline) : (m.setTl g).ownReset = m.ownReset := rfl
@[simp] theorem Mod.setTl_holds (m : Mod) (g : Tapeline → Tapeline) : (m.setTl g).holds = m.holds := rfl
@[simp] theorem Mod.setTl_pwr (m : Mod) (g : Tapeline → Tapeline) : (m.setTl g).pwr = m.pwr := rfl
@[simp] theorem Mod.setTl_ecc (m : Mod) (g : Tapeline → Tapeline) : (m.setTl g).ecc = m.ecc := rfl
@[simp] theorem Mod.setTl_now (m : Mod) (g : Tapeline → Tapeline) : (m.setTl g).now = m.now := rfl
@[simp] theorem Mod.setTl_alog (m : Mod) (g : Tapeline → Tapeline) : (m.setTl g).alog = m.alog := rfl
@[simp] theorem Mod.setTl_logq (m : Mod) (g : Tapeline → Tapeline) : (m.setTl g).logq = m.logq := rfl
@[simp] theorem Mod.setTl_fit (m : Mod) (g : Tapeline → Tapeline) : (m.setTl g).fit = m.fit := rfl
@[simp] theorem Mod.setTl_cut (m : Mod) (g : Tapeline → Tapeline) : (m.setTl g).cut = m.cut := rfl
@[simp] theorem Mod.setTl_locks (m : Mod) (g : Tapeline → Tapeline) : (m.setTl g).locks = m.locks := rfl
@[simp] theorem Mod.setTl_mbxStored (m : Mod) (g : Tapeline → Tapeline) : (m.setTl g).mbxStored = m.mbxStored := rfl
@[simp] theorem Mod.setTl_mbxGone (m : Mod) (g : Tapeline → Tapeline) : (m.setTl g).mbxGone = m.mbxGone := rfl
@[simp] theorem Mod.setTl_tack (m : Mod) (g : Tapeline → Tapeline) : (m.setTl g).tack = m.tack := rfl
@[simp] theorem Mod.setTl_wheel (m : Mod) (g : Tapeline → Tapeline) : (m.setTl g).wheel = m.wheel := rfl
@[simp] theorem Mod.setTl_replies (m : Mod) (g : Tapeline → Tapeline) : (m.setTl g).replies = m.replies := rfl
@[simp] theorem Mod.setTl_txns (m : Mod) (g : Tapeline → Tapeline) : (m.setTl g).txns = m.txns := rfl
@[simp] theorem Mod.setTl_txnEnds (m : Mod) (g : Tapeline → Tapeline) : (m.setTl g).txnEnds = m.txnEnds := rfl
@[simp] theorem Mod.setTl_plt (m : Mod) (g : Tapeline → Tapeline) : (m.setTl g).plt = m.plt := rfl
@[simp] theorem Mod.setTl_hem (m : Mod) (g : Tapeline → Tapeline) : (m.setTl g).hem = m.hem := rfl
@[simp] theorem Mod.setTl_hsub (m : Mod) (g : Tapeline → Tapeline) : (m.setTl g).hsub = m.hsub := rfl
@[simp] theorem Mod.setTl_hcopy (m : Mod) (g : Tapeline → Tapeline) : (m.setTl g).hcopy = m.hcopy := rfl
@[simp] theorem Mod.setTl_prt (m : Mod) (g : Tapeline → Tapeline) : (m.setTl g).prt = m.prt := rfl
@[simp] theorem Mod.setTl_bob (m : Mod) (g : Tapeline → Tapeline) : (m.setTl g).bob = m.bob := rfl
@[simp] theorem Mod.setTl_pat (m : Mod) (g : Tapeline → Tapeline) : (m.setTl g).pat = m.pat := rfl
@[simp] theorem Mod.setTl_shu (m : Mod) (g : Tapeline → Tapeline) : (m.setTl g).shu = m.shu := rfl
@[simp] theorem Mod.setTl_spl (m : Mod) (g : Tapeline → Tapeline) : (m.setTl g).spl = m.spl := rfl
@[simp] theorem Mod.setTl_thm (m : Mod) (g : Tapeline → Tapeline) : (m.setTl g).thm = m.thm := rfl
@[simp] theorem Mod.setTl_msix (m : Mod) (g : Tapeline → Tapeline) : (m.setTl g).msix = m.msix := rfl
@[simp] theorem Mod.setTl_sel (m : Mod) (g : Tapeline → Tapeline) : (m.setTl g).sel = m.sel := rfl
@[simp] theorem Mod.setTl_sto (m : Mod) (g : Tapeline → Tapeline) : (m.setTl g).sto = m.sto := rfl
@[simp] theorem Mod.setTl_jxl (m : Mod) (g : Tapeline → Tapeline) : (m.setTl g).jxl = m.jxl := rfl
@[simp] theorem Mod.setTl_chalk (m : Mod) (g : Tapeline → Tapeline) : (m.setTl g).chalk = m.chalk := rfl
@[simp] theorem Mod.setTl_img (m : Mod) (g : Tapeline → Tapeline) : (m.setTl g).img = m.img := rfl
@[simp] theorem Mod.setTl_get (m : Mod) (g : Tapeline → Tapeline) (f' : Fld) (ix' : List Nat) : (m.setTl g).get f' ix' = m.get f' ix' := rfl

/-! ### `Mod.setTack` -/

@[simp] theorem Mod.setTack_regs (m : Mod) (g : Tack → Tack) : (m.setTack g).regs = m.regs := rfl
@[simp] theorem Mod.setTack_latches (m : Mod) (g : Tack → Tack) : (m.setTack g).latches = m.latches := rfl
@[simp] theorem Mod.setTack_outs (m : Mod) (g : Tack → Tack) : (m.setTack g).outs = m.outs := rfl
@[simp] theorem Mod.setTack_drawn (m : Mod) (g : Tack → Tack) : (m.setTack g).drawn = m.drawn := rfl
@[simp] theorem Mod.setTack_powered (m : Mod) (g : Tack → Tack) : (m.setTack g).powered = m.powered := rfl
@[simp] theorem Mod.setTack_tripped (m : Mod) (g : Tack → Tack) : (m.setTack g).tripped = m.tripped := rfl
@[simp] theorem Mod.setTack_perst (m : Mod) (g : Tack → Tack) : (m.setTack g).perst = m.perst := rfl
@[simp] theorem Mod.setTack_ownReset (m : Mod) (g : Tack → Tack) : (m.setTack g).ownReset = m.ownReset := rfl
@[simp] theorem Mod.setTack_holds (m : Mod) (g : Tack → Tack) : (m.setTack g).holds = m.holds := rfl
@[simp] theorem Mod.setTack_pwr (m : Mod) (g : Tack → Tack) : (m.setTack g).pwr = m.pwr := rfl
@[simp] theorem Mod.setTack_ecc (m : Mod) (g : Tack → Tack) : (m.setTack g).ecc = m.ecc := rfl
@[simp] theorem Mod.setTack_now (m : Mod) (g : Tack → Tack) : (m.setTack g).now = m.now := rfl
@[simp] theorem Mod.setTack_alog (m : Mod) (g : Tack → Tack) : (m.setTack g).alog = m.alog := rfl
@[simp] theorem Mod.setTack_logq (m : Mod) (g : Tack → Tack) : (m.setTack g).logq = m.logq := rfl
@[simp] theorem Mod.setTack_fit (m : Mod) (g : Tack → Tack) : (m.setTack g).fit = m.fit := rfl
@[simp] theorem Mod.setTack_cut (m : Mod) (g : Tack → Tack) : (m.setTack g).cut = m.cut := rfl
@[simp] theorem Mod.setTack_locks (m : Mod) (g : Tack → Tack) : (m.setTack g).locks = m.locks := rfl
@[simp] theorem Mod.setTack_mbxStored (m : Mod) (g : Tack → Tack) : (m.setTack g).mbxStored = m.mbxStored := rfl
@[simp] theorem Mod.setTack_mbxGone (m : Mod) (g : Tack → Tack) : (m.setTack g).mbxGone = m.mbxGone := rfl
@[simp] theorem Mod.setTack_tl (m : Mod) (g : Tack → Tack) : (m.setTack g).tl = m.tl := rfl
@[simp] theorem Mod.setTack_wheel (m : Mod) (g : Tack → Tack) : (m.setTack g).wheel = m.wheel := rfl
@[simp] theorem Mod.setTack_replies (m : Mod) (g : Tack → Tack) : (m.setTack g).replies = m.replies := rfl
@[simp] theorem Mod.setTack_txns (m : Mod) (g : Tack → Tack) : (m.setTack g).txns = m.txns := rfl
@[simp] theorem Mod.setTack_txnEnds (m : Mod) (g : Tack → Tack) : (m.setTack g).txnEnds = m.txnEnds := rfl
@[simp] theorem Mod.setTack_plt (m : Mod) (g : Tack → Tack) : (m.setTack g).plt = m.plt := rfl
@[simp] theorem Mod.setTack_hem (m : Mod) (g : Tack → Tack) : (m.setTack g).hem = m.hem := rfl
@[simp] theorem Mod.setTack_hsub (m : Mod) (g : Tack → Tack) : (m.setTack g).hsub = m.hsub := rfl
@[simp] theorem Mod.setTack_hcopy (m : Mod) (g : Tack → Tack) : (m.setTack g).hcopy = m.hcopy := rfl
@[simp] theorem Mod.setTack_prt (m : Mod) (g : Tack → Tack) : (m.setTack g).prt = m.prt := rfl
@[simp] theorem Mod.setTack_bob (m : Mod) (g : Tack → Tack) : (m.setTack g).bob = m.bob := rfl
@[simp] theorem Mod.setTack_pat (m : Mod) (g : Tack → Tack) : (m.setTack g).pat = m.pat := rfl
@[simp] theorem Mod.setTack_shu (m : Mod) (g : Tack → Tack) : (m.setTack g).shu = m.shu := rfl
@[simp] theorem Mod.setTack_spl (m : Mod) (g : Tack → Tack) : (m.setTack g).spl = m.spl := rfl
@[simp] theorem Mod.setTack_thm (m : Mod) (g : Tack → Tack) : (m.setTack g).thm = m.thm := rfl
@[simp] theorem Mod.setTack_msix (m : Mod) (g : Tack → Tack) : (m.setTack g).msix = m.msix := rfl
@[simp] theorem Mod.setTack_sel (m : Mod) (g : Tack → Tack) : (m.setTack g).sel = m.sel := rfl
@[simp] theorem Mod.setTack_sto (m : Mod) (g : Tack → Tack) : (m.setTack g).sto = m.sto := rfl
@[simp] theorem Mod.setTack_jxl (m : Mod) (g : Tack → Tack) : (m.setTack g).jxl = m.jxl := rfl
@[simp] theorem Mod.setTack_chalk (m : Mod) (g : Tack → Tack) : (m.setTack g).chalk = m.chalk := rfl
@[simp] theorem Mod.setTack_img (m : Mod) (g : Tack → Tack) : (m.setTack g).img = m.img := rfl
@[simp] theorem Mod.setTack_get (m : Mod) (g : Tack → Tack) (f' : Fld) (ix' : List Nat) : (m.setTack g).get f' ix' = m.get f' ix' := rfl

/-! ### `Mod.putPtm` -/

@[simp] theorem Mod.putPtm_regs (m : Mod) (e : Nat) (p : Ptm) : (m.putPtm e p).regs = m.regs := rfl
@[simp] theorem Mod.putPtm_latches (m : Mod) (e : Nat) (p : Ptm) : (m.putPtm e p).latches = m.latches := rfl
@[simp] theorem Mod.putPtm_outs (m : Mod) (e : Nat) (p : Ptm) : (m.putPtm e p).outs = m.outs := rfl
@[simp] theorem Mod.putPtm_drawn (m : Mod) (e : Nat) (p : Ptm) : (m.putPtm e p).drawn = m.drawn := rfl
@[simp] theorem Mod.putPtm_powered (m : Mod) (e : Nat) (p : Ptm) : (m.putPtm e p).powered = m.powered := rfl
@[simp] theorem Mod.putPtm_tripped (m : Mod) (e : Nat) (p : Ptm) : (m.putPtm e p).tripped = m.tripped := rfl
@[simp] theorem Mod.putPtm_perst (m : Mod) (e : Nat) (p : Ptm) : (m.putPtm e p).perst = m.perst := rfl
@[simp] theorem Mod.putPtm_ownReset (m : Mod) (e : Nat) (p : Ptm) : (m.putPtm e p).ownReset = m.ownReset := rfl
@[simp] theorem Mod.putPtm_holds (m : Mod) (e : Nat) (p : Ptm) : (m.putPtm e p).holds = m.holds := rfl
@[simp] theorem Mod.putPtm_pwr (m : Mod) (e : Nat) (p : Ptm) : (m.putPtm e p).pwr = m.pwr := rfl
@[simp] theorem Mod.putPtm_ecc (m : Mod) (e : Nat) (p : Ptm) : (m.putPtm e p).ecc = m.ecc := rfl
@[simp] theorem Mod.putPtm_now (m : Mod) (e : Nat) (p : Ptm) : (m.putPtm e p).now = m.now := rfl
@[simp] theorem Mod.putPtm_alog (m : Mod) (e : Nat) (p : Ptm) : (m.putPtm e p).alog = m.alog := rfl
@[simp] theorem Mod.putPtm_logq (m : Mod) (e : Nat) (p : Ptm) : (m.putPtm e p).logq = m.logq := rfl
@[simp] theorem Mod.putPtm_fit (m : Mod) (e : Nat) (p : Ptm) : (m.putPtm e p).fit = m.fit := rfl
@[simp] theorem Mod.putPtm_cut (m : Mod) (e : Nat) (p : Ptm) : (m.putPtm e p).cut = m.cut := rfl
@[simp] theorem Mod.putPtm_locks (m : Mod) (e : Nat) (p : Ptm) : (m.putPtm e p).locks = m.locks := rfl
@[simp] theorem Mod.putPtm_mbxStored (m : Mod) (e : Nat) (p : Ptm) : (m.putPtm e p).mbxStored = m.mbxStored := rfl
@[simp] theorem Mod.putPtm_mbxGone (m : Mod) (e : Nat) (p : Ptm) : (m.putPtm e p).mbxGone = m.mbxGone := rfl
@[simp] theorem Mod.putPtm_tl (m : Mod) (e : Nat) (p : Ptm) : (m.putPtm e p).tl = m.tl := rfl
@[simp] theorem Mod.putPtm_wheel (m : Mod) (e : Nat) (p : Ptm) : (m.putPtm e p).wheel = m.wheel := rfl
@[simp] theorem Mod.putPtm_replies (m : Mod) (e : Nat) (p : Ptm) : (m.putPtm e p).replies = m.replies := rfl
@[simp] theorem Mod.putPtm_txns (m : Mod) (e : Nat) (p : Ptm) : (m.putPtm e p).txns = m.txns := rfl
@[simp] theorem Mod.putPtm_txnEnds (m : Mod) (e : Nat) (p : Ptm) : (m.putPtm e p).txnEnds = m.txnEnds := rfl
@[simp] theorem Mod.putPtm_plt (m : Mod) (e : Nat) (p : Ptm) : (m.putPtm e p).plt = m.plt := rfl
@[simp] theorem Mod.putPtm_hem (m : Mod) (e : Nat) (p : Ptm) : (m.putPtm e p).hem = m.hem := rfl
@[simp] theorem Mod.putPtm_hsub (m : Mod) (e : Nat) (p : Ptm) : (m.putPtm e p).hsub = m.hsub := rfl
@[simp] theorem Mod.putPtm_hcopy (m : Mod) (e : Nat) (p : Ptm) : (m.putPtm e p).hcopy = m.hcopy := rfl
@[simp] theorem Mod.putPtm_prt (m : Mod) (e : Nat) (p : Ptm) : (m.putPtm e p).prt = m.prt := rfl
@[simp] theorem Mod.putPtm_bob (m : Mod) (e : Nat) (p : Ptm) : (m.putPtm e p).bob = m.bob := rfl
@[simp] theorem Mod.putPtm_pat (m : Mod) (e : Nat) (p : Ptm) : (m.putPtm e p).pat = m.pat := rfl
@[simp] theorem Mod.putPtm_shu (m : Mod) (e : Nat) (p : Ptm) : (m.putPtm e p).shu = m.shu := rfl
@[simp] theorem Mod.putPtm_spl (m : Mod) (e : Nat) (p : Ptm) : (m.putPtm e p).spl = m.spl := rfl
@[simp] theorem Mod.putPtm_thm (m : Mod) (e : Nat) (p : Ptm) : (m.putPtm e p).thm = m.thm := rfl
@[simp] theorem Mod.putPtm_msix (m : Mod) (e : Nat) (p : Ptm) : (m.putPtm e p).msix = m.msix := rfl
@[simp] theorem Mod.putPtm_sel (m : Mod) (e : Nat) (p : Ptm) : (m.putPtm e p).sel = m.sel := rfl
@[simp] theorem Mod.putPtm_sto (m : Mod) (e : Nat) (p : Ptm) : (m.putPtm e p).sto = m.sto := rfl
@[simp] theorem Mod.putPtm_jxl (m : Mod) (e : Nat) (p : Ptm) : (m.putPtm e p).jxl = m.jxl := rfl
@[simp] theorem Mod.putPtm_chalk (m : Mod) (e : Nat) (p : Ptm) : (m.putPtm e p).chalk = m.chalk := rfl
@[simp] theorem Mod.putPtm_img (m : Mod) (e : Nat) (p : Ptm) : (m.putPtm e p).img = m.img := rfl
@[simp] theorem Mod.putPtm_get (m : Mod) (e : Nat) (p : Ptm) (f' : Fld) (ix' : List Nat) : (m.putPtm e p).get f' ix' = m.get f' ix' := rfl

/-! ### `Mod.setSel` -/

@[simp] theorem Mod.setSel_regs (m : Mod) (g : Sel → Sel) : (m.setSel g).regs = m.regs := rfl
@[simp] theorem Mod.setSel_latches (m : Mod) (g : Sel → Sel) : (m.setSel g).latches = m.latches := rfl
@[simp] theorem Mod.setSel_outs (m : Mod) (g : Sel → Sel) : (m.setSel g).outs = m.outs := rfl
@[simp] theorem Mod.setSel_drawn (m : Mod) (g : Sel → Sel) : (m.setSel g).drawn = m.drawn := rfl
@[simp] theorem Mod.setSel_powered (m : Mod) (g : Sel → Sel) : (m.setSel g).powered = m.powered := rfl
@[simp] theorem Mod.setSel_tripped (m : Mod) (g : Sel → Sel) : (m.setSel g).tripped = m.tripped := rfl
@[simp] theorem Mod.setSel_perst (m : Mod) (g : Sel → Sel) : (m.setSel g).perst = m.perst := rfl
@[simp] theorem Mod.setSel_ownReset (m : Mod) (g : Sel → Sel) : (m.setSel g).ownReset = m.ownReset := rfl
@[simp] theorem Mod.setSel_holds (m : Mod) (g : Sel → Sel) : (m.setSel g).holds = m.holds := rfl
@[simp] theorem Mod.setSel_pwr (m : Mod) (g : Sel → Sel) : (m.setSel g).pwr = m.pwr := rfl
@[simp] theorem Mod.setSel_ecc (m : Mod) (g : Sel → Sel) : (m.setSel g).ecc = m.ecc := rfl
@[simp] theorem Mod.setSel_now (m : Mod) (g : Sel → Sel) : (m.setSel g).now = m.now := rfl
@[simp] theorem Mod.setSel_alog (m : Mod) (g : Sel → Sel) : (m.setSel g).alog = m.alog := rfl
@[simp] theorem Mod.setSel_logq (m : Mod) (g : Sel → Sel) : (m.setSel g).logq = m.logq := rfl
@[simp] theorem Mod.setSel_fit (m : Mod) (g : Sel → Sel) : (m.setSel g).fit = m.fit := rfl
@[simp] theorem Mod.setSel_cut (m : Mod) (g : Sel → Sel) : (m.setSel g).cut = m.cut := rfl
@[simp] theorem Mod.setSel_locks (m : Mod) (g : Sel → Sel) : (m.setSel g).locks = m.locks := rfl
@[simp] theorem Mod.setSel_mbxStored (m : Mod) (g : Sel → Sel) : (m.setSel g).mbxStored = m.mbxStored := rfl
@[simp] theorem Mod.setSel_mbxGone (m : Mod) (g : Sel → Sel) : (m.setSel g).mbxGone = m.mbxGone := rfl
@[simp] theorem Mod.setSel_tl (m : Mod) (g : Sel → Sel) : (m.setSel g).tl = m.tl := rfl
@[simp] theorem Mod.setSel_tack (m : Mod) (g : Sel → Sel) : (m.setSel g).tack = m.tack := rfl
@[simp] theorem Mod.setSel_wheel (m : Mod) (g : Sel → Sel) : (m.setSel g).wheel = m.wheel := rfl
@[simp] theorem Mod.setSel_replies (m : Mod) (g : Sel → Sel) : (m.setSel g).replies = m.replies := rfl
@[simp] theorem Mod.setSel_txns (m : Mod) (g : Sel → Sel) : (m.setSel g).txns = m.txns := rfl
@[simp] theorem Mod.setSel_txnEnds (m : Mod) (g : Sel → Sel) : (m.setSel g).txnEnds = m.txnEnds := rfl
@[simp] theorem Mod.setSel_plt (m : Mod) (g : Sel → Sel) : (m.setSel g).plt = m.plt := rfl
@[simp] theorem Mod.setSel_hem (m : Mod) (g : Sel → Sel) : (m.setSel g).hem = m.hem := rfl
@[simp] theorem Mod.setSel_hsub (m : Mod) (g : Sel → Sel) : (m.setSel g).hsub = m.hsub := rfl
@[simp] theorem Mod.setSel_hcopy (m : Mod) (g : Sel → Sel) : (m.setSel g).hcopy = m.hcopy := rfl
@[simp] theorem Mod.setSel_prt (m : Mod) (g : Sel → Sel) : (m.setSel g).prt = m.prt := rfl
@[simp] theorem Mod.setSel_bob (m : Mod) (g : Sel → Sel) : (m.setSel g).bob = m.bob := rfl
@[simp] theorem Mod.setSel_pat (m : Mod) (g : Sel → Sel) : (m.setSel g).pat = m.pat := rfl
@[simp] theorem Mod.setSel_shu (m : Mod) (g : Sel → Sel) : (m.setSel g).shu = m.shu := rfl
@[simp] theorem Mod.setSel_spl (m : Mod) (g : Sel → Sel) : (m.setSel g).spl = m.spl := rfl
@[simp] theorem Mod.setSel_thm (m : Mod) (g : Sel → Sel) : (m.setSel g).thm = m.thm := rfl
@[simp] theorem Mod.setSel_msix (m : Mod) (g : Sel → Sel) : (m.setSel g).msix = m.msix := rfl
@[simp] theorem Mod.setSel_sto (m : Mod) (g : Sel → Sel) : (m.setSel g).sto = m.sto := rfl
@[simp] theorem Mod.setSel_jxl (m : Mod) (g : Sel → Sel) : (m.setSel g).jxl = m.jxl := rfl
@[simp] theorem Mod.setSel_chalk (m : Mod) (g : Sel → Sel) : (m.setSel g).chalk = m.chalk := rfl
@[simp] theorem Mod.setSel_img (m : Mod) (g : Sel → Sel) : (m.setSel g).img = m.img := rfl
@[simp] theorem Mod.setSel_get (m : Mod) (g : Sel → Sel) (f' : Fld) (ix' : List Nat) : (m.setSel g).get f' ix' = m.get f' ix' := rfl

/-! ### `Mod.setSpl` -/

@[simp] theorem Mod.setSpl_regs (m : Mod) (g : Spool → Spool) : (m.setSpl g).regs = m.regs := rfl
@[simp] theorem Mod.setSpl_latches (m : Mod) (g : Spool → Spool) : (m.setSpl g).latches = m.latches := rfl
@[simp] theorem Mod.setSpl_outs (m : Mod) (g : Spool → Spool) : (m.setSpl g).outs = m.outs := rfl
@[simp] theorem Mod.setSpl_drawn (m : Mod) (g : Spool → Spool) : (m.setSpl g).drawn = m.drawn := rfl
@[simp] theorem Mod.setSpl_powered (m : Mod) (g : Spool → Spool) : (m.setSpl g).powered = m.powered := rfl
@[simp] theorem Mod.setSpl_tripped (m : Mod) (g : Spool → Spool) : (m.setSpl g).tripped = m.tripped := rfl
@[simp] theorem Mod.setSpl_perst (m : Mod) (g : Spool → Spool) : (m.setSpl g).perst = m.perst := rfl
@[simp] theorem Mod.setSpl_ownReset (m : Mod) (g : Spool → Spool) : (m.setSpl g).ownReset = m.ownReset := rfl
@[simp] theorem Mod.setSpl_holds (m : Mod) (g : Spool → Spool) : (m.setSpl g).holds = m.holds := rfl
@[simp] theorem Mod.setSpl_pwr (m : Mod) (g : Spool → Spool) : (m.setSpl g).pwr = m.pwr := rfl
@[simp] theorem Mod.setSpl_ecc (m : Mod) (g : Spool → Spool) : (m.setSpl g).ecc = m.ecc := rfl
@[simp] theorem Mod.setSpl_now (m : Mod) (g : Spool → Spool) : (m.setSpl g).now = m.now := rfl
@[simp] theorem Mod.setSpl_alog (m : Mod) (g : Spool → Spool) : (m.setSpl g).alog = m.alog := rfl
@[simp] theorem Mod.setSpl_logq (m : Mod) (g : Spool → Spool) : (m.setSpl g).logq = m.logq := rfl
@[simp] theorem Mod.setSpl_fit (m : Mod) (g : Spool → Spool) : (m.setSpl g).fit = m.fit := rfl
@[simp] theorem Mod.setSpl_cut (m : Mod) (g : Spool → Spool) : (m.setSpl g).cut = m.cut := rfl
@[simp] theorem Mod.setSpl_locks (m : Mod) (g : Spool → Spool) : (m.setSpl g).locks = m.locks := rfl
@[simp] theorem Mod.setSpl_mbxStored (m : Mod) (g : Spool → Spool) : (m.setSpl g).mbxStored = m.mbxStored := rfl
@[simp] theorem Mod.setSpl_mbxGone (m : Mod) (g : Spool → Spool) : (m.setSpl g).mbxGone = m.mbxGone := rfl
@[simp] theorem Mod.setSpl_tl (m : Mod) (g : Spool → Spool) : (m.setSpl g).tl = m.tl := rfl
@[simp] theorem Mod.setSpl_tack (m : Mod) (g : Spool → Spool) : (m.setSpl g).tack = m.tack := rfl
@[simp] theorem Mod.setSpl_wheel (m : Mod) (g : Spool → Spool) : (m.setSpl g).wheel = m.wheel := rfl
@[simp] theorem Mod.setSpl_replies (m : Mod) (g : Spool → Spool) : (m.setSpl g).replies = m.replies := rfl
@[simp] theorem Mod.setSpl_txns (m : Mod) (g : Spool → Spool) : (m.setSpl g).txns = m.txns := rfl
@[simp] theorem Mod.setSpl_txnEnds (m : Mod) (g : Spool → Spool) : (m.setSpl g).txnEnds = m.txnEnds := rfl
@[simp] theorem Mod.setSpl_plt (m : Mod) (g : Spool → Spool) : (m.setSpl g).plt = m.plt := rfl
@[simp] theorem Mod.setSpl_hem (m : Mod) (g : Spool → Spool) : (m.setSpl g).hem = m.hem := rfl
@[simp] theorem Mod.setSpl_hsub (m : Mod) (g : Spool → Spool) : (m.setSpl g).hsub = m.hsub := rfl
@[simp] theorem Mod.setSpl_hcopy (m : Mod) (g : Spool → Spool) : (m.setSpl g).hcopy = m.hcopy := rfl
@[simp] theorem Mod.setSpl_prt (m : Mod) (g : Spool → Spool) : (m.setSpl g).prt = m.prt := rfl
@[simp] theorem Mod.setSpl_bob (m : Mod) (g : Spool → Spool) : (m.setSpl g).bob = m.bob := rfl
@[simp] theorem Mod.setSpl_pat (m : Mod) (g : Spool → Spool) : (m.setSpl g).pat = m.pat := rfl
@[simp] theorem Mod.setSpl_shu (m : Mod) (g : Spool → Spool) : (m.setSpl g).shu = m.shu := rfl
@[simp] theorem Mod.setSpl_thm (m : Mod) (g : Spool → Spool) : (m.setSpl g).thm = m.thm := rfl
@[simp] theorem Mod.setSpl_msix (m : Mod) (g : Spool → Spool) : (m.setSpl g).msix = m.msix := rfl
@[simp] theorem Mod.setSpl_sel (m : Mod) (g : Spool → Spool) : (m.setSpl g).sel = m.sel := rfl
@[simp] theorem Mod.setSpl_sto (m : Mod) (g : Spool → Spool) : (m.setSpl g).sto = m.sto := rfl
@[simp] theorem Mod.setSpl_jxl (m : Mod) (g : Spool → Spool) : (m.setSpl g).jxl = m.jxl := rfl
@[simp] theorem Mod.setSpl_chalk (m : Mod) (g : Spool → Spool) : (m.setSpl g).chalk = m.chalk := rfl
@[simp] theorem Mod.setSpl_img (m : Mod) (g : Spool → Spool) : (m.setSpl g).img = m.img := rfl
@[simp] theorem Mod.setSpl_get (m : Mod) (g : Spool → Spool) (f' : Fld) (ix' : List Nat) : (m.setSpl g).get f' ix' = m.get f' ix' := rfl

/-! ### `Mod.setSto` -/

@[simp] theorem Mod.setSto_regs (m : Mod) (g : Sto → Sto) : (m.setSto g).regs = m.regs := rfl
@[simp] theorem Mod.setSto_latches (m : Mod) (g : Sto → Sto) : (m.setSto g).latches = m.latches := rfl
@[simp] theorem Mod.setSto_outs (m : Mod) (g : Sto → Sto) : (m.setSto g).outs = m.outs := rfl
@[simp] theorem Mod.setSto_drawn (m : Mod) (g : Sto → Sto) : (m.setSto g).drawn = m.drawn := rfl
@[simp] theorem Mod.setSto_powered (m : Mod) (g : Sto → Sto) : (m.setSto g).powered = m.powered := rfl
@[simp] theorem Mod.setSto_tripped (m : Mod) (g : Sto → Sto) : (m.setSto g).tripped = m.tripped := rfl
@[simp] theorem Mod.setSto_perst (m : Mod) (g : Sto → Sto) : (m.setSto g).perst = m.perst := rfl
@[simp] theorem Mod.setSto_ownReset (m : Mod) (g : Sto → Sto) : (m.setSto g).ownReset = m.ownReset := rfl
@[simp] theorem Mod.setSto_holds (m : Mod) (g : Sto → Sto) : (m.setSto g).holds = m.holds := rfl
@[simp] theorem Mod.setSto_pwr (m : Mod) (g : Sto → Sto) : (m.setSto g).pwr = m.pwr := rfl
@[simp] theorem Mod.setSto_ecc (m : Mod) (g : Sto → Sto) : (m.setSto g).ecc = m.ecc := rfl
@[simp] theorem Mod.setSto_now (m : Mod) (g : Sto → Sto) : (m.setSto g).now = m.now := rfl
@[simp] theorem Mod.setSto_alog (m : Mod) (g : Sto → Sto) : (m.setSto g).alog = m.alog := rfl
@[simp] theorem Mod.setSto_logq (m : Mod) (g : Sto → Sto) : (m.setSto g).logq = m.logq := rfl
@[simp] theorem Mod.setSto_fit (m : Mod) (g : Sto → Sto) : (m.setSto g).fit = m.fit := rfl
@[simp] theorem Mod.setSto_cut (m : Mod) (g : Sto → Sto) : (m.setSto g).cut = m.cut := rfl
@[simp] theorem Mod.setSto_locks (m : Mod) (g : Sto → Sto) : (m.setSto g).locks = m.locks := rfl
@[simp] theorem Mod.setSto_mbxStored (m : Mod) (g : Sto → Sto) : (m.setSto g).mbxStored = m.mbxStored := rfl
@[simp] theorem Mod.setSto_mbxGone (m : Mod) (g : Sto → Sto) : (m.setSto g).mbxGone = m.mbxGone := rfl
@[simp] theorem Mod.setSto_tl (m : Mod) (g : Sto → Sto) : (m.setSto g).tl = m.tl := rfl
@[simp] theorem Mod.setSto_tack (m : Mod) (g : Sto → Sto) : (m.setSto g).tack = m.tack := rfl
@[simp] theorem Mod.setSto_wheel (m : Mod) (g : Sto → Sto) : (m.setSto g).wheel = m.wheel := rfl
@[simp] theorem Mod.setSto_replies (m : Mod) (g : Sto → Sto) : (m.setSto g).replies = m.replies := rfl
@[simp] theorem Mod.setSto_txns (m : Mod) (g : Sto → Sto) : (m.setSto g).txns = m.txns := rfl
@[simp] theorem Mod.setSto_txnEnds (m : Mod) (g : Sto → Sto) : (m.setSto g).txnEnds = m.txnEnds := rfl
@[simp] theorem Mod.setSto_plt (m : Mod) (g : Sto → Sto) : (m.setSto g).plt = m.plt := rfl
@[simp] theorem Mod.setSto_hem (m : Mod) (g : Sto → Sto) : (m.setSto g).hem = m.hem := rfl
@[simp] theorem Mod.setSto_hsub (m : Mod) (g : Sto → Sto) : (m.setSto g).hsub = m.hsub := rfl
@[simp] theorem Mod.setSto_hcopy (m : Mod) (g : Sto → Sto) : (m.setSto g).hcopy = m.hcopy := rfl
@[simp] theorem Mod.setSto_prt (m : Mod) (g : Sto → Sto) : (m.setSto g).prt = m.prt := rfl
@[simp] theorem Mod.setSto_bob (m : Mod) (g : Sto → Sto) : (m.setSto g).bob = m.bob := rfl
@[simp] theorem Mod.setSto_pat (m : Mod) (g : Sto → Sto) : (m.setSto g).pat = m.pat := rfl
@[simp] theorem Mod.setSto_shu (m : Mod) (g : Sto → Sto) : (m.setSto g).shu = m.shu := rfl
@[simp] theorem Mod.setSto_spl (m : Mod) (g : Sto → Sto) : (m.setSto g).spl = m.spl := rfl
@[simp] theorem Mod.setSto_thm (m : Mod) (g : Sto → Sto) : (m.setSto g).thm = m.thm := rfl
@[simp] theorem Mod.setSto_msix (m : Mod) (g : Sto → Sto) : (m.setSto g).msix = m.msix := rfl
@[simp] theorem Mod.setSto_sel (m : Mod) (g : Sto → Sto) : (m.setSto g).sel = m.sel := rfl
@[simp] theorem Mod.setSto_jxl (m : Mod) (g : Sto → Sto) : (m.setSto g).jxl = m.jxl := rfl
@[simp] theorem Mod.setSto_chalk (m : Mod) (g : Sto → Sto) : (m.setSto g).chalk = m.chalk := rfl
@[simp] theorem Mod.setSto_img (m : Mod) (g : Sto → Sto) : (m.setSto g).img = m.img := rfl
@[simp] theorem Mod.setSto_get (m : Mod) (g : Sto → Sto) (f' : Fld) (ix' : List Nat) : (m.setSto g).get f' ix' = m.get f' ix' := rfl

/-! ### `Mod.setThm` -/

@[simp] theorem Mod.setThm_regs (m : Mod) (g : Thimble → Thimble) : (m.setThm g).regs = m.regs := rfl
@[simp] theorem Mod.setThm_latches (m : Mod) (g : Thimble → Thimble) : (m.setThm g).latches = m.latches := rfl
@[simp] theorem Mod.setThm_outs (m : Mod) (g : Thimble → Thimble) : (m.setThm g).outs = m.outs := rfl
@[simp] theorem Mod.setThm_drawn (m : Mod) (g : Thimble → Thimble) : (m.setThm g).drawn = m.drawn := rfl
@[simp] theorem Mod.setThm_powered (m : Mod) (g : Thimble → Thimble) : (m.setThm g).powered = m.powered := rfl
@[simp] theorem Mod.setThm_tripped (m : Mod) (g : Thimble → Thimble) : (m.setThm g).tripped = m.tripped := rfl
@[simp] theorem Mod.setThm_perst (m : Mod) (g : Thimble → Thimble) : (m.setThm g).perst = m.perst := rfl
@[simp] theorem Mod.setThm_ownReset (m : Mod) (g : Thimble → Thimble) : (m.setThm g).ownReset = m.ownReset := rfl
@[simp] theorem Mod.setThm_holds (m : Mod) (g : Thimble → Thimble) : (m.setThm g).holds = m.holds := rfl
@[simp] theorem Mod.setThm_pwr (m : Mod) (g : Thimble → Thimble) : (m.setThm g).pwr = m.pwr := rfl
@[simp] theorem Mod.setThm_ecc (m : Mod) (g : Thimble → Thimble) : (m.setThm g).ecc = m.ecc := rfl
@[simp] theorem Mod.setThm_now (m : Mod) (g : Thimble → Thimble) : (m.setThm g).now = m.now := rfl
@[simp] theorem Mod.setThm_alog (m : Mod) (g : Thimble → Thimble) : (m.setThm g).alog = m.alog := rfl
@[simp] theorem Mod.setThm_logq (m : Mod) (g : Thimble → Thimble) : (m.setThm g).logq = m.logq := rfl
@[simp] theorem Mod.setThm_fit (m : Mod) (g : Thimble → Thimble) : (m.setThm g).fit = m.fit := rfl
@[simp] theorem Mod.setThm_cut (m : Mod) (g : Thimble → Thimble) : (m.setThm g).cut = m.cut := rfl
@[simp] theorem Mod.setThm_locks (m : Mod) (g : Thimble → Thimble) : (m.setThm g).locks = m.locks := rfl
@[simp] theorem Mod.setThm_mbxStored (m : Mod) (g : Thimble → Thimble) : (m.setThm g).mbxStored = m.mbxStored := rfl
@[simp] theorem Mod.setThm_mbxGone (m : Mod) (g : Thimble → Thimble) : (m.setThm g).mbxGone = m.mbxGone := rfl
@[simp] theorem Mod.setThm_tl (m : Mod) (g : Thimble → Thimble) : (m.setThm g).tl = m.tl := rfl
@[simp] theorem Mod.setThm_tack (m : Mod) (g : Thimble → Thimble) : (m.setThm g).tack = m.tack := rfl
@[simp] theorem Mod.setThm_wheel (m : Mod) (g : Thimble → Thimble) : (m.setThm g).wheel = m.wheel := rfl
@[simp] theorem Mod.setThm_replies (m : Mod) (g : Thimble → Thimble) : (m.setThm g).replies = m.replies := rfl
@[simp] theorem Mod.setThm_txns (m : Mod) (g : Thimble → Thimble) : (m.setThm g).txns = m.txns := rfl
@[simp] theorem Mod.setThm_txnEnds (m : Mod) (g : Thimble → Thimble) : (m.setThm g).txnEnds = m.txnEnds := rfl
@[simp] theorem Mod.setThm_plt (m : Mod) (g : Thimble → Thimble) : (m.setThm g).plt = m.plt := rfl
@[simp] theorem Mod.setThm_hem (m : Mod) (g : Thimble → Thimble) : (m.setThm g).hem = m.hem := rfl
@[simp] theorem Mod.setThm_hsub (m : Mod) (g : Thimble → Thimble) : (m.setThm g).hsub = m.hsub := rfl
@[simp] theorem Mod.setThm_hcopy (m : Mod) (g : Thimble → Thimble) : (m.setThm g).hcopy = m.hcopy := rfl
@[simp] theorem Mod.setThm_prt (m : Mod) (g : Thimble → Thimble) : (m.setThm g).prt = m.prt := rfl
@[simp] theorem Mod.setThm_bob (m : Mod) (g : Thimble → Thimble) : (m.setThm g).bob = m.bob := rfl
@[simp] theorem Mod.setThm_pat (m : Mod) (g : Thimble → Thimble) : (m.setThm g).pat = m.pat := rfl
@[simp] theorem Mod.setThm_shu (m : Mod) (g : Thimble → Thimble) : (m.setThm g).shu = m.shu := rfl
@[simp] theorem Mod.setThm_spl (m : Mod) (g : Thimble → Thimble) : (m.setThm g).spl = m.spl := rfl
@[simp] theorem Mod.setThm_msix (m : Mod) (g : Thimble → Thimble) : (m.setThm g).msix = m.msix := rfl
@[simp] theorem Mod.setThm_sel (m : Mod) (g : Thimble → Thimble) : (m.setThm g).sel = m.sel := rfl
@[simp] theorem Mod.setThm_sto (m : Mod) (g : Thimble → Thimble) : (m.setThm g).sto = m.sto := rfl
@[simp] theorem Mod.setThm_jxl (m : Mod) (g : Thimble → Thimble) : (m.setThm g).jxl = m.jxl := rfl
@[simp] theorem Mod.setThm_chalk (m : Mod) (g : Thimble → Thimble) : (m.setThm g).chalk = m.chalk := rfl
@[simp] theorem Mod.setThm_img (m : Mod) (g : Thimble → Thimble) : (m.setThm g).img = m.img := rfl
@[simp] theorem Mod.setThm_get (m : Mod) (g : Thimble → Thimble) (f' : Fld) (ix' : List Nat) : (m.setThm g).get f' ix' = m.get f' ix' := rfl

/-! ### `Mod.setShu` -/

@[simp] theorem Mod.setShu_regs (m : Mod) (g : Shuttle → Shuttle) : (m.setShu g).regs = m.regs := rfl
@[simp] theorem Mod.setShu_latches (m : Mod) (g : Shuttle → Shuttle) : (m.setShu g).latches = m.latches := rfl
@[simp] theorem Mod.setShu_outs (m : Mod) (g : Shuttle → Shuttle) : (m.setShu g).outs = m.outs := rfl
@[simp] theorem Mod.setShu_drawn (m : Mod) (g : Shuttle → Shuttle) : (m.setShu g).drawn = m.drawn := rfl
@[simp] theorem Mod.setShu_powered (m : Mod) (g : Shuttle → Shuttle) : (m.setShu g).powered = m.powered := rfl
@[simp] theorem Mod.setShu_tripped (m : Mod) (g : Shuttle → Shuttle) : (m.setShu g).tripped = m.tripped := rfl
@[simp] theorem Mod.setShu_perst (m : Mod) (g : Shuttle → Shuttle) : (m.setShu g).perst = m.perst := rfl
@[simp] theorem Mod.setShu_ownReset (m : Mod) (g : Shuttle → Shuttle) : (m.setShu g).ownReset = m.ownReset := rfl
@[simp] theorem Mod.setShu_holds (m : Mod) (g : Shuttle → Shuttle) : (m.setShu g).holds = m.holds := rfl
@[simp] theorem Mod.setShu_pwr (m : Mod) (g : Shuttle → Shuttle) : (m.setShu g).pwr = m.pwr := rfl
@[simp] theorem Mod.setShu_ecc (m : Mod) (g : Shuttle → Shuttle) : (m.setShu g).ecc = m.ecc := rfl
@[simp] theorem Mod.setShu_now (m : Mod) (g : Shuttle → Shuttle) : (m.setShu g).now = m.now := rfl
@[simp] theorem Mod.setShu_alog (m : Mod) (g : Shuttle → Shuttle) : (m.setShu g).alog = m.alog := rfl
@[simp] theorem Mod.setShu_logq (m : Mod) (g : Shuttle → Shuttle) : (m.setShu g).logq = m.logq := rfl
@[simp] theorem Mod.setShu_fit (m : Mod) (g : Shuttle → Shuttle) : (m.setShu g).fit = m.fit := rfl
@[simp] theorem Mod.setShu_cut (m : Mod) (g : Shuttle → Shuttle) : (m.setShu g).cut = m.cut := rfl
@[simp] theorem Mod.setShu_locks (m : Mod) (g : Shuttle → Shuttle) : (m.setShu g).locks = m.locks := rfl
@[simp] theorem Mod.setShu_mbxStored (m : Mod) (g : Shuttle → Shuttle) : (m.setShu g).mbxStored = m.mbxStored := rfl
@[simp] theorem Mod.setShu_mbxGone (m : Mod) (g : Shuttle → Shuttle) : (m.setShu g).mbxGone = m.mbxGone := rfl
@[simp] theorem Mod.setShu_tl (m : Mod) (g : Shuttle → Shuttle) : (m.setShu g).tl = m.tl := rfl
@[simp] theorem Mod.setShu_tack (m : Mod) (g : Shuttle → Shuttle) : (m.setShu g).tack = m.tack := rfl
@[simp] theorem Mod.setShu_wheel (m : Mod) (g : Shuttle → Shuttle) : (m.setShu g).wheel = m.wheel := rfl
@[simp] theorem Mod.setShu_replies (m : Mod) (g : Shuttle → Shuttle) : (m.setShu g).replies = m.replies := rfl
@[simp] theorem Mod.setShu_txns (m : Mod) (g : Shuttle → Shuttle) : (m.setShu g).txns = m.txns := rfl
@[simp] theorem Mod.setShu_txnEnds (m : Mod) (g : Shuttle → Shuttle) : (m.setShu g).txnEnds = m.txnEnds := rfl
@[simp] theorem Mod.setShu_plt (m : Mod) (g : Shuttle → Shuttle) : (m.setShu g).plt = m.plt := rfl
@[simp] theorem Mod.setShu_hem (m : Mod) (g : Shuttle → Shuttle) : (m.setShu g).hem = m.hem := rfl
@[simp] theorem Mod.setShu_hsub (m : Mod) (g : Shuttle → Shuttle) : (m.setShu g).hsub = m.hsub := rfl
@[simp] theorem Mod.setShu_hcopy (m : Mod) (g : Shuttle → Shuttle) : (m.setShu g).hcopy = m.hcopy := rfl
@[simp] theorem Mod.setShu_prt (m : Mod) (g : Shuttle → Shuttle) : (m.setShu g).prt = m.prt := rfl
@[simp] theorem Mod.setShu_bob (m : Mod) (g : Shuttle → Shuttle) : (m.setShu g).bob = m.bob := rfl
@[simp] theorem Mod.setShu_pat (m : Mod) (g : Shuttle → Shuttle) : (m.setShu g).pat = m.pat := rfl
@[simp] theorem Mod.setShu_spl (m : Mod) (g : Shuttle → Shuttle) : (m.setShu g).spl = m.spl := rfl
@[simp] theorem Mod.setShu_thm (m : Mod) (g : Shuttle → Shuttle) : (m.setShu g).thm = m.thm := rfl
@[simp] theorem Mod.setShu_msix (m : Mod) (g : Shuttle → Shuttle) : (m.setShu g).msix = m.msix := rfl
@[simp] theorem Mod.setShu_sel (m : Mod) (g : Shuttle → Shuttle) : (m.setShu g).sel = m.sel := rfl
@[simp] theorem Mod.setShu_sto (m : Mod) (g : Shuttle → Shuttle) : (m.setShu g).sto = m.sto := rfl
@[simp] theorem Mod.setShu_jxl (m : Mod) (g : Shuttle → Shuttle) : (m.setShu g).jxl = m.jxl := rfl
@[simp] theorem Mod.setShu_chalk (m : Mod) (g : Shuttle → Shuttle) : (m.setShu g).chalk = m.chalk := rfl
@[simp] theorem Mod.setShu_img (m : Mod) (g : Shuttle → Shuttle) : (m.setShu g).img = m.img := rfl
@[simp] theorem Mod.setShu_get (m : Mod) (g : Shuttle → Shuttle) (f' : Fld) (ix' : List Nat) : (m.setShu g).get f' ix' = m.get f' ix' := rfl

/-! ### `Mod.putSeam` -/

@[simp] theorem Mod.putSeam_regs (m : Mod) (n : Nat) (x : Seam) : (m.putSeam n x).regs = m.regs := rfl
@[simp] theorem Mod.putSeam_latches (m : Mod) (n : Nat) (x : Seam) : (m.putSeam n x).latches = m.latches := rfl
@[simp] theorem Mod.putSeam_outs (m : Mod) (n : Nat) (x : Seam) : (m.putSeam n x).outs = m.outs := rfl
@[simp] theorem Mod.putSeam_drawn (m : Mod) (n : Nat) (x : Seam) : (m.putSeam n x).drawn = m.drawn := rfl
@[simp] theorem Mod.putSeam_powered (m : Mod) (n : Nat) (x : Seam) : (m.putSeam n x).powered = m.powered := rfl
@[simp] theorem Mod.putSeam_tripped (m : Mod) (n : Nat) (x : Seam) : (m.putSeam n x).tripped = m.tripped := rfl
@[simp] theorem Mod.putSeam_perst (m : Mod) (n : Nat) (x : Seam) : (m.putSeam n x).perst = m.perst := rfl
@[simp] theorem Mod.putSeam_ownReset (m : Mod) (n : Nat) (x : Seam) : (m.putSeam n x).ownReset = m.ownReset := rfl
@[simp] theorem Mod.putSeam_holds (m : Mod) (n : Nat) (x : Seam) : (m.putSeam n x).holds = m.holds := rfl
@[simp] theorem Mod.putSeam_pwr (m : Mod) (n : Nat) (x : Seam) : (m.putSeam n x).pwr = m.pwr := rfl
@[simp] theorem Mod.putSeam_ecc (m : Mod) (n : Nat) (x : Seam) : (m.putSeam n x).ecc = m.ecc := rfl
@[simp] theorem Mod.putSeam_now (m : Mod) (n : Nat) (x : Seam) : (m.putSeam n x).now = m.now := rfl
@[simp] theorem Mod.putSeam_alog (m : Mod) (n : Nat) (x : Seam) : (m.putSeam n x).alog = m.alog := rfl
@[simp] theorem Mod.putSeam_logq (m : Mod) (n : Nat) (x : Seam) : (m.putSeam n x).logq = m.logq := rfl
@[simp] theorem Mod.putSeam_fit (m : Mod) (n : Nat) (x : Seam) : (m.putSeam n x).fit = m.fit := rfl
@[simp] theorem Mod.putSeam_cut (m : Mod) (n : Nat) (x : Seam) : (m.putSeam n x).cut = m.cut := rfl
@[simp] theorem Mod.putSeam_locks (m : Mod) (n : Nat) (x : Seam) : (m.putSeam n x).locks = m.locks := rfl
@[simp] theorem Mod.putSeam_mbxStored (m : Mod) (n : Nat) (x : Seam) : (m.putSeam n x).mbxStored = m.mbxStored := rfl
@[simp] theorem Mod.putSeam_mbxGone (m : Mod) (n : Nat) (x : Seam) : (m.putSeam n x).mbxGone = m.mbxGone := rfl
@[simp] theorem Mod.putSeam_tl (m : Mod) (n : Nat) (x : Seam) : (m.putSeam n x).tl = m.tl := rfl
@[simp] theorem Mod.putSeam_tack (m : Mod) (n : Nat) (x : Seam) : (m.putSeam n x).tack = m.tack := rfl
@[simp] theorem Mod.putSeam_wheel (m : Mod) (n : Nat) (x : Seam) : (m.putSeam n x).wheel = m.wheel := rfl
@[simp] theorem Mod.putSeam_replies (m : Mod) (n : Nat) (x : Seam) : (m.putSeam n x).replies = m.replies := rfl
@[simp] theorem Mod.putSeam_txns (m : Mod) (n : Nat) (x : Seam) : (m.putSeam n x).txns = m.txns := rfl
@[simp] theorem Mod.putSeam_txnEnds (m : Mod) (n : Nat) (x : Seam) : (m.putSeam n x).txnEnds = m.txnEnds := rfl
@[simp] theorem Mod.putSeam_plt (m : Mod) (n : Nat) (x : Seam) : (m.putSeam n x).plt = m.plt := rfl
@[simp] theorem Mod.putSeam_hem (m : Mod) (n : Nat) (x : Seam) : (m.putSeam n x).hem = m.hem := rfl
@[simp] theorem Mod.putSeam_hsub (m : Mod) (n : Nat) (x : Seam) : (m.putSeam n x).hsub = m.hsub := rfl
@[simp] theorem Mod.putSeam_hcopy (m : Mod) (n : Nat) (x : Seam) : (m.putSeam n x).hcopy = m.hcopy := rfl
@[simp] theorem Mod.putSeam_prt (m : Mod) (n : Nat) (x : Seam) : (m.putSeam n x).prt = m.prt := rfl
@[simp] theorem Mod.putSeam_bob (m : Mod) (n : Nat) (x : Seam) : (m.putSeam n x).bob = m.bob := rfl
@[simp] theorem Mod.putSeam_pat (m : Mod) (n : Nat) (x : Seam) : (m.putSeam n x).pat = m.pat := rfl
@[simp] theorem Mod.putSeam_spl (m : Mod) (n : Nat) (x : Seam) : (m.putSeam n x).spl = m.spl := rfl
@[simp] theorem Mod.putSeam_thm (m : Mod) (n : Nat) (x : Seam) : (m.putSeam n x).thm = m.thm := rfl
@[simp] theorem Mod.putSeam_msix (m : Mod) (n : Nat) (x : Seam) : (m.putSeam n x).msix = m.msix := rfl
@[simp] theorem Mod.putSeam_sel (m : Mod) (n : Nat) (x : Seam) : (m.putSeam n x).sel = m.sel := rfl
@[simp] theorem Mod.putSeam_sto (m : Mod) (n : Nat) (x : Seam) : (m.putSeam n x).sto = m.sto := rfl
@[simp] theorem Mod.putSeam_jxl (m : Mod) (n : Nat) (x : Seam) : (m.putSeam n x).jxl = m.jxl := rfl
@[simp] theorem Mod.putSeam_chalk (m : Mod) (n : Nat) (x : Seam) : (m.putSeam n x).chalk = m.chalk := rfl
@[simp] theorem Mod.putSeam_img (m : Mod) (n : Nat) (x : Seam) : (m.putSeam n x).img = m.img := rfl
@[simp] theorem Mod.putSeam_get (m : Mod) (n : Nat) (x : Seam) (f' : Fld) (ix' : List Nat) : (m.putSeam n x).get f' ix' = m.get f' ix' := rfl

/-! ### `Mod.putEng` -/

@[simp] theorem Mod.putEng_regs (m : Mod) (n e : Nat) (x : Engine) : (m.putEng n e x).regs = m.regs := rfl
@[simp] theorem Mod.putEng_latches (m : Mod) (n e : Nat) (x : Engine) : (m.putEng n e x).latches = m.latches := rfl
@[simp] theorem Mod.putEng_outs (m : Mod) (n e : Nat) (x : Engine) : (m.putEng n e x).outs = m.outs := rfl
@[simp] theorem Mod.putEng_drawn (m : Mod) (n e : Nat) (x : Engine) : (m.putEng n e x).drawn = m.drawn := rfl
@[simp] theorem Mod.putEng_powered (m : Mod) (n e : Nat) (x : Engine) : (m.putEng n e x).powered = m.powered := rfl
@[simp] theorem Mod.putEng_tripped (m : Mod) (n e : Nat) (x : Engine) : (m.putEng n e x).tripped = m.tripped := rfl
@[simp] theorem Mod.putEng_perst (m : Mod) (n e : Nat) (x : Engine) : (m.putEng n e x).perst = m.perst := rfl
@[simp] theorem Mod.putEng_ownReset (m : Mod) (n e : Nat) (x : Engine) : (m.putEng n e x).ownReset = m.ownReset := rfl
@[simp] theorem Mod.putEng_holds (m : Mod) (n e : Nat) (x : Engine) : (m.putEng n e x).holds = m.holds := rfl
@[simp] theorem Mod.putEng_pwr (m : Mod) (n e : Nat) (x : Engine) : (m.putEng n e x).pwr = m.pwr := rfl
@[simp] theorem Mod.putEng_ecc (m : Mod) (n e : Nat) (x : Engine) : (m.putEng n e x).ecc = m.ecc := rfl
@[simp] theorem Mod.putEng_now (m : Mod) (n e : Nat) (x : Engine) : (m.putEng n e x).now = m.now := rfl
@[simp] theorem Mod.putEng_alog (m : Mod) (n e : Nat) (x : Engine) : (m.putEng n e x).alog = m.alog := rfl
@[simp] theorem Mod.putEng_logq (m : Mod) (n e : Nat) (x : Engine) : (m.putEng n e x).logq = m.logq := rfl
@[simp] theorem Mod.putEng_fit (m : Mod) (n e : Nat) (x : Engine) : (m.putEng n e x).fit = m.fit := rfl
@[simp] theorem Mod.putEng_cut (m : Mod) (n e : Nat) (x : Engine) : (m.putEng n e x).cut = m.cut := rfl
@[simp] theorem Mod.putEng_locks (m : Mod) (n e : Nat) (x : Engine) : (m.putEng n e x).locks = m.locks := rfl
@[simp] theorem Mod.putEng_mbxStored (m : Mod) (n e : Nat) (x : Engine) : (m.putEng n e x).mbxStored = m.mbxStored := rfl
@[simp] theorem Mod.putEng_mbxGone (m : Mod) (n e : Nat) (x : Engine) : (m.putEng n e x).mbxGone = m.mbxGone := rfl
@[simp] theorem Mod.putEng_tl (m : Mod) (n e : Nat) (x : Engine) : (m.putEng n e x).tl = m.tl := rfl
@[simp] theorem Mod.putEng_tack (m : Mod) (n e : Nat) (x : Engine) : (m.putEng n e x).tack = m.tack := rfl
@[simp] theorem Mod.putEng_wheel (m : Mod) (n e : Nat) (x : Engine) : (m.putEng n e x).wheel = m.wheel := rfl
@[simp] theorem Mod.putEng_replies (m : Mod) (n e : Nat) (x : Engine) : (m.putEng n e x).replies = m.replies := rfl
@[simp] theorem Mod.putEng_txns (m : Mod) (n e : Nat) (x : Engine) : (m.putEng n e x).txns = m.txns := rfl
@[simp] theorem Mod.putEng_txnEnds (m : Mod) (n e : Nat) (x : Engine) : (m.putEng n e x).txnEnds = m.txnEnds := rfl
@[simp] theorem Mod.putEng_plt (m : Mod) (n e : Nat) (x : Engine) : (m.putEng n e x).plt = m.plt := rfl
@[simp] theorem Mod.putEng_hem (m : Mod) (n e : Nat) (x : Engine) : (m.putEng n e x).hem = m.hem := rfl
@[simp] theorem Mod.putEng_hsub (m : Mod) (n e : Nat) (x : Engine) : (m.putEng n e x).hsub = m.hsub := rfl
@[simp] theorem Mod.putEng_hcopy (m : Mod) (n e : Nat) (x : Engine) : (m.putEng n e x).hcopy = m.hcopy := rfl
@[simp] theorem Mod.putEng_prt (m : Mod) (n e : Nat) (x : Engine) : (m.putEng n e x).prt = m.prt := rfl
@[simp] theorem Mod.putEng_bob (m : Mod) (n e : Nat) (x : Engine) : (m.putEng n e x).bob = m.bob := rfl
@[simp] theorem Mod.putEng_pat (m : Mod) (n e : Nat) (x : Engine) : (m.putEng n e x).pat = m.pat := rfl
@[simp] theorem Mod.putEng_spl (m : Mod) (n e : Nat) (x : Engine) : (m.putEng n e x).spl = m.spl := rfl
@[simp] theorem Mod.putEng_thm (m : Mod) (n e : Nat) (x : Engine) : (m.putEng n e x).thm = m.thm := rfl
@[simp] theorem Mod.putEng_msix (m : Mod) (n e : Nat) (x : Engine) : (m.putEng n e x).msix = m.msix := rfl
@[simp] theorem Mod.putEng_sel (m : Mod) (n e : Nat) (x : Engine) : (m.putEng n e x).sel = m.sel := rfl
@[simp] theorem Mod.putEng_sto (m : Mod) (n e : Nat) (x : Engine) : (m.putEng n e x).sto = m.sto := rfl
@[simp] theorem Mod.putEng_jxl (m : Mod) (n e : Nat) (x : Engine) : (m.putEng n e x).jxl = m.jxl := rfl
@[simp] theorem Mod.putEng_chalk (m : Mod) (n e : Nat) (x : Engine) : (m.putEng n e x).chalk = m.chalk := rfl
@[simp] theorem Mod.putEng_img (m : Mod) (n e : Nat) (x : Engine) : (m.putEng n e x).img = m.img := rfl
@[simp] theorem Mod.putEng_get (m : Mod) (n e : Nat) (x : Engine) (f' : Fld) (ix' : List Nat) : (m.putEng n e x).get f' ix' = m.get f' ix' := rfl

/-! ### `Mod.putTh` -/

@[simp] theorem Mod.putTh_regs (m : Mod) (n e t : Nat) (x : Thread) : (m.putTh n e t x).regs = m.regs := rfl
@[simp] theorem Mod.putTh_latches (m : Mod) (n e t : Nat) (x : Thread) : (m.putTh n e t x).latches = m.latches := rfl
@[simp] theorem Mod.putTh_outs (m : Mod) (n e t : Nat) (x : Thread) : (m.putTh n e t x).outs = m.outs := rfl
@[simp] theorem Mod.putTh_drawn (m : Mod) (n e t : Nat) (x : Thread) : (m.putTh n e t x).drawn = m.drawn := rfl
@[simp] theorem Mod.putTh_powered (m : Mod) (n e t : Nat) (x : Thread) : (m.putTh n e t x).powered = m.powered := rfl
@[simp] theorem Mod.putTh_tripped (m : Mod) (n e t : Nat) (x : Thread) : (m.putTh n e t x).tripped = m.tripped := rfl
@[simp] theorem Mod.putTh_perst (m : Mod) (n e t : Nat) (x : Thread) : (m.putTh n e t x).perst = m.perst := rfl
@[simp] theorem Mod.putTh_ownReset (m : Mod) (n e t : Nat) (x : Thread) : (m.putTh n e t x).ownReset = m.ownReset := rfl
@[simp] theorem Mod.putTh_holds (m : Mod) (n e t : Nat) (x : Thread) : (m.putTh n e t x).holds = m.holds := rfl
@[simp] theorem Mod.putTh_pwr (m : Mod) (n e t : Nat) (x : Thread) : (m.putTh n e t x).pwr = m.pwr := rfl
@[simp] theorem Mod.putTh_ecc (m : Mod) (n e t : Nat) (x : Thread) : (m.putTh n e t x).ecc = m.ecc := rfl
@[simp] theorem Mod.putTh_now (m : Mod) (n e t : Nat) (x : Thread) : (m.putTh n e t x).now = m.now := rfl
@[simp] theorem Mod.putTh_alog (m : Mod) (n e t : Nat) (x : Thread) : (m.putTh n e t x).alog = m.alog := rfl
@[simp] theorem Mod.putTh_logq (m : Mod) (n e t : Nat) (x : Thread) : (m.putTh n e t x).logq = m.logq := rfl
@[simp] theorem Mod.putTh_fit (m : Mod) (n e t : Nat) (x : Thread) : (m.putTh n e t x).fit = m.fit := rfl
@[simp] theorem Mod.putTh_cut (m : Mod) (n e t : Nat) (x : Thread) : (m.putTh n e t x).cut = m.cut := rfl
@[simp] theorem Mod.putTh_locks (m : Mod) (n e t : Nat) (x : Thread) : (m.putTh n e t x).locks = m.locks := rfl
@[simp] theorem Mod.putTh_mbxStored (m : Mod) (n e t : Nat) (x : Thread) : (m.putTh n e t x).mbxStored = m.mbxStored := rfl
@[simp] theorem Mod.putTh_mbxGone (m : Mod) (n e t : Nat) (x : Thread) : (m.putTh n e t x).mbxGone = m.mbxGone := rfl
@[simp] theorem Mod.putTh_tl (m : Mod) (n e t : Nat) (x : Thread) : (m.putTh n e t x).tl = m.tl := rfl
@[simp] theorem Mod.putTh_tack (m : Mod) (n e t : Nat) (x : Thread) : (m.putTh n e t x).tack = m.tack := rfl
@[simp] theorem Mod.putTh_wheel (m : Mod) (n e t : Nat) (x : Thread) : (m.putTh n e t x).wheel = m.wheel := rfl
@[simp] theorem Mod.putTh_replies (m : Mod) (n e t : Nat) (x : Thread) : (m.putTh n e t x).replies = m.replies := rfl
@[simp] theorem Mod.putTh_txns (m : Mod) (n e t : Nat) (x : Thread) : (m.putTh n e t x).txns = m.txns := rfl
@[simp] theorem Mod.putTh_txnEnds (m : Mod) (n e t : Nat) (x : Thread) : (m.putTh n e t x).txnEnds = m.txnEnds := rfl
@[simp] theorem Mod.putTh_plt (m : Mod) (n e t : Nat) (x : Thread) : (m.putTh n e t x).plt = m.plt := rfl
@[simp] theorem Mod.putTh_hem (m : Mod) (n e t : Nat) (x : Thread) : (m.putTh n e t x).hem = m.hem := rfl
@[simp] theorem Mod.putTh_hsub (m : Mod) (n e t : Nat) (x : Thread) : (m.putTh n e t x).hsub = m.hsub := rfl
@[simp] theorem Mod.putTh_hcopy (m : Mod) (n e t : Nat) (x : Thread) : (m.putTh n e t x).hcopy = m.hcopy := rfl
@[simp] theorem Mod.putTh_prt (m : Mod) (n e t : Nat) (x : Thread) : (m.putTh n e t x).prt = m.prt := rfl
@[simp] theorem Mod.putTh_bob (m : Mod) (n e t : Nat) (x : Thread) : (m.putTh n e t x).bob = m.bob := rfl
@[simp] theorem Mod.putTh_pat (m : Mod) (n e t : Nat) (x : Thread) : (m.putTh n e t x).pat = m.pat := rfl
@[simp] theorem Mod.putTh_spl (m : Mod) (n e t : Nat) (x : Thread) : (m.putTh n e t x).spl = m.spl := rfl
@[simp] theorem Mod.putTh_thm (m : Mod) (n e t : Nat) (x : Thread) : (m.putTh n e t x).thm = m.thm := rfl
@[simp] theorem Mod.putTh_msix (m : Mod) (n e t : Nat) (x : Thread) : (m.putTh n e t x).msix = m.msix := rfl
@[simp] theorem Mod.putTh_sel (m : Mod) (n e t : Nat) (x : Thread) : (m.putTh n e t x).sel = m.sel := rfl
@[simp] theorem Mod.putTh_sto (m : Mod) (n e t : Nat) (x : Thread) : (m.putTh n e t x).sto = m.sto := rfl
@[simp] theorem Mod.putTh_jxl (m : Mod) (n e t : Nat) (x : Thread) : (m.putTh n e t x).jxl = m.jxl := rfl
@[simp] theorem Mod.putTh_chalk (m : Mod) (n e t : Nat) (x : Thread) : (m.putTh n e t x).chalk = m.chalk := rfl
@[simp] theorem Mod.putTh_img (m : Mod) (n e t : Nat) (x : Thread) : (m.putTh n e t x).img = m.img := rfl
@[simp] theorem Mod.putTh_get (m : Mod) (n e t : Nat) (x : Thread) (f' : Fld) (ix' : List Nat) : (m.putTh n e t x).get f' ix' = m.get f' ix' := rfl

/-! ### `Mod.putBob` -/

@[simp] theorem Mod.putBob_regs (m : Mod) (b : Nat) (x : BobbinSt) : (m.putBob b x).regs = m.regs := rfl
@[simp] theorem Mod.putBob_latches (m : Mod) (b : Nat) (x : BobbinSt) : (m.putBob b x).latches = m.latches := rfl
@[simp] theorem Mod.putBob_outs (m : Mod) (b : Nat) (x : BobbinSt) : (m.putBob b x).outs = m.outs := rfl
@[simp] theorem Mod.putBob_drawn (m : Mod) (b : Nat) (x : BobbinSt) : (m.putBob b x).drawn = m.drawn := rfl
@[simp] theorem Mod.putBob_powered (m : Mod) (b : Nat) (x : BobbinSt) : (m.putBob b x).powered = m.powered := rfl
@[simp] theorem Mod.putBob_tripped (m : Mod) (b : Nat) (x : BobbinSt) : (m.putBob b x).tripped = m.tripped := rfl
@[simp] theorem Mod.putBob_perst (m : Mod) (b : Nat) (x : BobbinSt) : (m.putBob b x).perst = m.perst := rfl
@[simp] theorem Mod.putBob_ownReset (m : Mod) (b : Nat) (x : BobbinSt) : (m.putBob b x).ownReset = m.ownReset := rfl
@[simp] theorem Mod.putBob_holds (m : Mod) (b : Nat) (x : BobbinSt) : (m.putBob b x).holds = m.holds := rfl
@[simp] theorem Mod.putBob_pwr (m : Mod) (b : Nat) (x : BobbinSt) : (m.putBob b x).pwr = m.pwr := rfl
@[simp] theorem Mod.putBob_ecc (m : Mod) (b : Nat) (x : BobbinSt) : (m.putBob b x).ecc = m.ecc := rfl
@[simp] theorem Mod.putBob_now (m : Mod) (b : Nat) (x : BobbinSt) : (m.putBob b x).now = m.now := rfl
@[simp] theorem Mod.putBob_alog (m : Mod) (b : Nat) (x : BobbinSt) : (m.putBob b x).alog = m.alog := rfl
@[simp] theorem Mod.putBob_logq (m : Mod) (b : Nat) (x : BobbinSt) : (m.putBob b x).logq = m.logq := rfl
@[simp] theorem Mod.putBob_fit (m : Mod) (b : Nat) (x : BobbinSt) : (m.putBob b x).fit = m.fit := rfl
@[simp] theorem Mod.putBob_cut (m : Mod) (b : Nat) (x : BobbinSt) : (m.putBob b x).cut = m.cut := rfl
@[simp] theorem Mod.putBob_locks (m : Mod) (b : Nat) (x : BobbinSt) : (m.putBob b x).locks = m.locks := rfl
@[simp] theorem Mod.putBob_mbxStored (m : Mod) (b : Nat) (x : BobbinSt) : (m.putBob b x).mbxStored = m.mbxStored := rfl
@[simp] theorem Mod.putBob_mbxGone (m : Mod) (b : Nat) (x : BobbinSt) : (m.putBob b x).mbxGone = m.mbxGone := rfl
@[simp] theorem Mod.putBob_tl (m : Mod) (b : Nat) (x : BobbinSt) : (m.putBob b x).tl = m.tl := rfl
@[simp] theorem Mod.putBob_tack (m : Mod) (b : Nat) (x : BobbinSt) : (m.putBob b x).tack = m.tack := rfl
@[simp] theorem Mod.putBob_wheel (m : Mod) (b : Nat) (x : BobbinSt) : (m.putBob b x).wheel = m.wheel := rfl
@[simp] theorem Mod.putBob_replies (m : Mod) (b : Nat) (x : BobbinSt) : (m.putBob b x).replies = m.replies := rfl
@[simp] theorem Mod.putBob_txns (m : Mod) (b : Nat) (x : BobbinSt) : (m.putBob b x).txns = m.txns := rfl
@[simp] theorem Mod.putBob_txnEnds (m : Mod) (b : Nat) (x : BobbinSt) : (m.putBob b x).txnEnds = m.txnEnds := rfl
@[simp] theorem Mod.putBob_plt (m : Mod) (b : Nat) (x : BobbinSt) : (m.putBob b x).plt = m.plt := rfl
@[simp] theorem Mod.putBob_hem (m : Mod) (b : Nat) (x : BobbinSt) : (m.putBob b x).hem = m.hem := rfl
@[simp] theorem Mod.putBob_hsub (m : Mod) (b : Nat) (x : BobbinSt) : (m.putBob b x).hsub = m.hsub := rfl
@[simp] theorem Mod.putBob_hcopy (m : Mod) (b : Nat) (x : BobbinSt) : (m.putBob b x).hcopy = m.hcopy := rfl
@[simp] theorem Mod.putBob_prt (m : Mod) (b : Nat) (x : BobbinSt) : (m.putBob b x).prt = m.prt := rfl
@[simp] theorem Mod.putBob_pat (m : Mod) (b : Nat) (x : BobbinSt) : (m.putBob b x).pat = m.pat := rfl
@[simp] theorem Mod.putBob_shu (m : Mod) (b : Nat) (x : BobbinSt) : (m.putBob b x).shu = m.shu := rfl
@[simp] theorem Mod.putBob_spl (m : Mod) (b : Nat) (x : BobbinSt) : (m.putBob b x).spl = m.spl := rfl
@[simp] theorem Mod.putBob_thm (m : Mod) (b : Nat) (x : BobbinSt) : (m.putBob b x).thm = m.thm := rfl
@[simp] theorem Mod.putBob_msix (m : Mod) (b : Nat) (x : BobbinSt) : (m.putBob b x).msix = m.msix := rfl
@[simp] theorem Mod.putBob_sel (m : Mod) (b : Nat) (x : BobbinSt) : (m.putBob b x).sel = m.sel := rfl
@[simp] theorem Mod.putBob_sto (m : Mod) (b : Nat) (x : BobbinSt) : (m.putBob b x).sto = m.sto := rfl
@[simp] theorem Mod.putBob_jxl (m : Mod) (b : Nat) (x : BobbinSt) : (m.putBob b x).jxl = m.jxl := rfl
@[simp] theorem Mod.putBob_chalk (m : Mod) (b : Nat) (x : BobbinSt) : (m.putBob b x).chalk = m.chalk := rfl
@[simp] theorem Mod.putBob_img (m : Mod) (b : Nat) (x : BobbinSt) : (m.putBob b x).img = m.img := rfl
@[simp] theorem Mod.putBob_get (m : Mod) (b : Nat) (x : BobbinSt) (f' : Fld) (ix' : List Nat) : (m.putBob b x).get f' ix' = m.get f' ix' := rfl

/-! ### `Mod.putPrt` -/

@[simp] theorem Mod.putPrt_regs (m : Mod) (n : Nat) (x : PortSt) : (m.putPrt n x).regs = m.regs := rfl
@[simp] theorem Mod.putPrt_latches (m : Mod) (n : Nat) (x : PortSt) : (m.putPrt n x).latches = m.latches := rfl
@[simp] theorem Mod.putPrt_outs (m : Mod) (n : Nat) (x : PortSt) : (m.putPrt n x).outs = m.outs := rfl
@[simp] theorem Mod.putPrt_drawn (m : Mod) (n : Nat) (x : PortSt) : (m.putPrt n x).drawn = m.drawn := rfl
@[simp] theorem Mod.putPrt_powered (m : Mod) (n : Nat) (x : PortSt) : (m.putPrt n x).powered = m.powered := rfl
@[simp] theorem Mod.putPrt_tripped (m : Mod) (n : Nat) (x : PortSt) : (m.putPrt n x).tripped = m.tripped := rfl
@[simp] theorem Mod.putPrt_perst (m : Mod) (n : Nat) (x : PortSt) : (m.putPrt n x).perst = m.perst := rfl
@[simp] theorem Mod.putPrt_ownReset (m : Mod) (n : Nat) (x : PortSt) : (m.putPrt n x).ownReset = m.ownReset := rfl
@[simp] theorem Mod.putPrt_holds (m : Mod) (n : Nat) (x : PortSt) : (m.putPrt n x).holds = m.holds := rfl
@[simp] theorem Mod.putPrt_pwr (m : Mod) (n : Nat) (x : PortSt) : (m.putPrt n x).pwr = m.pwr := rfl
@[simp] theorem Mod.putPrt_ecc (m : Mod) (n : Nat) (x : PortSt) : (m.putPrt n x).ecc = m.ecc := rfl
@[simp] theorem Mod.putPrt_now (m : Mod) (n : Nat) (x : PortSt) : (m.putPrt n x).now = m.now := rfl
@[simp] theorem Mod.putPrt_alog (m : Mod) (n : Nat) (x : PortSt) : (m.putPrt n x).alog = m.alog := rfl
@[simp] theorem Mod.putPrt_logq (m : Mod) (n : Nat) (x : PortSt) : (m.putPrt n x).logq = m.logq := rfl
@[simp] theorem Mod.putPrt_fit (m : Mod) (n : Nat) (x : PortSt) : (m.putPrt n x).fit = m.fit := rfl
@[simp] theorem Mod.putPrt_cut (m : Mod) (n : Nat) (x : PortSt) : (m.putPrt n x).cut = m.cut := rfl
@[simp] theorem Mod.putPrt_locks (m : Mod) (n : Nat) (x : PortSt) : (m.putPrt n x).locks = m.locks := rfl
@[simp] theorem Mod.putPrt_mbxStored (m : Mod) (n : Nat) (x : PortSt) : (m.putPrt n x).mbxStored = m.mbxStored := rfl
@[simp] theorem Mod.putPrt_mbxGone (m : Mod) (n : Nat) (x : PortSt) : (m.putPrt n x).mbxGone = m.mbxGone := rfl
@[simp] theorem Mod.putPrt_tl (m : Mod) (n : Nat) (x : PortSt) : (m.putPrt n x).tl = m.tl := rfl
@[simp] theorem Mod.putPrt_tack (m : Mod) (n : Nat) (x : PortSt) : (m.putPrt n x).tack = m.tack := rfl
@[simp] theorem Mod.putPrt_wheel (m : Mod) (n : Nat) (x : PortSt) : (m.putPrt n x).wheel = m.wheel := rfl
@[simp] theorem Mod.putPrt_replies (m : Mod) (n : Nat) (x : PortSt) : (m.putPrt n x).replies = m.replies := rfl
@[simp] theorem Mod.putPrt_txns (m : Mod) (n : Nat) (x : PortSt) : (m.putPrt n x).txns = m.txns := rfl
@[simp] theorem Mod.putPrt_txnEnds (m : Mod) (n : Nat) (x : PortSt) : (m.putPrt n x).txnEnds = m.txnEnds := rfl
@[simp] theorem Mod.putPrt_plt (m : Mod) (n : Nat) (x : PortSt) : (m.putPrt n x).plt = m.plt := rfl
@[simp] theorem Mod.putPrt_hem (m : Mod) (n : Nat) (x : PortSt) : (m.putPrt n x).hem = m.hem := rfl
@[simp] theorem Mod.putPrt_hsub (m : Mod) (n : Nat) (x : PortSt) : (m.putPrt n x).hsub = m.hsub := rfl
@[simp] theorem Mod.putPrt_hcopy (m : Mod) (n : Nat) (x : PortSt) : (m.putPrt n x).hcopy = m.hcopy := rfl
@[simp] theorem Mod.putPrt_bob (m : Mod) (n : Nat) (x : PortSt) : (m.putPrt n x).bob = m.bob := rfl
@[simp] theorem Mod.putPrt_pat (m : Mod) (n : Nat) (x : PortSt) : (m.putPrt n x).pat = m.pat := rfl
@[simp] theorem Mod.putPrt_shu (m : Mod) (n : Nat) (x : PortSt) : (m.putPrt n x).shu = m.shu := rfl
@[simp] theorem Mod.putPrt_spl (m : Mod) (n : Nat) (x : PortSt) : (m.putPrt n x).spl = m.spl := rfl
@[simp] theorem Mod.putPrt_thm (m : Mod) (n : Nat) (x : PortSt) : (m.putPrt n x).thm = m.thm := rfl
@[simp] theorem Mod.putPrt_msix (m : Mod) (n : Nat) (x : PortSt) : (m.putPrt n x).msix = m.msix := rfl
@[simp] theorem Mod.putPrt_sel (m : Mod) (n : Nat) (x : PortSt) : (m.putPrt n x).sel = m.sel := rfl
@[simp] theorem Mod.putPrt_sto (m : Mod) (n : Nat) (x : PortSt) : (m.putPrt n x).sto = m.sto := rfl
@[simp] theorem Mod.putPrt_jxl (m : Mod) (n : Nat) (x : PortSt) : (m.putPrt n x).jxl = m.jxl := rfl
@[simp] theorem Mod.putPrt_chalk (m : Mod) (n : Nat) (x : PortSt) : (m.putPrt n x).chalk = m.chalk := rfl
@[simp] theorem Mod.putPrt_img (m : Mod) (n : Nat) (x : PortSt) : (m.putPrt n x).img = m.img := rfl
@[simp] theorem Mod.putPrt_get (m : Mod) (n : Nat) (x : PortSt) (f' : Fld) (ix' : List Nat) : (m.putPrt n x).get f' ix' = m.get f' ix' := rfl

/-! ### `Mod.putHem` -/

@[simp] theorem Mod.putHem_regs (m : Mod) (n : Nat) (x : HemPort) : (m.putHem n x).regs = m.regs := rfl
@[simp] theorem Mod.putHem_latches (m : Mod) (n : Nat) (x : HemPort) : (m.putHem n x).latches = m.latches := rfl
@[simp] theorem Mod.putHem_outs (m : Mod) (n : Nat) (x : HemPort) : (m.putHem n x).outs = m.outs := rfl
@[simp] theorem Mod.putHem_drawn (m : Mod) (n : Nat) (x : HemPort) : (m.putHem n x).drawn = m.drawn := rfl
@[simp] theorem Mod.putHem_powered (m : Mod) (n : Nat) (x : HemPort) : (m.putHem n x).powered = m.powered := rfl
@[simp] theorem Mod.putHem_tripped (m : Mod) (n : Nat) (x : HemPort) : (m.putHem n x).tripped = m.tripped := rfl
@[simp] theorem Mod.putHem_perst (m : Mod) (n : Nat) (x : HemPort) : (m.putHem n x).perst = m.perst := rfl
@[simp] theorem Mod.putHem_ownReset (m : Mod) (n : Nat) (x : HemPort) : (m.putHem n x).ownReset = m.ownReset := rfl
@[simp] theorem Mod.putHem_holds (m : Mod) (n : Nat) (x : HemPort) : (m.putHem n x).holds = m.holds := rfl
@[simp] theorem Mod.putHem_pwr (m : Mod) (n : Nat) (x : HemPort) : (m.putHem n x).pwr = m.pwr := rfl
@[simp] theorem Mod.putHem_ecc (m : Mod) (n : Nat) (x : HemPort) : (m.putHem n x).ecc = m.ecc := rfl
@[simp] theorem Mod.putHem_now (m : Mod) (n : Nat) (x : HemPort) : (m.putHem n x).now = m.now := rfl
@[simp] theorem Mod.putHem_alog (m : Mod) (n : Nat) (x : HemPort) : (m.putHem n x).alog = m.alog := rfl
@[simp] theorem Mod.putHem_logq (m : Mod) (n : Nat) (x : HemPort) : (m.putHem n x).logq = m.logq := rfl
@[simp] theorem Mod.putHem_fit (m : Mod) (n : Nat) (x : HemPort) : (m.putHem n x).fit = m.fit := rfl
@[simp] theorem Mod.putHem_cut (m : Mod) (n : Nat) (x : HemPort) : (m.putHem n x).cut = m.cut := rfl
@[simp] theorem Mod.putHem_locks (m : Mod) (n : Nat) (x : HemPort) : (m.putHem n x).locks = m.locks := rfl
@[simp] theorem Mod.putHem_mbxStored (m : Mod) (n : Nat) (x : HemPort) : (m.putHem n x).mbxStored = m.mbxStored := rfl
@[simp] theorem Mod.putHem_mbxGone (m : Mod) (n : Nat) (x : HemPort) : (m.putHem n x).mbxGone = m.mbxGone := rfl
@[simp] theorem Mod.putHem_tl (m : Mod) (n : Nat) (x : HemPort) : (m.putHem n x).tl = m.tl := rfl
@[simp] theorem Mod.putHem_tack (m : Mod) (n : Nat) (x : HemPort) : (m.putHem n x).tack = m.tack := rfl
@[simp] theorem Mod.putHem_wheel (m : Mod) (n : Nat) (x : HemPort) : (m.putHem n x).wheel = m.wheel := rfl
@[simp] theorem Mod.putHem_replies (m : Mod) (n : Nat) (x : HemPort) : (m.putHem n x).replies = m.replies := rfl
@[simp] theorem Mod.putHem_txns (m : Mod) (n : Nat) (x : HemPort) : (m.putHem n x).txns = m.txns := rfl
@[simp] theorem Mod.putHem_txnEnds (m : Mod) (n : Nat) (x : HemPort) : (m.putHem n x).txnEnds = m.txnEnds := rfl
@[simp] theorem Mod.putHem_plt (m : Mod) (n : Nat) (x : HemPort) : (m.putHem n x).plt = m.plt := rfl
@[simp] theorem Mod.putHem_hsub (m : Mod) (n : Nat) (x : HemPort) : (m.putHem n x).hsub = m.hsub := rfl
@[simp] theorem Mod.putHem_hcopy (m : Mod) (n : Nat) (x : HemPort) : (m.putHem n x).hcopy = m.hcopy := rfl
@[simp] theorem Mod.putHem_prt (m : Mod) (n : Nat) (x : HemPort) : (m.putHem n x).prt = m.prt := rfl
@[simp] theorem Mod.putHem_bob (m : Mod) (n : Nat) (x : HemPort) : (m.putHem n x).bob = m.bob := rfl
@[simp] theorem Mod.putHem_pat (m : Mod) (n : Nat) (x : HemPort) : (m.putHem n x).pat = m.pat := rfl
@[simp] theorem Mod.putHem_shu (m : Mod) (n : Nat) (x : HemPort) : (m.putHem n x).shu = m.shu := rfl
@[simp] theorem Mod.putHem_spl (m : Mod) (n : Nat) (x : HemPort) : (m.putHem n x).spl = m.spl := rfl
@[simp] theorem Mod.putHem_thm (m : Mod) (n : Nat) (x : HemPort) : (m.putHem n x).thm = m.thm := rfl
@[simp] theorem Mod.putHem_msix (m : Mod) (n : Nat) (x : HemPort) : (m.putHem n x).msix = m.msix := rfl
@[simp] theorem Mod.putHem_sel (m : Mod) (n : Nat) (x : HemPort) : (m.putHem n x).sel = m.sel := rfl
@[simp] theorem Mod.putHem_sto (m : Mod) (n : Nat) (x : HemPort) : (m.putHem n x).sto = m.sto := rfl
@[simp] theorem Mod.putHem_jxl (m : Mod) (n : Nat) (x : HemPort) : (m.putHem n x).jxl = m.jxl := rfl
@[simp] theorem Mod.putHem_chalk (m : Mod) (n : Nat) (x : HemPort) : (m.putHem n x).chalk = m.chalk := rfl
@[simp] theorem Mod.putHem_img (m : Mod) (n : Nat) (x : HemPort) : (m.putHem n x).img = m.img := rfl
@[simp] theorem Mod.putHem_get (m : Mod) (n : Nat) (x : HemPort) (f' : Fld) (ix' : List Nat) : (m.putHem n x).get f' ix' = m.get f' ix' := rfl

/-! ### `Mod.putHsub` -/

@[simp] theorem Mod.putHsub_regs (m : Mod) (n k : Nat) (x : HemSub) : (m.putHsub n k x).regs = m.regs := rfl
@[simp] theorem Mod.putHsub_latches (m : Mod) (n k : Nat) (x : HemSub) : (m.putHsub n k x).latches = m.latches := rfl
@[simp] theorem Mod.putHsub_outs (m : Mod) (n k : Nat) (x : HemSub) : (m.putHsub n k x).outs = m.outs := rfl
@[simp] theorem Mod.putHsub_drawn (m : Mod) (n k : Nat) (x : HemSub) : (m.putHsub n k x).drawn = m.drawn := rfl
@[simp] theorem Mod.putHsub_powered (m : Mod) (n k : Nat) (x : HemSub) : (m.putHsub n k x).powered = m.powered := rfl
@[simp] theorem Mod.putHsub_tripped (m : Mod) (n k : Nat) (x : HemSub) : (m.putHsub n k x).tripped = m.tripped := rfl
@[simp] theorem Mod.putHsub_perst (m : Mod) (n k : Nat) (x : HemSub) : (m.putHsub n k x).perst = m.perst := rfl
@[simp] theorem Mod.putHsub_ownReset (m : Mod) (n k : Nat) (x : HemSub) : (m.putHsub n k x).ownReset = m.ownReset := rfl
@[simp] theorem Mod.putHsub_holds (m : Mod) (n k : Nat) (x : HemSub) : (m.putHsub n k x).holds = m.holds := rfl
@[simp] theorem Mod.putHsub_pwr (m : Mod) (n k : Nat) (x : HemSub) : (m.putHsub n k x).pwr = m.pwr := rfl
@[simp] theorem Mod.putHsub_ecc (m : Mod) (n k : Nat) (x : HemSub) : (m.putHsub n k x).ecc = m.ecc := rfl
@[simp] theorem Mod.putHsub_now (m : Mod) (n k : Nat) (x : HemSub) : (m.putHsub n k x).now = m.now := rfl
@[simp] theorem Mod.putHsub_alog (m : Mod) (n k : Nat) (x : HemSub) : (m.putHsub n k x).alog = m.alog := rfl
@[simp] theorem Mod.putHsub_logq (m : Mod) (n k : Nat) (x : HemSub) : (m.putHsub n k x).logq = m.logq := rfl
@[simp] theorem Mod.putHsub_fit (m : Mod) (n k : Nat) (x : HemSub) : (m.putHsub n k x).fit = m.fit := rfl
@[simp] theorem Mod.putHsub_cut (m : Mod) (n k : Nat) (x : HemSub) : (m.putHsub n k x).cut = m.cut := rfl
@[simp] theorem Mod.putHsub_locks (m : Mod) (n k : Nat) (x : HemSub) : (m.putHsub n k x).locks = m.locks := rfl
@[simp] theorem Mod.putHsub_mbxStored (m : Mod) (n k : Nat) (x : HemSub) : (m.putHsub n k x).mbxStored = m.mbxStored := rfl
@[simp] theorem Mod.putHsub_mbxGone (m : Mod) (n k : Nat) (x : HemSub) : (m.putHsub n k x).mbxGone = m.mbxGone := rfl
@[simp] theorem Mod.putHsub_tl (m : Mod) (n k : Nat) (x : HemSub) : (m.putHsub n k x).tl = m.tl := rfl
@[simp] theorem Mod.putHsub_tack (m : Mod) (n k : Nat) (x : HemSub) : (m.putHsub n k x).tack = m.tack := rfl
@[simp] theorem Mod.putHsub_wheel (m : Mod) (n k : Nat) (x : HemSub) : (m.putHsub n k x).wheel = m.wheel := rfl
@[simp] theorem Mod.putHsub_replies (m : Mod) (n k : Nat) (x : HemSub) : (m.putHsub n k x).replies = m.replies := rfl
@[simp] theorem Mod.putHsub_txns (m : Mod) (n k : Nat) (x : HemSub) : (m.putHsub n k x).txns = m.txns := rfl
@[simp] theorem Mod.putHsub_txnEnds (m : Mod) (n k : Nat) (x : HemSub) : (m.putHsub n k x).txnEnds = m.txnEnds := rfl
@[simp] theorem Mod.putHsub_plt (m : Mod) (n k : Nat) (x : HemSub) : (m.putHsub n k x).plt = m.plt := rfl
@[simp] theorem Mod.putHsub_hem (m : Mod) (n k : Nat) (x : HemSub) : (m.putHsub n k x).hem = m.hem := rfl
@[simp] theorem Mod.putHsub_hcopy (m : Mod) (n k : Nat) (x : HemSub) : (m.putHsub n k x).hcopy = m.hcopy := rfl
@[simp] theorem Mod.putHsub_prt (m : Mod) (n k : Nat) (x : HemSub) : (m.putHsub n k x).prt = m.prt := rfl
@[simp] theorem Mod.putHsub_bob (m : Mod) (n k : Nat) (x : HemSub) : (m.putHsub n k x).bob = m.bob := rfl
@[simp] theorem Mod.putHsub_pat (m : Mod) (n k : Nat) (x : HemSub) : (m.putHsub n k x).pat = m.pat := rfl
@[simp] theorem Mod.putHsub_shu (m : Mod) (n k : Nat) (x : HemSub) : (m.putHsub n k x).shu = m.shu := rfl
@[simp] theorem Mod.putHsub_spl (m : Mod) (n k : Nat) (x : HemSub) : (m.putHsub n k x).spl = m.spl := rfl
@[simp] theorem Mod.putHsub_thm (m : Mod) (n k : Nat) (x : HemSub) : (m.putHsub n k x).thm = m.thm := rfl
@[simp] theorem Mod.putHsub_msix (m : Mod) (n k : Nat) (x : HemSub) : (m.putHsub n k x).msix = m.msix := rfl
@[simp] theorem Mod.putHsub_sel (m : Mod) (n k : Nat) (x : HemSub) : (m.putHsub n k x).sel = m.sel := rfl
@[simp] theorem Mod.putHsub_sto (m : Mod) (n k : Nat) (x : HemSub) : (m.putHsub n k x).sto = m.sto := rfl
@[simp] theorem Mod.putHsub_jxl (m : Mod) (n k : Nat) (x : HemSub) : (m.putHsub n k x).jxl = m.jxl := rfl
@[simp] theorem Mod.putHsub_chalk (m : Mod) (n k : Nat) (x : HemSub) : (m.putHsub n k x).chalk = m.chalk := rfl
@[simp] theorem Mod.putHsub_img (m : Mod) (n k : Nat) (x : HemSub) : (m.putHsub n k x).img = m.img := rfl
@[simp] theorem Mod.putHsub_get (m : Mod) (n k : Nat) (x : HemSub) (f' : Fld) (ix' : List Nat) : (m.putHsub n k x).get f' ix' = m.get f' ix' := rfl

/-! ### `Mod.putLink` -/

@[simp] theorem Mod.putLink_regs (m : Mod) (l : Nat) (x : Link) : (m.putLink l x).regs = m.regs := rfl
@[simp] theorem Mod.putLink_latches (m : Mod) (l : Nat) (x : Link) : (m.putLink l x).latches = m.latches := rfl
@[simp] theorem Mod.putLink_outs (m : Mod) (l : Nat) (x : Link) : (m.putLink l x).outs = m.outs := rfl
@[simp] theorem Mod.putLink_drawn (m : Mod) (l : Nat) (x : Link) : (m.putLink l x).drawn = m.drawn := rfl
@[simp] theorem Mod.putLink_powered (m : Mod) (l : Nat) (x : Link) : (m.putLink l x).powered = m.powered := rfl
@[simp] theorem Mod.putLink_tripped (m : Mod) (l : Nat) (x : Link) : (m.putLink l x).tripped = m.tripped := rfl
@[simp] theorem Mod.putLink_perst (m : Mod) (l : Nat) (x : Link) : (m.putLink l x).perst = m.perst := rfl
@[simp] theorem Mod.putLink_ownReset (m : Mod) (l : Nat) (x : Link) : (m.putLink l x).ownReset = m.ownReset := rfl
@[simp] theorem Mod.putLink_holds (m : Mod) (l : Nat) (x : Link) : (m.putLink l x).holds = m.holds := rfl
@[simp] theorem Mod.putLink_pwr (m : Mod) (l : Nat) (x : Link) : (m.putLink l x).pwr = m.pwr := rfl
@[simp] theorem Mod.putLink_ecc (m : Mod) (l : Nat) (x : Link) : (m.putLink l x).ecc = m.ecc := rfl
@[simp] theorem Mod.putLink_now (m : Mod) (l : Nat) (x : Link) : (m.putLink l x).now = m.now := rfl
@[simp] theorem Mod.putLink_alog (m : Mod) (l : Nat) (x : Link) : (m.putLink l x).alog = m.alog := rfl
@[simp] theorem Mod.putLink_logq (m : Mod) (l : Nat) (x : Link) : (m.putLink l x).logq = m.logq := rfl
@[simp] theorem Mod.putLink_fit (m : Mod) (l : Nat) (x : Link) : (m.putLink l x).fit = m.fit := rfl
@[simp] theorem Mod.putLink_cut (m : Mod) (l : Nat) (x : Link) : (m.putLink l x).cut = m.cut := rfl
@[simp] theorem Mod.putLink_locks (m : Mod) (l : Nat) (x : Link) : (m.putLink l x).locks = m.locks := rfl
@[simp] theorem Mod.putLink_mbxStored (m : Mod) (l : Nat) (x : Link) : (m.putLink l x).mbxStored = m.mbxStored := rfl
@[simp] theorem Mod.putLink_mbxGone (m : Mod) (l : Nat) (x : Link) : (m.putLink l x).mbxGone = m.mbxGone := rfl
@[simp] theorem Mod.putLink_tl (m : Mod) (l : Nat) (x : Link) : (m.putLink l x).tl = m.tl := rfl
@[simp] theorem Mod.putLink_tack (m : Mod) (l : Nat) (x : Link) : (m.putLink l x).tack = m.tack := rfl
@[simp] theorem Mod.putLink_wheel (m : Mod) (l : Nat) (x : Link) : (m.putLink l x).wheel = m.wheel := rfl
@[simp] theorem Mod.putLink_replies (m : Mod) (l : Nat) (x : Link) : (m.putLink l x).replies = m.replies := rfl
@[simp] theorem Mod.putLink_txns (m : Mod) (l : Nat) (x : Link) : (m.putLink l x).txns = m.txns := rfl
@[simp] theorem Mod.putLink_txnEnds (m : Mod) (l : Nat) (x : Link) : (m.putLink l x).txnEnds = m.txnEnds := rfl
@[simp] theorem Mod.putLink_plt (m : Mod) (l : Nat) (x : Link) : (m.putLink l x).plt = m.plt := rfl
@[simp] theorem Mod.putLink_hem (m : Mod) (l : Nat) (x : Link) : (m.putLink l x).hem = m.hem := rfl
@[simp] theorem Mod.putLink_hsub (m : Mod) (l : Nat) (x : Link) : (m.putLink l x).hsub = m.hsub := rfl
@[simp] theorem Mod.putLink_hcopy (m : Mod) (l : Nat) (x : Link) : (m.putLink l x).hcopy = m.hcopy := rfl
@[simp] theorem Mod.putLink_prt (m : Mod) (l : Nat) (x : Link) : (m.putLink l x).prt = m.prt := rfl
@[simp] theorem Mod.putLink_bob (m : Mod) (l : Nat) (x : Link) : (m.putLink l x).bob = m.bob := rfl
@[simp] theorem Mod.putLink_pat (m : Mod) (l : Nat) (x : Link) : (m.putLink l x).pat = m.pat := rfl
@[simp] theorem Mod.putLink_shu (m : Mod) (l : Nat) (x : Link) : (m.putLink l x).shu = m.shu := rfl
@[simp] theorem Mod.putLink_spl (m : Mod) (l : Nat) (x : Link) : (m.putLink l x).spl = m.spl := rfl
@[simp] theorem Mod.putLink_thm (m : Mod) (l : Nat) (x : Link) : (m.putLink l x).thm = m.thm := rfl
@[simp] theorem Mod.putLink_msix (m : Mod) (l : Nat) (x : Link) : (m.putLink l x).msix = m.msix := rfl
@[simp] theorem Mod.putLink_sel (m : Mod) (l : Nat) (x : Link) : (m.putLink l x).sel = m.sel := rfl
@[simp] theorem Mod.putLink_sto (m : Mod) (l : Nat) (x : Link) : (m.putLink l x).sto = m.sto := rfl
@[simp] theorem Mod.putLink_chalk (m : Mod) (l : Nat) (x : Link) : (m.putLink l x).chalk = m.chalk := rfl
@[simp] theorem Mod.putLink_img (m : Mod) (l : Nat) (x : Link) : (m.putLink l x).img = m.img := rfl
@[simp] theorem Mod.putLink_get (m : Mod) (l : Nat) (x : Link) (f' : Fld) (ix' : List Nat) : (m.putLink l x).get f' ix' = m.get f' ix' := rfl

/-! ### `Mod.putRing` -/

@[simp] theorem Mod.putRing_regs (m : Mod) (k : Nat) (r : Ring) : (m.putRing k r).regs = m.regs := rfl
@[simp] theorem Mod.putRing_latches (m : Mod) (k : Nat) (r : Ring) : (m.putRing k r).latches = m.latches := rfl
@[simp] theorem Mod.putRing_outs (m : Mod) (k : Nat) (r : Ring) : (m.putRing k r).outs = m.outs := rfl
@[simp] theorem Mod.putRing_drawn (m : Mod) (k : Nat) (r : Ring) : (m.putRing k r).drawn = m.drawn := rfl
@[simp] theorem Mod.putRing_powered (m : Mod) (k : Nat) (r : Ring) : (m.putRing k r).powered = m.powered := rfl
@[simp] theorem Mod.putRing_tripped (m : Mod) (k : Nat) (r : Ring) : (m.putRing k r).tripped = m.tripped := rfl
@[simp] theorem Mod.putRing_perst (m : Mod) (k : Nat) (r : Ring) : (m.putRing k r).perst = m.perst := rfl
@[simp] theorem Mod.putRing_ownReset (m : Mod) (k : Nat) (r : Ring) : (m.putRing k r).ownReset = m.ownReset := rfl
@[simp] theorem Mod.putRing_holds (m : Mod) (k : Nat) (r : Ring) : (m.putRing k r).holds = m.holds := rfl
@[simp] theorem Mod.putRing_pwr (m : Mod) (k : Nat) (r : Ring) : (m.putRing k r).pwr = m.pwr := rfl
@[simp] theorem Mod.putRing_ecc (m : Mod) (k : Nat) (r : Ring) : (m.putRing k r).ecc = m.ecc := rfl
@[simp] theorem Mod.putRing_now (m : Mod) (k : Nat) (r : Ring) : (m.putRing k r).now = m.now := rfl
@[simp] theorem Mod.putRing_alog (m : Mod) (k : Nat) (r : Ring) : (m.putRing k r).alog = m.alog := rfl
@[simp] theorem Mod.putRing_logq (m : Mod) (k : Nat) (r : Ring) : (m.putRing k r).logq = m.logq := rfl
@[simp] theorem Mod.putRing_fit (m : Mod) (k : Nat) (r : Ring) : (m.putRing k r).fit = m.fit := rfl
@[simp] theorem Mod.putRing_cut (m : Mod) (k : Nat) (r : Ring) : (m.putRing k r).cut = m.cut := rfl
@[simp] theorem Mod.putRing_locks (m : Mod) (k : Nat) (r : Ring) : (m.putRing k r).locks = m.locks := rfl
@[simp] theorem Mod.putRing_mbxStored (m : Mod) (k : Nat) (r : Ring) : (m.putRing k r).mbxStored = m.mbxStored := rfl
@[simp] theorem Mod.putRing_mbxGone (m : Mod) (k : Nat) (r : Ring) : (m.putRing k r).mbxGone = m.mbxGone := rfl
@[simp] theorem Mod.putRing_tl (m : Mod) (k : Nat) (r : Ring) : (m.putRing k r).tl = m.tl := rfl
@[simp] theorem Mod.putRing_tack (m : Mod) (k : Nat) (r : Ring) : (m.putRing k r).tack = m.tack := rfl
@[simp] theorem Mod.putRing_wheel (m : Mod) (k : Nat) (r : Ring) : (m.putRing k r).wheel = m.wheel := rfl
@[simp] theorem Mod.putRing_replies (m : Mod) (k : Nat) (r : Ring) : (m.putRing k r).replies = m.replies := rfl
@[simp] theorem Mod.putRing_txns (m : Mod) (k : Nat) (r : Ring) : (m.putRing k r).txns = m.txns := rfl
@[simp] theorem Mod.putRing_txnEnds (m : Mod) (k : Nat) (r : Ring) : (m.putRing k r).txnEnds = m.txnEnds := rfl
@[simp] theorem Mod.putRing_plt (m : Mod) (k : Nat) (r : Ring) : (m.putRing k r).plt = m.plt := rfl
@[simp] theorem Mod.putRing_hem (m : Mod) (k : Nat) (r : Ring) : (m.putRing k r).hem = m.hem := rfl
@[simp] theorem Mod.putRing_hsub (m : Mod) (k : Nat) (r : Ring) : (m.putRing k r).hsub = m.hsub := rfl
@[simp] theorem Mod.putRing_hcopy (m : Mod) (k : Nat) (r : Ring) : (m.putRing k r).hcopy = m.hcopy := rfl
@[simp] theorem Mod.putRing_prt (m : Mod) (k : Nat) (r : Ring) : (m.putRing k r).prt = m.prt := rfl
@[simp] theorem Mod.putRing_bob (m : Mod) (k : Nat) (r : Ring) : (m.putRing k r).bob = m.bob := rfl
@[simp] theorem Mod.putRing_pat (m : Mod) (k : Nat) (r : Ring) : (m.putRing k r).pat = m.pat := rfl
@[simp] theorem Mod.putRing_shu (m : Mod) (k : Nat) (r : Ring) : (m.putRing k r).shu = m.shu := rfl
@[simp] theorem Mod.putRing_thm (m : Mod) (k : Nat) (r : Ring) : (m.putRing k r).thm = m.thm := rfl
@[simp] theorem Mod.putRing_msix (m : Mod) (k : Nat) (r : Ring) : (m.putRing k r).msix = m.msix := rfl
@[simp] theorem Mod.putRing_sel (m : Mod) (k : Nat) (r : Ring) : (m.putRing k r).sel = m.sel := rfl
@[simp] theorem Mod.putRing_sto (m : Mod) (k : Nat) (r : Ring) : (m.putRing k r).sto = m.sto := rfl
@[simp] theorem Mod.putRing_jxl (m : Mod) (k : Nat) (r : Ring) : (m.putRing k r).jxl = m.jxl := rfl
@[simp] theorem Mod.putRing_chalk (m : Mod) (k : Nat) (r : Ring) : (m.putRing k r).chalk = m.chalk := rfl
@[simp] theorem Mod.putRing_img (m : Mod) (k : Nat) (r : Ring) : (m.putRing k r).img = m.img := rfl
@[simp] theorem Mod.putRing_get (m : Mod) (k : Nat) (r : Ring) (f' : Fld) (ix' : List Nat) : (m.putRing k r).get f' ix' = m.get f' ix' := rfl

/-! ### `Mod.modRing` -/

@[simp] theorem Mod.modRing_regs (m : Mod) (k : Nat) (g : Ring → Ring) : (m.modRing k g).regs = m.regs := rfl
@[simp] theorem Mod.modRing_latches (m : Mod) (k : Nat) (g : Ring → Ring) : (m.modRing k g).latches = m.latches := rfl
@[simp] theorem Mod.modRing_outs (m : Mod) (k : Nat) (g : Ring → Ring) : (m.modRing k g).outs = m.outs := rfl
@[simp] theorem Mod.modRing_drawn (m : Mod) (k : Nat) (g : Ring → Ring) : (m.modRing k g).drawn = m.drawn := rfl
@[simp] theorem Mod.modRing_powered (m : Mod) (k : Nat) (g : Ring → Ring) : (m.modRing k g).powered = m.powered := rfl
@[simp] theorem Mod.modRing_tripped (m : Mod) (k : Nat) (g : Ring → Ring) : (m.modRing k g).tripped = m.tripped := rfl
@[simp] theorem Mod.modRing_perst (m : Mod) (k : Nat) (g : Ring → Ring) : (m.modRing k g).perst = m.perst := rfl
@[simp] theorem Mod.modRing_ownReset (m : Mod) (k : Nat) (g : Ring → Ring) : (m.modRing k g).ownReset = m.ownReset := rfl
@[simp] theorem Mod.modRing_holds (m : Mod) (k : Nat) (g : Ring → Ring) : (m.modRing k g).holds = m.holds := rfl
@[simp] theorem Mod.modRing_pwr (m : Mod) (k : Nat) (g : Ring → Ring) : (m.modRing k g).pwr = m.pwr := rfl
@[simp] theorem Mod.modRing_ecc (m : Mod) (k : Nat) (g : Ring → Ring) : (m.modRing k g).ecc = m.ecc := rfl
@[simp] theorem Mod.modRing_now (m : Mod) (k : Nat) (g : Ring → Ring) : (m.modRing k g).now = m.now := rfl
@[simp] theorem Mod.modRing_alog (m : Mod) (k : Nat) (g : Ring → Ring) : (m.modRing k g).alog = m.alog := rfl
@[simp] theorem Mod.modRing_logq (m : Mod) (k : Nat) (g : Ring → Ring) : (m.modRing k g).logq = m.logq := rfl
@[simp] theorem Mod.modRing_fit (m : Mod) (k : Nat) (g : Ring → Ring) : (m.modRing k g).fit = m.fit := rfl
@[simp] theorem Mod.modRing_cut (m : Mod) (k : Nat) (g : Ring → Ring) : (m.modRing k g).cut = m.cut := rfl
@[simp] theorem Mod.modRing_locks (m : Mod) (k : Nat) (g : Ring → Ring) : (m.modRing k g).locks = m.locks := rfl
@[simp] theorem Mod.modRing_mbxStored (m : Mod) (k : Nat) (g : Ring → Ring) : (m.modRing k g).mbxStored = m.mbxStored := rfl
@[simp] theorem Mod.modRing_mbxGone (m : Mod) (k : Nat) (g : Ring → Ring) : (m.modRing k g).mbxGone = m.mbxGone := rfl
@[simp] theorem Mod.modRing_tl (m : Mod) (k : Nat) (g : Ring → Ring) : (m.modRing k g).tl = m.tl := rfl
@[simp] theorem Mod.modRing_tack (m : Mod) (k : Nat) (g : Ring → Ring) : (m.modRing k g).tack = m.tack := rfl
@[simp] theorem Mod.modRing_wheel (m : Mod) (k : Nat) (g : Ring → Ring) : (m.modRing k g).wheel = m.wheel := rfl
@[simp] theorem Mod.modRing_replies (m : Mod) (k : Nat) (g : Ring → Ring) : (m.modRing k g).replies = m.replies := rfl
@[simp] theorem Mod.modRing_txns (m : Mod) (k : Nat) (g : Ring → Ring) : (m.modRing k g).txns = m.txns := rfl
@[simp] theorem Mod.modRing_txnEnds (m : Mod) (k : Nat) (g : Ring → Ring) : (m.modRing k g).txnEnds = m.txnEnds := rfl
@[simp] theorem Mod.modRing_plt (m : Mod) (k : Nat) (g : Ring → Ring) : (m.modRing k g).plt = m.plt := rfl
@[simp] theorem Mod.modRing_hem (m : Mod) (k : Nat) (g : Ring → Ring) : (m.modRing k g).hem = m.hem := rfl
@[simp] theorem Mod.modRing_hsub (m : Mod) (k : Nat) (g : Ring → Ring) : (m.modRing k g).hsub = m.hsub := rfl
@[simp] theorem Mod.modRing_hcopy (m : Mod) (k : Nat) (g : Ring → Ring) : (m.modRing k g).hcopy = m.hcopy := rfl
@[simp] theorem Mod.modRing_prt (m : Mod) (k : Nat) (g : Ring → Ring) : (m.modRing k g).prt = m.prt := rfl
@[simp] theorem Mod.modRing_bob (m : Mod) (k : Nat) (g : Ring → Ring) : (m.modRing k g).bob = m.bob := rfl
@[simp] theorem Mod.modRing_pat (m : Mod) (k : Nat) (g : Ring → Ring) : (m.modRing k g).pat = m.pat := rfl
@[simp] theorem Mod.modRing_shu (m : Mod) (k : Nat) (g : Ring → Ring) : (m.modRing k g).shu = m.shu := rfl
@[simp] theorem Mod.modRing_thm (m : Mod) (k : Nat) (g : Ring → Ring) : (m.modRing k g).thm = m.thm := rfl
@[simp] theorem Mod.modRing_msix (m : Mod) (k : Nat) (g : Ring → Ring) : (m.modRing k g).msix = m.msix := rfl
@[simp] theorem Mod.modRing_sel (m : Mod) (k : Nat) (g : Ring → Ring) : (m.modRing k g).sel = m.sel := rfl
@[simp] theorem Mod.modRing_sto (m : Mod) (k : Nat) (g : Ring → Ring) : (m.modRing k g).sto = m.sto := rfl
@[simp] theorem Mod.modRing_jxl (m : Mod) (k : Nat) (g : Ring → Ring) : (m.modRing k g).jxl = m.jxl := rfl
@[simp] theorem Mod.modRing_chalk (m : Mod) (k : Nat) (g : Ring → Ring) : (m.modRing k g).chalk = m.chalk := rfl
@[simp] theorem Mod.modRing_img (m : Mod) (k : Nat) (g : Ring → Ring) : (m.modRing k g).img = m.img := rfl
@[simp] theorem Mod.modRing_get (m : Mod) (k : Nat) (g : Ring → Ring) (f' : Fld) (ix' : List Nat) : (m.modRing k g).get f' ix' = m.get f' ix' := rfl

/-! ### `Mod.putCtl` -/

@[simp] theorem Mod.putCtl_regs (m : Mod) (i : Nat) (c : Nvme) : (m.putCtl i c).regs = m.regs := rfl
@[simp] theorem Mod.putCtl_latches (m : Mod) (i : Nat) (c : Nvme) : (m.putCtl i c).latches = m.latches := rfl
@[simp] theorem Mod.putCtl_outs (m : Mod) (i : Nat) (c : Nvme) : (m.putCtl i c).outs = m.outs := rfl
@[simp] theorem Mod.putCtl_drawn (m : Mod) (i : Nat) (c : Nvme) : (m.putCtl i c).drawn = m.drawn := rfl
@[simp] theorem Mod.putCtl_powered (m : Mod) (i : Nat) (c : Nvme) : (m.putCtl i c).powered = m.powered := rfl
@[simp] theorem Mod.putCtl_tripped (m : Mod) (i : Nat) (c : Nvme) : (m.putCtl i c).tripped = m.tripped := rfl
@[simp] theorem Mod.putCtl_perst (m : Mod) (i : Nat) (c : Nvme) : (m.putCtl i c).perst = m.perst := rfl
@[simp] theorem Mod.putCtl_ownReset (m : Mod) (i : Nat) (c : Nvme) : (m.putCtl i c).ownReset = m.ownReset := rfl
@[simp] theorem Mod.putCtl_holds (m : Mod) (i : Nat) (c : Nvme) : (m.putCtl i c).holds = m.holds := rfl
@[simp] theorem Mod.putCtl_pwr (m : Mod) (i : Nat) (c : Nvme) : (m.putCtl i c).pwr = m.pwr := rfl
@[simp] theorem Mod.putCtl_ecc (m : Mod) (i : Nat) (c : Nvme) : (m.putCtl i c).ecc = m.ecc := rfl
@[simp] theorem Mod.putCtl_now (m : Mod) (i : Nat) (c : Nvme) : (m.putCtl i c).now = m.now := rfl
@[simp] theorem Mod.putCtl_alog (m : Mod) (i : Nat) (c : Nvme) : (m.putCtl i c).alog = m.alog := rfl
@[simp] theorem Mod.putCtl_logq (m : Mod) (i : Nat) (c : Nvme) : (m.putCtl i c).logq = m.logq := rfl
@[simp] theorem Mod.putCtl_fit (m : Mod) (i : Nat) (c : Nvme) : (m.putCtl i c).fit = m.fit := rfl
@[simp] theorem Mod.putCtl_cut (m : Mod) (i : Nat) (c : Nvme) : (m.putCtl i c).cut = m.cut := rfl
@[simp] theorem Mod.putCtl_locks (m : Mod) (i : Nat) (c : Nvme) : (m.putCtl i c).locks = m.locks := rfl
@[simp] theorem Mod.putCtl_mbxStored (m : Mod) (i : Nat) (c : Nvme) : (m.putCtl i c).mbxStored = m.mbxStored := rfl
@[simp] theorem Mod.putCtl_mbxGone (m : Mod) (i : Nat) (c : Nvme) : (m.putCtl i c).mbxGone = m.mbxGone := rfl
@[simp] theorem Mod.putCtl_tl (m : Mod) (i : Nat) (c : Nvme) : (m.putCtl i c).tl = m.tl := rfl
@[simp] theorem Mod.putCtl_tack (m : Mod) (i : Nat) (c : Nvme) : (m.putCtl i c).tack = m.tack := rfl
@[simp] theorem Mod.putCtl_wheel (m : Mod) (i : Nat) (c : Nvme) : (m.putCtl i c).wheel = m.wheel := rfl
@[simp] theorem Mod.putCtl_replies (m : Mod) (i : Nat) (c : Nvme) : (m.putCtl i c).replies = m.replies := rfl
@[simp] theorem Mod.putCtl_txns (m : Mod) (i : Nat) (c : Nvme) : (m.putCtl i c).txns = m.txns := rfl
@[simp] theorem Mod.putCtl_txnEnds (m : Mod) (i : Nat) (c : Nvme) : (m.putCtl i c).txnEnds = m.txnEnds := rfl
@[simp] theorem Mod.putCtl_plt (m : Mod) (i : Nat) (c : Nvme) : (m.putCtl i c).plt = m.plt := rfl
@[simp] theorem Mod.putCtl_hem (m : Mod) (i : Nat) (c : Nvme) : (m.putCtl i c).hem = m.hem := rfl
@[simp] theorem Mod.putCtl_hsub (m : Mod) (i : Nat) (c : Nvme) : (m.putCtl i c).hsub = m.hsub := rfl
@[simp] theorem Mod.putCtl_hcopy (m : Mod) (i : Nat) (c : Nvme) : (m.putCtl i c).hcopy = m.hcopy := rfl
@[simp] theorem Mod.putCtl_prt (m : Mod) (i : Nat) (c : Nvme) : (m.putCtl i c).prt = m.prt := rfl
@[simp] theorem Mod.putCtl_bob (m : Mod) (i : Nat) (c : Nvme) : (m.putCtl i c).bob = m.bob := rfl
@[simp] theorem Mod.putCtl_pat (m : Mod) (i : Nat) (c : Nvme) : (m.putCtl i c).pat = m.pat := rfl
@[simp] theorem Mod.putCtl_shu (m : Mod) (i : Nat) (c : Nvme) : (m.putCtl i c).shu = m.shu := rfl
@[simp] theorem Mod.putCtl_spl (m : Mod) (i : Nat) (c : Nvme) : (m.putCtl i c).spl = m.spl := rfl
@[simp] theorem Mod.putCtl_thm (m : Mod) (i : Nat) (c : Nvme) : (m.putCtl i c).thm = m.thm := rfl
@[simp] theorem Mod.putCtl_msix (m : Mod) (i : Nat) (c : Nvme) : (m.putCtl i c).msix = m.msix := rfl
@[simp] theorem Mod.putCtl_sel (m : Mod) (i : Nat) (c : Nvme) : (m.putCtl i c).sel = m.sel := rfl
@[simp] theorem Mod.putCtl_jxl (m : Mod) (i : Nat) (c : Nvme) : (m.putCtl i c).jxl = m.jxl := rfl
@[simp] theorem Mod.putCtl_chalk (m : Mod) (i : Nat) (c : Nvme) : (m.putCtl i c).chalk = m.chalk := rfl
@[simp] theorem Mod.putCtl_img (m : Mod) (i : Nat) (c : Nvme) : (m.putCtl i c).img = m.img := rfl
@[simp] theorem Mod.putCtl_get (m : Mod) (i : Nat) (c : Nvme) (f' : Fld) (ix' : List Nat) : (m.putCtl i c).get f' ix' = m.get f' ix' := rfl

/-! ### `Mod.setStage` -/

@[simp] theorem Mod.setStage_regs (m : Mod) (x : Staging) : (m.setStage x).regs = m.regs := rfl
@[simp] theorem Mod.setStage_latches (m : Mod) (x : Staging) : (m.setStage x).latches = m.latches := rfl
@[simp] theorem Mod.setStage_outs (m : Mod) (x : Staging) : (m.setStage x).outs = m.outs := rfl
@[simp] theorem Mod.setStage_drawn (m : Mod) (x : Staging) : (m.setStage x).drawn = m.drawn := rfl
@[simp] theorem Mod.setStage_powered (m : Mod) (x : Staging) : (m.setStage x).powered = m.powered := rfl
@[simp] theorem Mod.setStage_tripped (m : Mod) (x : Staging) : (m.setStage x).tripped = m.tripped := rfl
@[simp] theorem Mod.setStage_perst (m : Mod) (x : Staging) : (m.setStage x).perst = m.perst := rfl
@[simp] theorem Mod.setStage_ownReset (m : Mod) (x : Staging) : (m.setStage x).ownReset = m.ownReset := rfl
@[simp] theorem Mod.setStage_holds (m : Mod) (x : Staging) : (m.setStage x).holds = m.holds := rfl
@[simp] theorem Mod.setStage_pwr (m : Mod) (x : Staging) : (m.setStage x).pwr = m.pwr := rfl
@[simp] theorem Mod.setStage_ecc (m : Mod) (x : Staging) : (m.setStage x).ecc = m.ecc := rfl
@[simp] theorem Mod.setStage_now (m : Mod) (x : Staging) : (m.setStage x).now = m.now := rfl
@[simp] theorem Mod.setStage_alog (m : Mod) (x : Staging) : (m.setStage x).alog = m.alog := rfl
@[simp] theorem Mod.setStage_logq (m : Mod) (x : Staging) : (m.setStage x).logq = m.logq := rfl
@[simp] theorem Mod.setStage_fit (m : Mod) (x : Staging) : (m.setStage x).fit = m.fit := rfl
@[simp] theorem Mod.setStage_cut (m : Mod) (x : Staging) : (m.setStage x).cut = m.cut := rfl
@[simp] theorem Mod.setStage_locks (m : Mod) (x : Staging) : (m.setStage x).locks = m.locks := rfl
@[simp] theorem Mod.setStage_mbxStored (m : Mod) (x : Staging) : (m.setStage x).mbxStored = m.mbxStored := rfl
@[simp] theorem Mod.setStage_mbxGone (m : Mod) (x : Staging) : (m.setStage x).mbxGone = m.mbxGone := rfl
@[simp] theorem Mod.setStage_tl (m : Mod) (x : Staging) : (m.setStage x).tl = m.tl := rfl
@[simp] theorem Mod.setStage_tack (m : Mod) (x : Staging) : (m.setStage x).tack = m.tack := rfl
@[simp] theorem Mod.setStage_wheel (m : Mod) (x : Staging) : (m.setStage x).wheel = m.wheel := rfl
@[simp] theorem Mod.setStage_replies (m : Mod) (x : Staging) : (m.setStage x).replies = m.replies := rfl
@[simp] theorem Mod.setStage_txns (m : Mod) (x : Staging) : (m.setStage x).txns = m.txns := rfl
@[simp] theorem Mod.setStage_txnEnds (m : Mod) (x : Staging) : (m.setStage x).txnEnds = m.txnEnds := rfl
@[simp] theorem Mod.setStage_plt (m : Mod) (x : Staging) : (m.setStage x).plt = m.plt := rfl
@[simp] theorem Mod.setStage_hem (m : Mod) (x : Staging) : (m.setStage x).hem = m.hem := rfl
@[simp] theorem Mod.setStage_hsub (m : Mod) (x : Staging) : (m.setStage x).hsub = m.hsub := rfl
@[simp] theorem Mod.setStage_hcopy (m : Mod) (x : Staging) : (m.setStage x).hcopy = m.hcopy := rfl
@[simp] theorem Mod.setStage_prt (m : Mod) (x : Staging) : (m.setStage x).prt = m.prt := rfl
@[simp] theorem Mod.setStage_bob (m : Mod) (x : Staging) : (m.setStage x).bob = m.bob := rfl
@[simp] theorem Mod.setStage_pat (m : Mod) (x : Staging) : (m.setStage x).pat = m.pat := rfl
@[simp] theorem Mod.setStage_shu (m : Mod) (x : Staging) : (m.setStage x).shu = m.shu := rfl
@[simp] theorem Mod.setStage_spl (m : Mod) (x : Staging) : (m.setStage x).spl = m.spl := rfl
@[simp] theorem Mod.setStage_thm (m : Mod) (x : Staging) : (m.setStage x).thm = m.thm := rfl
@[simp] theorem Mod.setStage_msix (m : Mod) (x : Staging) : (m.setStage x).msix = m.msix := rfl
@[simp] theorem Mod.setStage_sel (m : Mod) (x : Staging) : (m.setStage x).sel = m.sel := rfl
@[simp] theorem Mod.setStage_sto (m : Mod) (x : Staging) : (m.setStage x).sto = m.sto := rfl
@[simp] theorem Mod.setStage_jxl (m : Mod) (x : Staging) : (m.setStage x).jxl = m.jxl := rfl
@[simp] theorem Mod.setStage_img (m : Mod) (x : Staging) : (m.setStage x).img = m.img := rfl
@[simp] theorem Mod.setStage_get (m : Mod) (x : Staging) (f' : Fld) (ix' : List Nat) : (m.setStage x).get f' ix' = m.get f' ix' := rfl

/-! ### `Mod.draw` -/

@[simp] theorem Mod.draw_regs (m : Mod) (n : Nat) : (m.draw n).2.regs = m.regs := rfl
@[simp] theorem Mod.draw_latches (m : Mod) (n : Nat) : (m.draw n).2.latches = m.latches := rfl
@[simp] theorem Mod.draw_outs (m : Mod) (n : Nat) : (m.draw n).2.outs = m.outs := rfl
@[simp] theorem Mod.draw_powered (m : Mod) (n : Nat) : (m.draw n).2.powered = m.powered := rfl
@[simp] theorem Mod.draw_tripped (m : Mod) (n : Nat) : (m.draw n).2.tripped = m.tripped := rfl
@[simp] theorem Mod.draw_perst (m : Mod) (n : Nat) : (m.draw n).2.perst = m.perst := rfl
@[simp] theorem Mod.draw_ownReset (m : Mod) (n : Nat) : (m.draw n).2.ownReset = m.ownReset := rfl
@[simp] theorem Mod.draw_holds (m : Mod) (n : Nat) : (m.draw n).2.holds = m.holds := rfl
@[simp] theorem Mod.draw_pwr (m : Mod) (n : Nat) : (m.draw n).2.pwr = m.pwr := rfl
@[simp] theorem Mod.draw_ecc (m : Mod) (n : Nat) : (m.draw n).2.ecc = m.ecc := rfl
@[simp] theorem Mod.draw_now (m : Mod) (n : Nat) : (m.draw n).2.now = m.now := rfl
@[simp] theorem Mod.draw_alog (m : Mod) (n : Nat) : (m.draw n).2.alog = m.alog := rfl
@[simp] theorem Mod.draw_logq (m : Mod) (n : Nat) : (m.draw n).2.logq = m.logq := rfl
@[simp] theorem Mod.draw_fit (m : Mod) (n : Nat) : (m.draw n).2.fit = m.fit := rfl
@[simp] theorem Mod.draw_cut (m : Mod) (n : Nat) : (m.draw n).2.cut = m.cut := rfl
@[simp] theorem Mod.draw_locks (m : Mod) (n : Nat) : (m.draw n).2.locks = m.locks := rfl
@[simp] theorem Mod.draw_mbxStored (m : Mod) (n : Nat) : (m.draw n).2.mbxStored = m.mbxStored := rfl
@[simp] theorem Mod.draw_mbxGone (m : Mod) (n : Nat) : (m.draw n).2.mbxGone = m.mbxGone := rfl
@[simp] theorem Mod.draw_tl (m : Mod) (n : Nat) : (m.draw n).2.tl = m.tl := rfl
@[simp] theorem Mod.draw_tack (m : Mod) (n : Nat) : (m.draw n).2.tack = m.tack := rfl
@[simp] theorem Mod.draw_wheel (m : Mod) (n : Nat) : (m.draw n).2.wheel = m.wheel := rfl
@[simp] theorem Mod.draw_replies (m : Mod) (n : Nat) : (m.draw n).2.replies = m.replies := rfl
@[simp] theorem Mod.draw_txns (m : Mod) (n : Nat) : (m.draw n).2.txns = m.txns := rfl
@[simp] theorem Mod.draw_txnEnds (m : Mod) (n : Nat) : (m.draw n).2.txnEnds = m.txnEnds := rfl
@[simp] theorem Mod.draw_plt (m : Mod) (n : Nat) : (m.draw n).2.plt = m.plt := rfl
@[simp] theorem Mod.draw_hem (m : Mod) (n : Nat) : (m.draw n).2.hem = m.hem := rfl
@[simp] theorem Mod.draw_hsub (m : Mod) (n : Nat) : (m.draw n).2.hsub = m.hsub := rfl
@[simp] theorem Mod.draw_hcopy (m : Mod) (n : Nat) : (m.draw n).2.hcopy = m.hcopy := rfl
@[simp] theorem Mod.draw_prt (m : Mod) (n : Nat) : (m.draw n).2.prt = m.prt := rfl
@[simp] theorem Mod.draw_bob (m : Mod) (n : Nat) : (m.draw n).2.bob = m.bob := rfl
@[simp] theorem Mod.draw_pat (m : Mod) (n : Nat) : (m.draw n).2.pat = m.pat := rfl
@[simp] theorem Mod.draw_shu (m : Mod) (n : Nat) : (m.draw n).2.shu = m.shu := rfl
@[simp] theorem Mod.draw_spl (m : Mod) (n : Nat) : (m.draw n).2.spl = m.spl := rfl
@[simp] theorem Mod.draw_thm (m : Mod) (n : Nat) : (m.draw n).2.thm = m.thm := rfl
@[simp] theorem Mod.draw_msix (m : Mod) (n : Nat) : (m.draw n).2.msix = m.msix := rfl
@[simp] theorem Mod.draw_sel (m : Mod) (n : Nat) : (m.draw n).2.sel = m.sel := rfl
@[simp] theorem Mod.draw_sto (m : Mod) (n : Nat) : (m.draw n).2.sto = m.sto := rfl
@[simp] theorem Mod.draw_jxl (m : Mod) (n : Nat) : (m.draw n).2.jxl = m.jxl := rfl
@[simp] theorem Mod.draw_chalk (m : Mod) (n : Nat) : (m.draw n).2.chalk = m.chalk := rfl
@[simp] theorem Mod.draw_img (m : Mod) (n : Nat) : (m.draw n).2.img = m.img := rfl
@[simp] theorem Mod.draw_get (m : Mod) (n : Nat) (f : Fld) (ix : List Nat) : (m.draw n).2.get f ix = m.get f ix := rfl

/-! ### What each update puts -/

@[simp] theorem Mod.emit_outs (m : Mod) (o : Out) : (m.emit o).outs = o :: m.outs := rfl
@[simp] theorem Mod.setCut_cut (m : Mod) (g : Cut → Cut) : (m.setCut g).cut = g m.cut := rfl
@[simp] theorem Mod.setTl_tl (m : Mod) (g : Tapeline → Tapeline) : (m.setTl g).tl = g m.tl := rfl
@[simp] theorem Mod.setTack_tack (m : Mod) (g : Tack → Tack) : (m.setTack g).tack = g m.tack := rfl
@[simp] theorem Mod.setSel_sel (m : Mod) (g : Sel → Sel) : (m.setSel g).sel = g m.sel := rfl
@[simp] theorem Mod.setSpl_spl (m : Mod) (g : Spool → Spool) : (m.setSpl g).spl = g m.spl := rfl
@[simp] theorem Mod.setSto_sto (m : Mod) (g : Sto → Sto) : (m.setSto g).sto = g m.sto := rfl
@[simp] theorem Mod.setThm_thm (m : Mod) (g : Thimble → Thimble) : (m.setThm g).thm = g m.thm := rfl
@[simp] theorem Mod.setShu_shu (m : Mod) (g : Shuttle → Shuttle) : (m.setShu g).shu = g m.shu := rfl
@[simp] theorem Mod.runTo_now (m : Mod) (t : Nat) : (m.runTo t).now = max m.now t := rfl
@[simp] theorem Mod.runToNs_now (m : Mod) (t : Nat) : (m.runToNs t).now = max m.now (t * nsUnit) := rfl
@[simp] theorem Mod.draw_drawn (m : Mod) (n : Nat) : (m.draw n).2.drawn = m.drawn + 1 := rfl
@[simp] theorem Mod.draw_val (m : Mod) (n : Nat) : (m.draw n).1 = Config.freeValue m.drawn % n := rfl

end Sys2Proof.Machine
end

