-- ==== Sys2Proof/Laws/Regs.lean ====
section
/-! SUPPORT. The register store and the tables: what a field reads after an update, what a table holds after one. -/

namespace Sys2Proof.Machine

/-! ### Fields -/

/-- A field depends on the register store alone. -/
theorem Mod.get_congr {m m' : Mod} (h : m'.regs = m.regs) (f : Fld) (ix : List Nat) : m'.get f ix = m.get f ix := by
  unfold Mod.get; rw [h]

theorem find_filter_ne {k k' : FKey} (h : k ≠ k') (l : List (FKey × Nat)) :
    (l.filter (·.1 ≠ k')).find? (·.1 = k) = l.find? (·.1 = k) := by
  rw [List.find?_filter]
  congr 1
  funext a
  by_cases h1 : a.1 = k
  · simp [h1, h]
  · simp [h1]

theorem find_filter_self (k : FKey) (l : List (FKey × Nat)) : (l.filter (·.1 ≠ k)).find? (·.1 = k) = none := by
  rw [List.find?_eq_none]
  intro x hx
  simpa using (List.mem_filter.1 hx).2

theorem FKey.resetVal_lt (k : FKey) : k.resetVal < 2 ^ k.fld.w := Nat.mod_lt _ (Nat.two_pow_pos _)

/-- A field reads what was put, in the bits it has room for. -/
@[simp] theorem Mod.get_set (m : Mod) (f : Fld) (ix : List Nat) (v : Nat) : (m.set f ix v).get f ix = v % 2 ^ f.w := by
  unfold Mod.set Mod.get
  by_cases h : v % 2 ^ f.w = (FKey.mk f ix).resetVal
  · have : m.regs.find? (fun _ => false) = none := by simp
    simp [h, this]
  · simp [h]

/-- A field reads within its width. -/
theorem Mod.get_lt (m : Mod) (f : Fld) (ix : List Nat) : m.get f ix < 2 ^ f.w := by
  unfold Mod.get
  split
  · exact Nat.mod_lt _ (Nat.two_pow_pos _)
  · exact FKey.resetVal_lt _

/-- A field keeps its value when another one is put. -/
theorem Mod.get_set_ne (m : Mod) {f f' : Fld} {ix ix' : List Nat} (v : Nat) (h : ¬(f = f' ∧ ix = ix')) :
    (m.set f' ix' v).get f ix = m.get f ix := by
  have hk : FKey.mk f ix ≠ FKey.mk f' ix' := by simpa using h
  have := find_filter_ne hk m.regs
  unfold Mod.set Mod.get
  by_cases hv : v % 2 ^ f'.w = (FKey.mk f' ix').resetVal
  · simp only [hv, if_true]; rw [this]
  · simp only [hv, if_false]
    rw [List.find?_cons_of_neg]
    · rw [this]
    · simpa using Ne.symm hk

/-- A field keeps its value when one of another register is put. -/
theorem Mod.get_set_reg (m : Mod) {f f' : Fld} (ix ix' : List Nat) (v : Nat) (h : f ≠ f') :
    (m.set f' ix' v).get f ix = m.get f ix := Mod.get_set_ne m v fun e => h e.1

/-- A field of register instance `ix` keeps its value when the same field of another instance is put. -/
theorem Mod.get_set_ix (m : Mod) (f : Fld) {ix ix' : List Nat} (v : Nat) (h : ix ≠ ix') :
    (m.set f ix' v).get f ix = m.get f ix := Mod.get_set_ne m v fun e => h e.2

@[simp] theorem Mod.get_setFlag (m : Mod) (f : Fld) (ix : List Nat) (b : Bool) :
    (m.setFlag f ix b).get f ix = b2n b % 2 ^ f.w := Mod.get_set ..

@[simp] theorem Mod.get_count (m : Mod) (f : Fld) (ix : List Nat) (n : Nat) :
    (m.count f ix n).get f ix = (m.get f ix + n) % 2 ^ f.w := Mod.get_set ..

theorem Mod.get_count_reg (m : Mod) {f f' : Fld} (ix ix' : List Nat) (n : Nat) (h : f ≠ f') :
    (m.count f' ix' n).get f ix = m.get f ix := Mod.get_set_reg m ix ix' _ h

theorem Mod.get_countSat_reg (m : Mod) {f f' : Fld} (ix ix' : List Nat) (n : Nat) (h : f ≠ f') :
    (m.countSat f' ix' n).get f ix = m.get f ix := Mod.get_set_reg m ix ix' _ h

/-- A flag reads what was put. -/
@[simp] theorem Mod.flag_setFlag (m : Mod) (r : Reg) (lo : Nat) (ix : List Nat) (b : Bool) :
    (m.setFlag ⟨r, lo, 1⟩ ix b).flag ⟨r, lo, 1⟩ ix = b := by
  cases b <;> simp [Mod.flag, b2n]

/-! ### Tables -/

/-- The keys of a table rise. -/
def rising {α : Type} : Tab α → Prop
  | [] => True
  | (k, _) :: t => (∀ e ∈ t, k < e.1) ∧ rising t

@[simp] theorem tget_tput {α : Type} (t : Tab α) (k : Nat) (a : α) : tget (tput t k a) k = some a := by
  induction t with
  | nil => simp [tput, tget]
  | cons e t ih =>
    obtain ⟨j, b⟩ := e
    unfold tput
    split
    · simp [tget]
    · split
      · simp [tget]
      · rename_i h1 h2
        simp [tget, Ne.symm h2, ih]

theorem tget_tput_ne {α : Type} (t : Tab α) {k j : Nat} (a : α) (h : j ≠ k) : tget (tput t k a) j = tget t j := by
  induction t with
  | nil => simp [tput, tget, Ne.symm h]
  | cons e t ih =>
    obtain ⟨i, b⟩ := e
    unfold tput
    split
    · simp [tget, Ne.symm h]
    · split
      · rename_i h1 h2
        subst h2
        simp [tget, Ne.symm h]
      · simp [tget, ih]

@[simp] theorem tgetD_tput {α : Type} (t : Tab α) (k : Nat) (a d : α) : tgetD (tput t k a) k d = a := by simp [tgetD]

theorem tgetD_tput_ne {α : Type} (t : Tab α) {k j : Nat} (a d : α) (h : j ≠ k) : tgetD (tput t k a) j d = tgetD t j d := by
  simp [tgetD, tget_tput_ne t a h]

@[simp] theorem tget_tdel {α : Type} (t : Tab α) (k : Nat) : tget (tdel t k) k = none := by
  induction t with
  | nil => rfl
  | cons e t ih =>
    obtain ⟨j, b⟩ := e
    by_cases h : j = k
    · simp [tdel, h]
      simpa [tdel] using ih
    · simp [tdel, h, tget]
      simpa [tdel] using ih

theorem tget_tdel_ne {α : Type} (t : Tab α) {k j : Nat} (h : j ≠ k) : tget (tdel t k) j = tget t j := by
  induction t with
  | nil => rfl
  | cons e t ih =>
    obtain ⟨i, b⟩ := e
    by_cases h1 : i = k
    · subst h1
      simp [tdel, tget, Ne.symm h]
      simpa [tdel] using ih
    · simp [tdel, h1, tget]
      split
      · rfl
      · simpa [tdel] using ih

theorem tget_tadj {α : Type} (t : Tab α) (k : Nat) (f : α → α) : tget (tadj t k f) k = (tget t k).map f := by
  unfold tadj
  split
  · simp [*]
  · simp [*]

theorem tget_tadj_ne {α : Type} (t : Tab α) {k j : Nat} (f : α → α) (h : j ≠ k) : tget (tadj t k f) j = tget t j := by
  unfold tadj
  split
  · exact tget_tput_ne t _ h
  · rfl

theorem tput_rising {α : Type} (t : Tab α) (k : Nat) (a : α) (h : rising t) : rising (tput t k a) := by
  induction t with
  | nil => simp [tput, rising]
  | cons e t ih =>
    obtain ⟨j, b⟩ := e
    unfold tput
    split
    · rename_i h1
      refine ⟨?_, h⟩
      intro e he
      rcases List.mem_cons.1 he with rfl | he
      · exact h1
      · exact Nat.lt_trans h1 (h.1 e he)
    · split
      · rename_i h1 h2
        subst h2
        exact ⟨h.1, h.2⟩
      · rename_i h1 h2
        refine ⟨?_, ih h.2⟩
        intro e he
        have key : ∀ (t : Tab α), e ∈ tput t k a → e.1 = k ∨ e ∈ t := by
          intro t
          induction t with
          | nil => intro he; simp [tput] at he; exact .inl (by rw [he])
          | cons x t ih =>
            obtain ⟨i, c⟩ := x
            unfold tput
            split
            · intro he
              rcases List.mem_cons.1 he with rfl | he
              · exact .inl rfl
              · exact .inr he
            · split
              · intro he
                rcases List.mem_cons.1 he with rfl | he
                · exact .inl rfl
                · exact .inr (List.mem_cons_of_mem _ he)
              · intro he
                rcases List.mem_cons.1 he with rfl | he
                · exact .inr (List.mem_cons_self ..)
                · rcases ih he with h | h
                  · exact .inl h
                  · exact .inr (List.mem_cons_of_mem _ h)
        rcases key t he with h3 | h3
        · rw [h3]; show j < k; omega
        · exact h.1 e h3

end Sys2Proof.Machine
end

