-- ==== Sys2Proof/Laws/Settle.lean ====
section
/-! SUPPORT. The end of a step (R575): what the firing of Fitting triggers can change, and that the meanings answer a next state
that keeps the queue and, but for a few commands, the microcode data region. -/

namespace Sys2Proof.Machine

/-- `m'` is `m` but for the Fitting's own state, its pulses, cleared RC fields and the MISSED count. -/
structure FitOnly (m m' : Mod) : Prop where
  eq : m' = { m with regs := m'.regs, outs := m'.outs, fit := m'.fit }
  get : ∀ f ix, f.access ≠ .rc → f ≠ F.FIT_STATUS_MISSED → m'.get f ix = m.get f ix
  outs : ∀ o ∈ m.outs, o ∈ m'.outs

theorem FitOnly.refl (m : Mod) : FitOnly m m := ⟨rfl, fun _ _ _ _ => rfl, fun _ h => h⟩

theorem FitOnly.trans {a b c : Mod} (h : FitOnly a b) (k : FitOnly b c) : FitOnly a c :=
  ⟨by rw [k.eq, h.eq], fun f ix h1 h2 => (k.get f ix h1 h2).trans (h.get f ix h1 h2), fun o ho => k.outs o (h.outs o ho)⟩

/-- The Fitting's state alone changes. -/
theorem FitOnly.fit (m : Mod) (x : Fit) : FitOnly m { m with fit := x } := ⟨rfl, fun _ _ _ _ => rfl, fun _ h => h⟩

theorem FitOnly.slotFired (m : Mod) (n : Nat) (b : Bool) : FitOnly m (m.slotFired n b) := by
  unfold Mod.slotFired
  split
  · split
    · exact .fit ..
    · exact .refl _
  · exact .refl _

theorem FitOnly.missed (m : Mod) : FitOnly m (m.countSat F.FIT_STATUS_MISSED) :=
  ⟨rfl, fun _ ix _ h => Mod.get_countSat_reg m ix [] 1 h, fun _ h => h⟩

theorem FitOnly.clearRc (m : Mod) : FitOnly m m.clearRc := by
  refine ⟨rfl, fun f ix h _ => ?_, fun _ h => h⟩
  unfold Mod.clearRc Mod.get
  simp only []
  rw [List.find?_filter]
  congr 2
  funext e
  by_cases h1 : e.1 = ⟨f, ix⟩
  · simp [h1, h]
  · simp [h1]

theorem FitOnly.pulse (m : Mod) : FitOnly m m.fitPulse := by
  unfold Mod.fitPulse
  generalize List.range 24 = l
  induction l generalizing m with
  | nil => exact .refl _
  | cons p l ih =>
    refine FitOnly.trans ?_ (ih _)
    dsimp only
    split
    · exact ⟨rfl, fun _ _ _ _ => rfl, fun o h => by simp [h]⟩
    · exact .refl _

theorem FitOnly.fired (m : Mod) (p : FitPend) (b : Bool) : FitOnly m (m.pendFired p b) := by
  unfold Mod.pendFired
  split
  · exact .slotFired ..
  · exact .refl _

theorem FitOnly.fireNew (m : Mod) (p : FitPend) (ft : Nat) : FitOnly m (m.fireNew p ft) := by
  unfold Mod.fireNew
  split
  · exact (FitOnly.missed m).trans (.fired ..)
  · rename_i b _
    refine FitOnly.trans (FitOnly.fit m (m.fireFit p ft b)) (FitOnly.trans ?_ (.pulse _))
    refine FitOnly.trans ?_ (.fired ..)
    split
    · exact .clearRc _
    · exact .refl _

theorem FitOnly.fire (m : Mod) (p : FitPend) : FitOnly m (m.fire p) := by
  unfold Mod.fire
  dsimp only
  split
  · split
    · exact (FitOnly.fit m _).trans (.fired ..)
    · exact .fireNew ..
  · exact .fireNew ..

/-- What the end of a step can change. -/
theorem settle_only (m : Mod) : FitOnly m (settle m) := by
  have key : ∀ (l : List FitPend) (m : Mod), FitOnly m (l.foldl Mod.fire m) := by
    intro l
    induction l with
    | nil => exact .refl
    | cons p l ih => exact fun m => (FitOnly.fire m p).trans (ih _)
  unfold settle
  dsimp only
  split
  · exact .refl _
  · exact (key _ _).trans (.fit ..)

/-- With no trigger detected the end of a step does nothing. -/
@[simp] theorem settle_quiet {m : Mod} (h : m.fit.pend = []) : settle m = m := by simp [settle, h]

/-- A field that no Fitting clear reaches keeps its value at the end of a step. -/
theorem settle_get (m : Mod) (f : Fld) (ix : List Nat) (h : f.access ≠ .rc) (h' : f ≠ F.FIT_STATUS_MISSED) :
    (settle m).get f ix = m.get f ix := (settle_only m).get f ix h h'

/-- What was sent out stays sent. -/
theorem settle_outs {m : Mod} {o : Out} (h : o ∈ m.outs) : o ∈ (settle m).outs := (settle_only m).outs o h

@[simp] theorem settle_latches (m : Mod) : (settle m).latches = m.latches := by rw [(settle_only m).eq]
@[simp] theorem settle_drawn (m : Mod) : (settle m).drawn = m.drawn := by rw [(settle_only m).eq]
@[simp] theorem settle_powered (m : Mod) : (settle m).powered = m.powered := by rw [(settle_only m).eq]
@[simp] theorem settle_tripped (m : Mod) : (settle m).tripped = m.tripped := by rw [(settle_only m).eq]
@[simp] theorem settle_perst (m : Mod) : (settle m).perst = m.perst := by rw [(settle_only m).eq]
@[simp] theorem settle_ownReset (m : Mod) : (settle m).ownReset = m.ownReset := by rw [(settle_only m).eq]
@[simp] theorem settle_holds (m : Mod) : (settle m).holds = m.holds := by rw [(settle_only m).eq]
@[simp] theorem settle_pwr (m : Mod) : (settle m).pwr = m.pwr := by rw [(settle_only m).eq]
@[simp] theorem settle_ecc (m : Mod) : (settle m).ecc = m.ecc := by rw [(settle_only m).eq]
@[simp] theorem settle_now (m : Mod) : (settle m).now = m.now := by rw [(settle_only m).eq]
@[simp] theorem settle_alog (m : Mod) : (settle m).alog = m.alog := by rw [(settle_only m).eq]
@[simp] theorem settle_logq (m : Mod) : (settle m).logq = m.logq := by rw [(settle_only m).eq]
@[simp] theorem settle_cut (m : Mod) : (settle m).cut = m.cut := by rw [(settle_only m).eq]
@[simp] theorem settle_locks (m : Mod) : (settle m).locks = m.locks := by rw [(settle_only m).eq]
@[simp] theorem settle_mbxStored (m : Mod) : (settle m).mbxStored = m.mbxStored := by rw [(settle_only m).eq]
@[simp] theorem settle_mbxGone (m : Mod) : (settle m).mbxGone = m.mbxGone := by rw [(settle_only m).eq]
@[simp] theorem settle_tl (m : Mod) : (settle m).tl = m.tl := by rw [(settle_only m).eq]
@[simp] theorem settle_tack (m : Mod) : (settle m).tack = m.tack := by rw [(settle_only m).eq]
@[simp] theorem settle_wheel (m : Mod) : (settle m).wheel = m.wheel := by rw [(settle_only m).eq]
@[simp] theorem settle_replies (m : Mod) : (settle m).replies = m.replies := by rw [(settle_only m).eq]
@[simp] theorem settle_txns (m : Mod) : (settle m).txns = m.txns := by rw [(settle_only m).eq]
@[simp] theorem settle_txnEnds (m : Mod) : (settle m).txnEnds = m.txnEnds := by rw [(settle_only m).eq]
@[simp] theorem settle_plt (m : Mod) : (settle m).plt = m.plt := by rw [(settle_only m).eq]
@[simp] theorem settle_hem (m : Mod) : (settle m).hem = m.hem := by rw [(settle_only m).eq]
@[simp] theorem settle_hsub (m : Mod) : (settle m).hsub = m.hsub := by rw [(settle_only m).eq]
@[simp] theorem settle_hcopy (m : Mod) : (settle m).hcopy = m.hcopy := by rw [(settle_only m).eq]
@[simp] theorem settle_prt (m : Mod) : (settle m).prt = m.prt := by rw [(settle_only m).eq]
@[simp] theorem settle_bob (m : Mod) : (settle m).bob = m.bob := by rw [(settle_only m).eq]
@[simp] theorem settle_pat (m : Mod) : (settle m).pat = m.pat := by rw [(settle_only m).eq]
@[simp] theorem settle_shu (m : Mod) : (settle m).shu = m.shu := by rw [(settle_only m).eq]
@[simp] theorem settle_spl (m : Mod) : (settle m).spl = m.spl := by rw [(settle_only m).eq]
@[simp] theorem settle_thm (m : Mod) : (settle m).thm = m.thm := by rw [(settle_only m).eq]
@[simp] theorem settle_msix (m : Mod) : (settle m).msix = m.msix := by rw [(settle_only m).eq]
@[simp] theorem settle_sel (m : Mod) : (settle m).sel = m.sel := by rw [(settle_only m).eq]
@[simp] theorem settle_sto (m : Mod) : (settle m).sto = m.sto := by rw [(settle_only m).eq]
@[simp] theorem settle_jxl (m : Mod) : (settle m).jxl = m.jxl := by rw [(settle_only m).eq]
@[simp] theorem settle_chalk (m : Mod) : (settle m).chalk = m.chalk := by rw [(settle_only m).eq]
@[simp] theorem settle_img (m : Mod) : (settle m).img = m.img := by rw [(settle_only m).eq]

/-! ### Meanings -/

/-- A meaning answers a next state: the module changed and settled, queue and data region kept. -/
theorem run_next (s : State) (f : Mod → Mod) : run s f = .next ⟨s.pending, s.mem, settle (f s.m)⟩ := rfl

/-- A meaning over the data region answers a next state and keeps the queue. -/
theorem runMem_next (s : State) (f : Mod → List Host.Cell → Mod × List Host.Cell) :
    runMem s f = .next ⟨s.pending, (f s.m s.mem).2, settle (f s.m s.mem).1⟩ := rfl

/-- What a meaning's next state is. -/
theorem run_eq_next {s t : State} {f : Mod → Mod} (h : run s f = .next t) :
    t.pending = s.pending ∧ t.mem = s.mem ∧ t.m = settle (f s.m) := by
  rw [run_next] at h
  cases h
  exact ⟨rfl, rfl, rfl⟩

end Sys2Proof.Machine
end

