-- ==== Sys2Proof/Laws/Reply.lean ====
section
/-! SUPPORT. Vectors, logs, refused accesses and replies: what each changes, and that a reply goes out. -/

namespace Sys2Proof.Machine

/-! ### `Mod.raise` and `Mod.raiseManager` -/

theorem Mod.raise_frame (m : Mod) (f : Fn) (v : Nat) : m.raise f v =
    { m with outs := (m.raise f v).outs, msix := (m.raise f v).msix } := by
  unfold Mod.raise
  split
  · rfl
  · dsimp only
    split <;> rfl
@[simp] theorem Mod.raise_regs (m : Mod) (f : Fn) (v : Nat) : (m.raise f v).regs = m.regs := by
  rw [Mod.raise_frame]
@[simp] theorem Mod.raise_latches (m : Mod) (f : Fn) (v : Nat) : (m.raise f v).latches = m.latches := by
  rw [Mod.raise_frame]
@[simp] theorem Mod.raise_drawn (m : Mod) (f : Fn) (v : Nat) : (m.raise f v).drawn = m.drawn := by
  rw [Mod.raise_frame]
@[simp] theorem Mod.raise_powered (m : Mod) (f : Fn) (v : Nat) : (m.raise f v).powered = m.powered := by
  rw [Mod.raise_frame]
@[simp] theorem Mod.raise_tripped (m : Mod) (f : Fn) (v : Nat) : (m.raise f v).tripped = m.tripped := by
  rw [Mod.raise_frame]
@[simp] theorem Mod.raise_perst (m : Mod) (f : Fn) (v : Nat) : (m.raise f v).perst = m.perst := by
  rw [Mod.raise_frame]
@[simp] theorem Mod.raise_ownReset (m : Mod) (f : Fn) (v : Nat) : (m.raise f v).ownReset = m.ownReset := by
  rw [Mod.raise_frame]
@[simp] theorem Mod.raise_holds (m : Mod) (f : Fn) (v : Nat) : (m.raise f v).holds = m.holds := by
  rw [Mod.raise_frame]
@[simp] theorem Mod.raise_pwr (m : Mod) (f : Fn) (v : Nat) : (m.raise f v).pwr = m.pwr := by
  rw [Mod.raise_frame]
@[simp] theorem Mod.raise_ecc (m : Mod) (f : Fn) (v : Nat) : (m.raise f v).ecc = m.ecc := by
  rw [Mod.raise_frame]
@[simp] theorem Mod.raise_now (m : Mod) (f : Fn) (v : Nat) : (m.raise f v).now = m.now := by
  rw [Mod.raise_frame]
@[simp] theorem Mod.raise_alog (m : Mod) (f : Fn) (v : Nat) : (m.raise f v).alog = m.alog := by
  rw [Mod.raise_frame]
@[simp] theorem Mod.raise_logq (m : Mod) (f : Fn) (v : Nat) : (m.raise f v).logq = m.logq := by
  rw [Mod.raise_frame]
@[simp] theorem Mod.raise_fit (m : Mod) (f : Fn) (v : Nat) : (m.raise f v).fit = m.fit := by
  rw [Mod.raise_frame]
@[simp] theorem Mod.raise_cut (m : Mod) (f : Fn) (v : Nat) : (m.raise f v).cut = m.cut := by
  rw [Mod.raise_frame]
@[simp] theorem Mod.raise_locks (m : Mod) (f : Fn) (v : Nat) : (m.raise f v).locks = m.locks := by
  rw [Mod.raise_frame]
@[simp] theorem Mod.raise_mbxStored (m : Mod) (f : Fn) (v : Nat) : (m.raise f v).mbxStored = m.mbxStored := by
  rw [Mod.raise_frame]
@[simp] theorem Mod.raise_mbxGone (m : Mod) (f : Fn) (v : Nat) : (m.raise f v).mbxGone = m.mbxGone := by
  rw [Mod.raise_frame]
@[simp] theorem Mod.raise_tl (m : Mod) (f : Fn) (v : Nat) : (m.raise f v).tl = m.tl := by
  rw [Mod.raise_frame]
@[simp] theorem Mod.raise_tack (m : Mod) (f : Fn) (v : Nat) : (m.raise f v).tack = m.tack := by
  rw [Mod.raise_frame]
@[simp] theorem Mod.raise_wheel (m : Mod) (f : Fn) (v : Nat) : (m.raise f v).wheel = m.wheel := by
  rw [Mod.raise_frame]
@[simp] theorem Mod.raise_replies (m : Mod) (f : Fn) (v : Nat) : (m.raise f v).replies = m.replies := by
  rw [Mod.raise_frame]
@[simp] theorem Mod.raise_txns (m : Mod) (f : Fn) (v : Nat) : (m.raise f v).txns = m.txns := by
  rw [Mod.raise_frame]
@[simp] theorem Mod.raise_txnEnds (m : Mod) (f : Fn) (v : Nat) : (m.raise f v).txnEnds = m.txnEnds := by
  rw [Mod.raise_frame]
@[simp] theorem Mod.raise_plt (m : Mod) (f : Fn) (v : Nat) : (m.raise f v).plt = m.plt := by
  rw [Mod.raise_frame]
@[simp] theorem Mod.raise_hem (m : Mod) (f : Fn) (v : Nat) : (m.raise f v).hem = m.hem := by
  rw [Mod.raise_frame]
@[simp] theorem Mod.raise_hsub (m : Mod) (f : Fn) (v : Nat) : (m.raise f v).hsub = m.hsub := by
  rw [Mod.raise_frame]
@[simp] theorem Mod.raise_hcopy (m : Mod) (f : Fn) (v : Nat) : (m.raise f v).hcopy = m.hcopy := by
  rw [Mod.raise_frame]
@[simp] theorem Mod.raise_prt (m : Mod) (f : Fn) (v : Nat) : (m.raise f v).prt = m.prt := by
  rw [Mod.raise_frame]
@[simp] theorem Mod.raise_bob (m : Mod) (f : Fn) (v : Nat) : (m.raise f v).bob = m.bob := by
  rw [Mod.raise_frame]
@[simp] theorem Mod.raise_pat (m : Mod) (f : Fn) (v : Nat) : (m.raise f v).pat = m.pat := by
  rw [Mod.raise_frame]
@[simp] theorem Mod.raise_shu (m : Mod) (f : Fn) (v : Nat) : (m.raise f v).shu = m.shu := by
  rw [Mod.raise_frame]
@[simp] theorem Mod.raise_spl (m : Mod) (f : Fn) (v : Nat) : (m.raise f v).spl = m.spl := by
  rw [Mod.raise_frame]
@[simp] theorem Mod.raise_thm (m : Mod) (f : Fn) (v : Nat) : (m.raise f v).thm = m.thm := by
  rw [Mod.raise_frame]
@[simp] theorem Mod.raise_sel (m : Mod) (f : Fn) (v : Nat) : (m.raise f v).sel = m.sel := by
  rw [Mod.raise_frame]
@[simp] theorem Mod.raise_sto (m : Mod) (f : Fn) (v : Nat) : (m.raise f v).sto = m.sto := by
  rw [Mod.raise_frame]
@[simp] theorem Mod.raise_jxl (m : Mod) (f : Fn) (v : Nat) : (m.raise f v).jxl = m.jxl := by
  rw [Mod.raise_frame]
@[simp] theorem Mod.raise_chalk (m : Mod) (f : Fn) (v : Nat) : (m.raise f v).chalk = m.chalk := by
  rw [Mod.raise_frame]
@[simp] theorem Mod.raise_img (m : Mod) (f : Fn) (v : Nat) : (m.raise f v).img = m.img := by
  rw [Mod.raise_frame]
@[simp] theorem Mod.raise_get (m : Mod) (f : Fn) (v : Nat) (f' : Fld) (ix : List Nat) : (m.raise f v).get f' ix = m.get f' ix :=
  Mod.get_congr (by simp) f' ix
theorem Mod.raise_outs {m : Mod} {o : Out} (f : Fn) (v : Nat) (h : o ∈ m.outs) : o ∈ (m.raise f v).outs := by
  unfold Mod.raise
  split
  · exact h
  · dsimp only
    split <;> simp [h]

theorem Mod.raiseManager_frame (m : Mod) (v : Nat) : m.raiseManager v =
    { m with outs := (m.raiseManager v).outs, msix := (m.raiseManager v).msix } := by
  unfold Mod.raiseManager
  split
  · exact Mod.raise_frame ..
  · rfl
@[simp] theorem Mod.raiseManager_regs (m : Mod) (v : Nat) : (m.raiseManager v).regs = m.regs := by
  rw [Mod.raiseManager_frame]
@[simp] theorem Mod.raiseManager_latches (m : Mod) (v : Nat) : (m.raiseManager v).latches = m.latches := by
  rw [Mod.raiseManager_frame]
@[simp] theorem Mod.raiseManager_drawn (m : Mod) (v : Nat) : (m.raiseManager v).drawn = m.drawn := by
  rw [Mod.raiseManager_frame]
@[simp] theorem Mod.raiseManager_powered (m : Mod) (v : Nat) : (m.raiseManager v).powered = m.powered := by
  rw [Mod.raiseManager_frame]
@[simp] theorem Mod.raiseManager_tripped (m : Mod) (v : Nat) : (m.raiseManager v).tripped = m.tripped := by
  rw [Mod.raiseManager_frame]
@[simp] theorem Mod.raiseManager_perst (m : Mod) (v : Nat) : (m.raiseManager v).perst = m.perst := by
  rw [Mod.raiseManager_frame]
@[simp] theorem Mod.raiseManager_ownReset (m : Mod) (v : Nat) : (m.raiseManager v).ownReset = m.ownReset := by
  rw [Mod.raiseManager_frame]
@[simp] theorem Mod.raiseManager_holds (m : Mod) (v : Nat) : (m.raiseManager v).holds = m.holds := by
  rw [Mod.raiseManager_frame]
@[simp] theorem Mod.raiseManager_pwr (m : Mod) (v : Nat) : (m.raiseManager v).pwr = m.pwr := by
  rw [Mod.raiseManager_frame]
@[simp] theorem Mod.raiseManager_ecc (m : Mod) (v : Nat) : (m.raiseManager v).ecc = m.ecc := by
  rw [Mod.raiseManager_frame]
@[simp] theorem Mod.raiseManager_now (m : Mod) (v : Nat) : (m.raiseManager v).now = m.now := by
  rw [Mod.raiseManager_frame]
@[simp] theorem Mod.raiseManager_alog (m : Mod) (v : Nat) : (m.raiseManager v).alog = m.alog := by
  rw [Mod.raiseManager_frame]
@[simp] theorem Mod.raiseManager_logq (m : Mod) (v : Nat) : (m.raiseManager v).logq = m.logq := by
  rw [Mod.raiseManager_frame]
@[simp] theorem Mod.raiseManager_fit (m : Mod) (v : Nat) : (m.raiseManager v).fit = m.fit := by
  rw [Mod.raiseManager_frame]
@[simp] theorem Mod.raiseManager_cut (m : Mod) (v : Nat) : (m.raiseManager v).cut = m.cut := by
  rw [Mod.raiseManager_frame]
@[simp] theorem Mod.raiseManager_locks (m : Mod) (v : Nat) : (m.raiseManager v).locks = m.locks := by
  rw [Mod.raiseManager_frame]
@[simp] theorem Mod.raiseManager_mbxStored (m : Mod) (v : Nat) : (m.raiseManager v).mbxStored = m.mbxStored := by
  rw [Mod.raiseManager_frame]
@[simp] theorem Mod.raiseManager_mbxGone (m : Mod) (v : Nat) : (m.raiseManager v).mbxGone = m.mbxGone := by
  rw [Mod.raiseManager_frame]
@[simp] theorem Mod.raiseManager_tl (m : Mod) (v : Nat) : (m.raiseManager v).tl = m.tl := by
  rw [Mod.raiseManager_frame]
@[simp] theorem Mod.raiseManager_tack (m : Mod) (v : Nat) : (m.raiseManager v).tack = m.tack := by
  rw [Mod.raiseManager_frame]
@[simp] theorem Mod.raiseManager_wheel (m : Mod) (v : Nat) : (m.raiseManager v).wheel = m.wheel := by
  rw [Mod.raiseManager_frame]
@[simp] theorem Mod.raiseManager_replies (m : Mod) (v : Nat) : (m.raiseManager v).replies = m.replies := by
  rw [Mod.raiseManager_frame]
@[simp] theorem Mod.raiseManager_txns (m : Mod) (v : Nat) : (m.raiseManager v).txns = m.txns := by
  rw [Mod.raiseManager_frame]
@[simp] theorem Mod.raiseManager_txnEnds (m : Mod) (v : Nat) : (m.raiseManager v).txnEnds = m.txnEnds := by
  rw [Mod.raiseManager_frame]
@[simp] theorem Mod.raiseManager_plt (m : Mod) (v : Nat) : (m.raiseManager v).plt = m.plt := by
  rw [Mod.raiseManager_frame]
@[simp] theorem Mod.raiseManager_hem (m : Mod) (v : Nat) : (m.raiseManager v).hem = m.hem := by
  rw [Mod.raiseManager_frame]
@[simp] theorem Mod.raiseManager_hsub (m : Mod) (v : Nat) : (m.raiseManager v).hsub = m.hsub := by
  rw [Mod.raiseManager_frame]
@[simp] theorem Mod.raiseManager_hcopy (m : Mod) (v : Nat) : (m.raiseManager v).hcopy = m.hcopy := by
  rw [Mod.raiseManager_frame]
@[simp] theorem Mod.raiseManager_prt (m : Mod) (v : Nat) : (m.raiseManager v).prt = m.prt := by
  rw [Mod.raiseManager_frame]
@[simp] theorem Mod.raiseManager_bob (m : Mod) (v : Nat) : (m.raiseManager v).bob = m.bob := by
  rw [Mod.raiseManager_frame]
@[simp] theorem Mod.raiseManager_pat (m : Mod) (v : Nat) : (m.raiseManager v).pat = m.pat := by
  rw [Mod.raiseManager_frame]
@[simp] theorem Mod.raiseManager_shu (m : Mod) (v : Nat) : (m.raiseManager v).shu = m.shu := by
  rw [Mod.raiseManager_frame]
@[simp] theorem Mod.raiseManager_spl (m : Mod) (v : Nat) : (m.raiseManager v).spl = m.spl := by
  rw [Mod.raiseManager_frame]
@[simp] theorem Mod.raiseManager_thm (m : Mod) (v : Nat) : (m.raiseManager v).thm = m.thm := by
  rw [Mod.raiseManager_frame]
@[simp] theorem Mod.raiseManager_sel (m : Mod) (v : Nat) : (m.raiseManager v).sel = m.sel := by
  rw [Mod.raiseManager_frame]
@[simp] theorem Mod.raiseManager_sto (m : Mod) (v : Nat) : (m.raiseManager v).sto = m.sto := by
  rw [Mod.raiseManager_frame]
@[simp] theorem Mod.raiseManager_jxl (m : Mod) (v : Nat) : (m.raiseManager v).jxl = m.jxl := by
  rw [Mod.raiseManager_frame]
@[simp] theorem Mod.raiseManager_chalk (m : Mod) (v : Nat) : (m.raiseManager v).chalk = m.chalk := by
  rw [Mod.raiseManager_frame]
@[simp] theorem Mod.raiseManager_img (m : Mod) (v : Nat) : (m.raiseManager v).img = m.img := by
  rw [Mod.raiseManager_frame]
theorem Mod.raiseManager_outs {m : Mod} {o : Out} (v : Nat) (h : o ∈ m.outs) : o ∈ (m.raiseManager v).outs := by
  unfold Mod.raiseManager
  split
  · exact Mod.raise_outs _ _ h
  · exact h

/-! ### `Mod.errStatus`, `Mod.queueLog`, `Mod.event`, `Mod.error` -/

theorem Mod.errStatus_frame (m : Mod) (f : Fld) (i : Nat) : m.errStatus f i =
    { m with regs := (m.errStatus f i).regs, outs := (m.errStatus f i).outs, msix := (m.errStatus f i).msix } := by
  unfold Mod.errStatus
  dsimp only
  split
  · rfl
  · split
    · rw [Mod.raiseManager_frame]; rfl
    · rfl
@[simp] theorem Mod.errStatus_latches (m : Mod) (f : Fld) (i : Nat) : (m.errStatus f i).latches = m.latches := by
  rw [Mod.errStatus_frame]
@[simp] theorem Mod.errStatus_drawn (m : Mod) (f : Fld) (i : Nat) : (m.errStatus f i).drawn = m.drawn := by
  rw [Mod.errStatus_frame]
@[simp] theorem Mod.errStatus_powered (m : Mod) (f : Fld) (i : Nat) : (m.errStatus f i).powered = m.powered := by
  rw [Mod.errStatus_frame]
@[simp] theorem Mod.errStatus_tripped (m : Mod) (f : Fld) (i : Nat) : (m.errStatus f i).tripped = m.tripped := by
  rw [Mod.errStatus_frame]
@[simp] theorem Mod.errStatus_perst (m : Mod) (f : Fld) (i : Nat) : (m.errStatus f i).perst = m.perst := by
  rw [Mod.errStatus_frame]
@[simp] theorem Mod.errStatus_ownReset (m : Mod) (f : Fld) (i : Nat) : (m.errStatus f i).ownReset = m.ownReset := by
  rw [Mod.errStatus_frame]
@[simp] theorem Mod.errStatus_holds (m : Mod) (f : Fld) (i : Nat) : (m.errStatus f i).holds = m.holds := by
  rw [Mod.errStatus_frame]
@[simp] theorem Mod.errStatus_pwr (m : Mod) (f : Fld) (i : Nat) : (m.errStatus f i).pwr = m.pwr := by
  rw [Mod.errStatus_frame]
@[simp] theorem Mod.errStatus_ecc (m : Mod) (f : Fld) (i : Nat) : (m.errStatus f i).ecc = m.ecc := by
  rw [Mod.errStatus_frame]
@[simp] theorem Mod.errStatus_now (m : Mod) (f : Fld) (i : Nat) : (m.errStatus f i).now = m.now := by
  rw [Mod.errStatus_frame]
@[simp] theorem Mod.errStatus_alog (m : Mod) (f : Fld) (i : Nat) : (m.errStatus f i).alog = m.alog := by
  rw [Mod.errStatus_frame]
@[simp] theorem Mod.errStatus_logq (m : Mod) (f : Fld) (i : Nat) : (m.errStatus f i).logq = m.logq := by
  rw [Mod.errStatus_frame]
@[simp] theorem Mod.errStatus_fit (m : Mod) (f : Fld) (i : Nat) : (m.errStatus f i).fit = m.fit := by
  rw [Mod.errStatus_frame]
@[simp] theorem Mod.errStatus_cut (m : Mod) (f : Fld) (i : Nat) : (m.errStatus f i).cut = m.cut := by
  rw [Mod.errStatus_frame]
@[simp] theorem Mod.errStatus_locks (m : Mod) (f : Fld) (i : Nat) : (m.errStatus f i).locks = m.locks := by
  rw [Mod.errStatus_frame]
@[simp] theorem Mod.errStatus_mbxStored (m : Mod) (f : Fld) (i : Nat) : (m.errStatus f i).mbxStored = m.mbxStored := by
  rw [Mod.errStatus_frame]
@[simp] theorem Mod.errStatus_mbxGone (m : Mod) (f : Fld) (i : Nat) : (m.errStatus f i).mbxGone = m.mbxGone := by
  rw [Mod.errStatus_frame]
@[simp] theorem Mod.errStatus_tl (m : Mod) (f : Fld) (i : Nat) : (m.errStatus f i).tl = m.tl := by
  rw [Mod.errStatus_frame]
@[simp] theorem Mod.errStatus_tack (m : Mod) (f : Fld) (i : Nat) : (m.errStatus f i).tack = m.tack := by
  rw [Mod.errStatus_frame]
@[simp] theorem Mod.errStatus_wheel (m : Mod) (f : Fld) (i : Nat) : (m.errStatus f i).wheel = m.wheel := by
  rw [Mod.errStatus_frame]
@[simp] theorem Mod.errStatus_replies (m : Mod) (f : Fld) (i : Nat) : (m.errStatus f i).replies = m.replies := by
  rw [Mod.errStatus_frame]
@[simp] theorem Mod.errStatus_txns (m : Mod) (f : Fld) (i : Nat) : (m.errStatus f i).txns = m.txns := by
  rw [Mod.errStatus_frame]
@[simp] theorem Mod.errStatus_txnEnds (m : Mod) (f : Fld) (i : Nat) : (m.errStatus f i).txnEnds = m.txnEnds := by
  rw [Mod.errStatus_frame]
@[simp] theorem Mod.errStatus_plt (m : Mod) (f : Fld) (i : Nat) : (m.errStatus f i).plt = m.plt := by
  rw [Mod.errStatus_frame]
@[simp] theorem Mod.errStatus_hem (m : Mod) (f : Fld) (i : Nat) : (m.errStatus f i).hem = m.hem := by
  rw [Mod.errStatus_frame]
@[simp] theorem Mod.errStatus_hsub (m : Mod) (f : Fld) (i : Nat) : (m.errStatus f i).hsub = m.hsub := by
  rw [Mod.errStatus_frame]
@[simp] theorem Mod.errStatus_hcopy (m : Mod) (f : Fld) (i : Nat) : (m.errStatus f i).hcopy = m.hcopy := by
  rw [Mod.errStatus_frame]
@[simp] theorem Mod.errStatus_prt (m : Mod) (f : Fld) (i : Nat) : (m.errStatus f i).prt = m.prt := by
  rw [Mod.errStatus_frame]
@[simp] theorem Mod.errStatus_bob (m : Mod) (f : Fld) (i : Nat) : (m.errStatus f i).bob = m.bob := by
  rw [Mod.errStatus_frame]
@[simp] theorem Mod.errStatus_pat (m : Mod) (f : Fld) (i : Nat) : (m.errStatus f i).pat = m.pat := by
  rw [Mod.errStatus_frame]
@[simp] theorem Mod.errStatus_shu (m : Mod) (f : Fld) (i : Nat) : (m.errStatus f i).shu = m.shu := by
  rw [Mod.errStatus_frame]
@[simp] theorem Mod.errStatus_spl (m : Mod) (f : Fld) (i : Nat) : (m.errStatus f i).spl = m.spl := by
  rw [Mod.errStatus_frame]
@[simp] theorem Mod.errStatus_thm (m : Mod) (f : Fld) (i : Nat) : (m.errStatus f i).thm = m.thm := by
  rw [Mod.errStatus_frame]
@[simp] theorem Mod.errStatus_sel (m : Mod) (f : Fld) (i : Nat) : (m.errStatus f i).sel = m.sel := by
  rw [Mod.errStatus_frame]
@[simp] theorem Mod.errStatus_sto (m : Mod) (f : Fld) (i : Nat) : (m.errStatus f i).sto = m.sto := by
  rw [Mod.errStatus_frame]
@[simp] theorem Mod.errStatus_jxl (m : Mod) (f : Fld) (i : Nat) : (m.errStatus f i).jxl = m.jxl := by
  rw [Mod.errStatus_frame]
@[simp] theorem Mod.errStatus_chalk (m : Mod) (f : Fld) (i : Nat) : (m.errStatus f i).chalk = m.chalk := by
  rw [Mod.errStatus_frame]
@[simp] theorem Mod.errStatus_img (m : Mod) (f : Fld) (i : Nat) : (m.errStatus f i).img = m.img := by
  rw [Mod.errStatus_frame]
theorem Mod.errStatus_get (m : Mod) {f g : Fld} (i : Nat) (ix : List Nat) (h : g ≠ f) : (m.errStatus f i).get g ix = m.get g ix := by
  unfold Mod.errStatus
  dsimp only
  split
  · rfl
  · split
    · rw [Mod.get_congr (Mod.raiseManager_regs ..), Mod.get_set_reg _ _ _ _ h]
    · exact Mod.get_set_reg _ _ _ _ h
theorem Mod.errStatus_outs {m : Mod} {o : Out} (f : Fld) (i : Nat) (h : o ∈ m.outs) : o ∈ (m.errStatus f i).outs := by
  unfold Mod.errStatus
  dsimp only
  split
  · exact h
  · split
    · exact Mod.raiseManager_outs _ h
    · exact h

theorem Mod.queueLog_frame (m : Mod) (a b c : Nat) (d : List Byte) : m.queueLog a b c d =
    { m with regs := (m.queueLog a b c d).regs, outs := (m.queueLog a b c d).outs, msix := (m.queueLog a b c d).msix, logq := (m.queueLog a b c d).logq } := by
  unfold Mod.queueLog
  split
  · dsimp only
    rw [Mod.errStatus_frame]; rfl
  · rfl
@[simp] theorem Mod.queueLog_latches (m : Mod) (a b c : Nat) (d : List Byte) : (m.queueLog a b c d).latches = m.latches := by
  rw [Mod.queueLog_frame]
@[simp] theorem Mod.queueLog_drawn (m : Mod) (a b c : Nat) (d : List Byte) : (m.queueLog a b c d).drawn = m.drawn := by
  rw [Mod.queueLog_frame]
@[simp] theorem Mod.queueLog_powered (m : Mod) (a b c : Nat) (d : List Byte) : (m.queueLog a b c d).powered = m.powered := by
  rw [Mod.queueLog_frame]
@[simp] theorem Mod.queueLog_tripped (m : Mod) (a b c : Nat) (d : List Byte) : (m.queueLog a b c d).tripped = m.tripped := by
  rw [Mod.queueLog_frame]
@[simp] theorem Mod.queueLog_perst (m : Mod) (a b c : Nat) (d : List Byte) : (m.queueLog a b c d).perst = m.perst := by
  rw [Mod.queueLog_frame]
@[simp] theorem Mod.queueLog_ownReset (m : Mod) (a b c : Nat) (d : List Byte) : (m.queueLog a b c d).ownReset = m.ownReset := by
  rw [Mod.queueLog_frame]
@[simp] theorem Mod.queueLog_holds (m : Mod) (a b c : Nat) (d : List Byte) : (m.queueLog a b c d).holds = m.holds := by
  rw [Mod.queueLog_frame]
@[simp] theorem Mod.queueLog_pwr (m : Mod) (a b c : Nat) (d : List Byte) : (m.queueLog a b c d).pwr = m.pwr := by
  rw [Mod.queueLog_frame]
@[simp] theorem Mod.queueLog_ecc (m : Mod) (a b c : Nat) (d : List Byte) : (m.queueLog a b c d).ecc = m.ecc := by
  rw [Mod.queueLog_frame]
@[simp] theorem Mod.queueLog_now (m : Mod) (a b c : Nat) (d : List Byte) : (m.queueLog a b c d).now = m.now := by
  rw [Mod.queueLog_frame]
@[simp] theorem Mod.queueLog_alog (m : Mod) (a b c : Nat) (d : List Byte) : (m.queueLog a b c d).alog = m.alog := by
  rw [Mod.queueLog_frame]
@[simp] theorem Mod.queueLog_fit (m : Mod) (a b c : Nat) (d : List Byte) : (m.queueLog a b c d).fit = m.fit := by
  rw [Mod.queueLog_frame]
@[simp] theorem Mod.queueLog_cut (m : Mod) (a b c : Nat) (d : List Byte) : (m.queueLog a b c d).cut = m.cut := by
  rw [Mod.queueLog_frame]
@[simp] theorem Mod.queueLog_locks (m : Mod) (a b c : Nat) (d : List Byte) : (m.queueLog a b c d).locks = m.locks := by
  rw [Mod.queueLog_frame]
@[simp] theorem Mod.queueLog_mbxStored (m : Mod) (a b c : Nat) (d : List Byte) : (m.queueLog a b c d).mbxStored = m.mbxStored := by
  rw [Mod.queueLog_frame]
@[simp] theorem Mod.queueLog_mbxGone (m : Mod) (a b c : Nat) (d : List Byte) : (m.queueLog a b c d).mbxGone = m.mbxGone := by
  rw [Mod.queueLog_frame]
@[simp] theorem Mod.queueLog_tl (m : Mod) (a b c : Nat) (d : List Byte) : (m.queueLog a b c d).tl = m.tl := by
  rw [Mod.queueLog_frame]
@[simp] theorem Mod.queueLog_tack (m : Mod) (a b c : Nat) (d : List Byte) : (m.queueLog a b c d).tack = m.tack := by
  rw [Mod.queueLog_frame]
@[simp] theorem Mod.queueLog_wheel (m : Mod) (a b c : Nat) (d : List Byte) : (m.queueLog a b c d).wheel = m.wheel := by
  rw [Mod.queueLog_frame]
@[simp] theorem Mod.queueLog_replies (m : Mod) (a b c : Nat) (d : List Byte) : (m.queueLog a b c d).replies = m.replies := by
  rw [Mod.queueLog_frame]
@[simp] theorem Mod.queueLog_txns (m : Mod) (a b c : Nat) (d : List Byte) : (m.queueLog a b c d).txns = m.txns := by
  rw [Mod.queueLog_frame]
@[simp] theorem Mod.queueLog_txnEnds (m : Mod) (a b c : Nat) (d : List Byte) : (m.queueLog a b c d).txnEnds = m.txnEnds := by
  rw [Mod.queueLog_frame]
@[simp] theorem Mod.queueLog_plt (m : Mod) (a b c : Nat) (d : List Byte) : (m.queueLog a b c d).plt = m.plt := by
  rw [Mod.queueLog_frame]
@[simp] theorem Mod.queueLog_hem (m : Mod) (a b c : Nat) (d : List Byte) : (m.queueLog a b c d).hem = m.hem := by
  rw [Mod.queueLog_frame]
@[simp] theorem Mod.queueLog_hsub (m : Mod) (a b c : Nat) (d : List Byte) : (m.queueLog a b c d).hsub = m.hsub := by
  rw [Mod.queueLog_frame]
@[simp] theorem Mod.queueLog_hcopy (m : Mod) (a b c : Nat) (d : List Byte) : (m.queueLog a b c d).hcopy = m.hcopy := by
  rw [Mod.queueLog_frame]
@[simp] theorem Mod.queueLog_prt (m : Mod) (a b c : Nat) (d : List Byte) : (m.queueLog a b c d).prt = m.prt := by
  rw [Mod.queueLog_frame]
@[simp] theorem Mod.queueLog_bob (m : Mod) (a b c : Nat) (d : List Byte) : (m.queueLog a b c d).bob = m.bob := by
  rw [Mod.queueLog_frame]
@[simp] theorem Mod.queueLog_pat (m : Mod) (a b c : Nat) (d : List Byte) : (m.queueLog a b c d).pat = m.pat := by
  rw [Mod.queueLog_frame]
@[simp] theorem Mod.queueLog_shu (m : Mod) (a b c : Nat) (d : List Byte) : (m.queueLog a b c d).shu = m.shu := by
  rw [Mod.queueLog_frame]
@[simp] theorem Mod.queueLog_spl (m : Mod) (a b c : Nat) (d : List Byte) : (m.queueLog a b c d).spl = m.spl := by
  rw [Mod.queueLog_frame]
@[simp] theorem Mod.queueLog_thm (m : Mod) (a b c : Nat) (d : List Byte) : (m.queueLog a b c d).thm = m.thm := by
  rw [Mod.queueLog_frame]
@[simp] theorem Mod.queueLog_sel (m : Mod) (a b c : Nat) (d : List Byte) : (m.queueLog a b c d).sel = m.sel := by
  rw [Mod.queueLog_frame]
@[simp] theorem Mod.queueLog_sto (m : Mod) (a b c : Nat) (d : List Byte) : (m.queueLog a b c d).sto = m.sto := by
  rw [Mod.queueLog_frame]
@[simp] theorem Mod.queueLog_jxl (m : Mod) (a b c : Nat) (d : List Byte) : (m.queueLog a b c d).jxl = m.jxl := by
  rw [Mod.queueLog_frame]
@[simp] theorem Mod.queueLog_chalk (m : Mod) (a b c : Nat) (d : List Byte) : (m.queueLog a b c d).chalk = m.chalk := by
  rw [Mod.queueLog_frame]
@[simp] theorem Mod.queueLog_img (m : Mod) (a b c : Nat) (d : List Byte) : (m.queueLog a b c d).img = m.img := by
  rw [Mod.queueLog_frame]
/-- A log entry changes no register but the log status and the error status. -/
theorem Mod.queueLog_get (m : Mod) (a b c : Nat) (d : List Byte) (g : Fld) (ix : List Nat) (h : g.reg ≠ .GLB_ERR_STATUS)
    (h' : g.reg ≠ .GLB_LOG_STATUS) : (m.queueLog a b c d).get g ix = m.get g ix := by
  unfold Mod.queueLog
  split
  · show ((m.countSat F.GLB_LOG_STATUS_LOST).errStatus F.GLB_ERR_STATUS_LOG_LOST 0).get g ix = _
    rw [Mod.errStatus_get _ _ _ (by rintro rfl; exact h rfl), Mod.get_countSat_reg _ _ _ _ (by rintro rfl; exact h' rfl)]
  · rfl
theorem Mod.queueLog_outs {m : Mod} {o : Out} (a b c : Nat) (d : List Byte) (h : o ∈ m.outs) : o ∈ (m.queueLog a b c d).outs := by
  unfold Mod.queueLog
  split
  · exact Mod.errStatus_outs _ _ h
  · exact h

theorem Mod.event_frame (m : Mod) (a b c : Nat) (d : List Byte) : m.event a b c d =
    { m with regs := (m.event a b c d).regs, outs := (m.event a b c d).outs, msix := (m.event a b c d).msix, logq := (m.event a b c d).logq } := by
  exact Mod.queueLog_frame ..
@[simp] theorem Mod.event_latches (m : Mod) (a b c : Nat) (d : List Byte) : (m.event a b c d).latches = m.latches := by
  rw [Mod.event_frame]
@[simp] theorem Mod.event_drawn (m : Mod) (a b c : Nat) (d : List Byte) : (m.event a b c d).drawn = m.drawn := by
  rw [Mod.event_frame]
@[simp] theorem Mod.event_powered (m : Mod) (a b c : Nat) (d : List Byte) : (m.event a b c d).powered = m.powered := by
  rw [Mod.event_frame]
@[simp] theorem Mod.event_tripped (m : Mod) (a b c : Nat) (d : List Byte) : (m.event a b c d).tripped = m.tripped := by
  rw [Mod.event_frame]
@[simp] theorem Mod.event_perst (m : Mod) (a b c : Nat) (d : List Byte) : (m.event a b c d).perst = m.perst := by
  rw [Mod.event_frame]
@[simp] theorem Mod.event_ownReset (m : Mod) (a b c : Nat) (d : List Byte) : (m.event a b c d).ownReset = m.ownReset := by
  rw [Mod.event_frame]
@[simp] theorem Mod.event_holds (m : Mod) (a b c : Nat) (d : List Byte) : (m.event a b c d).holds = m.holds := by
  rw [Mod.event_frame]
@[simp] theorem Mod.event_pwr (m : Mod) (a b c : Nat) (d : List Byte) : (m.event a b c d).pwr = m.pwr := by
  rw [Mod.event_frame]
@[simp] theorem Mod.event_ecc (m : Mod) (a b c : Nat) (d : List Byte) : (m.event a b c d).ecc = m.ecc := by
  rw [Mod.event_frame]
@[simp] theorem Mod.event_now (m : Mod) (a b c : Nat) (d : List Byte) : (m.event a b c d).now = m.now := by
  rw [Mod.event_frame]
@[simp] theorem Mod.event_alog (m : Mod) (a b c : Nat) (d : List Byte) : (m.event a b c d).alog = m.alog := by
  rw [Mod.event_frame]
@[simp] theorem Mod.event_fit (m : Mod) (a b c : Nat) (d : List Byte) : (m.event a b c d).fit = m.fit := by
  rw [Mod.event_frame]
@[simp] theorem Mod.event_cut (m : Mod) (a b c : Nat) (d : List Byte) : (m.event a b c d).cut = m.cut := by
  rw [Mod.event_frame]
@[simp] theorem Mod.event_locks (m : Mod) (a b c : Nat) (d : List Byte) : (m.event a b c d).locks = m.locks := by
  rw [Mod.event_frame]
@[simp] theorem Mod.event_mbxStored (m : Mod) (a b c : Nat) (d : List Byte) : (m.event a b c d).mbxStored = m.mbxStored := by
  rw [Mod.event_frame]
@[simp] theorem Mod.event_mbxGone (m : Mod) (a b c : Nat) (d : List Byte) : (m.event a b c d).mbxGone = m.mbxGone := by
  rw [Mod.event_frame]
@[simp] theorem Mod.event_tl (m : Mod) (a b c : Nat) (d : List Byte) : (m.event a b c d).tl = m.tl := by
  rw [Mod.event_frame]
@[simp] theorem Mod.event_tack (m : Mod) (a b c : Nat) (d : List Byte) : (m.event a b c d).tack = m.tack := by
  rw [Mod.event_frame]
@[simp] theorem Mod.event_wheel (m : Mod) (a b c : Nat) (d : List Byte) : (m.event a b c d).wheel = m.wheel := by
  rw [Mod.event_frame]
@[simp] theorem Mod.event_replies (m : Mod) (a b c : Nat) (d : List Byte) : (m.event a b c d).replies = m.replies := by
  rw [Mod.event_frame]
@[simp] theorem Mod.event_txns (m : Mod) (a b c : Nat) (d : List Byte) : (m.event a b c d).txns = m.txns := by
  rw [Mod.event_frame]
@[simp] theorem Mod.event_txnEnds (m : Mod) (a b c : Nat) (d : List Byte) : (m.event a b c d).txnEnds = m.txnEnds := by
  rw [Mod.event_frame]
@[simp] theorem Mod.event_plt (m : Mod) (a b c : Nat) (d : List Byte) : (m.event a b c d).plt = m.plt := by
  rw [Mod.event_frame]
@[simp] theorem Mod.event_hem (m : Mod) (a b c : Nat) (d : List Byte) : (m.event a b c d).hem = m.hem := by
  rw [Mod.event_frame]
@[simp] theorem Mod.event_hsub (m : Mod) (a b c : Nat) (d : List Byte) : (m.event a b c d).hsub = m.hsub := by
  rw [Mod.event_frame]
@[simp] theorem Mod.event_hcopy (m : Mod) (a b c : Nat) (d : List Byte) : (m.event a b c d).hcopy = m.hcopy := by
  rw [Mod.event_frame]
@[simp] theorem Mod.event_prt (m : Mod) (a b c : Nat) (d : List Byte) : (m.event a b c d).prt = m.prt := by
  rw [Mod.event_frame]
@[simp] theorem Mod.event_bob (m : Mod) (a b c : Nat) (d : List Byte) : (m.event a b c d).bob = m.bob := by
  rw [Mod.event_frame]
@[simp] theorem Mod.event_pat (m : Mod) (a b c : Nat) (d : List Byte) : (m.event a b c d).pat = m.pat := by
  rw [Mod.event_frame]
@[simp] theorem Mod.event_shu (m : Mod) (a b c : Nat) (d : List Byte) : (m.event a b c d).shu = m.shu := by
  rw [Mod.event_frame]
@[simp] theorem Mod.event_spl (m : Mod) (a b c : Nat) (d : List Byte) : (m.event a b c d).spl = m.spl := by
  rw [Mod.event_frame]
@[simp] theorem Mod.event_thm (m : Mod) (a b c : Nat) (d : List Byte) : (m.event a b c d).thm = m.thm := by
  rw [Mod.event_frame]
@[simp] theorem Mod.event_sel (m : Mod) (a b c : Nat) (d : List Byte) : (m.event a b c d).sel = m.sel := by
  rw [Mod.event_frame]
@[simp] theorem Mod.event_sto (m : Mod) (a b c : Nat) (d : List Byte) : (m.event a b c d).sto = m.sto := by
  rw [Mod.event_frame]
@[simp] theorem Mod.event_jxl (m : Mod) (a b c : Nat) (d : List Byte) : (m.event a b c d).jxl = m.jxl := by
  rw [Mod.event_frame]
@[simp] theorem Mod.event_chalk (m : Mod) (a b c : Nat) (d : List Byte) : (m.event a b c d).chalk = m.chalk := by
  rw [Mod.event_frame]
@[simp] theorem Mod.event_img (m : Mod) (a b c : Nat) (d : List Byte) : (m.event a b c d).img = m.img := by
  rw [Mod.event_frame]
theorem Mod.event_get (m : Mod) (a b c : Nat) (d : List Byte) (g : Fld) (ix : List Nat) (h : g.reg ≠ .GLB_ERR_STATUS)
    (h' : g.reg ≠ .GLB_LOG_STATUS) : (m.event a b c d).get g ix = m.get g ix := Mod.queueLog_get m a b c d g ix h h'

theorem Mod.event_outs {m : Mod} {o : Out} (a b c : Nat) (d : List Byte) (h : o ∈ m.outs) : o ∈ (m.event a b c d).outs :=
  Mod.queueLog_outs a b c d h

theorem Mod.error_frame (m : Mod) (a b c : Nat) (d : List Byte) : m.error a b c d =
    { m with regs := (m.error a b c d).regs, outs := (m.error a b c d).outs, msix := (m.error a b c d).msix, logq := (m.error a b c d).logq, fit := (m.error a b c d).fit } := by
  unfold Mod.error
  dsimp only
  rw [Mod.errStatus_frame, Mod.queueLog_frame]
@[simp] theorem Mod.error_latches (m : Mod) (a b c : Nat) (d : List Byte) : (m.error a b c d).latches = m.latches := by
  rw [Mod.error_frame]
@[simp] theorem Mod.error_drawn (m : Mod) (a b c : Nat) (d : List Byte) : (m.error a b c d).drawn = m.drawn := by
  rw [Mod.error_frame]
@[simp] theorem Mod.error_powered (m : Mod) (a b c : Nat) (d : List Byte) : (m.error a b c d).powered = m.powered := by
  rw [Mod.error_frame]
@[simp] theorem Mod.error_tripped (m : Mod) (a b c : Nat) (d : List Byte) : (m.error a b c d).tripped = m.tripped := by
  rw [Mod.error_frame]
@[simp] theorem Mod.error_perst (m : Mod) (a b c : Nat) (d : List Byte) : (m.error a b c d).perst = m.perst := by
  rw [Mod.error_frame]
@[simp] theorem Mod.error_ownReset (m : Mod) (a b c : Nat) (d : List Byte) : (m.error a b c d).ownReset = m.ownReset := by
  rw [Mod.error_frame]
@[simp] theorem Mod.error_holds (m : Mod) (a b c : Nat) (d : List Byte) : (m.error a b c d).holds = m.holds := by
  rw [Mod.error_frame]
@[simp] theorem Mod.error_pwr (m : Mod) (a b c : Nat) (d : List Byte) : (m.error a b c d).pwr = m.pwr := by
  rw [Mod.error_frame]
@[simp] theorem Mod.error_ecc (m : Mod) (a b c : Nat) (d : List Byte) : (m.error a b c d).ecc = m.ecc := by
  rw [Mod.error_frame]
@[simp] theorem Mod.error_now (m : Mod) (a b c : Nat) (d : List Byte) : (m.error a b c d).now = m.now := by
  rw [Mod.error_frame]
@[simp] theorem Mod.error_alog (m : Mod) (a b c : Nat) (d : List Byte) : (m.error a b c d).alog = m.alog := by
  rw [Mod.error_frame]
@[simp] theorem Mod.error_cut (m : Mod) (a b c : Nat) (d : List Byte) : (m.error a b c d).cut = m.cut := by
  rw [Mod.error_frame]
@[simp] theorem Mod.error_locks (m : Mod) (a b c : Nat) (d : List Byte) : (m.error a b c d).locks = m.locks := by
  rw [Mod.error_frame]
@[simp] theorem Mod.error_mbxStored (m : Mod) (a b c : Nat) (d : List Byte) : (m.error a b c d).mbxStored = m.mbxStored := by
  rw [Mod.error_frame]
@[simp] theorem Mod.error_mbxGone (m : Mod) (a b c : Nat) (d : List Byte) : (m.error a b c d).mbxGone = m.mbxGone := by
  rw [Mod.error_frame]
@[simp] theorem Mod.error_tl (m : Mod) (a b c : Nat) (d : List Byte) : (m.error a b c d).tl = m.tl := by
  rw [Mod.error_frame]
@[simp] theorem Mod.error_tack (m : Mod) (a b c : Nat) (d : List Byte) : (m.error a b c d).tack = m.tack := by
  rw [Mod.error_frame]
@[simp] theorem Mod.error_wheel (m : Mod) (a b c : Nat) (d : List Byte) : (m.error a b c d).wheel = m.wheel := by
  rw [Mod.error_frame]
@[simp] theorem Mod.error_replies (m : Mod) (a b c : Nat) (d : List Byte) : (m.error a b c d).replies = m.replies := by
  rw [Mod.error_frame]
@[simp] theorem Mod.error_txns (m : Mod) (a b c : Nat) (d : List Byte) : (m.error a b c d).txns = m.txns := by
  rw [Mod.error_frame]
@[simp] theorem Mod.error_txnEnds (m : Mod) (a b c : Nat) (d : List Byte) : (m.error a b c d).txnEnds = m.txnEnds := by
  rw [Mod.error_frame]
@[simp] theorem Mod.error_plt (m : Mod) (a b c : Nat) (d : List Byte) : (m.error a b c d).plt = m.plt := by
  rw [Mod.error_frame]
@[simp] theorem Mod.error_hem (m : Mod) (a b c : Nat) (d : List Byte) : (m.error a b c d).hem = m.hem := by
  rw [Mod.error_frame]
@[simp] theorem Mod.error_hsub (m : Mod) (a b c : Nat) (d : List Byte) : (m.error a b c d).hsub = m.hsub := by
  rw [Mod.error_frame]
@[simp] theorem Mod.error_hcopy (m : Mod) (a b c : Nat) (d : List Byte) : (m.error a b c d).hcopy = m.hcopy := by
  rw [Mod.error_frame]
@[simp] theorem Mod.error_prt (m : Mod) (a b c : Nat) (d : List Byte) : (m.error a b c d).prt = m.prt := by
  rw [Mod.error_frame]
@[simp] theorem Mod.error_bob (m : Mod) (a b c : Nat) (d : List Byte) : (m.error a b c d).bob = m.bob := by
  rw [Mod.error_frame]
@[simp] theorem Mod.error_pat (m : Mod) (a b c : Nat) (d : List Byte) : (m.error a b c d).pat = m.pat := by
  rw [Mod.error_frame]
@[simp] theorem Mod.error_shu (m : Mod) (a b c : Nat) (d : List Byte) : (m.error a b c d).shu = m.shu := by
  rw [Mod.error_frame]
@[simp] theorem Mod.error_spl (m : Mod) (a b c : Nat) (d : List Byte) : (m.error a b c d).spl = m.spl := by
  rw [Mod.error_frame]
@[simp] theorem Mod.error_thm (m : Mod) (a b c : Nat) (d : List Byte) : (m.error a b c d).thm = m.thm := by
  rw [Mod.error_frame]
@[simp] theorem Mod.error_sel (m : Mod) (a b c : Nat) (d : List Byte) : (m.error a b c d).sel = m.sel := by
  rw [Mod.error_frame]
@[simp] theorem Mod.error_sto (m : Mod) (a b c : Nat) (d : List Byte) : (m.error a b c d).sto = m.sto := by
  rw [Mod.error_frame]
@[simp] theorem Mod.error_jxl (m : Mod) (a b c : Nat) (d : List Byte) : (m.error a b c d).jxl = m.jxl := by
  rw [Mod.error_frame]
@[simp] theorem Mod.error_chalk (m : Mod) (a b c : Nat) (d : List Byte) : (m.error a b c d).chalk = m.chalk := by
  rw [Mod.error_frame]
@[simp] theorem Mod.error_img (m : Mod) (a b c : Nat) (d : List Byte) : (m.error a b c d).img = m.img := by
  rw [Mod.error_frame]
theorem Mod.error_get (m : Mod) (a b c : Nat) (d : List Byte) (g : Fld) (ix : List Nat) (h : g.reg ≠ .GLB_ERR_STATUS)
    (h' : g.reg ≠ .GLB_LOG_STATUS) : (m.error a b c d).get g ix = m.get g ix := by
  show ((m.queueLog a b c d).errStatus F.GLB_ERR_STATUS_CLASS (a - 1)).get g ix = _
  rw [Mod.errStatus_get _ _ _ (by rintro rfl; exact h rfl), Mod.queueLog_get m a b c d g ix h h']

theorem Mod.error_outs {m : Mod} {o : Out} (a b c : Nat) (d : List Byte) (h : o ∈ m.outs) : o ∈ (m.error a b c d).outs :=
  Mod.errStatus_outs _ _ (Mod.queueLog_outs a b c d h)

/-! ### `Mod.refuse` -/

theorem Mod.refuse_frame (m : Mod) (mid a : Nat) (w d : Bool) (c : Nat) : m.refuse mid a w d c =
    { m with regs := (m.refuse mid a w d c).regs, outs := (m.refuse mid a w d c).outs, msix := (m.refuse mid a w d c).msix, alog := (m.refuse mid a w d c).alog } := by
  unfold Mod.refuse
  dsimp only
  rw [Mod.errStatus_frame]
@[simp] theorem Mod.refuse_latches (m : Mod) (mid a : Nat) (w d : Bool) (c : Nat) : (m.refuse mid a w d c).latches = m.latches := by
  rw [Mod.refuse_frame]
@[simp] theorem Mod.refuse_drawn (m : Mod) (mid a : Nat) (w d : Bool) (c : Nat) : (m.refuse mid a w d c).drawn = m.drawn := by
  rw [Mod.refuse_frame]
@[simp] theorem Mod.refuse_powered (m : Mod) (mid a : Nat) (w d : Bool) (c : Nat) : (m.refuse mid a w d c).powered = m.powered := by
  rw [Mod.refuse_frame]
@[simp] theorem Mod.refuse_tripped (m : Mod) (mid a : Nat) (w d : Bool) (c : Nat) : (m.refuse mid a w d c).tripped = m.tripped := by
  rw [Mod.refuse_frame]
@[simp] theorem Mod.refuse_perst (m : Mod) (mid a : Nat) (w d : Bool) (c : Nat) : (m.refuse mid a w d c).perst = m.perst := by
  rw [Mod.refuse_frame]
@[simp] theorem Mod.refuse_ownReset (m : Mod) (mid a : Nat) (w d : Bool) (c : Nat) : (m.refuse mid a w d c).ownReset = m.ownReset := by
  rw [Mod.refuse_frame]
@[simp] theorem Mod.refuse_holds (m : Mod) (mid a : Nat) (w d : Bool) (c : Nat) : (m.refuse mid a w d c).holds = m.holds := by
  rw [Mod.refuse_frame]
@[simp] theorem Mod.refuse_pwr (m : Mod) (mid a : Nat) (w d : Bool) (c : Nat) : (m.refuse mid a w d c).pwr = m.pwr := by
  rw [Mod.refuse_frame]
@[simp] theorem Mod.refuse_ecc (m : Mod) (mid a : Nat) (w d : Bool) (c : Nat) : (m.refuse mid a w d c).ecc = m.ecc := by
  rw [Mod.refuse_frame]
@[simp] theorem Mod.refuse_now (m : Mod) (mid a : Nat) (w d : Bool) (c : Nat) : (m.refuse mid a w d c).now = m.now := by
  rw [Mod.refuse_frame]
@[simp] theorem Mod.refuse_logq (m : Mod) (mid a : Nat) (w d : Bool) (c : Nat) : (m.refuse mid a w d c).logq = m.logq := by
  rw [Mod.refuse_frame]
@[simp] theorem Mod.refuse_fit (m : Mod) (mid a : Nat) (w d : Bool) (c : Nat) : (m.refuse mid a w d c).fit = m.fit := by
  rw [Mod.refuse_frame]
@[simp] theorem Mod.refuse_cut (m : Mod) (mid a : Nat) (w d : Bool) (c : Nat) : (m.refuse mid a w d c).cut = m.cut := by
  rw [Mod.refuse_frame]
@[simp] theorem Mod.refuse_locks (m : Mod) (mid a : Nat) (w d : Bool) (c : Nat) : (m.refuse mid a w d c).locks = m.locks := by
  rw [Mod.refuse_frame]
@[simp] theorem Mod.refuse_mbxStored (m : Mod) (mid a : Nat) (w d : Bool) (c : Nat) : (m.refuse mid a w d c).mbxStored = m.mbxStored := by
  rw [Mod.refuse_frame]
@[simp] theorem Mod.refuse_mbxGone (m : Mod) (mid a : Nat) (w d : Bool) (c : Nat) : (m.refuse mid a w d c).mbxGone = m.mbxGone := by
  rw [Mod.refuse_frame]
@[simp] theorem Mod.refuse_tl (m : Mod) (mid a : Nat) (w d : Bool) (c : Nat) : (m.refuse mid a w d c).tl = m.tl := by
  rw [Mod.refuse_frame]
@[simp] theorem Mod.refuse_tack (m : Mod) (mid a : Nat) (w d : Bool) (c : Nat) : (m.refuse mid a w d c).tack = m.tack := by
  rw [Mod.refuse_frame]
@[simp] theorem Mod.refuse_wheel (m : Mod) (mid a : Nat) (w d : Bool) (c : Nat) : (m.refuse mid a w d c).wheel = m.wheel := by
  rw [Mod.refuse_frame]
@[simp] theorem Mod.refuse_replies (m : Mod) (mid a : Nat) (w d : Bool) (c : Nat) : (m.refuse mid a w d c).replies = m.replies := by
  rw [Mod.refuse_frame]
@[simp] theorem Mod.refuse_txns (m : Mod) (mid a : Nat) (w d : Bool) (c : Nat) : (m.refuse mid a w d c).txns = m.txns := by
  rw [Mod.refuse_frame]
@[simp] theorem Mod.refuse_txnEnds (m : Mod) (mid a : Nat) (w d : Bool) (c : Nat) : (m.refuse mid a w d c).txnEnds = m.txnEnds := by
  rw [Mod.refuse_frame]
@[simp] theorem Mod.refuse_plt (m : Mod) (mid a : Nat) (w d : Bool) (c : Nat) : (m.refuse mid a w d c).plt = m.plt := by
  rw [Mod.refuse_frame]
@[simp] theorem Mod.refuse_hem (m : Mod) (mid a : Nat) (w d : Bool) (c : Nat) : (m.refuse mid a w d c).hem = m.hem := by
  rw [Mod.refuse_frame]
@[simp] theorem Mod.refuse_hsub (m : Mod) (mid a : Nat) (w d : Bool) (c : Nat) : (m.refuse mid a w d c).hsub = m.hsub := by
  rw [Mod.refuse_frame]
@[simp] theorem Mod.refuse_hcopy (m : Mod) (mid a : Nat) (w d : Bool) (c : Nat) : (m.refuse mid a w d c).hcopy = m.hcopy := by
  rw [Mod.refuse_frame]
@[simp] theorem Mod.refuse_prt (m : Mod) (mid a : Nat) (w d : Bool) (c : Nat) : (m.refuse mid a w d c).prt = m.prt := by
  rw [Mod.refuse_frame]
@[simp] theorem Mod.refuse_bob (m : Mod) (mid a : Nat) (w d : Bool) (c : Nat) : (m.refuse mid a w d c).bob = m.bob := by
  rw [Mod.refuse_frame]
@[simp] theorem Mod.refuse_pat (m : Mod) (mid a : Nat) (w d : Bool) (c : Nat) : (m.refuse mid a w d c).pat = m.pat := by
  rw [Mod.refuse_frame]
@[simp] theorem Mod.refuse_shu (m : Mod) (mid a : Nat) (w d : Bool) (c : Nat) : (m.refuse mid a w d c).shu = m.shu := by
  rw [Mod.refuse_frame]
@[simp] theorem Mod.refuse_spl (m : Mod) (mid a : Nat) (w d : Bool) (c : Nat) : (m.refuse mid a w d c).spl = m.spl := by
  rw [Mod.refuse_frame]
@[simp] theorem Mod.refuse_thm (m : Mod) (mid a : Nat) (w d : Bool) (c : Nat) : (m.refuse mid a w d c).thm = m.thm := by
  rw [Mod.refuse_frame]
@[simp] theorem Mod.refuse_sel (m : Mod) (mid a : Nat) (w d : Bool) (c : Nat) : (m.refuse mid a w d c).sel = m.sel := by
  rw [Mod.refuse_frame]
@[simp] theorem Mod.refuse_sto (m : Mod) (mid a : Nat) (w d : Bool) (c : Nat) : (m.refuse mid a w d c).sto = m.sto := by
  rw [Mod.refuse_frame]
@[simp] theorem Mod.refuse_jxl (m : Mod) (mid a : Nat) (w d : Bool) (c : Nat) : (m.refuse mid a w d c).jxl = m.jxl := by
  rw [Mod.refuse_frame]
@[simp] theorem Mod.refuse_chalk (m : Mod) (mid a : Nat) (w d : Bool) (c : Nat) : (m.refuse mid a w d c).chalk = m.chalk := by
  rw [Mod.refuse_frame]
@[simp] theorem Mod.refuse_img (m : Mod) (mid a : Nat) (w d : Bool) (c : Nat) : (m.refuse mid a w d c).img = m.img := by
  rw [Mod.refuse_frame]
theorem Mod.refuse_get (m : Mod) (mid a : Nat) (w d : Bool) (c : Nat) (g : Fld) (ix : List Nat) (h : g.reg ≠ .GLB_ERR_STATUS) :
    (m.refuse mid a w d c).get g ix = m.get g ix := by
  unfold Mod.refuse
  dsimp only
  rw [Mod.errStatus_get _ _ _ (by rintro rfl; exact h rfl)]
  rfl

/-- A refused access is the newest entry of the access-error log. -/
theorem Mod.refuse_alog (m : Mod) (mid a : Nat) (w d : Bool) (c : Nat) :
    (m.refuse mid a w d c).alog.entries.head? = some ⟨a, w, d, mid, time64 m.now, c, m.alog.count + 1⟩ := by
  simp [Mod.refuse]

/-! ### `Mod.hostWrite` -/

theorem Mod.hostWrite_frame (m : Mod) (f : Fn) (a : Nat) (p : Option Nat) (bs : List Byte) : m.hostWrite f a p bs =
    { m with regs := (m.hostWrite f a p bs).regs, outs := (m.hostWrite f a p bs).outs } := by
  unfold Mod.hostWrite Mod.selCount
  dsimp only
  split
  · rfl
  · split
    · rfl
    · split <;> rfl
@[simp] theorem Mod.hostWrite_latches (m : Mod) (f : Fn) (a : Nat) (p : Option Nat) (bs : List Byte) : (m.hostWrite f a p bs).latches = m.latches := by
  rw [Mod.hostWrite_frame]
@[simp] theorem Mod.hostWrite_drawn (m : Mod) (f : Fn) (a : Nat) (p : Option Nat) (bs : List Byte) : (m.hostWrite f a p bs).drawn = m.drawn := by
  rw [Mod.hostWrite_frame]
@[simp] theorem Mod.hostWrite_powered (m : Mod) (f : Fn) (a : Nat) (p : Option Nat) (bs : List Byte) : (m.hostWrite f a p bs).powered = m.powered := by
  rw [Mod.hostWrite_frame]
@[simp] theorem Mod.hostWrite_tripped (m : Mod) (f : Fn) (a : Nat) (p : Option Nat) (bs : List Byte) : (m.hostWrite f a p bs).tripped = m.tripped := by
  rw [Mod.hostWrite_frame]
@[simp] theorem Mod.hostWrite_perst (m : Mod) (f : Fn) (a : Nat) (p : Option Nat) (bs : List Byte) : (m.hostWrite f a p bs).perst = m.perst := by
  rw [Mod.hostWrite_frame]
@[simp] theorem Mod.hostWrite_ownReset (m : Mod) (f : Fn) (a : Nat) (p : Option Nat) (bs : List Byte) : (m.hostWrite f a p bs).ownReset = m.ownReset := by
  rw [Mod.hostWrite_frame]
@[simp] theorem Mod.hostWrite_holds (m : Mod) (f : Fn) (a : Nat) (p : Option Nat) (bs : List Byte) : (m.hostWrite f a p bs).holds = m.holds := by
  rw [Mod.hostWrite_frame]
@[simp] theorem Mod.hostWrite_pwr (m : Mod) (f : Fn) (a : Nat) (p : Option Nat) (bs : List Byte) : (m.hostWrite f a p bs).pwr = m.pwr := by
  rw [Mod.hostWrite_frame]
@[simp] theorem Mod.hostWrite_ecc (m : Mod) (f : Fn) (a : Nat) (p : Option Nat) (bs : List Byte) : (m.hostWrite f a p bs).ecc = m.ecc := by
  rw [Mod.hostWrite_frame]
@[simp] theorem Mod.hostWrite_now (m : Mod) (f : Fn) (a : Nat) (p : Option Nat) (bs : List Byte) : (m.hostWrite f a p bs).now = m.now := by
  rw [Mod.hostWrite_frame]
@[simp] theorem Mod.hostWrite_alog (m : Mod) (f : Fn) (a : Nat) (p : Option Nat) (bs : List Byte) : (m.hostWrite f a p bs).alog = m.alog := by
  rw [Mod.hostWrite_frame]
@[simp] theorem Mod.hostWrite_logq (m : Mod) (f : Fn) (a : Nat) (p : Option Nat) (bs : List Byte) : (m.hostWrite f a p bs).logq = m.logq := by
  rw [Mod.hostWrite_frame]
@[simp] theorem Mod.hostWrite_fit (m : Mod) (f : Fn) (a : Nat) (p : Option Nat) (bs : List Byte) : (m.hostWrite f a p bs).fit = m.fit := by
  rw [Mod.hostWrite_frame]
@[simp] theorem Mod.hostWrite_cut (m : Mod) (f : Fn) (a : Nat) (p : Option Nat) (bs : List Byte) : (m.hostWrite f a p bs).cut = m.cut := by
  rw [Mod.hostWrite_frame]
@[simp] theorem Mod.hostWrite_locks (m : Mod) (f : Fn) (a : Nat) (p : Option Nat) (bs : List Byte) : (m.hostWrite f a p bs).locks = m.locks := by
  rw [Mod.hostWrite_frame]
@[simp] theorem Mod.hostWrite_mbxStored (m : Mod) (f : Fn) (a : Nat) (p : Option Nat) (bs : List Byte) : (m.hostWrite f a p bs).mbxStored = m.mbxStored := by
  rw [Mod.hostWrite_frame]
@[simp] theorem Mod.hostWrite_mbxGone (m : Mod) (f : Fn) (a : Nat) (p : Option Nat) (bs : List Byte) : (m.hostWrite f a p bs).mbxGone = m.mbxGone := by
  rw [Mod.hostWrite_frame]
@[simp] theorem Mod.hostWrite_tl (m : Mod) (f : Fn) (a : Nat) (p : Option Nat) (bs : List Byte) : (m.hostWrite f a p bs).tl = m.tl := by
  rw [Mod.hostWrite_frame]
@[simp] theorem Mod.hostWrite_tack (m : Mod) (f : Fn) (a : Nat) (p : Option Nat) (bs : List Byte) : (m.hostWrite f a p bs).tack = m.tack := by
  rw [Mod.hostWrite_frame]
@[simp] theorem Mod.hostWrite_wheel (m : Mod) (f : Fn) (a : Nat) (p : Option Nat) (bs : List Byte) : (m.hostWrite f a p bs).wheel = m.wheel := by
  rw [Mod.hostWrite_frame]
@[simp] theorem Mod.hostWrite_replies (m : Mod) (f : Fn) (a : Nat) (p : Option Nat) (bs : List Byte) : (m.hostWrite f a p bs).replies = m.replies := by
  rw [Mod.hostWrite_frame]
@[simp] theorem Mod.hostWrite_txns (m : Mod) (f : Fn) (a : Nat) (p : Option Nat) (bs : List Byte) : (m.hostWrite f a p bs).txns = m.txns := by
  rw [Mod.hostWrite_frame]
@[simp] theorem Mod.hostWrite_txnEnds (m : Mod) (f : Fn) (a : Nat) (p : Option Nat) (bs : List Byte) : (m.hostWrite f a p bs).txnEnds = m.txnEnds := by
  rw [Mod.hostWrite_frame]
@[simp] theorem Mod.hostWrite_plt (m : Mod) (f : Fn) (a : Nat) (p : Option Nat) (bs : List Byte) : (m.hostWrite f a p bs).plt = m.plt := by
  rw [Mod.hostWrite_frame]
@[simp] theorem Mod.hostWrite_hem (m : Mod) (f : Fn) (a : Nat) (p : Option Nat) (bs : List Byte) : (m.hostWrite f a p bs).hem = m.hem := by
  rw [Mod.hostWrite_frame]
@[simp] theorem Mod.hostWrite_hsub (m : Mod) (f : Fn) (a : Nat) (p : Option Nat) (bs : List Byte) : (m.hostWrite f a p bs).hsub = m.hsub := by
  rw [Mod.hostWrite_frame]
@[simp] theorem Mod.hostWrite_hcopy (m : Mod) (f : Fn) (a : Nat) (p : Option Nat) (bs : List Byte) : (m.hostWrite f a p bs).hcopy = m.hcopy := by
  rw [Mod.hostWrite_frame]
@[simp] theorem Mod.hostWrite_prt (m : Mod) (f : Fn) (a : Nat) (p : Option Nat) (bs : List Byte) : (m.hostWrite f a p bs).prt = m.prt := by
  rw [Mod.hostWrite_frame]
@[simp] theorem Mod.hostWrite_bob (m : Mod) (f : Fn) (a : Nat) (p : Option Nat) (bs : List Byte) : (m.hostWrite f a p bs).bob = m.bob := by
  rw [Mod.hostWrite_frame]
@[simp] theorem Mod.hostWrite_pat (m : Mod) (f : Fn) (a : Nat) (p : Option Nat) (bs : List Byte) : (m.hostWrite f a p bs).pat = m.pat := by
  rw [Mod.hostWrite_frame]
@[simp] theorem Mod.hostWrite_shu (m : Mod) (f : Fn) (a : Nat) (p : Option Nat) (bs : List Byte) : (m.hostWrite f a p bs).shu = m.shu := by
  rw [Mod.hostWrite_frame]
@[simp] theorem Mod.hostWrite_spl (m : Mod) (f : Fn) (a : Nat) (p : Option Nat) (bs : List Byte) : (m.hostWrite f a p bs).spl = m.spl := by
  rw [Mod.hostWrite_frame]
@[simp] theorem Mod.hostWrite_thm (m : Mod) (f : Fn) (a : Nat) (p : Option Nat) (bs : List Byte) : (m.hostWrite f a p bs).thm = m.thm := by
  rw [Mod.hostWrite_frame]
@[simp] theorem Mod.hostWrite_msix (m : Mod) (f : Fn) (a : Nat) (p : Option Nat) (bs : List Byte) : (m.hostWrite f a p bs).msix = m.msix := by
  rw [Mod.hostWrite_frame]
@[simp] theorem Mod.hostWrite_sel (m : Mod) (f : Fn) (a : Nat) (p : Option Nat) (bs : List Byte) : (m.hostWrite f a p bs).sel = m.sel := by
  rw [Mod.hostWrite_frame]
@[simp] theorem Mod.hostWrite_sto (m : Mod) (f : Fn) (a : Nat) (p : Option Nat) (bs : List Byte) : (m.hostWrite f a p bs).sto = m.sto := by
  rw [Mod.hostWrite_frame]
@[simp] theorem Mod.hostWrite_jxl (m : Mod) (f : Fn) (a : Nat) (p : Option Nat) (bs : List Byte) : (m.hostWrite f a p bs).jxl = m.jxl := by
  rw [Mod.hostWrite_frame]
@[simp] theorem Mod.hostWrite_chalk (m : Mod) (f : Fn) (a : Nat) (p : Option Nat) (bs : List Byte) : (m.hostWrite f a p bs).chalk = m.chalk := by
  rw [Mod.hostWrite_frame]
@[simp] theorem Mod.hostWrite_img (m : Mod) (f : Fn) (a : Nat) (p : Option Nat) (bs : List Byte) : (m.hostWrite f a p bs).img = m.img := by
  rw [Mod.hostWrite_frame]

/-! ### Replies -/

theorem foldl_set_get (l : List Nat) (g : Nat → Fld) (j : Nat → List Nat) (v : Nat → Nat) (f : Fld) (ix : List Nat)
    (h : ∀ i, ¬(f = g i ∧ ix = j i)) (m : Mod) : (l.foldl (fun m i => m.set (g i) (j i) (v i)) m).get f ix = m.get f ix := by
  induction l generalizing m with
  | nil => rfl
  | cons i l ih => exact (ih _).trans (Mod.get_set_ne m _ (h i))

theorem foldl_set_fields (l : List Nat) (g : Nat → Fld) (j : Nat → List Nat) (v : Nat → Nat) (m : Mod) :
    l.foldl (fun m i => m.set (g i) (j i) (v i)) m = { m with regs := (l.foldl (fun m i => m.set (g i) (j i) (v i)) m).regs } := by
  induction l generalizing m with
  | nil => rfl
  | cons i l ih => rw [List.foldl_cons, ih]; rfl

theorem Mod.mbxFill_frame (m : Mod) (ch : Nat) (bs : List Byte) : m.mbxFill ch bs =
    { m with regs := (m.mbxFill ch bs).regs } := by
  unfold Mod.mbxFill
  rw [foldl_set_fields _ (fun _ => F.MBX_PAYLOAD_DATA) (fun w => [ch, w]) (fun w => leAt bs (4 * w) 4)]
  rfl
@[simp] theorem Mod.mbxFill_latches (m : Mod) (ch : Nat) (bs : List Byte) : (m.mbxFill ch bs).latches = m.latches := by
  rw [Mod.mbxFill_frame]
@[simp] theorem Mod.mbxFill_drawn (m : Mod) (ch : Nat) (bs : List Byte) : (m.mbxFill ch bs).drawn = m.drawn := by
  rw [Mod.mbxFill_frame]
@[simp] theorem Mod.mbxFill_powered (m : Mod) (ch : Nat) (bs : List Byte) : (m.mbxFill ch bs).powered = m.powered := by
  rw [Mod.mbxFill_frame]
@[simp] theorem Mod.mbxFill_tripped (m : Mod) (ch : Nat) (bs : List Byte) : (m.mbxFill ch bs).tripped = m.tripped := by
  rw [Mod.mbxFill_frame]
@[simp] theorem Mod.mbxFill_perst (m : Mod) (ch : Nat) (bs : List Byte) : (m.mbxFill ch bs).perst = m.perst := by
  rw [Mod.mbxFill_frame]
@[simp] theorem Mod.mbxFill_ownReset (m : Mod) (ch : Nat) (bs : List Byte) : (m.mbxFill ch bs).ownReset = m.ownReset := by
  rw [Mod.mbxFill_frame]
@[simp] theorem Mod.mbxFill_holds (m : Mod) (ch : Nat) (bs : List Byte) : (m.mbxFill ch bs).holds = m.holds := by
  rw [Mod.mbxFill_frame]
@[simp] theorem Mod.mbxFill_pwr (m : Mod) (ch : Nat) (bs : List Byte) : (m.mbxFill ch bs).pwr = m.pwr := by
  rw [Mod.mbxFill_frame]
@[simp] theorem Mod.mbxFill_ecc (m : Mod) (ch : Nat) (bs : List Byte) : (m.mbxFill ch bs).ecc = m.ecc := by
  rw [Mod.mbxFill_frame]
@[simp] theorem Mod.mbxFill_now (m : Mod) (ch : Nat) (bs : List Byte) : (m.mbxFill ch bs).now = m.now := by
  rw [Mod.mbxFill_frame]
@[simp] theorem Mod.mbxFill_alog (m : Mod) (ch : Nat) (bs : List Byte) : (m.mbxFill ch bs).alog = m.alog := by
  rw [Mod.mbxFill_frame]
@[simp] theorem Mod.mbxFill_logq (m : Mod) (ch : Nat) (bs : List Byte) : (m.mbxFill ch bs).logq = m.logq := by
  rw [Mod.mbxFill_frame]
@[simp] theorem Mod.mbxFill_fit (m : Mod) (ch : Nat) (bs : List Byte) : (m.mbxFill ch bs).fit = m.fit := by
  rw [Mod.mbxFill_frame]
@[simp] theorem Mod.mbxFill_cut (m : Mod) (ch : Nat) (bs : List Byte) : (m.mbxFill ch bs).cut = m.cut := by
  rw [Mod.mbxFill_frame]
@[simp] theorem Mod.mbxFill_locks (m : Mod) (ch : Nat) (bs : List Byte) : (m.mbxFill ch bs).locks = m.locks := by
  rw [Mod.mbxFill_frame]
@[simp] theorem Mod.mbxFill_mbxStored (m : Mod) (ch : Nat) (bs : List Byte) : (m.mbxFill ch bs).mbxStored = m.mbxStored := by
  rw [Mod.mbxFill_frame]
@[simp] theorem Mod.mbxFill_mbxGone (m : Mod) (ch : Nat) (bs : List Byte) : (m.mbxFill ch bs).mbxGone = m.mbxGone := by
  rw [Mod.mbxFill_frame]
@[simp] theorem Mod.mbxFill_tl (m : Mod) (ch : Nat) (bs : List Byte) : (m.mbxFill ch bs).tl = m.tl := by
  rw [Mod.mbxFill_frame]
@[simp] theorem Mod.mbxFill_tack (m : Mod) (ch : Nat) (bs : List Byte) : (m.mbxFill ch bs).tack = m.tack := by
  rw [Mod.mbxFill_frame]
@[simp] theorem Mod.mbxFill_wheel (m : Mod) (ch : Nat) (bs : List Byte) : (m.mbxFill ch bs).wheel = m.wheel := by
  rw [Mod.mbxFill_frame]
@[simp] theorem Mod.mbxFill_replies (m : Mod) (ch : Nat) (bs : List Byte) : (m.mbxFill ch bs).replies = m.replies := by
  rw [Mod.mbxFill_frame]
@[simp] theorem Mod.mbxFill_txns (m : Mod) (ch : Nat) (bs : List Byte) : (m.mbxFill ch bs).txns = m.txns := by
  rw [Mod.mbxFill_frame]
@[simp] theorem Mod.mbxFill_txnEnds (m : Mod) (ch : Nat) (bs : List Byte) : (m.mbxFill ch bs).txnEnds = m.txnEnds := by
  rw [Mod.mbxFill_frame]
@[simp] theorem Mod.mbxFill_plt (m : Mod) (ch : Nat) (bs : List Byte) : (m.mbxFill ch bs).plt = m.plt := by
  rw [Mod.mbxFill_frame]
@[simp] theorem Mod.mbxFill_hem (m : Mod) (ch : Nat) (bs : List Byte) : (m.mbxFill ch bs).hem = m.hem := by
  rw [Mod.mbxFill_frame]
@[simp] theorem Mod.mbxFill_hsub (m : Mod) (ch : Nat) (bs : List Byte) : (m.mbxFill ch bs).hsub = m.hsub := by
  rw [Mod.mbxFill_frame]
@[simp] theorem Mod.mbxFill_hcopy (m : Mod) (ch : Nat) (bs : List Byte) : (m.mbxFill ch bs).hcopy = m.hcopy := by
  rw [Mod.mbxFill_frame]
@[simp] theorem Mod.mbxFill_prt (m : Mod) (ch : Nat) (bs : List Byte) : (m.mbxFill ch bs).prt = m.prt := by
  rw [Mod.mbxFill_frame]
@[simp] theorem Mod.mbxFill_bob (m : Mod) (ch : Nat) (bs : List Byte) : (m.mbxFill ch bs).bob = m.bob := by
  rw [Mod.mbxFill_frame]
@[simp] theorem Mod.mbxFill_pat (m : Mod) (ch : Nat) (bs : List Byte) : (m.mbxFill ch bs).pat = m.pat := by
  rw [Mod.mbxFill_frame]
@[simp] theorem Mod.mbxFill_shu (m : Mod) (ch : Nat) (bs : List Byte) : (m.mbxFill ch bs).shu = m.shu := by
  rw [Mod.mbxFill_frame]
@[simp] theorem Mod.mbxFill_spl (m : Mod) (ch : Nat) (bs : List Byte) : (m.mbxFill ch bs).spl = m.spl := by
  rw [Mod.mbxFill_frame]
@[simp] theorem Mod.mbxFill_thm (m : Mod) (ch : Nat) (bs : List Byte) : (m.mbxFill ch bs).thm = m.thm := by
  rw [Mod.mbxFill_frame]
@[simp] theorem Mod.mbxFill_msix (m : Mod) (ch : Nat) (bs : List Byte) : (m.mbxFill ch bs).msix = m.msix := by
  rw [Mod.mbxFill_frame]
@[simp] theorem Mod.mbxFill_sel (m : Mod) (ch : Nat) (bs : List Byte) : (m.mbxFill ch bs).sel = m.sel := by
  rw [Mod.mbxFill_frame]
@[simp] theorem Mod.mbxFill_sto (m : Mod) (ch : Nat) (bs : List Byte) : (m.mbxFill ch bs).sto = m.sto := by
  rw [Mod.mbxFill_frame]
@[simp] theorem Mod.mbxFill_jxl (m : Mod) (ch : Nat) (bs : List Byte) : (m.mbxFill ch bs).jxl = m.jxl := by
  rw [Mod.mbxFill_frame]
@[simp] theorem Mod.mbxFill_chalk (m : Mod) (ch : Nat) (bs : List Byte) : (m.mbxFill ch bs).chalk = m.chalk := by
  rw [Mod.mbxFill_frame]
@[simp] theorem Mod.mbxFill_img (m : Mod) (ch : Nat) (bs : List Byte) : (m.mbxFill ch bs).img = m.img := by
  rw [Mod.mbxFill_frame]
@[simp] theorem Mod.mbxFill_outs (m : Mod) (ch : Nat) (bs : List Byte) : (m.mbxFill ch bs).outs = m.outs := by
  rw [Mod.mbxFill_frame]
theorem Mod.mbxFill_get (m : Mod) (ch : Nat) (bs : List Byte) (f : Fld) (ix : List Nat)
    (h : f ≠ F.MBX_PAYLOAD_DATA ∧ f ≠ F.MBX_PENDING_BITS ∧ f ≠ F.MBX_STATUS_STATE) : (m.mbxFill ch bs).get f ix = m.get f ix := by
  unfold Mod.mbxFill
  rw [Mod.get_set_reg _ _ _ _ h.2.2, Mod.get_set_reg _ _ _ _ h.2.1,
    foldl_set_get _ (fun _ => F.MBX_PAYLOAD_DATA) (fun w => [ch, w]) (fun w => leAt bs (4 * w) 4) f ix (fun i e => h.1 e.1)]

theorem Mod.mbxReply_some (m : Mod) (ch : Nat) (r : Reply) :
    ∃ a b c, m.mbxReply ch r = { m with regs := a, outs := b, msix := c } := by
  unfold Mod.mbxReply
  have hy := Mod.mbxFill_frame m ch r.bytes
  generalize m.mbxFill ch r.bytes = y at hy
  generalize y.regs = R at hy
  subst hy
  dsimp only
  split
  · rw [Mod.raise_frame]; exact ⟨_, _, _, rfl⟩
  · exact ⟨_, _, _, rfl⟩

theorem Mod.mbxReply_frame (m : Mod) (ch : Nat) (r : Reply) : m.mbxReply ch r =
    { m with regs := (m.mbxReply ch r).regs, outs := (m.mbxReply ch r).outs, msix := (m.mbxReply ch r).msix } := by
  obtain ⟨a, b, c, h⟩ := Mod.mbxReply_some m ch r
  rw [h]
@[simp] theorem Mod.mbxReply_latches (m : Mod) (ch : Nat) (r : Reply) : (m.mbxReply ch r).latches = m.latches := by
  rw [Mod.mbxReply_frame]
@[simp] theorem Mod.mbxReply_drawn (m : Mod) (ch : Nat) (r : Reply) : (m.mbxReply ch r).drawn = m.drawn := by
  rw [Mod.mbxReply_frame]
@[simp] theorem Mod.mbxReply_powered (m : Mod) (ch : Nat) (r : Reply) : (m.mbxReply ch r).powered = m.powered := by
  rw [Mod.mbxReply_frame]
@[simp] theorem Mod.mbxReply_tripped (m : Mod) (ch : Nat) (r : Reply) : (m.mbxReply ch r).tripped = m.tripped := by
  rw [Mod.mbxReply_frame]
@[simp] theorem Mod.mbxReply_perst (m : Mod) (ch : Nat) (r : Reply) : (m.mbxReply ch r).perst = m.perst := by
  rw [Mod.mbxReply_frame]
@[simp] theorem Mod.mbxReply_ownReset (m : Mod) (ch : Nat) (r : Reply) : (m.mbxReply ch r).ownReset = m.ownReset := by
  rw [Mod.mbxReply_frame]
@[simp] theorem Mod.mbxReply_holds (m : Mod) (ch : Nat) (r : Reply) : (m.mbxReply ch r).holds = m.holds := by
  rw [Mod.mbxReply_frame]
@[simp] theorem Mod.mbxReply_pwr (m : Mod) (ch : Nat) (r : Reply) : (m.mbxReply ch r).pwr = m.pwr := by
  rw [Mod.mbxReply_frame]
@[simp] theorem Mod.mbxReply_ecc (m : Mod) (ch : Nat) (r : Reply) : (m.mbxReply ch r).ecc = m.ecc := by
  rw [Mod.mbxReply_frame]
@[simp] theorem Mod.mbxReply_now (m : Mod) (ch : Nat) (r : Reply) : (m.mbxReply ch r).now = m.now := by
  rw [Mod.mbxReply_frame]
@[simp] theorem Mod.mbxReply_alog (m : Mod) (ch : Nat) (r : Reply) : (m.mbxReply ch r).alog = m.alog := by
  rw [Mod.mbxReply_frame]
@[simp] theorem Mod.mbxReply_logq (m : Mod) (ch : Nat) (r : Reply) : (m.mbxReply ch r).logq = m.logq := by
  rw [Mod.mbxReply_frame]
@[simp] theorem Mod.mbxReply_fit (m : Mod) (ch : Nat) (r : Reply) : (m.mbxReply ch r).fit = m.fit := by
  rw [Mod.mbxReply_frame]
@[simp] theorem Mod.mbxReply_cut (m : Mod) (ch : Nat) (r : Reply) : (m.mbxReply ch r).cut = m.cut := by
  rw [Mod.mbxReply_frame]
@[simp] theorem Mod.mbxReply_locks (m : Mod) (ch : Nat) (r : Reply) : (m.mbxReply ch r).locks = m.locks := by
  rw [Mod.mbxReply_frame]
@[simp] theorem Mod.mbxReply_mbxStored (m : Mod) (ch : Nat) (r : Reply) : (m.mbxReply ch r).mbxStored = m.mbxStored := by
  rw [Mod.mbxReply_frame]
@[simp] theorem Mod.mbxReply_mbxGone (m : Mod) (ch : Nat) (r : Reply) : (m.mbxReply ch r).mbxGone = m.mbxGone := by
  rw [Mod.mbxReply_frame]
@[simp] theorem Mod.mbxReply_tl (m : Mod) (ch : Nat) (r : Reply) : (m.mbxReply ch r).tl = m.tl := by
  rw [Mod.mbxReply_frame]
@[simp] theorem Mod.mbxReply_tack (m : Mod) (ch : Nat) (r : Reply) : (m.mbxReply ch r).tack = m.tack := by
  rw [Mod.mbxReply_frame]
@[simp] theorem Mod.mbxReply_wheel (m : Mod) (ch : Nat) (r : Reply) : (m.mbxReply ch r).wheel = m.wheel := by
  rw [Mod.mbxReply_frame]
@[simp] theorem Mod.mbxReply_replies (m : Mod) (ch : Nat) (r : Reply) : (m.mbxReply ch r).replies = m.replies := by
  rw [Mod.mbxReply_frame]
@[simp] theorem Mod.mbxReply_txns (m : Mod) (ch : Nat) (r : Reply) : (m.mbxReply ch r).txns = m.txns := by
  rw [Mod.mbxReply_frame]
@[simp] theorem Mod.mbxReply_txnEnds (m : Mod) (ch : Nat) (r : Reply) : (m.mbxReply ch r).txnEnds = m.txnEnds := by
  rw [Mod.mbxReply_frame]
@[simp] theorem Mod.mbxReply_plt (m : Mod) (ch : Nat) (r : Reply) : (m.mbxReply ch r).plt = m.plt := by
  rw [Mod.mbxReply_frame]
@[simp] theorem Mod.mbxReply_hem (m : Mod) (ch : Nat) (r : Reply) : (m.mbxReply ch r).hem = m.hem := by
  rw [Mod.mbxReply_frame]
@[simp] theorem Mod.mbxReply_hsub (m : Mod) (ch : Nat) (r : Reply) : (m.mbxReply ch r).hsub = m.hsub := by
  rw [Mod.mbxReply_frame]
@[simp] theorem Mod.mbxReply_hcopy (m : Mod) (ch : Nat) (r : Reply) : (m.mbxReply ch r).hcopy = m.hcopy := by
  rw [Mod.mbxReply_frame]
@[simp] theorem Mod.mbxReply_prt (m : Mod) (ch : Nat) (r : Reply) : (m.mbxReply ch r).prt = m.prt := by
  rw [Mod.mbxReply_frame]
@[simp] theorem Mod.mbxReply_bob (m : Mod) (ch : Nat) (r : Reply) : (m.mbxReply ch r).bob = m.bob := by
  rw [Mod.mbxReply_frame]
@[simp] theorem Mod.mbxReply_pat (m : Mod) (ch : Nat) (r : Reply) : (m.mbxReply ch r).pat = m.pat := by
  rw [Mod.mbxReply_frame]
@[simp] theorem Mod.mbxReply_shu (m : Mod) (ch : Nat) (r : Reply) : (m.mbxReply ch r).shu = m.shu := by
  rw [Mod.mbxReply_frame]
@[simp] theorem Mod.mbxReply_spl (m : Mod) (ch : Nat) (r : Reply) : (m.mbxReply ch r).spl = m.spl := by
  rw [Mod.mbxReply_frame]
@[simp] theorem Mod.mbxReply_thm (m : Mod) (ch : Nat) (r : Reply) : (m.mbxReply ch r).thm = m.thm := by
  rw [Mod.mbxReply_frame]
@[simp] theorem Mod.mbxReply_sel (m : Mod) (ch : Nat) (r : Reply) : (m.mbxReply ch r).sel = m.sel := by
  rw [Mod.mbxReply_frame]
@[simp] theorem Mod.mbxReply_sto (m : Mod) (ch : Nat) (r : Reply) : (m.mbxReply ch r).sto = m.sto := by
  rw [Mod.mbxReply_frame]
@[simp] theorem Mod.mbxReply_jxl (m : Mod) (ch : Nat) (r : Reply) : (m.mbxReply ch r).jxl = m.jxl := by
  rw [Mod.mbxReply_frame]
@[simp] theorem Mod.mbxReply_chalk (m : Mod) (ch : Nat) (r : Reply) : (m.mbxReply ch r).chalk = m.chalk := by
  rw [Mod.mbxReply_frame]
@[simp] theorem Mod.mbxReply_img (m : Mod) (ch : Nat) (r : Reply) : (m.mbxReply ch r).img = m.img := by
  rw [Mod.mbxReply_frame]

theorem Mod.mbxReply_get (m : Mod) (ch : Nat) (r : Reply) (f : Fld) (ix : List Nat)
    (h : f ≠ F.MBX_PAYLOAD_DATA ∧ f ≠ F.MBX_PENDING_BITS ∧ f ≠ F.MBX_STATUS_STATE) : (m.mbxReply ch r).get f ix = m.get f ix := by
  unfold Mod.mbxReply
  dsimp only
  split
  · rw [Mod.raise_get, Mod.emit_get, Mod.mbxFill_get m ch _ f ix h]
  · rw [Mod.emit_get, Mod.mbxFill_get m ch _ f ix h]

theorem Mod.mbxReply_outs (m : Mod) (ch : Nat) (r : Reply) : .mbxReply ch r ∈ (m.mbxReply ch r).outs := by
  unfold Mod.mbxReply
  dsimp only
  split
  · exact Mod.raise_outs _ _ (by simp)
  · simp

theorem Mod.sendReply_frame (m : Mod) (r : Reply) : m.sendReply r =
    { m with regs := (m.sendReply r).regs, outs := (m.sendReply r).outs, msix := (m.sendReply r).msix, cut := (m.sendReply r).cut, replies := (m.sendReply r).replies, jxl := (m.sendReply r).jxl } := by
  unfold Mod.sendReply
  split
  · rfl
  · rw [Mod.mbxReply_frame]
  · rfl
  · rfl
@[simp] theorem Mod.sendReply_latches (m : Mod) (r : Reply) : (m.sendReply r).latches = m.latches := by
  rw [Mod.sendReply_frame]
@[simp] theorem Mod.sendReply_drawn (m : Mod) (r : Reply) : (m.sendReply r).drawn = m.drawn := by
  rw [Mod.sendReply_frame]
@[simp] theorem Mod.sendReply_powered (m : Mod) (r : Reply) : (m.sendReply r).powered = m.powered := by
  rw [Mod.sendReply_frame]
@[simp] theorem Mod.sendReply_tripped (m : Mod) (r : Reply) : (m.sendReply r).tripped = m.tripped := by
  rw [Mod.sendReply_frame]
@[simp] theorem Mod.sendReply_perst (m : Mod) (r : Reply) : (m.sendReply r).perst = m.perst := by
  rw [Mod.sendReply_frame]
@[simp] theorem Mod.sendReply_ownReset (m : Mod) (r : Reply) : (m.sendReply r).ownReset = m.ownReset := by
  rw [Mod.sendReply_frame]
@[simp] theorem Mod.sendReply_holds (m : Mod) (r : Reply) : (m.sendReply r).holds = m.holds := by
  rw [Mod.sendReply_frame]
@[simp] theorem Mod.sendReply_pwr (m : Mod) (r : Reply) : (m.sendReply r).pwr = m.pwr := by
  rw [Mod.sendReply_frame]
@[simp] theorem Mod.sendReply_ecc (m : Mod) (r : Reply) : (m.sendReply r).ecc = m.ecc := by
  rw [Mod.sendReply_frame]
@[simp] theorem Mod.sendReply_now (m : Mod) (r : Reply) : (m.sendReply r).now = m.now := by
  rw [Mod.sendReply_frame]
@[simp] theorem Mod.sendReply_alog (m : Mod) (r : Reply) : (m.sendReply r).alog = m.alog := by
  rw [Mod.sendReply_frame]
@[simp] theorem Mod.sendReply_logq (m : Mod) (r : Reply) : (m.sendReply r).logq = m.logq := by
  rw [Mod.sendReply_frame]
@[simp] theorem Mod.sendReply_fit (m : Mod) (r : Reply) : (m.sendReply r).fit = m.fit := by
  rw [Mod.sendReply_frame]
@[simp] theorem Mod.sendReply_locks (m : Mod) (r : Reply) : (m.sendReply r).locks = m.locks := by
  rw [Mod.sendReply_frame]
@[simp] theorem Mod.sendReply_mbxStored (m : Mod) (r : Reply) : (m.sendReply r).mbxStored = m.mbxStored := by
  rw [Mod.sendReply_frame]
@[simp] theorem Mod.sendReply_mbxGone (m : Mod) (r : Reply) : (m.sendReply r).mbxGone = m.mbxGone := by
  rw [Mod.sendReply_frame]
@[simp] theorem Mod.sendReply_tl (m : Mod) (r : Reply) : (m.sendReply r).tl = m.tl := by
  rw [Mod.sendReply_frame]
@[simp] theorem Mod.sendReply_tack (m : Mod) (r : Reply) : (m.sendReply r).tack = m.tack := by
  rw [Mod.sendReply_frame]
@[simp] theorem Mod.sendReply_wheel (m : Mod) (r : Reply) : (m.sendReply r).wheel = m.wheel := by
  rw [Mod.sendReply_frame]
@[simp] theorem Mod.sendReply_txns (m : Mod) (r : Reply) : (m.sendReply r).txns = m.txns := by
  rw [Mod.sendReply_frame]
@[simp] theorem Mod.sendReply_txnEnds (m : Mod) (r : Reply) : (m.sendReply r).txnEnds = m.txnEnds := by
  rw [Mod.sendReply_frame]
@[simp] theorem Mod.sendReply_plt (m : Mod) (r : Reply) : (m.sendReply r).plt = m.plt := by
  rw [Mod.sendReply_frame]
@[simp] theorem Mod.sendReply_hem (m : Mod) (r : Reply) : (m.sendReply r).hem = m.hem := by
  rw [Mod.sendReply_frame]
@[simp] theorem Mod.sendReply_hsub (m : Mod) (r : Reply) : (m.sendReply r).hsub = m.hsub := by
  rw [Mod.sendReply_frame]
@[simp] theorem Mod.sendReply_hcopy (m : Mod) (r : Reply) : (m.sendReply r).hcopy = m.hcopy := by
  rw [Mod.sendReply_frame]
@[simp] theorem Mod.sendReply_prt (m : Mod) (r : Reply) : (m.sendReply r).prt = m.prt := by
  rw [Mod.sendReply_frame]
@[simp] theorem Mod.sendReply_bob (m : Mod) (r : Reply) : (m.sendReply r).bob = m.bob := by
  rw [Mod.sendReply_frame]
@[simp] theorem Mod.sendReply_pat (m : Mod) (r : Reply) : (m.sendReply r).pat = m.pat := by
  rw [Mod.sendReply_frame]
@[simp] theorem Mod.sendReply_shu (m : Mod) (r : Reply) : (m.sendReply r).shu = m.shu := by
  rw [Mod.sendReply_frame]
@[simp] theorem Mod.sendReply_spl (m : Mod) (r : Reply) : (m.sendReply r).spl = m.spl := by
  rw [Mod.sendReply_frame]
@[simp] theorem Mod.sendReply_thm (m : Mod) (r : Reply) : (m.sendReply r).thm = m.thm := by
  rw [Mod.sendReply_frame]
@[simp] theorem Mod.sendReply_sel (m : Mod) (r : Reply) : (m.sendReply r).sel = m.sel := by
  rw [Mod.sendReply_frame]
@[simp] theorem Mod.sendReply_sto (m : Mod) (r : Reply) : (m.sendReply r).sto = m.sto := by
  rw [Mod.sendReply_frame]
@[simp] theorem Mod.sendReply_chalk (m : Mod) (r : Reply) : (m.sendReply r).chalk = m.chalk := by
  rw [Mod.sendReply_frame]
@[simp] theorem Mod.sendReply_img (m : Mod) (r : Reply) : (m.sendReply r).img = m.img := by
  rw [Mod.sendReply_frame]

/-- The registers that a reply can change are those of a mailbox. -/
theorem Mod.sendReply_get (m : Mod) (r : Reply) (f : Fld) (ix : List Nat)
    (h : f ≠ F.MBX_PAYLOAD_DATA ∧ f ≠ F.MBX_PENDING_BITS ∧ f ≠ F.MBX_STATUS_STATE) : (m.sendReply r).get f ix = m.get f ix := by
  unfold Mod.sendReply
  split
  · rfl
  · exact Mod.mbxReply_get m _ r f ix h
  · rfl
  · rfl

/-- A reply that is sent has gone out. -/
theorem sendReply_answered (m : Mod) (r : Reply) : answered (m.sendReply r) r := by
  unfold Mod.sendReply answered
  cases h : r.src with
  | oob k => simp
  | mailbox ch => simpa using Mod.mbxReply_outs m ch r
  | admin n => simp
  | jexdor o => simp

/-- What has gone out stays so at the end of the step. -/
theorem settle_answered {m : Mod} {r : Reply} (h : answered m r) : answered (settle m) r := by
  unfold answered at *
  split at h
  · exact settle_outs h
  · exact settle_outs h
  · simpa using h
  · simpa using h

theorem Mod.reply_eq {m : Mod} {c : Cmd} (h : m.isDead c = false) (a : Ans) :
    m.reply c a = (m.leave c).sendReply (m.mkReply c a) := by simp [Mod.reply, h]

theorem Mod.reply_frame (m : Mod) (c : Cmd) (a : Ans) : m.reply c a =
    { m with regs := (m.reply c a).regs, outs := (m.reply c a).outs, msix := (m.reply c a).msix, cut := (m.reply c a).cut, replies := (m.reply c a).replies, jxl := (m.reply c a).jxl } := by
  unfold Mod.reply
  split
  · rfl
  · rw [Mod.sendReply_frame]; rfl
@[simp] theorem Mod.reply_latches (m : Mod) (c : Cmd) (a : Ans) : (m.reply c a).latches = m.latches := by
  rw [Mod.reply_frame]
@[simp] theorem Mod.reply_drawn (m : Mod) (c : Cmd) (a : Ans) : (m.reply c a).drawn = m.drawn := by
  rw [Mod.reply_frame]
@[simp] theorem Mod.reply_powered (m : Mod) (c : Cmd) (a : Ans) : (m.reply c a).powered = m.powered := by
  rw [Mod.reply_frame]
@[simp] theorem Mod.reply_tripped (m : Mod) (c : Cmd) (a : Ans) : (m.reply c a).tripped = m.tripped := by
  rw [Mod.reply_frame]
@[simp] theorem Mod.reply_perst (m : Mod) (c : Cmd) (a : Ans) : (m.reply c a).perst = m.perst := by
  rw [Mod.reply_frame]
@[simp] theorem Mod.reply_ownReset (m : Mod) (c : Cmd) (a : Ans) : (m.reply c a).ownReset = m.ownReset := by
  rw [Mod.reply_frame]
@[simp] theorem Mod.reply_holds (m : Mod) (c : Cmd) (a : Ans) : (m.reply c a).holds = m.holds := by
  rw [Mod.reply_frame]
@[simp] theorem Mod.reply_pwr (m : Mod) (c : Cmd) (a : Ans) : (m.reply c a).pwr = m.pwr := by
  rw [Mod.reply_frame]
@[simp] theorem Mod.reply_ecc (m : Mod) (c : Cmd) (a : Ans) : (m.reply c a).ecc = m.ecc := by
  rw [Mod.reply_frame]
@[simp] theorem Mod.reply_now (m : Mod) (c : Cmd) (a : Ans) : (m.reply c a).now = m.now := by
  rw [Mod.reply_frame]
@[simp] theorem Mod.reply_alog (m : Mod) (c : Cmd) (a : Ans) : (m.reply c a).alog = m.alog := by
  rw [Mod.reply_frame]
@[simp] theorem Mod.reply_logq (m : Mod) (c : Cmd) (a : Ans) : (m.reply c a).logq = m.logq := by
  rw [Mod.reply_frame]
@[simp] theorem Mod.reply_fit (m : Mod) (c : Cmd) (a : Ans) : (m.reply c a).fit = m.fit := by
  rw [Mod.reply_frame]
@[simp] theorem Mod.reply_locks (m : Mod) (c : Cmd) (a : Ans) : (m.reply c a).locks = m.locks := by
  rw [Mod.reply_frame]
@[simp] theorem Mod.reply_mbxStored (m : Mod) (c : Cmd) (a : Ans) : (m.reply c a).mbxStored = m.mbxStored := by
  rw [Mod.reply_frame]
@[simp] theorem Mod.reply_mbxGone (m : Mod) (c : Cmd) (a : Ans) : (m.reply c a).mbxGone = m.mbxGone := by
  rw [Mod.reply_frame]
@[simp] theorem Mod.reply_tl (m : Mod) (c : Cmd) (a : Ans) : (m.reply c a).tl = m.tl := by
  rw [Mod.reply_frame]
@[simp] theorem Mod.reply_tack (m : Mod) (c : Cmd) (a : Ans) : (m.reply c a).tack = m.tack := by
  rw [Mod.reply_frame]
@[simp] theorem Mod.reply_wheel (m : Mod) (c : Cmd) (a : Ans) : (m.reply c a).wheel = m.wheel := by
  rw [Mod.reply_frame]
@[simp] theorem Mod.reply_txns (m : Mod) (c : Cmd) (a : Ans) : (m.reply c a).txns = m.txns := by
  rw [Mod.reply_frame]
@[simp] theorem Mod.reply_txnEnds (m : Mod) (c : Cmd) (a : Ans) : (m.reply c a).txnEnds = m.txnEnds := by
  rw [Mod.reply_frame]
@[simp] theorem Mod.reply_plt (m : Mod) (c : Cmd) (a : Ans) : (m.reply c a).plt = m.plt := by
  rw [Mod.reply_frame]
@[simp] theorem Mod.reply_hem (m : Mod) (c : Cmd) (a : Ans) : (m.reply c a).hem = m.hem := by
  rw [Mod.reply_frame]
@[simp] theorem Mod.reply_hsub (m : Mod) (c : Cmd) (a : Ans) : (m.reply c a).hsub = m.hsub := by
  rw [Mod.reply_frame]
@[simp] theorem Mod.reply_hcopy (m : Mod) (c : Cmd) (a : Ans) : (m.reply c a).hcopy = m.hcopy := by
  rw [Mod.reply_frame]
@[simp] theorem Mod.reply_prt (m : Mod) (c : Cmd) (a : Ans) : (m.reply c a).prt = m.prt := by
  rw [Mod.reply_frame]
@[simp] theorem Mod.reply_bob (m : Mod) (c : Cmd) (a : Ans) : (m.reply c a).bob = m.bob := by
  rw [Mod.reply_frame]
@[simp] theorem Mod.reply_pat (m : Mod) (c : Cmd) (a : Ans) : (m.reply c a).pat = m.pat := by
  rw [Mod.reply_frame]
@[simp] theorem Mod.reply_shu (m : Mod) (c : Cmd) (a : Ans) : (m.reply c a).shu = m.shu := by
  rw [Mod.reply_frame]
@[simp] theorem Mod.reply_spl (m : Mod) (c : Cmd) (a : Ans) : (m.reply c a).spl = m.spl := by
  rw [Mod.reply_frame]
@[simp] theorem Mod.reply_thm (m : Mod) (c : Cmd) (a : Ans) : (m.reply c a).thm = m.thm := by
  rw [Mod.reply_frame]
@[simp] theorem Mod.reply_sel (m : Mod) (c : Cmd) (a : Ans) : (m.reply c a).sel = m.sel := by
  rw [Mod.reply_frame]
@[simp] theorem Mod.reply_sto (m : Mod) (c : Cmd) (a : Ans) : (m.reply c a).sto = m.sto := by
  rw [Mod.reply_frame]
@[simp] theorem Mod.reply_chalk (m : Mod) (c : Cmd) (a : Ans) : (m.reply c a).chalk = m.chalk := by
  rw [Mod.reply_frame]
@[simp] theorem Mod.reply_img (m : Mod) (c : Cmd) (a : Ans) : (m.reply c a).img = m.img := by
  rw [Mod.reply_frame]

theorem Mod.reply_get (m : Mod) (c : Cmd) (a : Ans) (f : Fld) (ix : List Nat)
    (h : f ≠ F.MBX_PAYLOAD_DATA ∧ f ≠ F.MBX_PENDING_BITS ∧ f ≠ F.MBX_STATUS_STATE) : (m.reply c a).get f ix = m.get f ix := by
  unfold Mod.reply
  split
  · rfl
  · rw [Mod.sendReply_get _ _ _ _ h]; rfl

theorem mkReply_answers (m : Mod) (c : Cmd) (a : Ans) : Answers m c a (m.mkReply c a) :=
  ⟨rfl, rfl, rfl, rfl, rfl, ⟨rfl, rfl⟩, rfl, rfl⟩

/-- A command whose requester lives is answered. -/
theorem reply_answered {m : Mod} {c : Cmd} (h : m.isDead c = false) (a : Ans) : ∃ r, answered (m.reply c a) r ∧ Answers m c a r := by
  rw [Mod.reply_eq h]
  exact ⟨_, sendReply_answered _ _, mkReply_answers m c a⟩

/-! ### `Mod.runCmd` -/

/-- A command that passes its checks and whose objects are free does what its body says and is answered. -/
theorem runCmd_done {m m' : Mod} {c : Cmd} {op : Nat} {objs : List Obj} {body : Mod → Mod × Option Ans} {a : Ans}
    (h : m.cmdCheck { c with opcode := op } = none) (hf : m.holder { c with opcode := op } objs = none)
    (hb : body m = (m', some a)) (hok : a.late = true ∨ (a.status ≠ stInvalid ∧ a.status ≠ stNoResource ∧ a.status ≠ stNotTraceable)) :
    m.runCmd c op objs body = (m'.fgUse (commandUnits op)).reply { c with opcode := op } a := by
  unfold Mod.runCmd
  simp only [h, hb, hf]
  rw [if_neg]
  rcases hok with hl | ⟨h1, h2, h3⟩
  · simp [hl]
  · simp [h1, h2, h3]

/-- A command whose answer comes later stays, executing, with its objects. -/
theorem runCmd_stays {m m' : Mod} {c : Cmd} {op : Nat} {objs : List Obj} {body : Mod → Mod × Option Ans}
    (h : m.cmdCheck { c with opcode := op } = none) (hf : m.holder { c with opcode := op } objs = none) (hb : body m = (m', none)) :
    m.runCmd c op objs body = m'.place { c with opcode := op } .executing objs := by
  unfold Mod.runCmd
  simp only [h, hb, hf]

/-- A command that fails its checks is answered with their finding and does nothing else. -/
theorem runCmd_refused {m : Mod} {c : Cmd} {op : Nat} {objs : List Obj} {body : Mod → Mod × Option Ans} {a : Ans}
    (h : m.cmdCheck { c with opcode := op } = some a) : m.runCmd c op objs body = m.reply { c with opcode := op } a := by
  unfold Mod.runCmd
  simp only [h]

/-- A failing command without effect is answered. -/
theorem runCmd_fails {m m' : Mod} {c : Cmd} {op : Nat} {objs : List Obj} {body : Mod → Mod × Option Ans} {a : Ans}
    (h : m.cmdCheck { c with opcode := op } = none) (hb : body m = (m', some a)) (hl : a.late = false)
    (hs : a.status = stInvalid ∨ a.status = stNoResource ∨ a.status = stNotTraceable) :
    m.runCmd c op objs body = m.reply { c with opcode := op } a := by
  unfold Mod.runCmd
  simp only [h, hb]
  rw [if_pos]
  rcases hs with hs | hs | hs <;> simp [hl, hs]

end Sys2Proof.Machine
end

