-- ==== Sys2Proof/Laws/Commands.lean ====
section
/-! SUPPORT. The next state of a command: what `run` answers for a module function and for a command that runs, ends, or stays. -/

namespace Sys2Proof.Machine

@[simp] theorem State.put_m (s : State) (m : Mod) : (s.put m).m = m := rfl
@[simp] theorem State.ends_m (s : State) (m : Mod) : (s.ends m).m = settle m := rfl
@[simp] theorem State.ends_mem (s : State) (m : Mod) : (s.ends m).mem = s.mem := rfl
@[simp] theorem State.ends_pending (s : State) (m : Mod) : (s.ends m).pending = s.pending := rfl
theorem State.ends_quiet {s : State} {m : Mod} (h : m.fit.pend = []) : s.ends m = s.put m := by
  simp [State.ends, State.put, settle_quiet h]
@[simp] theorem State.put_mem (s : State) (m : Mod) : (s.put m).mem = s.mem := rfl
@[simp] theorem State.put_pending (s : State) (m : Mod) : (s.put m).pending = s.pending := rfl
@[simp] theorem State.put_self (s : State) : s.put s.m = s := rfl

/-- A module function that leaves no Fitting trigger to fire is the whole step. -/
theorem run_put {s : State} {f : Mod → Mod} (h : (f s.m).fit.pend = []) : run s f = .next (s.put (f s.m)) := by
  simp [run, State.put, settle_quiet h]

/-- A command that does its work and is answered. -/
theorem run_done {s : State} {c : Cmd} {op : Nat} {objs : List Obj} {body : Mod → Mod × Option Ans} {m' : Mod} {a : Ans}
    (h : mayRun s.m c op objs) (hb : body s.m = (m', some a)) (hq : m'.fit.pend = [])
    (hok : a.late = true ∨ (a.status ≠ stInvalid ∧ a.status ≠ stNoResource ∧ a.status ≠ stNotTraceable)) :
    run s (fun m => m.runCmd c op objs body) = .next (s.put ((m'.fgUse (commandUnits op)).reply (asOp c op) a)) := by
  have e := runCmd_done h.check h.free hb hok
  rw [run_put]
  · rw [e]; rfl
  · rw [e]; simpa using hq

/-- A command that its own rule turns away. -/
theorem run_fails {s : State} {c : Cmd} {op : Nat} {objs : List Obj} {body : Mod → Mod × Option Ans} {m' : Mod} {a : Ans}
    (h : mayRun s.m c op objs) (hb : body s.m = (m', some a)) (hq : Quiet s) (hl : a.late = false)
    (hs : a.status = stInvalid ∨ a.status = stNoResource ∨ a.status = stNotTraceable) :
    run s (fun m => m.runCmd c op objs body) = .next (s.put (s.m.reply (asOp c op) a)) := by
  have e := runCmd_fails (objs := objs) h.check hb hl hs
  rw [run_put]
  · rw [e]; rfl
  · rw [e]; simpa [Quiet] using hq

/-- A command whose answer comes later. -/
theorem run_stays {s : State} {c : Cmd} {op : Nat} {objs : List Obj} {body : Mod → Mod × Option Ans} {m' : Mod}
    (h : mayRun s.m c op objs) (hb : body s.m = (m', none)) (hq : m'.fit.pend = []) :
    run s (fun m => m.runCmd c op objs body) = .next (s.put (m'.place (asOp c op) .executing objs)) := by
  have e := runCmd_stays h.check h.free hb
  rw [run_put]
  · rw [e]; rfl
  · rw [e]; simpa [Mod.place] using hq

/-- Any command that does its work: what its answer says goes out, whatever the Fitting then does. -/
theorem run_answers {s : State} {c : Cmd} {op : Nat} {objs : List Obj} {body : Mod → Mod × Option Ans} {m' : Mod} {a : Ans}
    (h : mayRun s.m c op objs) (hb : body s.m = (m', some a)) (hc : m'.cut.pool = s.m.cut.pool)
    (hok : a.late = true ∨ (a.status ≠ stInvalid ∧ a.status ≠ stNoResource ∧ a.status ≠ stNotTraceable)) :
    ∃ p, answered (settle (s.m.runCmd c op objs body)) p ∧ Answers (m'.fgUse (commandUnits op)) (asOp c op) a p := by
  rw [runCmd_done h.check h.free hb hok]
  have hd : (m'.fgUse (commandUnits op)).isDead (asOp c op) = false := by have := h.lives; unfold Mod.isDead at *; rwa [Mod.fgUse_cut, hc]
  obtain ⟨p, h1, h2⟩ := reply_answered hd a
  exact ⟨p, settle_answered h1, h2⟩

end Sys2Proof.Machine
end

