-- ==== Sys2Proof/Laws/Locks.lean ====
section
/-! SUPPORT. Locks: reading back a lock that was put, and what leaves every lock as it was. -/

namespace Sys2Proof.Machine

@[simp] theorem Mod.lock_putLock (m : Mod) (n : Nat) (l : Lock) : (m.putLock n l).lock n = l := by
  unfold Mod.putLock Mod.lock; split
  · simp [tgetD, *]
  · simp

theorem Mod.lock_putLock_ne (m : Mod) {n k : Nat} (l : Lock) (h : k ≠ n) : (m.putLock n l).lock k = m.lock k := by
  unfold Mod.putLock Mod.lock; split
  · simp [tgetD, tget_tdel_ne _ h]
  · simp [tgetD_tput_ne _ _ _ h]

theorem Mod.lock_congr {m m' : Mod} (h : m'.locks = m.locks) (n : Nat) : m'.lock n = m.lock n := by simp [Mod.lock, h]

@[simp] theorem Mod.lock_set (m : Mod) (f : Fld) (ix : List Nat) (v k : Nat) : (m.set f ix v).lock k = m.lock k :=
  Mod.lock_congr (by simp) k
@[simp] theorem Mod.lock_reply (m : Mod) (c : Cmd) (a : Ans) (k : Nat) : (m.reply c a).lock k = m.lock k := Mod.lock_congr (by simp) k
@[simp] theorem Mod.lock_place (m : Mod) (c : Cmd) (st : Stage) (o : List Obj) (k : Nat) : (m.place c st o).lock k = m.lock k :=
  Mod.lock_congr (by simp) k
@[simp] theorem lock_settle (m : Mod) (k : Nat) : (settle m).lock k = m.lock k := Mod.lock_congr (by simp) k

end Sys2Proof.Machine
end

