-- ==== Sys2Proof/WellFormed.lean ====
section
/-! DEFINITION. Which values of its operands a command may carry: the widths the spec gives header fields, addresses and measured
lists (R42, R44, R49, R6). A command that is not well formed is none that anything outside the module can send. -/

namespace Sys2Proof

/-- Ring, channel, station and origin numbers (R49, R53, R492, R395); station 16 stands for a station without a place. -/
def Transport.wf : Transport → Bool
  | .admin n => decide (n < 65536)
  | .mailbox c => decide (c < 64)
  | .oob k => decide (k ≤ 16)
  | .jexdor o => decide (o < 64)

/-- A TLV's TYPE and LEN have 16 bits (R45). -/
def Tlv.wf (t : Tlv) : Bool := decide (t.typ < 65536 ∧ t.val.length < 65536)

/-- The header fields have their widths (R44). -/
def Cmd.wf (c : Cmd) : Bool :=
  c.src.wf && c.tlvs.all Tlv.wf &&
    decide (c.mid < 65536 ∧ c.opcode < 65536 ∧ c.tag < 65536 ∧ c.target < 256 ∧ c.inst < 65536 ∧ c.gen < 65536 ∧
      c.txn < 2 ^ 32 ∧ c.seq < 2 ^ 32 ∧ c.timeoutUs < 2 ^ 32)

/-- A master identity has 16 bits (R42). -/
def Req.wf (r : Req) : Bool := decide (r.mid < 65536)

/-- An endpoint, and one of its 1,024 VFs (R363, R373). -/
def Fn.wf (f : Fn) : Bool := decide (f.ep < 32) && (match f.vf with | none => true | some v => decide (v < 1024))

/-- The fields of an Announce message have their widths. -/
def PtpMsg.wf : PtpMsg → Bool
  | .announce d => decide (d.gmIdentity < 2 ^ 64 ∧ d.priority1 < 256 ∧ d.clockClass < 256 ∧ d.accuracy < 256 ∧ d.variance < 65536 ∧
      d.priority2 < 256 ∧ d.stepsRemoved < 65536 ∧ d.domain < 256)
  | .sync d => decide (d < 256)
  | .followUp d => decide (d < 256)
  | .delayReq d => decide (d < 256)
  | .delayResp d => decide (d < 256)
  | .unicastRequest d c s => decide (d < 256 ∧ c < 2 ^ 64 ∧ s < 2 ^ 32)
  | .ignored => true

/-- An identity block of 128 bytes, a serial number and a part number of 16 (R196, R519). -/
def BobbinIdent.wf (x : BobbinIdent) : Bool := decide (x.block.length = 128 ∧ x.serial.length = 16 ∧ x.part.length = 16)

/-- Eight slices of twelve monitors, and four on the hub, are measured (R86). -/
def TurnMeas.wf (x : TurnMeas) : Bool :=
  decide (x.laps.length = 8 ∧ x.hub.length = 4 ∧ x.tj.length = 8) && x.laps.all fun l => decide (l.length = 12)

/-- Background classes are 1 to 6 (R102). -/
def UnitStitch.wf (u : UnitStitch) : Bool := u.bg.all fun q => decide (1 ≤ q.1 ∧ q.1 ≤ 6)

/-- Dword offsets and values of configuration space. -/
def CfgReq.wf : CfgReq → Bool
  | .read o => decide (o < 4096 ∧ o % 4 = 0)
  | .other o v => decide (o < 4096 ∧ o % 4 = 0 ∧ v < 2 ^ 32)
  | .command v => decide (v < 65536)
  | .bar n v => decide (n < 6 ∧ v < 2 ^ 32)
  | .devCtl2 c t => decide (c < 16 ∧ t < 3)
  | .sriov _ n => decide (n < 65536)
  | .powerState _ => true
  | .msixCtl _ _ => true
  | .devCtl mps mrrs _ _ => decide (mps ≤ 4096 ∧ mrrs ≤ 4096)
  | .ptm _ => true
  | .pasid _ => true
  | .ats _ => true

/-- Slots, indices and streams have their widths; a nonce has 32 bytes. -/
def SpdmMsg.wf : SpdmMsg → Bool
  | .discovery i => decide (i < 256)
  | .certificate n => decide (n < 16)
  | .challenge n => decide (n.length = 32)
  | .measurements i n => decide (i < 256 ∧ n.length = 32)
  | .keyExchange _ => true
  | .endSession => true
  | .keySetGo n fs => decide (n < 9) && fs.all fun f => decide (f ≤ 1024)
  | .keySetStop n => decide (n < 9)
  | .other => true

/-- Command identifiers and statuses have their widths (R469). -/
def TargetPdu.wf : TargetPdu → Bool
  | .data i q c _ _ => decide (i < 4096 ∧ q ≤ 0x8000 ∧ c < 65536)
  | .r2t i q c _ _ => decide (i < 4096 ∧ q ≤ 0x8000 ∧ c < 65536)
  | .resp i q c st d => decide (i < 4096 ∧ q ≤ 0x8000 ∧ c < 65536 ∧ st < 65536 ∧ d < 2 ^ 32)
  | .malformed => true

/-- Modules are 0 to 63, links 0 to 31 (R472, R473). -/
def TopoRec.wf (x : TopoRec) : Bool := decide (x.mod < 64 ∧ x.link < 32 ∧ x.peer < 64 ∧ x.peerLink < 32 ∧ x.state < 8)

/-- A request has at least one byte, and a write's data fits it. -/
def accessWf (off n : Nat) (data : Option Nat) : Bool :=
  decide (off < 2 ^ 32 ∧ 0 < n ∧ n ≤ 4096) && (match data with | none => true | some v => decide (v < 2 ^ (8 * n)))

/-- A frame that reaches a port has at least the header and no more than the longest that can be set (R182). -/
def frameWf (d : List Byte) : Bool := decide (d.length ≤ 65535)

/-- The operands of a command are values that something outside can send. -/
def Instr.wf (i : Instr) : Bool :=
  match i with
  | .inputValid _ => true
  | .powerLoss _ => true
  | .thermalTrip => true
  | .oeOvertemp _ _ => true
  | .rom _ _ => true
  | .imageCheck => true
  | .config _ _ _ => true
  | .loading _ _ => true
  | .initialTimeTimeout _ => true
  | .stitchBoundary _ us => us.all UnitStitch.wf
  | .turnBoundary _ x => x.wf
  | .bandRise => true
  | .gateLift _ => true
  | .selectionTick _ _ => true
  | .servoSecond _ _ _ _ => true
  | .holdoverLimit _ => true
  | .leapAt _ => true
  | .ptpMessageReceived _ msg _ => msg.wf
  | .ptpAnnounceTimeout _ => true
  | .esmcReceived _ _ _ => true
  | .esmcTimeout _ => true
  | .ppsInputEdge _ => true
  | .todSentenceReceived _ _ => true
  | .ref10mLoss => true
  | .ppsOutRise _ _ => true
  | .ppsOutFall _ => true
  | .todOutputSentence _ => true
  | .golideRecord _ => true
  | .timePairUpdate _ => true
  | .ptmDialogStart _ => true
  | .ptmResponse _ _ _ _ => true
  | .ptmDialogTimeout _ => true
  | .frameReceived _ _ d _ _ _ => frameWf d
  | .pfcFrameReceived _ _ d _ _ => frameWf d
  | .pfcRefresh _ _ => true
  | .pfcWatchdog _ _ => true
  | .laneLockAcquired _ _ => true
  | .laneLockLost _ _ => true
  | .remoteFaultReceived _ _ => true
  | .faultClear _ _ => true
  | .trainingTimeout _ _ => true
  | .lightLost _ _ _ => true
  | .lightPresent _ _ _ => true
  | .transmitUnderrun _ _ => true
  | .threshDecay _ => true
  | .frameBoundary _ _ => true
  | .frameTransmitEnd _ _ => true
  | .calendarEntryBoundary _ _ => true
  | .calendarActivation _ => true
  | .timedFrameDue _ => true
  | .bobbinPresenceGained _ => true
  | .bobbinPresenceLost _ => true
  | .bobbinIdentified _ x => x.wf
  | .bobbinWarmed _ bias _ => decide (bias.length = 20)
  | .laserServo _ bias _ _ _ => decide (bias.length = 20)
  | .spareSwitchDone _ _ => true
  | .bobbinHoursWrite _ => true
  | .lifePrediction _ _ => true
  | .dispatch _ => true
  | .shuttleTimerFire _ _ _ _ _ => true
  | .microwordIssue _ _ _ => true
  | .shuBankSwitch _ _ => true
  | .channelResponse _ _ _ _ => true
  | .creditAvailable _ _ _ => true
  | .residencyExpiry _ _ _ => true
  | .csEccRewrite _ _ _ _ => true
  | .endPass _ _ _ => true
  | .trap _ _ => true
  | .exactMatch _ _ _ _ _ => true
  | .exactNowait _ _ _ _ _ => true
  | .ruleMatch _ _ _ _ _ => true
  | .dataRead _ _ _ _ _ => true
  | .dataWrite _ _ _ _ _ => true
  | .dataAdd _ _ _ _ _ => true
  | .dataCas _ _ _ _ _ => true
  | .localRead _ _ _ _ _ => true
  | .localWrite _ _ _ _ _ => true
  | .localAdd _ _ _ _ _ => true
  | .localCas _ _ _ _ _ => true
  | .countUpdate _ _ _ _ => true
  | .writeback _ _ _ _ => true
  | .insertBytes _ _ _ _ => true
  | .stripBytes _ _ _ _ => true
  | .rewriteRead _ _ _ _ => true
  | .rewriteWrite _ _ _ _ => true
  | .cellAlloc _ _ _ _ => true
  | .copyCell _ _ _ _ => true
  | .mirrorPass _ _ _ _ => true
  | .recircPass _ _ _ _ => true
  | .sealData _ _ _ _ => true
  | .openData _ _ _ _ => true
  | .espOut _ _ _ _ => true
  | .espIn _ _ _ _ => true
  | .tlsOut _ _ _ _ => true
  | .tlsIn _ _ _ _ => true
  | .xtsEnc _ _ _ _ => true
  | .xtsDec _ _ _ _ => true
  | .qdepth _ _ _ _ => true
  | .gateQuery _ _ _ _ => true
  | .calpos _ _ _ _ => true
  | .flowFillDone _ _ _ => true
  | .thimbleOpDone _ _ _ => true
  | .epochKeyDerive _ _ => true
  | .epochKeyErase _ _ => true
  | .seamRelease _ _ => true
  | .laneRebuildDone _ _ => true
  | .crossbarCell _ => true
  | .spillReadback _ _ _ => true
  | .receiveDelivery _ _ => true
  | .rxWaitExpiry _ => true
  | .spoolPoll _ => true
  | .entryTimeout _ _ => true
  | .sendDataRead _ => true
  | .adminEntryTake _ => true
  | .completionWrite _ _ _ => true
  | .moderationTimer _ => true
  | .ringDrainDone _ _ => true
  | .hostConfigRequest f q => f.wf && q.wf
  | .hostMemoryRequest f _ off n data => f.wf && accessWf off n data
  | .msixUnmask f _ => f.wf
  | .hostReadCompletion _ _ _ _ => true
  | .completionTimeout _ _ => true
  | .pcieError f _ => f.wf
  | .atsInvalidate f lo hi => f.wf && decide (lo ≤ hi)
  | .spdmRequest _ q => q.wf
  | .perstAssert _ => true
  | .perstDeassert _ => true
  | .hotReset _ => true
  | .linkDown _ _ => true
  | .flr f => f.wf
  | .vfEnableClear _ => true
  | .d3hotToD0 f => f.wf
  | .functionResetDone f => f.wf
  | .linkReleaseDone _ => true
  | .instDrainDone _ => true
  | .bootBlockRead _ _ _ => true
  | .commandReceived src _ => src.wf
  | .commandStart => true
  | .objectWaitTimeout _ => true
  | .lockWaitTimeout _ _ => true
  | .txnIdleLimit _ _ => true
  | .oobFrameReceived from_ to_ _ _ _ => decide (from_ < 2 ^ 48 ∧ to_ < 2 ^ 48)
  | .oobLeaseExpiry _ => true
  | .oobLinkDown => true
  | .jxlHelloTimer _ => true
  | .jxlHelloReceived _ _ _ _ => true
  | .jxlHelloTimeout _ _ => true
  | .jxlCreditTimer _ => true
  | .jxlCreditReceived _ _ => true
  | .jxlMarkTimer _ => true
  | .jxlMarkReceived _ _ => true
  | .jxlDictReceived _ _ => true
  | .jxlDataReceived _ _ _ _ => true
  | .jxlCommandReceived _ _ _ => true
  | .jxlReplyReceived _ _ _ => true
  | .jxlTimeTimer _ => true
  | .jxlTimeReceived _ _ _ => true
  | .jxlBroadcastReceived _ _ _ => true
  | .jxlBeaconTimer => true
  | .jxlBeaconLeaseExpiry _ => true
  | .jxlOrphanExpiry _ => true
  | .jxlRouteUpdate topo => topo.all TopoRec.wf
  | .jxlForwardTimeout _ _ => true
  | .fitTaiTrigger _ => true
  | .pinInputEdge _ _ => true
  | .pinTakeover _ _ => true
  | .nvmePoll _ => true
  | .nvmeDoorbellWrite _ _ _ => true
  | .nvmeEnable _ _ => true
  | .nvmeDisable _ _ => true
  | .nvmeShutdown _ _ => true
  | .deleteIoSq _ => true
  | .createIoSq _ => true
  | .getLogPage _ => true
  | .deleteIoCq _ => true
  | .createIoCq _ => true
  | .identify _ => true
  | .abortCmd _ => true
  | .setFeatures _ => true
  | .getFeatures _ => true
  | .asynchronousEventRequest _ => true
  | .doorbellBufferConfig _ => true
  | .nvmeFlush _ => true
  | .nvmeWrite _ => true
  | .nvmeRead _ => true
  | .writeZeroes _ => true
  | .datasetManagement _ => true
  | .targetPduReceived _ _ _ p _ => p.wf
  | .targetConnectionLoss _ _ _ => true
  | .targetConnectStep _ _ _ _ => true
  | .targetRetryTimer _ _ => true
  | .targetConnectTimeout _ _ => true
  | .targetKeepAlive _ _ => true
  | .ioWaitExpiry _ _ _ => true
  | .ctrlLossExpiry _ _ => true
  | .targetEnable _ _ _ => true
  | .targetDisable _ _ _ => true
  | .lckTryRead r _ => r.wf
  | .lckTryRelease r _ => r.wf
  | .forceRelease r _ => r.wf
  | .lckCfgClear r _ => r.wf
  | .mbxRingWrite r _ _ => r.wf
  | .mbxPendingClear r _ _ => r.wf
  | .mbxMaskWrite r _ _ => r.wf
  | .mbxPayloadWrite r _ _ _ => r.wf
  | .stwApply r _ => r.wf
  | .shuApply r _ _ => r.wf
  | .quarantineRelease r _ _ => r.wf
  | .csPatchGo r _ _ _ => r.wf
  | .instBootGo _ _ _ => true
  | .fitFire r _ => r.wf
  | .lowRestart r _ => r.wf
  | .tplNowRead r _ => r.wf
  | .rcFieldRead r addr _ => r.wf && decide (addr < 2 ^ 48)
  | .registerWrite r addr _ _ => r.wf && decide (addr < 2 ^ 48)
  | .modIdentify c => c.wf
  | .modStatus c => c.wf
  | .modReset c => c.wf
  | .regRead c => c.wf
  | .regWrite c => c.wf
  | .configCommit c _ => c.wf
  | .factoryClear c => c.wf
  | .tempoTargetSet c => c.wf
  | .pinFunctionSet c => c.wf
  | .cmdCancel c => c.wf
  | .eventLogRead c => c.wf
  | .linkReleaseReset c => c.wf
  | .linkReleaseResume c => c.wf
  | .instCreate c => c.wf
  | .instDestroy c => c.wf
  | .instResize c => c.wf
  | .instReset c => c.wf
  | .instQuery c => c.wf
  | .instFreeze c => c.wf
  | .instSave c => c.wf
  | .instRestore c _ => c.wf
  | .instResume c => c.wf
  | .ringCreate c => c.wf
  | .ringDestroy c => c.wf
  | .ringModify c => c.wf
  | .ringQuery c => c.wf
  | .summarySet c => c.wf
  | .pollIntervalSet c => c.wf
  | .tblWrite c => c.wf
  | .tblDelete c => c.wf
  | .tblRead c => c.wf
  | .txnBegin c => c.wf
  | .txnCommit c => c.wf
  | .txnAbort c => c.wf
  | .txnQuery c => c.wf
  | .defaultActionSet c => c.wf
  | .malformedActionSet c => c.wf
  | .counterPin c => c.wf
  | .counterUnpin c => c.wf
  | .telemetryRead c => c.wf
  | .tblScopeAssign c => c.wf
  | .timeGet c _ => c.wf
  | .timeSourceSet c => c.wf
  | .ptpPortSet c => c.wf
  | .servoStatus c => c.wf
  | .timeLossPolicySet c => c.wf
  | .golideRead c => c.wf
  | .hostTimeSet c => c.wf
  | .ppsOutSet c => c.wf
  | .calWrite c => c.wf
  | .calActivate c => c.wf
  | .calQuery c => c.wf
  | .keyRootInstallClear c _ => c.wf
  | .keyRootInstallWrapped c => c.wf
  | .agreeStart c => c.wf
  | .agreeFinish c => c.wf
  | .keyRootErase c => c.wf
  | .incarnationAdvance c => c.wf
  | .keyCtxCreate c _ => c.wf
  | .keyCtxDestroy c => c.wf
  | .epochKeySet c => c.wf
  | .saCreate c => c.wf
  | .tlsCreate c => c.wf
  | .keyshare c => c.wf
  | .binder c => c.wf
  | .handshake c => c.wf
  | .finished c => c.wf
  | .application c => c.wf
  | .keyUpdate c => c.wf
  | .saDestroy c => c.wf
  | .macsecSaSet c => c.wf
  | .portConfig c => c.wf
  | .portEnable c => c.wf
  | .portDisable c => c.wf
  | .portStatus c => c.wf
  | .portStatsRead c => c.wf
  | .breakoutSet c => c.wf
  | .optCalibrate c => c.wf
  | .bobbinStatus c => c.wf
  | .bobbinSpareSwitch c => c.wf
  | .bobbinRemovePrepare c => c.wf
  | .jxlLinkSet c => c.wf
  | .jxlJoin c => c.wf
  | .jxlLeave c => c.wf
  | .jxlTopologyRead c => c.wf
  | .jxlDictReset c => c.wf
  | .jxlSlotSet c => c.wf
  | .imgStageOpen c => c.wf
  | .imgChunkWrite c _ => c.wf
  | .imgStageStatus c => c.wf
  | .imgStageVerify c => c.wf
  | .imgInstall c _ => c.wf
  | .imgStageDiscard c => c.wf
  | .imgQuery c => c.wf
  | .fitArm c => c.wf
  | .fitTrigger c => c.wf
  | .fitRead c => c.wf
  | .fitDisarm c => c.wf
  | .errLogRead c => c.wf
  | .accessLogRead c => c.wf
  | .portLocal c => c.wf
  | .portRemote c => c.wf
  | .hostDma c => c.wf
  | .lockAcquire c => c.wf
  | .lockRelease c => c.wf
  | .lockQuery c => c.wf
  | .lockConfig c => c.wf
  | .mbxBindSet c => c.wf
  | .mbxQuery c => c.wf
  | .diagLoopbackEnd _ _ _ => true
  | .fullCalibrationDone _ _ => true
  | .linkUp _ _ _ _ => true
  | .ref10mInputReturn _ => true
  | .ovenStable => true
  | .bobbinIdentifyTimeout _ => true
  | .tcpRtoExpiry _ _ _ => true
  | .shutdownTimeout _ => true
  | .plcaBeaconLoss => true
  | .plcaBeaconReturn => true

end Sys2Proof
end

