-- ==== Sys2Proof/Tests/Slice0.lean ====
section
/-! SUPPORT. Tests: ill-formed operands that WellFormed refuses; the manual's worked examples; one step of the queue; and for each
statement with hypotheses a state and operands that meet them, clause by clause. -/

open Sys2Proof Sys2Proof.Machine
namespace Sys2Proof.Tests

set_option linter.unusedSimpArgs false
set_option linter.unusedVariables false
set_option Elab.async false

/-- What it takes for a command to run, as one proposition that evaluates. -/
theorem mayRun_iff (m : Mod) (c : Cmd) (op : Nat) (objs : List Obj) :
    mayRun m c op objs ↔ m.cmdCheck (asOp c op) = none ∧ m.holder (asOp c op) objs = none ∧ m.isDead (asOp c op) = false :=
  ⟨fun h => ⟨h.1, h.2, h.3⟩, fun h => ⟨h.1, h.2.1, h.2.2⟩⟩

/-- A wheel with nothing waiting, as one proposition that evaluates. -/
theorem wheelIdle_iff (m : Mod) : wheelIdle m ↔
    m.wheel.waits = [] ∧ m.wheel.chalkq = [] ∧ m.logq.queue = [] ∧ m.pat.flushQ = [] ∧ m.shu.csq = [] :=
  ⟨fun h => ⟨h.1, h.2, h.3, h.4, h.5⟩, fun h => ⟨h.1, h.2.1, h.2.2.1, h.2.2.2.1, h.2.2.2.2⟩⟩

/-- A module state as a state. -/
def st (m : Mod) : State := { State.reset with m := m }

/-- READY, everything else at its reset value. -/
def rm : Mod := { ({} : Mod).set F.GLB_START_PHASE [] 5 with powered := true }
def rd : State := st rm

/-- The manager as a requester. -/
def mg : Req := ⟨0x1000, false⟩

/-- A command of the manager; without TLVs given, the required ones of its opcode, filled with zeros. -/
def cmd (op : Nat) (t : List (Nat × List Byte) := []) : Cmd :=
  { src := .mailbox 0, mid := 0x1000, opcode := op,
    tlvs := if t.isEmpty then (match opSpec op with
      | some sp => (sp.tlvs.filter (·.req)).map fun x => ⟨x.typ, List.replicate x.lo 0⟩ | none => []) else t.map fun x => ⟨x.1, x.2⟩ }

/-- A module with register fields set. -/
def sets (m : Mod) (l : List (Fld × List Nat × Nat)) : Mod := l.foldl (fun m x => m.set x.1 x.2.1 x.2.2) m

/-- READY with register fields set. -/
def rs (l : List (Fld × List Nat × Nat)) : Mod := sets rm l

/-- The requester with a master identity. -/
def rq (mid : Nat) : Req := ⟨mid, false⟩

/-- The set of a key depends on the registers only. -/
theorem setKey_regs {m m' : Mod} (h : m.regs = m'.regs) (a b : Nat) (k : List Nat) : m.setKey a b k = m'.setKey a b k := by
  simp only [Mod.setKey, Mod.buckets, Mod.get, h]

/-- A set whose lines are the one entry of the cache. -/
theorem lines_one {m : Mod} {k : Nat} {l : List Line} (h : m.pat.cache = [(k, l)]) : m.lines k = l := by
  simp [Mod.lines, h, tgetD, tget]

/-- An entry in its first bucket is a copy of its key. -/
theorem copies_one {m m' : Mod} {c : ExEntry} (h : m.pat.hbm = [((m'.buckets c.scope c.key).1 * 4, c)]) (hr : m.regs = m'.regs) :
    m.copies c.scope c.key = [((m'.buckets c.scope c.key).1 * 4, c)] := by
  have hb : m.buckets c.scope c.key = m'.buckets c.scope c.key := by simp only [Mod.buckets, Mod.get, hr]
  simp [Mod.copies, h, hb]

/-- A new object, where a place is free. -/
theorem newObj_some {m : Mod} {x : Nat} {o : ThmObj} (h : (m.freeObj x).isSome = true) :
    m.newObj x o = some (((m.newObj x o).map (·.1)).getD 0, ((m.newObj x o).map (·.2)).getD m) := by
  obtain ⟨i, hi⟩ := Option.isSome_iff_exists.mp h
  simp [Mod.newObj, hi]

/-- It is the current one. -/
theorem current_one {m m' : Mod} {c : ExEntry} (h : m.pat.hbm = [((m'.buckets c.scope c.key).1 * 4, c)]) (hr : m.regs = m'.regs)
    (hc : c.role = 0) : m.current c.scope c.key = some ((m'.buckets c.scope c.key).1 * 4, c) := by
  simp [Mod.current, copies_one h hr, hc, laterOf]

/-- What an outcome holds, as a truth value. -/
def okIs {α β : Type} [DecidableEq β] (x : Except α β) (y : β) : Bool := match x with | .ok z => decide (z = y) | .error _ => false
def errIs {α β : Type} [DecidableEq α] (x : Except α β) (y : α) : Bool := match x with | .error z => decide (z = y) | .ok _ => false

theorem ok_of {α β : Type} [DecidableEq β] {x : Except α β} {y : β} (h : okIs x y = true) : x = .ok y := by
  cases x <;> simp_all [okIs]

theorem err_of {α β : Type} [DecidableEq α] {x : Except α β} {y : α} (h : errIs x y = true) : x = .error y := by
  cases x <;> simp_all [errIs]

/-- A module with one exact entry, of a key of scope 5. -/
def exMod0 : Mod := sets rm [(F.PAT_SCOPE_CFG_KIND, [5], 1), (F.PAT_SCOPE_CFG_KEY_WORDS, [5], 2)]
def exEntry : ExEntry := { scope := 5, key := [5, 6], act := [9] }
def ex0 : Nat × ExEntry := ((exMod0.buckets exEntry.scope exEntry.key).1 * 4, exEntry)
def exMod : Mod := { exMod0 with pat := { hbm := [ex0] } }

theorem current_ex0 : exMod.current 5 [5, 6] = some ex0 := current_one (m' := exMod0) (c := exEntry) rfl rfl rfl

/-- The fields that make an endpoint present with its link up, and those of an instance on VF 1,023 of endpoint 31. -/
def upF (e : Nat) : List (Fld × List Nat × Nat) := [(F.SEL_EP_STATUS_PRESENT, epIx e, 1), (F.SEL_EP_STATUS_LINK_UP, epIx e, 1)]
def inF (i state : Nat) : List (Fld × List Nat × Nat) :=
  [(F.INST_STATUS_STATE, [i], state), (F.INST_STATUS_ENDPOINT, [i], 31), (F.INST_STATUS_VF, [i], 1023)]

/-- READY with endpoint 31 up and its VFs enabled, and with an instance in a state. -/
def up31 : Mod := { rs (upF 31) with sel := { cfg := [(fnKey (pf 31), { vfEnable := true, numVfs := 1024 })] } }
def inst31 (i state : Nat) (l : List (Fld × List Nat × Nat) := []) : Mod :=
  { sets up31 (inF i state ++ l) with spl := { insts := [(i, {})] } }

/-- A command for an instance. -/
def icmd (op i : Nat) (t : List (Nat × List Byte) := []) : Cmd := { cmd op t with inst := i }

/-- What an outcome leads to, as a truth value. -/
def outIs (x : Host.Outcome State Fault Refusal) (t : State) : Bool := match x with | .next u => decide (u = t) | _ => false

theorem next_of {x : Host.Outcome State Fault Refusal} {t : State} (h : outIs x t = true) : x = .next t := by
  cases x <;> simp_all [outIs]

theorem not_nvme {m : Mod} {e : Nat} (h : m.pick e = none) : ∀ i c m', m.pick e ≠ some (.nvme i c, m') := by
  intro i c m'; simp [h]

/-- A storage instance on VF 1,023 of endpoint 31, with its controller. -/
def sto31 (c : Nvme) (l : List (Fld × List Nat × Nat) := []) : Mod :=
  { inst31 4095 1 ((F.INST_STATUS_KIND, [4095], 1) :: l) with sto := { ctls := [(4095, c)] } }

/-- An entry of role 0 is visible to every pass. -/
theorem visible_zero {m : Mod} {a seq role tag : Nat} (h : role = 0) : m.visible a seq role tag = true := by
  simp [Mod.visible, h]

theorem pair_list (x : Nat × ExEntry) : [x] = [(x.1, x.2)] := rfl

/-- The copies of the key of `ex0`, where the module's HBM holds it alone. -/
theorem copies_ex0 {m : Mod} (h : m.pat.hbm = [ex0]) (hr : m.regs = exMod0.regs) : m.copies 5 [5, 6] = [(ex0.1, ex0.2)] :=
  (copies_one (m' := exMod0) (c := exEntry) h hr).trans (pair_list ex0)

/-! ### WellFormed: one ill-formed term for each check, refused (R2, R6, R42, R44, R45, R49, R102, R182) -/

theorem test_wf_admin : (Transport.admin 65536).wf = false := by decide
theorem test_wf_mailbox : (Transport.mailbox 64).wf = false := by decide
theorem test_wf_oob : (Transport.oob 17).wf = false := by decide
theorem test_wf_jexdor : (Transport.jexdor 64).wf = false := by decide
theorem test_wf_tlv : Tlv.wf ⟨65536, []⟩ = false := by decide
theorem test_wf_cmd_src : Cmd.wf { src := .mailbox 64, mid := 0, opcode := 1 } = false := by decide
theorem test_wf_cmd_tlv : Cmd.wf { src := .admin 0, mid := 0, opcode := 1, tlvs := [⟨65536, []⟩] } = false := by decide
theorem test_wf_cmd_mid : Cmd.wf { src := .admin 0, mid := 65536, opcode := 1 } = false := by decide
theorem test_wf_cmd_opcode : Cmd.wf { src := .admin 0, mid := 0, opcode := 65536 } = false := by decide
theorem test_wf_cmd_txn : Cmd.wf { src := .admin 0, mid := 0, opcode := 1, txn := 2 ^ 32 } = false := by decide
theorem test_wf_cmd_good : Cmd.wf { src := .admin 65535, mid := 65535, opcode := 65535, seq := 2 ^ 32 - 1 } = true := by decide
theorem test_wf_req : Req.wf ⟨65536, false⟩ = false := by decide
theorem test_wf_fn_endpoint : Fn.wf ⟨32, none⟩ = false := by decide
theorem test_wf_fn_vf : Fn.wf ⟨0, some 1024⟩ = false := by decide
theorem test_wf_announce : (PtpMsg.announce ⟨0, 256, 0, 0, 0, 0, 0, 0, false, false, false, false, false, 0⟩).wf = false := by decide
theorem test_wf_sync : (PtpMsg.sync 256).wf = false := by decide
theorem test_wf_follow_up : (PtpMsg.followUp 256).wf = false := by decide
theorem test_wf_delay_req : (PtpMsg.delayReq 256).wf = false := by decide
theorem test_wf_delay_resp : (PtpMsg.delayResp 256).wf = false := by decide
theorem test_wf_unicast : (PtpMsg.unicastRequest 0 0 (2 ^ 32)).wf = false := by decide
theorem test_wf_ident : BobbinIdent.wf { block := [], serial := [] } = false := by decide
theorem test_wf_turn : TurnMeas.wf ⟨[], [], 0, 0, 0, [], 0, false, false, 0, []⟩ = false := by decide
theorem test_wf_unit : UnitStitch.wf { unit := 0, bg := [(7, 0)] } = false := by decide
theorem test_wf_cfg_read : (CfgReq.read 2).wf = false := by decide
theorem test_wf_cfg_other : (CfgReq.other 4096 0).wf = false := by decide
theorem test_wf_cfg_command : (CfgReq.command 65536).wf = false := by decide
theorem test_wf_cfg_bar : (CfgReq.bar 6 0).wf = false := by decide
theorem test_wf_cfg_dev_ctl2 : (CfgReq.devCtl2 16 0).wf = false := by decide
theorem test_wf_cfg_sriov : (CfgReq.sriov true 65536).wf = false := by decide
theorem test_wf_cfg_dev_ctl : (CfgReq.devCtl 8192 128 false false).wf = false := by decide
theorem test_wf_spdm_discovery : (SpdmMsg.discovery 256).wf = false := by decide
theorem test_wf_spdm_certificate : (SpdmMsg.certificate 16).wf = false := by decide
theorem test_wf_spdm_challenge : (SpdmMsg.challenge []).wf = false := by decide
theorem test_wf_spdm_measurements : (SpdmMsg.measurements 0 []).wf = false := by decide
theorem test_wf_spdm_go : (SpdmMsg.keySetGo 9 []).wf = false := by decide
theorem test_wf_spdm_go_fns : (SpdmMsg.keySetGo 8 [1025]).wf = false := by decide
theorem test_wf_spdm_stop : (SpdmMsg.keySetStop 9).wf = false := by decide
theorem test_wf_pdu_data : (TargetPdu.data 4096 0 0 0 []).wf = false := by decide
theorem test_wf_pdu_r2t : (TargetPdu.r2t 0 0x8001 0 0 0).wf = false := by decide
theorem test_wf_pdu_resp : (TargetPdu.resp 0 0 0 65536 0).wf = false := by decide
theorem test_wf_topo : TopoRec.wf ⟨64, 0, 0, 0, 3, [], 0⟩ = false := by decide
theorem test_wf_access_empty : accessWf 0 0 none = false := by decide
theorem test_wf_access_data : accessWf 0 1 (some 256) = false := by decide
theorem test_wf_frame : frameWf (List.replicate 65536 0) = false := by
  rw [frameWf, List.length_replicate]
  decide

theorem test_wf_instr_stitch : (Instr.stitchBoundary 0 [{ unit := 0, bg := [(0, 0)] }]).wf = false := by decide
theorem test_wf_instr_turn : (Instr.turnBoundary 0 ⟨[], [], 0, 0, 0, [], 0, false, false, 0, []⟩).wf = false := by decide
theorem test_wf_instr_ptp : (Instr.ptpMessageReceived 0 (.sync 256) 0).wf = false := by decide
theorem test_wf_instr_frame : (Instr.frameReceived 0 0 (List.replicate 65536 0) true 0 false).wf = false := by
  rw [Instr.wf, frameWf, List.length_replicate]
  decide
theorem test_wf_instr_ident : (Instr.bobbinIdentified 0 { block := [], serial := [] }).wf = false := by decide
theorem test_wf_instr_warmed : (Instr.bobbinWarmed 0 [] true).wf = false := by decide
theorem test_wf_instr_servo : (Instr.laserServo 0 [] 0 0 0).wf = false := by decide
theorem test_wf_instr_cfg : (Instr.hostConfigRequest ⟨32, none⟩ (.ptm true)).wf = false := by decide
theorem test_wf_instr_memory : (Instr.hostMemoryRequest ⟨0, none⟩ false (2 ^ 32) 4 none).wf = false := by decide
theorem test_wf_instr_ats : (Instr.atsInvalidate ⟨0, none⟩ 1 0).wf = false := by decide
theorem test_wf_instr_spdm : (Instr.spdmRequest 0 (.discovery 256)).wf = false := by decide
theorem test_wf_instr_flr : (Instr.flr ⟨0, some 1024⟩).wf = false := by decide
theorem test_wf_instr_oob : (Instr.oobFrameReceived (2 ^ 48) 0 0 ⟨true, 0⟩ []).wf = false := by decide
theorem test_wf_instr_routes : (Instr.jxlRouteUpdate [⟨0, 32, 0, 0, 3, [], 0⟩]).wf = false := by decide
theorem test_wf_instr_pdu : (Instr.targetPduReceived 0 0 0 (.r2t 4096 0 0 0 0) 0).wf = false := by decide
theorem test_wf_instr_lock : (Instr.lckTryRead ⟨65536, false⟩ 0).wf = false := by decide
theorem test_wf_instr_read : (Instr.rcFieldRead ⟨0, false⟩ (2 ^ 48) false).wf = false := by decide
theorem test_wf_instr_write : (Instr.registerWrite ⟨0, false⟩ (2 ^ 48) false 0).wf = false := by decide
theorem test_wf_instr_cmd : (Instr.modStatus { src := .mailbox 64, mid := 0, opcode := 2 }).wf = false := by decide

/-! ### The step, the queue and the table's words -/

theorem test_reset_queue_empty : State.reset.pending = [] := rfl
theorem test_reset_step_idles : step State.reset = .next State.reset := rfl
theorem test_step_takes_front :
    step { State.reset with pending := [.thermalTrip, .imageCheck] } =
      exec .thermalTrip { State.reset with pending := [.imageCheck] } := rfl
theorem test_no_word_spells_a_command (n w : Nat) : decodeTableWord n w = none ∧ State.reset.withFetchWord n w = State.reset :=
  ⟨rfl, rfl⟩

/-! ### The microword: the worked example of chapter 8 (word 3 of its program), its four 64-bit words as the manual prints them -/

def word3 : Nat := 0x72D61AC500000000 + 0x97006C00A804EC11 * 2 ^ 64 + 0xB * 2 ^ 128 + 0x95A800880 * 2 ^ 192

theorem test_word3_alus : mwAlu word3 0 = ⟨5, 22, 3, 43⟩ ∧ mwAlu word3 1 = ⟨5, 23, 4, 44⟩ := by decide +kernel
theorem test_word3_extractors :
    mwExt word3 0 = ⟨true, 9, false, 0, 42, 1, 4⟩ ∧ mwExt word3 1 = ⟨true, 6, false, 0, 46, 24, 0⟩ := by decide +kernel
theorem test_word3_rest :
    mwSeqop word3 = 0 ∧ mwImm word3 = 0x12B50011 ∧ mwReqEn word3 = false ∧ mwReadEn word3 = false ∧ (mwDep word3).en = false ∧
      illegalWord word3 = false := by decide +kernel

/-- R226: sources 43 and 44 are the halves of the immediate; R228: 5 is exclusive or. -/
theorem test_word3_alu_a : alu 5 0x0011 (srcVal (fun _ => 0) [] 0x12B50011 43) = 0 := by decide +kernel
theorem test_word3_alu_b : alu 5 0 (srcVal (fun _ => 0) [] 0x12B50011 44) = 0x12B5 := by decide +kernel

/-- R228: subtraction wraps; arithmetic and logical right shifts differ on a negative word; the leading zeros of 0 are 64. -/
theorem test_alu_sub_wraps : alu 2 0 1 = 0xFFFFFFFFFFFFFFFF := by decide +kernel
theorem test_alu_shifts :
    alu 8 0x8000000000000000 4 = 0x0800000000000000 ∧ alu 9 0x8000000000000000 4 = 0xF800000000000000 := by decide +kernel
theorem test_alu_compares : alu 13 1 0xFFFFFFFFFFFFFFFF = 1 ∧ alu 15 1 0xFFFFFFFFFFFFFFFF = 0 := by decide +kernel
theorem test_alu_clz : alu 22 7 0 = 64 ∧ alu 22 7 1 = 63 := by decide +kernel

/-- R229: window bit 0 is the most significant bit of byte 0; bits past the window's end are zeros. -/
theorem test_extract : extract (0x12#8 :: 0x34#8 :: List.replicate 254 0) 4 8 = 0x23 := by decide +kernel
theorem test_deposit : (deposit (List.replicate 256 0) 4 8 0x123).take 2 = [0x02#8, 0x30#8] := by decide +kernel

/-! ### Calendars: the worked example of chapter 12 -/

def calM00 : Cal := { base := 1950000000 * 10 ^ 9, cycle := 31250, length := 2, entries := [(0, 0x0009C4A0), (1, 0x00704EDF)] }
def calM05 : Cal := { base := 1950000000 * 10 ^ 9 + 2000, cycle := 31250, length := 2, entries := [(0, 0x000A41A0), (1, 0x006FD1DF)] }
def calWhen : Nat := 1950000100 * 10 ^ 9

theorem test_cal_entries :
    entryGates 0x0009C4A0 = 0xA0 ∧ entryInterval 0x0009C4A0 = 2500 ∧ entryInterval 0x00704EDF = 28750 ∧ entryInterval 0x006FD1DF = 28625 := by
  decide +kernel
theorem test_cal_first_module : calM00.cycleNum calWhen = 400000 ∧ calM00.offset calWhen = 0 ∧ calM00.gates calWhen = 0xA0 := by
  decide +kernel
theorem test_cal_first_closes : calM00.gates (calWhen + 20000) = 0xDF ∧ calM00.cycleNum (calWhen + 250000) = 400001 := by decide +kernel
theorem test_cal_second_module :
    calM05.offset calWhen = 248000 ∧ calM05.gates calWhen = 0xDF ∧ calM05.gates (calWhen + 2000) = 0xA0 ∧
      calM05.gates (calWhen + 23000) = 0xDF := by decide +kernel

/-! ### UTC: the worked example of R137 -/

/-- A day before the midnight, offset 37, a leap61 flag: LEAP_AT is 1,956,528,000 + 38, its low 32 bits. -/
theorem test_leap_at :
    (({ sets rm [(F.TPL_STATE_PHASE_SRC_VALID, [], 1)] with now := (1956528000 - 3600 + 37) * 10 ^ 9 * 65536 } : Mod).takeUtc
      ((sets rm [(F.TPL_STATE_PHASE_SRC_VALID, [], 1)]).srcOf 0) true 37 true false).get F.TPL_UTC_LEAP_AT = 1956528038 := by decide +kernel

/-! ### Locks: chapter 2 through one step of the queue -/

/-- R76: a free lock is taken by the access, and the queue's rest stays. -/
theorem test_lock_taken :
    (match step { rd with pending := [.lckTryRead mg 5, .imageCheck] } with
      | .next t => decide ((t.m.lock 5).owner = some 0x1000 ∧ t.pending = [.imageCheck]) | _ => false) = true := by decide +kernel

/-- R76: a lock of another owner stays with it. -/
theorem test_lock_kept :
    (match step { st (rm.putLock 5 ⟨some 0x2001, false, []⟩) with pending := [.lckTryRead mg 5] } with
      | .next t => decide ((t.m.lock 5).owner = some 0x2001) | _ => false) = true := by decide +kernel

/-! ### Hypotheses of the statements: for each, a state and operands that meet them -/

theorem witness_LockRegisters :
  (let s : State := rd; let r : Req := mg; let n : Fin 1024 := 5; Quiet s ∧ s.m.lockAdmits n r.mid = true ∧ (s.m.lock n).owner = none) ∧
  (let s : State := st (rm.putLock 5 ⟨some 0x2001, false, []⟩); let r : Req := mg; let n : Fin 1024 := 5; let o : Nat := 0x2001; Quiet s ∧ s.m.lockAdmits n r.mid = true ∧ (s.m.lock n).owner = some o) ∧
  (let s : State := st (rm.set F.LCK_CFG_SCOPE [1023] 1); let r : Req := ⟨0x2001, false⟩; let n : Fin 1024 := 1023; Quiet s ∧ s.m.lockAdmits n r.mid = false) ∧
  (let s : State := st (rm.putLock 5 ⟨some 0x1000, false, []⟩); let r : Req := mg; let n : Fin 1024 := 5; Quiet s ∧ (s.m.lock n).owner = some r.mid ∧ (s.m.lock n).queue = []) ∧
  (let s : State := st (rm.putLock 5 ⟨some 0x1000, false, [{ mid := 0x2002, cmd := { cmd 0x0A01 with mid := 0x2002, tag := 7 } }]⟩); let r : Req := mg; let n : Fin 1024 := 5; let w : Waiter := { mid := 0x2002, cmd := { cmd 0x0A01 with mid := 0x2002, tag := 7 } }; let ws : List Waiter := []; Quiet s ∧ (s.m.lock n).owner = some r.mid ∧ (s.m.lock n).queue = w :: ws) ∧
  (let s : State := st (rm.putLock 5 ⟨some 0x2001, false, []⟩); let r : Req := mg; let n : Fin 1024 := 5; Quiet s ∧ (s.m.lock n).owner ≠ some r.mid) ∧
  (let s : State := st (rm.putLock 5 ⟨some 0x2001, false, []⟩); let r : Req := mg; let n : Fin 1024 := 5; s.m.isManager r.mid = true ∧ (s.m.lock n).owner ≠ none ∧ (s.m.lock n).queue = []) ∧
  (let s : State := st (rm.putLock 5 ⟨some 0x1000, false, [{ mid := 0x2002, cmd := { cmd 0x0A01 with mid := 0x2002, tag := 7 } }]⟩); let r : Req := mg; let n : Fin 1024 := 5; let w : Waiter := { mid := 0x2002, cmd := { cmd 0x0A01 with mid := 0x2002, tag := 7 } }; let ws : List Waiter := []; s.m.isManager r.mid = true ∧ (s.m.lock n).owner ≠ none ∧ (s.m.lock n).queue = w :: ws ∧ s.m.isDead w.cmd = false) ∧
  (let s : State := rd; let r : Req := mg; s.m.isManager r.mid = true) ∧
  (let s : State := rd; let r : Req := ⟨0x2001, false⟩; Quiet s ∧ s.m.isManager r.mid = false) := by
  repeat refine ⟨by (try simp only [Quiet, wheelIdle_iff, mayRun_iff]) <;> decide +kernel, ?_⟩
  all_goals (try simp only [Quiet, wheelIdle_iff, mayRun_iff]) <;> decide +kernel

theorem witness_LockCommands :
  (let s : State := rd; let c : Cmd := cmd 0x0A01 [(0x100, [5, 0, 0, 0])]; Quiet s ∧ mayRun s.m c 0x0A01 ∧ Cmd.lockNo c < 1024 ∧ s.m.lockAdmits (Cmd.lockNo c) c.mid = true ∧ (s.m.lock (Cmd.lockNo c)).owner = none) ∧
  (let s : State := st (rm.putLock 5 ⟨some 0x1000, false, []⟩); let c : Cmd := cmd 0x0A01 [(0x100, [5, 0, 0, 0])]; Quiet s ∧ mayRun s.m c 0x0A01 ∧ Cmd.lockNo c < 1024 ∧ s.m.lockAdmits (Cmd.lockNo c) c.mid = true ∧ (s.m.lock (Cmd.lockNo c)).owner = some c.mid) ∧
  (let s : State := st (rm.putLock 5 ⟨some 0x2001, false, []⟩); let c : Cmd := cmd 0x0A01 [(0x100, [5, 0, 0, 0])]; let o : Nat := 0x2001; mayRun s.m c 0x0A01 ∧ Cmd.lockNo c < 1024 ∧ s.m.lockAdmits (Cmd.lockNo c) c.mid = true ∧ (s.m.lock (Cmd.lockNo c)).owner = some o ∧ o ≠ c.mid ∧ (s.m.lock (Cmd.lockNo c)).queue.length < 32 ∧ s.m.waiters < 4096) ∧
  (let s : State := st (rm.putLock 5 ⟨some 0x2001, false, List.replicate 32 { mid := 0x2002, cmd := { cmd 0x0A01 with mid := 0x2002, tag := 7 } }⟩); let c : Cmd := cmd 0x0A01 [(0x100, [5, 0, 0, 0])]; let o : Nat := 0x2001; Quiet s ∧ mayRun s.m c 0x0A01 ∧ Cmd.lockNo c < 1024 ∧ s.m.lockAdmits (Cmd.lockNo c) c.mid = true ∧ (s.m.lock (Cmd.lockNo c)).owner = some o ∧ o ≠ c.mid ∧ (32 ≤ (s.m.lock (Cmd.lockNo c)).queue.length ∨ 4096 ≤ s.m.waiters)) ∧
  (let m : Mod := (rm.putLock 5 ⟨some 0x1000, false, [{ mid := 0x2002, cmd := { cmd 0x0A01 with mid := 0x2002, tag := 7 } }]⟩); let n : Nat := 5; let w : Waiter := { mid := 0x2002, cmd := { cmd 0x0A01 with mid := 0x2002, tag := 7 } }; let ws : List Waiter := []; (m.lock n).queue = w :: ws) ∧
  (let m : Mod := (rm.putLock 5 ⟨some 0x1000, false, [{ mid := 0x2002, cmd := { cmd 0x0A01 with mid := 0x2002, tag := 7 } }]⟩); let mid : Nat := 0x2003; let n : Nat := 5; let w : Waiter := { mid := 0x2002, cmd := { cmd 0x0A01 with mid := 0x2002, tag := 7 } }; w ∈ ((m.breakLocks mid).lock n).queue) ∧
  (let s : State := st (rm.putLock 5 ⟨some 0x1000, false, [{ mid := 0x2002, cmd := { cmd 0x0A01 with mid := 0x2002, tag := 7 } }]⟩); let c : Cmd := cmd 0x0A02 [(0x100, [5, 0, 0, 0])]; Quiet s ∧ mayRun s.m c 0x0A02 ∧ Cmd.lockNo c < 1024 ∧ (s.m.lock (Cmd.lockNo c)).owner = some c.mid) ∧
  (let s : State := st (rm.putLock 5 ⟨some 0x2001, false, []⟩); let c : Cmd := cmd 0x0A02 [(0x100, [5, 0, 0, 0])]; Quiet s ∧ mayRun s.m c 0x0A02 ∧ Cmd.lockNo c < 1024 ∧ (s.m.lock (Cmd.lockNo c)).owner ≠ some c.mid) ∧
  (let s : State := st (rm.putLock 5 ⟨some 0x2001, false, []⟩); let c : Cmd := cmd 0x0A03 [(0x100, [5, 0, 0, 0])]; Quiet s ∧ mayRun s.m c 0x0A03 ∧ Cmd.lockNo c < 1024 ∧ s.m.lockAdmits (Cmd.lockNo c) c.mid = true) ∧
  (let s : State := rd; let c : Cmd := cmd 0x0A04 [(0x100, [5, 0, 0, 0, 1, 0, 0, 0])]; let n : Nat := 5; let v : Nat := 1; Quiet s ∧ mayRun s.m c 0x0A04 [.lock n] ∧ (c.all 0x100).map (·.2) = [leBytes 4 n ++ leBytes 4 v] ∧ n < 1024 ∧ v % 4 ≠ 3 ∧ v < 2 ^ 32) ∧
  (let s : State := st (rm.putLock 5 ⟨some 0x1000, false, [{ mid := 0x2002, cmd := { cmd 0x0A01 with mid := 0x2002, tag := 7 } }]⟩); let n : Fin 1024 := 5; let i : Nat := 0; let w : Waiter := { mid := 0x2002, cmd := { cmd 0x0A01 with mid := 0x2002, tag := 7 } }; (s.m.lock n).queue[i]? = some w ∧ s.m.isDead w.cmd = false) := by
  repeat refine ⟨by (try simp only [Quiet, wheelIdle_iff, mayRun_iff]) <;> decide +kernel, ?_⟩
  all_goals (try simp only [Quiet, wheelIdle_iff, mayRun_iff]) <;> decide +kernel

theorem witness_MailboxRegisters :
  (let s : State := st (rs [(F.MBX_BIND_SENDER_MID, [63], 0x1000), (F.MBX_BIND_RECEIVER_MID, [63], 0x1001)]); let r : Req := mg; let c : Fin 64 := 63; let v : BitVec 32 := 0xFFFFFFFF; Quiet s ∧ r.viaCmd = false ∧ r.mid = s.m.mbxSender c ∧ s.m.mbxReceiver c ≠ 0xF000 ∧ v ≠ 0 ∧ s.m.midInReset (s.m.mbxReceiver c) = false ∧ s.m.midFrozen (s.m.mbxReceiver c) = false ∧ s.m.flag F.MBX_BIND_ENABLE [c] = true) ∧
  (let s : State := st { rs [(F.MBX_BIND_SENDER_MID, [63], 0x1000), (F.MBX_BIND_RECEIVER_MID, [63], 0x1001)] with sel := { inReset := [pf 1] } }; let r : Req := mg; let c : Fin 64 := 63; let v : BitVec 32 := 1; Quiet s ∧ r.viaCmd = false ∧ r.mid = s.m.mbxSender c ∧ v ≠ 0 ∧ s.m.midInReset (s.m.mbxReceiver c) = true) ∧
  (let s : State := st (rs [(F.MBX_BIND_SENDER_MID, [63], 0x1000), (F.MBX_BIND_RECEIVER_MID, [63], 0x1001), (F.SEL_FREEZE_PF_STATE, epIx 1, 2)]); let r : Req := mg; let c : Fin 64 := 63; let v : BitVec 32 := 1; Quiet s ∧ r.viaCmd = false ∧ r.mid = s.m.mbxSender c ∧ v ≠ 0 ∧ s.m.midInReset (s.m.mbxReceiver c) = false ∧ s.m.midFrozen (s.m.mbxReceiver c) = true) ∧
  (let s : State := st (rs [(F.MBX_BIND_SENDER_MID, [63], 0x1000), (F.MBX_BIND_RECEIVER_MID, [63], 0x1001), (F.MBX_PENDING_BITS, [63], 6), (F.MBX_STATUS_STATE, [63], 1)]); let r : Req := rq 0x1001; let c : Fin 64 := 63; let v : BitVec 32 := 2; Quiet s ∧ r.viaCmd = false ∧ r.mid = s.m.mbxReceiver c ∧ r.mid ≠ s.m.mbxSender c ∧ s.m.mbxGone.contains c.val = false ∧ s.m.get F.MBX_PENDING_BITS [c] &&& v.toNat ≠ 0 ∧ s.m.get F.MBX_PENDING_BITS [c] &&& v.toNat ≠ s.m.get F.MBX_PENDING_BITS [c]) ∧
  (let s : State := st (rs [(F.MBX_BIND_SENDER_MID, [63], 0x1000), (F.MBX_BIND_RECEIVER_MID, [63], 0x1001), (F.MBX_PENDING_BITS, [63], 6), (F.MBX_STATUS_STATE, [63], 1)]); let r : Req := rq 0x1001; let c : Fin 64 := 63; let v : BitVec 32 := 7; Quiet s ∧ r.viaCmd = false ∧ r.mid = s.m.mbxReceiver c ∧ r.mid ≠ s.m.mbxSender c ∧ s.m.mbxGone.contains c.val = false ∧ s.m.get F.MBX_PENDING_BITS [c] ≠ 0 ∧ s.m.get F.MBX_PENDING_BITS [c] &&& v.toNat = s.m.get F.MBX_PENDING_BITS [c]) ∧
  (let s : State := st (rs [(F.MBX_BIND_SENDER_MID, [63], 0x1000), (F.MBX_BIND_RECEIVER_MID, [63], 0x1001)]); let r : Req := rq 0x1001; let c : Fin 64 := 63; Quiet s ∧ r.viaCmd = false ∧ r.mid = s.m.mbxReceiver c ∧ r.mid ≠ s.m.mbxSender c ∧ s.m.mbxGone.contains c.val = false) ∧
  (let s : State := rd; let r : Req := mg; let c : Fin 64 := 0; Quiet s ∧ r.viaCmd = false ∧ r.mid = s.m.mbxSender c ∧ s.m.get F.MBX_STATUS_STATE [c] ≠ 1) ∧
  (let s : State := st (rs [(F.MBX_BIND_SENDER_MID, [63], 0x1000), (F.MBX_BIND_RECEIVER_MID, [63], 0x1001), (F.MBX_PENDING_BITS, [63], 6), (F.MBX_STATUS_STATE, [63], 1)]); let r : Req := mg; let c : Fin 64 := 63; Quiet s ∧ r.viaCmd = false ∧ r.mid = s.m.mbxSender c ∧ s.m.get F.MBX_STATUS_STATE [c] = 1) ∧
  (let s : State := rd; let r : Req := rq 0x2000; let c : Fin 64 := 63; Quiet s ∧ r.viaCmd = false ∧ r.mid ≠ s.m.mbxReceiver c ∧ r.mid ≠ s.m.mbxSender c) := by
  repeat refine ⟨by (try simp only [Quiet, wheelIdle_iff, mayRun_iff]) <;> decide +kernel, ?_⟩
  all_goals (try simp only [Quiet, wheelIdle_iff, mayRun_iff]) <;> decide +kernel

theorem witness_MailboxCommands :
  (let s : State := st (rs [(F.MBX_PAYLOAD_DATA, [0, 2], 256)]); let r : Req := mg; let c : Fin 64 := 0; let v : BitVec 32 := 1; Quiet s ∧ r.viaCmd = false ∧ r.mid = s.m.mbxSender c ∧ s.m.mbxReceiver c = 0xF000 ∧ s.m.get F.MBX_PENDING_BITS [c] = 0 ∧ v ≠ 0 ∧ s.m.flag F.MBX_BIND_ENABLE [c] = true ∧ leAt (s.m.mbxBytes c) 8 4 = 256) ∧
  (let m : Mod := rd.m; let c : Cmd := cmd 0x0001; let ch : Nat := 0; c.src = .mailbox ch ∧ m.isDead c = false) ∧
  (let s : State := rd; let c : Cmd := cmd 0x0A05 [(0x100, [63, 0, 0, 0] ++ leBytes 8 (0x1000 + 0x1001 * 2 ^ 16 + 2 ^ 54))]; let ch : Nat := 63; let v : Nat := 0x1000 + 0x1001 * 2 ^ 16 + 2 ^ 54; Quiet s ∧ mayRun s.m c 0x0A05 [.config] ∧ (c.all 0x100).map (·.2) = [leBytes 1 ch ++ [0, 0, 0] ++ leBytes 8 v] ∧ ch < 64 ∧ bindOk v = true ∧ v < 2 ^ 55) ∧
  (let s : State := rd; let c : Cmd := cmd 0x0A06 [(0x100, [63, 0, 0, 0])]; Quiet s ∧ mayRun s.m c 0x0A06 ∧ leAt (c.val 0x100) 0 1 < 64 ∧ leAt (c.val 0x100) 1 1 = 0) := by
  repeat refine ⟨by (try simp only [Quiet, wheelIdle_iff, mayRun_iff]) <;> decide +kernel, ?_⟩
  all_goals (try simp only [Quiet, wheelIdle_iff, mayRun_iff]) <;> decide +kernel

theorem witness_CommandReceipt_2 :
  (let s : State := st (rm.set F.GLB_START_PHASE [] 4); let src : Transport := .mailbox 0; let bs : List Byte := cmdBytes (cmd 0x0002); let c : Cmd := cmd 0x0002; let a : Ans := { status := stBusy }; Quiet s ∧ parsePacket src (s.m.srcMid src) bs = .ok c ∧ c.target = 0xFF ∧ s.m.cmdCheck c = some a) :=
  by (try simp only [Quiet, wheelIdle_iff, mayRun_iff]) <;> decide +kernel

theorem witness_CommandReceipt_3 :
  (let s : State := rd; let src : Transport := .mailbox 1; let bs : List Byte := cmdBytes { cmd 0x0001 with target := 7 }; let c : Cmd := { cmd 0x0001 with target := 7, src := .mailbox 1, mid := 0x1001 }; Quiet s ∧ parsePacket src (s.m.srcMid src) bs = .ok c ∧ c.target ≠ 0xFF ∧ c.target ≠ s.m.chalk.dir.module ∧ s.m.isManager c.mid = false) :=
  by (try simp only [Quiet, wheelIdle_iff, mayRun_iff]) <;> decide +kernel

theorem witness_CommandReceipt_6 :
  (let s : State := rd; let src : Transport := .mailbox 0; let bs : List Byte := (cmdBytes (cmd 0x0001)); let c : Cmd := cmd 0x0001; Quiet s ∧ parsePacket src (s.m.srcMid src) bs = .ok c ∧ c.target = 0xFF ∧ s.m.cmdCheck c = none ∧ c.opcode ≠ 0x000A ∧ s.m.poolCount < 1024) :=
  by (try simp only [Quiet, wheelIdle_iff, mayRun_iff]) <;> decide +kernel

theorem witness_CommandReceipt_7 :
  (let src : Transport := .mailbox 0; let mid : Nat := 0x1000; let bs : List Byte := cmdBytes (cmd 0x0A05); let c : Cmd := cmd 0x0A05; parsePacket src mid bs = .ok c) :=
  by (try simp only [Quiet, wheelIdle_iff, mayRun_iff]) <;> decide +kernel

theorem witness_CommandReceipt :
  (let s : State := rd; let bs : List Byte := List.replicate 63 0; Quiet s ∧ bs.length < 64) ∧
  (let s : State := rd; let src : Transport := .mailbox 0; let bs : List Byte := leBytes 1 2 ++ List.replicate 63 0; let c : Cmd := headerCmd src (s.m.srcMid src) bs; Quiet s ∧ parsePacket src (s.m.srcMid src) bs = .bad c) ∧
  (let m : Mod := inst31 4095 2; m.phase = 5) ∧
  (let m : Mod := rm; m.phase = 5) ∧
  (let m : Mod := {}; let c : Cmd := cmd 0x0002; m.phase < 5 ∧ c.opcode ≠ 0x0001) := by
  repeat refine ⟨by (try simp only [Quiet, wheelIdle_iff, mayRun_iff]) <;> decide +kernel, ?_⟩
  all_goals (try simp only [Quiet, wheelIdle_iff, mayRun_iff]) <;> decide +kernel

theorem witness_CommandStarts :
  (let s : State := st { rm with cut := { pool := List.replicate 32 { cmd := cmd 0x0001, stage := .executing } } }; Quiet s ∧ s.m.jxl.held = [] ∧ 32 ≤ (s.m.cut.pool.filter fun e => decide (e.stage ≠ .queued)).length) ∧
  (let s : State := st { rm with cut := { pool := [{ cmd := cmd 0x0001 }] } }; let e : PoolEntry := { cmd := cmd 0x0001 }; let cr : List Nat := [7, 4, 1]; let pt : List Nat := [65537, 0, 0]; Quiet s ∧ s.m.jxl.held = [] ∧ (s.m.cut.pool.filter fun e => decide (e.stage ≠ .queued)).length < 32 ∧ s.m.grant = some (e, cr, pt) ∧ s.m.foreign e.cmd = false) ∧
  (let t : PoolEntry → Bool := fun x => decide (x.stage = .queued); let l1 : List PoolEntry := [{ cmd := cmd 0x0001, stage := .executing }]; let e : PoolEntry := { cmd := cmd 0x0001 }; (∀ x ∈ l1, t x = false) ∧ t e = true) ∧
  (let m : Mod := { rm with cut := { pool := [{ cmd := cmd 0x0001 }] } }; let e : PoolEntry := { cmd := cmd 0x0001 }; let cr : List Nat := [7, 4, 1]; let pt : List Nat := [65537, 0, 0]; m.grant = some (e, cr, pt)) ∧
  (let s : State := st { rm with cut := { pool := [{ cmd := cmd 0x0001, stage := .waiting }] } }; let i : Nat := 0; let e : PoolEntry := { cmd := cmd 0x0001, stage := .waiting }; Quiet s ∧ s.m.cut.pool[i]? = some e ∧ e.stage = .waiting) ∧
  (let s : State := st { rm with cut := { pool := [{ cmd := { cmd 0x0001 with tag := 9 } }] } }; let c : Cmd := cmd 0x000A [(0x100, [9, 0, 0, 0])]; let e : PoolEntry := { cmd := { cmd 0x0001 with tag := 9 } }; Quiet s ∧ s.m.cmdCheck (asOp c 0x000A) = none ∧ (s.m.cut.pool.filter fun e => e.cmd.mid = c.mid && e.cmd.tag = leAt (c.val 0x100) 0 2 && e.cmd.opcode ≠ 0x000A) = [e] ∧ e.stage = .queued ∧ s.m.cut.loops = []) ∧
  (let s : State := rd; let c : Cmd := cmd 0x000A [(0x100, [9, 0, 0, 0])]; Quiet s ∧ s.m.cmdCheck (asOp c 0x000A) = none ∧ (s.m.cut.pool.filter fun e => e.cmd.mid = c.mid && e.cmd.tag = leAt (c.val 0x100) 0 2 && e.cmd.opcode ≠ 0x000A) = []) := by
  repeat refine ⟨by (try simp only [Quiet, wheelIdle_iff, mayRun_iff]) <;> decide +kernel, ?_⟩
  all_goals (try simp only [Quiet, wheelIdle_iff, mayRun_iff]) <;> decide +kernel

theorem witness_OobStations :
  (let s : State := rd; Quiet s) ∧
  (let s : State := rd; let b : Nat := oobMac; let e : Fin 65536 := 0x88B5; Quiet s ∧ (e.val ≠ 0x88B6 ∨ b ≠ oobMac ∨ s.m.flag F.CUT_CFG_OOB_ENABLE = false)) ∧
  (let s : State := rd; let a : Nat := 5; let k : Nat := 0; let bs : List Byte := cmdBytes { cmd 0x0001 with seq := 77 }; Quiet s ∧ s.m.flag F.CUT_CFG_OOB_ENABLE = true ∧ 64 ≤ bs.length ∧ s.m.cut.stations.find? (fun x => x.2.mac = a) = none ∧ tfree s.m.cut.stations 16 = some k) ∧
  (let s : State := st { rm with cut := { stations := [(15, { mac := 5, cache := [(rm.mkReply { cmd 0x0001 with src := .oob 15, seq := 77 } {})] })] } }; let a : Nat := 5; let k : Nat := 15; let st : Station := { mac := 5, cache := [(rm.mkReply { cmd 0x0001 with src := .oob 15, seq := 77 } {})] }; let r : Reply := (rm.mkReply { cmd 0x0001 with src := .oob 15, seq := 77 } {}); let bs : List Byte := cmdBytes { cmd 0x0001 with seq := 77 }; Quiet s ∧ s.m.flag F.CUT_CFG_OOB_ENABLE = true ∧ 64 ≤ bs.length ∧ (s.m.cut.stations.find? fun x => x.2.mac = a) = some (k, st) ∧ tget s.m.cut.stations k = some st ∧ st.cache.find? (fun r => decide (r.seq = leAt bs 24 4)) = some r) ∧
  (let s : State := st { rm with cut := { stations := [(15, { mac := 5 })], pool := [{ cmd := { cmd 0x0001 with src := .oob 15, seq := 77 } }] } }; let a : Nat := 5; let k : Nat := 15; let st : Station := { mac := 5 }; let bs : List Byte := cmdBytes { cmd 0x0001 with seq := 77 }; Quiet s ∧ s.m.flag F.CUT_CFG_OOB_ENABLE = true ∧ 64 ≤ bs.length ∧ (s.m.cut.stations.find? fun x => x.2.mac = a) = some (k, st) ∧ tget s.m.cut.stations k = some st ∧ st.cache.find? (fun r => decide (r.seq = leAt bs 24 4)) = none ∧ (s.m.cut.pool.any fun e => e.cmd.src = .oob k && e.cmd.seq = leAt bs 24 4) = true) ∧
  (let s : State := rd; let n : Nat := 2; Quiet s ∧ n ≠ 0) ∧
  (let s : State := st (rs [(F.CUT_OOB_CFG_PLCA_EN, [], 1), (F.CUT_OOB_CFG_NODE_ID, [], 3)]); let n : Nat := 1; Quiet s ∧ n ≠ 0) ∧
  (let s : State := st (rs [(F.CUT_OOB_CFG_PLCA_EN, [], 1), (F.CUT_OOB_CFG_NODE_ID, [], 0)]); Quiet s ∧ s.m.flag F.CUT_OOB_CFG_PLCA_EN = true ∧ s.m.get F.CUT_OOB_CFG_NODE_ID = 0) ∧
  (let s : State := st (rs [(F.CUT_OOB_CFG_PLCA_EN, [], 1), (F.CUT_OOB_CFG_NODE_ID, [], 7)]); Quiet s ∧ s.m.flag F.CUT_OOB_CFG_PLCA_EN = true ∧ s.m.get F.CUT_OOB_CFG_NODE_ID ≠ 0) ∧
  (let s : State := rd; Quiet s ∧ s.m.flag F.CUT_OOB_CFG_PLCA_EN = false) := by
  repeat refine ⟨by (try simp only [Quiet, wheelIdle_iff, mayRun_iff]) <;> decide +kernel, ?_⟩
  all_goals (try simp only [Quiet, wheelIdle_iff, mayRun_iff]) <;> decide +kernel

theorem witness_OwnerDeath :
  (let s : State := st { rm with cut := { stations := [(15, { mac := 5 })] } }; let k : Fin 16 := 15; tget s.m.cut.stations k ≠ none) ∧
  (let s : State := rd; let k : Fin 16 := 0; Quiet s ∧ tget s.m.cut.stations k = none) := by
  repeat refine ⟨by (try simp only [Quiet, wheelIdle_iff, mayRun_iff]) <;> decide +kernel, ?_⟩
  all_goals (try simp only [Quiet, wheelIdle_iff, mayRun_iff]) <;> decide +kernel

theorem witness_TransactionEnds :
  (let s : State := st { rm with txns := [(63, { serial := 3, scope := 9, owner := 0x1000 })] }; let c : Cmd := { cmd 0x0306 with txn := 63 * 2 ^ 26 + 3 }; let slot : Nat := 63; let x : Txn := { serial := 3, scope := 9, owner := 0x1000 }; Quiet s ∧ mayRun s.m c 0x0306 ∧ s.m.handle c.txn = .live slot x ∧ x.owner = c.mid ∧ x.state = .opened) ∧
  (let s : State := st { rm with txns := [(63, { serial := 3, scope := 9, owner := 0x1000 })] }; let c : Cmd := { cmd 0x0307 with txn := 63 * 2 ^ 26 + 3 }; let slot : Nat := 63; let x : Txn := { serial := 3, scope := 9, owner := 0x1000 }; Quiet s ∧ mayRun s.m c 0x0307 ∧ s.m.handle c.txn = .live slot x ∧ x.owner = c.mid ∧ x.state = .opened) ∧
  (let s : State := st { rm with txns := [(63, { serial := 3, scope := 9, owner := 0x1000 })] }; let slot : Fin 64 := 63; let t : Nat := 1000000000; let x : Txn := { serial := 3, scope := 9, owner := 0x1000 }; Quiet s ∧ tget s.m.txns slot = some x ∧ x.state = .opened ∧ s.m.ns ≤ t ∧ x.named + s.m.get F.CUT_CFG_TXN_IDLE_MS * 1000000 ≤ t) ∧
  (let s : State := st { rm with txns := [(63, { serial := 3, scope := 9, owner := 0x1000 })] }; let slot : Fin 64 := 63; let t : Nat := 999999999; let x : Txn := { serial := 3, scope := 9, owner := 0x1000 }; Quiet s ∧ tget s.m.txns slot = some x ∧ x.state = .opened ∧ s.m.ns ≤ t ∧ t < x.named + s.m.get F.CUT_CFG_TXN_IDLE_MS * 1000000) ∧
  (let m : Mod := { rm with txns := [(63, { serial := 3, scope := 9, owner := 0x1000 })] }; let slot : Nat := 63; let x : Txn := { serial := 3, scope := 9, owner := 0x1000 }; tget m.txns slot = some x) := by
  repeat refine ⟨by (try simp only [Quiet, wheelIdle_iff, mayRun_iff]) <;> decide +kernel, ?_⟩
  all_goals (try simp only [Quiet, wheelIdle_iff, mayRun_iff]) <;> decide +kernel

theorem witness_RegisterReads :
  (let s : State := rd; let r : Req := mg; let addr : Nat := 0xFFFFFFFFFF; let a : Nat := 0xFFFFFFFFFF; let c : Nat := 2; let wide : Bool := false; Quiet s ∧ s.m.phase = 5 ∧ s.m.pageAddr r.mid addr = some a ∧ accessFault a (if wide then 8 else 4) = some c) ∧
  (let s : State := rd; let r : Req := mg; let addr : Nat := 0x28; let a : Nat := 0x28; let wide : Bool := false; let k : RegKey := ⟨.GLB_ERR_CFG, []⟩; Quiet s ∧ s.m.phase = 5 ∧ s.m.pageAddr r.mid addr = some a ∧ accessFault a (if wide then 8 else 4) = none ∧ placeAt a = .reg k 0 ∧ k.reg.info.width = (if wide then 64 else 32) ∧ mbxRegs.contains k.reg = false ∧ k.reg ≠ .LCK_TRY ∧ k.reg ≠ .TPL_NOW ∧ k.reg ≠ .TPL_NOW_EXT) ∧
  (let s : State := rd; let r : Req := rq 0x2000; let addr : Nat := 0x5000000; let a : Nat := 0x4000000; let k : RegKey := ⟨.INST_STATUS, [0]⟩; Quiet s ∧ s.m.phase = 5 ∧ s.m.pageAddr r.mid addr = some a ∧ accessFault a 4 = none ∧ placeAt a = .reg k 0 ∧ k.reg.info.width = 64 ∧ mbxRegs.contains k.reg = false ∧ k.reg ≠ .LCK_TRY ∧ k.reg ≠ .TPL_NOW) ∧
  (let s : State := st { rm with latches := [⟨0x1000, 0x20, 7⟩] }; let r : Req := mg; let addr : Nat := 0x24; let a : Nat := 0x24; let h : Nat := 7; let k : RegKey := ⟨.GLB_ERR_STATUS, []⟩; Quiet s ∧ s.m.phase = 5 ∧ s.m.pageAddr r.mid addr = some a ∧ accessFault a 4 = none ∧ placeAt a = .reg k 4 ∧ mbxRegs.contains k.reg = false ∧ k.reg ≠ .LCK_TRY ∧ (s.m.popLatch r.mid k.addr).1 = some h) ∧
  (let s : State := rd; let r : Req := mg; let addr : Nat := 2 ^ 39 + 0x600000000; let wide : Bool := false; Quiet s ∧ s.m.phase = 5 ∧ s.m.pageAddr r.mid addr = some addr ∧ accessFault addr (if wide then 8 else 4) = none ∧ placeAt addr = .mem) ∧
  (let s : State := rd; let r : Req := mg; let addr : Nat := 0x24; let a : Nat := 0x24; let k : RegKey := ⟨.GLB_ERR_STATUS, []⟩; Quiet s ∧ s.m.phase = 5 ∧ s.m.pageAddr r.mid addr = some a ∧ accessFault a 4 = none ∧ placeAt a = .reg k 4 ∧ mbxRegs.contains k.reg = false ∧ k.reg ≠ .LCK_TRY ∧ (s.m.popLatch r.mid k.addr).1 = none) ∧
  (let s : State := rd; let r : Req := mg; let t : Nat := 2 ^ 63; r.viaCmd = false ∧ s.m.now ≤ t) := by
  repeat refine ⟨by (try simp only [Quiet, wheelIdle_iff, mayRun_iff]) <;> decide +kernel, ?_⟩
  all_goals (try simp only [Quiet, wheelIdle_iff, mayRun_iff]) <;> decide +kernel

theorem witness_RegisterWrites :
  (let s : State := rd; let r : Req := mg; let addr : Nat := 0x22; let a : Nat := 0x22; let c : Nat := 2; let wide : Bool := false; Quiet s ∧ s.m.phase = 5 ∧ s.m.pageAddr r.mid addr = some a ∧ accessFault a (if wide then 8 else 4) = some c) ∧
  (let s : State := rd; let r : Req := mg; let addr : Nat := 2 ^ 39 + 0x600000000; let wide : Bool := true; Quiet s ∧ s.m.phase = 5 ∧ s.m.pageAddr r.mid addr = some addr ∧ accessFault addr (if wide then 8 else 4) = none ∧ placeAt addr = .mem) ∧
  (let s : State := st (rm.set F.GLB_START_PHASE [] 6); Quiet s ∧ s.m.phase ≠ 5) ∧
  (let s : State := rd; let r : Req := mg; Quiet s ∧ s.m.phase = 5 ∧ s.m.isManager r.mid = true) ∧
  (let s : State := rd; let r : Req := rq 0x1001; Quiet s ∧ s.m.phase = 5 ∧ s.m.isManager r.mid = false) ∧
  (let s : State := st (rs [(F.GLB_ERR_STATUS_CLASS, [], 63), (F.GLB_ERR_STATUS_ACCESS, [], 1)]); let r : Req := mg; Quiet s ∧ s.m.phase = 5 ∧ s.m.isManager r.mid = true) := by
  repeat refine ⟨by (try simp only [Quiet, wheelIdle_iff, mayRun_iff]) <;> decide +kernel, ?_⟩
  all_goals (try simp only [Quiet, wheelIdle_iff, mayRun_iff]) <;> decide +kernel

theorem witness_HostWindows :
  (let s : State := rd; let f : Fn := pf 31; Quiet s ∧ s.m.phase ≠ 6 ∧ (s.m.fnExists f = false ∨ s.m.linkUp f.ep = false)) ∧
  (let s : State := st (rs [(F.SEL_EP_STATUS_PRESENT, epIx 31, 1), (F.SEL_EP_STATUS_LINK_UP, epIx 31, 1), (F.SEL_WIN_PF_EN, epIx 31 ++ [7], 0), (F.SEL_WIN_PF_BASE, epIx 31 ++ [7], 0)]); let e : Nat := 31; let off : Nat := 7 * 2 ^ 22 + 0x28; let ro : Bool := false; let a : Nat := 0x28; Quiet s ∧ s.m.phase = 5 ∧ s.m.fnExists (pf e) = true ∧ s.m.linkUp e = true ∧ s.m.frozen (pf e) = false ∧ s.m.fnInReset (pf e) = false ∧ s.m.window (pf e) off = (false, ro, a)) ∧
  (let s : State := st (rs [(F.SEL_EP_STATUS_PRESENT, epIx 31, 1), (F.SEL_EP_STATUS_LINK_UP, epIx 31, 1), (F.SEL_WIN_PF_EN, epIx 31 ++ [7], 1), (F.SEL_WIN_PF_BASE, epIx 31 ++ [7], 0)]); let e : Nat := 31; let off : Nat := 7 * 2 ^ 22 + 0x28; let ro : Bool := false; let a : Nat := 0x28; Quiet s ∧ s.m.phase = 5 ∧ s.m.fnExists (pf e) = true ∧ s.m.linkUp e = true ∧ s.m.frozen (pf e) = false ∧ s.m.fnInReset (pf e) = false ∧ s.m.window (pf e) off = (true, ro, a)) ∧
  (let s : State := st (rs [(F.SEL_EP_STATUS_PRESENT, epIx 31, 1), (F.SEL_EP_STATUS_LINK_UP, epIx 31, 1), (F.SEL_WIN_PF_EN, epIx 31 ++ [7], 1), (F.SEL_WIN_PF_BASE, epIx 31 ++ [7], 0), (F.SEL_WIN_PF_RO, epIx 31 ++ [7], 1)]); let e : Nat := 31; let off : Nat := 7 * 2 ^ 22 + 0x28; let a : Nat := 0x28; Quiet s ∧ s.m.phase = 5 ∧ s.m.fnExists (pf e) = true ∧ s.m.linkUp e = true ∧ s.m.frozen (pf e) = false ∧ s.m.fnInReset (pf e) = false ∧ s.m.window (pf e) off = (true, true, a)) ∧
  (let s : State := st (rs [(F.SEL_EP_STATUS_PRESENT, epIx 31, 1), (F.SEL_EP_STATUS_LINK_UP, epIx 31, 1), (F.SEL_FREEZE_PF_STATE, epIx 31, 2)]); let f : Fn := pf 31; Quiet s ∧ s.m.phase ≠ 6 ∧ s.m.fnExists f = true ∧ s.m.linkUp f.ep = true ∧ s.m.frozen f = true) ∧
  (let s : State := st (rs [(F.SEL_EP_STATUS_PRESENT, epIx 31, 1), (F.SEL_EP_STATUS_LINK_UP, epIx 31, 1)]); let e : Nat := 31; let off : Nat := 0x7FFC; Quiet s ∧ s.m.phase = 5 ∧ s.m.fnExists (pf e) = true ∧ s.m.linkUp e = true ∧ s.m.frozen (pf e) = false ∧ s.m.fnInReset (pf e) = false ∧ off % 4 = 0) := by
  repeat refine ⟨by (try simp only [Quiet, wheelIdle_iff, mayRun_iff]) <;> decide +kernel, ?_⟩
  all_goals (try simp only [Quiet, wheelIdle_iff, mayRun_iff]) <;> decide +kernel

theorem witness_RegisterCommands :
  (let s : State := rd; let c : Cmd := cmd 0x0004 [(0x100, leBytes 8 (0x28 + 4 * 2 ^ 40) ++ leBytes 4 1 ++ leBytes 4 4)]; let p : Nat := 1; let v : List Byte := leBytes 8 (0x28 + 4 * 2 ^ 40) ++ leBytes 4 1 ++ leBytes 4 4; mayRun s.m c 0x0004 ∧ s.m.fit.pend = [] ∧ c.all 0x100 = [(p, v)] ∧ c.buffer = none ∧ c.tlv 3 = none ∧ (regRun v).width = 4 ∧ (regRun v).addr % 4 = 0 ∧ (regRun v).count = 1 ∧ (regRun v).stride = 4 ∧ (s.m.readAt s.mem ⟨c.mid, true⟩ (regRun v).addr 4).2.fit.pend = []) ∧
  (let s : State := rd; let c : Cmd := cmd 0x0004 [(0x100, leBytes 8 (0x29 + 4 * 2 ^ 40) ++ leBytes 4 1 ++ leBytes 4 4)]; let p : Nat := 1; let v : List Byte := leBytes 8 (0x29 + 4 * 2 ^ 40) ++ leBytes 4 1 ++ leBytes 4 4; Quiet s ∧ mayRun s.m c 0x0004 ∧ c.all 0x100 = [(p, v)] ∧ (regRun v).aligned = false) ∧
  (let s : State := rd; let c : Cmd := cmd 0x0005 [(0x100, leBytes 8 (0x28 + 4 * 2 ^ 40) ++ leBytes 4 1 ++ leBytes 4 4 ++ leBytes 4 5)]; let p : Nat := 1; let v : List Byte := leBytes 8 (0x28 + 4 * 2 ^ 40) ++ leBytes 4 1 ++ leBytes 4 4 ++ leBytes 4 5; let m : Mod := (s.m.writeAt s.mem ⟨c.mid, true⟩ (regRun v).addr 4 (leAt (v.drop 16) 0 4)).1; let mem : List Host.Cell := (s.m.writeAt s.mem ⟨c.mid, true⟩ (regRun v).addr 4 (leAt (v.drop 16) 0 4)).2; mayRun s.m c 0x0005 ∧ c.all 0x100 = [(p, v)] ∧ (regRun v).width = 4 ∧ (regRun v).addr % 4 = 0 ∧ (regRun v).count = 1 ∧ (regRun v).stride = 4 ∧ v.length = 20 ∧ s.m.writeAt s.mem ⟨c.mid, true⟩ (regRun v).addr 4 (leAt (v.drop 16) 0 4) = (m, mem) ∧ m.fit.pend = []) ∧
  (let s : State := rd; let c : Cmd := cmd 0x0005 [(0x100, leBytes 8 (0x29 + 4 * 2 ^ 40) ++ leBytes 4 1 ++ leBytes 4 4 ++ leBytes 4 5)]; let p : Nat := 1; let v : List Byte := leBytes 8 (0x29 + 4 * 2 ^ 40) ++ leBytes 4 1 ++ leBytes 4 4 ++ leBytes 4 5; Quiet s ∧ mayRun s.m c 0x0005 ∧ c.all 0x100 = [(p, v)] ∧ (regRun v).aligned = false) := by
  repeat refine ⟨by (try simp only [Quiet, wheelIdle_iff, mayRun_iff]) <;> decide +kernel, ?_⟩
  all_goals (try simp only [Quiet, wheelIdle_iff, mayRun_iff]) <;> decide +kernel

theorem witness_Logs :
  (let m : Mod := rd.m; m.logq.queue.length < 1024) ∧
  (let m : Mod := { rm with logq := { queue := List.replicate 1024 { time := 0, boot := 0, cls := 17, code := 1 } } }; 1024 ≤ m.logq.queue.length) ∧
  (let m : Mod := { rm with logq := { queue := [{ time := 0, boot := 0, cls := 17, code := 1 }] } }; let e : LogEntry := { time := 0, boot := 0, cls := 17, code := 1 }; let es : List LogEntry := []; m.logq.queue = e :: es ∧ m.logq.lostErrors = 0 ∧ m.logq.lostEvents = 0) ∧
  (let s : State := st { rm with chalk := { logs := { events := [{ seq := 4, time := 0, boot := 0, cls := 17, code := 1 }], eventSeq := 5 } } }; let c : Cmd := cmd 0x000B [(0x100, leBytes 8 4 ++ leBytes 4 1)]; let e : LogEntry := { seq := 4, time := 0, boot := 0, cls := 17, code := 1 }; Quiet s ∧ mayRun s.m c 0x000B ∧ s.m.chalk.logs.events = [e] ∧ s.m.chalk.logs.eventSeq = e.seq + 1 ∧ leAt (c.val 0x100) 0 8 = e.seq ∧ leAt (c.val 0x100) 8 4 = 1 ∧ c.buffer = none ∧ c.tlv 3 = none) ∧
  (let s : State := st { rm with chalk := { logs := { errors := [{ seq := 4, time := 0, boot := 0, cls := 17, code := 1 }], errorSeq := 5 } } }; let c : Cmd := cmd 0x0905 [(0x100, leBytes 8 4 ++ leBytes 4 1)]; let e : LogEntry := { seq := 4, time := 0, boot := 0, cls := 17, code := 1 }; Quiet s ∧ mayRun s.m c 0x0905 ∧ s.m.chalk.logs.errors = [e] ∧ s.m.chalk.logs.errorSeq = e.seq + 1 ∧ leAt (c.val 0x100) 0 8 = e.seq ∧ leAt (c.val 0x100) 8 4 = 1 ∧ c.buffer = none ∧ c.tlv 3 = none) ∧
  (let s : State := rd; let c : Cmd := cmd 0x000B [(0x100, leBytes 8 0 ++ leBytes 4 65536)]; Quiet s ∧ mayRun s.m c 0x000B ∧ leAt (c.val 0x100) 8 4 ≠ 0 ∧ leAt (c.val 0x100) 8 4 ≤ 65536 ∧ s.m.chalk.logs.eventSeq ≤ leAt (c.val 0x100) 0 8) ∧
  (let s : State := rd; let c : Cmd := cmd 0x0906; Quiet s ∧ mayRun s.m c 0x0906) := by
  repeat refine ⟨by (try simp only [Quiet, wheelIdle_iff, mayRun_iff]) <;> decide +kernel, ?_⟩
  all_goals (try simp only [Quiet, wheelIdle_iff, mayRun_iff]) <;> decide +kernel

theorem witness_FittingCommands :
  (let s : State := rd; let c : Cmd := cmd 0x0901 [(0x100, [7, 5, 2, 0, 0, 0, 0, 0] ++ leBytes 8 0 ++ leBytes 4 100000 ++ leBytes 4 0)]; let n : Nat := 7; let src : Nat := 5; let param : Nat := 0; let ns : Nat := 100000; let w : Nat := 100000; Quiet s ∧ mayRun s.m c 0x0901 ∧ leAt (c.val 0x100) 0 1 = n ∧ leAt (c.val 0x100) 1 1 = src ∧ leAt (c.val 0x100) 4 4 = param ∧ leAt (c.val 0x100) 16 4 = ns ∧ leAt (c.val 0x100) 8 6 * 1000000000 + ns = w ∧ n < 8 ∧ tget s.m.fit.slots n = none ∧ 2 ≤ src ∧ src ≤ 5 ∧ ((src = 2 → param % 2 = 0 ∧ param < 128)) ∧ ((src = 3 → param < 24 ∧ s.m.pinFunc param = some 3)) ∧ ((src = 5 → ns % 8 = 0 ∧ ns < 1000000000 ∧ s.m.ns + 100000 ≤ w ∧ (s.m.flag F.TPL_LOSS_POLICY_FIT = false ∨ s.m.flag F.TPL_STATE_TRACEABLE = true)))) ∧
  (let s : State := st { rm with fit := { slots := [(7, { source := 5, clear := false, oneShot := true, param := 0, whenNs := 1000000 })] } }; let c : Cmd := cmd 0x0901 [(0x100, [7, 4] ++ List.replicate 22 0)]; let n : Nat := 7; let x : FitSlot := { source := 5, clear := false, oneShot := true, param := 0, whenNs := 1000000 }; Quiet s ∧ mayRun s.m c 0x0901 ∧ leAt (c.val 0x100) 0 1 = n ∧ n < 8 ∧ leAt (c.val 0x100) 1 1 = 4 ∧ tget s.m.fit.slots n = some x) ∧
  (let s : State := st { rm with fit := { slots := [(7, { source := 5, clear := false, oneShot := true, param := 0, whenNs := 1000000 })] } }; let c : Cmd := cmd 0x0904 [(0x100, [7, 0, 0, 0])]; let n : Nat := 7; let x : FitSlot := { source := 5, clear := false, oneShot := true, param := 0, whenNs := 1000000 }; Quiet s ∧ mayRun s.m c 0x0904 ∧ leAt (c.val 0x100) 0 1 = n ∧ n < 8 ∧ tget s.m.fit.slots n = some x) ∧
  (let s : State := st { rm with fit := { bank1 := { full := true, vals := [(8, 3)] } } }; let c : Cmd := cmd 0x0903 [(0x100, [1, 1, 0, 0] ++ leBytes 4 14 ++ leBytes 8 8)]; let n : Nat := 1; let k : Nat := 14; let a : Nat := 8; Quiet s ∧ mayRun s.m c 0x0903 ∧ leAt (c.val 0x100) 0 1 = n ∧ n < 2 ∧ leAt (c.val 0x100) 4 4 = k ∧ 0 < k ∧ k ≤ 14 ∧ leAt (c.val 0x100) 8 8 = a ∧ a % 8 = 0 ∧ (s.m.fit.bank n).full = true ∧ c.buffer = none) ∧
  (let s : State := rd; let c : Cmd := cmd 0x0903 [(0x100, [1, 1, 0, 0] ++ leBytes 4 65536 ++ leBytes 8 8)]; Quiet s ∧ mayRun s.m c 0x0903 ∧ leAt (c.val 0x100) 0 1 < 2 ∧ leAt (c.val 0x100) 4 4 ≠ 0 ∧ leAt (c.val 0x100) 4 4 ≤ 65536 ∧ leAt (c.val 0x100) 8 8 % 8 = 0 ∧ (s.m.fit.bank (leAt (c.val 0x100) 0 1)).full = false) ∧
  (let s : State := rd; let r : Req := mg; Quiet s ∧ s.m.isManager r.mid = true) ∧
  (let s : State := rd; let r : Req := rq 0x1001; Quiet s ∧ s.m.isManager r.mid = false) ∧
  (let s : State := st { rm with fit := { slots := [(7, { source := 5, clear := false, oneShot := true, param := 0, whenNs := 1000000 })] } }; let n : Fin 8 := 7; let x : FitSlot := { source := 5, clear := false, oneShot := true, param := 0, whenNs := 1000000 }; Quiet s ∧ tget s.m.fit.slots n = some x ∧ x.source = 5 ∧ s.m.fit.lastFire = none ∧ s.m.fit.bank0.full = false ∧ s.m.now ≤ x.whenNs * nsUnit) ∧
  (let s : State := rd; let c : Cmd := cmd 0x0902; mayRun s.m c 0x0902 ∧ s.m.fit.pend = [] ∧ leAt (c.val 0x100) 0 1 = 0 ∧ s.m.fit.lastFire = none ∧ s.m.fit.bank0.full = false) := by
  repeat refine ⟨by (try simp only [Quiet, wheelIdle_iff, mayRun_iff]) <;> decide +kernel, ?_⟩
  all_goals (try simp only [Quiet, wheelIdle_iff, mayRun_iff]) <;> decide +kernel

theorem witness_FittingFires :
  (let m : Mod := rd.m; let p : FitPend := { source := 0 }; m.fit.bank0.full = false ∧ p.slot = none) ∧
  (let m : Mod := { rm.set F.FIT_CFG_KEEP [] 1 with fit := { bank0 := { full := true }, bank1 := { full := true } } }; let p : FitPend := { source := 0 }; m.fit.bank0.full = true ∧ m.fit.bank1.full = true ∧ m.flag F.FIT_CFG_KEEP = true ∧ p.slot = none) ∧
  (let m : Mod := { rm.set F.FIT_CFG_KEEP [] 0 with fit := { bank0 := { full := true }, bank1 := { full := true } } }; let p : FitPend := { source := 0 }; m.fit.bank0.full = true ∧ m.fit.bank1.full = true ∧ m.flag F.FIT_CFG_KEEP = false ∧ m.fit.newer = 0 ∧ p.slot = none) ∧
  (let m : Mod := { rm with now := 100 * nsUnit, fit := { bank0 := { full := true }, lastFire := some (0, 0) } }; let p : FitPend := { source := 0 }; let last : Nat := 0; let b : Nat := 0; m.fit.lastFire = some (last, b) ∧ last ≤ m.fireTime p ∧ ceilDiv m.now nsUnit ≤ last + 100 ∧ (m.fit.bank b).full = true) ∧
  (let m : Mod := rm.set F.CUT_DISCARD_HEADER [] 3; let p : FitPend := { source := 0, clear := true }; let f : Fld := F.CUT_DISCARD_HEADER; m.fit.bank0.full = false ∧ p.clear = true ∧ p.slot = none ∧ f.access = .rc) ∧
  (let f : Fld := F.GLB_ERR_CFG_VECTOR; f.access ≠ .rc ∧ f ≠ F.FIT_STATUS_MISSED) ∧
  (let m : Mod := rm.set F.CUT_DISCARD_HEADER [] 3; let r : Reg := .CUT_DISCARD; let ix : List Nat := []; (r.hasRc = true ∨ r ∈ snapStatus) ∧ ix ∈ allIx r.info.dims ∧ m.view r ix ≠ 0 ∧ r ∈ Reg.all) := by
  repeat refine ⟨by (try simp only [Quiet, wheelIdle_iff, mayRun_iff]) <;> decide +kernel, ?_⟩
  all_goals (try simp only [Quiet, wheelIdle_iff, mayRun_iff]) <;> decide +kernel

theorem witness_Pins :
  (let s : State := st (rs [(F.PIN_CFG_EDGE, [23], 1), (F.PIN_CFG_FUNC, [23], 0)]); let p : Fin 24 := 23; s.m.pinFunc p = some 0 ∧ s.m.get F.PIN_CFG_EDGE [p.val] % 2 = 1 ∧ bit (s.m.get F.PIN_STATUS_IN) p = false) ∧
  (let s : State := rd; let p : Fin 24 := 23; Quiet s ∧ s.m.get F.PIN_CFG_EDGE [p.val] = 0) ∧
  (let s : State := rd; let c : Cmd := cmd 0x0009 [(0x100, leBytes 4 23 ++ leBytes 4 1)]; let q : Nat := 1; let p : Nat := 23; let v : Nat := 1; Quiet s ∧ mayRun s.m c 0x0009 [.pin p] ∧ c.all 0x100 = [(q, leBytes 4 p ++ leBytes 4 v)] ∧ p < 24 ∧ pinCfgOk p v = true ∧ v < 2 ^ 32 ∧ v % 16 ≠ s.m.get F.PIN_CFG_FUNC [p] ∧ s.m.get F.PIN_CFG_FUNC [p] ≠ 2 ∧ s.m.get F.PIN_CFG_FUNC [p] ≠ 3) ∧
  (let s : State := st (rs [(F.PIN_CFG_FUNC, [23], 0)]); let c : Cmd := cmd 0x0009 [(0x100, leBytes 4 23 ++ leBytes 4 16)]; let q : Nat := 1; let p : Nat := 23; let v : Nat := 16; Quiet s ∧ mayRun s.m c 0x0009 [.pin p] ∧ c.all 0x100 = [(q, leBytes 4 p ++ leBytes 4 v)] ∧ p < 24 ∧ pinCfgOk p v = true ∧ v < 2 ^ 32 ∧ s.m.get F.PIN_CFG_FUNC [p] = v % 16) ∧
  (let s : State := st { rm with holds := [(23, { cfg := 1, level := true, cmd := none })] }; let p : Fin 24 := 23; let h : Hold := { cfg := 1, level := true, cmd := none }; s.m.holds = [(p.val, h)]) := by
  repeat refine ⟨by (try simp only [Quiet, wheelIdle_iff, mayRun_iff]) <;> decide +kernel, ?_⟩
  all_goals (try simp only [Quiet, wheelIdle_iff, mayRun_iff]) <;> decide +kernel

theorem witness_StitchWheel :
  (let s : State := rd; let r : Req := mg; let u : Fin 154 := 153; Quiet s ∧ s.m.isManager r.mid = true ∧ stwCheck u (s.m.stwShadow u) = 0) ∧
  (let s : State := st (rs [(⟨.STW_OWN, 28, 4⟩, [153, 31], 7)]); let r : Req := mg; let u : Fin 154 := 153; Quiet s ∧ s.m.isManager r.mid = true ∧ stwCheck u (s.m.stwShadow u) ≠ 0) ∧
  (let s : State := rd; let r : Req := rq 0x1001; Quiet s ∧ s.m.isManager r.mid = false) ∧
  (let s : State := rd; let t : Nat := 32; Quiet s ∧ wheelIdle s.m ∧ t % 32 = 0 ∧ s.m.ns ≤ t ∧ t % 8192 ≠ 0 ∧ ((s.m.wheel.realign = true → s.m.wheel.tail ≤ t))) ∧
  (let s : State := st { rm with wheel := { realign := true, tail := 64 } }; let t : Nat := 32; Quiet s ∧ t % 32 = 0 ∧ s.m.ns ≤ t ∧ s.m.wheel.realign = true ∧ t < s.m.wheel.tail) ∧
  (let s : State := st { rm with wheel := { pending := [(153, List.replicate 256 0)] } }; let t : Nat := 8192; let u : Nat := 153; let tab : List Nat := List.replicate 256 0; wheelIdle s.m ∧ t % 8192 = 0 ∧ s.m.ns ≤ t ∧ ((s.m.wheel.realign = true → s.m.wheel.tail ≤ t)) ∧ s.m.wheel.pending = [(u, tab)]) ∧
  (let s : State := st { rm with wheel := { active := [(64, List.replicate 256 3)] } }; let t : Nat := 8160; let c : Nat := 3; let u : Fin 154 := 64; Quiet s ∧ wheelIdle s.m ∧ s.m.wheel.realign = false ∧ t % 32 = 0 ∧ s.m.ns ≤ t ∧ t % 8192 ≠ 0 ∧ s.m.stwOwner u t = c ∧ 0 < c) ∧
  (let s : State := st { rm with wheel := { holder := [(64, 3)], cur := 1, active := [(64, List.replicate 256 0)] } }; let t : Nat := 64; let a : Nat := 40; let c : Nat := 3; let u : Fin 154 := 64; wheelIdle s.m ∧ s.m.wheel.realign = false ∧ t % 32 = 0 ∧ s.m.ns ≤ t ∧ t % 8192 ≠ 0 ∧ a < t ∧ a / 32 = s.m.wheel.cur ∧ tget s.m.wheel.holder u.val = some c ∧ s.m.stwOwner u t = 0) ∧
  (let s : State := st { rm.set F.STW_CFG_LEND_EN [] 1 with wheel := { active := [(64, List.replicate 256 3)] } }; let t : Nat := 64; let u : Fin 154 := 64; wheelIdle s.m ∧ s.m.wheel.realign = false ∧ t % 32 = 0 ∧ s.m.ns ≤ t ∧ t % 8192 ≠ 0 ∧ s.m.stwOwner u t ≠ 0 ∧ s.m.flag F.STW_CFG_LEND_EN = true ∧ tget s.m.wheel.lent u.val ≠ some (t / 32)) := by
  repeat refine ⟨by (try simp only [Quiet, wheelIdle_iff, mayRun_iff]) <;> decide +kernel, ?_⟩
  all_goals (try simp only [Quiet, wheelIdle_iff, mayRun_iff]) <;> decide +kernel

theorem witness_PowerLossAndReturn :
  (let s : State := State.reset; let low : Nat := 0; Quiet s ∧ s.m.powered = false ∧ ((s.m.tripped = false ∨ 100 ≤ low))) ∧
  (let s : State := rd; let low : Nat := 0; Quiet s ∧ (s.m.powered = true ∨ (s.m.tripped = true ∧ low < 100))) ∧
  (let s : State := rd; s.m.powered = true) ∧
  (let s : State := rd; s.m.powered = true) ∧
  (let s : State := rd; s.m.powered = true) ∧
  (let s : State := State.reset; Quiet s ∧ s.m.powered = false) := by
  repeat refine ⟨by (try simp only [Quiet, wheelIdle_iff, mayRun_iff]) <;> decide +kernel, ?_⟩
  all_goals (try simp only [Quiet, wheelIdle_iff, mayRun_iff]) <;> decide +kernel

theorem witness_PowerBands :
  (let v : _ := 9000; 9000 ≤ v) ∧
  (let s : State := st { rs [(F.PWR_INPUT_BAND, [], 7), (F.PWR_INPUT_VIN_MV, [], 48000)] with pwr := { riseFrom := some 9 } }; let b : Nat := 7; let t : Nat := 9; Quiet s ∧ s.m.get F.PWR_INPUT_BAND = b ∧ 0 < b ∧ s.m.pwr.riseFrom = some t) ∧
  (let s : State := rd; Quiet s ∧ (s.m.get F.PWR_INPUT_BAND = 0 ∨ s.m.pwr.riseFrom = none)) ∧
  (let m : Mod := rs [(F.PWR_INPUT_BAND, [], 7)]; let v : Nat := 2^15; m.pwr.riseFrom = none ∧ m.get F.PWR_INPUT_BAND ≠ 0 ∧ bandLow (m.get F.PWR_INPUT_BAND - 1) + 1000 ≤ v) ∧
  (let b : Nat := 7; b < 8) ∧
  (let s : State := st { rs [] with pwr := { gates := [(0, { band := true })] } }; let k : Nat := 0; s.m.nextLift (·.band) = some k) ∧
  (let s : State := st { rs [(F.PWR_INPUT_VIN_MV, [], 48000)] with pwr := { lowFrom := some 9, gates := [(0, { cap := true })] } }; let k : Nat := 0; let t : Nat := 9; s.m.nextLift (·.cap) = some k ∧ s.m.pwr.lowFrom = some t) ∧
  (let s : State := st { rs [(F.PWR_INPUT_VIN_MV, [], 48000)] with pwr := { lowFrom := some 9, gates := [(0, { thermal := true })] } }; let k : Nat := 0; let t : Nat := 9; s.m.nextLift (·.thermal) = some k ∧ s.m.pwr.lowFrom = some t) ∧
  (let s : State := st (rs [(F.PWR_INPUT_POWER_W, [], 4095), (F.PWR_INPUT_VIN_MV, [], 9000)]); let c : Fin 3 := 2; Quiet s ∧ c ≠ 0 ∧ s.m.pwr.lowFrom = none) ∧
  (let m : Mod := { rm with pwr := { gates := [(11, { band := true })] } }; let k : Nat := 11; let f : Gates → Gates := fun g => { g with hot := true }; (m.gatesOf k).any = true ∧ (f (m.gatesOf k)).any = true) := by
  repeat refine ⟨by (try simp only [Quiet, wheelIdle_iff, mayRun_iff]) <;> decide +kernel, ?_⟩
  all_goals (try simp only [Quiet, wheelIdle_iff, mayRun_iff]) <;> decide +kernel

theorem witness_TempoLoop :
  (let s : State := rd; let c : Cmd := cmd 0x0008 [(0x100, leBytes 4 3500), (0x101, leBytes 4 1700)]; let p : Nat := 1; let q : Nat := 2; let v : List Byte := leBytes 4 3500; let w : List Byte := leBytes 4 1700; Quiet s ∧ mayRun s.m c 0x0008 [.tempo] ∧ c.tlv 0x100 = some (p, v) ∧ c.tlv 0x101 = some (q, w) ∧ tempoOk (leAt v 0 4) (leAt w 0 4) = true) ∧
  (let s : State := rd; let c : Cmd := cmd 0x0008 [(0x100, leBytes 4 1700)]; let p : Nat := 1; let v : List Byte := leBytes 4 1700; Quiet s ∧ mayRun s.m c 0x0008 [.tempo] ∧ c.tlv 0x100 = some (p, v) ∧ c.tlv 0x101 = none ∧ tempoOk (leAt v 0 4) (s.m.get F.PWR_TEMPO_TARGET_ALARM) = true) ∧
  (let s : State := rd; let c : Cmd := cmd 0x0008 [(0x100, leBytes 4 1699)]; let p : Nat := 1; let v : List Byte := leBytes 4 1699; Quiet s ∧ mayRun s.m c 0x0008 [.tempo] ∧ c.tlv 0x100 = some (p, v) ∧ tempoOk (leAt v 0 4) 0 = false) ∧
  (let s : State := rd; Quiet s) ∧
  (let limit : Nat := 850000; let r : Rail := {}; r.uv ≤ 850000 ∧ 600000 ≤ r.uv ∧ 600000 ≤ limit) ∧
  (let c : Nat := 850000; 600000 ≤ c ∧ c ≤ 850000) ∧
  (let k : Nat := 7; k < 8) ∧
  (let s : State := rd; let t : Nat := 8192; t % 8192 = 0 ∧ s.m.ns ≤ t ∧ s.m.powered = true) ∧
  (let s : State := rd; let t : Nat := 8191; Quiet s ∧ (t % 8192 ≠ 0 ∨ t < s.m.ns ∨ s.m.powered = false)) := by
  repeat refine ⟨by (try simp only [Quiet, wheelIdle_iff, mayRun_iff]) <;> decide +kernel, ?_⟩
  all_goals (try simp only [Quiet, wheelIdle_iff, mayRun_iff]) <;> decide +kernel

theorem witness_StartSequence :
  (let s : State := st { (({} : Mod).set F.GLB_START_PHASE [] 1) with powered := true }; s.m.powered = true ∧ s.m.phase = 1 ∧ s.m.chalk.journal.install = false) ∧
  (let s : State := st { (({} : Mod).set F.GLB_START_PHASE [] 1) with powered := true }; s.m.powered = true ∧ s.m.phase = 1 ∧ s.m.chalk.journal.install = false) ∧
  (let s : State := st { (({} : Mod).set F.GLB_START_PHASE [] 1) with powered := true, chalk := { journal := { valid := true, install := true, stageId := 3 } } }; s.m.powered = true ∧ s.m.phase = 1 ∧ s.m.chalk.journal.valid = true ∧ s.m.chalk.journal.install = true ∧ s.m.chalk.stageIntact = false) ∧
  (let s : State := st { (({} : Mod).set F.GLB_START_PHASE [] 2) with powered := true, chalk := { journal := { valid := true, blocks := 2, gen := 9 }, blocks := [(0, { state := .written, gen := 9, data := [1] }), (1, { state := .written, gen := 9, data := [2] })] } }; let n : Nat := 2; let f : List Byte := [1, 2]; s.m.powered = true ∧ s.m.phase = 2 ∧ s.m.chalk.journal.valid = true ∧ s.m.chalk.journal.blocks = n ∧ n ≤ 768 ∧ ((∀ b, b < n → s.m.chalk.header b = .written ∧ (tgetD s.m.chalk.blocks b {}).gen = s.m.chalk.journal.gen)) ∧ (List.range n).flatMap (fun b => (tgetD s.m.chalk.blocks b {}).data) = f) ∧
  (let code : Nat := 15; code < 16) ∧
  (let s : State := st { (({} : Mod).set F.GLB_START_PHASE [] 3) with powered := true }; s.m.powered = true ∧ s.m.phase = 3 ∧ s.m.chalk.dir.clearPending = false) ∧
  (let s : State := st { (({} : Mod).set F.GLB_START_PHASE [] 3) with powered := true, chalk := { dir := { clearPending := true }, bankA := { valid := true } } }; s.m.powered = true ∧ s.m.phase = 3 ∧ s.m.chalk.dir.clearPending = true) ∧
  (let m : Mod := rd.m; m.chalk.newest = none) ∧
  (let s : State := st { (({} : Mod).set F.GLB_START_PHASE [] 4) with powered := true }; s.m.powered = true ∧ s.m.phase = 4) ∧
  (let s : State := State.reset; Quiet s ∧ s.m.powered = false) := by
  repeat refine ⟨by (try simp only [Quiet, wheelIdle_iff, mayRun_iff]) <;> decide +kernel, ?_⟩
  all_goals (try simp only [Quiet, wheelIdle_iff, mayRun_iff]) <;> decide +kernel

theorem witness_ResetAndCommit :
  (let s : State := rd; let c : Cmd := cmd 0x0003; mayRun s.m c 0x0003) ∧
  (let s : State := rd; let c : Cmd := { cmd 0x0003 with src := .oob 15 }; let k : Nat := 15; mayRun s.m c 0x0003 ∧ c.src = .oob k) ∧
  (let s : State := rd; let c : Cmd := cmd 0x0006; let b : Nat := 0; Quiet s ∧ mayRun s.m c 0x0006 [.config] ∧ s.m.chalk.dir.clearPending = false ∧ b = (match s.m.chalk.newest with | some 0 => 1 | _ => 0)) ∧
  (let s : State := st { rm with chalk := { dir := { clearPending := true } } }; let c : Cmd := cmd 0x0006; Quiet s ∧ mayRun s.m c 0x0006 [.config] ∧ s.m.chalk.dir.clearPending = true) ∧
  (let s : State := rd; let c : Cmd := cmd 0x0007 [(0x100, leBytes 4 1)]; let v : Nat := 1; Quiet s ∧ mayRun s.m c 0x0007 [.config] ∧ leAt (c.val 0x100) 0 4 = v) := by
  repeat refine ⟨by (try simp only [Quiet, wheelIdle_iff, mayRun_iff]) <;> decide +kernel, ?_⟩
  all_goals (try simp only [Quiet, wheelIdle_iff, mayRun_iff]) <;> decide +kernel

theorem witness_ImageStaging_10 :
  (let s : State := st { rm with chalk := { stage := { id := 1, lastId := 1, length := 64, digest := (sha384 (List.replicate 64 0)).take 24, chunks := [(0, { crc := crcOf (List.replicate 64 0), data := List.replicate 64 0 })] } } }; let c : Cmd := cmd 0x0804; (sha384 s.m.chalk.stage.file).take 24 = s.m.chalk.stage.digest ∧ Quiet s ∧ mayRun s.m c 0x0804 [.stage] ∧ s.m.chalk.stage.isOpen = true ∧ s.m.chalk.stage.complete = true) :=
  ⟨rfl, by (try simp only [Quiet, wheelIdle_iff, mayRun_iff]) <;> decide +kernel⟩

theorem witness_ImageStaging :
  (let s : State := rd; let c : Cmd := cmd 0x0801 [(0x100, leBytes 4 50266112 ++ List.replicate 28 0)]; let n : Nat := 50266112; Quiet s ∧ mayRun s.m c 0x0801 [.stage] ∧ leAt (c.val 0x100) 0 4 = n ∧ lengthOk n = true ∧ s.m.chalk.stage.isOpen = false) ∧
  (let s : State := st { rm with chalk := { stage := { id := 1, lastId := 1, length := 64, digest := List.replicate 24 0 } } }; let c : Cmd := cmd 0x0801 [(0x100, leBytes 4 64 ++ List.replicate 28 0)]; let n : Nat := 64; Quiet s ∧ mayRun s.m c 0x0801 [.stage] ∧ leAt (c.val 0x100) 0 4 = n ∧ lengthOk n = true ∧ s.m.chalk.stage.isOpen = true ∧ s.m.chalk.stage.length = n ∧ s.m.chalk.stage.digest = slice (c.val 0x100) 4 24 ∧ bit (leAt (c.val 0x100) 28 1) 0 = false) ∧
  (let s : State := rd; let c : Cmd := cmd 0x0801 [(0x100, leBytes 4 63 ++ List.replicate 28 0)]; Quiet s ∧ mayRun s.m c 0x0801 [.stage] ∧ lengthOk (leAt (c.val 0x100) 0 4) = false) ∧
  (let s : State := st { rm with chalk := { stage := { id := 1, lastId := 1, length := 64, digest := List.replicate 24 0 } } }; let c : Cmd := cmd 0x0802 [(0x100, leBytes 4 1 ++ leBytes 8 0 ++ leBytes 4 (crcOf (List.replicate 64 0))), (0x101, List.replicate 64 0)]; let d : List Byte := List.replicate 64 0; let k : Nat := 0; let p : Nat := 2; Quiet s ∧ mayRun s.m c 0x0802 [.stage] ∧ c.buffer = none ∧ c.tlv 0x101 = some (p, d) ∧ s.m.chalk.stage.isOpen = true ∧ leAt (c.val 0x100) 0 4 = s.m.chalk.stage.id ∧ leAt (c.val 0x100) 4 2 = k ∧ k < chunksOf s.m.chalk.stage.length ∧ leAt (c.val 0x100) 8 4 = 0 ∧ 0 < d.length ∧ d.length = chunkLen s.m.chalk.stage.length k ∧ tget s.m.chalk.stage.chunks k = none ∧ tget s.m.img.pieces k = none ∧ s.m.img.pieces.length < 16 ∧ crcOf d = leAt (c.val 0x100) 12 4) ∧
  (let s : State := st { rm with chalk := { stage := { id := 1, lastId := 1, length := 64, digest := List.replicate 24 0, chunks := [(0, { crc := crcOf (List.replicate 64 0), data := List.replicate 64 0 })] } } }; let c : Cmd := cmd 0x0802 [(0x100, leBytes 4 1 ++ leBytes 8 0 ++ leBytes 4 (crcOf (List.replicate 64 0))), (0x101, List.replicate 64 0)]; let d : List Byte := List.replicate 64 0; let k : Nat := 0; let p : Nat := 2; let x : Chunk := { crc := crcOf (List.replicate 64 0), data := List.replicate 64 0 }; Quiet s ∧ mayRun s.m c 0x0802 [.stage] ∧ c.buffer = none ∧ c.tlv 0x101 = some (p, d) ∧ s.m.chalk.stage.isOpen = true ∧ leAt (c.val 0x100) 0 4 = s.m.chalk.stage.id ∧ leAt (c.val 0x100) 4 2 = k ∧ k < chunksOf s.m.chalk.stage.length ∧ leAt (c.val 0x100) 8 4 = 0 ∧ d.length = chunkLen s.m.chalk.stage.length k ∧ tget s.m.chalk.stage.chunks k = some x ∧ x.crc = leAt (c.val 0x100) 12 4) ∧
  (let s : State := rd; let c : Cmd := cmd 0x0803; Quiet s ∧ mayRun s.m c 0x0803) ∧
  (let s : State := st { rm with chalk := { stage := { id := 1, lastId := 1, length := 64, digest := List.replicate 24 0 } } }; let c : Cmd := cmd 0x0806; Quiet s ∧ mayRun s.m c 0x0806 [.stage, .image]) ∧
  ((let m : Mod := { rm with cut := { pool := [{ cmd := { cmd 0x0804 with mid := 0x1000 }, stage := .executing, objs := [.stage] }] } }; m.holder (asOp (cmd 0x0806) 0x0806) [.stage, .image] = some true)) ∧
  ((let m : Mod := { rm with cut := { pool := [{ cmd := { cmd 0x0804 with mid := 0x1001 }, stage := .executing, objs := [.stage] }] } }; m.holder (asOp (cmd 0x0806) 0x0806) [.stage, .image] = some false)) ∧
  (let s : State := rd; let c : Cmd := cmd 0x0806; Quiet s ∧ s.m.cmdCheck (asOp c 0x0806) = none) ∧
  (let x : Staging := {}; x.isOpen = false) ∧
  (let s : State := rd; let c : Cmd := cmd 0x0807; Quiet s ∧ mayRun s.m c 0x0807) := by
  repeat refine ⟨by (try simp only [Quiet, wheelIdle_iff, mayRun_iff]) <;> decide +kernel, ?_⟩
  all_goals (try simp only [Quiet, wheelIdle_iff, mayRun_iff]) <;> decide +kernel

theorem witness_ImageInstall :
  (let s : State := rd; let c : Cmd := cmd 0x0805 [(0x100, [0, 0, 0, 0])]; Quiet s ∧ mayRun s.m c 0x0805 [.image, .stage] ∧ s.m.img.resetAfter = false ∧ (s.m.chalk.stage.isOpen = false ∨ s.m.chalk.stage.verified = false)) ∧
  (let s : State := st { rm with chalk := { stage := { id := 1, lastId := 1, length := 64, verified := true, digest := List.replicate 24 0, chunks := [(0, { crc := crcOf (List.replicate 64 0), data := List.replicate 64 0 })] } } }; let c : Cmd := cmd 0x0805 [(0x100, [0, 0, 0, 0])]; mayRun s.m c 0x0805 [.image, .stage] ∧ s.m.img.resetAfter = false ∧ s.m.chalk.stage.isOpen = true ∧ s.m.chalk.stage.verified = true ∧ s.m.chalk.stage.complete = true ∧ (s.m.chalk.stage.chunks.any fun k => crcOf k.2.data ≠ k.2.crc) = false ∧ bit (leAt (c.val 0x100) 0 4) 0 = false) ∧
  (let s : State := st { rm with chalk := { stage := { id := 1, lastId := 1, length := 64, verified := true, digest := List.replicate 24 0, chunks := [(0, { crc := crcOf (List.replicate 64 0), data := List.replicate 64 0 })] } } }; let c : Cmd := cmd 0x0805 [(0x100, [0, 0, 0, 0])]; let k : Nat := 2; mayRun s.m c 0x0805 [.image, .stage] ∧ s.m.img.resetAfter = false ∧ s.m.chalk.stage.isOpen = true ∧ s.m.chalk.stage.verified = true ∧ s.m.chalk.stage.complete = true ∧ (s.m.chalk.stage.chunks.any fun k => crcOf k.2.data ≠ k.2.crc) = false) ∧
  (let c : Chalk := { stage := { id := 1, lastId := 1, length := 64, verified := true, digest := List.replicate 24 0, chunks := [(0, { crc := crcOf (List.replicate 64 0), data := List.replicate 64 0 })] } }; ((∀ k, k < chunksOf c.stage.length → ∃ x, tget c.stage.chunks k = some x ∧ crcOf x.data = x.crc))) ∧
  (let k : Nat := 1; 0 < k) := by
  repeat refine ⟨by (try simp only [Quiet, wheelIdle_iff, mayRun_iff]) <;> decide +kernel, ?_⟩
  all_goals (try simp only [Quiet, wheelIdle_iff, mayRun_iff]) <;> decide +kernel

theorem witness_TimeSources :
  (let s : State := rd; let n : Fin 96 := 95; Quiet s ∧ tget s.m.tl.good (srcKey 1 n) = none) ∧
  (let s : State := rd; let n : Fin 96 := 95; let ql : Fin 16 := 2; Quiet s ∧ ql ≠ 15 ∧ tget s.m.tl.good (srcKey 1 n) = none) ∧
  (let s : State := rd; Quiet s) ∧
  (let s : State := st { rm with tl := { ppsTod := { lastEdge := some 0 } } }; let stamp : Nat := secUnit; let v : Nat := secUnit; stamp / 8192 * 8192 - s.m.ppsComp = v) ∧
  (let s : State := st { rm with tl := { ppsTod := { waits := true, onTime := true, lastEdge := some secUnit, lastSec := some 7 } } }; let bs : List Byte := (todWrap (ascii "KTOD,8,37,0,0")); let t : Nat := 1001000000; let e : Nat := secUnit; let l : Nat := 7; let sec : Int := 8; let off : Int := 37; let leap : Int := 0; let q : Int := 0; s.m.tl.ppsTod.waits = true ∧ s.m.tl.ppsTod.onTime = true ∧ s.m.tl.ppsTod.lastEdge = some e ∧ s.m.tl.ppsTod.lastSec = some l ∧ todParse bs = some (sec, off, leap, q) ∧ sec = l + 1 ∧ s.m.now ≤ t * nsUnit ∧ e + 1000000 * nsUnit ≤ t * nsUnit ∧ t * nsUnit ≤ e + 500000000 * nsUnit) ∧
  (let s : State := st { rm with tl := { ppsTod := { waits := true } } }; let bs : List Byte := []; s.m.tl.ppsTod.waits = true ∧ todParse bs = none) ∧
  (let m : Mod := { rs [(F.TPL_STATE_PHASE_SRC_VALID, [], 1), (F.TPL_STATE_SERVO, [], 2)] with tl := { good := [(0, 5)] } }; let key : Nat := 0; let k : Nat := 0; let g : Nat := 5; tget m.tl.good key = some g ∧ m.phaseSrc = some k ∧ m.srcOf k = key ∧ m.servo = 2) ∧
  (let s : State := st (rs [(F.TPL_STATE_SERVO, [], 3)]); let t : Nat := 10000000000000000; s.m.servo = 3 ∧ s.m.now ≤ t * nsUnit ∧ s.m.tl.holdAt + s.m.get F.TPL_CFG_HOLD_MAX_MIN * 60 * secUnit ≤ t * nsUnit) ∧
  (let s : State := st (rs [(F.TPL_STATE_PHASE_SRC_VALID, [], 1), (F.TPL_STATE_SERVO, [], 1)]); let k : Nat := 0; let off : Int := 3; s.m.phaseSrc = some k ∧ s.m.servo = 1 ∧ (off - s.m.asymmetry k).natAbs ≤ s.m.get F.TPL_CFG_STEP_NS * nsUnit ∧ (off - s.m.asymmetry k).natAbs ≤ s.m.get F.TPL_CFG_LOCK_NS * nsUnit) ∧
  (let s : State := st (rs [(F.TPL_STATE_PHASE_SRC_VALID, [], 1), (F.TPL_STATE_SERVO, [], 1)]); let t : Nat := 5000000000; let k : Nat := 0; let off : Int := 2000000000 * nsUnit; s.m.phaseSrc = some k ∧ s.m.servo = 1 ∧ s.m.now ≤ t * nsUnit ∧ s.m.get F.TPL_CFG_STEP_NS * nsUnit < (off - s.m.asymmetry k).natAbs) ∧
  (let s : State := st (rs [(F.TPL_STATE_PHASE_SRC_VALID, [], 1), (F.TPL_STATE_SERVO, [], 2)]); let k : Nat := 0; let off : Int := 2000000000 * nsUnit; s.m.phaseSrc = some k ∧ s.m.servo = 2 ∧ s.m.get F.TPL_CFG_STEP_NS * nsUnit < (off - s.m.asymmetry k).natAbs) ∧
  (let s : State := rd; Quiet s ∧ (s.m.phaseSrc = none ∨ s.m.servo = 0 ∨ s.m.servo = 3)) ∧
  (let s : State := st { rm with tl := { readyAt := some 0 }, chalk := { golide := [{ seq := 1, endTime := 100, bytes := [] }] } }; let t : Nat := 10000000000; let r : Nat := 0; let g : GolideRec := { seq := 1, endTime := 100, bytes := [] }; let gs : List GolideRec := []; s.m.tl.readyAt = some r ∧ s.m.tl.timeSet = false ∧ s.m.now ≤ t * nsUnit ∧ r + 10 * secUnit ≤ t * nsUnit ∧ s.m.chalk.golide = g :: gs) ∧
  (let s : State := st { rm with tl := { readyAt := some 0 } }; let t : Nat := 10000000000; let r : Nat := 0; Quiet s ∧ s.m.tl.readyAt = some r ∧ s.m.tl.timeSet = false ∧ r + 10 * secUnit ≤ t * nsUnit ∧ s.m.chalk.golide = []) := by
  repeat refine ⟨by (try simp only [Quiet, wheelIdle_iff, mayRun_iff]) <;> decide +kernel, ?_⟩
  all_goals (try simp only [Quiet, wheelIdle_iff, mayRun_iff]) <;> decide +kernel

theorem witness_TimeSelection :
  (let m : Mod := rs [(F.TPL_SRC_ENABLE, [15], 1), (F.TPL_SRC_QUALIFIED, [15], 1), (F.TPL_SRC_USE_PHASE, [15], 1)]; let k : Nat := 15; let gone : List Nat := [77]; m.choose true none gone = some k) ∧
  (let m : Mod := { rs [(F.TPL_SRC_ENABLE, [15], 1), (F.TPL_SRC_QUALIFIED, [15], 1), (F.TPL_SRC_USE_PHASE, [15], 1)] with now := 1000, tl := { lossSrc := some (15, (rs [(F.TPL_SRC_ENABLE, [15], 1), (F.TPL_SRC_QUALIFIED, [15], 1), (F.TPL_SRC_USE_PHASE, [15], 1)]).srcOf 15, 999), good := [((rs [(F.TPL_SRC_ENABLE, [15], 1), (F.TPL_SRC_QUALIFIED, [15], 1), (F.TPL_SRC_USE_PHASE, [15], 1)]).srcOf 15, 999)] } }; let k : Nat := 15; let gone : List Nat := []; m.returned gone = some k) ∧
  (let k : Nat := 15; k < 16) ∧
  (let k : Nat := 15; k < 16) ∧
  (let s : State := rd; let t : Nat := 125000000; let offs : Tab Int := []; let m0 : Mod := (s.m.runToNs t).ptpInit.sourceTests; let m : Mod := ((m0.applyLosses.setTl fun x => { x with changes := [] }).applyGains.selectAt offs m0.tl.losses).applyStatus; s.m.tl.changes = [] ∧ m0 = (s.m.runToNs t).ptpInit.sourceTests ∧ m = (((m0.applyLosses.setTl fun x => { x with changes := [] }).applyGains.selectAt offs m0.tl.losses).applyStatus) ∧ m.servo ≠ 2 ∧ m.verdict = m.traceable) ∧
  (let s : State := st { rm with tl := { changes := [⟨some (cmd 0x0402), [], none⟩] } }; let c : Cmd := cmd 0x0402; s.m.tl.changes = [⟨some c, [], none⟩] ∧ ((∀ e ∈ s.m.cut.pool, e.cmd = c → e.dead = false))) ∧
  (let s : State := rd; let c : Cmd := cmd 0x0402 [(0x100, leBytes 1 15 ++ [0, 0, 0] ++ leBytes 4 0x10053)]; let q : Nat := 1; let k : Nat := 15; let w : Nat := 0x10053; Quiet s ∧ mayRun s.m c 0x0402 [.timeSources] ∧ s.m.isMember = false ∧ c.all 0x100 = [(q, leBytes 1 k ++ [0, 0, 0] ++ leBytes 4 w)] ∧ k < 16 ∧ w < 2 ^ 32 ∧ bits w 1 3 ≤ 4 ∧ srcTableOk (s.m.srcTableNext.set k w) = true) ∧
  (let s : State := rd; let c : Cmd := cmd 0x0402 [(0x100, leBytes 1 15 ++ [0, 0, 0] ++ leBytes 4 10)]; let q : Nat := 1; let k : Nat := 15; let w : Nat := 10; Quiet s ∧ mayRun s.m c 0x0402 [.timeSources] ∧ c.all 0x100 = [(q, leBytes 1 k ++ [0, 0, 0] ++ leBytes 4 w)] ∧ k < 256 ∧ w < 2 ^ 32 ∧ (15 < k ∨ 4 < bits w 1 3)) := by
  repeat refine ⟨by (try simp only [Quiet, wheelIdle_iff, mayRun_iff]) <;> decide +kernel, ?_⟩
  all_goals (try simp only [Quiet, wheelIdle_iff, mayRun_iff]) <;> decide +kernel

theorem witness_TimeService :
  (let s : State := rd; let n : Fin 96 := 95; let msg : PtpMsg := .ignored; Quiet s ∧ (s.m.ptpOn n = false ∨ PtpMsg.domainOf msg ≠ some (s.m.get F.TPL_PTP_CFG_DOMAIN))) ∧
  (let s : State := st (rs [(F.TPL_PTP_CFG_ENABLE, [], 1), (F.TPL_PTP_PORT_ENABLE, [95], 1)]); let n : Fin 96 := 95; let d : AnnounceData := { gmIdentity := 9, priority1 := 1, clockClass := 6, accuracy := 0x20, variance := 1, priority2 := 1, stepsRemoved := 0, utcOffset := 37, utcValid := true, leap61 := false, leap59 := false, timeTraceable := true, freqTraceable := true, domain := rm.get F.TPL_PTP_CFG_DOMAIN }; s.m.ptpOn n = true ∧ d.domain = s.m.get F.TPL_PTP_CFG_DOMAIN) ∧
  (let s : State := st { rs [(F.TPL_PTP_CFG_ENABLE, [], 1), (F.TPL_PTP_PORT_ENABLE, [95], 1)] with tl := { ptp := { parent := some 95 } } }; let n : Fin 96 := 95; let d : Nat := s.m.get F.TPL_PTP_CFG_DOMAIN; s.m.ptpOn n = true ∧ d = s.m.get F.TPL_PTP_CFG_DOMAIN ∧ s.m.tl.ptp.parent = some n.val) ∧
  (let s : State := st (rs [(F.TPL_PTP_CFG_ENABLE, [], 1), (F.TPL_PTP_PORT_ENABLE, [95], 1), (F.TPL_PTP_PORT_PORT_STATE, [95], 6)]); let n : Fin 96 := 95; let d : Nat := s.m.get F.TPL_PTP_CFG_DOMAIN; Quiet s ∧ s.m.ptpOn n = true ∧ d = s.m.get F.TPL_PTP_CFG_DOMAIN ∧ s.m.get F.TPL_PTP_PORT_PORT_STATE [n.val] = 6) ∧
  (let s : State := st (rs [(F.TPL_PTP_CFG_ENABLE, [], 1), (F.TPL_PTP_PORT_ENABLE, [95], 1), (F.TPL_PTP_CFG_PROFILE, [], 1)]); let n : Fin 96 := 95; let d : Nat := s.m.get F.TPL_PTP_CFG_DOMAIN; let t : Nat := 1000000000; Quiet s ∧ s.m.ptpOn n = true ∧ d = s.m.get F.TPL_PTP_CFG_DOMAIN ∧ s.m.get F.TPL_PTP_CFG_PROFILE = 1 ∧ s.m.tl.ptp.grants = [] ∧ s.m.now ≤ t * nsUnit) ∧
  (let m : Mod := { rs [(F.TPL_PTP_CFG_ENABLE, [], 1), (F.TPL_PTP_PORT_ENABLE, [95], 1), (F.PRT_STATUS_SUB_STATE, [95], 4)] with tl := { ptp := { foreign := [(95, { ds := { gmIdentity := 9, priority1 := 1, clockClass := 6, accuracy := 0x20, variance := 1, priority2 := 1, stepsRemoved := 0, utcOffset := 37, utcValid := true, leap61 := false, leap59 := false, timeTraceable := true, freqTraceable := true, domain := rm.get F.TPL_PTP_CFG_DOMAIN }, count := 2 })] } } }; let n : Nat := 95; m.bmca.tl.ptp.parent = some n) ∧
  (let n : Nat := 95; n < 96) ∧
  (let s : State := rd; let c : Cmd := cmd 0x0403 [(0x100, leBytes 1 96 ++ [0, 0, 0] ++ leBytes 8 5)]; let q : Nat := 1; let p : Nat := s.m.get F.TPL_PTP_CFG_PROFILE; let n : Nat := 96; let v : Nat := 5; Quiet s ∧ mayRun s.m c 0x0403 (ptpObjs c) ∧ c.all 0x100 = [(q, leBytes 1 n ++ [0, 0, 0] ++ leBytes 8 v)] ∧ n < 256 ∧ v < 2 ^ 64 ∧ s.m.get F.TPL_PTP_CFG_PROFILE = p ∧ c.tlv 0x101 = none ∧ (95 < n ∨ ptpPortOk p v = false ∨ s.m.subCount n ≤ bits v 1 3)) ∧
  (let s : State := rd; let c : Cmd := cmd 0x0403 [(0x100, leBytes 1 95 ++ [0, 0, 0] ++ leBytes 8 (1 + 128 * 2 ^ 8 + 0xC * 2 ^ 16 + 0xC * 2 ^ 20 + 0xD * 2 ^ 24))]; let q : Nat := 1; let p : Nat := s.m.get F.TPL_PTP_CFG_PROFILE; let n : Nat := 95; let v : Nat := (1 + 128 * 2 ^ 8 + 0xC * 2 ^ 16 + 0xC * 2 ^ 20 + 0xD * 2 ^ 24); mayRun s.m c 0x0403 (ptpObjs c) ∧ c.all 0x100 = [(q, leBytes 1 n ++ [0, 0, 0] ++ leBytes 8 v)] ∧ n < 96 ∧ v < 2 ^ 64 ∧ s.m.get F.TPL_PTP_CFG_PROFILE = p ∧ c.tlv 0x101 = none ∧ ptpPortOk p v = true ∧ bits v 1 3 < s.m.subCount n) ∧
  (let m : Mod := rd.m; let n : Nat := 95; let v : Nat := 0x8001; (m.linkAt n (bits v 1 3)).isSome = false) ∧
  (let s : State := st { rm with tl := { leapNew := some 38 } }; let t : Nat := 5; let new : Int := 38; s.m.tl.leapNew = some new ∧ s.m.now ≤ t * nsUnit ∧ s.m.get F.TPL_UTC_LEAP_AT ≤ secOf (t * nsUnit) % 2 ^ 32) ∧
  (let s : State := rd; Quiet s ∧ s.m.tl.leapNew = none) ∧
  (let s : State := st (rs [(F.TPL_STATE_TRACEABLE, [], 1)]); let c : Cmd := cmd 0x0405 [(0x100, leBytes 4 0x6A)]; let v : Nat := 0x6A; Quiet s ∧ mayRun s.m c 0x0405 [.policy] ∧ leAt (c.val 0x100) 0 4 = v ∧ policyOk v = true ∧ s.m.traceable = true) ∧
  (let s : State := rd; let c : Cmd := cmd 0x0405 [(0x100, leBytes 4 3)]; Quiet s ∧ mayRun s.m c 0x0405 [.policy] ∧ policyOk (leAt (c.val 0x100) 0 4) = false) ∧
  (let s : State := rd; let c : Cmd := cmd 0x0405 [(0x100, leBytes 4 64)]; mayRun s.m c 0x0405 [.policy] ∧ policyOk (leAt (c.val 0x100) 0 4) = true ∧ s.m.traceable = false ∧ bit (leAt (c.val 0x100) 0 4) 6 = true) ∧
  (let s : State := rd; let c : Cmd := cmd 0x0401; let t : Nat := 99; Quiet s ∧ mayRun (s.m.runTo t) c 0x0401) ∧
  (let s : State := rd; let c : Cmd := { cmd 0x0404 with src := .oob 0 }; Quiet s ∧ mayRun s.m c 0x0404 ∧ s.m.servo ≠ 3 ∧ s.m.tl.offsets = [] ∧ 256 < c.src.limit) ∧
  (let s : State := rd; let c : Cmd := { cmd 0x0404 with src := .mailbox 0 }; let ch : Nat := 0; Quiet s ∧ mayRun s.m c 0x0404 ∧ c.src = .mailbox ch) ∧
  (let s : State := rd; let min : Nat := 1; s.m.phase = 5 ∧ s.m.now ≤ min * 60 * secUnit) ∧
  (let m : Mod := { rm with wheel := { chalkq := [.golide { seq := 4, endTime := 100, bytes := List.replicate 128 0 } false, .golide { seq := 4, endTime := 100, bytes := List.replicate 128 0 } true] } }; let r : GolideRec := { seq := 4, endTime := 100, bytes := List.replicate 128 0 }; let ws : List ChalkWrite := []; m.wheel.chalkq = .golide r false :: .golide r true :: ws) ∧
  (let s : State := st (rm.set F.GLB_START_PHASE [] 4); let min : Nat := 1; Quiet s ∧ s.m.phase ≠ 5 ∧ s.m.now ≤ min * 60 * secUnit) ∧
  (let s : State := st { rm with now := 61 * secUnit }; let min : Nat := 1; Quiet s ∧ min * 60 * secUnit < s.m.now) ∧
  (let s : State := st { rm with chalk := { golide := [{ seq := 4, endTime := 100, bytes := List.replicate 128 0 }], golideNext := 5 } }; let c : Cmd := cmd 0x0406 [(0x100, leBytes 4 4 ++ leBytes 4 1)]; let r : GolideRec := { seq := 4, endTime := 100, bytes := List.replicate 128 0 }; Quiet s ∧ mayRun s.m c 0x0406 ∧ s.m.chalk.golide = [r] ∧ s.m.chalk.golideNext = r.seq + 1 ∧ leAt (c.val 0x100) 0 4 = r.seq ∧ leAt (c.val 0x100) 4 4 = 1 ∧ c.buffer = none) ∧
  (let s : State := rd; let c : Cmd := cmd 0x0406 [(0x100, leBytes 4 0 ++ leBytes 4 65536)]; Quiet s ∧ mayRun s.m c 0x0406 ∧ leAt (c.val 0x100) 4 4 ≠ 0 ∧ leAt (c.val 0x100) 4 4 ≤ 65536 ∧ s.m.chalk.golideNext ≤ leAt (c.val 0x100) 0 4) ∧
  (let s : State := rd; Quiet s) := by
  repeat refine ⟨by (try simp only [Quiet, wheelIdle_iff, mayRun_iff]) <;> decide +kernel, ?_⟩
  all_goals (try simp only [Quiet, wheelIdle_iff, mayRun_iff]) <;> decide +kernel

theorem witness_TimeOutputs_6 :
  (let s : State := st (rs [(F.PIN_CFG_FUNC, [23], 2)]); let c : Cmd := cmd 0x0408 [(0x100, leBytes 1 7 ++ [0, 0, 0] ++ leBytes 8 (1 + 23 * 2 + 500000 * 64))]; let q : Nat := 1; let j : Nat := 7; let v : Nat := (1 + 23 * 2 + 500000 * 64); ((∀ vs, vs = (List.range 8).map (fun i => if i = j then v else s.m.stored .TCK_PPS_OUT [i]) → s.m.ppsTableOk vs = true)) ∧ Quiet s ∧ mayRun s.m c 0x0408 ((c.all 0x100).map fun t => .pps (leAt t.2 0 1)) ∧ c.all 0x100 = [(q, leBytes 1 j ++ [0, 0, 0] ++ leBytes 8 v)] ∧ j < 8 ∧ v < 2 ^ 64 ∧ ppsOk v = true) :=
  ⟨by intro vs h; subst h; decide +kernel, by (try simp only [Quiet, wheelIdle_iff, mayRun_iff]) <;> decide +kernel⟩

theorem witness_TimeOutputs :
  (let s : State := st (rs [(F.TCK_PPS_OUT_ENABLE, [7], 1), (F.TPL_LOSS_POLICY_PPS, [], 0)]); let j : Fin 8 := 7; let k : Nat := 5; let now : Nat := ((s.m.now + (5 * secUnit : Nat) - s.m.ppsLead 7 : Int)).toNat; Quiet s ∧ s.m.flag F.TCK_PPS_OUT_ENABLE [j.val] = true ∧ (s.m.flag F.TPL_LOSS_POLICY_PPS = false ∨ s.m.traceable = true) ∧ (k * secUnit : Nat) - s.m.ppsLead j = (now : Int) ∧ s.m.now ≤ now ∧ tget s.m.tack.ppsHigh j = none) ∧
  (let s : State := st (rs [(F.TCK_PPS_OUT_ENABLE, [7], 1), (F.TPL_LOSS_POLICY_PPS, [], 1)]); let j : Fin 8 := 7; let k : Nat := 5; let now : Nat := ((s.m.now + (5 * secUnit : Nat) - s.m.ppsLead 7 : Int)).toNat; Quiet s ∧ s.m.flag F.TCK_PPS_OUT_ENABLE [j.val] = true ∧ s.m.flag F.TPL_LOSS_POLICY_PPS = true ∧ s.m.traceable = false ∧ (k * secUnit : Nat) - s.m.ppsLead j = (now : Int) ∧ s.m.now ≤ now ∧ tget s.m.tack.ppsHigh j = none) ∧
  (let s : State := st { rm with now := secUnit }; let j : Fin 8 := 7; let k : Nat := 0; Quiet s ∧ (k * secUnit : Nat) - s.m.ppsLead j < s.m.now) ∧
  (let s : State := st { rm with tack := { ppsHigh := [(7, 3)] } }; let j : Fin 8 := 7; let x : Nat := 3; Quiet s ∧ tget s.m.tack.ppsHigh j = some x) ∧
  (let s : State := rd; let j : Fin 8 := 7; Quiet s ∧ tget s.m.tack.ppsHigh j = none) ∧
  (let s : State := rd; Quiet s) ∧
  (let s : State := rd; let c : Cmd := cmd 0x0408 [(0x100, leBytes 1 8 ++ [0, 0, 0] ++ leBytes 8 (1 + 23 * 2 + 500000 * 64))]; let q : Nat := 1; let j : Nat := 8; let v : Nat := (1 + 23 * 2 + 500000 * 64); Quiet s ∧ mayRun s.m c 0x0408 ((c.all 0x100).map fun t => .pps (leAt t.2 0 1)) ∧ c.all 0x100 = [(q, leBytes 1 j ++ [0, 0, 0] ++ leBytes 8 v)] ∧ j < 256 ∧ v < 2 ^ 64 ∧ (7 < j ∨ ppsOk v = false)) ∧
  (let s : State := st (rs [(F.SEL_EP_STATUS_PRESENT, epIx 31, 1), (F.SEL_EP_STATUS_LINK_UP, epIx 31, 1), (F.TCK_HOST_CFG_PTM_EN, [31], 1), (F.TCK_HOST_STATUS_PTM_ENABLED, [31], 1)]); let e : Fin 32 := 31; Quiet s ∧ s.m.ptmOn e = true ∧ (s.m.ptmOf e).outstanding = none) ∧
  (let s : State := rd; let e : Fin 32 := 31; Quiet s ∧ s.m.ptmOn e = false) ∧
  (let s : State := st { rs [(F.SEL_EP_STATUS_PRESENT, epIx 31, 1), (F.SEL_EP_STATUS_LINK_UP, epIx 31, 1), (F.TCK_HOST_CFG_PTM_EN, [31], 1), (F.TCK_HOST_STATUS_PTM_ENABLED, [31], 1)] with tack := { ptm := [(31, { outstanding := some 4, last := some (1, 2) })] } }; let e : Fin 32 := 31; let stamp : Nat := 10000 * nsUnit + 4; let x : Nat := 4; let l : Nat × Nat := (1, 2); Quiet s ∧ s.m.ptmOn e = true ∧ (s.m.ptmOf e).outstanding = some x ∧ s.m.now ≤ stamp ∧ stamp ≤ x + 10000 * nsUnit ∧ (s.m.ptmOf e).last = some l) ∧
  (let s : State := st { rs [(F.SEL_EP_STATUS_PRESENT, epIx 31, 1), (F.SEL_EP_STATUS_LINK_UP, epIx 31, 1), (F.TCK_HOST_CFG_PTM_EN, [31], 1), (F.TCK_HOST_STATUS_PTM_ENABLED, [31], 1)] with tack := { ptm := [(31, { outstanding := some 4 })] } }; let e : Fin 32 := 31; let stamp : Nat := 10000 * nsUnit + 4; let x : Nat := 4; Quiet s ∧ s.m.ptmOn e = true ∧ (s.m.ptmOf e).outstanding = some x ∧ s.m.now ≤ stamp ∧ stamp ≤ x + 10000 * nsUnit ∧ (s.m.ptmOf e).last = none) ∧
  (let s : State := st { rs [(F.SEL_EP_STATUS_PRESENT, epIx 31, 1), (F.SEL_EP_STATUS_LINK_UP, epIx 31, 1)] with tack := { ptm := [(31, { outstanding := some 4 })] } }; let e : Fin 32 := 31; let x : Nat := 4; Quiet s ∧ (s.m.ptmOf e).outstanding = some x) ∧
  ((({} : Mod).ptmOf 31).samples.length < 4) ∧
  (4 ≤ (({ tack := { ptm := [(31, { samples := List.replicate 4 (1, 2, 3), validRun := 64 })] } } : Mod).ptmOf 31).samples.length) ∧
  (let s : State := rd; let c : Cmd := { cmd 0x0407 [(0x100, leBytes 8 0x1000 ++ leBytes 4 0 ++ leBytes 4 1)] with mid := 0x1000 }; let o : Nat := 4096; let f : Fn := s.m.ownerFn o; Quiet s ∧ mayRun s.m c 0x0407 (s.m.ownerObjs c) ∧ s.m.cmdOwner c = some o ∧ s.m.ownerFn o = f ∧ bit (leAt (c.val 0x100) 12 4) 0 = true ∧ leAt (c.val 0x100) 0 8 % 128 = 0 ∧ bit (leAt (c.val 0x100) 8 4) 31 = false ∧ s.m.tack.pairs = []) ∧
  (let s : State := rd; let c : Cmd := { cmd 0x0407 [(0x100, leBytes 8 0x1000 ++ leBytes 4 0 ++ leBytes 4 0)] with mid := 0x1000 }; let o : Nat := 4096; Quiet s ∧ mayRun s.m c 0x0407 (s.m.ownerObjs c) ∧ s.m.cmdOwner c = some o ∧ bit (leAt (c.val 0x100) 12 4) 0 = false) ∧
  (let s : State := st { rm with now := 2000001 * nsUnit }; let k : Nat := 1; Quiet s ∧ k * 1000000 < s.m.ns) ∧
  (let s : State := st { rs [(F.SEL_EP_STATUS_PRESENT, epIx 31, 1), (F.SEL_EP_STATUS_LINK_UP, epIx 31, 1)] with tack := { pairs := [(pf 31, { addr := 0x1000, pasid := none })] } }; let k : Nat := 1; let f : Fn := pf 31; let p : TimePair := { addr := 0x1000, pasid := none }; s.m.ns ≤ k * 1000000 ∧ s.m.tack.pairs = [(f, p)] ∧ s.m.issues f = true ∧ p.seq % 2 = 0 ∧ p.seq < 2 ^ 32) ∧
  (let s : State := st { rm with tack := { pairs := [(pf 31, { addr := 0x1000, pasid := none })] } }; let k : Nat := 1; let f : Fn := pf 31; let p : TimePair := { addr := 0x1000, pasid := none }; s.m.ns ≤ k * 1000000 ∧ s.m.tack.pairs = [(f, p)] ∧ s.m.issues f = false) := by
  repeat refine ⟨by (try simp only [Quiet, wheelIdle_iff, mayRun_iff]) <;> decide +kernel, ?_⟩
  all_goals (try simp only [Quiet, wheelIdle_iff, mayRun_iff]) <;> decide +kernel

theorem witness_PortEvents :
  (let s : State := rd; let n : Fin 96 := 95; let k : Fin 8 := 7; Quiet s ∧ s.m.subState n k ≠ 4) ∧
  (let s : State := st (rs [(F.PRT_STATUS_SUB_STATE, [95], 4 * 8 ^ 7)]); let n : Fin 96 := 95; let k : Fin 8 := 7; Quiet s ∧ s.m.subState n k = 4) ∧
  (let s : State := st (rs [(F.PRT_STATUS_SUB_STATE, [95], 4 * 8 ^ 7)]); let n : Fin 96 := 95; let k : Fin 8 := 7; let d : List Byte := List.replicate 59 0; Quiet s ∧ s.m.subState n k = 4 ∧ d.length < 60) ∧
  (let s : State := st (rs [(F.PRT_STATUS_SUB_STATE, [95], 4 * 8 ^ 7), (F.PRT_CFG_MAX_FRAME, [95], 1518)]); let n : Fin 96 := 95; let k : Fin 8 := 7; let d : List Byte := List.replicate 1515 0; Quiet s ∧ s.m.subState n k = 4 ∧ 60 ≤ d.length ∧ s.m.get F.PRT_CFG_MAX_FRAME [n.val] < d.length + 4) ∧
  (let s : State := st (rs [(F.PRT_STATUS_SUB_STATE, [95], 4 * 8 ^ 7)]); let n : Fin 96 := 95; let k : Fin 8 := 7; let d : List Byte := List.replicate 60 0; Quiet s ∧ s.m.subState n k = 4 ∧ s.m.macFault n (d.length + 4) true = none ∧ pfcOf d = none ∧ isPause d = false ∧ s.m.macRx n k = false ∧ s.m.linkAt n k = none) ∧
  (let s : State := st (rs [(F.PRT_STATUS_SUB_STATE, [95], 4 * 8 ^ 7)]); let n : Fin 96 := 95; let k : Fin 8 := 7; let d : List Byte := List.replicate 60 0; s.m.subState n k = 4 ∧ s.m.macFault n (d.length + 4) true = none ∧ pfcOf d = none ∧ isPause d = false ∧ s.m.macRx n k = false ∧ s.m.linkAt n k = none) ∧
  (let s : State := st (rs [(F.PRT_STATUS_SUB_STATE, [95], 4 * 8 ^ 7)]); let n : Fin 96 := 95; let k : Fin 8 := 7; let d : List Byte := (List.replicate 12 0 ++ [0x88, 0x08, 0x01, 0x01, 0x00, 0x08] ++ List.replicate 6 0 ++ [0x01, 0x00] ++ List.replicate 36 0); let ps : List (Nat × Nat) := (pfcOf d).getD []; s.m.subState n k = 4 ∧ s.m.macFault n (d.length + 4) true = none ∧ pfcOf d = some ps ∧ s.m.linkAt n k = none) ∧
  (let s : State := st (rs [(F.PRT_STATUS_SUB_STATE, [95], 3), (F.PRT_STATUS_LANE_LOCK, [95], 127)]); let n : Fin 96 := 95; let lanes : Fin 256 := 128; let k : Nat := 0; k < s.m.subCount n ∧ s.m.subState n k = 3 ∧ (∀ l ∈ s.m.lanes n k, bit (s.m.get F.PRT_STATUS_LANE_LOCK [n.val] ||| lanes.val) l = true)) ∧
  (let s : State := st (rs [(F.PRT_STATUS_SUB_STATE, [95], 4)]); let n : Fin 96 := 95; let lanes : Fin 256 := 128; let k : Nat := 0; let l : Nat := 7; k < s.m.subCount n ∧ s.m.subState n k = 4 ∧ l ∈ s.m.lanes n k ∧ bit lanes l = true ∧ bit (s.m.prtOf n).closing k = false) ∧
  (let s : State := st (rs [(F.PRT_STATUS_SUB_STATE, [95], 4 * 8 ^ 7)]); let n : Fin 96 := 95; let k : Fin 8 := 7; s.m.subState n k = 4 ∧ bit (s.m.prtOf n).closing k = false) ∧
  (let s : State := rd; let n : Fin 96 := 95; let k : Fin 8 := 7; Quiet s ∧ s.m.subState n k ≠ 4) ∧
  (let s : State := st (rs [(F.PRT_STATUS_SUB_STATE, [95], 5), (F.PRT_STATUS_LANE_LOCK, [95], 255)]); let n : Fin 96 := 95; let k : Fin 8 := 0; s.m.subState n k = 5 ∧ (∀ l ∈ s.m.lanes n k, bit (s.m.get F.PRT_STATUS_LANE_LOCK [n.val]) l = true)) ∧
  (let s : State := st (rs [(F.PRT_STATUS_SUB_STATE, [95], 6 * 8 ^ 7)]); let n : Fin 96 := 95; let k : Fin 8 := 7; s.m.subState n k = 6) ∧
  (let s : State := rd; let n : Fin 96 := 95; let k : Fin 8 := 7; Quiet s ∧ s.m.subState n k ≠ 5 ∧ s.m.subState n k ≠ 6) ∧
  (let s : State := st (rs [(F.PRT_STATUS_SUB_STATE, [95], 3)]); let n : Fin 96 := 95; let k : Fin 8 := 0; s.m.subState n k = 3) ∧
  (let s : State := st ((rm).putHsub 95 7 { tx := some { entry := { id := 4, pkt := { bytes := List.replicate 60 0 }, present := 0 }, cls := 0 } }); let n : Fin 96 := 95; let k : Fin 8 := 7; let x : Tx := { entry := { id := 4, pkt := { bytes := List.replicate 60 0 }, present := 0 }, cls := 0 }; (s.m.hsubOf n k).tx = some x ∧ x.entry.present < x.entry.pkt.cells) ∧
  (let s : State := rd; let n : Fin 96 := 95; let k : Fin 8 := 7; Quiet s ∧ (s.m.hsubOf n k).tx = none) ∧
  (let s : State := rd; let n : Fin 96 := 95; let th : Nat := s.m.get F.PRT_CT_STATUS_THRESH [n.val]; let base : Nat := s.m.get F.PRT_CT_CFG_BASE [n.val]; s.m.get F.PRT_CT_STATUS_THRESH [n.val] = th ∧ s.m.get F.PRT_CT_CFG_BASE [n.val] = base) := by
  repeat refine ⟨by (try simp only [Quiet, wheelIdle_iff, mayRun_iff]) <;> decide +kernel, ?_⟩
  all_goals (try simp only [Quiet, wheelIdle_iff, mayRun_iff]) <;> decide +kernel

theorem witness_PortCommands :
  (let s : State := rd; let c : Cmd := cmd 0x0601 [(0x100, leBytes 1 95 ++ [0, 0, 0] ++ leBytes 8 (9600 * 2 ^ 11))]; let q : Nat := 1; let n : Nat := 95; let v : Nat := (9600 * 2 ^ 11); let objs : List Obj := [.port n]; objs = [.port n] ∧ mayRun s.m c 0x0601 objs ∧ c.all 0x100 = [(q, leBytes 1 n ++ [0, 0, 0] ++ leBytes 8 v)] ∧ c.all 0x101 = [] ∧ n < 96 ∧ v < 2 ^ 64 ∧ maxFrameOk v = true) ∧
  (let s : State := rd; let c : Cmd := cmd 0x0601 [(0x100, leBytes 1 96 ++ [0, 0, 0] ++ leBytes 8 (9600 * 2 ^ 11))]; let q : Nat := 1; let n : Nat := 96; let v : Nat := (9600 * 2 ^ 11); Quiet s ∧ mayRun s.m c 0x0601 [.port n] ∧ c.all 0x100 = [(q, leBytes 1 n ++ [0, 0, 0] ++ leBytes 8 v)] ∧ c.all 0x101 = [] ∧ n < 256 ∧ v < 2 ^ 64 ∧ (95 < n ∨ maxFrameOk v = false)) ∧
  (let s : State := rd; let c : Cmd := cmd 0x0601 [(0x101, leBytes 1 95 ++ [0, 0, 0] ++ leBytes 4 (1 + 1 * 2 + 1 * 2 ^ 7 + 38 * 2 ^ 13 + 1 * 2 ^ 19))]; let q : Nat := 1; let n : Nat := 95; let v : Nat := (1 + 1 * 2 + 1 * 2 ^ 7 + 38 * 2 ^ 13 + 1 * 2 ^ 19); Quiet s ∧ mayRun s.m c 0x0601 [.port n] ∧ c.all 0x100 = [] ∧ c.all 0x101 = [(q, leBytes 1 n ++ [0, 0, 0] ++ leBytes 4 v)] ∧ n < 96 ∧ v < 2 ^ 32 ∧ ctOk v = true) ∧
  (let m : Mod := rd.m; let n : Nat := 95; m.linksOn n = []) ∧
  (let s : State := rd; let c : Cmd := cmd 0x0602 [(0x100, leBytes 12 (2 ^ 95))]; mayRun s.m c 0x0602 ((maskPorts c).map .port)) ∧
  (let s : State := rd; let c : Cmd := cmd 0x0603 [(0x100, leBytes 12 (2 ^ 95))]; let m : Mod := (maskPorts c).foldl (fun m n => (m.set F.PRT_CFG_ENABLE [n] 0).portFollow n) s.m; mayRun s.m c 0x0603 ((maskPorts c).map .port) ∧ m = (maskPorts c).foldl (fun m n => (m.set F.PRT_CFG_ENABLE [n] 0).portFollow n) s.m ∧ (∀ n ∈ maskPorts c, (m.prtOf n).closing = 0)) ∧
  (let s : State := st ((rs [(F.PRT_STATUS_SUB_STATE, [95], 4), (F.PRT_CFG_ENABLE, [95], 1)]).putHsub 95 0 { tx := some { entry := { id := 4, pkt := { bytes := List.replicate 60 0 }, present := 9 }, cls := 0, wire := List.replicate 60 0 } }); let c : Cmd := cmd 0x0603 [(0x100, leBytes 12 (2 ^ 95))]; let m : Mod := (s.m.set F.PRT_CFG_ENABLE [95] 0).portFollow 95; let n : Nat := 95; mayRun s.m c 0x0603 [.port n] ∧ maskPorts c = [n] ∧ m = (s.m.set F.PRT_CFG_ENABLE [n] 0).portFollow n ∧ (m.prtOf n).closing ≠ 0) ∧
  (let k : Nat := 7; k < 8) ∧
  (let s : State := rd; let c : Cmd := cmd 0x0604 [(0x100, leBytes 12 (2 ^ 95))]; let a : Ans := okWith [tlv 0x101 ((maskPorts c).flatMap fun n => leBytes 8 n ++ leBytes 8 (s.m.view .PRT_STATUS [n]))]; Quiet s ∧ mayRun s.m c 0x0604 ∧ a = okWith [tlv 0x101 ((maskPorts c).flatMap fun n => leBytes 8 n ++ leBytes 8 (s.m.view .PRT_STATUS [n]))]) ∧
  (let s : State := rd; let c : Cmd := cmd 0x0605 [(0x100, [95, 7, 1, 0])]; let ch : Nat := 0; Quiet s ∧ mayRun s.m c 0x0605 ∧ c.src = .mailbox ch ∧ leAt (c.val 0x100) 0 1 < 96 ∧ leAt (c.val 0x100) 1 1 < 8) ∧
  (let s : State := rd; let c : Cmd := { cmd 0x0605 [(0x100, [95, 7, 1, 0])] with src := .oob 0 }; let n : Nat := 95; let k : Nat := 7; Quiet s ∧ mayRun s.m c 0x0605 ∧ 256 < c.src.limit ∧ leAt (c.val 0x100) 0 1 = n ∧ leAt (c.val 0x100) 1 1 = k ∧ n < 96 ∧ k < 8) ∧
  (let s : State := rd; let c : Cmd := cmd 0x0605 [(0x100, [96, 8, 1, 0])]; Quiet s ∧ mayRun s.m c 0x0605 ∧ (95 < leAt (c.val 0x100) 0 1 ∨ 7 < leAt (c.val 0x100) 1 1)) ∧
  (let s : State := st (rs [(F.PRT_CFG_ENABLE, [95], 0)]); let c : Cmd := cmd 0x0606 [(0x100, [95, 3, 0, 0])]; let n : Nat := 95; let code : Nat := 3; mayRun s.m c 0x0606 [.port n] ∧ leAt (c.val 0x100) 0 1 = n ∧ leAt (c.val 0x100) 1 1 = code ∧ n < 96 ∧ code < 4 ∧ s.m.flag F.PRT_CFG_ENABLE [n] = false ∧ s.m.flag F.TPL_PTP_PORT_ENABLE [n] = false) ∧
  (let s : State := st (rs [(F.PRT_CFG_ENABLE, [95], 1)]); let c : Cmd := cmd 0x0606 [(0x100, [95, 3, 0, 0])]; let n : Nat := 95; Quiet s ∧ mayRun s.m c 0x0606 [.port n] ∧ leAt (c.val 0x100) 0 1 = n ∧ leAt (c.val 0x100) 1 1 < 4 ∧ n < 96 ∧ s.m.flag F.PRT_CFG_ENABLE [n] = true) ∧
  (let s : State := st (rs [(F.PRT_STATUS_SUB_STATE, [95], 3)]); let c : Cmd := cmd 0x0907 [(0x100, [0, 95, 0, 0] ++ leBytes 4 60000 ++ leBytes 4 10 ++ leBytes 4 64 ++ List.replicate 16 0)]; let p : Nat := 1; let n : Nat := 95; let sub : Nat := 0; let v : List Byte := [0, 95, 0, 0] ++ leBytes 4 60000 ++ leBytes 4 10 ++ leBytes 4 64 ++ List.replicate 16 0; let m : Mod := ((((s.m.cutTx n sub 4).subTo n sub 7).closeSub n sub)); mayRun s.m c 0x0907 [.port n] ∧ c.tlv 0x100 = some (p, v) ∧ leAt v 0 1 = 0 ∧ leAt v 1 1 = n ∧ leAt v 2 1 = sub ∧ n < 96 ∧ sub < s.m.subCount n ∧ 0 < leAt v 4 4 ∧ leAt v 4 4 ≤ 60000 ∧ 64 ≤ leAt v 12 2 ∧ leAt v 12 2 ≤ s.m.get F.PRT_CFG_MAX_FRAME [n] ∧ (s.m.subState n sub = 3 ∨ s.m.subState n sub = 4) ∧ m = (((s.m.cutTx n sub 4).subTo n sub 7).closeSub n sub)) ∧
  (let s : State := st (rs [(F.PRT_STATUS_SUB_STATE, [95], 4)]); let c : Cmd := cmd 0x0907 [(0x100, [1, 95, 0, 0] ++ leBytes 4 60000 ++ leBytes 4 10 ++ leBytes 4 64 ++ List.replicate 16 0)]; let p : Nat := 1; let n : Nat := 95; let sub : Nat := 0; let v : List Byte := [1, 95, 0, 0] ++ leBytes 4 60000 ++ leBytes 4 10 ++ leBytes 4 64 ++ List.replicate 16 0; let m : Mod := ((((s.m.cutTx n sub 4).subTo n sub 7).closeSub n sub)); mayRun s.m c 0x0907 [.port n] ∧ c.tlv 0x100 = some (p, v) ∧ leAt v 0 1 = 1 ∧ leAt v 1 1 = n ∧ leAt v 2 1 = sub ∧ n < 96 ∧ sub < s.m.subCount n ∧ 0 < leAt v 4 4 ∧ leAt v 4 4 ≤ 60000 ∧ (s.m.subState n sub = 3 ∨ s.m.subState n sub = 4) ∧ m = (((s.m.cutTx n sub 4).subTo n sub 7).closeSub n sub)) ∧
  (let s : State := rd; let c : Cmd := cmd 0x0907 [(0x100, [2, 0, 0, 0] ++ leBytes 4 60000 ++ leBytes 4 65536 ++ leBytes 4 64 ++ List.replicate 16 0)]; let p : Nat := 1; let n : Nat := 0; let v : List Byte := [2, 0, 0, 0] ++ leBytes 4 60000 ++ leBytes 4 65536 ++ leBytes 4 64 ++ List.replicate 16 0; mayRun s.m c 0x0907 [.endpoint n] ∧ c.tlv 0x100 = some (p, v) ∧ leAt v 0 1 = 2 ∧ leAt v 1 1 = n ∧ n < 32 ∧ 0 < leAt v 8 4 ∧ leAt v 8 4 ≤ 65536 ∧ 64 ≤ leAt v 12 2 ∧ s.m.midFn s.m.managerMid = some (pf n) ∧ s.m.get F.SEL_FREEZE_EP_STATE (epIx n) = 0) ∧
  (let s : State := rd; let c : Cmd := cmd 0x0907 [(0x100, [1, 95, 0, 0] ++ leBytes 4 60000 ++ leBytes 4 10 ++ leBytes 4 64 ++ List.replicate 16 0)]; let p : Nat := 1; let n : Nat := 95; let sub : Nat := 0; let v : List Byte := [1, 95, 0, 0] ++ leBytes 4 60000 ++ leBytes 4 10 ++ leBytes 4 64 ++ List.replicate 16 0; Quiet s ∧ mayRun s.m c 0x0907 [.port n] ∧ c.tlv 0x100 = some (p, v) ∧ leAt v 0 1 = 1 ∧ leAt v 1 1 = n ∧ leAt v 2 1 = sub ∧ n < 96 ∧ sub < s.m.subCount n ∧ 0 < leAt v 4 4 ∧ leAt v 4 4 ≤ 60000 ∧ s.m.subState n sub ≠ 3 ∧ s.m.subState n sub ≠ 4) ∧
  (let s : State := st { rm with cut := { loops := [{ cmd := cmd 0x0907, kind := 1, port := 95, sub := 0, dur := 60000 }] } }; let n : Fin 96 := 95; let x : LoopTest := { cmd := cmd 0x0907, kind := 1, port := 95, sub := 0, dur := 60000 }; s.m.cut.loops = [x] ∧ x.port = n.val ∧ x.kind < 2) ∧
  (let s : State := st { rm with cut := { loops := [{ cmd := cmd 0x0907, kind := 2, port := 95, sub := 0 }] } }; let n : Fin 96 := 95; let x : LoopTest := { cmd := cmd 0x0907, kind := 2, port := 95, sub := 0 }; s.m.cut.loops = [x] ∧ x.port = n.val ∧ x.kind = 2 ∧ x.left = 0) ∧
  (let s : State := rd; Quiet s ∧ s.m.cut.loops = []) ∧
  (let m : Mod := rd.m; let x : LoopTest := { cmd := cmd 0x0907, kind := 0, port := 95, sub := 0 }; ((∀ e ∈ m.cut.pool, e.cmd = x.cmd → e.dead = false))) := by
  repeat refine ⟨by (try simp only [Quiet, wheelIdle_iff, mayRun_iff]) <;> decide +kernel, ?_⟩
  all_goals (try simp only [Quiet, wheelIdle_iff, mayRun_iff]) <;> decide +kernel

theorem witness_ModuleQueries :
  (let s : State := rd; let c : Cmd := cmd 0x0001; Quiet s ∧ mayRun s.m c 0x0001) ∧
  (let s : State := rd; let c : Cmd := cmd 0x0002; Quiet s ∧ mayRun s.m c 0x0002 ∧ s.m.phaseSrc = none) ∧
  (let s : State := st (rm.set F.GLB_START_PHASE [] 4); let c : Cmd := cmd 0x0001; s.m.phase < 5 ∧ s.m.requesterFrozen (asOp c 0x0001) = false ∧ c.inst = 0xFFFF ∧ s.m.hasA c.mid = true ∧ c.tlvs = [] ∧ s.m.holder (asOp c 0x0001) [] = none ∧ s.m.isDead (asOp c 0x0001) = false) ∧
  (let s : State := st (rm.set F.GLB_START_PHASE [] 4); let c : Cmd := cmd 0x0002; Quiet s ∧ s.m.phase < 5 ∧ s.m.requesterFrozen (asOp c 0x0002) = false ∧ c.inst = 0xFFFF ∧ s.m.hasA c.mid = true ∧ c.tlvs = []) := by
  repeat refine ⟨by (try simp only [Quiet, wheelIdle_iff, mayRun_iff]) <;> decide +kernel, ?_⟩
  all_goals (try simp only [Quiet, wheelIdle_iff, mayRun_iff]) <;> decide +kernel

theorem witness_Transmission_4 :
  (let m : Mod := rs [(F.HEM_SCHED_STRICT 6, portIx 95, 1)]; let n : Nat := 95; let c : Nat := 6; let el : List Elig := (List.replicate 6 .no ++ [.yes, .no]); ((∀ j, c < j → j < 7 → m.get (F.HEM_SCHED_STRICT j) (portIx n) = 1 → el.getD j .no ≠ .yes)) ∧ el.getD 7 .no ≠ .yes ∧ c < 7 ∧ el.getD c .no = .yes ∧ m.get (F.HEM_SCHED_STRICT c) (portIx n) = 1) :=
  ⟨(fun j h1 h2 => absurd h2 (Nat.not_lt.mpr h1)), by (try simp only [Quiet, wheelIdle_iff, mayRun_iff]) <;> decide +kernel⟩

theorem witness_Transmission :
  (let s : State := rd; let n : Fin 96 := 95; let k : Fin 8 := 7; Quiet s ∧ (s.m.subState n k ≠ 4 ∨ (s.m.hsubOf n k).tx ≠ none ∨ bit (s.m.prtOf n).closing k = true)) ∧
  (let s : State := st (rs [(F.PRT_STATUS_SUB_STATE, [95], 4 * 8 ^ 7)]); let n : Fin 96 := 95; let k : Fin 8 := 7; let m : Mod := s.m.jxlFlush.hemGates n; s.m.subState n k = 4 ∧ (s.m.hsubOf n k).tx = none ∧ bit (s.m.prtOf n).closing k = false ∧ m = s.m.jxlFlush.hemGates n ∧ (m.hemOf n).timed = []) ∧
  (let s : State := st ((rs [(F.PRT_STATUS_SUB_STATE, [95], 4 * 8 ^ 7)]).putHem 95 { timed := [{ entry := { id := 4, pkt := { bytes := List.replicate 60 0 }, present := 9 }, sub := 7, launch := 500000, due := true }] }); let n : Fin 96 := 95; let k : Fin 8 := 7; let m : Mod := s.m.jxlFlush.hemGates n; let x : Timed := { entry := { id := 4, pkt := { bytes := List.replicate 60 0 }, present := 9 }, sub := 7, launch := 500000, due := true }; let xs : List Timed := []; s.m.subState n k = 4 ∧ (s.m.hsubOf n k).tx = none ∧ bit (s.m.prtOf n).closing k = false ∧ m = s.m.jxlFlush.hemGates n ∧ (m.hemOf n).timed = x :: xs ∧ x.leave = .onTime ∧ x.due = true ∧ x.sub = k.val ∧ m.pausedBy n k x.entry.pkt.tc = false) ∧
  (let el : List Elig := (List.replicate 7 .no ++ [.yes]); el.getD 7 .no = .yes) ∧
  (let el : List Elig := List.replicate 8 .held; ((∀ c, c < 8 → el.getD c .no ≠ .yes))) ∧
  (let m : Mod := (rm).putEgq (egKey 7 (11 * 8 + 7) 6) [{ id := 4, pkt := { bytes := List.replicate 60 0 }, present := 9 }]; let n : Nat := 95; let k : Nat := 7; let c : Nat := 6; m.elig n k c = .yes) ∧
  (let m : Mod := rd.m; let n : Nat := 95; let k : Nat := 7; let start : Nat := 9; let e : EgEntry := { id := 4, pkt := { bytes := List.replicate 60 0 }, present := 9 }; let w : List Byte := List.replicate 60 0; (m.toWire n k (ownStamp (m.linkAt n k).isSome e.pkt.bytes start)).1 = some w) ∧
  (let s : State := st ((rm).putHsub 95 7 { tx := some { entry := { id := 4, pkt := { bytes := List.replicate 60 0 }, present := 9 }, cls := 0, wire := List.replicate 60 0 } }); let n : Fin 96 := 95; let k : Fin 8 := 7; let x : Tx := { entry := { id := 4, pkt := { bytes := List.replicate 60 0 }, present := 9 }, cls := 0, wire := List.replicate 60 0 }; (s.m.hsubOf n k).tx = some x ∧ x.entry.pkt.cells ≤ x.entry.present) ∧
  (let s : State := rd; let n : Fin 96 := 95; let k : Fin 8 := 7; Quiet s ∧ (((s.m.hsubOf n k).tx = none ∨ ∃ x, (s.m.hsubOf n k).tx = some x ∧ x.entry.present < x.entry.pkt.cells))) ∧
  (let s : State := st ((rm).putHem 95 { timed := [{ entry := { id := 4, pkt := { bytes := List.replicate 60 0 }, present := 9 }, sub := 7, launch := 500000, due := false }] }); let n : Fin 96 := 95; let x : Timed := { entry := { id := 4, pkt := { bytes := List.replicate 60 0 }, present := 9 }, sub := 7, launch := 500000, due := false }; Quiet s ∧ (s.m.hemOf n).timed = [x] ∧ x.leave = .onTime ∧ x.due = false ∧ s.m.ns ≤ x.launch - 1000 ∧ s.m.startable n x.entry true = true) ∧
  (let s : State := st (({ (rs [(F.HEM_LAUNCH_CFG_LATE, portIx 95, 0)]) with now := 600000 * nsUnit }).putHem 95 { timed := [{ entry := { id := 4, pkt := { bytes := List.replicate 60 0 }, present := 9 }, sub := 7, launch := 500000, due := false }] }); let n : Fin 96 := 95; let x : Timed := { entry := { id := 4, pkt := { bytes := List.replicate 60 0 }, present := 9 }, sub := 7, launch := 500000, due := false }; Quiet s ∧ (s.m.hemOf n).timed = [x] ∧ x.leave = .onTime ∧ x.due = false ∧ x.launch - 1000 < s.m.ns ∧ s.m.flag F.HEM_LAUNCH_CFG_LATE (portIx n) = false) ∧
  (let s : State := st (({ (rs [(F.HEM_LAUNCH_CFG_LATE, portIx 95, 1)]) with now := 600000 * nsUnit }).putHem 95 { timed := [{ entry := { id := 4, pkt := { bytes := List.replicate 60 0 }, present := 9 }, sub := 7, launch := 500000, due := false }] }); let n : Fin 96 := 95; let x : Timed := { entry := { id := 4, pkt := { bytes := List.replicate 60 0 }, present := 9 }, sub := 7, launch := 500000, due := false }; Quiet s ∧ (s.m.hemOf n).timed = [x] ∧ x.leave = .onTime ∧ x.due = false ∧ x.launch - 1000 < s.m.ns ∧ s.m.flag F.HEM_LAUNCH_CFG_LATE (portIx n) = true) ∧
  (let s : State := rd; let n : Fin 96 := 95; Quiet s ∧ (s.m.hemOf n).timed = []) := by
  repeat refine ⟨by (try simp only [Quiet, wheelIdle_iff, mayRun_iff]) <;> decide +kernel, ?_⟩
  all_goals (try simp only [Quiet, wheelIdle_iff, mayRun_iff]) <;> decide +kernel

theorem witness_Calendars :
  (let c : Cal := { cycle := 100, length := 2, entries := [(0, 50 * 256 + 128), (1, 50 * 256 + 1)] }; 0 < c.length) ∧
  (let c : Cal := { cycle := 100, length := 2, entries := [(0, 50 * 256 + 128), (1, 50 * 256 + 1)] }; 0 < c.cycle) ∧
  (let s : State := rd; let n : Fin 96 := 95; Quiet s ∧ (s.m.hemOf n).active = none) ∧
  (let s : State := st ((rm).putHem 95 { active := some { cycle := 100, length := 2, entries := [(0, 50 * 256 + 128), (1, 50 * 256 + 1)] } }); let n : Fin 96 := 95; let t : Nat := 400; let c : Cal := { cycle := 100, length := 2, entries := [(0, 50 * 256 + 128), (1, 50 * 256 + 1)] }; Quiet s ∧ (s.m.hemOf n).active = some c ∧ s.m.ns ≤ t ∧ c.begins t = true ∧ c.offset t ≠ 0) ∧
  (let s : State := st ((rm).putHem 95 { active := some { cycle := 100, length := 2, entries := [(0, 50 * 256 + 128), (1, 50 * 256 + 1)] } }); let n : Fin 96 := 95; let t : Nat := 800; let c : Cal := { cycle := 100, length := 2, entries := [(0, 50 * 256 + 128), (1, 50 * 256 + 1)] }; Quiet s ∧ (s.m.hemOf n).active = some c ∧ s.m.ns ≤ t ∧ c.offset t = 0 ∧ (s.m.hemOf n).held = none) ∧
  (let h : HemPort := { active := some { cycle := 100, length := 2, entries := [(0, 50 * 256 + 128), (1, 50 * 256 + 1)] } }; h.held = none ∧ h.arm = none) ∧
  (let s : State := st ((rm).putHem 95 { shadow := { cycle := 100, length := 2, entries := [(0, 50 * 256 + 128), (1, 50 * 256 + 1)] }, arm := some { whenNs := 800, stop := false, cmd := cmd 0x040A } }); let n : Fin 96 := 95; let a : CalArm := { whenNs := 800, stop := false, cmd := cmd 0x040A }; (s.m.hemOf n).arm = some a) ∧
  (let s : State := rd; let n : Fin 96 := 95; Quiet s ∧ (s.m.hemOf n).arm = none) ∧
  (let s : State := rd; let c : Cmd := cmd 0x0409 [(0x100, [95, 1, 0, 0]), (0x101, leBytes 6 0 ++ leBytes 4 0 ++ [0, 0] ++ leBytes 4 100 ++ leBytes 2 2 ++ List.replicate 6 0)]; let q : Nat := 2; let n : Nat := 95; let v : List Byte := leBytes 6 0 ++ leBytes 4 0 ++ [0, 0] ++ leBytes 4 100 ++ leBytes 2 2 ++ List.replicate 6 0; Quiet s ∧ mayRun s.m c 0x0409 [.calendar n] ∧ leAt (c.val 0x100) 0 1 = n ∧ n < 96 ∧ c.all 0x101 = [(q, v)] ∧ c.all 0x102 = [] ∧ cycleOk v = true) ∧
  (let s : State := rd; let c : Cmd := cmd 0x0409 [(0x100, [95, 0, 0, 0]), (0x102, leBytes 2 4095 ++ leBytes 2 1 ++ leBytes 4 (2 ^ 31 - 1))]; let q : Nat := 2; let n : Nat := 95; let i : Nat := 4095; let e : Nat := 2 ^ 31 - 1; Quiet s ∧ mayRun s.m c 0x0409 [.calendar n] ∧ leAt (c.val 0x100) 0 1 = n ∧ n < 96 ∧ bit (leAt (c.val 0x100) 1 1) 0 = false ∧ c.all 0x101 = [] ∧ i < 4096 ∧ 0 < entryInterval e ∧ e < 2 ^ 31 ∧ c.all 0x102 = [(q, leBytes 2 i ++ leBytes 2 1 ++ leBytes 4 e)]) ∧
  (let s : State := rd; let c : Cmd := cmd 0x0409 [(0x100, [95, 0, 0, 0]), (0x101, List.replicate 24 0)]; let q : Nat := 2; let n : Nat := 95; let v : List Byte := List.replicate 24 0; Quiet s ∧ mayRun s.m c 0x0409 [.calendar n] ∧ leAt (c.val 0x100) 0 1 = n ∧ n < 96 ∧ c.all 0x101 = [(q, v)] ∧ cycleOk v = false) ∧
  (let s : State := st ((rm).putHem 95 { shadow := { cycle := 100, length := 2, entries := [(0, 50 * 256 + 128), (1, 50 * 256 + 1)] } }); let c : Cmd := cmd 0x040A [(0x100, [95, 0, 0, 0] ++ leBytes 6 0 ++ leBytes 4 200000 ++ [0, 0])]; let q : Nat := 1; let n : Nat := 95; let v : List Byte := [95, 0, 0, 0] ++ leBytes 6 0 ++ leBytes 4 200000 ++ [0, 0]; Quiet s ∧ c.all 0x100 = [(q, v)] ∧ leAt v 0 1 = n ∧ mayRun s.m c 0x040A [.calendar n] ∧ s.m.activateBad v = none ∧ s.m.calPolicy = none) ∧
  (let s : State := rd; let c : Cmd := cmd 0x040A [(0x100, [95, 1, 0, 0] ++ leBytes 6 0 ++ leBytes 4 99992 ++ [0, 0])]; let q : Nat := 1; let n : Nat := 95; let d : Nat := 2; let v : List Byte := [95, 1, 0, 0] ++ leBytes 6 0 ++ leBytes 4 99992 ++ [0, 0]; Quiet s ∧ c.all 0x100 = [(q, v)] ∧ leAt v 0 1 = n ∧ mayRun s.m c 0x040A [.calendar n] ∧ s.m.activateBad v = some d) ∧
  (let s : State := st ((rs [(F.TPL_LOSS_POLICY_CAL, [], 2), (F.TPL_STATE_TRACEABLE, [], 0)]).putHem 95 { shadow := { cycle := 100, length := 2, entries := [(0, 50 * 256 + 128), (1, 50 * 256 + 1)] } }); let c : Cmd := cmd 0x040A [(0x100, [95, 0, 0, 0] ++ leBytes 6 0 ++ leBytes 4 200000 ++ [0, 0])]; let q : Nat := 1; let n : Nat := 95; let p : Nat := 2; let v : List Byte := [95, 0, 0, 0] ++ leBytes 6 0 ++ leBytes 4 200000 ++ [0, 0]; Quiet s ∧ c.all 0x100 = [(q, v)] ∧ leAt v 0 1 = n ∧ mayRun s.m c 0x040A [.calendar n] ∧ s.m.activateBad v = none ∧ s.m.calPolicy = some p) ∧
  (let m : Mod := rm.putHem 95 { shadow := { cycle := 100, length := 2, entries := [(0, 50 * 256 + 128), (1, 50 * 256 + 1)] } }; let v : List Byte := [95, 0, 0, 0] ++ leBytes 6 0 ++ leBytes 4 200000 ++ [0, 0]; m.activateBad v = none) ∧
  (let s : State := st ((rm).putHem 95 { shadow := { cycle := 100, length := 2, entries := [(0, 50 * 256 + 128), (1, 50 * 256 + 1)] } }); let c : Cmd := cmd 0x040B [(0x100, [95, 1, 0, 0] ++ leBytes 2 1 ++ [0, 0])]; let n : Nat := 95; let cal : Cal := { cycle := 100, length := 2, entries := [(0, 50 * 256 + 128), (1, 50 * 256 + 1)] }; Quiet s ∧ mayRun s.m c 0x040B ∧ leAt (c.val 0x100) 0 1 = n ∧ n < 96 ∧ leAt (c.val 0x100) 2 2 = 0 ∧ leAt (c.val 0x100) 4 2 = 1 ∧ c.tlv 3 = none ∧ cal = (if bit (leAt (c.val 0x100) 1 1) 0 then (s.m.hemOf n).shadow else (s.m.hemOf n).active.getD {}) ∧ cal.cycle ≠ 0) ∧
  (let s : State := rd; let c : Cmd := cmd 0x040B [(0x100, [96, 0, 0, 0] ++ leBytes 2 1 ++ [0, 0])]; Quiet s ∧ mayRun s.m c 0x040B ∧ (95 < leAt (c.val 0x100) 0 1 ∨ 4096 ≤ leAt (c.val 0x100) 2 2 ∨ 1024 < leAt (c.val 0x100) 4 2)) := by
  repeat refine ⟨by (try simp only [Quiet, wheelIdle_iff, mayRun_iff]) <;> decide +kernel, ?_⟩
  all_goals (try simp only [Quiet, wheelIdle_iff, mayRun_iff]) <;> decide +kernel

theorem witness_Bobbins :
  (let s : State := rd; let k : Fin 12 := 11; Quiet s ∧ s.m.bobState k = 0) ∧
  (let s : State := st (rs [(F.BOB_STATUS_STATE, [11], 3)]); let k : Fin 12 := 11; Quiet s ∧ s.m.bobState k ≠ 0) ∧
  (let s : State := st (rs [(F.BOB_STATUS_STATE, [11], 5)]); let k : Fin 12 := 11; s.m.bobState k ≠ 0) ∧
  (let s : State := rd; let k : Fin 12 := 11; Quiet s ∧ s.m.bobState k = 0) ∧
  (({ img := { file := List.replicate 10 0 ++ leBytes 2 1 ++ List.replicate 20 0 ++ leBytes 4 64 ++ List.replicate 28 0 ++ leBytes 4 8 ++ leBytes 4 96 ++ leBytes 4 16 ++ List.replicate 20 0 ++ List.replicate 16 65 } } : Mod).partListed (List.replicate 16 65) = true) ∧
  (let s : State := st (rs [(F.BOB_STATUS_STATE, [11], 1)]); let k : Fin 12 := 11; s.m.bobState k = 1) ∧
  (let s : State := st (rs [(F.BOB_STATUS_STATE, [11], 2)]); let k : Fin 12 := 11; Quiet s ∧ s.m.bobState k ≠ 1) ∧
  (let s : State := st (rs [(F.BOB_STATUS_STATE, [11], 1), (F.PIN_CFG_FUNC, [22], 0)]); let k : Fin 12 := 11; s.m.bobState k = 1 ∧ s.m.i3cUp = false) ∧
  (let s : State := st (rs [(F.BOB_STATUS_STATE, [11], 2)]); let k : Fin 12 := 11; s.m.bobState k = 2) ∧
  (let s : State := st (rs [(F.BOB_STATUS_STATE, [11], 4)]); let k : Fin 12 := 11; (s.m.bobState k = 3 ∨ s.m.bobState k = 4) ∧ bit (s.m.get F.PWR_GATE_STATUS_GATED_OE) k = false) ∧
  (let s : State := st (rs [(F.BOB_STATUS_STATE, [11], 3)]); let k : Fin 12 := 11; s.m.driven k = true) ∧
  (let s : State := st ((rm).putBob 11 { switching := [(15, none)] }); let k : Fin 12 := 11; let j : Fin 16 := 15; let c : Option Cmd := none; tget (s.m.bobOf k).switching j = some c) ∧
  (let s : State := rd; let k : Fin 12 := 11; let j : Fin 16 := 15; Quiet s ∧ tget (s.m.bobOf k).switching j = none) ∧
  (let s : State := st (rs [(F.BOB_STATUS_STATE, [11], 2)]); let k : Fin 12 := 11; Quiet s ∧ 2 ≤ s.m.bobState k ∧ s.m.bobState k ≠ 6) ∧
  (45 ≤ 45) ∧
  (let s : State := rd; let k : Fin 12 := 11; let j : Fin 20 := 19; Quiet s ∧ tgetD (s.m.bobOf k).aged j 0 < eqHour) ∧
  (let s : State := st (rm.putBob 11 { aged := [(19, eqHour)] }); let k : Fin 12 := 11; let j : Fin 20 := 19; let eq : Nat := 1; eqHour ≤ tgetD (s.m.bobOf k).aged j 0 ∧ eq = min 131071 (s.m.get F.BOB_LASER_EQ_HOURS [k.val, j.val] + 1)) ∧
  (let s : State := rd; let c : Cmd := cmd 0x0607 [(0x100, [11, 0, 0, 0])]; let e : Nat := 11; Quiet s ∧ mayRun s.m c 0x0607 [.oe e] ∧ leAt (c.val 0x100) 0 1 = e ∧ e < 12 ∧ leAt (c.val 0x100) 1 1 = 0) ∧
  (let s : State := rd; let c : Cmd := cmd 0x0607 [(0x100, [11, 1, 0, 0])]; let e : Nat := 11; mayRun s.m c 0x0607 [.oe e] ∧ leAt (c.val 0x100) 0 1 = e ∧ e < 12 ∧ leAt (c.val 0x100) 1 1 = 1) ∧
  (let s : State := st ((rm).putBob 11 { calCmd := some (cmd 0x0607) }); let k : Fin 12 := 11; let c : Cmd := cmd 0x0607; (s.m.bobOf k).calCmd = some c ∧ ((∀ e ∈ s.m.cut.pool, e.cmd = c → e.dead = false))) ∧
  (let s : State := rd; let k : Fin 12 := 11; Quiet s ∧ (s.m.bobOf k).calCmd = none) ∧
  (let s : State := rd; let c : Cmd := { cmd 0x0608 [(0x100, [11, 0, 0, 0])] with src := .oob 0 }; let k : Nat := 11; Quiet s ∧ mayRun s.m c 0x0608 ∧ leAt (c.val 0x100) 0 1 = k ∧ k < 12 ∧ 256 < c.src.limit) ∧
  (let s : State := rd; let c : Cmd := cmd 0x0608 [(0x100, [11, 0, 0, 0])]; let ch : Nat := 0; Quiet s ∧ mayRun s.m c 0x0608 ∧ c.src = .mailbox ch ∧ leAt (c.val 0x100) 0 1 < 12) ∧
  (let s : State := st (rs [(F.BOB_STATUS_STATE, [11], 3)]); let c : Cmd := cmd 0x0609 [(0x100, [11, 15, 0, 0])]; let k : Nat := 11; let j : Nat := 15; Quiet s ∧ mayRun s.m c 0x0609 [.bobbin (16 + k)] ∧ leAt (c.val 0x100) 0 1 = k ∧ leAt (c.val 0x100) 1 1 = j ∧ k < 12 ∧ j < 16 ∧ s.m.driven k = true ∧ s.m.laserRole k j = 0) ∧
  (let s : State := st (rs [(F.BOB_STATUS_STATE, [11], 4)]); let c : Cmd := cmd 0x060A [(0x100, [11, 0, 0, 0])]; let k : Nat := 11; mayRun s.m c 0x060A [.bobbin k] ∧ leAt (c.val 0x100) 0 1 = k ∧ k < 12 ∧ bit (leAt (c.val 0x100) 1 1) 0 = false ∧ (s.m.bobState k = 3 ∨ s.m.bobState k = 4) ∧ (s.m.bobOf k).switching = []) ∧
  (let s : State := st ((rs [(F.BOB_STATUS_STATE, [11], 3)]).putBob 11 { switching := [(15, none)] }); let c : Cmd := cmd 0x060A [(0x100, [11, 0, 0, 0])]; let k : Nat := 11; Quiet s ∧ mayRun s.m c 0x060A [.bobbin k] ∧ leAt (c.val 0x100) 0 1 = k ∧ k < 12 ∧ bit (leAt (c.val 0x100) 1 1) 0 = false ∧ (s.m.bobState k = 3 ∨ s.m.bobState k = 4) ∧ (s.m.bobOf k).switching ≠ []) := by
  repeat refine ⟨by (try simp only [Quiet, wheelIdle_iff, mayRun_iff]) <;> decide +kernel, ?_⟩
  all_goals (try simp only [Quiet, wheelIdle_iff, mayRun_iff]) <;> decide +kernel

theorem witness_ShuttleThreads_1 :
  (let s : State := st { (rs [(F.SHU_ENTRY_ENABLE, [7, 0], 1)]) with plt := { inq := [(inqKey 7 16 false, [{ bytes := List.replicate 60 0, origin := .port 95 7 }])] } }; let sl : Fin 8 := 7; let q : Nat := 16; let k : Nat := inqKey sl q false; let e : Nat := 0; let t : Nat := 0; let p : Pkt := { bytes := List.replicate 60 0, origin := .port 95 7 }; Quiet s ∧ q < 17 ∧ k = inqKey sl q false ∧ s.m.plt.inq = [(k, [p])] ∧ s.m.offer sl p false = .ok e t) :=
  by (try simp only [Quiet, wheelIdle_iff, mayRun_iff]) <;> decide +kernel

theorem witness_ShuttleThreads_17 :
  (let s : State := rd; let sl : Fin 8 := 7; let e : Fin 160 := 159; let t : Fin 16 := 15; let tag : Fin 8 := 7; (∀ ch r, tget (s.m.th sl e t).tags tag ≠ some (.flying ch r)) ∧ Quiet s) :=
  ⟨(fun _ _ h => nomatch h), by (try simp only [Quiet, wheelIdle_iff, mayRun_iff]) <;> decide +kernel⟩

theorem witness_ShuttleThreads :
  (let s : State := rd; Quiet s ∧ s.m.plt.inq = []) ∧
  (let s : State := st { (rs [(F.SHU_ENTRY_ENABLE, [7, 0], 0)]) with plt := { inq := [(inqKey 7 16 false, [{ bytes := List.replicate 60 0, origin := .port 95 7 }])] } }; let sl : Fin 8 := 7; let q : Nat := 16; let k : Nat := inqKey sl q false; let p : Pkt := { bytes := List.replicate 60 0, origin := .port 95 7 }; Quiet s ∧ q < 17 ∧ k = inqKey sl q false ∧ s.m.plt.inq = [(k, [p])] ∧ s.m.offer sl p false = .noEntry) ∧
  (let s : State := rd; let sl : Fin 8 := 7; let k : Fin 64 := 63; Quiet s ∧ (s.m.flag F.SHU_TIMER_ENABLE [sl.val, k.val] = false ∨ s.m.get F.SHU_TIMER_PERIOD_US [sl.val, k.val] = 0)) ∧
  (let s : State := st { rs [(F.SHU_TIMER_ENABLE, [7, 63], 1), (F.SHU_TIMER_PERIOD_US, [7, 63], 10), (F.SHU_TIMER_PHASE_US, [7, 63], 3)] with shu := { timersLive := [511] } }; let sl : Fin 8 := 7; let k : Fin 64 := 63; let t : Nat := 13000; Quiet s ∧ s.m.flag F.SHU_TIMER_ENABLE [sl.val, k.val] = true ∧ s.m.get F.SHU_TIMER_PERIOD_US [sl.val, k.val] ≠ 0 ∧ t % 1000 = 0 ∧ t / 1000 % s.m.get F.SHU_TIMER_PERIOD_US [sl.val, k.val] = s.m.get F.SHU_TIMER_PHASE_US [sl.val, k.val] ∧ sl.val * 64 + k.val ∈ s.m.shu.timersLive) ∧
  (let s : State := st (rs [(F.SHU_TIMER_ENABLE, [7, 63], 1), (F.SHU_TIMER_PERIOD_US, [7, 63], 10), (F.SHU_TIMER_PHASE_US, [7, 63], 3)]); let sl : Fin 8 := 7; let k : Fin 64 := 63; let t : Nat := 13000; s.m.flag F.SHU_TIMER_ENABLE [sl.val, k.val] = true ∧ s.m.get F.SHU_TIMER_PERIOD_US [sl.val, k.val] ≠ 0 ∧ t % 1000 = 0 ∧ t / 1000 % s.m.get F.SHU_TIMER_PERIOD_US [sl.val, k.val] = s.m.get F.SHU_TIMER_PHASE_US [sl.val, k.val] ∧ sl.val * 64 + k.val ∉ s.m.shu.timersLive ∧ s.m.plt.inq = []) ∧
  (let s : State := rd; let sl : Fin 8 := 7; let e : Fin 160 := 159; let g : Engine := (s.m.eng sl e).choose.2; Quiet s ∧ (s.m.eng sl e).choose = (none, g)) ∧
  (let s : State := st (({ rs [(F.SHU_SLICE_CFG_STEP_LIMIT, [7], 16)] with shu := { words := [(csKey 7 9 0, 2 ^ 14)] } }).putTh 7 159 15 { state := 1 }); let sl : Fin 8 := 7; let e : Fin 160 := 159; let t : Nat := 15; let w : Nat := 2 ^ 14; let g : Engine := (s.m.eng sl e).choose.2; let m : Mod := s.m.putEng sl e g; Quiet s ∧ (s.m.eng sl e).choose = (some t, g) ∧ m = s.m.putEng sl e g ∧ m.wordOf sl e t = w ∧ (m.th sl e t).words < m.get F.SHU_SLICE_CFG_STEP_LIMIT [sl.val] ∧ csKey sl (e.val / 16) (m.th sl e t).upc ∉ m.shu.bad ∧ (m.eng sl e).check t w = .go ∧ mwSeqop w ≠ 7) ∧
  (let s : State := st ((rs [(F.SHU_SLICE_CFG_STEP_LIMIT, [7], 16)]).putTh 7 159 15 { state := 1, words := 16 }); let sl : Fin 8 := 7; let e : Fin 160 := 159; let t : Nat := 15; let g : Engine := (s.m.eng sl e).choose.2; let m : Mod := s.m.putEng sl e g; (s.m.eng sl e).choose = (some t, g) ∧ m = s.m.putEng sl e g ∧ m.get F.SHU_SLICE_CFG_STEP_LIMIT [sl.val] ≤ (m.th sl e t).words) ∧
  (let s : State := st (({ rs [(F.SHU_SLICE_CFG_STEP_LIMIT, [7], 16)] with shu := { words := [(csKey 7 9 0, 8 * 2 ^ 14)] } }).putTh 7 159 15 { state := 1 }); let sl : Fin 8 := 7; let e : Fin 160 := 159; let t : Nat := 15; let w : Nat := 8 * 2 ^ 14; let g : Engine := (s.m.eng sl e).choose.2; let m : Mod := s.m.putEng sl e g; (s.m.eng sl e).choose = (some t, g) ∧ m = s.m.putEng sl e g ∧ m.wordOf sl e t = w ∧ (m.th sl e t).words < m.get F.SHU_SLICE_CFG_STEP_LIMIT [sl.val] ∧ csKey sl (e.val / 16) (m.th sl e t).upc ∉ m.shu.bad ∧ mwSeqop w = 8 ∧ illegalWord w = false) ∧
  (let s : State := rd; let sl : Fin 8 := 7; let e : Fin 160 := 159; let g : Engine := (s.m.eng sl e).choose.2; Quiet s ∧ (s.m.eng sl e).choose = (none, g)) ∧
  (let e : Nat := 159; let t : Nat := 15; let cause : Nat := 7; cause < 8 ∧ e < 256 ∧ t < 16) ∧
  (let s : State := st ((rm).putTh 7 159 15 { state := 1, ending := some 1 }); let sl : Fin 8 := 7; let e : Fin 160 := 159; let t : Fin 16 := 15; let d : Nat := 1; (s.m.th sl e t).ending = some d ∧ (∀ g ∈ (s.m.th sl e t).tags, g.2.outstanding = false)) ∧
  (let s : State := st (({ rs [(F.SHU_SLICE_CFG_STEP_LIMIT, [7], 16)] with shu := { words := [(csKey 7 9 0, 7 * 2 ^ 14)] } }).putTh 7 159 15 { state := 1 }); let sl : Fin 8 := 7; let e : Fin 160 := 159; let t : Fin 16 := 15; let g : Engine := (s.m.eng sl e).choose.2; (s.m.th sl e t).ending = none ∧ (s.m.eng sl e).choose = (some t.val, g) ∧ mwSeqop (s.m.wordOf sl e t) = 7) ∧
  (let s : State := st ((rm).putTh 7 159 15 { state := 2, awaits := some 7, tags := [(7, .flying 3 { status := 0, data := [5] })] }); let sl : Fin 8 := 7; let e : Fin 160 := 159; let t : Fin 16 := 15; let tag : Fin 8 := 7; let ch : Nat := 3; let r : Resp := { status := 0, data := [5] }; Quiet s ∧ tget (s.m.th sl e t).tags tag = some (.flying ch r) ∧ (s.m.th sl e t).state = 2 ∧ (s.m.th sl e t).awaits = some tag.val ∧ (s.m.th sl e t).ending = none) ∧
  (let s : State := st ((rm).putTh 7 159 15 { state := 1, tags := [(7, .flying 0 { status := 0 })] }); let sl : Fin 8 := 7; let e : Fin 160 := 159; let t : Fin 16 := 15; let tag : Fin 8 := 7; let ch : Nat := 0; let r : Resp := { status := 0 }; Quiet s ∧ tget (s.m.th sl e t).tags tag = some (.flying ch r) ∧ (s.m.th sl e t).state = 1) ∧
  (let s : State := st ((rm).putTh 7 159 15 { state := 3 }); let sl : Fin 8 := 7; let e : Fin 160 := 159; let t : Fin 16 := 15; Quiet s ∧ (s.m.th sl e t).state = 3) ∧
  (let s : State := st ((rm).putTh 7 159 15 { state := 2 }); let sl : Fin 8 := 7; let e : Fin 160 := 159; let t : Fin 16 := 15; (s.m.th sl e t).running = true) ∧
  (let s : State := rd; let sl : Fin 8 := 7; let e : Fin 160 := 159; let t : Fin 16 := 15; Quiet s ∧ (s.m.th sl e t).running = false) ∧
  (let s : State := rd; let r : Req := mg; Quiet s ∧ s.m.isManager r.mid = true) ∧
  (let s : State := st (rm.putEng 7 159 { step := 31, apply := some factoryBank }); let sl : Fin 8 := 7; let e : Fin 160 := 159; let b : EngBank := factoryBank; (s.m.eng sl e).apply = some b) ∧
  (let s : State := rd; let sl : Fin 8 := 7; let e : Fin 160 := 159; Quiet s ∧ (s.m.eng sl e).apply = none) ∧
  (let s : State := st (rs [(F.SHU_CS_COMMIT_GO, [7], 0)]); let r : Req := mg; let sl : Fin 8 := 7; Quiet s ∧ s.m.isManager r.mid = true ∧ s.m.flag F.SHU_CS_COMMIT_GO [sl.val] = false) ∧
  (let m : Mod := rm; let s : Nat := 7; let cl : Nat := 1023; illegalWord (m.csStage s) = false ∧ cl ≠ 0 ∧ (tgetD m.shu.patches s []).length < 1024) ∧
  (let m : Mod := { rm with shu := { csq := [⟨7, 16383, 0, [9]⟩] } }; let p : CsPatch := ⟨7, 16383, 0, [9]⟩; m.shu.csq = [p] ∧ (∀ c ∈ p.left, tget m.wheel.waits (65 + 10 * p.slice + c) = none)) ∧
  (let m : Mod := rs [(F.SHU_CS_STAGE_DATA, [7, 0], 15 * 2 ^ 14)]; let s : Nat := 7; illegalWord (m.csStage s) = true) ∧
  (let s : State := rd; let sl : Fin 8 := 7; let c : Fin 10 := 9; let a : Fin 16384 := 16383; Quiet s ∧ csKey sl c a ∉ s.m.shu.bad) ∧
  (let s : State := st { rm with shu := { bad := [csKey 7 9 16383] } }; let sl : Fin 8 := 7; let c : Fin 10 := 9; let a : Fin 16384 := 16383; let k : Nat := csKey sl c a; k = csKey sl c a ∧ k ∈ s.m.shu.bad ∧ k ∉ s.m.shu.stuck ∧ s.m.img.patchLock = false) ∧
  (let s : State := st { rm with shu := { bad := [csKey 7 9 16383] } }; let sl : Fin 8 := 7; let c : Fin 10 := 9; let a : Fin 16384 := 16383; let k : Nat := csKey sl c a; k = csKey sl c a ∧ k ∈ s.m.shu.bad ∧ k ∉ s.m.shu.stuck) ∧
  (let s : State := st { rm with shu := { stuck := [csKey 7 9 16383] } }; let sl : Fin 8 := 7; let c : Fin 10 := 9; let a : Fin 16384 := 16383; Quiet s ∧ csKey sl c a ∈ s.m.shu.stuck) := by
  repeat refine ⟨by (try simp only [Quiet, wheelIdle_iff, mayRun_iff]) <;> decide +kernel, ?_⟩
  all_goals (try simp only [Quiet, wheelIdle_iff, mayRun_iff]) <;> decide +kernel

theorem witness_Microword :
  (let a : _ := 2 ^ 64 - 1; let b : _ := 2 ^ 64 - 1; a < 2 ^ 64 ∧ b < 2 ^ 64) ∧
  (let a : _ := 2 ^ 63; let b : _ := 63; a < 2 ^ 64 ∧ b < 64) ∧
  (let a : _ := 2 ^ 64 - 1; let b : _ := 2 ^ 63; a < 2 ^ 64 ∧ b < 2 ^ 64) ∧
  (let b : _ := 2 ^ 64 - 1; b < 2 ^ 64) ∧
  (let win : List Byte := List.replicate 256 255; let p : Nat := 1984; let n : Nat := 64; win.length = 256 ∧ 0 < n ∧ n ≤ 64 ∧ p + n ≤ 2048) ∧
  (let p : Nat := 2048; 2048 ≤ p) := by
  repeat refine ⟨by (try simp only [Quiet, wheelIdle_iff, mayRun_iff]) <;> decide +kernel, ?_⟩
  all_goals (try simp only [Quiet, wheelIdle_iff, mayRun_iff]) <;> decide +kernel

theorem witness_LookupChannel_0 :
  (let m : Mod := (rm).putTh 7 159 15 { tags := [(7, .out { ch := 0, op := 16, args := [], order := 0, len := 60, w4 := 0 })] }; let w : ThreadRef := ⟨7, 159, 15⟩; let tag : Nat := 7; let ch : Nat := 0; let op : Nat := 16; let q : ChanReq := { ch := 0, op := 16, args := [], order := 0, len := 60, w4 := 0 }; m.takeReq w tag ch op = some q) := by
  (try simp only [Quiet, wheelIdle_iff, mayRun_iff]) <;> decide +kernel

theorem witness_LookupChannel_1 :
  (let s : State := rd; let sl : Fin 8 := 7; let e : Fin 160 := 159; let t : Fin 16 := 15; let w : ThreadRef := ⟨sl, e, t⟩; Quiet s ∧ w = ⟨sl, e, t⟩) := by
  (try simp only [Quiet, wheelIdle_iff, mayRun_iff]) <;> decide +kernel

theorem witness_LookupChannel_2 :
  (let s : State := st ((rm).putTh 7 159 15 { state := 2, tags := [(7, .out { ch := 0, op := 0, args := [5], order := 0, len := 60, w4 := 0 })] }); let sl : Fin 8 := 7; let e : Fin 160 := 159; let t : Fin 16 := 15; let tag : Fin 8 := 7; let w : ThreadRef := ⟨sl, e, t⟩; let q : ChanReq := { ch := 0, op := 0, args := [5], order := 0, len := 60, w4 := 0 }; Quiet s ∧ w = ⟨sl, e, t⟩ ∧ s.m.takeReq w tag 0 0 = some q ∧ s.m.lookupKey q 1 = none) := by
  (try simp only [Quiet, wheelIdle_iff, mayRun_iff]) <;> decide +kernel

theorem witness_LookupChannel_2a :
  (let s : State := st ((rm).putTh 7 159 15 { state := 2, tags := [(7, .out { ch := 0, op := 1, args := [5], order := 0, len := 60, w4 := 0 })] }); let sl : Fin 8 := 7; let e : Fin 160 := 159; let t : Fin 16 := 15; let tag : Fin 8 := 7; let w : ThreadRef := ⟨sl, e, t⟩; let q : ChanReq := { ch := 0, op := 1, args := [5], order := 0, len := 60, w4 := 0 }; Quiet s ∧ w = ⟨sl, e, t⟩ ∧ s.m.takeReq w tag 0 1 = some q ∧ s.m.lookupKey q 1 = none) := by
  (try simp only [Quiet, wheelIdle_iff, mayRun_iff]) <;> decide +kernel

theorem witness_LookupChannel_2b :
  (let s : State := st ((rm).putTh 7 159 15 { state := 2, tags := [(7, .out { ch := 0, op := 2, args := [5], order := 0, len := 60, w4 := 0 })] }); let sl : Fin 8 := 7; let e : Fin 160 := 159; let t : Fin 16 := 15; let tag : Fin 8 := 7; let w : ThreadRef := ⟨sl, e, t⟩; let q : ChanReq := { ch := 0, op := 2, args := [5], order := 0, len := 60, w4 := 0 }; Quiet s ∧ w = ⟨sl, e, t⟩ ∧ s.m.takeReq w tag 0 2 = some q ∧ s.m.lookupKey q 2 = none) := by
  (try simp only [Quiet, wheelIdle_iff, mayRun_iff]) <;> decide +kernel

theorem witness_LookupChannel_3 :
  (let s : State := st (({ rs [(F.PAT_SCOPE_CFG_KIND, [5], 1), (F.PAT_SCOPE_CFG_KEY_WORDS, [5], 2)] with pat := { cache := [((rs [(F.PAT_SCOPE_CFG_KIND, [5], 1), (F.PAT_SCOPE_CFG_KEY_WORDS, [5], 2)]).setKey 7 5 [5, 6], [{ way := 0, e := { scope := 5, key := [5, 6], act := [9] } }])] } }).putTh 7 159 15 { state := 2, tags := [(7, .out { ch := 0, op := 0, args := [5 + 2 * 2 ^ 16, 5, 6], order := 0, len := 60, w4 := 0 })] }); let sl : Fin 8 := 7; let e : Fin 160 := 159; let t : Fin 16 := 15; let tag : Fin 8 := 7; let w : ThreadRef := ⟨sl, e, t⟩; let q : ChanReq := { ch := 0, op := 0, args := [5 + 2 * 2 ^ 16, 5, 6], order := 0, len := 60, w4 := 0 }; let scope : Nat := 5; let k : Nat := (rs [(F.PAT_SCOPE_CFG_KIND, [5], 1), (F.PAT_SCOPE_CFG_KEY_WORDS, [5], 2)]).setKey 7 5 [5, 6]; let key : List Nat := [5, 6]; let l : Line := { way := 0, e := { scope := 5, key := [5, 6], act := [9] } }; k = s.m.setKey sl scope key ∧ s.m.lines k = [l] ∧ Quiet s ∧ w = ⟨sl, e, t⟩ ∧ l.of scope key = true ∧ l.absent = false ∧ s.m.visible sl (s.m.th sl e t).seq l.e.role l.e.tag = true ∧ s.m.lookupKey q 1 = some (scope, key) ∧ s.m.takeReq w tag 0 0 = some q) :=
  ⟨by apply setKey_regs; rfl, by apply lines_one; rfl, by (try simp only [Quiet, wheelIdle_iff, mayRun_iff]) <;> decide +kernel⟩

theorem witness_LookupChannel_3a :
  (let s : State := st (({ rs [(F.PAT_SCOPE_CFG_KIND, [5], 1), (F.PAT_SCOPE_CFG_KEY_WORDS, [5], 2)] with pat := { cache := [((rs [(F.PAT_SCOPE_CFG_KIND, [5], 1), (F.PAT_SCOPE_CFG_KEY_WORDS, [5], 2)]).setKey 7 5 [5, 6], [{ way := 0, e := { scope := 5, key := [5, 6], act := [9] } }])] } }).putTh 7 159 15 { state := 2, tags := [(7, .out { ch := 0, op := 1, args := [5 + 2 * 2 ^ 16, 5, 6], order := 0, len := 60, w4 := 0 })] }); let sl : Fin 8 := 7; let e : Fin 160 := 159; let t : Fin 16 := 15; let tag : Fin 8 := 7; let w : ThreadRef := ⟨sl, e, t⟩; let q : ChanReq := { ch := 0, op := 1, args := [5 + 2 * 2 ^ 16, 5, 6], order := 0, len := 60, w4 := 0 }; let scope : Nat := 5; let k : Nat := (rs [(F.PAT_SCOPE_CFG_KIND, [5], 1), (F.PAT_SCOPE_CFG_KEY_WORDS, [5], 2)]).setKey 7 5 [5, 6]; let key : List Nat := [5, 6]; let l : Line := { way := 0, e := { scope := 5, key := [5, 6], act := [9] } }; k = s.m.setKey sl scope key ∧ s.m.lines k = [l] ∧ Quiet s ∧ w = ⟨sl, e, t⟩ ∧ l.of scope key = true ∧ l.absent = false ∧ s.m.visible sl (s.m.th sl e t).seq l.e.role l.e.tag = true ∧ s.m.lookupKey q 1 = some (scope, key) ∧ s.m.takeReq w tag 0 1 = some q) :=
  ⟨by apply setKey_regs; rfl, by apply lines_one; rfl, by (try simp only [Quiet, wheelIdle_iff, mayRun_iff]) <;> decide +kernel⟩

theorem witness_LookupChannel_4 :
  (let s : State := st ((rs [(F.PAT_SCOPE_CFG_KIND, [5], 1), (F.PAT_SCOPE_CFG_KEY_WORDS, [5], 2)]).putTh 7 159 15 { state := 2, tags := [(7, .out { ch := 0, op := 0, args := [5 + 2 * 2 ^ 16, 5, 6], order := 0, len := 60, w4 := 0 })] }); let sl : Fin 8 := 7; let e : Fin 160 := 159; let t : Fin 16 := 15; let tag : Fin 8 := 7; let w : ThreadRef := ⟨sl, e, t⟩; let q : ChanReq := { ch := 0, op := 0, args := [5 + 2 * 2 ^ 16, 5, 6], order := 0, len := 60, w4 := 0 }; let scope : Nat := 5; let k : Nat := (rs [(F.PAT_SCOPE_CFG_KIND, [5], 1), (F.PAT_SCOPE_CFG_KEY_WORDS, [5], 2)]).setKey 7 5 [5, 6]; let key : List Nat := [5, 6]; k = s.m.setKey sl scope key ∧ Quiet s ∧ w = ⟨sl, e, t⟩ ∧ s.m.lines k = [] ∧ s.m.pat.fills = [] ∧ s.m.lookupKey q 1 = some (scope, key) ∧ s.m.takeReq w tag 0 0 = some q) :=
  ⟨by apply setKey_regs; rfl, by (try simp only [Quiet, wheelIdle_iff, mayRun_iff]) <;> decide +kernel⟩

theorem witness_LookupChannel_4a :
  (let s : State := st ((rs [(F.PAT_SCOPE_CFG_KIND, [5], 1), (F.PAT_SCOPE_CFG_KEY_WORDS, [5], 2)]).putTh 7 159 15 { state := 2, tags := [(7, .out { ch := 0, op := 1, args := [5 + 2 * 2 ^ 16, 5, 6], order := 0, len := 60, w4 := 0 })] }); let sl : Fin 8 := 7; let e : Fin 160 := 159; let t : Fin 16 := 15; let tag : Fin 8 := 7; let w : ThreadRef := ⟨sl, e, t⟩; let q : ChanReq := { ch := 0, op := 1, args := [5 + 2 * 2 ^ 16, 5, 6], order := 0, len := 60, w4 := 0 }; let scope : Nat := 5; let k : Nat := (rs [(F.PAT_SCOPE_CFG_KIND, [5], 1), (F.PAT_SCOPE_CFG_KEY_WORDS, [5], 2)]).setKey 7 5 [5, 6]; let key : List Nat := [5, 6]; k = s.m.setKey sl scope key ∧ Quiet s ∧ w = ⟨sl, e, t⟩ ∧ s.m.lines k = [] ∧ s.m.pat.fills = [] ∧ s.m.lookupKey q 1 = some (scope, key) ∧ s.m.takeReq w tag 0 1 = some q) :=
  ⟨by apply setKey_regs; rfl, by (try simp only [Quiet, wheelIdle_iff, mayRun_iff]) <;> decide +kernel⟩

theorem witness_LookupChannel_5 :
  (let s : State := st (({ rs [(F.PAT_SCOPE_CFG_KIND, [5], 2), (F.PAT_SCOPE_CFG_KEY_WORDS, [5], 1)] with pat := { rules := [(7 * 65536 + 65535, { scope := 5, priority := 3, value := [5], mask := [255], ranges := [], act := [9] })] } }).putTh 7 159 15 { state := 2, tags := [(7, .out { ch := 0, op := 2, args := [5 + 2 ^ 16, 5], order := 0, len := 60, w4 := 0 })] }); let sl : Fin 8 := 7; let e : Fin 160 := 159; let t : Fin 16 := 15; let tag : Fin 8 := 7; let w : ThreadRef := ⟨sl, e, t⟩; let q : ChanReq := { ch := 0, op := 2, args := [5 + 2 ^ 16, 5], order := 0, len := 60, w4 := 0 }; let scope : Nat := 5; let key : List Nat := [5]; let r : Resp := (s.m.ruleLookup 7 5 [5] (s.m.th 7 159 15).seq (s.m.th 7 159 15).pkt.origin none).1; let m : Mod := (s.m.ruleLookup 7 5 [5] (s.m.th 7 159 15).seq (s.m.th 7 159 15).pkt.origin none).2; Quiet s ∧ w = ⟨sl, e, t⟩ ∧ s.m.takeReq w tag 0 2 = some q ∧ s.m.lookupKey q 2 = some (scope, key) ∧ s.m.ruleLookup sl scope key (s.m.th sl e t).seq (s.m.th sl e t).pkt.origin none = (r, m)) := by
  (try simp only [Quiet, wheelIdle_iff, mayRun_iff]) <;> decide +kernel

theorem witness_LookupChannel_6 :
  (let m : Mod := { rs [(F.PAT_SCOPE_CFG_KIND, [5], 2), (F.PAT_SCOPE_CFG_KEY_WORDS, [5], 1)] with pat := { rules := [(7 * 65536 + 65535, { scope := 5, priority := 3, value := [5], mask := [255], ranges := [], act := [9] })] } }; let s : Nat := 7; let scope : Nat := 5; let seq : Nat := 9; let key : List Nat := [5]; let o : Origin := .port 95 7; let r : Resp := (m.ruleLookup 7 5 [5] 9 (.port 95 7) none).1; (m.ruleLookup s scope key seq o none).1 = r ∧ r.status = 0) := by
  (try simp only [Quiet, wheelIdle_iff, mayRun_iff]) <;> decide +kernel

theorem witness_LookupChannel_7 :
  (let s : State := st ((rm).putTh 7 159 15 { state := 2, tags := [(7, .out { ch := 0, op := 8, args := [(2 ^ 39 + 0x600000000)], order := 0, len := 60, w4 := 0 })] }); let sl : Fin 8 := 7; let e : Fin 160 := 159; let t : Fin 16 := 15; let tag : Fin 8 := 7; let w : ThreadRef := ⟨sl, e, t⟩; let q : ChanReq := { ch := 0, op := 8, args := [(2 ^ 39 + 0x600000000)], order := 0, len := 60, w4 := 0 }; let a : Nat := (2 ^ 39 + 0x600000000); let addr : Nat := (2 ^ 39 + 0x600000000); let n : Nat := 1; let vs : List Nat := []; let old : List Nat := (List.range n).map (fun i => leNat (memBytes s.mem (addr + 8 * i) 8)); Quiet s ∧ w = ⟨sl, e, t⟩ ∧ q.args = a :: vs ∧ a % 2 ^ 40 = addr ∧ bits a 40 3 + 1 = n ∧ inDataRegion addr = true ∧ old = (List.range n).map (fun i => leNat (memBytes s.mem (addr + 8 * i) 8)) ∧ s.m.takeReq w tag 0 8 = some q ∧ memBad 0 addr n (vs.length + 1) = false) := by
  (try simp only [Quiet, wheelIdle_iff, mayRun_iff]) <;> decide +kernel

theorem witness_LookupChannel_7a :
  (let s : State := st ((rm).putTh 7 159 15 { state := 2, tags := [(7, .out { ch := 0, op := 9, args := [(2 ^ 39 + 0x600000000), 7], order := 0, len := 60, w4 := 0 })] }); let sl : Fin 8 := 7; let e : Fin 160 := 159; let t : Fin 16 := 15; let tag : Fin 8 := 7; let w : ThreadRef := ⟨sl, e, t⟩; let q : ChanReq := { ch := 0, op := 9, args := [(2 ^ 39 + 0x600000000), 7], order := 0, len := 60, w4 := 0 }; let a : Nat := (2 ^ 39 + 0x600000000); let addr : Nat := (2 ^ 39 + 0x600000000); let n : Nat := 1; let vs : List Nat := [7]; let old : List Nat := (List.range n).map (fun i => leNat (memBytes s.mem (addr + 8 * i) 8)); Quiet s ∧ w = ⟨sl, e, t⟩ ∧ q.args = a :: vs ∧ a % 2 ^ 40 = addr ∧ bits a 40 3 + 1 = n ∧ inDataRegion addr = true ∧ old = (List.range n).map (fun i => leNat (memBytes s.mem (addr + 8 * i) 8)) ∧ s.m.takeReq w tag 0 9 = some q ∧ memBad 1 addr n (vs.length + 1) = false) := by
  (try simp only [Quiet, wheelIdle_iff, mayRun_iff]) <;> decide +kernel

theorem witness_LookupChannel_7b :
  (let s : State := st ((rm).putTh 7 159 15 { state := 2, tags := [(7, .out { ch := 0, op := 10, args := [(2 ^ 39 + 0x600000000), 7], order := 0, len := 60, w4 := 0 })] }); let sl : Fin 8 := 7; let e : Fin 160 := 159; let t : Fin 16 := 15; let tag : Fin 8 := 7; let w : ThreadRef := ⟨sl, e, t⟩; let q : ChanReq := { ch := 0, op := 10, args := [(2 ^ 39 + 0x600000000), 7], order := 0, len := 60, w4 := 0 }; let a : Nat := (2 ^ 39 + 0x600000000); let addr : Nat := (2 ^ 39 + 0x600000000); let n : Nat := 1; let vs : List Nat := [7]; let old : List Nat := (List.range n).map (fun i => leNat (memBytes s.mem (addr + 8 * i) 8)); Quiet s ∧ w = ⟨sl, e, t⟩ ∧ q.args = a :: vs ∧ a % 2 ^ 40 = addr ∧ bits a 40 3 + 1 = n ∧ inDataRegion addr = true ∧ old = (List.range n).map (fun i => leNat (memBytes s.mem (addr + 8 * i) 8)) ∧ s.m.takeReq w tag 0 10 = some q ∧ memBad 2 addr n (vs.length + 1) = false) := by
  (try simp only [Quiet, wheelIdle_iff, mayRun_iff]) <;> decide +kernel

theorem witness_LookupChannel_8 :
  (let s : State := st ((rm).putTh 7 159 15 { state := 2, tags := [(7, .out { ch := 0, op := 8, args := [(2 ^ 39 + 0x600000000 + 4)], order := 0, len := 60, w4 := 0 })] }); let sl : Fin 8 := 7; let e : Fin 160 := 159; let t : Fin 16 := 15; let tag : Fin 8 := 7; let w : ThreadRef := ⟨sl, e, t⟩; let q : ChanReq := { ch := 0, op := 8, args := [(2 ^ 39 + 0x600000000 + 4)], order := 0, len := 60, w4 := 0 }; let a : Nat := (2 ^ 39 + 0x600000000 + 4); let addr : Nat := (2 ^ 39 + 0x600000000 + 4); let n : Nat := 1; let vs : List Nat := []; Quiet s ∧ w = ⟨sl, e, t⟩ ∧ q.args = a :: vs ∧ a % 2 ^ 40 = addr ∧ bits a 40 3 + 1 = n ∧ s.m.takeReq w tag 0 8 = some q ∧ memBad 0 addr n (vs.length + 1) = true) := by
  (try simp only [Quiet, wheelIdle_iff, mayRun_iff]) <;> decide +kernel

theorem witness_LookupChannel_8a :
  (let s : State := st ((rm).putTh 7 159 15 { state := 2, tags := [(7, .out { ch := 0, op := 9, args := [(2 ^ 39 + 0x600000000 + 4), 7], order := 0, len := 60, w4 := 0 })] }); let sl : Fin 8 := 7; let e : Fin 160 := 159; let t : Fin 16 := 15; let tag : Fin 8 := 7; let w : ThreadRef := ⟨sl, e, t⟩; let q : ChanReq := { ch := 0, op := 9, args := [(2 ^ 39 + 0x600000000 + 4), 7], order := 0, len := 60, w4 := 0 }; let a : Nat := (2 ^ 39 + 0x600000000 + 4); let addr : Nat := (2 ^ 39 + 0x600000000 + 4); let n : Nat := 1; let vs : List Nat := [7]; Quiet s ∧ w = ⟨sl, e, t⟩ ∧ q.args = a :: vs ∧ a % 2 ^ 40 = addr ∧ bits a 40 3 + 1 = n ∧ s.m.takeReq w tag 0 9 = some q ∧ memBad 1 addr n (vs.length + 1) = true) := by
  (try simp only [Quiet, wheelIdle_iff, mayRun_iff]) <;> decide +kernel

theorem witness_LookupChannel_9 :
  (let s : State := st ((rm).putTh 7 159 15 { state := 2, tags := [(7, .out { ch := 0, op := 12, args := [2 ^ 18 - 8], order := 0, len := 60, w4 := 0 })] }); let sl : Fin 8 := 7; let e : Fin 160 := 159; let t : Fin 16 := 15; let tag : Fin 8 := 7; let w : ThreadRef := ⟨sl, e, t⟩; let q : ChanReq := { ch := 0, op := 12, args := [2 ^ 18 - 8], order := 0, len := 60, w4 := 0 }; let off : Nat := 2 ^ 18 - 8; let key : Nat := (sl.val * 10 + e.val / 16) * 32768 + off / 8; let vs : List Nat := []; Quiet s ∧ w = ⟨sl, e, t⟩ ∧ q.args = off :: vs ∧ off < 2 ^ 18 ∧ off % 8 = 0 ∧ key = (sl.val * 10 + e.val / 16) * 32768 + off / 8 ∧ s.m.takeReq w tag 0 12 = some q) := by
  (try simp only [Quiet, wheelIdle_iff, mayRun_iff]) <;> decide +kernel

theorem witness_LookupChannel_9a :
  (let s : State := st ((rm).putTh 7 159 15 { state := 2, tags := [(7, .out { ch := 0, op := 13, args := [2 ^ 18 - 8, 7], order := 0, len := 60, w4 := 0 })] }); let sl : Fin 8 := 7; let e : Fin 160 := 159; let t : Fin 16 := 15; let tag : Fin 8 := 7; let w : ThreadRef := ⟨sl, e, t⟩; let q : ChanReq := { ch := 0, op := 13, args := [2 ^ 18 - 8, 7], order := 0, len := 60, w4 := 0 }; let off : Nat := 2 ^ 18 - 8; let key : Nat := (sl.val * 10 + e.val / 16) * 32768 + off / 8; let vs : List Nat := [7]; Quiet s ∧ w = ⟨sl, e, t⟩ ∧ q.args = off :: vs ∧ off < 2 ^ 18 ∧ off % 8 = 0 ∧ key = (sl.val * 10 + e.val / 16) * 32768 + off / 8 ∧ s.m.takeReq w tag 0 13 = some q) := by
  (try simp only [Quiet, wheelIdle_iff, mayRun_iff]) <;> decide +kernel

theorem witness_LookupChannel_9b :
  (let s : State := st ((rm).putTh 7 159 15 { state := 2, tags := [(7, .out { ch := 0, op := 14, args := [2 ^ 18 - 8, 7], order := 0, len := 60, w4 := 0 })] }); let sl : Fin 8 := 7; let e : Fin 160 := 159; let t : Fin 16 := 15; let tag : Fin 8 := 7; let w : ThreadRef := ⟨sl, e, t⟩; let q : ChanReq := { ch := 0, op := 14, args := [2 ^ 18 - 8, 7], order := 0, len := 60, w4 := 0 }; let off : Nat := 2 ^ 18 - 8; let key : Nat := (sl.val * 10 + e.val / 16) * 32768 + off / 8; let vs : List Nat := [7]; Quiet s ∧ w = ⟨sl, e, t⟩ ∧ q.args = off :: vs ∧ off < 2 ^ 18 ∧ off % 8 = 0 ∧ key = (sl.val * 10 + e.val / 16) * 32768 + off / 8 ∧ s.m.takeReq w tag 0 14 = some q) := by
  (try simp only [Quiet, wheelIdle_iff, mayRun_iff]) <;> decide +kernel

theorem witness_LookupChannel_9c :
  (let s : State := st ((rm).putTh 7 159 15 { state := 2, tags := [(7, .out { ch := 0, op := 15, args := [2 ^ 18 - 8, 0, 7], order := 0, len := 60, w4 := 0 })] }); let sl : Fin 8 := 7; let e : Fin 160 := 159; let t : Fin 16 := 15; let tag : Fin 8 := 7; let w : ThreadRef := ⟨sl, e, t⟩; let q : ChanReq := { ch := 0, op := 15, args := [2 ^ 18 - 8, 0, 7], order := 0, len := 60, w4 := 0 }; let off : Nat := 2 ^ 18 - 8; let key : Nat := (sl.val * 10 + e.val / 16) * 32768 + off / 8; let vs : List Nat := [0, 7]; Quiet s ∧ w = ⟨sl, e, t⟩ ∧ q.args = off :: vs ∧ off < 2 ^ 18 ∧ off % 8 = 0 ∧ key = (sl.val * 10 + e.val / 16) * 32768 + off / 8 ∧ s.m.takeReq w tag 0 15 = some q) := by
  (try simp only [Quiet, wheelIdle_iff, mayRun_iff]) <;> decide +kernel

theorem witness_LookupChannel_10 :
  (let s : State := st ((rm).putTh 7 159 15 { state := 2, tags := [(7, .out { ch := 0, op := 16, args := [2 ^ 63], order := 0, len := 60, w4 := 0 })] }); let sl : Fin 8 := 7; let e : Fin 160 := 159; let t : Fin 16 := 15; let tag : Fin 8 := 7; let w : ThreadRef := ⟨sl, e, t⟩; let q : ChanReq := { ch := 0, op := 16, args := [2 ^ 63], order := 0, len := 60, w4 := 0 }; Quiet s ∧ w = ⟨sl, e, t⟩ ∧ s.m.takeReq w tag 0 16 = some q) := by
  (try simp only [Quiet, wheelIdle_iff, mayRun_iff]) <;> decide +kernel

theorem witness_LookupChannel_11 :
  (let s : State := rd; Quiet s ∧ s.m.pat.fills = []) := by
  (try simp only [Quiet, wheelIdle_iff, mayRun_iff]) <;> decide +kernel

theorem witness_LookupChannel_12 :
  (let s : State := st { rm with pat := { fills := [{ slice := 7, scope := 5, key := [5, 6], waits := [(⟨7, 159, 15⟩, 7)], stale := true }] } }; let sl : Fin 8 := 7; let f : Fill := { slice := 7, scope := 5, key := [5, 6], waits := [(⟨7, 159, 15⟩, 7)], stale := true }; Quiet s ∧ s.m.pat.fills = [f] ∧ f.slice = sl.val ∧ f.stale = true) := by
  (try simp only [Quiet, wheelIdle_iff, mayRun_iff]) <;> decide +kernel

theorem witness_LookupChannel_13 :
  (let s : State := st { exMod0 with pat := { fills := [{ slice := 7, scope := 5, key := [5, 6], waits := [(⟨7, 159, 15⟩, 7)], stale := false }], hbm := [ex0] } }; let sl : Fin 8 := 7; let f : Fill := { slice := 7, scope := 5, key := [5, 6], waits := [(⟨7, 159, 15⟩, 7)], stale := false }; let w : ThreadRef := ⟨7, 159, 15⟩; let tag : Nat := 7; let n : Nat := ex0.1; let c : ExEntry := ex0.2; let m : Mod := Mod.install (Mod.fgUse { s.m with pat := { s.m.pat with fills := [] } } [hbmUnit (HbmRegion.flow.unitAddr (s.m.buckets f.scope f.key).1), hbmUnit (HbmRegion.flow.unitAddr (s.m.buckets f.scope f.key).2), 145 + sl.val]) sl false c; s.m.copies f.scope f.key = [(n, c)] ∧ m = Mod.install (Mod.fgUse { s.m with pat := { s.m.pat with fills := [] } } [hbmUnit (HbmRegion.flow.unitAddr (s.m.buckets f.scope f.key).1), hbmUnit (HbmRegion.flow.unitAddr (s.m.buckets f.scope f.key).2), 145 + sl.val]) sl false c ∧ m.visible sl (m.th w.s w.e w.t).seq c.role c.tag = true ∧ Quiet s ∧ s.m.pat.fills = [f] ∧ f.slice = sl.val ∧ f.stale = false ∧ f.waits = [(w, tag)]) :=
  ⟨copies_ex0 rfl rfl, rfl, visible_zero rfl, by (try simp only [Quiet, wheelIdle_iff, mayRun_iff]) <;> decide +kernel⟩

theorem witness_RewriteChannel :
  (let s : State := rd; let sl : Fin 8 := 7; let e : Fin 160 := 159; let t : Fin 16 := 15; let w : ThreadRef := ⟨sl, e, t⟩; Quiet s ∧ w = ⟨sl, e, t⟩) ∧
  (let s : State := st ((rm).putTh 7 159 15 { state := 2, pkt := { bytes := List.replicate 300 1, passes := 1 }, window := List.replicate 256 1, tags := [(7, .out { ch := 1, op := 0, args := [], order := 0, len := 300, w4 := 0 })] }); let sl : Fin 8 := 7; let e : Fin 160 := 159; let t : Fin 16 := 15; let tag : Fin 8 := 7; let w : ThreadRef := ⟨sl, e, t⟩; let q : ChanReq := { ch := 1, op := 0, args := [], order := 0, len := 300, w4 := 0 }; Quiet s ∧ w = ⟨sl, e, t⟩ ∧ s.m.takeReq w tag 1 0 = some q ∧ (s.m.th sl e t).state ≠ 4 ∧ s.m.takeReq w tag 1 0 = some q) ∧
  (let s : State := st ((rm).putTh 7 159 15 { state := 4, tags := [(7, .out { ch := 1, op := 2, args := [0], order := 0, len := 60, w4 := 0 })] }); let sl : Fin 8 := 7; let e : Fin 160 := 159; let t : Fin 16 := 15; let tag : Fin 8 := 7; let w : ThreadRef := ⟨sl, e, t⟩; let q : ChanReq := { ch := 1, op := 2, args := [0], order := 0, len := 60, w4 := 0 }; Quiet s ∧ w = ⟨sl, e, t⟩ ∧ s.m.takeReq w tag 1 2 = some q ∧ (s.m.th sl e t).state = 4 ∧ s.m.takeReq w tag 1 2 = some q) ∧
  (let s : State := st ((rm).putTh 7 159 15 { state := 2, pkt := { bytes := List.replicate 300 1, passes := 1 }, window := List.replicate 256 1, tags := [(7, .out { ch := 1, op := 1, args := [255 + 255 * 256], order := 0, len := 300, w4 := 0 })] }); let sl : Fin 8 := 7; let e : Fin 160 := 159; let t : Fin 16 := 15; let tag : Fin 8 := 7; let w : ThreadRef := ⟨sl, e, t⟩; let q : ChanReq := { ch := 1, op := 1, args := [255 + 255 * 256], order := 0, len := 300, w4 := 0 }; let a : Nat := 255 + 255 * 256; let off : Nat := 255; let n : Nat := 256; let d : List Byte := ((s.m.th 7 159 15).wrote q).pkt.bytes; Quiet s ∧ w = ⟨sl, e, t⟩ ∧ (s.m.th sl e t).state ≠ 4 ∧ q.args.headD 0 = a ∧ a % 256 = off ∧ bits a 8 8 + 1 = n ∧ d = ((s.m.th sl e t).wrote q).pkt.bytes ∧ s.m.takeReq w tag 1 1 = some q ∧ off ≤ d.length ∧ d.length + n ≤ 9600) ∧
  (let s : State := st ((rm).putTh 7 159 15 { state := 2, pkt := { bytes := List.replicate 254 1 }, tags := [(7, .out { ch := 1, op := 1, args := [255], order := 0, len := 254, w4 := 0 })] }); let sl : Fin 8 := 7; let e : Fin 160 := 159; let t : Fin 16 := 15; let tag : Fin 8 := 7; let w : ThreadRef := ⟨sl, e, t⟩; let q : ChanReq := { ch := 1, op := 1, args := [255], order := 0, len := 254, w4 := 0 }; let a : Nat := 255; let off : Nat := 255; let n : Nat := 1; let d : List Byte := ((s.m.th 7 159 15).wrote q).pkt.bytes; Quiet s ∧ w = ⟨sl, e, t⟩ ∧ (s.m.th sl e t).state ≠ 4 ∧ q.args.headD 0 = a ∧ a % 256 = off ∧ bits a 8 8 + 1 = n ∧ d = ((s.m.th sl e t).wrote q).pkt.bytes ∧ s.m.takeReq w tag 1 1 = some q ∧ (d.length < off ∨ 9600 < d.length + n)) ∧
  (let s : State := st ((rm).putTh 7 159 15 { state := 2, pkt := { bytes := List.replicate 300 1, passes := 1 }, window := List.replicate 256 1, tags := [(7, .out { ch := 1, op := 3, args := [292], order := 0, len := 300, w4 := 0 })] }); let sl : Fin 8 := 7; let e : Fin 160 := 159; let t : Fin 16 := 15; let tag : Fin 8 := 7; let w : ThreadRef := ⟨sl, e, t⟩; let q : ChanReq := { ch := 1, op := 3, args := [292], order := 0, len := 300, w4 := 0 }; let a : Nat := 292; let off : Nat := 292; let n : Nat := 1; let ws : List Nat := []; let d : List Byte := ((s.m.th 7 159 15).wrote q).pkt.bytes; Quiet s ∧ w = ⟨sl, e, t⟩ ∧ (s.m.th sl e t).state ≠ 4 ∧ q.args = a :: ws ∧ a % 65536 = off ∧ bits a 16 3 + 1 = n ∧ d = ((s.m.th sl e t).wrote q).pkt.bytes ∧ s.m.takeReq w tag 1 3 = some q ∧ off + 8 * n ≤ d.length) ∧
  (let s : State := st ((rm).putTh 7 159 15 { state := 2, pkt := { bytes := List.replicate 300 1, passes := 1 }, window := List.replicate 256 1, tags := [(7, .out { ch := 1, op := 4, args := [292, 7], order := 0, len := 300, w4 := 0 })] }); let sl : Fin 8 := 7; let e : Fin 160 := 159; let t : Fin 16 := 15; let tag : Fin 8 := 7; let w : ThreadRef := ⟨sl, e, t⟩; let q : ChanReq := { ch := 1, op := 4, args := [292, 7], order := 0, len := 300, w4 := 0 }; let a : Nat := 292; let off : Nat := 292; let n : Nat := 1; let ws : List Nat := [7]; let d : List Byte := ((s.m.th 7 159 15).wrote q).pkt.bytes; Quiet s ∧ w = ⟨sl, e, t⟩ ∧ (s.m.th sl e t).state ≠ 4 ∧ q.args = a :: ws ∧ a % 65536 = off ∧ bits a 16 3 + 1 = n ∧ d = ((s.m.th sl e t).wrote q).pkt.bytes ∧ s.m.takeReq w tag 1 4 = some q ∧ off + 8 * n ≤ d.length) ∧
  (let s : State := st ((rm).putTh 7 159 15 { state := 2, pkt := { bytes := List.replicate 300 1, passes := 1 }, window := List.replicate 256 1, tags := [(7, .out { ch := 1, op := 3, args := [293], order := 0, len := 300, w4 := 0 })] }); let sl : Fin 8 := 7; let e : Fin 160 := 159; let t : Fin 16 := 15; let tag : Fin 8 := 7; let w : ThreadRef := ⟨sl, e, t⟩; let q : ChanReq := { ch := 1, op := 3, args := [293], order := 0, len := 300, w4 := 0 }; let a : Nat := 293; let off : Nat := 293; let n : Nat := 1; let ws : List Nat := []; let d : List Byte := ((s.m.th 7 159 15).wrote q).pkt.bytes; Quiet s ∧ w = ⟨sl, e, t⟩ ∧ (s.m.th sl e t).state ≠ 4 ∧ q.args = a :: ws ∧ a % 65536 = off ∧ bits a 16 3 + 1 = n ∧ d = ((s.m.th sl e t).wrote q).pkt.bytes ∧ s.m.takeReq w tag 1 3 = some q ∧ d.length < off + 8 * n) ∧
  (let s : State := st ((rm).putTh 7 159 15 { state := 2, pkt := { bytes := List.replicate 300 1, passes := 1 }, window := List.replicate 256 1, tags := [(7, .out { ch := 1, op := 5, args := [63], order := 0, len := 300, w4 := 0 })] }); let sl : Fin 8 := 7; let e : Fin 160 := 159; let t : Fin 16 := 15; let tag : Fin 8 := 7; let w : ThreadRef := ⟨sl, e, t⟩; let q : ChanReq := { ch := 1, op := 5, args := [63], order := 0, len := 300, w4 := 0 }; Quiet s ∧ w = ⟨sl, e, t⟩ ∧ s.m.takeReq w tag 1 5 = some q ∧ (s.m.th sl e t).state ≠ 4 ∧ s.m.takeReq w tag 1 5 = some q) ∧
  (let m : Mod := (rm).putTh 7 159 15 { state := 1 }; let m' : Mod := (m.takeCells 7 159 15 3 true).getD m; let s : Nat := 7; let e : Nat := 159; let t : Nat := 15; let n : Nat := 3; m.takeCells s e t n true = some m') ∧
  (let s : State := st ((rm).putTh 7 159 15 { state := 2, pkt := { bytes := List.replicate 300 1, passes := 1 }, window := List.replicate 256 1, tags := [(7, .out { ch := 1, op := 6, args := [(1 + 95 * 4 + 7 * 2 ^ 9)], order := 0, len := 300, w4 := 0 })] }); let sl : Fin 8 := 7; let e : Fin 160 := 159; let t : Fin 16 := 15; let tag : Fin 8 := 7; let w : ThreadRef := ⟨sl, e, t⟩; let q : ChanReq := { ch := 1, op := 6, args := [(1 + 95 * 4 + 7 * 2 ^ 9)], order := 0, len := 300, w4 := 0 }; let a : Nat := (1 + 95 * 4 + 7 * 2 ^ 9); let d : Dest := .port 95 7; let b : List Byte := ((s.m.th 7 159 15).wrote q).pkt.bytes; let m' : Mod := ((s.m.wrote ⟨7, 159, 15⟩ q).useCells 7 159 15 2).getD s.m; Quiet s ∧ w = ⟨sl, e, t⟩ ∧ s.m.takeReq w tag 1 6 = some q ∧ (s.m.th sl e t).state ≠ 4 ∧ q.args.headD 0 = a ∧ destOf a = some d ∧ (s.m.th sl e t).copies.length < 16 ∧ b = ((s.m.th sl e t).wrote q).pkt.bytes ∧ (s.m.wrote w q).useCells sl e t (ceilDiv b.length 256) = some m' ∧ m'.fit.pend = [] ∧ s.m.takeReq w tag 1 6 = some q) ∧
  (let s : State := st ((rm).putTh 7 159 15 { state := 2, pkt := { bytes := List.replicate 300 1, passes := 1 }, window := List.replicate 256 1, tags := [(7, .out { ch := 1, op := 7, args := [(1 + 95 * 4 + 7 * 2 ^ 9), 65], order := 0, len := 300, w4 := 0 })] }); let sl : Fin 8 := 7; let e : Fin 160 := 159; let t : Fin 16 := 15; let tag : Fin 8 := 7; let w : ThreadRef := ⟨sl, e, t⟩; let q : ChanReq := { ch := 1, op := 7, args := [(1 + 95 * 4 + 7 * 2 ^ 9), 65], order := 0, len := 300, w4 := 0 }; let a : Nat := (1 + 95 * 4 + 7 * 2 ^ 9); let tr : Nat := 65; let d : Dest := .port 95 7; let b : List Byte := ((s.m.th 7 159 15).wrote q).pkt.bytes.take 65; let m' : Mod := ((s.m.wrote ⟨7, 159, 15⟩ q).useCells 7 159 15 1).getD s.m; Quiet s ∧ w = ⟨sl, e, t⟩ ∧ s.m.takeReq w tag 1 7 = some q ∧ (s.m.th sl e t).state ≠ 4 ∧ q.args = [a, tr] ∧ destOf a = some d ∧ (s.m.th sl e t).copies.length < 16 ∧ tr < 65536 ∧ tr ≠ 0 ∧ b = ((s.m.th sl e t).wrote q).pkt.bytes.take tr ∧ (s.m.wrote w q).useCells sl e t (ceilDiv b.length 256) = some m' ∧ m'.fit.pend = [] ∧ s.m.takeReq w tag 1 7 = some q) ∧
  (let s : State := st ((rm).putTh 7 159 15 { state := 2, pkt := { bytes := List.replicate 300 1, passes := 1 }, window := List.replicate 256 1, tags := [(7, .out { ch := 1, op := 6, args := [0], order := 0, len := 300, w4 := 0 })] }); let sl : Fin 8 := 7; let e : Fin 160 := 159; let t : Fin 16 := 15; let tag : Fin 8 := 7; let w : ThreadRef := ⟨sl, e, t⟩; let q : ChanReq := { ch := 1, op := 6, args := [0], order := 0, len := 300, w4 := 0 }; Quiet s ∧ w = ⟨sl, e, t⟩ ∧ (s.m.th sl e t).state ≠ 4 ∧ destOf (q.args.headD 0) = none ∧ s.m.takeReq w tag 1 6 = some q ∧ s.m.takeReq w tag 1 6 = some q) ∧
  (let s : State := st ((rm).putTh 7 159 15 { state := 2, pkt := { bytes := List.replicate 300 1, passes := 1 }, window := List.replicate 256 1, tags := [(7, .out { ch := 1, op := 8, args := [7 + 31 * 8], order := 0, len := 300, w4 := 0 })] }); let sl : Fin 8 := 7; let e : Fin 160 := 159; let t : Fin 16 := 15; let tag : Fin 8 := 7; let w : ThreadRef := ⟨sl, e, t⟩; let q : ChanReq := { ch := 1, op := 8, args := [7 + 31 * 8], order := 0, len := 300, w4 := 0 }; let v : Nat := 31; Quiet s ∧ w = ⟨sl, e, t⟩ ∧ s.m.takeReq w tag 1 8 = some q ∧ (s.m.th sl e t).state ≠ 4 ∧ bits (q.args.headD 0) 3 5 = v ∧ s.m.takeReq w tag 1 8 = some q) ∧
  (let s : State := st ((rm).putTh 7 159 15 { state := 2, pkt := { bytes := List.replicate 300 1, passes := 1 }, window := List.replicate 256 1, tags := [(7, .out { ch := 1, op := 8, args := [7 + 15 * 8], order := 0, len := 300, w4 := 0 })] }); let sl : Fin 8 := 7; let e : Fin 160 := 159; let t : Fin 16 := 15; let tag : Fin 8 := 7; let w : ThreadRef := ⟨sl, e, t⟩; let q : ChanReq := { ch := 1, op := 8, args := [7 + 15 * 8], order := 0, len := 300, w4 := 0 }; let v : Nat := 15; Quiet s ∧ w = ⟨sl, e, t⟩ ∧ s.m.takeReq w tag 1 8 = some q ∧ (s.m.th sl e t).state ≠ 4 ∧ bits (q.args.headD 0) 3 5 = v ∧ s.m.takeReq w tag 1 8 = some q) ∧
  (let s : State := st ((rs [(F.PRT_CFG_BREAKOUT, [95], 0)]).putTh 7 159 15 { state := 2, tags := [(7, .out { ch := 3, op := 0, args := [95], order := 0, len := 60, w4 := 0 })] }); let sl : Fin 8 := 7; let e : Fin 160 := 159; let t : Fin 16 := 15; let tag : Fin 8 := 7; let w : ThreadRef := ⟨sl, e, t⟩; let q : ChanReq := { ch := 3, op := 0, args := [95], order := 0, len := 60, w4 := 0 }; let a : Nat := 95; let n : Nat := 95; let k : Nat := 0; let c : Nat := 0; let l : List Nat := []; Quiet s ∧ w = ⟨sl, e, t⟩ ∧ q.args = a :: l ∧ bits a 0 7 = n ∧ bits a 7 3 = k ∧ bits a 10 3 = c ∧ n < 96 ∧ k < s.m.subCount n ∧ s.m.takeReq w tag 3 0 = some q) ∧
  (let s : State := st ((rs [(F.PRT_CFG_BREAKOUT, [95], 0)]).putTh 7 159 15 { state := 2, tags := [(7, .out { ch := 3, op := 1, args := [95], order := 0, len := 60, w4 := 0 })] }); let sl : Fin 8 := 7; let e : Fin 160 := 159; let t : Fin 16 := 15; let tag : Fin 8 := 7; let w : ThreadRef := ⟨sl, e, t⟩; let q : ChanReq := { ch := 3, op := 1, args := [95], order := 0, len := 60, w4 := 0 }; let a : Nat := 95; let n : Nat := 95; let k : Nat := 0; let c : Nat := 0; let l : List Nat := []; Quiet s ∧ w = ⟨sl, e, t⟩ ∧ q.args = a :: l ∧ bits a 0 7 = n ∧ bits a 7 3 = k ∧ bits a 10 3 = c ∧ n < 96 ∧ k < s.m.subCount n ∧ s.m.takeReq w tag 3 1 = some q) ∧
  (let s : State := st ((rs [(F.PRT_CFG_BREAKOUT, [95], 0)]).putTh 7 159 15 { state := 2, tags := [(7, .out { ch := 3, op := 2, args := [95], order := 0, len := 60, w4 := 0 })] }); let sl : Fin 8 := 7; let e : Fin 160 := 159; let t : Fin 16 := 15; let tag : Fin 8 := 7; let w : ThreadRef := ⟨sl, e, t⟩; let q : ChanReq := { ch := 3, op := 2, args := [95], order := 0, len := 60, w4 := 0 }; let a : Nat := 95; let n : Nat := 95; let k : Nat := 0; let c : Nat := 0; let l : List Nat := []; Quiet s ∧ w = ⟨sl, e, t⟩ ∧ q.args = a :: l ∧ bits a 0 7 = n ∧ bits a 7 3 = k ∧ bits a 10 3 = c ∧ n < 96 ∧ k < s.m.subCount n ∧ s.m.takeReq w tag 3 2 = some q) ∧
  (let s : State := st ((rm).putTh 7 159 15 { state := 2, tags := [(7, .out { ch := 3, op := 0, args := [96], order := 0, len := 60, w4 := 0 })] }); let sl : Fin 8 := 7; let e : Fin 160 := 159; let t : Fin 16 := 15; let tag : Fin 8 := 7; let w : ThreadRef := ⟨sl, e, t⟩; let q : ChanReq := { ch := 3, op := 0, args := [96], order := 0, len := 60, w4 := 0 }; let a : Nat := 96; let l : List Nat := []; Quiet s ∧ w = ⟨sl, e, t⟩ ∧ q.args = a :: l ∧ (95 < bits a 0 7 ∨ s.m.subCount (bits a 0 7) ≤ bits a 7 3) ∧ s.m.takeReq w tag 3 0 = some q ∧ s.m.takeReq w tag 3 0 = some q) := by
  repeat refine ⟨by (try simp only [Quiet, wheelIdle_iff, mayRun_iff]) <;> decide +kernel, ?_⟩
  all_goals (try simp only [Quiet, wheelIdle_iff, mayRun_iff]) <;> decide +kernel

theorem witness_TableChanges_0 :
  (let s : State := st ((sets rm [(F.PAT_SCOPE_CFG_KIND, [0x1000], 2), (F.PAT_SCOPE_CFG_KEY_WORDS, [0x1000], 1), (F.PAT_SCOPE_CFG_QUOTA, [0x1000], 10), (F.PAT_SCOPE_CFG_SLICE_MASK, [0x1000], 255)])); let c : Cmd := cmd 0x0301 [(0x101, leBytes 2 0x1000 ++ leBytes 2 3 ++ [0, 0, 0, 0] ++ leBytes 8 5 ++ leBytes 8 255 ++ List.replicate 96 0)]; let ops : List (Nat × TblOp) := (match s.m.parseOps (asOp c 0x0301) 0x100 0x102 with | .ok l => l | _ => []); let m' : Mod := (match s.m.changes (asOp c 0x0301) ops with | .ok m => m | _ => s.m); s.m.parseOps (asOp c 0x0301) 0x100 0x102 = .ok ops ∧ s.m.changes (asOp c 0x0301) ops = .ok m' ∧ mayRun s.m c 0x0301 (((ops.map fun o => o.2.scope).eraseDups).map Obj.scope) ∧ ops ≠ [] ∧ ops.length ≤ 64 ∧ c.txn = 0 ∧ (∀ t ∈ s.m.txns, t.2.owner ≠ c.mid) ∧ (∀ o ∈ ops, s.m.opTagged o.2 = false) ∧ s.m.existFault ops [] = none ∧ s.m.quotaFault false ops [] [] = none ∧ (∀ p ∈ m'.pat.parked, p.cmd ≠ some (asOp c 0x0301))) :=
  ⟨ok_of (by decide +kernel), ok_of (by decide +kernel), by (try simp only [Quiet, wheelIdle_iff, mayRun_iff]) <;> decide +kernel⟩

theorem witness_TableChanges_1 :
  (let s : State := st ({ (sets rm [(F.PAT_SCOPE_CFG_KIND, [0x1000], 2), (F.PAT_SCOPE_CFG_KEY_WORDS, [0x1000], 1), (F.PAT_SCOPE_CFG_QUOTA, [0x1000], 10), (F.PAT_SCOPE_CFG_SLICE_MASK, [0x1000], 255)]) with pat := { rules := [(7 * 65536 + 9, { scope := 0x1000, priority := 3, value := [5], mask := [255], ranges := [], act := [9] })] } }); let c : Cmd := cmd 0x0302 [(0x104, leBytes 2 0x1000 ++ leBytes 2 3)]; let ops : List (Nat × TblOp) := (match s.m.parseOps (asOp c 0x0302) 0x103 0x105 with | .ok l => l | _ => []); let m' : Mod := (match s.m.changes (asOp c 0x0302) ops with | .ok m => m | _ => s.m); s.m.parseOps (asOp c 0x0302) 0x103 0x105 = .ok ops ∧ s.m.changes (asOp c 0x0302) ops = .ok m' ∧ mayRun s.m c 0x0302 (((ops.map fun o => o.2.scope).eraseDups).map Obj.scope) ∧ ops ≠ [] ∧ c.txn = 0 ∧ (∀ t ∈ s.m.txns, t.2.owner ≠ c.mid) ∧ (∀ o ∈ ops, s.m.opTagged o.2 = false) ∧ s.m.existFault ops [] = none ∧ s.m.quotaFault false ops [] [] = none) :=
  ⟨ok_of (by decide +kernel), ok_of (by decide +kernel), by (try simp only [Quiet, wheelIdle_iff, mayRun_iff]) <;> decide +kernel⟩

theorem witness_TableChanges_2 :
  (let s : State := st ((sets rm [(F.PAT_SCOPE_CFG_KIND, [5], 1), (F.PAT_SCOPE_CFG_KEY_WORDS, [5], 2), (F.PAT_SCOPE_CFG_QUOTA, [5], 10), (F.PAT_SCOPE_CFG_SLICE_MASK, [5], 255)])); let c : Cmd := cmd 0x0301 [(0x100, leBytes 2 5 ++ [2, 0] ++ List.replicate 48 0)]; let ops : List (Nat × TblOp) := (match s.m.parseOps (asOp c 0x0301) 0x100 0x102 with | .ok l => l | _ => []); let p : Nat := 1; let d : Nat := 3; s.m.parseOps (asOp c 0x0301) 0x100 0x102 = .ok ops ∧ Quiet s ∧ mayRun s.m c 0x0301 (((ops.map fun o => o.2.scope).eraseDups).map Obj.scope) ∧ ops ≠ [] ∧ ops.length ≤ 64 ∧ c.txn = 0 ∧ (∀ t ∈ s.m.txns, t.2.owner ≠ c.mid) ∧ (∀ o ∈ ops, s.m.opTagged o.2 = false) ∧ s.m.existFault ops [] = some (p, d)) :=
  ⟨ok_of (by decide +kernel), by (try simp only [Quiet, wheelIdle_iff, mayRun_iff]) <;> decide +kernel⟩

theorem witness_TableChanges_3 :
  (let s : State := st ((sets rm [(F.PAT_SCOPE_CFG_KIND, [5], 1), (F.PAT_SCOPE_CFG_KEY_WORDS, [5], 2), (F.PAT_SCOPE_CFG_QUOTA, [5], 10), (F.PAT_SCOPE_CFG_SLICE_MASK, [5], 255)])); let c : Cmd := cmd 0x0302 [(0x104, [5, 0, 3, 0])]; let a : Ans := badTlv 1 5; s.m.parseOps (asOp c 0x0302) 0x103 0x105 = .error a ∧ Quiet s ∧ s.m.cmdCheck (asOp c 0x0302) = none ∧ a.status = stInvalid ∧ a.late = false) :=
  ⟨err_of (by decide +kernel), by (try simp only [Quiet, wheelIdle_iff, mayRun_iff]) <;> decide +kernel⟩

theorem witness_TableChanges_4 :
  (let s : State := st { (sets rm [(F.PAT_SCOPE_CFG_KIND, [0x1000], 2), (F.PAT_SCOPE_CFG_KEY_WORDS, [0x1000], 1), (F.PAT_SCOPE_CFG_QUOTA, [0x1000], 10), (F.PAT_SCOPE_CFG_SLICE_MASK, [0x1000], 255)]) with txns := [(0, { serial := 1, scope := 0x1000, owner := 0x1000 })] }; let c : Cmd := cmd 0x0301 [(0x101, leBytes 2 0x1000 ++ leBytes 2 3 ++ [0, 0, 0, 0] ++ leBytes 8 5 ++ leBytes 8 255 ++ List.replicate 96 0)]; let ops : List (Nat × TblOp) := (match s.m.parseOps (asOp c 0x0301) 0x100 0x102 with | .ok l => l | _ => []); let t : Nat × Txn := (0, { serial := 1, scope := 0x1000, owner := 0x1000 }); s.m.parseOps (asOp c 0x0301) 0x100 0x102 = .ok ops ∧ Quiet s ∧ s.m.cmdCheck (asOp c 0x0301) = none ∧ ops ≠ [] ∧ ops.length ≤ 64 ∧ c.txn = 0 ∧ t ∈ s.m.txns ∧ t.2.holds = true ∧ t.2.owner = c.mid ∧ t.2.scope ∈ ops.map (fun o => o.2.scope)) :=
  ⟨ok_of (by decide +kernel), by (try simp only [Quiet, wheelIdle_iff, mayRun_iff]) <;> decide +kernel⟩

theorem witness_TableChanges_7 :
  (let s : State := st exMod; let c : Cmd := cmd 0x0303 [(0x103, leBytes 2 5 ++ [0, 0] ++ leBytes 8 5 ++ leBytes 8 6)]; let q : Nat := 5; let p : Nat := 1; let d : Bool := false; let k : List Nat := [5, 6]; let e : Nat × ExEntry := ex0; s.m.parseOps c 0x103 0x105 = .ok [(p, .delExact q d k)] ∧ s.m.current q k = some e ∧ Quiet s ∧ mayRun s.m c 0x0303) :=
  ⟨ok_of (by decide +kernel), current_ex0, by (try simp only [Quiet, wheelIdle_iff, mayRun_iff]) <;> decide +kernel⟩

theorem witness_TableChanges_8 :
  (let s : State := st ((sets rm [(F.PAT_SCOPE_CFG_KIND, [5], 1), (F.PAT_SCOPE_CFG_KEY_WORDS, [5], 2), (F.PAT_SCOPE_CFG_QUOTA, [5], 10), (F.PAT_SCOPE_CFG_SLICE_MASK, [5], 255)])); let c : Cmd := cmd 0x0303 [(0x103, leBytes 2 5 ++ [0, 0] ++ leBytes 8 5 ++ leBytes 8 6)]; let q : Nat := 5; let p : Nat := 1; let d : Bool := false; let k : List Nat := [5, 6]; s.m.parseOps c 0x103 0x105 = .ok [(p, .delExact q d k)] ∧ Quiet s ∧ mayRun s.m c 0x0303 ∧ s.m.current q k = none) :=
  ⟨ok_of (by decide +kernel), by (try simp only [Quiet, wheelIdle_iff, mayRun_iff]) <;> decide +kernel⟩

theorem witness_TableChanges :
  (let k : List Nat := [5]; k ≠ []) ∧
  (let w : Nat × ExEntry → Nat := fun x => x.2.wseq; let l : List (Nat × ExEntry) := [(4, { scope := 5, key := [5], act := [] })]; let x : Nat × ExEntry := (4, { scope := 5, key := [5], act := [] }); laterOf w l = some x) ∧
  (let s : State := rd; let c : Cmd := cmd 0x030D [(0x100, leBytes 2 0x1000 ++ List.replicate 6 0 ++ leBytes 8 (2 + 1 * 4 + 10 * 2 ^ 32) ++ List.replicate 32 0)]; let p : Nat := 1; let v : List Byte := leBytes 2 0x1000 ++ List.replicate 6 0 ++ leBytes 8 (2 + 1 * 4 + 10 * 2 ^ 32) ++ List.replicate 32 0; Quiet s ∧ mayRun s.m c 0x030D [.scope (leAt v 0 2)] ∧ c.all 0x100 = [(p, v)] ∧ s.m.scopeTlvFault v = none ∧ bit (leAt v 2 1) 0 = false ∧ (s.m.scopePut v).scopeFault (leAt v 0 2) = none ∧ (s.m.scopePut v).quotaSums = true) ∧
  (let s : State := rd; let c : Cmd := cmd 0x030D [(0x100, leBytes 2 0x1100 ++ List.replicate 46 0)]; let p : Nat := 1; let d : Nat := 0; let v : List Byte := leBytes 2 0x1100 ++ List.replicate 46 0; Quiet s ∧ mayRun s.m c 0x030D [.scope (leAt v 0 2)] ∧ c.all 0x100 = [(p, v)] ∧ s.m.scopeTlvFault v = some d) ∧
  (let s : State := rd; let c : Cmd := cmd 0x0308 [(0x100, leBytes 2 127 ++ leBytes 6 0 ++ leBytes 8 1 ++ leBytes 8 2 ++ leBytes 8 3 ++ leBytes 8 (2 ^ 64 - 1))]; let p : Nat := 1; let n : Nat := 127; let a : Nat := 1; let b : Nat := 2; let e : Nat := 3; let d : Nat := 2 ^ 64 - 1; Quiet s ∧ mayRun s.m c 0x0308 (actionObjs c) ∧ n < 128 ∧ a < 2 ^ 64 ∧ b < 2 ^ 64 ∧ e < 2 ^ 64 ∧ d < 2 ^ 64 ∧ bits a 48 3 < 4 ∧ bit a 47 = false ∧ bits a 54 10 = 0 ∧ ((bits a 48 3 ≠ 3 → bits e 16 48 = 0)) ∧ bit e 47 = false ∧ c.all 0x100 = [(p, leBytes 2 n ++ leBytes 6 0 ++ leBytes 8 a ++ leBytes 8 b ++ leBytes 8 e ++ leBytes 8 d)]) ∧
  (let s : State := rd; let c : Cmd := cmd 0x0309 [(0x100, leBytes 2 95 ++ leBytes 6 0 ++ leBytes 8 1 ++ leBytes 8 2 ++ leBytes 8 3 ++ leBytes 8 (2 ^ 64 - 1))]; let p : Nat := 1; let n : Nat := 95; let a : Nat := 1; let b : Nat := 2; let e : Nat := 3; let d : Nat := 2 ^ 64 - 1; Quiet s ∧ mayRun s.m c 0x0309 (actionObjs c) ∧ n < 96 ∧ a < 2 ^ 64 ∧ b < 2 ^ 64 ∧ e < 2 ^ 64 ∧ d < 2 ^ 64 ∧ bits a 48 3 < 4 ∧ bit a 47 = false ∧ bits a 54 10 = 0 ∧ ((bits a 48 3 ≠ 3 → bits e 16 48 = 0)) ∧ bit e 47 = false ∧ c.all 0x100 = [(p, leBytes 2 n ++ leBytes 6 0 ++ leBytes 8 a ++ leBytes 8 b ++ leBytes 8 e ++ leBytes 8 d)]) ∧
  (let s : State := rd; let c : Cmd := cmd 0x0308 [(0x100, leBytes 2 128 ++ List.replicate 38 0)]; let p : Nat := 1; let n : Nat := 128; let v : List Byte := List.replicate 38 0; Quiet s ∧ mayRun s.m c 0x0308 (actionObjs c) ∧ c.all 0x100 = [(p, leBytes 2 n ++ v)] ∧ n < 65536 ∧ 128 ≤ n) := by
  repeat refine ⟨by (try simp only [Quiet, wheelIdle_iff, mayRun_iff]) <;> decide +kernel, ?_⟩
  all_goals (try simp only [Quiet, wheelIdle_iff, mayRun_iff]) <;> decide +kernel

theorem witness_Transactions_2 :
  (let s : State := st ({ (sets rm [(F.PAT_SCOPE_CFG_KIND, [0x1000], 2), (F.PAT_SCOPE_CFG_KEY_WORDS, [0x1000], 1), (F.PAT_SCOPE_CFG_QUOTA, [0x1000], 10), (F.PAT_SCOPE_CFG_SLICE_MASK, [0x1000], 255)]) with txns := [(1, { serial := 1, scope := 0x1000, owner := 0x1000, ops := [] })] }); let c : Cmd := { cmd 0x0301 [(0x101, leBytes 2 0x1000 ++ leBytes 2 3 ++ [0, 0, 0, 0] ++ leBytes 8 5 ++ leBytes 8 255 ++ List.replicate 96 0)] with txn := 2 ^ 26 + 1 }; let ops : List (Nat × TblOp) := (match s.m.parseOps (asOp c 0x0301) 0x100 0x102 with | .ok l => l | _ => []); let t : Txn := { serial := 1, scope := 0x1000, owner := 0x1000, ops := [] }; let n : Nat := 1; s.m.parseOps (asOp c 0x0301) 0x100 0x102 = .ok ops ∧ Quiet s ∧ mayRun s.m c 0x0301 ∧ ops ≠ [] ∧ ops.length ≤ 64 ∧ c.txn = n * 2 ^ 26 + t.serial ∧ t.serial < 2 ^ 26 ∧ t.serial ≠ 0 ∧ tget s.m.txns n = some t ∧ t.owner = c.mid ∧ t.state = .opened ∧ (∀ o ∈ ops, o.2.scope = t.scope) ∧ t.ops.length + ops.length ≤ 16384 ∧ s.m.quotaFault true (t.ops.map (fun o => (0, o)) ++ ops) [] [] = none) :=
  ⟨ok_of (by decide +kernel), by (try simp only [Quiet, wheelIdle_iff, mayRun_iff]) <;> decide +kernel⟩

theorem witness_Transactions_3 :
  (let s : State := st ({ (sets rm [(F.PAT_SCOPE_CFG_KIND, [0x1000], 2), (F.PAT_SCOPE_CFG_KEY_WORDS, [0x1000], 1), (F.PAT_SCOPE_CFG_QUOTA, [0x1000], 10), (F.PAT_SCOPE_CFG_SLICE_MASK, [0x1000], 255)]) with txns := [(1, { serial := 1, scope := 5, owner := 0x1000 })] }); let c : Cmd := { cmd 0x0302 [(0x104, leBytes 2 0x1000 ++ leBytes 2 3)] with txn := 2 ^ 26 + 1 }; let ops : List (Nat × TblOp) := []; let t : Txn := { serial := 1, scope := 5, owner := 0x1000 }; let n : Nat := 1; let p : Nat := 1; let op : TblOp := .delRule 0x1000 3; s.m.parseOps (asOp c 0x0302) 0x103 0x105 = .ok ((p, op) :: ops) ∧ Quiet s ∧ s.m.cmdCheck (asOp c 0x0302) = none ∧ c.txn = n * 2 ^ 26 + t.serial ∧ t.serial < 2 ^ 26 ∧ t.serial ≠ 0 ∧ tget s.m.txns n = some t ∧ t.owner = c.mid ∧ t.state = .opened ∧ op.scope ≠ t.scope) :=
  ⟨ok_of (by decide +kernel), by (try simp only [Quiet, wheelIdle_iff, mayRun_iff]) <;> decide +kernel⟩

theorem witness_Transactions_4 :
  (let s : State := st ({ (sets rm [(F.PAT_SCOPE_CFG_KIND, [0x1000], 2), (F.PAT_SCOPE_CFG_KEY_WORDS, [0x1000], 1), (F.PAT_SCOPE_CFG_QUOTA, [0x1000], 10), (F.PAT_SCOPE_CFG_SLICE_MASK, [0x1000], 255)]) with txns := [(1, { serial := 1, scope := 0x1000, owner := 0x1000, ops := [.putRule 0x1000 3 [5] [255] (List.replicate 8 (0, 0)) [0, 0, 0, 0]] })] }); let c : Cmd := { cmd 0x0305 with txn := 2 ^ 26 + 1 }; let t : Txn := { serial := 1, scope := 0x1000, owner := 0x1000, ops := [.putRule 0x1000 3 [5] [255] (List.replicate 8 (0, 0)) [0, 0, 0, 0]] }; let n : Nat := 1; let g : Nat := 0; let m : Mod := { s.m with txns := tput s.m.txns n { t with named := s.m.ns } }; let m' : Mod := (match ({ s.m with txns := tput s.m.txns n { t with named := s.m.ns } } : Mod).judge { s.m with txns := tput s.m.txns n { t with named := s.m.ns } } 0 [] (numbered 1 t.ops) with | .placed m => m | _ => s.m); mayRun s.m c 0x0305 ∧ c.txn = n * 2 ^ 26 + t.serial ∧ t.serial < 2 ^ 26 ∧ tget s.m.txns n = some t ∧ t.owner = c.mid ∧ t.state = .opened ∧ (∀ p ∈ s.m.pat.pubs, p.2.cmd ≠ some (asOp c 0x0305)) ∧ m = { s.m with txns := tput s.m.txns n { t with named := s.m.ns } } ∧ s.m.freeTag = some g ∧ m.judge m g [] (numbered 1 t.ops) = .placed m') :=
  by (try simp only [Quiet, wheelIdle_iff, mayRun_iff]) <;> decide +kernel

theorem witness_Transactions :
  (let s : State := st { (sets rm [(F.PAT_SCOPE_CFG_KIND, [5], 1), (F.PAT_SCOPE_CFG_KEY_WORDS, [5], 2), (F.PAT_SCOPE_CFG_QUOTA, [5], 10), (F.PAT_SCOPE_CFG_SLICE_MASK, [5], 255)]) with txns := [(0, { serial := 1, scope := 6, owner := 0x1000 })] }; let c : Cmd := cmd 0x0304 [(0x100, leBytes 4 5)]; let q : Nat := 5; let n : Nat := 1; Quiet s ∧ mayRun s.m c 0x0304 [.scope q] ∧ leAt (c.val 0x100) 0 2 = q ∧ s.m.scopeRight c.mid q = true ∧ (∀ t ∈ s.m.txns, t.2.scope ≠ q) ∧ n < 64 ∧ tget s.m.txns n = none ∧ ((∀ k, k < n → (tget s.m.txns k).isSome = true))) ∧
  (let s : State := st { (sets rm [(F.PAT_SCOPE_CFG_KIND, [5], 1), (F.PAT_SCOPE_CFG_KEY_WORDS, [5], 2), (F.PAT_SCOPE_CFG_QUOTA, [5], 10), (F.PAT_SCOPE_CFG_SLICE_MASK, [5], 255)]) with txns := [(0, { serial := 1, scope := 5, owner := 0x1000 })] }; let c : Cmd := cmd 0x0304 [(0x100, leBytes 4 5)]; let q : Nat := 5; let t : Nat × Txn := (0, { serial := 1, scope := 5, owner := 0x1000 }); Quiet s ∧ s.m.cmdCheck (asOp c 0x0304) = none ∧ leAt (c.val 0x100) 0 2 = q ∧ s.m.scopeRight c.mid q = true ∧ t ∈ s.m.txns ∧ t.2.holds = true ∧ t.2.scope = q ∧ t.2.owner = c.mid) ∧
  (let s : State := st { rm with pat := { pubs := [(7, { seqs := List.replicate 7 9, cmd := some (asOp ({ cmd 0x0305 with txn := 2 ^ 26 + 1 }) 0x0305), slot := 1 })] } }; let c : Cmd := { cmd 0x0305 with txn := 2 ^ 26 + 1 }; let g : Nat := 7; let p : Pub := { seqs := List.replicate 7 9, cmd := some (asOp ({ cmd 0x0305 with txn := 2 ^ 26 + 1 }) 0x0305), slot := 1 }; s.m.pat.pubs = [(g, p)] ∧ p.cmd = some (asOp c 0x0305) ∧ p.seqs.length < 8) ∧
  (let p : Pub := { seqs := List.replicate 6 9, cmd := some (asOp ({ cmd 0x0305 with txn := 2 ^ 26 + 1 }) 0x0305), slot := 1 }; p.seqs.length < 7) ∧
  (let p : Pub := { seqs := List.replicate 7 9, cmd := some (asOp ({ cmd 0x0305 with txn := 2 ^ 26 + 1 }) 0x0305), slot := 1 }; p.seqs.length = 7) ∧
  (let s : State := st ({ (sets rm [(F.PAT_SCOPE_CFG_KIND, [0x1000], 2), (F.PAT_SCOPE_CFG_KEY_WORDS, [0x1000], 1), (F.PAT_SCOPE_CFG_QUOTA, [0x1000], 10), (F.PAT_SCOPE_CFG_SLICE_MASK, [0x1000], 255)]) with txns := [(1, { serial := 1, scope := 0x1000, owner := 0x1000, ops := [.delRule 0x1000 3] })] }); let c : Cmd := { cmd 0x0305 with txn := 2 ^ 26 + 1 }; let t : Txn := { serial := 1, scope := 0x1000, owner := 0x1000, ops := [.delRule 0x1000 3] }; let n : Nat := 1; let g : Nat := 0; let m : Mod := { s.m with txns := tput s.m.txns n { t with named := s.m.ns } }; let a : Ans := { status := stInvalid, late := true, errTlv := 1, errDetail := 4 }; mayRun s.m c 0x0305 ∧ c.txn = n * 2 ^ 26 + t.serial ∧ t.serial < 2 ^ 26 ∧ tget s.m.txns n = some t ∧ t.owner = c.mid ∧ t.state = .opened ∧ (∀ p ∈ s.m.pat.pubs, p.2.cmd ≠ some (asOp c 0x0305)) ∧ Quiet s ∧ m = { s.m with txns := tput s.m.txns n { t with named := s.m.ns } } ∧ s.m.freeTag.getD 64 = g ∧ m.judge m g [] (numbered 1 t.ops) = .fails a) ∧
  (let s : State := st { (sets rm [(F.PAT_SCOPE_CFG_KIND, [0x1000], 2), (F.PAT_SCOPE_CFG_KEY_WORDS, [0x1000], 1), (F.PAT_SCOPE_CFG_QUOTA, [0x1000], 10), (F.PAT_SCOPE_CFG_SLICE_MASK, [0x1000], 255)]) with pat := { rules := [(0, { scope := 0x1000, priority := 3, value := [5], mask := [255], ranges := List.replicate 8 (0, 0), act := [0, 0, 0, 0], role := 1, tag := 7 })] }, txns := [(1, { serial := 1, scope := 0x1000, owner := 0x1000, ops := [.delRule 0x1000 3] })] }; let c : Cmd := { cmd 0x0305 with txn := 2 ^ 26 + 1 }; let t : Txn := { serial := 1, scope := 0x1000, owner := 0x1000, ops := [.delRule 0x1000 3] }; let n : Nat := 1; let g : Nat := 0; let m : Mod := { s.m with txns := tput s.m.txns n { t with named := s.m.ns } }; mayRun s.m c 0x0305 ∧ c.txn = n * 2 ^ 26 + t.serial ∧ t.serial < 2 ^ 26 ∧ tget s.m.txns n = some t ∧ t.owner = c.mid ∧ t.state = .opened ∧ (∀ p ∈ s.m.pat.pubs, p.2.cmd ≠ some (asOp c 0x0305)) ∧ Quiet s ∧ m = { s.m with txns := tput s.m.txns n { t with named := s.m.ns } } ∧ s.m.freeTag.getD 64 = g ∧ m.judge m g [] (numbered 1 t.ops) = .waits) ∧
  (let m : Mod := { (sets rm [(F.PAT_SCOPE_CFG_KIND, [0x1000], 2), (F.PAT_SCOPE_CFG_KEY_WORDS, [0x1000], 1), (F.PAT_SCOPE_CFG_QUOTA, [0x1000], 10), (F.PAT_SCOPE_CFG_SLICE_MASK, [0x1000], 255)]) with pat := { rules := [(0, { scope := 0x1000, priority := 3, value := [5], mask := [255], ranges := List.replicate 8 (0, 0), act := [0, 0, 0, 0], role := 1, tag := 7 })] } }; let op : TblOp := .delRule 0x1000 3; m.opTagged op = true) ∧
  (let m : Mod := (sets rm [(F.PAT_SCOPE_CFG_KIND, [0x1000], 2), (F.PAT_SCOPE_CFG_KEY_WORDS, [0x1000], 1), (F.PAT_SCOPE_CFG_QUOTA, [0x1000], 10), (F.PAT_SCOPE_CFG_SLICE_MASK, [0x1000], 255)]); let p : Nat := 1; let d : Nat := 4; let op : TblOp := .delRule 0x1000 3; let done : List (Nat × TblOp) := []; m.opTagged op = false ∧ m.existFault [(p, op)] (done.map fun x => (x.2.scope, x.2.key, x.2.isPut)) = some (p, d)) ∧
  (let m : Mod := { rm with pat := { pubs := [(63, { seqs := List.replicate 8 (2 ^ 24 - 1), epoch := 0 })] } }; let x : Nat := 7; let seq : Nat := 0; let tag : Nat := 63; let q : Nat := 2 ^ 24 - 1; let p : Pub := { seqs := List.replicate 8 (2 ^ 24 - 1), epoch := 0 }; tget m.pat.pubs tag = some p ∧ p.seqs[x]? = some q ∧ q < 2 ^ 24 ∧ seq < 2 ^ 24) ∧
  (let s : State := st ((sets (sets rm [(F.PAT_SCOPE_CFG_KIND, [5], 1), (F.PAT_SCOPE_CFG_KEY_WORDS, [5], 2), (F.PAT_SCOPE_CFG_QUOTA, [5], 10), (F.PAT_SCOPE_CFG_SLICE_MASK, [5], 255)]) [(F.PAT_SCOPE_PINS_PIN_QUOTA, [5], 2)])); let c : Cmd := cmd 0x030A [(0x100, leBytes 4 5 ++ leBytes 4 2)]; let q : Nat := 5; let n : Nat := 2; let f : Nat := 0; Quiet s ∧ mayRun s.m c 0x030A ∧ leAt (c.val 0x100) 0 2 = q ∧ leAt (c.val 0x100) 4 4 = n ∧ s.m.scopeRight c.mid q = true ∧ n ≠ 0 ∧ n ≤ 65536 ∧ s.m.pinsUsed q + n ≤ s.m.get F.PAT_SCOPE_PINS_PIN_QUOTA [q] ∧ s.m.pinRange n = some f) ∧
  (let m : Mod := rm; let n : Nat := 2; let f : Nat := 0; m.pinRange n = some f) ∧
  (let s : State := st ((sets (sets rm [(F.PAT_SCOPE_CFG_KIND, [5], 1), (F.PAT_SCOPE_CFG_KEY_WORDS, [5], 2), (F.PAT_SCOPE_CFG_QUOTA, [5], 10), (F.PAT_SCOPE_CFG_SLICE_MASK, [5], 255)]) [(F.PAT_SCOPE_PINS_PIN_QUOTA, [5], 1)])); let c : Cmd := cmd 0x030A [(0x100, leBytes 4 5 ++ leBytes 4 2)]; let q : Nat := 5; let n : Nat := 2; Quiet s ∧ mayRun s.m c 0x030A ∧ leAt (c.val 0x100) 0 2 = q ∧ leAt (c.val 0x100) 4 4 = n ∧ s.m.scopeRight c.mid q = true ∧ n ≠ 0 ∧ n ≤ 65536 ∧ s.m.get F.PAT_SCOPE_PINS_PIN_QUOTA [q] < s.m.pinsUsed q + n) ∧
  (let s : State := st { (sets rm [(F.PAT_SCOPE_CFG_KIND, [5], 1), (F.PAT_SCOPE_CFG_KEY_WORDS, [5], 2), (F.PAT_SCOPE_CFG_QUOTA, [5], 10), (F.PAT_SCOPE_CFG_SLICE_MASK, [5], 255)]) with pat := { pins := [(1048575, { scope := 5 })] } }; let c : Cmd := cmd 0x030B [(0x100, leBytes 4 1048575 ++ leBytes 4 1)]; let f : Nat := 1048575; let x : Pin := { scope := 5 }; Quiet s ∧ mayRun s.m c 0x030B (pinObjs c) ∧ leAt (c.val 0x100) 0 4 = f ∧ leAt (c.val 0x100) 4 4 = 1 ∧ s.m.pat.pins = [(f, x)] ∧ s.m.scopeRight c.mid x.scope = true ∧ ((∀ b, c.buffer = some b → 24 ≤ b.2.1))) ∧
  (let p : Pin := { scope := 5 }; let k : Nat := 7; let n : Nat := 2 ^ 40 - 1; k < 8 ∧ p.parts = [] ∧ n < 2 ^ 40) ∧
  (let s : State := rd; let c : Cmd := cmd 0x030B [(0x100, leBytes 4 1048575 ++ leBytes 4 1)]; Quiet s ∧ mayRun s.m c 0x030B (pinObjs c) ∧ tget s.m.pat.pins (leAt (c.val 0x100) 0 4) = none) ∧
  (let s : State := st { (sets rm [(F.PAT_SCOPE_CFG_KIND, [5], 1), (F.PAT_SCOPE_CFG_KEY_WORDS, [5], 2), (F.PAT_SCOPE_CFG_QUOTA, [5], 10), (F.PAT_SCOPE_CFG_SLICE_MASK, [5], 255)]) with pat := { pins := [(1048575, { scope := 5 })] } }; let c : Cmd := cmd 0x030C [(0x100, leBytes 2 5 ++ [1, 0] ++ leBytes 4 1048575 ++ leBytes 4 1)]; let q : Nat := 5; let f : Nat := 1048575; let x : Pin := { scope := 5 }; Quiet s ∧ mayRun s.m c 0x030C ∧ (c.tlv 0x100).isSome = true ∧ c.tlv 0x180 = none ∧ leAt (c.val 0x100) 0 2 = q ∧ leAt (c.val 0x100) 2 1 = 1 ∧ leAt (c.val 0x100) 4 4 = f ∧ leAt (c.val 0x100) 8 4 = 1 ∧ c.buffer = none ∧ s.m.scopeRight c.mid q = true ∧ s.m.pat.pins = [(f, x)] ∧ x.scope = q) ∧
  (let s : State := rd; let c : Cmd := cmd 0x030C [(0x180, leBytes 8 0), (0x100, leBytes 2 5 ++ [1, 0] ++ leBytes 4 9 ++ leBytes 4 1)]; Quiet s ∧ mayRun s.m c 0x030C ∧ (c.tlv 0x100).isSome = true ∧ (c.tlv 0x180).isSome = true) ∧
  (let s : State := rd; let c : Cmd := cmd 0x030C; Quiet s ∧ mayRun s.m c 0x030C ∧ c.tlv 0x100 = none ∧ c.tlv 0x180 = none) ∧
  (let mask : Nat := 128; let x : Nat := 7; x < 8 ∧ bit mask x = true ∧ mask < 256) := by
  repeat refine ⟨by (try simp only [Quiet, wheelIdle_iff, mayRun_iff]) <;> decide +kernel, ?_⟩
  all_goals (try simp only [Quiet, wheelIdle_iff, mayRun_iff]) <;> decide +kernel

theorem witness_OrderAndBuffers :
  (let s : State := rd; let sl : Fin 8 := 7; Quiet s ∧ (s.m.seamOf sl).ready = []) ∧
  (let s : State := st { rm with shu := { seam := [(7, { next := 9, ctxs := [{ seq := 5, lane := some 4095, ended := true }], ready := [5] })] } }; let sl : Fin 8 := 7; let q : Nat := 5; let qs : List Nat := []; let c : SeamCtx := { seq := 5, lane := some 4095, ended := true }; let m1 : Mod := Mod.freeAll (Mod.seaCount (Mod.putSeam (s.m.set F.SEA_LANE_STATUS_HOLD_MAX [sl.val] (max (s.m.get F.SEA_LANE_STATUS_HOLD_MAX [sl.val]) (min ((s.m.ns - c.endNs) / 64) 0xFFFF))) sl ((s.m.seamOf sl).drop q)) sl 0) c.input; (s.m.seamOf sl).ready = q :: qs ∧ (s.m.seamOf sl).ctxs.find? (·.seq = q) = some c ∧ m1 = Mod.freeAll (Mod.seaCount (Mod.putSeam (s.m.set F.SEA_LANE_STATUS_HOLD_MAX [sl.val] (max (s.m.get F.SEA_LANE_STATUS_HOLD_MAX [sl.val]) (min ((s.m.ns - c.endNs) / 64) 0xFFFF))) sl ((s.m.seamOf sl).drop q)) sl 0) c.input) ∧
  (let x : Seam := { ctxs := [{ seq := 5, lane := some 4095, ended := true }] }; let l : Nat := 4095; let c : SeamCtx := { seq := 5, lane := some 4095, ended := true }; x.head l = some c ∧ l ∉ x.rebuild) ∧
  (let x : Seam := { ctxs := [{ seq := 5, lane := some 4095, ended := true }, { seq := 6, lane := some 4095, ended := true }] ++ [{ seq := 7, lane := some 4095, ended := false }] }; let l : Nat := 4095; let a : List SeamCtx := [{ seq := 5, lane := some 4095, ended := true }, { seq := 6, lane := some 4095, ended := true }]; let b : List SeamCtx := [{ seq := 7, lane := some 4095, ended := false }]; (x.ctxs.filter fun c => c.lane = some l) = a ++ b ∧ (∀ c ∈ a, c.ended = true) ∧ l ∉ x.rebuild) ∧
  (let m : Mod := { rm with plt := { voq := [(447, [{ queue := egKey 7 99 7, id := 1, left := 1, charge := { slice := 6, acct := 2999, n := 1, src := 2 }, ref := 9 }])] } }; let home : Nat := 6; let b : Nat := 7; let c : Nat := 7; let n : Nat := 1; let ref : Nat := 9; let v : VoqEntry := { queue := egKey 7 99 7, id := 1, left := 1, charge := { slice := 6, acct := 2999, n := 1, src := 2 }, ref := 9 }; home ≠ b ∧ ref ≠ 0 ∧ v ∈ tgetD m.plt.voq ((home * 8 + b) * 8 + c) [] ∧ v.ref = ref) ∧
  (let s : State := rd; Quiet s) ∧
  (let m : Mod := rm; let a : AcctInfo := { slice := 7, num := 3000, cls := 0, lo := 4, hi := 100, alpha := 3 }; let x : Acct := m.acct a.num; m.acct a.num = x ∧ a.cls ≠ 7) ∧
  (let m : Mod := rs [(F.PLT_CFG_CTRL_RESERVE, [7], 4)]; let a : AcctInfo := { slice := 7, num := 3000, cls := 7, lo := 4, hi := 100, alpha := 3 }; let n : Nat := 4; a.cls = 7 ∧ tgetD m.plt.ctrlUsed a.slice 0 + n ≤ m.get F.PLT_CFG_CTRL_RESERVE [a.slice]) ∧
  (let m : Mod := rm; let m' : Mod := ((rm.admitCells { slice := 7, num := 3000, cls := 0, lo := 4, hi := 100, alpha := 3 } 3).map (·.1)).getD rm; let a : AcctInfo := { slice := 7, num := 3000, cls := 0, lo := 4, hi := 100, alpha := 3 }; let n : Nat := 3; let ch : Charge := ((rm.admitCells { slice := 7, num := 3000, cls := 0, lo := 4, hi := 100, alpha := 3 } 3).map (·.2)).getD { slice := 0, acct := 0, n := 0, src := 0 }; m.admitCells a n = some (m', ch)) ∧
  (let m : Mod := { rm with plt := { accts := [(2000, { depth := 3, sharedUsed := 3 })] } }; let c : Charge := { slice := 0, acct := 2000, n := 3, src := 2 }; c.src < 16 ∧ 2000 ≤ c.acct ∧ c.n ≤ (m.acct c.acct).depth) ∧
  (let s : State := rd; let b : Fin 8 := 7; Quiet s ∧ s.m.xPick b = none) ∧
  (let s : State := st { rm with plt := { voq := [(447, [{ queue := egKey 7 99 7, id := 1, left := 1, charge := { slice := 6, acct := 2999, n := 1, src := 2 } }])] } }; let b : Fin 8 := 7; let c : Nat := 7; let a : Nat := 6; let l : List Nat := ((s.m.xPick 7).map (·.2.2)).getD []; let v : VoqEntry := { queue := egKey 7 99 7, id := 1, left := 1, charge := { slice := 6, acct := 2999, n := 1, src := 2 } }; s.m.xPick b = some (c, a, l) ∧ tgetD s.m.plt.voq ((a * 8 + b.val) * 8 + c) [] = [v] ∧ v.left ≤ 1) ∧
  (let m : Mod := (st { rm with plt := { voq := [(447, [{ queue := egKey 7 99 7, id := 1, left := 1, charge := { slice := 6, acct := 2999, n := 1, src := 2 } }])] } }).m; let b : Nat := 7; let c : Nat := 7; let a : Nat := 6; let l : List Nat := ((m.xPick 7).map (·.2.2)).getD []; m.xPick b = some (c, a, l)) ∧
  (let s : State := rd; let sl : Fin 8 := 7; let e : Fin 100 := 99; let c : Fin 8 := 7; Quiet s ∧ (∀ x ∈ s.m.egq (egKey sl e c), x.hbm = false)) ∧
  (let s : State := st ((rs [(F.PLT_SPILL_CFG_REFILL, [7], 10)]).putEgq (egKey 7 99 7) [{ id := 1, pkt := { bytes := List.replicate 60 0 }, present := 1, hbm := true }]); let sl : Fin 8 := 7; let e : Fin 100 := 99; let c : Fin 8 := 7; let x : EgEntry := { id := 1, pkt := { bytes := List.replicate 60 0 }, present := 1, hbm := true }; let m1 : Mod := s.m.freeAll x.pkt.charges; let m' : Mod := (match m1.admitCells (m1.egInfo 7 99 7) x.pkt.cells with | some (a, b) => a | none => m1); let ch : Charge := (match m1.admitCells (m1.egInfo 7 99 7) x.pkt.cells with | some (a, b) => b | none => { slice := 0, acct := 0, n := 0, src := 0 }); s.m.egq (egKey sl e c) = [x] ∧ x.hbm = true ∧ m1 = s.m.freeAll x.pkt.charges ∧ x.pkt.cells ≤ x.present ∧ (s.m.acct (egAcct sl e c)).depth - (s.m.acct (egAcct sl e c)).hbm < s.m.get F.PLT_SPILL_CFG_REFILL [sl.val] ∧ m1.admitCells (m1.egInfo sl e c) x.pkt.cells = some (m', ch)) ∧
  (let s : State := rd; let n : Fin 96 := 95; let k : Fin 8 := 7; Quiet s ∧ (s.m.subState n k ≠ 4 ∨ (∀ c, c < 8 → (s.m.xoffOf n c).since = none))) ∧
  (let s : State := st { (rs [(F.PRT_STATUS_SUB_STATE, [95], 4 * 8 ^ 7), (F.PRT_CFG_PFC_EN, [95], 255), (F.PLT_PORT_CLASS_PCP_MAP, portIx 95, 6)]) with plt := { xoff := [(95 * 8 + 6, { since := some 0 })] } }; let n : Fin 96 := 95; let k : Fin 8 := 7; let c : Fin 8 := 6; s.m.subState n k = 4 ∧ (s.m.xoffOf n c).since.isSome = true ∧ c.val ≠ 7 ∧ s.m.pfcPrios n c ≠ 0) ∧
  (let s : State := rd; let n : Fin 96 := 95; let c : Fin 8 := 7; Quiet s ∧ ((s.m.xoffOf n c).since = none ∨ s.m.get F.PLT_PFC_CFG_WD_MS [n.val / 12, c.val] = 0)) ∧
  (let s : State := st { (rs [(F.PLT_PFC_CFG_WD_MS, [7, 6], 1)]) with plt := { xoff := [(95 * 8 + 6, { since := some 0 })] } }; let n : Fin 96 := 95; let c : Fin 8 := 6; let t0 : Nat := 0; let wd : Nat := 1; (s.m.xoffOf n c).since = some t0 ∧ s.m.get F.PLT_PFC_CFG_WD_MS [n.val / 12, c.val] = wd ∧ wd ≠ 0) := by
  repeat refine ⟨by (try simp only [Quiet, wheelIdle_iff, mayRun_iff]) <;> decide +kernel, ?_⟩
  all_goals (try simp only [Quiet, wheelIdle_iff, mayRun_iff]) <;> decide +kernel

theorem witness_CipherChannel_0 :
  (let s : State := st ((({ rm with thm := { objs := [(7 * 32768, { serial := 1, inst := 0xFFFF, root := none, purpose := 1 })] } })).putTh 7 159 15 { state := 2, pkt := { bytes := List.replicate 60 0 }, tags := [(7, .out { ch := 2, op := 0, args := [(7 * 32768 + 2 ^ 18), 16 * 2 ^ 48, 0], order := 0, len := 60, w4 := 0 })] }); let sl : Fin 8 := 7; let e : Fin 160 := 159; let t : Fin 16 := 15; let tag : Fin 8 := 7; let w : ThreadRef := ⟨sl, e, t⟩; let q : ChanReq := { ch := 2, op := 0, args := [(7 * 32768 + 2 ^ 18), 16 * 2 ^ 48, 0], order := 0, len := 60, w4 := 0 }; let d : List Byte := checksums q.w4 (backTo (s.m.th sl e t).pkt.bytes q.back); let x : ThmArgs := thmArgs q; let o : ThmObj := { serial := 1, inst := 0xFFFF, root := none, purpose := 1 }; let o' : ThmObj := (match (s.m.putBytes ⟨7, 159, 15⟩ d).seal (thmOp ⟨7, 159, 15⟩ 7 (7 * 32768) {}) o x d with | .ok (a, b, f) => a | _ => o); let p : ThmOp := (match (s.m.putBytes ⟨7, 159, 15⟩ d).seal (thmOp ⟨7, 159, 15⟩ 7 (7 * 32768) {}) o x d with | .ok (a, b, f) => b | _ => thmOp ⟨7, 159, 15⟩ 7 0 {}); let m0 : Mod := s.m.putBytes w d; let m' : Mod := (match (s.m.putBytes ⟨7, 159, 15⟩ d).seal (thmOp ⟨7, 159, 15⟩ 7 (7 * 32768) {}) o x d with | .ok (a, b, f) => f | _ => s.m); let k : Nat := x.handle % 2 ^ 18; m0.seal (thmOp w tag k {}) o x d = .ok (o', p, m') ∧ w = ⟨sl, e, t⟩ ∧ (tgetD s.m.thm.ops sl []).length < 4096 ∧ q.args.length = 3 ∧ ((tgetD s.m.thm.ops sl []).any fun p => p.under w x) = false ∧ d = checksums q.w4 (backTo (s.m.th sl e t).pkt.bytes q.back) ∧ m0 = s.m.putBytes w d ∧ x = thmArgs q ∧ thmRefused q.op d.length x = false ∧ m0.object x.handle = some o ∧ k = x.handle % 2 ^ 18 ∧ k / 32768 = sl ∧ s.m.takeReq w tag 2 0 = some q ∧ q.op = 0) :=
  ⟨rfl, by (try simp only [Quiet, wheelIdle_iff, mayRun_iff]) <;> decide +kernel⟩

theorem witness_CipherChannel_7 :
  (let m : Mod := rm; let o : ThmObj := { serial := 1, inst := 0xFFFF, root := none, counter := 5 }; let o' : ThmObj := { serial := 1, inst := 0xFFFF, root := none, counter := 6, used := true }; let e : Int := 0; let n : Nat := 5; m.takeCounter o = .ok (e, n, o')) :=
  ok_of (by decide +kernel)

theorem witness_CipherChannel :
  (let s : State := st ((rm).putTh 7 159 15 { state := 2, pkt := { bytes := List.replicate 60 0 }, tags := [(7, .out { ch := 2, op := 0, args := [(7 * 32768 + 2 ^ 18), 0, 0], order := 0, len := 60, w4 := 0 })] }); let sl : Fin 8 := 7; let e : Fin 160 := 159; let t : Fin 16 := 15; let tag : Fin 8 := 7; let w : ThreadRef := ⟨sl, e, t⟩; let q : ChanReq := { ch := 2, op := 0, args := [(7 * 32768 + 2 ^ 18), 0, 0], order := 0, len := 60, w4 := 0 }; let d : List Byte := checksums q.w4 (backTo (s.m.th sl e t).pkt.bytes q.back); let x : ThmArgs := thmArgs q; Quiet s ∧ w = ⟨sl, e, t⟩ ∧ (tgetD s.m.thm.ops sl []).length < 4096 ∧ d = checksums q.w4 (backTo (s.m.th sl e t).pkt.bytes q.back) ∧ x = thmArgs q ∧ ((tgetD s.m.thm.ops sl []).any fun p => p.under w x) = false ∧ thmRefused 0 d.length x = true ∧ s.m.takeReq w tag 2 0 = some q) ∧
  (let s : State := st ((rm).putTh 7 159 15 { state := 2, pkt := { bytes := List.replicate 60 0 }, tags := [(7, .out { ch := 2, op := 2, args := [(7 * 32768 + 2 ^ 18), 16 * 2 ^ 32 + 16 * 2 ^ 48, 0], order := 0, len := 60, w4 := 0 })] }); let sl : Fin 8 := 7; let e : Fin 160 := 159; let t : Fin 16 := 15; let tag : Fin 8 := 7; let w : ThreadRef := ⟨sl, e, t⟩; let q : ChanReq := { ch := 2, op := 2, args := [(7 * 32768 + 2 ^ 18), 16 * 2 ^ 32 + 16 * 2 ^ 48, 0], order := 0, len := 60, w4 := 0 }; let d : List Byte := checksums q.w4 (backTo (s.m.th sl e t).pkt.bytes q.back); let x : ThmArgs := thmArgs q; Quiet s ∧ w = ⟨sl, e, t⟩ ∧ (tgetD s.m.thm.ops sl []).length < 4096 ∧ d = checksums q.w4 (backTo (s.m.th sl e t).pkt.bytes q.back) ∧ x = thmArgs q ∧ ((tgetD s.m.thm.ops sl []).any fun p => p.under w x) = false ∧ thmRefused 2 d.length x = false ∧ s.m.takeReq w tag 2 2 = some q ∧ (s.m.putBytes w d).object x.handle = none) ∧
  (let s : State := rd; let sl : Fin 8 := 7; let e : Fin 160 := 159; let t : Fin 16 := 15; let tag : Fin 8 := 7; Quiet s ∧ s.m.takeReq ⟨sl, e, t⟩ tag 2 0 = none) ∧
  (let s : State := st (({ rm with thm := { ops := [(7, [{ who := ⟨7, 159, 15⟩, tag := 6, obj := 7 * 32768, write := some (0, [1]), resp := { status := 0 } }])] } }).putTh 7 159 15 { state := 2, pkt := { bytes := List.replicate 60 0 }, tags := [(7, .out { ch := 2, op := 0, args := [(7 * 32768 + 2 ^ 18), 16 * 2 ^ 48, 0], order := 0, len := 60, w4 := 0 })] }); let sl : Fin 8 := 7; let e : Fin 160 := 159; let t : Fin 16 := 15; let tag : Fin 8 := 7; let q : ChanReq := { ch := 2, op := 0, args := [(7 * 32768 + 2 ^ 18), 16 * 2 ^ 48, 0], order := 0, len := 60, w4 := 0 }; let p : ThmOp := { who := ⟨7, 159, 15⟩, tag := 6, obj := 7 * 32768, write := some (0, [1]), resp := { status := 0 } }; Quiet s ∧ p ∈ tgetD s.m.thm.ops sl [] ∧ p.under ⟨sl, e, t⟩ (thmArgs q) = true ∧ s.m.takeReq ⟨sl, e, t⟩ tag 2 0 = some q) ∧
  (let s : State := st (({ rm with thm := { ops := [(7, [{ who := ⟨7, 159, 15⟩, tag := 6, obj := 7 * 32768, write := some (0, [1]), resp := { status := 0 } }])] } }).putTh 7 159 15 { state := 2, pkt := { bytes := List.replicate 60 0 }, tags := [(7, .out { ch := 2, op := 1, args := [(7 * 32768 + 2 ^ 18), 16 * 2 ^ 48, 0], order := 0, len := 60, w4 := 0 })] }); let sl : Fin 8 := 7; let e : Fin 160 := 159; let t : Fin 16 := 15; let tag : Fin 8 := 7; let q : ChanReq := { ch := 2, op := 1, args := [(7 * 32768 + 2 ^ 18), 16 * 2 ^ 48, 0], order := 0, len := 60, w4 := 0 }; let p : ThmOp := { who := ⟨7, 159, 15⟩, tag := 6, obj := 7 * 32768, write := some (0, [1]), resp := { status := 0 } }; Quiet s ∧ p ∈ tgetD s.m.thm.ops sl [] ∧ p.under ⟨sl, e, t⟩ (thmArgs q) = true ∧ s.m.takeReq ⟨sl, e, t⟩ tag 2 1 = some q) ∧
  (let o : ThmObj := { serial := 1, inst := 0xFFFF, root := none, purpose := 1 }; o.purpose = 1 ∧ o.dir = 0 ∧ o.kind = .ctx ∧ o.epoch = none ∧ o.counter < 2 ^ 64 - 1) ∧
  (let o : ThmObj := { serial := 1, inst := 0xFFFF, root := none, purpose := 2 }; (o.purpose ≠ 1 ∨ o.dir ≠ 0 ∨ o.kind ≠ .ctx)) ∧
  (let o : ThmObj := { serial := 1, inst := 0xFFFF, root := none, counter := 2 ^ 64 - 1 }; o.epoch = none ∧ 2 ^ 64 - 1 ≤ o.counter) ∧
  (let m : Mod := rs [(F.TPL_LOSS_POLICY_EPOCH, [], 2), (F.TPL_STATE_TRACEABLE, [], 0)]; let o : ThmObj := { serial := 1, inst := 0xFFFF, root := none, epoch := some ⟨60, 0, 0⟩ }; (o.epoch).isSome = true ∧ m.epochRefused = true) ∧
  (let r : Replay := { epoch := 0 }; let w : Nat := 64; let n : Nat := 1; n ≠ 0 ∧ 0 < w ∧ r.rejects w n = false) ∧
  (let t : TlsDir := { secret := [], high := some 5, used := [5] }; let t' : TlsDir := { secret := [], high := some 1030, used := [1030] }; let n : Nat := 1030; let h : Nat := 5; t.take n = some t' ∧ t.high = some h) ∧
  (let s : State := rd; let sl : Fin 8 := 7; let i : Fin 4096 := 4095; Quiet s ∧ (tgetD s.m.thm.ops sl [])[i.val]? = none) ∧
  (let s : State := st (rs [(F.THM_STATUS_CORES_OK, [7], 0)]); let sl : Fin 8 := 7; Quiet s ∧ s.m.get F.THM_STATUS_CORES_OK [sl.val] = 0) ∧
  (let s : State := st { (rs [(F.THM_STATUS_CORES_OK, [7], 4)]) with thm := { objs := [(7 * 32768, { serial := 1, inst := 0xFFFF, root := none, purpose := 1 })], ops := [(7, [{ who := ⟨7, 159, 15⟩, tag := 7, obj := 7 * 32768, write := some (0, [1]), resp := {} }])] } }; let sl : Fin 8 := 7; let p : ThmOp := { who := ⟨7, 159, 15⟩, tag := 7, obj := 7 * 32768, write := some (0, [1]), resp := {} }; let o : ThmObj := { serial := 1, inst := 0xFFFF, root := none, purpose := 1 }; let off : Nat := 0; let bs : List Byte := [1]; Quiet s ∧ tgetD s.m.thm.ops sl [] = [p] ∧ s.m.get F.THM_STATUS_CORES_OK [sl.val] ≠ 0 ∧ tget s.m.thm.objs p.obj = some o ∧ o.dying = false ∧ o.destroy = [] ∧ p.replay = none ∧ p.write = some (off, bs) ∧ p.resp.status = 0 ∧ p.who.s = sl) ∧
  (let m : Mod := rs [(F.THM_STATUS_CORES_OK, [7], 4)]; let p : ThmOp := { who := ⟨7, 159, 15⟩, tag := 7, obj := 7 * 32768, write := some (0, [1]), resp := {} }; m.get F.THM_STATUS_CORES_OK [p.who.s] ≠ 0 ∧ p.who.s < 8) := by
  repeat refine ⟨by (try simp only [Quiet, wheelIdle_iff, mayRun_iff]) <;> decide +kernel, ?_⟩
  all_goals (try simp only [Quiet, wheelIdle_iff, mayRun_iff]) <;> decide +kernel

theorem witness_KeyCommands_0 :
  (let s : State := st { rm with sel := { ide := [0] } }; let c : Cmd := cmd 0x0501 [(0x100, leBytes 1 63 ++ leBytes 1 0 ++ [0, 0] ++ List.replicate 48 7)]; let k : Nat := 63; let b : List Byte := List.replicate 48 7; (∀ n, c.src ≠ .oob n) ∧ Quiet s ∧ mayRun s.m c 0x0501 [.root 0 k] ∧ c.val 0x100 = leBytes 1 k ++ leBytes 1 0 ++ [0, 0] ++ b ∧ b.length = 48 ∧ k < 64 ∧ s.m.rootNamed k = false ∧ s.m.clearAllowed c true = true) :=
  ⟨(by intro n h; cases h), by (try simp only [Quiet, wheelIdle_iff, mayRun_iff]) <;> decide +kernel⟩

theorem witness_KeyCommands_1 :
  (let s : State := rd; let c : Cmd := cmd 0x0501 [(0x100, leBytes 1 63 ++ leBytes 1 0 ++ [0, 0] ++ List.replicate 48 7)]; let k : Nat := 63; let b : List Byte := List.replicate 48 7; (∀ n, c.src ≠ .oob n) ∧ Quiet s ∧ mayRun s.m c 0x0501 [.root 0 k] ∧ c.val 0x100 = leBytes 1 k ++ leBytes 1 0 ++ [0, 0] ++ b ∧ b.length = 48 ∧ k < 64 ∧ s.m.rootNamed k = false ∧ s.m.clearAllowed c false = false) :=
  ⟨(by intro n h; cases h), by (try simp only [Quiet, wheelIdle_iff, mayRun_iff]) <;> decide +kernel⟩

theorem witness_KeyCommands_4 :
  (let s : State := st ({ rm with chalk := { roots := [(62, { rootId := 1, root := List.replicate 48 9, state := 2 })] } }); let c : Cmd := cmd 0x0501 [(0x100, [63, 1, 0, 0, 62] ++ List.replicate 83 3)]; let k : Nat := 63; let w : Nat := 62; let root : List Byte := List.replicate 48 9; let key : List Byte := kdf root "UXM-THIMBLE" (labelOf 5 5 none 0xFFFF (leAt (c.val 0x100) 8 4) (leAt (c.val 0x100) 12 4) (slice (c.val 0x100) 16 16)) 32; let x : List Byte := slice (c.val 0x100) 32 56; (∀ n, c.src ≠ .oob n) ∧ key = kdf root "UXM-THIMBLE" (labelOf 5 5 none 0xFFFF (leAt (c.val 0x100) 8 4) (leAt (c.val 0x100) 12 4) (slice (c.val 0x100) 16 16)) 32 ∧ x = slice (c.val 0x100) 32 56 ∧ Quiet s ∧ mayRun s.m c 0x0501 [.root 0 k] ∧ (c.val 0x100).length = 88 ∧ leAt (c.val 0x100) 0 1 = k ∧ leAt (c.val 0x100) 1 1 = 1 ∧ k < 64 ∧ s.m.rootNamed k = false ∧ leAt (c.val 0x100) 4 1 = w ∧ w < 64 ∧ s.m.rootOf w = some root) :=
  ⟨(by intro n h; cases h), rfl, rfl, by (try simp only [Quiet, wheelIdle_iff, mayRun_iff]) <;> decide +kernel⟩

theorem witness_KeyCommands_5 :
  (let s : State := rd; let c : Cmd := cmd 0x0501 [(0x100, leBytes 1 63 ++ leBytes 1 2 ++ [0, 0])]; let k : Nat := 63; (∀ n, c.src ≠ .oob n) ∧ Quiet s ∧ mayRun s.m c 0x0501 [.root 0 k] ∧ c.val 0x100 = leBytes 1 k ++ leBytes 1 2 ++ [0, 0] ∧ k < 64 ∧ s.m.rootNamed k = false) :=
  ⟨(by intro n h; cases h), by (try simp only [Quiet, wheelIdle_iff, mayRun_iff]) <;> decide +kernel⟩

theorem witness_KeyCommands_6 :
  (let s : State := st { rm with thm := { agree := [(63, [1])] } }; let c : Cmd := cmd 0x0501 [(0x100, leBytes 1 63 ++ leBytes 1 3 ++ [0, 0] ++ List.replicate 97 4)]; let k : Nat := 63; let priv : List Byte := [1]; let peer : List Byte := List.replicate 97 4; let root : List Byte := kdf (p384Agree priv peer) "UXM-AGREE" (if beNat (p384Public priv) ≤ beNat peer then p384Public priv ++ peer else peer ++ p384Public priv) 48; (∀ n, c.src ≠ .oob n) ∧ root = kdf (p384Agree priv peer) "UXM-AGREE" (if beNat (p384Public priv) ≤ beNat peer then p384Public priv ++ peer else peer ++ p384Public priv) 48 ∧ Quiet s ∧ mayRun s.m c 0x0501 [.root 0 k] ∧ c.val 0x100 = leBytes 1 k ++ leBytes 1 3 ++ [0, 0] ++ peer ∧ peer.length = 97 ∧ k < 64 ∧ tget s.m.thm.agree k = some priv) :=
  ⟨(by intro n h; cases h), rfl, by (try simp only [Quiet, wheelIdle_iff, mayRun_iff]) <;> decide +kernel⟩

theorem witness_KeyCommands_7 :
  (let s : State := rd; let c : Cmd := cmd 0x0501 [(0x100, leBytes 1 63 ++ leBytes 1 4 ++ [0, 0])]; let k : Nat := 63; (∀ n, c.src ≠ .oob n) ∧ Quiet s ∧ mayRun s.m c 0x0501 [.root 0 k] ∧ c.val 0x100 = leBytes 1 k ++ leBytes 1 4 ++ [0, 0] ∧ k < 64) :=
  ⟨(by intro n h; cases h), by (try simp only [Quiet, wheelIdle_iff, mayRun_iff]) <;> decide +kernel⟩

theorem witness_KeyCommands_10 :
  (let s : State := st ({ rm with chalk := { roots := [(63, { rootId := 1, root := List.replicate 48 9, state := 2 })] } }); let c : Cmd := cmd 0x0503 [(0x100, [63, 1, 1, 0, 0, 7, 0, 0] ++ leBytes 4 9 ++ List.replicate 28 0)]; let v : List Byte := [63, 1, 1, 0, 0, 7, 0, 0] ++ leBytes 4 9 ++ List.replicate 28 0; let root : List Byte := List.replicate 48 9; let k : Nat := 63; let sl : Nat := 7; let h : Nat := ((({ s.m with chalk := { s.m.chalk with incarnations := tput s.m.chalk.incarnations k (tgetD s.m.chalk.incarnations k 0 + 1) } } : Mod).newObj sl { serial := 0, inst := c.inst, root := some k, purpose := leAt v 1 1, alg := leAt v 2 1, dir := 0, ctxId := leAt v 8 4, incarnation := tgetD s.m.chalk.incarnations k 0 + 1, origin := serialNumber }).map (·.1)).getD 0; let m1 : Mod := { s.m with chalk := { s.m.chalk with incarnations := tput s.m.chalk.incarnations k (tgetD s.m.chalk.incarnations k 0 + 1) } }; let m2 : Mod := ((m1.newObj sl { serial := 0, inst := c.inst, root := some k, purpose := leAt v 1 1, alg := leAt v 2 1, dir := 0, ctxId := leAt v 8 4, incarnation := tgetD s.m.chalk.incarnations k 0 + 1, origin := serialNumber }).map (·.2)).getD m1; m1.newObj sl { serial := 0, inst := c.inst, root := some k, purpose := leAt v 1 1, alg := leAt v 2 1, dir := 0, ctxId := leAt v 8 4, incarnation := tgetD s.m.chalk.incarnations k 0 + 1, origin := serialNumber } = some (h, m2) ∧ Quiet s ∧ mayRun s.m c 0x0503 [.inst c.inst] ∧ c.val 0x100 = v ∧ leAt v 0 1 = k ∧ k < 64 ∧ s.m.rootOf k = some root ∧ s.m.homeSlice c (leAt v 5 1) = some sl ∧ ctxFits (leAt v 1 1) (leAt v 2 1) (leAt v 3 1) = true ∧ leAt v 3 1 = 0 ∧ leAt v 12 4 = 0 ∧ leAt v 16 16 = 0 ∧ (s.m.freeObj sl).isSome = true ∧ s.m.ctxRoom c.inst sl = true ∧ tgetD s.m.chalk.incarnations k 0 ≠ 0xFFFFFFFF ∧ m1 = { s.m with chalk := { s.m.chalk with incarnations := tput s.m.chalk.incarnations k (tgetD s.m.chalk.incarnations k 0 + 1) } }) :=
  ⟨newObj_some (by decide +kernel), by (try simp only [Quiet, wheelIdle_iff, mayRun_iff]) <;> decide +kernel⟩

theorem witness_KeyCommands_11 :
  (let m : Mod := rm; let m' : Mod := ((rm.newObj 7 { serial := 1, inst := 0xFFFF, root := none, purpose := 1 }).map (·.2)).getD rm; let sl : Nat := 7; let h : Nat := ((rm.newObj 7 { serial := 1, inst := 0xFFFF, root := none, purpose := 1 }).map (·.1)).getD 0; let o : ThmObj := { serial := 1, inst := 0xFFFF, root := none, purpose := 1 }; m.newObj sl o = some (h, m') ∧ sl < 8 ∧ o.dying = false) :=
  ⟨newObj_some (by decide +kernel), by (try simp only [Quiet, wheelIdle_iff, mayRun_iff]) <;> decide +kernel⟩

theorem witness_KeyCommands :
  (let s : State := st (rs [(F.CUT_CFG_MANAGER_MID, [], 0x3003)]); let c : Cmd := { cmd 0x0501 with src := .oob 3, mid := 0x3003 }; let n : Nat := 3; Quiet s ∧ s.m.cmdCheck (asOp c 0x0501) = none ∧ c.src = .oob n) ∧
  (let s : State := rd; let c : Cmd := cmd 0x0502 [(0x100, [63, 0, 0, 0] ++ leBytes 4 5)]; let k : Nat := 63; let lo : Nat := 5; let n : Nat := max (tgetD s.m.chalk.incarnations k 0) (lo - 1); Quiet s ∧ mayRun s.m c 0x0502 [.root 0 k] ∧ leAt (c.val 0x100) 0 1 = k ∧ leAt (c.val 0x100) 4 4 = lo ∧ k < 64 ∧ 1 < lo ∧ n = max (tgetD s.m.chalk.incarnations k 0) (lo - 1)) ∧
  (let m : Mod := { rm with chalk := { incarnations := [(63, 5)] } }; let k : Nat := 63; let n : Nat := 5; tgetD m.chalk.incarnations k 0 = n) ∧
  (let m : Mod := { rm with chalk := { incarnations := [(63, 0xFFFFFFFF)] } }; let k : Nat := 63; let n : Nat := 0xFFFFFFFF; tgetD m.chalk.incarnations k 0 = n) ∧
  (let s : State := st ({ rm with thm := { objs := [(7 * 32768, { serial := 1, inst := 0xFFFF, root := none })] } }); let c : Cmd := cmd 0x0504 [(0x100, leBytes 4 (7 * 32768 + 2 ^ 18))]; let h : Nat := (7 * 32768 + 2 ^ 18); let k : Nat := 7 * 32768; let o : ThmObj := { serial := 1, inst := 0xFFFF, root := none }; Quiet s ∧ leAt (c.val 0x100) 0 4 = h ∧ h % 2 ^ 18 = k ∧ s.m.cmdObj c h = some o ∧ s.m.objNamed k = false ∧ mayRun s.m c 0x0504 [.ctx k] ∧ s.m.objBusy k = false) ∧
  (let s : State := st ({ rm with thm := { objs := [(7 * 32768, { serial := 1, inst := 0xFFFF, root := none, kind := .esp 0 0 0 [] })] } }); let c : Cmd := cmd 0x0507 [(0x100, leBytes 4 (7 * 32768 + 2 ^ 18))]; let h : Nat := (7 * 32768 + 2 ^ 18); let k : Nat := 7 * 32768; let o : ThmObj := { serial := 1, inst := 0xFFFF, root := none, kind := .esp 0 0 0 [] }; Quiet s ∧ leAt (c.val 0x100) 0 4 = h ∧ h % 2 ^ 18 = k ∧ s.m.cmdObj c h = some o ∧ s.m.objNamed k = false ∧ mayRun s.m c 0x0507 [.ctx k] ∧ s.m.objBusy k = false) ∧
  (let s : State := st ({ rm with thm := { objs := [(7 * 32768, { serial := 1, inst := 0xFFFF, root := none })], ops := [(7, [{ who := ⟨7, 159, 15⟩, tag := 7, obj := 7 * 32768, write := some (0, [1]), resp := {} }])] } }); let c : Cmd := cmd 0x0504 [(0x100, leBytes 4 (7 * 32768 + 2 ^ 18))]; let h : Nat := (7 * 32768 + 2 ^ 18); let k : Nat := 7 * 32768; let o : ThmObj := { serial := 1, inst := 0xFFFF, root := none }; Quiet s ∧ leAt (c.val 0x100) 0 4 = h ∧ h % 2 ^ 18 = k ∧ s.m.cmdObj c h = some o ∧ s.m.objNamed k = false ∧ mayRun s.m c 0x0504 [.ctx k] ∧ s.m.objBusy k = true) ∧
  (let s : State := rd; let c : Cmd := cmd 0x0504 [(0x100, leBytes 4 (7 * 32768 + 2 ^ 18))]; let h : Nat := (7 * 32768 + 2 ^ 18); Quiet s ∧ leAt (c.val 0x100) 0 4 = h ∧ s.m.cmdCheck (asOp c 0x0504) = none ∧ s.m.cmdObj c h = none) ∧
  (let s : State := rd; let c : Cmd := cmd 0x0507 [(0x100, leBytes 4 (7 * 32768 + 2 ^ 18))]; let h : Nat := (7 * 32768 + 2 ^ 18); Quiet s ∧ leAt (c.val 0x100) 0 4 = h ∧ s.m.cmdCheck (asOp c 0x0507) = none ∧ s.m.cmdObj c h = none) ∧
  (let s : State := st ({ rm with thm := { objs := [(7 * 32768, { serial := 1, inst := 0xFFFF, root := none, purpose := 2 })] } }); let c : Cmd := cmd 0x0505 [(0x100, leBytes 4 (7 * 32768 + 2 ^ 18) ++ leBytes 4 60 ++ leBytes 6 5 ++ [0, 0] ++ leBytes 4 15000 ++ [0, 0, 0, 0])]; let v : List Byte := leBytes 4 (7 * 32768 + 2 ^ 18) ++ leBytes 4 60 ++ leBytes 6 5 ++ [0, 0] ++ leBytes 4 15000 ++ [0, 0, 0, 0]; let h : Nat := (7 * 32768 + 2 ^ 18); let k : Nat := 7 * 32768; let per : Nat := 60; let guard : Nat := 15000; let o : ThmObj := { serial := 1, inst := 0xFFFF, root := none, purpose := 2 }; Quiet s ∧ mayRun s.m c 0x0505 [.ctx k] ∧ c.val 0x100 = v ∧ leAt v 0 4 = h ∧ h % 2 ^ 18 = k ∧ s.m.cmdObj c h = some o ∧ leAt v 4 4 = per ∧ leAt v 16 4 = guard ∧ o.used = false ∧ o.kind = .ctx ∧ (o.purpose = 1 ∨ o.purpose = 2) ∧ per ≠ 0 ∧ per ≤ 31622400 ∧ guard ≤ per * 250 ∧ s.m.epochRefused = false) ∧
  (let s : State := st ({ rm with thm := { objs := [(7 * 32768, { serial := 1, inst := 0xFFFF, root := none, used := true })] } }); let c : Cmd := cmd 0x0505 [(0x100, leBytes 4 (7 * 32768 + 2 ^ 18) ++ leBytes 4 60 ++ leBytes 6 5 ++ [0, 0] ++ leBytes 4 15000 ++ [0, 0, 0, 0])]; let o : ThmObj := { serial := 1, inst := 0xFFFF, root := none, used := true }; Quiet s ∧ s.m.cmdCheck (asOp c 0x0505) = none ∧ s.m.cmdObj c (leAt (c.val 0x100) 0 4) = some o ∧ o.used = true) ∧
  (let s : State := st ({ rm with thm := { objs := [(7 * 32768, { serial := 1, inst := 0xFFFF, root := none, purpose := 1, dir := 1, epoch := some ⟨60, 5, 1000⟩ })] } }); let k : Fin 262144 := 229376; let t : Nat := 63999000000; let o : ThmObj := { serial := 1, inst := 0xFFFF, root := none, purpose := 1, dir := 1, epoch := some ⟨60, 5, 1000⟩ }; let x : EpochSet := ⟨60, 5, 1000⟩; Quiet s ∧ tget s.m.thm.objs k = some o ∧ o.epoch = some x ∧ o.dir = 1 ∧ s.m.ns ≤ t ∧ (t : Int) + (x.guard + 1 : Nat) * 1000000 = x.startNs (x.at_ (t * nsUnit) + 1)) ∧
  (let s : State := st ({ rm with thm := { objs := [(7 * 32768, { serial := 1, inst := 0xFFFF, root := none, purpose := 1, dir := 1, epoch := some ⟨60, 5, 1000⟩ })] } }); let k : Fin 262144 := 229376; let t : Nat := 66000000000; let o : ThmObj := { serial := 1, inst := 0xFFFF, root := none, purpose := 1, dir := 1, epoch := some ⟨60, 5, 1000⟩ }; let x : EpochSet := ⟨60, 5, 1000⟩; Quiet s ∧ tget s.m.thm.objs k = some o ∧ o.epoch = some x ∧ o.dir = 1 ∧ s.m.ns ≤ t ∧ (t : Int) = x.startNs (x.at_ (t * nsUnit)) + x.guard * 1000000) := by
  repeat refine ⟨by (try simp only [Quiet, wheelIdle_iff, mayRun_iff]) <;> decide +kernel, ?_⟩
  all_goals (try simp only [Quiet, wheelIdle_iff, mayRun_iff]) <;> decide +kernel

theorem witness_SecurityAssociations_0 :
  (let s : State := st ({ rm with thm := { objs := [(7 * 32768, { serial := 1, inst := 0xFFFF, root := none, purpose := 2, dir := 1 })] } }); let c : Cmd := cmd 0x0506 [(0x100, leBytes 4 (7 * 32768 + 2 ^ 18) ++ leBytes 4 256 ++ leBytes 2 4096 ++ List.replicate 6 0)]; let v : List Byte := leBytes 4 (7 * 32768 + 2 ^ 18) ++ leBytes 4 256 ++ leBytes 2 4096 ++ List.replicate 6 0; let h : Nat := (7 * 32768 + 2 ^ 18); let w : Nat := 4096; let n : Nat := ((s.m.newObj (h % 2 ^ 18 / 32768) { serial := 0, inst := 0xFFFF, root := none, purpose := 10, kind := .esp (h % 2 ^ 18) (leAt v 4 4) w [] }).map (·.1)).getD 0; let o : ThmObj := { serial := 1, inst := 0xFFFF, root := none, purpose := 2, dir := 1 }; let m' : Mod := ((s.m.newObj (h % 2 ^ 18 / 32768) { serial := 0, inst := 0xFFFF, root := none, purpose := 10, kind := .esp (h % 2 ^ 18) (leAt v 4 4) w [] }).map (·.2)).getD s.m; s.m.newObj (h % 2 ^ 18 / 32768) { serial := 0, inst := o.inst, root := o.root, purpose := 10, kind := .esp (h % 2 ^ 18) (leAt v 4 4) (if o.dir = 1 then w else 0) [] } = some (n, m') ∧ Quiet s ∧ mayRun s.m c 0x0506 [.ctx (h % 2 ^ 18)] ∧ (c.tlv 0x100).isSome = true ∧ c.val 0x100 = v ∧ leAt v 0 4 = h ∧ leAt v 8 2 = w ∧ s.m.cmdObj c h = some o ∧ o.kind = .ctx ∧ o.purpose = 2 ∧ (o.dir ≠ 1 ∨ w ∈ [64, 128, 256, 512, 1024, 2048, 4096]) ∧ s.m.ctxRoom o.inst (h % 2 ^ 18 / 32768) = true) :=
  ⟨newObj_some (by decide +kernel), by (try simp only [Quiet, wheelIdle_iff, mayRun_iff]) <;> decide +kernel⟩

theorem witness_SecurityAssociations_1 :
  (let s : State := rd; let c : Cmd := cmd 0x0506 [(0x110, [1, 0, 0, 0, 0, 0, 0, 0, 1, 1, 0xFF, 7] ++ List.replicate 8 0)]; let v : List Byte := [1, 0, 0, 0, 0, 0, 0, 0, 1, 1, 0xFF, 7] ++ List.replicate 8 0; let sl : Nat := 7; let h : Nat := ((s.m.newObj sl { serial := 0, inst := c.inst, root := none, purpose := 11, kind := .tls { role := leAt v 8 1, suite := leAt v 9 1, psk := none, early := hmac (leAt v 9 1) (List.replicate (tlsHash (leAt v 9 1)) 0) (List.replicate (tlsHash (leAt v 9 1)) 0) } }).map (·.1)).getD 0; let m' : Mod := ((s.m.newObj sl { serial := 0, inst := c.inst, root := none, purpose := 11, kind := .tls { role := leAt v 8 1, suite := leAt v 9 1, psk := none, early := hmac (leAt v 9 1) (List.replicate (tlsHash (leAt v 9 1)) 0) (List.replicate (tlsHash (leAt v 9 1)) 0) } }).map (·.2)).getD s.m; s.m.newObj sl { serial := 0, inst := c.inst, root := none, purpose := 11, kind := .tls { role := leAt v 8 1, suite := leAt v 9 1, psk := none, early := hmac (leAt v 9 1) (List.replicate (tlsHash (leAt v 9 1)) 0) (List.replicate (tlsHash (leAt v 9 1)) 0) } } = some (h, m') ∧ Quiet s ∧ mayRun s.m c 0x0506 [.inst c.inst] ∧ (c.tlv 0x110).isSome = true ∧ c.val 0x110 = v ∧ s.m.homeSlice c (leAt v 11 1) = some sl ∧ leAt v 10 1 = 0xFF ∧ leAt v 0 1 = 1 ∧ leAt v 8 1 ≤ 1 ∧ leAt v 9 1 ≤ 1 ∧ leAt v 4 4 = 0 ∧ s.m.ctxRoom c.inst sl = true) :=
  ⟨newObj_some (by decide +kernel), by (try simp only [Quiet, wheelIdle_iff, mayRun_iff]) <;> decide +kernel⟩

theorem witness_SecurityAssociations :
  (let s : State := st ({ rm with thm := { objs := [(7 * 32768, { serial := 1, inst := 0xFFFF, root := none, purpose := 11, kind := .tls { role := 1, suite := 0, psk := none, early := [] } })] } }); let c : Cmd := cmd 0x0506 [(0x110, [2, 0, 0, 0] ++ leBytes 4 (7 * 32768 + 2 ^ 18) ++ [0, 0, 0, 0])]; let v : List Byte := [2, 0, 0, 0] ++ leBytes 4 (7 * 32768 + 2 ^ 18) ++ [0, 0, 0, 0]; let h : Nat := (7 * 32768 + 2 ^ 18); let k : Nat := 7 * 32768; let o : ThmObj := { serial := 1, inst := 0xFFFF, root := none, purpose := 11, kind := .tls { role := 1, suite := 0, psk := none, early := [] } }; let t : TlsSa := { role := 1, suite := 0, psk := none, early := [] }; Quiet s ∧ mayRun s.m c 0x0506 [.ctx k] ∧ (c.tlv 0x110).isSome = true ∧ c.val 0x110 = v ∧ leAt v 4 4 = h ∧ h % 2 ^ 18 = k ∧ s.m.cmdObj c h = some o ∧ o.kind = .tls t) ∧
  (let s : State := rd; let c : Cmd := { cmd 0x0508 with tlvs := [] }; let a : Ans := missing; Quiet s ∧ s.m.cmdCheck (asOp c 0x0508) = some a) ∧
  (let s : State := rd; let c : Cmd := cmd 0x0508 [(0x100, [95, 0, 9, 0] ++ List.replicate 12 0 ++ leBytes 4 (7 * 32768 + 2 ^ 18) ++ leBytes 8 1 ++ List.replicate 12 0)]; let p : Nat := 1; let v : List Byte := [95, 0, 9, 0] ++ List.replicate 12 0 ++ leBytes 4 (7 * 32768 + 2 ^ 18) ++ leBytes 8 1 ++ List.replicate 12 0; Quiet s ∧ mayRun s.m c 0x0508 [.port (leAt v 0 1)] ∧ c.all 0x100 = [(p, v)] ∧ s.m.macOk v = false) ∧
  (let s : State := st ({ rm with thm := { objs := [(7 * 32768, { serial := 1, inst := 0xFFFF, root := none, purpose := 3, dir := 2, alg := 3 })] } }); let c : Cmd := cmd 0x0508 [(0x100, [95, 0, 9, 0] ++ List.replicate 12 0 ++ leBytes 4 (7 * 32768 + 2 ^ 18) ++ leBytes 8 1 ++ List.replicate 12 0)]; let p : Nat := 1; let v : List Byte := [95, 0, 9, 0] ++ List.replicate 12 0 ++ leBytes 4 (7 * 32768 + 2 ^ 18) ++ leBytes 8 1 ++ List.replicate 12 0; Quiet s ∧ mayRun s.m c 0x0508 [.port (leAt v 0 1)] ∧ c.all 0x100 = [(p, v)] ∧ s.m.macOk v = true) ∧
  (let s : State := st ({ rm with thm := { objs := [(7 * 32768, { serial := 1, inst := 0xFFFF, root := none, purpose := 3, dir := 2, alg := 3 })] } }); let c : Cmd := cmd 0x0508 [(0x100, [95, 0, 32, 0] ++ List.replicate 12 0 ++ leBytes 4 (7 * 32768 + 2 ^ 18) ++ leBytes 8 1 ++ List.replicate 12 0)]; let p : Nat := 1; let v : List Byte := [95, 0, 32, 0] ++ List.replicate 12 0 ++ leBytes 4 (7 * 32768 + 2 ^ 18) ++ leBytes 8 1 ++ List.replicate 12 0; Quiet s ∧ mayRun s.m c 0x0508 [.port (leAt v 0 1)] ∧ c.all 0x100 = [(p, v)] ∧ s.m.macOk v = true ∧ bit (leAt v 2 1) 5 = true) ∧
  (let v : List Byte := [95, 0, 24, 0] ++ List.replicate 12 0 ++ leBytes 4 (7 * 32768 + 2 ^ 18) ++ leBytes 8 1 ++ List.replicate 12 0; let n : Nat := 95; let k : Nat := 0; let f : Nat := 24; leAt v 0 1 = n ∧ leAt v 1 1 = k ∧ leAt v 2 1 = f ∧ bit f 6 = false) := by
  repeat refine ⟨by (try simp only [Quiet, wheelIdle_iff, mayRun_iff]) <;> decide +kernel, ?_⟩
  all_goals (try simp only [Quiet, wheelIdle_iff, mayRun_iff]) <;> decide +kernel

theorem witness_SpoolWork :
  (let s : State := rd; let o : Fin 4128 := 4127; Quiet s ∧ (s.m.ownerExists o = false ∨ s.m.issues (s.m.ownerFn o) = false ∨ s.m.isStorage o = true)) ∧
  (let s : State := st (sets up31 [(F.SPL_OWNER_PF_POLLS_TO_SWEEP, [7, 3], 5)]); let o : Fin 4128 := 4127; Quiet s ∧ s.m.ownerExists o = true ∧ s.m.issues (s.m.ownerFn o) = true ∧ s.m.isStorage o = false ∧ (s.m.owner o).summary = none ∧ (∀ r ∈ s.m.ringsOf o, r.2.asked = false ∧ r.2.hiddenAt = none) ∧ s.m.toSweep o ≠ 0) ∧
  (let s : State := st (sets up31 [(F.SPL_OWNER_PF_POLLS_TO_SWEEP, [7, 3], 0)]); let o : Fin 4128 := 4127; Quiet s ∧ s.m.ownerExists o = true ∧ s.m.issues (s.m.ownerFn o) = true ∧ s.m.isStorage o = false ∧ (s.m.owner o).summary = none ∧ (∀ r ∈ s.m.ringsOf o, r.2.asked = false ∧ r.2.hiddenAt = none) ∧ s.m.toSweep o = 0) ∧
  (let s : State := st { sets up31 [(F.SPL_OWNER_PF_POLLS_TO_SWEEP, [7, 3], 5)] with spl := { owners := [(4127, { summary := some (4096, none) })] } }; let o : Fin 4128 := 4127; let a : Nat := 4096; let p : Option Nat := none; s.m.ownerExists o = true ∧ s.m.issues (s.m.ownerFn o) = true ∧ s.m.isStorage o = false ∧ (s.m.owner o).summary = some (a, p) ∧ (s.m.owner o).asked = false ∧ s.m.toSweep o ≠ 0 ∧ (∀ r ∈ s.m.ringsOf o, r.2.asked = false ∧ r.2.hiddenAt = none)) ∧
  (let m : Mod := { up31 with spl := { rings := [(9, { owner := 4127, log2 := 6, addr := 4096, record := 64, consumed := 0, read := 0 })] } }; let k : Nat := 9; let p : Nat := 65; let r : Ring := { owner := 4127, log2 := 6, addr := 4096, record := 64, read := 0 }; let bs : List Byte := leBytes 4 65 ++ List.replicate 4 0; m.ring k = some r ∧ k / 65536 ≠ 2 ∧ r.state = 1 ∧ leAt bs 0 4 = p ∧ r.size < countSub p r.consumed) ∧
  (let m : Mod := { up31 with spl := { rings := [(9, { owner := 4127, log2 := 6, addr := 4096, record := 64, consumed := 0, read := 3 })] } }; let k : Nat := 9; let p : Nat := 2; let r : Ring := { owner := 4127, log2 := 6, addr := 4096, record := 64, read := 3 }; let bs : List Byte := leBytes 4 2 ++ List.replicate 4 0; m.ring k = some r ∧ k / 65536 ≠ 2 ∧ r.state = 1 ∧ leAt bs 0 4 = p ∧ countSub p r.consumed < countSub p r.read) ∧
  (let m : Mod := { up31 with spl := { rings := [(9, { owner := 4127, log2 := 6, addr := 4096, record := 64, consumed := 0, read := 3 })] } }; let k : Nat := 9; let p : Nat := 64; let r : Ring := { owner := 4127, log2 := 6, addr := 4096, record := 64, read := 3 }; let bs : List Byte := leBytes 4 64 ++ List.replicate 4 0; m.ring k = some r ∧ k / 65536 ≠ 2 ∧ r.state = 1 ∧ leAt bs 0 4 = p ∧ countSub p r.read ≤ countSub p r.consumed) ∧
  (let m : Mod := { up31 with spl := { rings := [(9, { owner := 4127, log2 := 6, addr := 4096, record := 64, produced := 1 })] } }; let k : Nat := 9; let w : Nat := 65537; let r : Ring := { owner := 4127, log2 := 6, addr := 4096, record := 64, produced := 1 }; let bs : List Byte := leBytes 4 65537 ++ List.replicate 28 0; m.ring k = some r ∧ k / 65536 < 3 ∧ r.state = 1 ∧ m.readable k r ≠ 0 ∧ 32 ≤ bs.length ∧ leAt bs 0 4 = w ∧ bits w 16 1 = r.phase r.read ∧ w % 2 ^ 16 ≠ r.eseq) ∧
  (let e : RingEntry := { at_ := 0, units := 1, raw := [0, 0, 0, 0] ++ leBytes 2 (14 + 2 ^ 14) ++ List.replicate 26 0 }; sendOk e = true) ∧
  (let s : State := rd; let kind : Fin 4 := 3; let n : Fin 65536 := 65535; Quiet s ∧ (s.m.ring (ringKey kind n) = none ∨ (∃ r, s.m.ring (ringKey kind n) = some r ∧ (r.hiddenAt = none ∨ r.state ≠ 1)))) ∧
  (let s : State := st { up31 with spl := { rings := [(65535, { owner := 4127, log2 := 6, addr := 4096, record := 64, hiddenAt := some 5 })] } }; let kind : Fin 4 := 0; let n : Fin 65536 := 65535; let r : Ring := { owner := 4127, log2 := 6, addr := 4096, record := 64, hiddenAt := some 5 }; let t0 : Nat := 5; s.m.ring (ringKey kind n) = some r ∧ r.hiddenAt = some t0 ∧ r.state = 1) ∧
  (let s : State := rd; let e : Fin 32 := 31; Quiet s ∧ (s.m.countWaits e).fit.pend = [] ∧ (s.m.countWaits e).pick e = none) ∧
  (let s : State := st { up31 with spl := { rings := [(9, { owner := 4127, log2 := 6, addr := 4096, record := 64, entries := [{ at_ := 0, units := 1, raw := [0, 0, 0, 0] ++ leBytes 2 (14 + 2 ^ 14) ++ List.replicate 26 0 }], produced := 1, read := 1 })] } }; let e : Fin 32 := 31; let k : Nat := 9; let en : RingEntry := { at_ := 0, units := 1, raw := [0, 0, 0, 0] ++ leBytes 2 (14 + 2 ^ 14) ++ List.replicate 26 0 }; let m' : Mod := (((s.m.countWaits 31).pick 31).map (·.2)).getD s.m; (s.m.countWaits e).pick e = some (.entry k en, m') ∧ k < 65536) ∧
  (let m : Mod := { up31 with spl := { rings := [(9, { owner := 4127, log2 := 6, addr := 4096, record := 64, entries := [{ at_ := 0, units := 1, raw := [0, 0, 0, 0] ++ leBytes 2 (14 + 2 ^ 14) ++ List.replicate 26 0 }], produced := 1, read := 1 })] } }; let m' : Mod := ((({ (up31 : Mod) with spl := { rings := [(9, { owner := 4127, log2 := 6, addr := 4096, record := 64, entries := [{ at_ := 0, units := 1, raw := [0, 0, 0, 0] ++ leBytes 2 (14 + 2 ^ 14) ++ List.replicate 26 0 }], produced := 1, read := 1 })] } } : Mod).admitCells (({ (up31 : Mod) with spl := { rings := [(9, { owner := 4127, log2 := 6, addr := 4096, record := 64, entries := [{ at_ := 0, units := 1, raw := [0, 0, 0, 0] ++ leBytes 2 (14 + 2 ^ 14) ++ List.replicate 26 0 }], produced := 1, read := 1 })] } } : Mod).sendAcct { owner := 4127, log2 := 6, addr := 4096, record := 64, entries := [{ at_ := 0, units := 1, raw := [0, 0, 0, 0] ++ leBytes 2 (14 + 2 ^ 14) ++ List.replicate 26 0 }], produced := 1, read := 1 }) 1).map (·.1)).getD rm; let k : Nat := 9; let e : RingEntry := { at_ := 0, units := 1, raw := [0, 0, 0, 0] ++ leBytes 2 (14 + 2 ^ 14) ++ List.replicate 26 0 }; let r : Ring := { owner := 4127, log2 := 6, addr := 4096, record := 64, entries := [{ at_ := 0, units := 1, raw := [0, 0, 0, 0] ++ leBytes 2 (14 + 2 ^ 14) ++ List.replicate 26 0 }], produced := 1, read := 1 }; let ch : Charge := ((m.admitCells (m.sendAcct r) 1).map (·.2)).getD { slice := 0, acct := 0, n := 0, src := 0 }; m.ring k = some r ∧ m.admitCells (m.sendAcct r) (cellsOf e.len) = some (m', ch) ∧ e.inline_ = true) ∧
  (let e : RingEntry := { at_ := 0, units := 1, raw := [0, 0, 0, 0] ++ leBytes 2 (14 + 2 ^ 14) ++ List.replicate 26 0, stage := .fetching }; e.pad = false ∧ e.stage = .fetching ∧ e.whole.isSome = true) ∧
  (let e : RingEntry := { at_ := 0, units := 1, raw := [0, 0, 0, 0] ++ leBytes 2 (14 + 2 ^ 11) ++ [1] ++ List.replicate 25 0, stage := .fetching }; e.pad = false ∧ e.stage = .fetching ∧ e.whole = none) ∧
  (let e : RingEntry := { at_ := 0, units := 1, raw := [0, 0, 0, 0] ++ leBytes 2 (14 + 2 ^ 11) ++ [1] ++ List.replicate 25 0, stage := .read }; e.pad = false ∧ e.stage = .read) ∧
  (let e : RingEntry := { at_ := 0, units := 1, raw := [0, 0, 0, 0] ++ leBytes 2 (14 + 2 ^ 14) ++ List.replicate 26 0, stage := .read }; e.pad = false ∧ e.inline_ = true) ∧
  (let s : State := rd; let e : Fin 32 := 31; Quiet s ∧ s.m.pick e = none) ∧
  (let s : State := st { up31 with spl := { rings := [((3 * 65536 + 9), { owner := 4127, log2 := 6, addr := 4096, record := 64, entries := [{ at_ := 0, units := 2, raw := List.replicate 64 0 }], produced := 2, read := 2 })] } }; let e : Fin 32 := 31; let n : Nat := 9; let en : RingEntry := { at_ := 0, units := 2, raw := List.replicate 64 0 }; let m' : Mod := ((s.m.pick 31).map (·.2)).getD s.m; let r : Ring := { owner := 4127, log2 := 6, addr := 4096, record := 64, entries := [{ at_ := 0, units := 2, raw := List.replicate 64 0 }], produced := 2, read := 2 }; s.m.pick e = some (.entry (ringKey 3 n) en, m') ∧ n < 65536 ∧ m'.ring (ringKey 3 n) = some r) ∧
  (let m : Mod := { up31 with spl := { rings := [(9, { owner := 4127, log2 := 6, addr := 4096, record := 64, events := [{ kind := 2, ring := 9 }] }), (131072, { owner := 4127, log2 := 6, addr := 4096, record := 64, attr := 0 })] } }; let m' : Mod := (({ up31 with spl := { rings := [(9, { owner := 4127, log2 := 6, addr := 4096, record := 64, events := [{ kind := 2, ring := 9 }] }), (131072, { owner := 4127, log2 := 6, addr := 4096, record := 64, attr := 0 })] } }) : Mod).putRing 9 { owner := 4127, log2 := 6, addr := 4096, record := 64, events := [] }; let k : Nat := 9; let r : Ring := { owner := 4127, log2 := 6, addr := 4096, record := 64, events := [{ kind := 2, ring := 9 }] }; let cr : Ring := { owner := 4127, log2 := 6, addr := 4096, record := 64, attr := 0 }; let c : Cpl := { kind := 2, ring := 9 }; m.ring k = some r ∧ m.takeCpl k r = some (m', c) ∧ m.ring (ringKey 2 r.peer) = some cr ∧ m.issues (m.ringFn r) = true ∧ m.fenceFull (m.ringFn r) = false ∧ cr.takes = true ∧ (c.kind = 2 ∨ c.gen = m.ownerGen r.owner) ∧ m.ownerStill r.owner = false ∧ cr.pend = [] ∧ (k / 65536 ≠ 1 ∨ r.events ≠ []) ∧ cr.room 1 (m.reserved (ringKey 2 r.peer)) = true) ∧
  (let m : Mod := { up31 with spl := { rings := [(9, { owner := 4127, log2 := 6, addr := 4096, record := 64, events := [{ kind := 2, ring := 9 }] }), (131072, { owner := 4127, log2 := 6, addr := 4096, record := 64, produced := 64 })] } }; let m' : Mod := (({ up31 with spl := { rings := [(9, { owner := 4127, log2 := 6, addr := 4096, record := 64, events := [{ kind := 2, ring := 9 }] }), (131072, { owner := 4127, log2 := 6, addr := 4096, record := 64, produced := 64 })] } }) : Mod).putRing 9 { owner := 4127, log2 := 6, addr := 4096, record := 64, events := [] }; let k : Nat := 9; let r : Ring := { owner := 4127, log2 := 6, addr := 4096, record := 64, events := [{ kind := 2, ring := 9 }] }; let cr : Ring := { owner := 4127, log2 := 6, addr := 4096, record := 64, produced := 64 }; let c : Cpl := { kind := 2, ring := 9 }; m.ring k = some r ∧ m.takeCpl k r = some (m', c) ∧ m.ring (ringKey 2 r.peer) = some cr ∧ m.issues (m.ringFn r) = true ∧ m.fenceFull (m.ringFn r) = false ∧ cr.takes = true ∧ (c.kind = 2 ∨ c.gen = m.ownerGen r.owner) ∧ m.ownerStill r.owner = false ∧ cr.pend = [] ∧ (k / 65536 ≠ 1 ∨ r.events ≠ []) ∧ cr.room 1 (m.reserved (ringKey 2 r.peer)) = false) ∧
  (let r : Ring := { owner := 4127, log2 := 6, addr := 4096, record := 64, entries := [{ at_ := 0, units := 1, cpl := some { kind := 2, ring := 9 } }] }; let x : RingEntry := { at_ := 0, units := 1, cpl := some { kind := 2, ring := 9 } }; let c : Cpl := { kind := 2, ring := 9 }; x.pad = false ∧ x.cpl = some c ∧ r.entries.head? = some x) ∧
  (let s : State := st { up31 with spl := { rings := [(196607, { owner := 4127, log2 := 6, addr := 4096, record := 64 })] } }; let n : Fin 65536 := 65535; let r : Ring := { owner := 4127, log2 := 6, addr := 4096, record := 64 }; Quiet s ∧ s.m.ring (ringKey 2 n) = some r ∧ r.unsent = 0) ∧
  (let s : State := st { up31 with spl := { rings := [(196607, { owner := 4127, log2 := 6, addr := 4096, record := 64, unsent := 1, modUs := 5 })] } }; let n : Fin 65536 := 65535; let r : Ring := { owner := 4127, log2 := 6, addr := 4096, record := 64, unsent := 1, modUs := 5 }; Quiet s ∧ s.m.ring (ringKey 2 n) = some r ∧ r.unsent ≠ 0 ∧ r.modUs ≠ 0 ∧ r.takes = true) ∧
  (let v : Nat := 3; let r : Ring := { owner := 4127, log2 := 6, addr := 4096, record := 64, vector := some 3 }; r.vector = some v) ∧
  (let s : State := rd; let e : Fin 32 := 31; Quiet s ∧ s.m.heads e = []) ∧
  (let s : State := st ((({ up31 with spl := { rings := [(65545, { owner := 4127, log2 := 6, addr := 4096, record := 64, entries := [{ at_ := 0, units := 1, raw := [0, 0, 0, 0] ++ leBytes 2 2048 ++ List.replicate 26 0 }], produced := 1, read := 1 }), (131072, { owner := 4127, log2 := 6, addr := 4096, record := 64, attr := 0 })] } }) : Mod).putEgq (egKey 7 99 3) [{ id := 1, pkt := { bytes := List.replicate 60 0 }, ring := 9, present := 1 }]); let e : Fin 32 := 31; let stamp : Nat := 9; let k : Nat := ((s.m.heads 31).headD (0, { id := 1, pkt := { bytes := List.replicate 60 0 }, ring := 9, present := 1 })).1; let d : Nat := (((spoolDrr (tgetD s.m.spl.delivered e 0) [⟨4127, 60, (s.m.owner 4127).rxDeficit, s.m.quantum 4127⟩]).map (fun p => (p.2.headD (0, 0)).2)).getD 0); let x : EgEntry := { id := 1, pkt := { bytes := List.replicate 60 0 }, ring := 9, present := 1 }; let r : Ring := { owner := 4127, log2 := 6, addr := 4096, record := 64, entries := [{ at_ := 0, units := 1, raw := [0, 0, 0, 0] ++ leBytes 2 2048 ++ List.replicate 26 0 }], produced := 1, read := 1 }; let m : Mod := (((s.m.runTo stamp).modOwner r.owner fun y => { y with rxDeficit := d }).modOwner r.owner fun y => { y with rxRing := x.ring }).setSpl (fun u => { u with delivered := tput u.delivered e r.owner }); s.m.heads e = [(k, x)] ∧ s.m.recvRing x.ring = some r ∧ spoolDrr (tgetD s.m.spl.delivered e 0) [⟨r.owner, x.pkt.bytes.length, (s.m.owner r.owner).rxDeficit, s.m.quantum r.owner⟩] = some (r.owner, [(r.owner, d)]) ∧ m = (((s.m.runTo stamp).modOwner r.owner fun y => { y with rxDeficit := d }).modOwner r.owner fun y => { y with rxRing := x.ring }).setSpl (fun u => { u with delivered := tput u.delivered e r.owner }) ∧ s.m.fateOf x = .deliver [{ at_ := 0, units := 1, raw := [0, 0, 0, 0] ++ leBytes 2 2048 ++ List.replicate 26 0 }]) ∧
  (let s : State := st ((({ up31 with spl := { rings := [(65545, { owner := 4127, log2 := 6, addr := 4096, record := 64 })] } }) : Mod).putEgq (egKey 7 99 3) [{ id := 1, pkt := { bytes := List.replicate 60 0 }, ring := 9, present := 1 }]); let e : Fin 32 := 31; let stamp : Nat := 9; let k : Nat := ((s.m.heads 31).headD (0, { id := 1, pkt := { bytes := List.replicate 60 0 }, ring := 9, present := 1 })).1; let d : Nat := (((spoolDrr (tgetD s.m.spl.delivered e 0) [⟨4127, 60, (s.m.owner 4127).rxDeficit, s.m.quantum 4127⟩]).map (fun p => (p.2.headD (0, 0)).2)).getD 0); let x : EgEntry := { id := 1, pkt := { bytes := List.replicate 60 0 }, ring := 9, present := 1 }; let r : Ring := { owner := 4127, log2 := 6, addr := 4096, record := 64 }; let m : Mod := (((s.m.runTo stamp).modOwner r.owner fun y => { y with rxDeficit := d }).modOwner r.owner fun y => { y with rxRing := x.ring }).setSpl (fun u => { u with delivered := tput u.delivered e r.owner }); s.m.heads e = [(k, x)] ∧ s.m.recvRing x.ring = some r ∧ spoolDrr (tgetD s.m.spl.delivered e 0) [⟨r.owner, x.pkt.bytes.length, (s.m.owner r.owner).rxDeficit, s.m.quantum r.owner⟩] = some (r.owner, [(r.owner, d)]) ∧ m = (((s.m.runTo stamp).modOwner r.owner fun y => { y with rxDeficit := d }).modOwner r.owner fun y => { y with rxRing := x.ring }).setSpl (fun u => { u with delivered := tput u.delivered e r.owner }) ∧ s.m.fateOf x = .noBuf) ∧
  (let m : Mod := { up31 with spl := { rings := [(65545, { owner := 4127, log2 := 6, addr := 4096, record := 64, entries := [{ at_ := 0, units := 1, raw := [0, 0, 0, 0] ++ leBytes 2 2048 ++ List.replicate 26 0 }], produced := 1, read := 1 })] } }; let p : Nat := 95; let j : Nat := 7; let x : EgEntry := { id := 1, pkt := { bytes := List.replicate 60 0, origin := .port 95 7 }, ring := 9, present := 1 }; let r : Ring := { owner := 4127, log2 := 6, addr := 4096, record := 64, entries := [{ at_ := 0, units := 1, raw := [0, 0, 0, 0] ++ leBytes 2 2048 ++ List.replicate 26 0 }], produced := 1, read := 1 }; let b : RingEntry := { at_ := 0, units := 1, raw := [0, 0, 0, 0] ++ leBytes 2 2048 ++ List.replicate 26 0 }; let y : RingEntry := { at_ := 0, units := 1, raw := [0, 0, 0, 0] ++ leBytes 2 2048 ++ List.replicate 26 0 }; m.recvRing x.ring = some r ∧ x.pkt.origin = .port p j ∧ y ∈ r.entries ∧ y.at_ = b.at_) ∧
  (let m : Mod := { up31 with spl := { rings := [(65545, { owner := 4127, log2 := 6, addr := 4096, record := 64, entries := [{ at_ := 0, units := 1, raw := [0, 0, 0, 0] ++ leBytes 2 2048 ++ List.replicate 26 0 }], produced := 1, read := 1 }), (131072, { owner := 4127, log2 := 6, addr := 4096, record := 64, attr := 0 })] } }; let x : EgEntry := { id := 1, pkt := { bytes := List.replicate 60 0 }, ring := 9, present := 1 }; let r : Ring := { owner := 4127, log2 := 6, addr := 4096, record := 64, entries := [{ at_ := 0, units := 1, raw := [0, 0, 0, 0] ++ leBytes 2 2048 ++ List.replicate 26 0 }], produced := 1, read := 1 }; let cr : Ring := { owner := 4127, log2 := 6, addr := 4096, record := 64, attr := 0 }; let bufs : List RingEntry := [{ at_ := 0, units := 1, raw := [0, 0, 0, 0] ++ leBytes 2 2048 ++ List.replicate 26 0 }]; x.hbm = false ∧ x.pkt.cells ≤ x.present ∧ m.recvRing x.ring = some r ∧ m.frozen (m.ringFn r) = false ∧ m.issues (m.ringFn r) = true ∧ r.state = 1 ∧ takeBufs x.pkt.bytes.length r.unused = some bufs ∧ m.ring (ringKey 2 r.peer) = some cr ∧ cr.takes = true ∧ cr.room 1 (m.reserved (ringKey 2 r.peer)) = true) ∧
  (let m : Mod := { up31 with spl := { rings := [(65545, { owner := 4127, log2 := 6, addr := 4096, record := 64, entries := [{ at_ := 0, units := 1, raw := [0, 0, 0, 0] ++ leBytes 2 2048 ++ List.replicate 26 0 }], produced := 1, read := 1 }), (131072, { owner := 4127, log2 := 6, addr := 4096, record := 64, produced := 64 })] } }; let x : EgEntry := { id := 1, pkt := { bytes := List.replicate 60 0 }, ring := 9, present := 1 }; let r : Ring := { owner := 4127, log2 := 6, addr := 4096, record := 64, entries := [{ at_ := 0, units := 1, raw := [0, 0, 0, 0] ++ leBytes 2 2048 ++ List.replicate 26 0 }], produced := 1, read := 1 }; let cr : Ring := { owner := 4127, log2 := 6, addr := 4096, record := 64, produced := 64 }; let bufs : List RingEntry := [{ at_ := 0, units := 1, raw := [0, 0, 0, 0] ++ leBytes 2 2048 ++ List.replicate 26 0 }]; x.hbm = false ∧ x.pkt.cells ≤ x.present ∧ m.recvRing x.ring = some r ∧ m.frozen (m.ringFn r) = false ∧ m.issues (m.ringFn r) = true ∧ r.state = 1 ∧ takeBufs x.pkt.bytes.length r.unused = some bufs ∧ m.ring (ringKey 2 r.peer) = some cr ∧ cr.room 1 (m.reserved (ringKey 2 r.peer)) = false) ∧
  (let m : Mod := { up31 with spl := { rings := [(65545, { owner := 4127, log2 := 6, addr := 4096, record := 64 })] } }; let x : EgEntry := { id := 1, pkt := { bytes := List.replicate 60 0 }, ring := 9, present := 1 }; let r : Ring := { owner := 4127, log2 := 6, addr := 4096, record := 64 }; x.hbm = false ∧ x.pkt.cells ≤ x.present ∧ m.recvRing x.ring = some r ∧ m.frozen (m.ringFn r) = false ∧ m.issues (m.ringFn r) = true ∧ r.state = 1 ∧ takeBufs x.pkt.bytes.length r.unused = none) ∧
  (let len : Nat := 60; let es : List RingEntry := [{ at_ := 0, units := 1, raw := [0, 0, 0, 0] ++ leBytes 2 2048 ++ List.replicate 26 0 }]; let bs : List RingEntry := [{ at_ := 0, units := 1, raw := [0, 0, 0, 0] ++ leBytes 2 2048 ++ List.replicate 26 0 }]; takeBufs len es = some bs) ∧
  (let s : State := rd; let n : Fin 65536 := 65535; Quiet s ∧ s.m.recvRing n = none) ∧
  (let s : State := st ((({ up31 with spl := { rings := [(65545, { owner := 4127, log2 := 6, addr := 4096, record := 64, attr := 1 })] } }) : Mod).putEgq (egKey 7 99 3) [{ id := 1, pkt := { bytes := List.replicate 60 0 }, ring := 9, present := 1 }]); let n : Fin 65536 := 9; let r : Ring := { owner := 4127, log2 := 6, addr := 4096, record := 64, attr := 1 }; let k : Nat := ((s.m.heads 31).headD (0, { id := 1, pkt := { bytes := List.replicate 60 0 }, ring := 9, present := 1 })).1; let x : EgEntry := { id := 1, pkt := { bytes := List.replicate 60 0 }, ring := 9, present := 1 }; s.m.recvRing n = some r ∧ (s.m.heads (s.m.ownerEp r.owner)).find? (fun (x : Nat × EgEntry) => decide (x.2.ring = n.val)) = some (k, x) ∧ r.attr = 1 ∧ (s.m.fateOf x = .hold ∨ s.m.fateOf x = .cqFull)) := by
  repeat refine ⟨by (try simp only [Quiet, wheelIdle_iff, mayRun_iff]) <;> decide +kernel, ?_⟩
  all_goals (try simp only [Quiet, wheelIdle_iff, mayRun_iff]) <;> decide +kernel

theorem witness_RingCommands :
  (let s : State := st { ({ rs (upF 0) with sel := { cfg := [(fnKey (pf 0), { vfEnable := true, numVfs := 1024 })] } } : Mod) with spl := { rings := [(131072, { owner := 4096, log2 := 6, addr := 4096, record := 64 })] } }; let c : Cmd := cmd 0x0201 [(0x100, [0, 6, 63, 7] ++ leBytes 2 0 ++ leBytes 2 0 ++ leBytes 8 4096 ++ leBytes 8 64 ++ List.replicate 8 0)]; let o : Nat := 4096; let n : Nat := 0; let v : List Byte := [0, 6, 63, 7] ++ leBytes 2 0 ++ leBytes 2 0 ++ leBytes 8 4096 ++ leBytes 8 64 ++ List.replicate 8 0; Quiet s ∧ mayRun s.m c 0x0201 (s.m.ownerObjs c) ∧ s.m.cmdOwner c = some o ∧ c.val 0x100 = v ∧ s.m.ringBad o v = false ∧ s.m.peerOk o v = true ∧ s.m.mayTake o (leAt v 0 1) = true ∧ s.m.ringNumber (leAt v 0 1) = some n) ∧
  (let s : State := st { ({ rs (upF 0) with sel := { cfg := [(fnKey (pf 0), { vfEnable := true, numVfs := 1024 })] } } : Mod) with spl := { rings := [(131072, { owner := 4096, log2 := 6, addr := 4096, record := 64 })] } }; let c : Cmd := cmd 0x0201 [(0x100, [0, 5, 63, 7] ++ List.replicate 28 0)]; let o : Nat := 4096; let v : List Byte := [0, 5, 63, 7] ++ List.replicate 28 0; Quiet s ∧ mayRun s.m c 0x0201 (s.m.ownerObjs c) ∧ s.m.cmdOwner c = some o ∧ c.val 0x100 = v ∧ s.m.ringBad o v = true) ∧
  (let s : State := st { ({ rs (upF 0) with sel := { cfg := [(fnKey (pf 0), { vfEnable := true, numVfs := 1024 })] } } : Mod) with spl := { rings := [] } }; let c : Cmd := cmd 0x0201 [(0x100, [0, 6, 63, 7] ++ leBytes 2 0 ++ leBytes 2 0 ++ leBytes 8 4096 ++ leBytes 8 64 ++ List.replicate 8 0)]; let o : Nat := 4096; let v : List Byte := [0, 6, 63, 7] ++ leBytes 2 0 ++ leBytes 2 0 ++ leBytes 8 4096 ++ leBytes 8 64 ++ List.replicate 8 0; Quiet s ∧ mayRun s.m c 0x0201 (s.m.ownerObjs c) ∧ s.m.cmdOwner c = some o ∧ c.val 0x100 = v ∧ s.m.ringBad o v = false ∧ s.m.peerOk o v = false) ∧
  (let s : State := st (rs [(F.CUT_CFG_MANAGER_MID, [], 0x3003)]); let c : Cmd := { cmd 0x0201 with src := .oob 3, mid := 0x3003 }; Quiet s ∧ s.m.cmdCheck (asOp c 0x0201) = none ∧ s.m.cmdOwner c = none) ∧
  (let m : Mod := (st { ({ rs (upF 0) with sel := { cfg := [(fnKey (pf 0), { vfEnable := true, numVfs := 1024 })] } } : Mod) with spl := { rings := [(9, { owner := 4096, log2 := 6, addr := 4096, record := 64 })] } }).m; let kind : Nat := 0; let n : Nat := 0; m.ringNumber kind = some n) ∧
  (let s : State := rd; let c : Cmd := cmd 0x0202 [(0x100, [0, 0, 9, 0])]; Quiet s ∧ s.m.target (asOp c 0x0202) = none ∧ s.m.cmdCheck (asOp c 0x0202) = none) ∧
  (let s : State := st { ({ rs (upF 0) with sel := { cfg := [(fnKey (pf 0), { vfEnable := true, numVfs := 1024 })] } } : Mod) with spl := { rings := [(9, { owner := 4096, log2 := 6, addr := 4096, record := 64 })] } }; let c : Cmd := cmd 0x0202 [(0x100, [0, 0, 9, 0])]; let k : Nat := 9; let r : Ring := { owner := 4096, log2 := 6, addr := 4096, record := 64 }; mayRun s.m c 0x0202 [targetObj c] ∧ s.m.target (asOp c 0x0202) = some (k, r) ∧ k / 65536 ≠ 2 ∧ r.state ≠ 3 ∧ r.state ≠ 5) ∧
  (let s : State := st { ({ rs (upF 0) with sel := { cfg := [(fnKey (pf 0), { vfEnable := true, numVfs := 1024 })] } } : Mod) with spl := { rings := [(131072, { owner := 4096, log2 := 6, addr := 4096, record := 64 }), (9, { owner := 4096, log2 := 6, addr := 4096, record := 64 })] } }; let c : Cmd := cmd 0x0202 [(0x100, [2, 0, 0, 0])]; let k : Nat := 131072; let r : Ring := { owner := 4096, log2 := 6, addr := 4096, record := 64 }; Quiet s ∧ mayRun s.m c 0x0202 [targetObj c] ∧ s.m.target (asOp c 0x0202) = some (k, r) ∧ k / 65536 = 2 ∧ (∃ x ∈ s.m.spl.rings, x.1 / 65536 ≠ 2 ∧ x.2.peer = k % 65536)) ∧
  (let s : State := st { ({ rs (upF 0) with sel := { cfg := [(fnKey (pf 0), { vfEnable := true, numVfs := 1024 })] } } : Mod) with spl := { rings := [(131072, { owner := 4096, log2 := 6, addr := 4096, record := 64, state := 3 })] } }; let c : Cmd := cmd 0x0202 [(0x100, [2, 0, 0, 0])]; let k : Nat := 131072; let r : Ring := { owner := 4096, log2 := 6, addr := 4096, record := 64, state := 3 }; Quiet s ∧ mayRun s.m c 0x0202 [targetObj c] ∧ s.m.target (asOp c 0x0202) = some (k, r) ∧ k / 65536 = 2 ∧ (∀ x ∈ s.m.spl.rings, x.1 / 65536 = 2 ∨ x.2.peer ≠ k % 65536) ∧ r.state = 3) ∧
  (let n : Nat := 65535; n < 65536) ∧
  (let s : State := st { ({ rs (upF 0) with sel := { cfg := [(fnKey (pf 0), { vfEnable := true, numVfs := 1024 })] } } : Mod) with spl := { rings := [(9, { owner := 4096, log2 := 6, addr := 4096, record := 64 })] } }; let kind : Fin 4 := 0; let n : Fin 65536 := 9; let r : Ring := { owner := 4096, log2 := 6, addr := 4096, record := 64 }; Quiet s ∧ s.m.ring (ringKey kind n) = some r ∧ (r.state ≠ 5 ∨ s.m.ringDrained (ringKey kind n) r = false)) ∧
  (let s : State := st { ({ rs (upF 0) with sel := { cfg := [(fnKey (pf 0), { vfEnable := true, numVfs := 1024 })] } } : Mod) with spl := { rings := [(9, { owner := 4096, log2 := 6, addr := 4096, record := 64, state := 5, destroy := some (cmd 0x0202) })] } }; let kind : Fin 4 := 0; let n : Fin 65536 := 9; let r : Ring := { owner := 4096, log2 := 6, addr := 4096, record := 64, state := 5, destroy := some (cmd 0x0202) }; let c : Cmd := cmd 0x0202; s.m.ring (ringKey kind n) = some r ∧ r.state = 5 ∧ s.m.ringDrained (ringKey kind n) r = true ∧ r.destroy = some c) ∧
  (let s : State := st { ({ rs (upF 0) with sel := { cfg := [(fnKey (pf 0), { vfEnable := true, numVfs := 1024 })] } } : Mod) with spl := { rings := [(9, { owner := 4096, log2 := 6, addr := 4096, record := 64 })] } }; let c : Cmd := cmd 0x0203 [(0x100, [0, 0, 9, 0]), (0x102, [1, 63] ++ List.replicate 22 0)]; let n : Nat := 9; let g : Nat := 63; let r : Ring := { owner := 4096, log2 := 6, addr := 4096, record := 64 }; Quiet s ∧ mayRun s.m c 0x0203 [targetObj c] ∧ s.m.target c = some (n, r) ∧ n < 65536 ∧ leAt (c.val 0x102) 0 1 = 1 ∧ leAt (c.val 0x102) 1 1 = g ∧ g ≤ 63) ∧
  (let s : State := st { ({ rs (upF 0) with sel := { cfg := [(fnKey (pf 0), { vfEnable := true, numVfs := 1024 })] } } : Mod) with spl := { rings := [(9, { owner := 4096, log2 := 6, addr := 4096, record := 64 })] } }; let c : Cmd := cmd 0x0203 [(0x100, [0, 0, 9, 0]), (0x102, [1, 64] ++ List.replicate 22 0)]; let n : Nat := 9; let g : Nat := 64; let r : Ring := { owner := 4096, log2 := 6, addr := 4096, record := 64 }; Quiet s ∧ mayRun s.m c 0x0203 [targetObj c] ∧ s.m.target c = some (n, r) ∧ n < 65536 ∧ leAt (c.val 0x102) 0 1 = 1 ∧ leAt (c.val 0x102) 1 1 = g ∧ 63 < g) ∧
  (let s : State := st { ({ rs (upF 0) with sel := { cfg := [(fnKey (pf 0), { vfEnable := true, numVfs := 1024 })] } } : Mod) with spl := { rings := [(9, { owner := 4096, log2 := 6, addr := 4096, record := 64 })] } }; let c : Cmd := cmd 0x0203 [(0x100, [0, 0, 9, 0]), (0x102, [16, 0, 0, 0, 0, 0, 0, 0, 16, 0, 0, 0, 0, 0, 0, 0] ++ leBytes 8 8192)]; let k : Nat := 9; let r : Ring := { owner := 4096, log2 := 6, addr := 4096, record := 64 }; Quiet s ∧ mayRun s.m c 0x0203 [targetObj c] ∧ s.m.target c = some (k, r) ∧ leAt (c.val 0x102) 0 1 = 16 ∧ 6 ≤ leAt (c.val 0x102) 8 1 ∧ leAt (c.val 0x102) 8 1 ≤ 16 ∧ leAt (c.val 0x102) 16 8 % min (32 * 2 ^ leAt (c.val 0x102) 8 1) 4096 = 0 ∧ r.entries = [] ∧ r.produced = r.consumed ∧ r.read = r.consumed) ∧
  (let s : State := st { ({ rs (upF 0) with sel := { cfg := [(fnKey (pf 0), { vfEnable := true, numVfs := 1024 })] } } : Mod) with spl := { rings := [(9, { owner := 4096, log2 := 6, addr := 4096, record := 64, produced := 1 })] } }; let c : Cmd := cmd 0x0203 [(0x100, [0, 0, 9, 0]), (0x102, [16, 0, 0, 0, 0, 0, 0, 0, 16, 0, 0, 0, 0, 0, 0, 0] ++ leBytes 8 8192)]; let k : Nat := 9; let r : Ring := { owner := 4096, log2 := 6, addr := 4096, record := 64, produced := 1 }; Quiet s ∧ mayRun s.m c 0x0203 [targetObj c] ∧ s.m.target c = some (k, r) ∧ leAt (c.val 0x102) 0 1 = 16 ∧ 6 ≤ leAt (c.val 0x102) 8 1 ∧ leAt (c.val 0x102) 8 1 ≤ 16 ∧ leAt (c.val 0x102) 16 8 % min (32 * 2 ^ leAt (c.val 0x102) 8 1) 4096 = 0 ∧ r.produced ≠ r.consumed) ∧
  (let s : State := st { ({ rs (upF 0) with sel := { cfg := [(fnKey (pf 0), { vfEnable := true, numVfs := 1024 })] } } : Mod) with spl := { rings := [(9, { owner := 4096, log2 := 6, addr := 4096, record := 64 })] } }; let c : Cmd := cmd 0x0204 [(0x100, [0, 0, 9, 0])]; let k : Nat := 9; let r : Ring := { owner := 4096, log2 := 6, addr := 4096, record := 64 }; Quiet s ∧ mayRun s.m c 0x0204 ∧ s.m.target c = some (k, r)) ∧
  (let s : State := rd; let c : Cmd := cmd 0x0204 [(0x100, [0, 0, 9, 0])]; Quiet s ∧ mayRun s.m c 0x0204 ∧ s.m.target c = none) ∧
  (let s : State := st { ({ rs (upF 0) with sel := { cfg := [(fnKey (pf 0), { vfEnable := true, numVfs := 1024 })] } } : Mod) with spl := { rings := [] } }; let c : Cmd := cmd 0x0205 [(0x100, leBytes 8 0 ++ leBytes 4 0 ++ leBytes 4 0)]; let o : Nat := 4096; let v : List Byte := leBytes 8 0 ++ leBytes 4 0 ++ leBytes 4 0; Quiet s ∧ mayRun s.m c 0x0205 (s.m.ownerObjs c) ∧ s.m.cmdOwner c = some o ∧ c.val 0x100 = v ∧ (o < 4096 ∧ s.m.isStorage o = false ∨ 4096 ≤ o) ∧ bit (leAt v 12 4) 0 = false) ∧
  (let s : State := st { ({ rs (upF 0) with sel := { cfg := [(fnKey (pf 0), { vfEnable := true, numVfs := 1024 })] } } : Mod) with spl := { rings := [] } }; let c : Cmd := cmd 0x0205 [(0x100, leBytes 8 64 ++ leBytes 4 0 ++ leBytes 4 1)]; let o : Nat := 4096; let v : List Byte := leBytes 8 64 ++ leBytes 4 0 ++ leBytes 4 1; Quiet s ∧ mayRun s.m c 0x0205 (s.m.ownerObjs c) ∧ s.m.cmdOwner c = some o ∧ c.val 0x100 = v ∧ (o < 4096 ∧ s.m.isStorage o = false ∨ 4096 ≤ o) ∧ bit (leAt v 12 4) 0 = true ∧ leAt v 0 8 % 64 = 0 ∧ s.m.pasidOk (s.m.ownerEp o) (leAt v 8 4) = true) ∧
  (let s : State := st { ({ rs (upF 0) with sel := { cfg := [(fnKey (pf 0), { vfEnable := true, numVfs := 1024 })] } } : Mod) with spl := { rings := [] } }; let c : Cmd := cmd 0x0205 [(0x100, leBytes 8 65 ++ leBytes 4 0 ++ leBytes 4 1)]; let o : Nat := 4096; let v : List Byte := leBytes 8 65 ++ leBytes 4 0 ++ leBytes 4 1; Quiet s ∧ mayRun s.m c 0x0205 (s.m.ownerObjs c) ∧ s.m.cmdOwner c = some o ∧ c.val 0x100 = v ∧ (o < 4096 ∧ s.m.isStorage o = false ∨ 4096 ≤ o) ∧ bit (leAt v 12 4) 0 = true ∧ leAt v 0 8 % 64 ≠ 0) ∧
  (let s : State := st { ({ rs (upF 0) with sel := { cfg := [(fnKey (pf 0), { vfEnable := true, numVfs := 1024 })] } } : Mod) with spl := { rings := [] } }; let c : Cmd := cmd 0x0206 [(0x100, [14, 0, 0, 0])]; let o : Nat := 4096; let k : Nat := 14; Quiet s ∧ mayRun s.m c 0x0206 (s.m.ownerObjs c) ∧ s.m.cmdOwner c = some o ∧ leAt (c.val 0x100) 0 1 = k ∧ k ≤ 14) ∧
  (let s : State := st { ({ rs (upF 0) with sel := { cfg := [(fnKey (pf 0), { vfEnable := true, numVfs := 1024 })] } } : Mod) with spl := { rings := [] } }; let c : Cmd := cmd 0x0206 [(0x100, [15, 0, 0, 0])]; let o : Nat := 4096; let k : Nat := 15; Quiet s ∧ mayRun s.m c 0x0206 (s.m.ownerObjs c) ∧ s.m.cmdOwner c = some o ∧ leAt (c.val 0x100) 0 1 = k ∧ 14 < k) := by
  repeat refine ⟨by (try simp only [Quiet, wheelIdle_iff, mayRun_iff]) <;> decide +kernel, ?_⟩
  all_goals (try simp only [Quiet, wheelIdle_iff, mayRun_iff]) <;> decide +kernel

theorem witness_HostRequests_12 :
  (let s : State := rd; let i : Fin 4096 := 4095; ((∀ k r, (k, r) ∈ s.m.sel.reads → r.why ≠ .boot i)) ∧ Quiet s) :=
  ⟨(fun k r h => nomatch h), by (try simp only [Quiet, wheelIdle_iff, mayRun_iff]) <;> decide +kernel⟩

theorem witness_HostRequests :
  (let s : State := rd; let f : Fn := ⟨31, none⟩; Quiet s ∧ s.m.linkUp f.ep = false) ∧
  (let s : State := st (up31.set F.GLB_START_PHASE [] 4); let f : Fn := ⟨31, none⟩; Quiet s ∧ s.m.linkUp f.ep = true ∧ s.m.phase < 5) ∧
  (let s : State := st up31; let f : Fn := ⟨31, some 1024⟩; Quiet s ∧ s.m.linkUp f.ep = true ∧ 5 ≤ s.m.phase ∧ s.m.fnExists f = false) ∧
  (let s : State := st up31; let f : Fn := ⟨31, some 1023⟩; s.m.linkUp f.ep = true ∧ s.m.phase = 5 ∧ s.m.fnExists f = true) ∧
  (let m : Mod := rm; m.phase = 5) ∧
  (let s : State := rd; let f : Fn := ⟨31, some 1023⟩; Quiet s ∧ s.m.fnExists f = false) ∧
  (let s : State := st up31; let f : Fn := ⟨31, some 1023⟩; Quiet s ∧ s.m.fnExists f = true) ∧
  (let m : Mod := { up31 with msix := [(fnKey (pf 31), { enable := true, vecs := [(7, { mask := false })] })] }; let f : Fn := (pf 31); let v : Nat := 7; let x : Msix := { enable := true, vecs := [(7, { mask := false })] }; tgetD m.msix (fnKey f) {} = x ∧ m.frozen f = false ∧ x.enable = true ∧ x.fmask = false ∧ (tgetD x.vecs v {}).mask = false) ∧
  (let m : Mod := { up31 with msix := [(fnKey (pf 31), { enable := false })] }; let f : Fn := (pf 31); let x : Msix := { enable := false }; tgetD m.msix (fnKey f) {} = x ∧ m.frozen f = false ∧ x.enable = false) ∧
  (let m : Mod := sets up31 [(F.SEL_FREEZE_EP_STATE, epIx 31, 1)]; let f : Fn := (pf 31); m.frozen f = true) ∧
  (let s : State := rd; let e : Fin 32 := 31; let t : Fin 16384 := 16383; Quiet s ∧ tget s.m.sel.tags (e.val * 16384 + t.val) = none) ∧
  (let s : State := st { up31 with sel := { reads := [(5, { fn := pf 31, why := .boot 4095, addr := 4096, len := 64, left := 1, stale := false })], tags := [(31 * 16384 + 16383, { read := 5, off := 0, len := 64 })] } }; let e : Fin 32 := 31; let t : Fin 16384 := 16383; let p : Piece := { read := 5, off := 0, len := 64 }; let r : HostRead := { fn := pf 31, why := .boot 4095, addr := 4096, len := 64, left := 1, stale := false }; let bs : List Byte := List.replicate 63 1; let stamp : Nat := 9; let m : Mod := (s.m.runTo stamp).dataStamp p.read r stamp; r.stale = false ∧ r.gone = false ∧ tget s.m.sel.tags (e.val * 16384 + t.val) = some p ∧ tget s.m.sel.reads p.read = some r ∧ m = (s.m.runTo stamp).dataStamp p.read r stamp ∧ p.got.length + bs.length < p.len) ∧
  (let s : State := st { up31 with sel := { reads := [(5, { fn := pf 31, why := .boot 4095, addr := 4096, len := 64, left := 1, stale := false })], tags := [(31 * 16384 + 16383, { read := 5, off := 0, len := 64 })] } }; let e : Fin 32 := 31; let t : Fin 16384 := 16383; let p : Piece := { read := 5, off := 0, len := 64 }; let r : HostRead := { fn := pf 31, why := .boot 4095, addr := 4096, len := 64, left := 1, stale := false }; let bs : List Byte := List.replicate 64 1; let stamp : Nat := 9; let m : Mod := (s.m.runTo stamp).dataStamp p.read r stamp; r.stale = false ∧ r.gone = false ∧ tget s.m.sel.tags (e.val * 16384 + t.val) = some p ∧ tget s.m.sel.reads p.read = some r ∧ m = (s.m.runTo stamp).dataStamp p.read r stamp ∧ p.len ≤ p.got.length + bs.length ∧ (tget (m.endTag e t).sel.reads p.read).map (fun r => (r.stale, r.gone, r.left)) = some (false, false, 1)) ∧
  (let s : State := st { up31 with sel := { reads := [(5, { fn := pf 31, why := .boot 4095, addr := 4096, len := 64, left := 2, stale := false })], tags := [(31 * 16384 + 16383, { read := 5, off := 0, len := 64 })] } }; let e : Fin 32 := 31; let t : Fin 16384 := 16383; let p : Piece := { read := 5, off := 0, len := 64 }; let r : HostRead := { fn := pf 31, why := .boot 4095, addr := 4096, len := 64, left := 2, stale := false }; let bs : List Byte := List.replicate 64 1; let stamp : Nat := 9; let m : Mod := (s.m.runTo stamp).dataStamp p.read r stamp; r.stale = false ∧ r.gone = false ∧ tget s.m.sel.tags (e.val * 16384 + t.val) = some p ∧ tget s.m.sel.reads p.read = some r ∧ m = (s.m.runTo stamp).dataStamp p.read r stamp ∧ p.len ≤ p.got.length + bs.length ∧ (tget (m.endTag e t).sel.reads p.read).map (fun r => (r.stale, r.gone, r.left)) = some (false, false, 2)) ∧
  (let s : State := st { up31 with sel := { reads := [(5, { fn := pf 31, why := .boot 4095, addr := 4096, len := 64, left := 1, stale := false })], tags := [(31 * 16384 + 16383, { read := 5, off := 0, len := 64 })] } }; let e : Fin 32 := 31; let t : Fin 16384 := 16383; let p : Piece := { read := 5, off := 0, len := 64 }; let r : HostRead := { fn := pf 31, why := .boot 4095, addr := 4096, len := 64, left := 1, stale := false }; let stamp : Nat := 9; let m : Mod := (s.m.runTo stamp).endTag e t; r.stale = false ∧ r.gone = false ∧ tget s.m.sel.tags (e.val * 16384 + t.val) = some p ∧ m = (s.m.runTo stamp).endTag e t ∧ tget m.sel.reads p.read = some r) ∧
  (let s : State := st { up31 with sel := { reads := [(5, { fn := pf 31, why := .boot 4095, addr := 4096, len := 64, left := 1, stale := false })], tags := [(31 * 16384 + 16383, { read := 5, off := 0, len := 64 })] } }; let e : Fin 32 := 31; let t : Fin 16384 := 16383; let p : Piece := { read := 5, off := 0, len := 64 }; let r : HostRead := { fn := pf 31, why := .boot 4095, addr := 4096, len := 64, left := 1, stale := false }; let m : Mod := (({ up31 with sel := { reads := [(5, { fn := pf 31, why := .boot 4095, addr := 4096, len := 64, left := 1, stale := false })], tags := [(31 * 16384 + 16383, { read := 5, off := 0, len := 64 })] } }).runTo (0 + up31.cplTimeout 31)).endTag 31 16383; r.stale = false ∧ r.gone = false ∧ tget s.m.sel.tags (e.val * 16384 + t.val) = some p ∧ m = (s.m.runTo (p.at_ + s.m.cplTimeout e)).endTag e t ∧ tget m.sel.reads p.read = some r) ∧
  (let s : State := st { up31 with sel := { reads := [(5, { fn := pf 31, why := .boot 4095, addr := 4096, len := 64, left := 1, stale := true })], tags := [(31 * 16384 + 16383, { read := 5, off := 0, len := 64 })] } }; let e : Fin 32 := 31; let t : Fin 16384 := 16383; let p : Piece := { read := 5, off := 0, len := 64 }; let r : HostRead := { fn := pf 31, why := .boot 4095, addr := 4096, len := 64, left := 1, stale := true }; let r' : HostRead := { fn := pf 31, why := .boot 4095, addr := 4096, len := 64, left := 1, stale := true }; let res : ReadResult := .urCa; let stamp : Nat := 9; r.stale = true ∧ r'.stale = true ∧ tget s.m.sel.tags (e.val * 16384 + t.val) = some p ∧ tget s.m.sel.reads p.read = some r ∧ p.short res = false ∧ tget ((s.m.runTo stamp).endTag e t).sel.reads p.read = some r') ∧
  (let s : State := st { up31 with sel := { reads := [(5, { fn := pf 31, why := .boot 4095, addr := 4096, len := 64, left := 1, stale := false })], tags := [(31 * 16384 + 16383, { read := 5, off := 0, len := 64 })] } }; let i : Fin 4096 := 4095; let e : Fin 32 := 31; let t : Fin 16384 := 16383; let p : Piece := { read := 5, off := 0, len := 64 }; let r : HostRead := { fn := pf 31, why := .boot 4095, addr := 4096, len := 64, left := 1, stale := false }; s.m.sel.tags = [(e.val * 16384 + t.val, p)] ∧ tget s.m.sel.reads p.read = some r ∧ r.why = .boot i) ∧
  (let s : State := st up31; let f : Fn := (pf 31); let c : Fin 16 := 7; Quiet s ∧ (s.m.linkUp f.ep = false ∨ c.val < 2 ∨ (6 < c.val ∧ c.val ≠ 10))) ∧
  (let s : State := st up31; let f : Fn := (pf 31); let c : Fin 16 := 6; s.m.linkUp f.ep = true ∧ 2 ≤ c.val ∧ c.val ≤ 6) ∧
  (let s : State := st up31; let f : Fn := (pf 31); let c : Fin 16 := 10; s.m.linkUp f.ep = true ∧ c.val = 10 ∧ s.m.fnExists f = true) ∧
  (let m : Mod := up31; let e : Nat := 31; let c : Nat := 15; e < 32 ∧ c < 16 ∧ m.frzState e none = 0 ∧ (∀ x ∈ m.cut.pool, x.stage = .executing)) ∧
  (let m : Mod := sets up31 [(F.SEL_FREEZE_EP_STATE, epIx 31, 1)]; let e : Nat := 31; let f : Option Fn := none; (m.frzState e f = 1 ∨ m.frzState e f = 3)) ∧
  (let s : State := rd; let f : Fn := (pf 31); Quiet s ∧ (s.m.fnExists f = false ∨ s.m.linkUp f.ep = false)) ∧
  (let s : State := st up31; let f : Fn := (pf 31); let lo : Nat := 0; let hi : Nat := 4095; Quiet s ∧ s.m.fnExists f = true ∧ s.m.linkUp f.ep = true ∧ s.m.sel.ats = [] ∧ (∀ r ∈ s.m.sel.reads, r.2.uses f lo hi = false)) ∧
  (let s : State := rd; let e : Fin 32 := 31; Quiet s ∧ (s.m.present e = false ∨ s.m.linkUp e = false ∨ s.m.phase ≠ 5)) ∧
  (let s : State := st { up31 with sel := { sessions := [] } }; let e : Fin 32 := 31; Quiet s ∧ s.m.present e = true ∧ s.m.linkUp e = true ∧ s.m.phase = 5 ∧ tget s.m.sel.sessions e.val = none) ∧
  (let s : State := st { up31 with sel := { sessions := [(31, 1)] } }; let e : Fin 32 := 31; Quiet s ∧ s.m.present e = true ∧ s.m.linkUp e = true ∧ s.m.phase = 5 ∧ (tget s.m.sel.sessions e.val).isSome = true) := by
  repeat refine ⟨by (try simp only [Quiet, wheelIdle_iff, mayRun_iff]) <;> decide +kernel, ?_⟩
  all_goals (try simp only [Quiet, wheelIdle_iff, mayRun_iff]) <;> decide +kernel

theorem witness_HostResets :
  (let s : State := st { rs [(F.SEL_EP_STATUS_PRESENT, epIx 31, 1)] with perst := [31], sel := { split := [15] } }; let e : Fin 32 := 31; Quiet s ∧ e.val ∈ s.m.perst) ∧
  (let s : State := rd; let e : Fin 32 := 31; e.val ∉ s.m.perst) ∧
  (let m : Mod := rm.set F.GLB_START_PHASE [] 3; m.phase < 4) ∧
  (let e : Nat := 31; e < 32) ∧
  (let s : State := rd; let e : Fin 32 := 31; Quiet s ∧ s.m.linkUp e = false) ∧
  (let s : State := st (up31); let e : Fin 32 := 31; s.m.linkUp e = true ∧ s.m.frzState e none ≠ 2) ∧
  (let s : State := st (sets up31 [(F.SEL_FREEZE_EP_STATE, epIx 31, 2)]); let e : Fin 32 := 31; s.m.linkUp e = true ∧ s.m.frzState e none = 2) ∧
  (let s : State := rd; let e : Fin 32 := 31; Quiet s ∧ s.m.present e = false) ∧
  (let s : State := st { rs [(F.SEL_EP_STATUS_PRESENT, epIx 31, 1)] with perst := [31], sel := { split := [15] } }; let e : Fin 32 := 31; let rate : Fin 3 := 1; let width : Fin 17 := 8; Quiet s ∧ s.m.present e = true ∧ e.val ∈ s.m.perst ∧ (width.val = 8 ∨ (width.val = 16 ∧ e.val / 2 ∉ s.m.sel.split)) ∧ s.m.phase = 5 ∧ rate.val ≤ s.m.get F.SEL_LINK_CFG_MAX_RATE ((epIx e).take 2)) ∧
  (let s : State := rd; let f : Fn := ⟨31, some 1023⟩; s.m.fnExists f = false) ∧
  (let s : State := st up31; let f : Fn := ⟨31, some 1023⟩; s.m.fnExists f = true) ∧
  (let s : State := rd; let e : Fin 32 := 31; (s.m.fnCfg (pf e)).vfEnable = false) ∧
  (let s : State := st up31; let e : Fin 32 := 31; (s.m.fnCfg (pf e)).vfEnable = true) ∧
  (let s : State := rd; let f : Fn := ⟨31, some 1023⟩; (s.m.fnCfg f).d3 = false) ∧
  (let s : State := st { up31 with sel := { cfg := [(fnKey ⟨31, some 1023⟩, { d3 := true })] } }; let f : Fn := ⟨31, some 1023⟩; (s.m.fnCfg f).d3 = true ∧ f.vf.isSome = true) ∧
  (let s : State := st { up31 with sel := { cfg := [(fnKey (pf 31), { d3 := true })] } }; let f : Fn := (pf 31); (s.m.fnCfg f).d3 = true ∧ f.vf = none) ∧
  (let s : State := rd; let f : Fn := ⟨31, some 1023⟩; Quiet s ∧ f ∉ s.m.sel.inReset) ∧
  (let s : State := st { up31 with sel := { inReset := [pf 31] } }; let f : Fn := (pf 31); Quiet s ∧ f ∈ s.m.sel.inReset ∧ f.vf = none) ∧
  (let s : State := st { inst31 4095 4 with sel := { inReset := [⟨31, some 1023⟩] } }; let f : Fn := ⟨31, some 1023⟩; let v : Nat := 1023; let i : Nat := 4095; f ∈ s.m.sel.inReset ∧ f.vf = some v ∧ s.m.instOf f = some i ∧ s.m.instState i = 4 ∧ (s.m.inst i).resetCmd = none) ∧
  (let s : State := st (sets up31 [(F.SEL_FREEZE_EP_STATE, epIx 31, 1), (F.SEL_FREEZE_EP_CAUSE, epIx 31, 1)]); let c : Cmd := cmd 0x000C [(0x100, [31, 0, 255, 255, 1, 0, 0, 0])]; let e : Nat := 31; leAt (c.val 0x100) 0 1 = e ∧ e < 32 ∧ leAt (c.val 0x100) 2 2 = 0xFFFF ∧ (c.tlv 0x100).isSome = true ∧ s.m.frzState e none = 1 ∧ s.m.linkUp e = true ∧ mayRun s.m c 0x000C ∧ leAt (c.val 0x100) 4 1 = 1) ∧
  (let s : State := st (sets up31 [(F.SEL_FREEZE_EP_STATE, epIx 31, 1), (F.SEL_FREEZE_EP_CAUSE, epIx 31, 2)]); let c : Cmd := cmd 0x000C [(0x100, [31, 0, 255, 255, 0, 0, 0, 0])]; let e : Nat := 31; leAt (c.val 0x100) 0 1 = e ∧ e < 32 ∧ leAt (c.val 0x100) 2 2 = 0xFFFF ∧ (c.tlv 0x100).isSome = true ∧ s.m.frzState e none = 1 ∧ s.m.linkUp e = true ∧ mayRun s.m c 0x000C ∧ leAt (c.val 0x100) 4 1 = 0 ∧ s.m.frzCause e none ≠ 1) ∧
  (let s : State := rd; let c : Cmd := cmd 0x000C [(0x100, [31, 0, 255, 255, 0, 0, 0, 0])]; let e : Nat := 31; Quiet s ∧ leAt (c.val 0x100) 0 1 = e ∧ e < 32 ∧ leAt (c.val 0x100) 2 2 = 0xFFFF ∧ (c.tlv 0x100).isSome = true ∧ s.m.frzState e none ≠ 1 ∧ s.m.frzState e (some (pf e)) ≠ 1 ∧ mayRun s.m c 0x000C ∧ leAt (c.val 0x100) 4 1 = 0) ∧
  (let s : State := rd; let c : Cmd := cmd 0x000C [(0x100, [31, 0, 255, 255, 1, 0, 0, 0])]; let e : Nat := 31; Quiet s ∧ leAt (c.val 0x100) 0 1 = e ∧ e < 32 ∧ leAt (c.val 0x100) 2 2 = 0xFFFF ∧ (c.tlv 0x100).isSome = true ∧ s.m.frzState e none ≠ 1 ∧ s.m.frzState e (some (pf e)) ≠ 1 ∧ mayRun s.m c 0x000C ∧ leAt (c.val 0x100) 4 1 = 1) ∧
  (let s : State := rd; let e : Fin 32 := 31; Quiet s ∧ (∀ r ∈ s.m.sel.releases, r.ep ≠ e)) ∧
  (let s : State := st { up31 with sel := { releases := [{ cmd := cmd 0x000C, ep := 31, fn := none, resume := true }] } }; let e : Fin 32 := 31; let r : Release := { cmd := cmd 0x000C, ep := 31, fn := none, resume := true }; let rs : List Release := []; let m1 : Mod := Mod.thawRings (Mod.frzPut (s.m.setSel fun x => { x with releases := rs }) e r.fn 0 0) e r.fn; s.m.sel.releases = r :: rs ∧ r.ep = e ∧ r.again = none ∧ m1 = Mod.thawRings (Mod.frzPut (s.m.setSel fun x => { x with releases := rs }) e r.fn 0 0) e r.fn) := by
  repeat refine ⟨by (try simp only [Quiet, wheelIdle_iff, mayRun_iff]) <;> decide +kernel, ?_⟩
  all_goals (try simp only [Quiet, wheelIdle_iff, mayRun_iff]) <;> decide +kernel

theorem witness_Instances :
  (let s : State := st up31; let c : Cmd := cmd 0x0101 [(0x100, [255, 255, 31, 0] ++ leBytes 2 1023 ++ [64, 0] ++ List.replicate 8 0)]; let v : List Byte := [255, 255, 31, 0] ++ leBytes 2 1023 ++ [64, 0] ++ List.replicate 8 0; let i : Nat := 0; Quiet s ∧ mayRun s.m c 0x0101 [.inst i] ∧ c.val 0x100 = v ∧ s.m.newInst v = some i ∧ c.inst = 0xFFFF ∧ leAt v 2 1 ≤ 31 ∧ s.m.present (leAt v 2 1) = true ∧ leAt v 0 2 = 0xFFFF ∧ leAt v 4 2 ≤ 1023 ∧ s.m.instOf ⟨leAt v 2 1, some (leAt v 4 2)⟩ = none ∧ leAt v 6 1 ≠ 0 ∧ leAt v 6 1 ≤ 64 ∧ leAt v 3 1 = 0 ∧ c.tlv 0x101 = none ∧ s.m.vectorsTaken + leAt v 6 1 ≤ 65536) ∧
  (let m : Mod := inst31 0 1; let v : List Byte := [255, 255, 31, 0] ++ leBytes 2 1023 ++ [64, 0] ++ List.replicate 8 0; let i : Nat := 1; m.newInst v = some i ∧ leAt v 0 2 = 0xFFFF) ∧
  (let i : Nat := 4095; let v : List Byte := [0, 0, 31, 7] ++ leBytes 2 1023 ++ List.replicate 10 0; i < 4096 ∧ leAt v 2 1 < 32 ∧ leAt v 4 2 < 1024 ∧ leAt v 3 1 < 8) ∧
  (let s : State := rd; let c : Cmd := cmd 0x0101 [(0x100, [255, 255, 31, 0] ++ leBytes 2 1023 ++ [64, 0] ++ List.replicate 8 0)]; let v : List Byte := [255, 255, 31, 0] ++ leBytes 2 1023 ++ [64, 0] ++ List.replicate 8 0; Quiet s ∧ c.val 0x100 = v ∧ s.m.cmdCheck (asOp c 0x0101) = none ∧ c.inst = 0xFFFF ∧ (31 < leAt v 2 1 ∨ s.m.present (leAt v 2 1) = false)) ∧
  (let s : State := st up31; let c : Cmd := cmd 0x0101 [(0x100, [255, 255, 31, 0] ++ leBytes 2 1024 ++ [64, 0] ++ List.replicate 8 0)]; let v : List Byte := [255, 255, 31, 0] ++ leBytes 2 1024 ++ [64, 0] ++ List.replicate 8 0; Quiet s ∧ c.val 0x100 = v ∧ s.m.cmdCheck (asOp c 0x0101) = none ∧ c.inst = 0xFFFF ∧ leAt v 2 1 ≤ 31 ∧ s.m.present (leAt v 2 1) = true ∧ 1023 < leAt v 4 2) ∧
  (let s : State := st (inst31 4095 1 []); let c : Cmd := icmd 0x0102 4095; mayRun s.m c 0x0102 [.inst c.inst] ∧ c.inst < 4096 ∧ s.m.instExists c.inst = true ∧ s.m.ownsAny c.inst = false ∧ c.mid / 4096 = 1) ∧
  (let s : State := st (inst31 4095 1 [(F.TCK_HIST_CFG_OWNER_VALID, [255], 1), (F.TCK_HIST_CFG_OWNER, [255], 4095)]); let c : Cmd := icmd 0x0102 4095; Quiet s ∧ mayRun s.m c 0x0102 [.inst c.inst] ∧ s.m.instExists c.inst = true ∧ s.m.ownsAny c.inst = true) ∧
  (let s : State := st (inst31 4095 1 []); let c : Cmd := icmd 0x0103 4095 [(0x101, List.replicate 22 0 ++ [0, 0])]; let q : Quota := (s.m.inst c.inst).quota.masked (quotaOf (c.val 0x101)) (leAt (c.val 0x101) 22 2); mayRun s.m c 0x0103 [.inst c.inst] ∧ s.m.instExists c.inst = true ∧ s.m.fixedShare c.inst = false ∧ q = (s.m.inst c.inst).quota.masked (quotaOf (c.val 0x101)) (leAt (c.val 0x101) 22 2) ∧ q.ok = true) ∧
  (let s : State := st (inst31 4095 1 []); let c : Cmd := icmd 0x0103 4095 [(0x101, List.replicate 22 0 ++ [64, 0])]; let q : Quota := (s.m.inst c.inst).quota.masked (quotaOf (c.val 0x101)) (leAt (c.val 0x101) 22 2); mayRun s.m c 0x0103 [.inst c.inst] ∧ s.m.instExists c.inst = true ∧ s.m.fixedShare c.inst = false ∧ q = (s.m.inst c.inst).quota.masked (quotaOf (c.val 0x101)) (leAt (c.val 0x101) 22 2) ∧ q.ok = false) ∧
  (let s : State := st (inst31 4095 1 []); let c : Cmd := icmd 0x0104 4095; mayRun s.m c 0x0104 [.inst c.inst] ∧ s.m.instExists c.inst = true ∧ (s.m.vfReset (s.m.instFn c.inst)).isManager c.mid = true ∧ driverOf c.mid = none) ∧
  (let s : State := st (inst31 4095 1 []); let c : Cmd := icmd 0x0105 4095; let i : Nat := 4095; Quiet s ∧ mayRun s.m c 0x0105 [.inst c.inst] ∧ c.inst = i ∧ s.m.instExists i = true) ∧
  (let s : State := st (inst31 4095 1 []); let c : Cmd := icmd 0x0106 4095; Quiet s ∧ mayRun s.m c 0x0106 [.inst c.inst] ∧ s.m.instState c.inst = 1) ∧
  (let s : State := st (inst31 4095 3 []); let c : Cmd := icmd 0x0106 4095; Quiet s ∧ s.m.cmdCheck (asOp c 0x0106) = none ∧ s.m.instState c.inst ≠ 1) ∧
  (let m : Mod := (st { up31 with spl := { rings := [(9, { owner := 4095, log2 := 6, addr := 4096, record := 64 })] } }).m; let i : Nat := 4095; let k : Nat := 9; let r : Ring := { owner := 4095, log2 := 6, addr := 4096, record := 64 }; m.ring k = some r ∧ r.owner = i ∧ r.state = 1) ∧
  (let s : State := st (inst31 4095 1 []); let i : Fin 4096 := 4095; Quiet s ∧ (s.m.instState i ≠ 2 ∨ s.m.instDrained i = false)) ∧
  (let s : State := st { inst31 4095 2 with spl := { insts := [(4095, { freeze := some (cmd 0x0106) })] } }; let i : Fin 4096 := 4095; let c : Cmd := cmd 0x0106; Quiet s ∧ s.m.instState i = 2 ∧ s.m.instDrained i = true ∧ (s.m.inst i).freeze = some c) ∧
  (let s : State := st (inst31 4095 1 []); let c : Cmd := icmd 0x0107 4095; Quiet s ∧ mayRun s.m c 0x0107 [.inst c.inst] ∧ s.m.instState c.inst ≠ 3) ∧
  (let s : State := st (inst31 4095 3 []); let c : Cmd := icmd 0x0107 4095; Quiet s ∧ mayRun s.m c 0x0107 [.inst c.inst] ∧ s.m.instState c.inst = 3) ∧
  (let s : State := st (inst31 4095 1 []); let c : Cmd := { icmd 0x0108 4095 [(0x100, [5, 0, 0, 0, 0, 0, 0, 0]), (1, List.replicate 16 0)] with tag := 1 }; let bs : List Byte := []; let a : Ans := badHeader 1; Quiet s ∧ mayRun s.m c 0x0108 [.inst c.inst] ∧ s.m.instExists c.inst = true ∧ leAt (c.val 0x100) 0 1 ≠ s.m.chalk.dir.module ∧ c.buffer.isSome = true ∧ s.m.restoreFault c c.inst bs (imageMap bs) = some a) ∧
  (let s : State := st (inst31 4095 1 []); let c : Cmd := icmd 0x0109 4095; Quiet s ∧ s.m.cmdCheck (asOp c 0x0109) = none ∧ s.m.instState c.inst ≠ 3) ∧
  (let s : State := st (inst31 4095 3 []); let c : Cmd := icmd 0x0109 4095; Quiet s ∧ mayRun s.m c 0x0109 [.inst c.inst] ∧ s.m.instState c.inst = 3 ∧ c.inst < 4096 ∧ s.m.isStorage c.inst = false ∧ s.m.ringsOf c.inst = []) ∧
  (let s : State := st (inst31 4095 1 [(F.INST_BOOT_GO, [4095], 1)]); let i : Fin 4096 := 4095; Quiet s ∧ s.m.flag F.INST_BOOT_GO [i.val] = true) ∧
  (let s : State := st (inst31 4095 1 []); let i : Fin 4096 := 4095; s.m.flag F.INST_BOOT_GO [i.val] = false ∧ s.m.instExists i = true ∧ s.m.instState i = 1 ∧ s.m.isStorage i = false ∧ s.m.issues (s.m.instFn i) = true) ∧
  (let i : Nat := 4095; i < 4096) := by
  repeat refine ⟨by (try simp only [Quiet, wheelIdle_iff, mayRun_iff]) <;> decide +kernel, ?_⟩
  all_goals (try simp only [Quiet, wheelIdle_iff, mayRun_iff]) <;> decide +kernel

theorem witness_JexdorLinks :
  (let s : State := st (rs [(F.JXL_LINK_STATUS_STATE, [31], 1)]); let l : Fin 32 := 31; Quiet s ∧ s.m.linkState l < 2) ∧
  (let s : State := st (rs [(F.JXL_LINK_STATUS_STATE, [31], 2)]); let l : Fin 32 := 31; Quiet s ∧ 2 ≤ s.m.linkState l) ∧
  (let s : State := st (rs [(F.JXL_LINK_STATUS_STATE, [31], 4)]); let l : Fin 32 := 31; Quiet s ∧ s.m.linkState l ≠ 3) ∧
  (let s : State := st (rs [(F.JXL_LINK_STATUS_STATE, [31], 3)]); let l : Fin 32 := 31; Quiet s ∧ s.m.linkState l = 3 ∧ (s.m.linkOf l).acks = []) ∧
  (let s : State := st (rs [(F.JXL_LINK_STATUS_STATE, [31], 3)]); let l : Fin 32 := 31; s.m.linkState l = 3) ∧
  (let s : State := st { rm with chalk := { dir := { role := 1 } } }; s.m.chalk.dir.role = 1) ∧
  (let s : State := rd; Quiet s ∧ s.m.chalk.dir.role ≠ 1) ∧
  (let s : State := rd; let l : Fin 32 := 31; let d : List Byte := []; Quiet s ∧ s.m.jxlGood l d 8 = false) ∧
  (let s : State := rd; let l : Fin 32 := 31; let d : List Byte := []; Quiet s ∧ s.m.jxlGood l d 0 = false) ∧
  (let s : State := st (rs [(F.JXL_LINK_STATUS_STATE, [31], 3), (F.JXL_LINK_CFG_ENABLE, [31], 1)]); let l : Fin 32 := 31; let d : List Byte := List.replicate 12 0 ++ beBytes 2 jxlEther ++ [16 + 8, 0] ++ List.replicate 300 0; let m0 : Mod := s.m.count F.JXL_CNT_COUNT [l.val, 1]; m0 = s.m.count F.JXL_CNT_COUNT [l.val, 1] ∧ s.m.jxlGood l d 8 = true) ∧
  (let s : State := st (rs [(F.JXL_LINK_STATUS_STATE, [31], 3), (F.JXL_LINK_CFG_ENABLE, [31], 1)]); let l : Fin 32 := 31; let d : List Byte := List.replicate 12 0 ++ beBytes 2 jxlEther ++ [16 + 9, 0] ++ List.replicate 300 0; let m0 : Mod := s.m.count F.JXL_CNT_COUNT [l.val, 1]; m0 = s.m.count F.JXL_CNT_COUNT [l.val, 1] ∧ s.m.jxlGood l d 9 = true) ∧
  (let s : State := st (rs [(F.JXL_LINK_STATUS_STATE, [31], 3), (F.JXL_LINK_CFG_ENABLE, [31], 1)]); let l : Fin 32 := 31; let d : List Byte := List.replicate 12 0 ++ beBytes 2 jxlEther ++ [16 + 0, 0] ++ List.replicate 300 0; let m0 : Mod := s.m.count F.JXL_CNT_COUNT [l.val, 1]; m0 = s.m.count F.JXL_CNT_COUNT [l.val, 1] ∧ s.m.jxlGood l d 0 = true) ∧
  (let m : Mod := rs [(F.JXL_LINK_STATUS_STATE, [31], 3)]; let l : Nat := 31; let c : Nat := 7; l < 32 ∧ c < 8 ∧ m.linkState l = 3) ∧
  (let m : Mod := rs [(F.JXL_LINK_STATUS_STATE, [31], 3)]; let l : Nat := 31; let d : List Byte := List.replicate 30 0 ++ [1] ++ List.replicate 300 0; m.linkState l = 3 ∧ byteAt d 30 = 1) ∧
  (let m : Mod := rs [(F.JXL_LINK_STATUS_STATE, [31], 3)]; let l : Nat := 31; let d : List Byte := List.replicate 30 0 ++ [0] ++ List.replicate 300 0; m.linkState l = 3 ∧ byteAt d 30 = 0) ∧
  (let m : Mod := { (rs [(F.JXL_LINK_STATUS_STATE, [31], 2)]) with jxl := { links := [(31, { agree := 2 })] } }; let l : Nat := 31; let d : List Byte := List.replicate 300 0; l < 32 ∧ m.linkState l = 2 ∧ (m.linkOf l).agree = 2 ∧ m.chalk.dir.systemId = wireAt d 50 4 ∧ m.jxl.slots = [] ∧ ((∀ c, c < 8 → wireAt d (54 + 4 * c) 4 = 0))) ∧
  (let m : Mod := { (rs [(F.JXL_LINK_STATUS_STATE, [31], 2)]) with chalk := { dir := { systemId := 5 } } }; let l : Nat := 31; let d : List Byte := List.replicate 53 0 ++ [6] ++ List.replicate 300 0; l < 32 ∧ m.linkState l = 2 ∧ m.chalk.dir.systemId ≠ 0 ∧ wireAt d 50 4 ≠ 0 ∧ m.chalk.dir.systemId ≠ wireAt d 50 4) ∧
  (let m : Mod := rs [(F.JXL_LINK_STATUS_STATE, [31], 4)]; let l : Nat := 31; m.linkState l ≠ 3) ∧
  (let m : Mod := rs [(F.JXL_LINK_STATUS_STATE, [31], 3)]; let l : Nat := 31; let d : List Byte := List.replicate 300 0; m.linkState l = 3 ∧ bit (byteAt d 15) 6 = false ∧ bit (byteAt d 15) 5 = false) ∧
  (let m : Mod := rm; let h : HeldCmd := { link := 31, cls := 5, cells := 1, session := 0, origin := 5, bytes := List.replicate 63 0 }; m.jxl.held = [] ∧ m.jxlRoom h.origin = true) ∧
  (let m : Mod := { rm with jxl := { held := [{ link := 31, cls := 5, cells := 1, session := 0, origin := 5, bytes := List.replicate 63 0 }] } }; m.jxl.held ≠ []) ∧
  (let m : Mod := { rm with cut := { pool := List.replicate 1024 { cmd := { cmd 0x0001 with src := .jexdor 5 } } } }; 1024 ≤ m.poolCount) ∧
  (let d : List Byte := List.replicate 300 0; byteAt d 18 = 0) ∧
  (let m : Mod := { rm with fit := { seenSeqs := [0] } }; let p : List Byte := List.replicate 8 0; wireAt p 0 4 ∈ m.fit.seenSeqs) ∧
  (let s : State := st (rs [(F.JXL_LINK_STATUS_STATE, [31], 2)]); let l : Fin 32 := 31; Quiet s ∧ s.m.linkState l ≠ 3) ∧
  (let s : State := st (rs [(F.JXL_LINK_STATUS_STATE, [31], 3)]); let l : Fin 32 := 31; let t : Nat := 1000000000000; s.m.linkState l = 3 ∧ (s.m.linkOf l).helloAt + 4000 * s.m.get F.JXL_CFG_HELLO_US ≤ (s.m.runToNs t).ns) ∧
  (let m : Mod := rs [(F.JXL_LINK_STATUS_STATE, [31], 3)]; let l : Nat := 31; let st : Nat := 7; l < 32 ∧ st < 8 ∧ m.linkState l = 3 ∧ st ≠ 3 ∧ m.jxl.slots = []) := by
  repeat refine ⟨by (try simp only [Quiet, wheelIdle_iff, mayRun_iff]) <;> decide +kernel, ?_⟩
  all_goals (try simp only [Quiet, wheelIdle_iff, mayRun_iff]) <;> decide +kernel

theorem witness_JexdorSystem_13 :
  (let s : State := rd; let c : Cmd := cmd 0x0702 [(0x100, serial ++ leBytes 1 0 ++ [0, 0, 0])]; let v : List Byte := [0, 0, 0]; c.val 0x100 = serial ++ leBytes 1 0 ++ v ∧ (∀ o, c.src ≠ .jexdor o) ∧ Quiet s ∧ mayRun s.m c 0x0702 [.system] ∧ s.m.chalk.dir.role = 0 ∧ serial.length = 16) :=
  ⟨rfl, (by intro o h; cases h), by (try simp only [Quiet, wheelIdle_iff, mayRun_iff]) <;> decide +kernel⟩

theorem witness_JexdorSystem_14 :
  (let s : State := rd; let c : Cmd := { cmd 0x0702 [(0x100, serial ++ leBytes 1 63 ++ [0, 0, 0])] with src := .jexdor 5, mid := 0x4005 }; let o : Nat := 5; let n : Nat := 63; let v : List Byte := [0, 0, 0]; c.val 0x100 = serial ++ leBytes 1 n ++ v ∧ Quiet s ∧ c.src = .jexdor o ∧ s.m.isDead (asOp c 0x0702) = false ∧ v.length = 3 ∧ 0 < n ∧ n < 64 ∧ s.m.chalk.dir.role = 0 ∧ serial.length = 16) :=
  ⟨rfl, by (try simp only [Quiet, wheelIdle_iff, mayRun_iff]) <;> decide +kernel⟩

theorem witness_JexdorSystem_15 :
  (let s : State := st { rm with chalk := { dir := { role := 1, members := 2 ^ 63 + 1 } } }; let c : Cmd := cmd 0x0702 [(0x100, List.replicate 16 1 ++ [63, 0, 0, 0])]; (∀ o, c.src ≠ .jexdor o) ∧ Quiet s ∧ mayRun s.m c 0x0702 [.system] ∧ leAt (c.val 0x100) 16 1 < 64 ∧ s.m.chalk.dir.role = 1 ∧ bit s.m.chalk.dir.members (leAt (c.val 0x100) 16 1) = true) :=
  ⟨(by intro o h; cases h), by (try simp only [Quiet, wheelIdle_iff, mayRun_iff]) <;> decide +kernel⟩

theorem witness_JexdorSystem :
  (let s : State := rd; Quiet s ∧ (s.m.isMember = false ∨ s.m.flag F.JXL_SYS_ANCHOR_SEEN = false)) ∧
  (let s : State := st { (rs [(F.JXL_SYS_ANCHOR_SEEN, [], 1)]) with chalk := { dir := { role := 2, module := 63, systemId := 5 } } }; let t : Nat := 1000000000000000; s.m.isMember = true ∧ s.m.flag F.JXL_SYS_ANCHOR_SEEN = true ∧ s.m.jxl.beaconAt + s.m.get F.CUT_CFG_LEASE_MS * 1000000 ≤ (s.m.runToNs t).ns) ∧
  (let s : State := rd; Quiet s ∧ (s.m.isMember = false ∨ s.m.get F.JXL_CFG_ORPHAN_S = 0)) ∧
  (let s : State := st { (rs [(F.JXL_CFG_ORPHAN_S, [], 1)]) with chalk := { dir := { role := 2, module := 63, systemId := 5 } } }; let t : Nat := 1000000000; s.m.isMember = true ∧ s.m.get F.JXL_CFG_ORPHAN_S ≠ 0 ∧ s.m.jxl.beaconAt + s.m.get F.JXL_CFG_ORPHAN_S * 1000000000 ≤ (s.m.runToNs t).ns) ∧
  (let s : State := rd; Quiet s ∧ s.m.chalk.dir.role = 0) ∧
  (let s : State := st { rm with chalk := { dir := { role := 1 } } }; s.m.chalk.dir.role ≠ 0) ∧
  (let m : Mod := { rm with jxl := { fwd := [{ cmd := cmd 0x0704, target := 5, at_ := 0 }] } }; let d : Nat := 5; let f : Fwd := { cmd := cmd 0x0704, target := 5, at_ := 0 }; (m.die (0x4000 + d)).jxl.fwd = [f] ∧ f.target = d) ∧
  (let topo : List TopoRec := [{ mod := 0, link := 31, peer := 63, peerLink := 0 }]; let me : Nat := 0; let d : Nat := 63; let l : Nat := 31; let h : Nat := 1; routeOf topo me d = some (l, h)) ∧
  (let s : State := rd; let i : Nat := 5; Quiet s ∧ s.m.jxl.fwd[i]? = none) ∧
  (let s : State := st { rm with jxl := { fwd := [{ cmd := cmd 0x0704, target := 5, at_ := 0 }] } }; let i : Nat := 0; let t : Nat := 1000000000000000; let f : Fwd := { cmd := cmd 0x0704, target := 5, at_ := 0 }; Quiet s ∧ s.m.jxl.fwd[i]? = some f ∧ f.at_ + s.m.get F.JXL_CFG_FWD_TIMEOUT_MS * 1000000 ≤ (s.m.runToNs t).ns) ∧
  (let s : State := st (rs [(F.PRT_CFG_PFC_EN, [0], 1)]); let c : Cmd := cmd 0x0701 [(0x100, [32, 0, 0, 0] ++ leBytes 8 (0))]; let p : Nat := 1; let v : List Byte := [32, 0, 0, 0] ++ leBytes 8 (0); mayRun s.m c 0x0701 [.link (leAt v 0 1)] ∧ c.all 0x100 = [(p, v)] ∧ c.all 0x101 = [] ∧ Quiet s ∧ linkOk v = false) ∧
  (let s : State := st (rs [(F.PRT_CFG_PFC_EN, [0], 1)]); let c : Cmd := cmd 0x0701 [(0x100, [31, 0, 0, 0] ++ leBytes 8 (1))]; let p : Nat := 1; let v : List Byte := [31, 0, 0, 0] ++ leBytes 8 (1); mayRun s.m c 0x0701 [.link (leAt v 0 1)] ∧ c.all 0x100 = [(p, v)] ∧ c.all 0x101 = [] ∧ Quiet s ∧ linkOk v = true ∧ s.m.linkFits (leAt v 4 8) = false) ∧
  (let s : State := st (rs [(F.PRT_CFG_PFC_EN, [0], 1)]); let c : Cmd := cmd 0x0701 [(0x100, [31, 0, 0, 0] ++ leBytes 8 (2 * 95))]; let p : Nat := 1; let v : List Byte := [31, 0, 0, 0] ++ leBytes 8 (2 * 95); mayRun s.m c 0x0701 [.link (leAt v 0 1)] ∧ c.all 0x100 = [(p, v)] ∧ c.all 0x101 = [] ∧ linkOk v = true ∧ s.m.linkFits (leAt v 4 8) = true ∧ (s.m.linkSet (leAt v 0 1) (leAt v 4 8)).linksClash = false ∧ (∀ sl, sl < 8 → (s.m.linkSet (leAt v 0 1) (leAt v 4 8)).pleatFits sl = true)) ∧
  (let s : State := st { rm with chalk := { dir := { role := 2, module := 63, systemId := 5 } } }; let c : Cmd := { cmd 0x0703 [(0x100, [63, 0, 0, 0])] with src := .jexdor 0, mid := 0x4000 }; let n : Nat := 63; mayRun s.m c 0x0703 [.system] ∧ leAt (c.val 0x100) 0 1 = n ∧ n < 64 ∧ s.m.chalk.dir.role = 2 ∧ n = s.m.chalk.dir.module) ∧
  (let s : State := st { rm with chalk := { dir := { role := 2, module := 63, systemId := 5 } } }; let c : Cmd := { cmd 0x0703 [(0x100, [5, 0, 0, 0])] with src := .jexdor 0, mid := 0x4000 }; let n : Nat := 5; mayRun s.m c 0x0703 [.system] ∧ leAt (c.val 0x100) 0 1 = n ∧ n < 64 ∧ s.m.chalk.dir.role = 2 ∧ n ≠ s.m.chalk.dir.module) ∧
  (let s : State := st { rm with chalk := { dir := { role := 1, members := 3 } } }; let c : Cmd := cmd 0x0703 [(0x100, [0, 0, 0, 0])]; let n : Nat := 0; mayRun s.m c 0x0703 [.system] ∧ leAt (c.val 0x100) 0 1 = n ∧ n < 64 ∧ s.m.chalk.dir.role = 1 ∧ s.m.chalk.dir.members ≠ 1) ∧
  (let s : State := rd; let c : Cmd := cmd 0x0703 [(0x100, [0, 0, 0, 0])]; let n : Nat := 0; mayRun s.m c 0x0703 [.system] ∧ leAt (c.val 0x100) 0 1 = n ∧ n < 64 ∧ s.m.chalk.dir.role = 0) ∧
  (let s : State := rd; let c : Cmd := cmd 0x0704; Quiet s ∧ mayRun s.m c 0x0704 ∧ c.buffer = none ∧ s.m.jxl.topo = []) ∧
  (let s : State := st { rm with jxl := { topo := [{ mod := 0, link := 31, peer := 63, peerLink := 0 }] } }; let c : Cmd := cmd 0x0704; let r : TopoRec := { mod := 0, link := 31, peer := 63, peerLink := 0 }; Quiet s ∧ mayRun s.m c 0x0704 ∧ c.buffer = none ∧ s.m.jxl.topo = [r] ∧ r.state = 3 ∧ leAt (c.val 0x100) 0 4 = 0) ∧
  (let s : State := st (rs [(F.JXL_LINK_STATUS_STATE, [31], 3)]); let c : Cmd := cmd 0x0705 [(0x100, [31, 0, 0, 0])]; let l : Nat := 31; Quiet s ∧ mayRun s.m c 0x0705 [.link l] ∧ leAt (c.val 0x100) 0 1 = l ∧ l < 32 ∧ s.m.linkState l = 3) ∧
  (let s : State := rd; let c : Cmd := cmd 0x0705 [(0x100, [32, 0, 0, 0])]; Quiet s ∧ s.m.cmdCheck (asOp c 0x0705) = none ∧ 32 ≤ leAt (c.val 0x100) 0 1) ∧
  (let s : State := st (((rs [(F.JXL_LINK_STATUS_STATE, [31], 3)]).putHem (rm.get F.JXL_LINK_CFG_PORT [31]) { active := some { cycle := 100, length := 2, entries := [(0, 50 * 256 + 128), (1, 50 * 256 + 1)] } })); let c : Cmd := cmd 0x0706 [(0x100, [31, 6, 0, 0] ++ leBytes 4 64 ++ [0, 0, 0, 0])]; let p : Nat := 1; let l : Nat := 31; let k : Nat := 6; let v : List Byte := [31, 6, 0, 0] ++ leBytes 4 64 ++ [0, 0, 0, 0]; Quiet s ∧ mayRun s.m c 0x0706 [.link l] ∧ c.all 0x100 = [(p, v)] ∧ slotOk v = true ∧ leAt v 0 1 = l ∧ leAt v 1 1 = k ∧ k ≠ 7 ∧ (s.m.hemOf (s.m.get F.JXL_LINK_CFG_PORT [l])).active.isSome = true ∧ leAt v 2 1 = 0) ∧
  (let s : State := st (((rs [(F.JXL_LINK_STATUS_STATE, [31], 3)]).putHem (rm.get F.JXL_LINK_CFG_PORT [31]) { active := some { cycle := 100, length := 2, entries := [(0, 50 * 256 + 128), (1, 50 * 256 + 1)] } })); let c : Cmd := cmd 0x0706 [(0x100, [31, 6, 1, 0] ++ leBytes 4 64 ++ [0, 0, 0, 0])]; let p : Nat := 1; let l : Nat := 31; let k : Nat := 6; let v : List Byte := [31, 6, 1, 0] ++ leBytes 4 64 ++ [0, 0, 0, 0]; Quiet s ∧ mayRun s.m c 0x0706 [.link l] ∧ c.all 0x100 = [(p, v)] ∧ slotOk v = true ∧ leAt v 0 1 = l ∧ leAt v 1 1 = k ∧ k ≠ 7 ∧ (s.m.hemOf (s.m.get F.JXL_LINK_CFG_PORT [l])).active.isSome = true ∧ leAt v 2 1 = 1) ∧
  (let s : State := rd; let c : Cmd := cmd 0x0706 [(0x100, [32, 0, 0, 0] ++ List.replicate 8 0)]; let p : Nat := 1; let v : List Byte := [32, 0, 0, 0] ++ List.replicate 8 0; Quiet s ∧ mayRun s.m c 0x0706 [.link (leAt v 0 1)] ∧ c.all 0x100 = [(p, v)] ∧ slotOk v = false) ∧
  (let s : State := rd; let c : Cmd := cmd 0x0706 [(0x100, [31, 7, 0, 0] ++ List.replicate 8 0)]; let p : Nat := 1; let v : List Byte := [31, 7, 0, 0] ++ List.replicate 8 0; Quiet s ∧ mayRun s.m c 0x0706 [.link (leAt v 0 1)] ∧ c.all 0x100 = [(p, v)] ∧ slotOk v = true ∧ leAt v 1 1 = 7) := by
  repeat refine ⟨by (try simp only [Quiet, wheelIdle_iff, mayRun_iff]) <;> decide +kernel, ?_⟩
  all_goals (try simp only [Quiet, wheelIdle_iff, mayRun_iff]) <;> decide +kernel

theorem witness_NvmeControllers_10 :
  (let s : State := rd; let e : Fin 32 := 31; (∀ i c m', s.m.pick e ≠ some (.nvme i c, m')) ∧ Quiet s) :=
  ⟨not_nvme (by decide +kernel), by (try simp only [Quiet, wheelIdle_iff, mayRun_iff]) <;> decide +kernel⟩

theorem witness_NvmeControllers :
  (let s : State := rd; let i : Fin 4096 := 4095; Quiet s ∧ (s.m.isStorage i = false ∨ s.m.issues (s.m.instFn i) = false)) ∧
  (let s : State := st (sto31 { aqa := 1 + 2 ^ 16 } []); let i : Fin 4096 := 4095; let v : BitVec 32 := 1 + 6 * 2 ^ 16 + 4 * 2 ^ 20; let c : Nvme := { aqa := 1 + 2 ^ 16 }; Quiet s ∧ s.m.isStorage i = true ∧ s.m.issues (s.m.instFn i) = true ∧ s.m.ctl i = c ∧ bit c.cc 0 = false ∧ bit v.toNat 0 = true ∧ s.m.instState i ≠ 4 ∧ bits v.toNat 4 3 = 0 ∧ bits v.toNat 7 4 = 0 ∧ bits v.toNat 11 3 = 0 ∧ bits v.toNat 16 4 = 6 ∧ bits v.toNat 20 4 = 4 ∧ 1 ≤ bits c.aqa 0 12 ∧ 1 ≤ bits c.aqa 16 12 ∧ c.asq % 4096 = 0 ∧ c.acq % 4096 = 0 ∧ s.m.mayTake i 0 = true ∧ s.m.mayTake i 2 = true) ∧
  (let s : State := st (sto31 { aqa := 1 + 2 ^ 16 } []); let i : Fin 4096 := 4095; let v : BitVec 32 := 1; let c : Nvme := { aqa := 1 + 2 ^ 16 }; Quiet s ∧ s.m.isStorage i = true ∧ s.m.issues (s.m.instFn i) = true ∧ s.m.ctl i = c ∧ bit c.cc 0 = false ∧ bit v.toNat 0 = true ∧ s.m.instState i ≠ 4 ∧ bits v.toNat 16 4 ≠ 6) ∧
  (let s : State := st (sto31 { cc := 1 } []); let i : Fin 4096 := 4095; let v : BitVec 32 := 0; s.m.isStorage i = true ∧ s.m.issues (s.m.instFn i) = true ∧ bit (s.m.ctl i).cc 0 = true ∧ bit v.toNat 0 = false) ∧
  (let s : State := st (sto31 {  } []); let i : Fin 4096 := 4095; let v : BitVec 32 := 2 ^ 15; let c : Nvme := {}; s.m.isStorage i = true ∧ s.m.issues (s.m.instFn i) = true ∧ s.m.ctl i = c ∧ bit c.cc 0 = bit v.toNat 0 ∧ (bits v.toNat 14 2 = 1 ∨ bits v.toNat 14 2 = 2) ∧ c.shst = 0) ∧
  (let s : State := st (sto31 { shst := 1 } []); let i : Fin 4096 := 4095; Quiet s ∧ (s.m.ctl i).shst = 1) ∧
  (let s : State := st (sto31 { shst := 2 } []); let i : Fin 4096 := 4095; Quiet s ∧ (s.m.ctl i).shst ≠ 1) ∧
  (let s : State := st (sto31 {  } []); let i : Fin 4096 := 4095; Quiet s ∧ s.m.isStorage i = true ∧ s.m.issues (s.m.instFn i) = true) ∧
  (let s : State := st (sto31 { rdy := true } []); let i : Fin 4096 := 4095; s.m.isStorage i = true ∧ s.m.issues (s.m.instFn i) = true ∧ (s.m.ctl i).rdy = true ∧ (s.m.ctl i).cfs = false ∧ (s.m.ctl i).shadow = none) ∧
  (let m : Mod := sto31 { sqs := [(64, { base := 0, size := 8, tail := 5, asked := 2 })] }; let i : Nat := 4095; let q : Nat := 64; let v : Nat := 8; let x : Sq := { base := 0, size := 8, tail := 5, asked := 2 }; tget (m.ctl i).sqs q = some x ∧ x.tail < x.size ∧ x.asked < x.size ∧ x.size ≤ v) ∧
  (let m : Mod := sto31 { sqs := [(64, { base := 0, size := 8, tail := 5, asked := 2 })] }; let i : Nat := 4095; let q : Nat := 64; let v : Nat := 3; let x : Sq := { base := 0, size := 8, tail := 5, asked := 2 }; tget (m.ctl i).sqs q = some x ∧ x.tail < x.size ∧ x.asked < x.size ∧ (v + x.size - x.asked) % x.size < (x.tail + x.size - x.asked) % x.size) ∧
  (let m : Mod := sto31 { sqs := [(64, { base := 0, size := 8, tail := 5, asked := 2 })] }; let i : Nat := 4095; let q : Nat := 64; let v : Nat := 1; let x : Sq := { base := 0, size := 8, tail := 5, asked := 2 }; tget (m.ctl i).sqs q = some x ∧ x.tail < x.size ∧ x.asked < x.size ∧ (x.tail + x.size - x.asked) % x.size ≤ (v + x.size - x.asked) % x.size) ∧
  (let m : Mod := sto31 { cqs := [(64, { base := 0, size := 8 })] }; let i : Nat := 4095; let q : Nat := 64; let v : Nat := 8; let x : Cq := { base := 0, size := 8 }; tget (m.ctl i).cqs q = some x ∧ x.size ≤ v) ∧
  (let s : State := st (sto31 { cmds := [{ sq := 1, raw := [0, 0, 7, 0] ++ List.replicate 60 0, at_ := 0 }] } []); let e : Fin 32 := 31; let i : Nat := 4095; let c : NvCmd := { sq := 1, raw := [0, 0, 7, 0] ++ List.replicate 60 0, at_ := 0 }; let m : Mod := ((s.m.pick 31).map (·.2)).getD s.m; s.m.pick e = some (.nvme i c, m) ∧ c.sq ≠ 0 ∧ c.op = 0) ∧
  (let s : State := st (sto31 { cmds := [{ sq := 1, raw := [2, 0, 7, 0] ++ List.replicate 60 0, at_ := 0 }] } []); let e : Fin 32 := 31; let i : Nat := 4095; let c : NvCmd := { sq := 1, raw := [2, 0, 7, 0] ++ List.replicate 60 0, at_ := 0 }; let m : Mod := ((s.m.pick 31).map (·.2)).getD s.m; s.m.pick e = some (.nvme i c, m) ∧ c.sq ≠ 0 ∧ c.op = 2) ∧
  (let s : State := st (sto31 { cmds := [{ sq := 1, raw := [9, 0, 7, 0] ++ List.replicate 60 0, at_ := 0 }] } []); let e : Fin 32 := 31; let i : Nat := 4095; let c : NvCmd := { sq := 1, raw := [9, 0, 7, 0] ++ List.replicate 60 0, at_ := 0 }; let m : Mod := ((s.m.pick 31).map (·.2)).getD s.m; s.m.pick e = some (.nvme i c, m) ∧ c.sq ≠ 0 ∧ c.op = 9) ∧
  (let s : State := st (sto31 { cmds := [{ sq := 0, raw := [1, 0, 7, 0] ++ List.replicate 60 0, at_ := 0 }] } []); let e : Fin 32 := 31; let i : Nat := 4095; let c : NvCmd := { sq := 0, raw := [1, 0, 7, 0] ++ List.replicate 60 0, at_ := 0 }; let m : Mod := ((s.m.pick 31).map (·.2)).getD s.m; s.m.pick e = some (.nvme i c, m) ∧ c.sq = 0 ∧ c.op = 1) ∧
  (let s : State := st (sto31 { cmds := [{ sq := 0, raw := [6, 0, 7, 0] ++ List.replicate 60 0, at_ := 0 }] } []); let e : Fin 32 := 31; let i : Nat := 4095; let c : NvCmd := { sq := 0, raw := [6, 0, 7, 0] ++ List.replicate 60 0, at_ := 0 }; let m : Mod := ((s.m.pick 31).map (·.2)).getD s.m; s.m.pick e = some (.nvme i c, m) ∧ c.sq = 0 ∧ c.op = 6) ∧
  (let s : State := st (sto31 { cmds := [{ sq := 0, raw := [12, 0, 7, 0] ++ List.replicate 60 0, at_ := 0 }] } []); let e : Fin 32 := 31; let i : Nat := 4095; let c : NvCmd := { sq := 0, raw := [12, 0, 7, 0] ++ List.replicate 60 0, at_ := 0 }; let m : Mod := ((s.m.pick 31).map (·.2)).getD s.m; s.m.pick e = some (.nvme i c, m) ∧ c.sq = 0 ∧ c.op = 12) ∧
  (let q : Nat := 1; let raw : List Byte := [5]; q ≠ 0 ∧ leAt raw 0 1 ∉ [0, 1, 2, 8, 9]) ∧
  (let m : Mod := { sto31 {} [(F.STO_NS_VALID, [7, 4095, 15], 1), (F.STO_NS_TARGET, [7, 4095, 15], 63), (F.STO_NS_READ_ONLY, [7, 4095, 15], 1), (F.STO_NS_REMOTE_NSID, [7, 4095, 15], 5)] with sto := { assocs := [(7 * 64 + 63, { ns := [(5, {})] })] } }; let i : Nat := 4095; let c : NvCmd := { sq := 1, raw := [1, 0, 7, 0, 16] ++ List.replicate 59 0, at_ := 0, map := some (63, true, 5) }; let t : Nat := 63; let r : Nat := 5; let ro : Bool := true; let x : NsInfo := {}; c.map = some (t, ro, r) ∧ m.nvInfo i c = some x ∧ x.plain = true ∧ (c.op = 1 ∨ c.op = 8 ∨ c.op = 9) ∧ ro = true) ∧
  (let m : Mod := rm; let i : Nat := 4095; let c : NvCmd := { sq := 1, raw := [1, 0, 7, 0] ++ List.replicate 60 0, at_ := 0 }; (c.map = none ∨ m.nvInfo i c = none)) ∧
  (let c : NvCmd := { sq := 0, raw := [1, 0, 7, 0] ++ List.replicate 60 0, at_ := 0 }; let b : Bool := true; (c.qid = 0 ∨ 64 < c.qid ∨ b = true)) ∧
  (let m : Mod := sto31 {}; let i : Nat := 4095; let c : NvCmd := { sq := 0, raw := overlay (overlay (List.replicate 64 0) 40 (leBytes 4 (64 + 4095 * 2 ^ 16))) 44 (leBytes 4 (1)), at_ := 0 }; let l : Nat := 64; let kind : Nat := 2; let b : Bool := false; m.createFault i c b l kind = none) ∧
  (let m : Mod := sto31 { cqs := [(64, { base := 0, size := 8 })], sqs := [(64, { base := 0, size := 8, cq := 64 })] }; let i : Nat := 4095; let c : NvCmd := { sq := 0, raw := overlay (List.replicate 64 0) 40 (leBytes 4 (64)), at_ := 0 }; c.qid ≠ 0 ∧ (tget (m.ctl i).cqs c.qid).isSome = true ∧ (∃ q ∈ (m.ctl i).sqs, q.2.cq = c.qid)) ∧
  (let m : Mod := sto31 {}; let i : Nat := 4095; let c : NvCmd := { sq := 0, raw := [8, 0, 7, 0] ++ List.replicate 60 0, at_ := 0 }; ((∀ d, m.nvCmd i (c.dw 10 % 65536) (c.dw 10 / 65536) = some d → d.sq = 0 ∨ d.order.isSome = true ∨ d.stage = .sent))) ∧
  (let m : Mod := sto31 { cmds := [{ sq := 1, raw := [1, 0, 7, 0] ++ List.replicate 60 0, at_ := 0 }] }; let i : Nat := 4095; let c : NvCmd := { sq := 0, raw := overlay (List.replicate 64 0) 40 (leBytes 4 (1 + 7 * 65536)), at_ := 0 }; let d : NvCmd := { sq := 1, raw := [1, 0, 7, 0] ++ List.replicate 60 0, at_ := 0 }; m.nvCmd i (c.dw 10 % 65536) (c.dw 10 / 65536) = some d ∧ d.sq ≠ 0 ∧ d.order = none ∧ d.stage ≠ .sent) ∧
  (let m : Mod := sto31 { cmds := List.replicate 4 { sq := 0, raw := [12, 0, 7, 0] ++ List.replicate 60 0, at_ := 0, stage := .aer } }; let i : Nat := 4095; 4 ≤ ((m.ctl i).cmds.countP fun d => d.stage = .aer)) ∧
  (let m : Mod := sto31 { cqs := [(64, { base := 0, size := 8 })] }; let i : Nat := 4095; let q : Nat := 64; let x : Cq := { base := 0, size := 8 }; tget (m.ctl i).cqs q = some x ∧ ((x.tail + 1) % x.size = x.head ∨ (m.ctl i).cfs = true ∨ x.wait = [])) := by
  repeat refine ⟨by (try simp only [Quiet, wheelIdle_iff, mayRun_iff]) <;> decide +kernel, ?_⟩
  all_goals (try simp only [Quiet, wheelIdle_iff, mayRun_iff]) <;> decide +kernel

theorem witness_StorageTargets_18 :
  (let s : State := rd; let i : Fin 4096 := 4095; let q : Fin 65 := 64; let cid : Fin 65536 := 65535; (s.m.nvCmd i q cid = none ∨ (∃ c, s.m.nvCmd i q cid = some c ∧ (c.stage ≠ .wait ∨ s.m.tgtState (s.m.instSlice i) c.target = 2))) ∧ Quiet s) :=
  ⟨Or.inl rfl, by (try simp only [Quiet, wheelIdle_iff, mayRun_iff]) <;> decide +kernel⟩

theorem witness_StorageTargets :
  (let s : State := rd; let sl : Fin 8 := 7; let t : Fin 64 := 63; s.m.tgtState sl t = 0 ∧ s.m.flag F.STO_TGT_CFG_ENABLE [sl, t] = false) ∧
  (let s : State := st (rs [(F.STO_TGT_STATUS_STATE, [7, 63], 2)]); let sl : Fin 8 := 7; let t : Fin 64 := 63; s.m.tgtState sl t ≠ 0) ∧
  (let s : State := st (rs [(F.STO_TGT_STATUS_STATE, [7, 63], 2)]); let sl : Fin 8 := 7; let t : Fin 64 := 63; let v : BitVec 63 := 0; (s.m.tgtCfg sl t (2 * v.toNat)).tgtState sl t ≠ 0 ∧ (s.m.tgtCfg sl t (2 * v.toNat)).nvTied sl t = []) ∧
  (let s : State := rd; let sl : Fin 8 := 7; let t : Fin 64 := 63; Quiet s ∧ s.m.tgtState sl t ≠ 1) ∧
  (let s : State := st (rs [(F.STO_TGT_STATUS_STATE, [7, 63], 1)]); let sl : Fin 8 := 7; let t : Fin 64 := 63; s.m.tgtState sl t = 1) ∧
  (let s : State := st { (rs [(F.STO_TGT_STATUS_STATE, [7, 63], 1)]) with sto := { assocs := [(7 * 64 + 63, { step := 1 })] } }; let sl : Fin 8 := 7; let t : Fin 64 := 63; s.m.tgtState sl t = 1 ∧ (s.m.assoc sl t).step = 1) ∧
  (let s : State := st (rs [(F.STO_TGT_STATUS_STATE, [7, 63], 1)]); let sl : Fin 8 := 7; let t : Fin 64 := 63; s.m.tgtState sl t = 1) ∧
  (let s : State := st (rs [(F.STO_TGT_STATUS_STATE, [7, 63], 3)]); let sl : Fin 8 := 7; let t : Fin 64 := 63; s.m.tgtState sl t = 3) ∧
  (let s : State := st (rs [(F.STO_TGT_STATUS_STATE, [7, 63], 1)]); let sl : Fin 8 := 7; let t : Fin 64 := 63; Quiet s ∧ s.m.tgtState sl t ≠ 3) ∧
  (let s : State := st (rs [(F.STO_TGT_STATUS_STATE, [7, 63], 1)]); let sl : Fin 8 := 7; let t : Fin 64 := 63; Quiet s ∧ ((s.m.assoc sl t).lossAt = none ∨ s.m.tgtState sl t ≠ 1 ∧ s.m.tgtState sl t ≠ 3)) ∧
  (let s : State := st { (rs [(F.STO_TGT_STATUS_STATE, [7, 63], 1)]) with sto := { assocs := [(7 * 64 + 63, { lossAt := some 5 })] } }; let sl : Fin 8 := 7; let t : Fin 64 := 63; let l : Nat := 5; let m : Mod := (s.m.runToNs (l + s.m.get F.STO_TGT_CFG_CTRL_LOSS_S [sl, t] * 1000000000)).tgtEnter sl t 4; (s.m.assoc sl t).lossAt = some l ∧ (s.m.tgtState sl t = 1 ∨ s.m.tgtState sl t = 3) ∧ m = (s.m.runToNs (l + s.m.get F.STO_TGT_CFG_CTRL_LOSS_S [sl, t] * 1000000000)).tgtEnter sl t 4) ∧
  (let s : State := st (rs [(F.STO_TGT_STATUS_STATE, [7, 63], 2)]); let sl : Fin 8 := 7; let t : Fin 64 := 63; s.m.tgtState sl t = 2) ∧
  (let s : State := st (rs [(F.STO_TGT_STATUS_STATE, [7, 63], 1)]); let sl : Fin 8 := 7; let t : Fin 64 := 63; s.m.tgtState sl t = 1) ∧
  (let m : Mod := (st (rs [(F.STO_TGT_STATUS_STATE, [7, 63], 2)])).m; let l : Nat := 7; let t : Nat := 63; let c : Nat := 9; let w : Mod := (m.set F.STO_TGT_STATUS_LAST_LOSS [l, t] c).count F.STO_CNT_COUNT [l, 9]; w = (m.set F.STO_TGT_STATUS_LAST_LOSS [l, t] c).count F.STO_CNT_COUNT [l, 9] ∧ w.nvTied l t = []) ∧
  (let s : State := st (rs [(F.STO_TGT_STATUS_STATE, [7, 63], 2)]); let sl : Fin 8 := 7; let t : Fin 64 := 63; Quiet s ∧ s.m.tgtState sl t = 2) ∧
  (let s : State := st (rs [(F.STO_TGT_STATUS_STATE, [7, 63], 1)]); let sl : Fin 8 := 7; let t : Fin 64 := 63; Quiet s ∧ s.m.tgtState sl t ≠ 2) ∧
  (let s : State := st { (rs [(F.STO_TGT_STATUS_STATE, [7, 63], 2)]) with sto := { assocs := [(7 * 64 + 63, { retx := [(32, 6)] })] } }; let sl : Fin 8 := 7; let t : Fin 64 := 63; let k : Fin 33 := 32; let n : Nat := 7; let m : Mod := Mod.emit (s.m.modAssoc sl t fun a => { a with retx := tput a.retx k n }) (.target sl t k 2 []); Quiet s ∧ s.m.tgtState sl t = 2 ∧ tgetD (s.m.assoc sl t).retx k 0 + 1 = n ∧ m = Mod.emit (s.m.modAssoc sl t fun a => { a with retx := tput a.retx k n }) (.target sl t k 2 []) ∧ n < 8) ∧
  (let s : State := st { (rs [(F.STO_TGT_STATUS_STATE, [7, 63], 2)]) with sto := { assocs := [(7 * 64 + 63, { retx := [(32, 7)] })] } }; let sl : Fin 8 := 7; let t : Fin 64 := 63; let k : Fin 33 := 32; let n : Nat := 8; let m : Mod := Mod.emit (s.m.modAssoc sl t fun a => { a with retx := tput a.retx k n }) (.target sl t k 2 []); Quiet s ∧ s.m.tgtState sl t = 2 ∧ tgetD (s.m.assoc sl t).retx k 0 + 1 = n ∧ m = Mod.emit (s.m.modAssoc sl t fun a => { a with retx := tput a.retx k n }) (.target sl t k 2 []) ∧ 8 ≤ n) ∧
  (let s : State := st (sto31 { cmds := [{ sq := 64, raw := [1, 0, 255, 255] ++ List.replicate 60 0, at_ := 0, stage := .wait, target := 63 }] } []); let i : Fin 4096 := 4095; let q : Fin 65 := 64; let cid : Fin 65536 := 65535; let c : NvCmd := { sq := 64, raw := [1, 0, 255, 255] ++ List.replicate 60 0, at_ := 0, stage := .wait, target := 63 }; s.m.nvCmd i q cid = some c ∧ c.stage = .wait ∧ s.m.tgtState (s.m.instSlice i) c.target ≠ 2) ∧
  (let s : State := rd; let sl : Fin 8 := 7; let t : Fin 64 := 63; Quiet s ∧ s.m.tgtState sl t ≠ 2) ∧
  (let s : State := st (rs [(F.STO_TGT_STATUS_STATE, [7, 63], 2)]); let sl : Fin 8 := 7; let t : Fin 64 := 63; let k : Fin 33 := 32; let m : Mod := s.m.modAssoc sl t fun a => { a with retx := tdel a.retx k }; s.m.tgtState sl t = 2 ∧ m = (s.m.modAssoc sl t fun a => { a with retx := tdel a.retx k })) ∧
  (let m : Mod := sto31 {}; let i : Nat := 4095; let c : NvCmd := { sq := 64, raw := [1, 0, 255, 255] ++ List.replicate 60 0, at_ := 0, stage := .wait, target := 63 }; m.isStorage i = true ∧ m.tgtState (m.instSlice i) c.target ≠ 2) ∧
  (let n : Nat := 17; (n = 0 ∨ 16 < n)) := by
  repeat refine ⟨by (try simp only [Quiet, wheelIdle_iff, mayRun_iff]) <;> decide +kernel, ?_⟩
  all_goals (try simp only [Quiet, wheelIdle_iff, mayRun_iff]) <;> decide +kernel

theorem witness_StepRunsFront :
  (let s : State := { rd with pending := [.perstDeassert 31, .perstAssert 0] }; let c : Instr := .perstDeassert 31; let rest : List Instr := [.perstAssert 0]; s.pending = c :: rest) ∧
  (let s : State := rd; s.pending = []) := by
  repeat refine ⟨by (try simp only [Quiet, wheelIdle_iff, mayRun_iff]) <;> decide +kernel, ?_⟩
  all_goals (try simp only [Quiet, wheelIdle_iff, mayRun_iff]) <;> decide +kernel



theorem witness_InvariantKept_0 :
  (let s : State := { rd with pending := [.perstDeassert 31] }; let t : State := (match step s with | .next t => t | _ => s); step s = .next t ∧ Memory.wf s.mem = true ∧ Quiet s) :=
  ⟨next_of (by decide +kernel), by (try simp only [Quiet, wheelIdle_iff, mayRun_iff]) <;> decide +kernel⟩

theorem witness_MemoryLaws_1 :
  (let l : List Host.Cell := [⟨2 ^ 39, 5⟩]; let l' : List Host.Cell := [⟨2 ^ 39, 5⟩]; (∀ a, memGet l a = memGet l' a) ∧ Memory.wf l = true ∧ Memory.wf l' = true) :=
  ⟨(fun _ => rfl), by (try simp only [Quiet, wheelIdle_iff, mayRun_iff]) <;> decide +kernel⟩

theorem witness_MemoryLaws :
  (let l : List Host.Cell := [⟨2 ^ 39, 5⟩]; Memory.wf l = true) := by
  (try simp only [Quiet, wheelIdle_iff, mayRun_iff]) <;> decide +kernel

theorem witness_Replies_6 :
  (let s : State := rd; let t : State := (match exec (.modStatus (cmd 0x0002)) s with | .next t => t | _ => s); let c : Cmd := cmd 0x0002; (exec (.modIdentify c) s = .next t ∨ exec (.modStatus c) s = .next t ∨ exec (.servoStatus c) s = .next t ∨ exec (.bobbinStatus c) s = .next t ∨ exec (.lockQuery c) s = .next t ∨ exec (.mbxQuery c) s = .next t ∨ exec (.calQuery c) s = .next t ∨ exec (.imgStageStatus c) s = .next t ∨ exec (.imgQuery c) s = .next t ∨ exec (.portStatus c) s = .next t ∨ exec (.ringQuery c) s = .next t) ∧ Quiet s) :=
  ⟨.inr (.inl (next_of (by decide +kernel))), by (try simp only [Quiet, wheelIdle_iff, mayRun_iff]) <;> decide +kernel⟩

theorem witness_Replies :
  (let m : Mod := rm; let c : Cmd := cmd 0x0002; m.isDead c = false) ∧
  (let m : Mod := rm; let c : Cmd := cmd 0x0002; let op : Nat := 0x7777; let a : Ans := (m.cmdCheck (asOp c op)).getD {}; m.cmdCheck (asOp c op) = some a) ∧
  (let m : Mod := rm; let c : Cmd := cmd 0x0003; let op : Nat := 0x0003; let body : Mod → Mod × Option Ans := fun m => (m, none); m.cmdCheck (asOp c op) = none ∧ (body m).2 = none) ∧
  (let m : Mod := rm; let c : Cmd := cmd 0x0003; let op : Nat := 0x0003; let body : Mod → Mod × Option Ans := fun m => (m, some { status := stInvalid, late := false }); let a : Ans := { status := stInvalid, late := false }; m.cmdCheck (asOp c op) = none ∧ (body m).2 = some a ∧ a.late = false ∧ a.status = stInvalid) ∧
  (let m : Mod := rm; let c : Cmd := cmd 0x0003; let op : Nat := 0x0003; let body : Mod → Mod × Option Ans := fun m => (m, some { status := stNoResource, late := false }); let a : Ans := { status := stNoResource, late := false }; m.cmdCheck (asOp c op) = none ∧ (body m).2 = some a ∧ a.late = false ∧ a.status = stNoResource) ∧
  (let m : Mod := rm; let c : Cmd := cmd 0x0003; let op : Nat := 0x0003; let body : Mod → Mod × Option Ans := fun m => (m, some { status := stNotTraceable, late := false }); let a : Ans := { status := stNotTraceable, late := false }; m.cmdCheck (asOp c op) = none ∧ (body m).2 = some a ∧ a.late = false ∧ a.status = stNotTraceable) ∧
  (let m : Mod := rm; let c : Cmd := cmd 0x0003; let op : Nat := 0x0003; let objs : List Obj := []; let body : Mod → Mod × Option Ans := fun m => (m, some { status := stInvalid, late := true }); let a : Ans := { status := stInvalid, late := true }; m.cmdCheck (asOp c op) = none ∧ (body m).2 = some a ∧ a.late = true ∧ m.holder (asOp c op) objs = none) ∧
  (let m : Mod := rm; let c : Cmd := cmd 0x0003; let op : Nat := 0x0003; let objs : List Obj := []; let body : Mod → Mod × Option Ans := fun m => (m, some { status := stOk, late := false }); let a : Ans := { status := stOk, late := false }; m.cmdCheck (asOp c op) = none ∧ (body m).2 = some a ∧ a.status ≠ stInvalid ∧ a.status ≠ stNoResource ∧ a.status ≠ stNotTraceable ∧ m.holder (asOp c op) objs = none) := by
  repeat refine ⟨by (try simp only [Quiet, wheelIdle_iff, mayRun_iff]) <;> decide +kernel, ?_⟩
  all_goals (try simp only [Quiet, wheelIdle_iff, mayRun_iff]) <;> decide +kernel


end Sys2Proof.Tests
end

section
/-! SUPPORT. Locks by command: what an acquire, a release, a query and a configuration answer, who stands in a queue after its
owner or a waiter died, and a waiter whose time has passed (R68, R82 to R84). -/

namespace Sys2Proof.Machine

/-! ### What passing, breaking and clearing a lock does -/

/-- A held lock with waiters passes to the first of them, without the broken mark (R82). -/
theorem Mod.lock_passLock_cons {m : Mod} {n : Nat} {w : Waiter} {ws : List Waiter} (h : (m.lock n).queue = w :: ws) (b : Bool) :
    (m.passLock n b).lock n = ⟨some w.mid, false, ws⟩ := by
  simp [Mod.passLock, h]

@[simp] theorem Mod.passLock_fit (m : Mod) (n : Nat) (b : Bool) : (m.passLock n b).fit = m.fit := by
  unfold Mod.passLock
  split
  · rfl
  · simp

@[simp] theorem Mod.forceRelease_fit (m : Mod) (n : Nat) : (m.forceRelease n).fit = m.fit := by
  unfold Mod.forceRelease
  split
  · simp
  · rfl

@[simp] theorem Mod.clearLock_fit (m : Mod) (n : Nat) : (m.clearLock n).fit = m.fit :=
  List.foldlRecOn (motive := fun m' : Mod => m'.fit = m.fit) _ _ (Mod.putLock_fit ..) fun m' h w _ => by simp [h]

@[simp] theorem Mod.lockConfig_fit (m : Mod) (mid n v : Nat) : (m.lockConfig mid n v).fit = m.fit := by
  unfold Mod.lockConfig
  dsimp only
  split
  · simp
  · have hscope : (if bits v 0 2 = 3 then m else m.set F.LCK_CFG_SCOPE [n] (bits v 0 2)).fit = m.fit := by split <;> simp
    split <;> split <;> simp [hscope]

/-! ### The waiters of a dead requester -/

/-- Leaving the queue of lock `k` takes the requester out of that queue and leaves the other locks as they are. -/
theorem Mod.mem_queue_leaveQueue (m : Mod) (mid k n : Nat) (w : Waiter) :
    w ∈ ((m.leaveQueue mid k).lock n).queue ↔ w ∈ (m.lock n).queue ∧ (n = k → w.mid ≠ mid) := by
  unfold Mod.leaveQueue
  by_cases h : n = k
  · subst h; simp
  · simp [Mod.lock_putLock_ne m _ h, h]

theorem Mod.mem_queue_leaveQueues (l : List (Nat × Lock)) (m : Mod) (mid n : Nat) (w : Waiter) :
    w ∈ ((l.foldl (fun m e => m.leaveQueue mid e.1) m).lock n).queue ↔
      w ∈ (m.lock n).queue ∧ (n ∈ l.map (·.1) → w.mid ≠ mid) := by
  induction l generalizing m with
  | nil => simp
  | cons e l ih =>
    rw [List.foldl_cons, ih, Mod.mem_queue_leaveQueue, List.map_cons, List.mem_cons, or_imp, and_assoc]

theorem mem_keys_of_tget {α : Type} {t : Tab α} {k : Nat} {a : α} (h : tget t k = some a) : k ∈ t.map (·.1) := by
  induction t with
  | nil => cases h
  | cons e t ih =>
    obtain ⟨j, b⟩ := e
    unfold tget at h
    split at h
    · next hj => simp [hj]
    · exact List.mem_cons_of_mem _ (ih h)

/-- A lock that is not listed has no waiters. -/
theorem Mod.listed_of_mem_queue {m : Mod} {n : Nat} {w : Waiter} (h : w ∈ (m.lock n).queue) : n ∈ m.locks.map (·.1) := by
  cases hl : tget m.locks n with
  | none => simp [Mod.lock, tgetD, hl] at h
  | some l => exact mem_keys_of_tget hl

/-- A dead requester waits for no lock (R84): every lock that has waiters is listed, and it leaves the queue of each. -/
theorem Mod.not_waits_breakLocks {m : Mod} {mid n : Nat} {w : Waiter} (h : w ∈ ((m.breakLocks mid).lock n).queue) :
    w.mid ≠ mid := by
  unfold Mod.breakLocks at h
  obtain ⟨hq, hleft⟩ := (Mod.mem_queue_leaveQueues ..).mp h
  exact hleft (Mod.listed_of_mem_queue hq)

/-- No LOCK_ACQUIRE of a dead requester stays in the pool (R84). -/
theorem Mod.opcode_ne_of_mem_dropCmds {m : Mod} {mid : Nat} {e : PoolEntry} (h : e ∈ (m.dropCmds mid).cut.pool)
    (hm : e.cmd.mid = mid) : e.cmd.opcode ≠ 0x0A01 := by
  obtain ⟨e', -, he⟩ := List.mem_filterMap.mp h
  split at he
  · next hne => cases he; exact absurd hm hne
  · split at he
    · next hx => cases he; simpa using (Bool.and_eq_true_iff.mp hx).2
    · cases he

/-! ### Commands without a foreground request -/

/-- OK is no status that turns a command away before its objects are looked at. -/
theorem stOk_not_failing : stOk ≠ stInvalid ∧ stOk ≠ stNoResource ∧ stOk ≠ stNotTraceable := by decide

/-- A command that uses no shared unit does its work and is answered. -/
theorem run_done_unitless {s : State} {c : Cmd} {op : Nat} {objs : List Obj} {body : Mod → Mod × Option Ans} {m' : Mod} {a : Ans}
    (hu : commandUnits op = []) (h : mayRun s.m c op objs) (hb : body s.m = (m', some a)) (hq : m'.fit.pend = [])
    (hok : a.late = true ∨ (a.status ≠ stInvalid ∧ a.status ≠ stNoResource ∧ a.status ≠ stNotTraceable)) :
    run s (fun m => m.runCmd c op objs body) = .next (s.put (m'.reply (asOp c op) a)) := by
  simpa [hu] using run_done h hb hq hok

/-- A command whose answer comes later, whatever the Fitting then does. -/
theorem run_stays_ends {s : State} {c : Cmd} {op : Nat} {objs : List Obj} {body : Mod → Mod × Option Ans} {m' : Mod}
    (h : mayRun s.m c op objs) (hb : body s.m = (m', none)) :
    run s (fun m => m.runCmd c op objs body) = .next (s.ends (m'.place (asOp c op) .executing objs)) := by
  rw [run, runCmd_stays h.check h.free hb]
  rfl

/-! ### LOCK_ACQUIRE (R68, R82, R83) -/

section
variable {s : State} {c : Cmd} (hmay : mayRun s.m c 0x0A01) (hn : Cmd.lockNo c < 1024)
  (had : s.m.lockAdmits (Cmd.lockNo c) c.mid = true)
include hmay hn had

/-- A FREE or BROKEN lock is granted at once; a BROKEN one says so. -/
theorem lockAcquire_unowned (hq : Quiet s) (ho : (s.m.lock (Cmd.lockNo c)).owner = none) :
    exec (.lockAcquire c) s =
      .next (s.put ((s.m.putLock (Cmd.lockNo c) ⟨some c.mid, false, (s.m.lock (Cmd.lockNo c)).queue⟩).reply (asOp c 0x0A01)
        { status := if (s.m.lock (Cmd.lockNo c)).broken then stBroken else stOk,
          tlvs := [lockState (Cmd.lockNo c) ⟨some c.mid, false, (s.m.lock (Cmd.lockNo c)).queue⟩ false
            (s.m.lock (Cmd.lockNo c)).broken] })) := by
  refine run_done_unitless rfl hmay ?_ hq (.inr ?_)
  · simp [Nat.not_le.mpr hn, had, ho]
  · dsimp only
    split <;> decide

/-- The owner asks again: it is told that it owns the lock. -/
theorem lockAcquire_own (hq : Quiet s) (ho : (s.m.lock (Cmd.lockNo c)).owner = some c.mid) :
    exec (.lockAcquire c) s = .next (s.put (s.m.reply (asOp c 0x0A01)
      (okWith [lockState (Cmd.lockNo c) (s.m.lock (Cmd.lockNo c)) true false]))) := by
  refine run_done_unitless rfl hmay ?_ hq (.inr stOk_not_failing)
  simp [Nat.not_le.mpr hn, had, ho]

/-- A lock that another holds: the command joins the end of its queue and executes on, unanswered. -/
theorem lockAcquire_waits {o : Nat} (ho : (s.m.lock (Cmd.lockNo c)).owner = some o) (hne : o ≠ c.mid)
    (hlen : (s.m.lock (Cmd.lockNo c)).queue.length < 32) (hw : s.m.waiters < 4096) :
    exec (.lockAcquire c) s = .next (s.ends ((s.m.putLock (Cmd.lockNo c)
      { s.m.lock (Cmd.lockNo c) with queue := (s.m.lock (Cmd.lockNo c)).queue ++ [⟨c.mid, asOp c 0x0A01⟩] }).place
        (asOp c 0x0A01) .executing [])) := by
  refine run_stays_ends hmay ?_
  simp [Nat.not_le.mpr hn, had, ho, hne, Nat.not_le.mpr hlen, Nat.not_le.mpr hw, asOp]

/-- A full queue, of the lock or of the module, turns the command away. -/
theorem lockAcquire_full {o : Nat} (hq : Quiet s) (ho : (s.m.lock (Cmd.lockNo c)).owner = some o) (hne : o ≠ c.mid)
    (hfull : 32 ≤ (s.m.lock (Cmd.lockNo c)).queue.length ∨ 4096 ≤ s.m.waiters) :
    exec (.lockAcquire c) s = .next (s.put (s.m.reply (asOp c 0x0A01)
      { status := stNoResource, tlvs := [lockState (Cmd.lockNo c) (s.m.lock (Cmd.lockNo c)) false false] })) := by
  refine run_fails (m' := s.m) hmay ?_ hq rfl (.inr (.inl rfl))
  simp [Nat.not_le.mpr hn, had, ho, hne, hfull]

end

/-! ### LOCK_RELEASE, LOCK_QUERY, LOCK_CONFIG (R68, R81, R82) -/

/-- The owner's release passes the lock on. -/
theorem lockRelease_own {s : State} {c : Cmd} (hq : Quiet s) (hmay : mayRun s.m c 0x0A02) (hn : Cmd.lockNo c < 1024)
    (ho : (s.m.lock (Cmd.lockNo c)).owner = some c.mid) :
    exec (.lockRelease c) s = .next (s.put ((s.m.passLock (Cmd.lockNo c) false).reply (asOp c 0x0A02) {})) := by
  refine run_done_unitless rfl hmay ?_ (by simpa [Quiet] using hq) (.inr stOk_not_failing)
  simp [Nat.not_le.mpr hn, ho]

/-- A release by another is logged as a refused write of LCK_TRY, and INVALID. -/
theorem lockRelease_other {s : State} {c : Cmd} (hq : Quiet s) (hmay : mayRun s.m c 0x0A02) (hn : Cmd.lockNo c < 1024)
    (ho : (s.m.lock (Cmd.lockNo c)).owner ≠ some c.mid) :
    exec (.lockRelease c) s = .next (s.put ((s.m.refuse c.mid (regAddr .LCK_TRY [Cmd.lockNo c]) true false 3).reply (asOp c 0x0A02)
      { badHeader with late := true })) := by
  refine run_done_unitless rfl hmay ?_ (by simpa [Quiet] using hq) (.inl rfl)
  simp [Nat.not_le.mpr hn, ho]

/-- The state of a lock and its LCK_CFG; the lock stays as it is. -/
theorem lockQuery_answer {s : State} {c : Cmd} (hq : Quiet s) (hmay : mayRun s.m c 0x0A03) (hn : Cmd.lockNo c < 1024)
    (had : s.m.lockAdmits (Cmd.lockNo c) c.mid = true) :
    exec (.lockQuery c) s = .next (s.put (s.m.reply (asOp c 0x0A03)
      (okWith [lockState (Cmd.lockNo c) (s.m.lock (Cmd.lockNo c)) ((s.m.lock (Cmd.lockNo c)).owner = some c.mid) false,
        tlv 0x102 (leBytes 4 (s.m.stored .LCK_CFG [Cmd.lockNo c]))]))) := by
  refine run_done_unitless rfl hmay ?_ hq (.inr stOk_not_failing)
  simp [Nat.not_le.mpr hn, had]

/-- The lock number and the value that a LOCK_CONFIG entry carries. -/
theorem leAt_lockConfig_entry {n v : Nat} (hn : n < 1024) (hv : v < 2 ^ 32) :
    leAt (leBytes 4 n ++ leBytes 4 v) 0 2 = n ∧ leAt (leBytes 4 n ++ leBytes 4 v) 4 4 = v := by
  constructor
  · rw [leAt_left _ _ _ _ (by simp), leAt_low _ _ _ (by decide)]
    omega
  · have h := leAt_right (leBytes 4 n) (leBytes 4 v) 0 4
    rw [leBytes_length, Nat.add_zero, leAt_low _ _ _ (by decide)] at h
    omega

/-- One entry of LOCK_CONFIG is one write of LCK_CFG. -/
theorem lockConfig_one {s : State} {c : Cmd} {n v : Nat} (hq : Quiet s) (hmay : mayRun s.m c 0x0A04 [.lock n])
    (hall : (c.all 0x100).map (·.2) = [leBytes 4 n ++ leBytes 4 v]) (hn : n < 1024) (hv : v % 4 ≠ 3) (hv' : v < 2 ^ 32) :
    exec (.lockConfig c) s = .next (s.put ((s.m.lockConfig c.mid n v).reply (asOp c 0x0A04) {})) := by
  obtain ⟨⟨p, bs⟩, hc, rfl⟩ := List.map_eq_singleton_iff.mp hall
  obtain ⟨hno, hval⟩ := leAt_lockConfig_entry hn hv'
  have hobjs : ((c.all 0x100).map fun t => Obj.lock (leAt t.2 0 2)) = [.lock n] := by simp [hc, hno]
  change execLockConfig c s = _
  rw [execLockConfig, hobjs]
  refine run_done_unitless rfl hmay ?_ (by simpa [Quiet] using hq) (.inr stOk_not_failing)
  simp [hc, hno, hval, Nat.not_le.mpr hn, hv]

/-! ### LOCK_WAIT_TIMEOUT (R82) -/

/-- The step of a waiter whose TIMEOUT_US has passed. -/
theorem lockWaitTimeout_ends {s : State} {n : Fin 1024} {i : Nat} {w : Waiter} {l : Lock} (hw : (s.m.lock n).queue[i]? = some w)
    (hl : l = { s.m.lock n with queue := (s.m.lock n).queue.eraseIdx i }) :
    exec (.lockWaitTimeout n i) s = .next (s.ends ((s.m.putLock n l).reply w.cmd
      { status := stBusy, tlvs := [lockState n l false false] })) := by
  subst hl
  change execLockWaitTimeout n i s = _
  simp only [execLockWaitTimeout, run, hw]
  rfl

/-- A waiter whose TIMEOUT_US has passed leaves the queue and gets BUSY; the owner and the other waiters stay. -/
theorem lockWaitTimeout_busy {s : State} {n : Fin 1024} {i : Nat} {w : Waiter} (hw : (s.m.lock n).queue[i]? = some w)
    (hl : s.m.isDead w.cmd = false) :
    ∃ t, exec (.lockWaitTimeout n i) s = .next t ∧ (t.m.lock n).owner = (s.m.lock n).owner ∧
      (t.m.lock n).queue = (s.m.lock n).queue.eraseIdx i ∧ ∃ p, answered t.m p ∧ p.tag = w.cmd.tag ∧ p.status = stBusy := by
  obtain ⟨p, hsent, hp⟩ := reply_answered (m := s.m.putLock n _) (c := w.cmd) hl _
  exact ⟨_, lockWaitTimeout_ends hw rfl, by simp, by simp, p, settle_answered hsent, hp.tag, hp.status⟩

/-! ### The obligation -/

/-- Settles O2: each command by what its lock is when it runs; the dead by the queues and the pool they leave. -/
theorem lockCommands : Obligations.LockCommands := by
  unfold Obligations.LockCommands
  refine ⟨fun _ _ hq hmay hn had ho => lockAcquire_unowned hmay hn had hq ho,
    fun _ _ hq hmay hn had ho => lockAcquire_own hmay hn had hq ho,
    fun _ _ _ hmay hn had ho hne hlen hw => ⟨_, lockAcquire_waits hmay hn had ho hne hlen hw, by simp [ho], by simp, by simp, by simp⟩,
    fun _ _ _ hq hmay hn had ho hne hfull => lockAcquire_full hmay hn had hq ho hne hfull,
    fun _ _ b _ _ h => Mod.lock_passLock_cons h b,
    fun _ _ _ _ => Mod.not_waits_breakLocks,
    fun _ _ => ⟨rfl, rfl, rfl, fun _ => Mod.opcode_ne_of_mem_dropCmds⟩,
    fun _ _ => lockRelease_own, fun _ _ => lockRelease_other, fun _ _ => lockQuery_answer,
    fun _ _ _ _ => lockConfig_one, fun _ _ _ _ => lockWaitTimeout_busy⟩

end Sys2Proof.Machine
end

section
/-! SUPPORT. Rings by command: what a ring reads after it is put, drained or freed, what RING_CREATE takes, and the answer of each
command for rings and owners (R390, R404, R407, R422 to R427). -/

namespace Sys2Proof.Machine

/-! ### Rings -/

@[simp] theorem Mod.ring_putRing (m : Mod) (k : Nat) (r : Ring) : (m.putRing k r).ring k = some r := tget_tput ..

@[simp] theorem Mod.modOwner_fit (m : Mod) (o : Nat) (f : Owner → Owner) : (m.modOwner o f).fit = m.fit := rfl

@[simp] theorem Mod.setSumEn_fit (m : Mod) (o : Nat) (b : Bool) : (m.setSumEn o b).fit = m.fit := by
  unfold Mod.setSumEn
  split <;> rfl

@[simp] theorem Mod.setK_fit (m : Mod) (o k : Nat) : (m.setK o k).fit = m.fit := by
  unfold Mod.setK
  split <;> rfl

/-! ### Freeing cells leaves the Spool alone -/

@[simp] theorem Mod.jxlFreed_spl (m : Mod) (c : Charge) : (m.jxlFreed c).spl = m.spl := by
  unfold Mod.jxlFreed
  split
  · rfl
  · dsimp only
    split <;> rfl

@[simp] theorem Mod.sendPfc_spl (m : Mod) (n c t : Nat) : (m.sendPfc n c t).spl = m.spl := by
  unfold Mod.sendPfc
  dsimp only
  split
  · rfl
  · refine List.foldlRecOn (motive := fun m' : Mod => m'.spl = m.spl) _ _ rfl fun m' h k _ => ?_
    split <;> simp [h]

@[simp] theorem Mod.xonCheck_spl (m : Mod) (n c : Nat) : (m.xonCheck n c).spl = m.spl := by
  unfold Mod.xonCheck
  dsimp only
  split <;> split <;> simp

@[simp] theorem Mod.free_spl (m : Mod) (c : Charge) : (m.free c).spl = m.spl := by
  unfold Mod.free
  dsimp only
  split <;> simp

@[simp] theorem Mod.freeAll_spl (m : Mod) (l : List Charge) : (m.freeAll l).spl = m.spl :=
  List.foldlRecOn (motive := fun m' : Mod => m'.spl = m.spl) _ _ rfl fun m' h c _ => by simp [h]

/-! ### The end of a ring (R426, R427) -/

/-- Freeing a ring takes it, and nothing else, out of the table of rings. -/
theorem Mod.freeRing_rings {m : Mod} {k : Nat} {r : Ring} (h : m.ring k = some r) :
    (m.freeRing k).spl.rings = tdel m.spl.rings k := by
  unfold Mod.freeRing
  rw [h]
  dsimp only
  split <;> simp [Mod.freeCharges]

@[simp] theorem Mod.ring_freeRing (m : Mod) (k : Nat) : (m.freeRing k).ring k = none := by
  cases h : m.ring k with
  | none => simp [Mod.freeRing, h]
  | some r => rw [Mod.ring, Mod.freeRing_rings h, tget_tdel]

theorem Mod.ring_freeRing_ne (m : Mod) {k j : Nat} (hj : j ≠ k) : (m.freeRing k).ring j = m.ring j := by
  cases h : m.ring k with
  | none => simp [Mod.freeRing, h]
  | some r => rw [Mod.ring, Mod.freeRing_rings h, tget_tdel_ne _ hj, Mod.ring]

/-- A SEND ring that drains keeps the entries it has read. -/
theorem Mod.ring_drainRing_send {m : Mod} {n : Nat} {r : Ring} {c : Cmd} (hn : n < 65536) :
    (m.drainRing n r c).ring n =
      some { r with state := 5, cause := 0, destroy := some c, reading := false, hiddenAt := none } := by
  simp [Mod.drainRing, Nat.div_eq_of_lt hn]

/-! ### RING_CREATE (R390, R422) -/

/-- The number that a new ring takes: one of its kind that is free, below which every number is a ring or a storage queue. -/
theorem Mod.ringNumber_lowest {m : Mod} {kind n : Nat} (h : m.ringNumber kind = some n) :
    n < kindTotal kind ∧ m.ring (ringKey kind n) = none ∧
      ∀ j, j < n → (m.ring (ringKey kind j)).isSome = true ∨ j ∈ (m.stoNums kind).map (·.2) := by
  obtain ⟨hfree, hn, hbelow⟩ := List.find?_range_eq_some.mp h
  rw [Bool.and_eq_true, Option.isNone_iff_eq_none] at hfree
  refine ⟨List.mem_range.mp hn, hfree.1, fun j hj => ?_⟩
  have hused := hbelow j hj
  cases hr : m.ring (ringKey kind j) with
  | some r => exact .inl rfl
  | none => simpa [hr] using hused

/-- A new ring is empty and belongs to its owner; a still owner's starts PAUSED, a frozen function's FROZEN (R441). -/
theorem Mod.ringOf_state (m : Mod) (o : Nat) (v : List Byte) :
    (m.ringOf o v).state = if m.frozen (m.ownerFn o) then 3 else if m.ownerStill o then 2 else 1 := rfl

section
variable {s : State} {c : Cmd} {o : Nat} {v : List Byte} (hq : Quiet s) (hmay : mayRun s.m c 0x0201 (s.m.ownerObjs c))
  (ho : s.m.cmdOwner c = some o) (hv : c.val 0x100 = v)
include hq hmay ho hv

/-- Ranges, PEER and quota allow the ring, and a number is free: the ring is put under that number, which is answered. -/
theorem ringCreate_takes {n : Nat} (hbad : s.m.ringBad o v = false) (hpeer : s.m.peerOk o v = true)
    (htake : s.m.mayTake o (leAt v 0 1) = true) (hn : s.m.ringNumber (leAt v 0 1) = some n) :
    exec (.ringCreate c) s = .next (s.put ((s.m.putRing (ringKey (leAt v 0 1) n) (s.m.ringOf o v)).reply (asOp c 0x0201)
      (okWith [tlv 0x101 (leBytes 1 (leAt v 0 1) ++ [0] ++ leBytes 2 n)]))) := by
  refine run_done_unitless rfl hmay ?_ (by simpa [Quiet] using hq) (.inr stOk_not_failing)
  simp [ho, hv, Mod.ringCreate, hbad, hpeer, htake, hn]

/-- A value out of its range. -/
theorem ringCreate_badRange (hbad : s.m.ringBad o v = true) :
    exec (.ringCreate c) s = .next (s.put (s.m.reply (asOp c 0x0201) (c.bad 1))) := by
  refine run_fails (m' := s.m) hmay ?_ hq rfl (.inl rfl)
  simp [ho, hv, Mod.ringCreate, hbad]

/-- A PEER that is no COMPLETION ring of the owner with the right MODE. -/
theorem ringCreate_badPeer (hbad : s.m.ringBad o v = false) (hpeer : s.m.peerOk o v = false) :
    exec (.ringCreate c) s = .next (s.put (s.m.reply (asOp c 0x0201) (c.bad 2))) := by
  refine run_fails (m' := s.m) hmay ?_ hq rfl (.inl rfl)
  simp [ho, hv, Mod.ringCreate, hbad, hpeer]

/-- A quota or a pool that is used up. -/
theorem ringCreate_noRoom (hbad : s.m.ringBad o v = false) (hpeer : s.m.peerOk o v = true)
    (htake : s.m.mayTake o (leAt v 0 1) = false) :
    exec (.ringCreate c) s = .next (s.put (s.m.reply (asOp c 0x0201) { status := stNoResource })) := by
  refine run_fails (m' := s.m) hmay ?_ hq rfl (.inr (.inl rfl))
  simp [ho, hv, Mod.ringCreate, hbad, hpeer, htake, stNoResource, stInvalid]

end

/-- A command that its own rule turns away is answered before its objects are looked at. -/
theorem run_fails_unheld {s : State} {c : Cmd} {op : Nat} {objs : List Obj} {body : Mod → Mod × Option Ans} {m' : Mod} {a : Ans}
    (hq : Quiet s) (hcheck : s.m.cmdCheck (asOp c op) = none) (hb : body s.m = (m', some a)) (hl : a.late = false)
    (hs : a.status = stInvalid ∨ a.status = stNoResource ∨ a.status = stNotTraceable) :
    run s (fun m => m.runCmd c op objs body) = .next (s.put (s.m.reply (asOp c op) a)) := by
  have e := runCmd_fails (objs := objs) hcheck hb hl hs
  rw [run_put]
  · rw [e]; rfl
  · rw [e]; simpa [Quiet] using hq

/-- RING_CREATE for no owner. -/
theorem ringCreate_noOwner {s : State} {c : Cmd} (hq : Quiet s) (hcheck : s.m.cmdCheck (asOp c 0x0201) = none)
    (ho : s.m.cmdOwner c = none) : exec (.ringCreate c) s = .next (s.put (s.m.reply (asOp c 0x0201) badHeader)) := by
  refine run_fails_unheld (m' := s.m) hq hcheck ?_ rfl (.inl rfl)
  simp [ho]

/-! ### RING_DESTROY (R423, R426, R427) -/

/-- RING_DESTROY of no ring of the requester's owner. -/
theorem ringDestroy_noTarget {s : State} {c : Cmd} (hq : Quiet s) (ht : s.m.target (asOp c 0x0202) = none)
    (hcheck : s.m.cmdCheck (asOp c 0x0202) = none) :
    exec (.ringDestroy c) s = .next (s.put (s.m.reply (asOp c 0x0202) c.bad)) := by
  refine run_fails_unheld (c := asOp c 0x0202) (m' := s.m) hq hcheck ?_ rfl (.inl rfl)
  rw [asOp] at ht
  simp only [ht]
  rfl

/-- Checks and objects do not depend on the opcode that the command came with. -/
theorem mayRun.under {m : Mod} {c : Cmd} {op : Nat} {objs : List Obj} (h : mayRun m c op objs) : mayRun m (asOp c op) op objs :=
  ⟨h.check, h.free, h.lives⟩

section
variable {s : State} {c : Cmd} {k : Nat} {r : Ring} (hmay : mayRun s.m c 0x0202 [targetObj c])
  (ht : s.m.target (asOp c 0x0202) = some (k, r))
include hmay ht

/-- A ring of another kind than COMPLETION drains, and the command executes on, unanswered. -/
theorem ringDestroy_drains (hk : k / 65536 ≠ 2) (h3 : r.state ≠ 3) (h5 : r.state ≠ 5) :
    exec (.ringDestroy c) s =
      .next (s.ends ((s.m.drainRing k r (asOp c 0x0202)).place (asOp c 0x0202) .executing [targetObj c])) := by
  refine run_stays_ends hmay.under ?_
  rw [asOp] at ht ⊢
  simp [ht, hk, h3, h5]

/-- A COMPLETION ring that a ring of another kind names as PEER is not freed. -/
theorem ringDestroy_named (hq : Quiet s) (hk : k / 65536 = 2)
    (hnamed : ∃ x ∈ s.m.spl.rings, x.1 / 65536 ≠ 2 ∧ x.2.peer = k % 65536) :
    exec (.ringDestroy c) s = .next (s.put (s.m.reply (asOp c 0x0202) (c.bad 1))) := by
  refine run_fails (m' := s.m) hmay.under ?_ hq rfl (.inl rfl)
  have hany : (s.m.spl.rings.any fun x => decide (x.1 / 65536 ≠ 2 ∧ x.2.peer = k % 65536)) = true := by
    simpa only [List.any_eq_true, decide_eq_true_eq] using hnamed
  rw [asOp] at ht
  simp only [ht, hk, hany]
  rfl

/-- A FROZEN COMPLETION ring that no ring names cannot be freed now. -/
theorem ringDestroy_frozen (hq : Quiet s) (hfree : ∀ x ∈ s.m.spl.rings, x.1 / 65536 = 2 ∨ x.2.peer ≠ k % 65536)
    (h3 : r.state = 3) : exec (.ringDestroy c) s = .next (s.put (s.m.reply (asOp c 0x0202) { status := stBusy })) := by
  refine run_done_unitless rfl hmay.under ?_ hq (.inr (by decide))
  have hany : (s.m.spl.rings.any fun x => decide (x.1 / 65536 ≠ 2 ∧ x.2.peer = k % 65536)) = false := by
    simp only [List.any_eq_false, decide_eq_true_eq]
    exact fun x hx hnames => (hfree x hx).elim hnames.1 fun hother => hother hnames.2
  rw [asOp] at ht
  simp only [ht, hany, h3, Bool.and_false]
  rfl

end

/-! ### RING_DRAIN_DONE (R427) -/

/-- A ring that does not drain, or of which something is outstanding, stays as it is. -/
theorem ringDrainDone_idle {s : State} {kind : Fin 4} {n : Fin 65536} {r : Ring} (hq : Quiet s)
    (hr : s.m.ring (ringKey kind n) = some r) (h : r.state ≠ 5 ∨ s.m.ringDrained (ringKey kind n) r = false) :
    exec (.ringDrainDone kind n) s = .next s := by
  have hstays : (decide (r.state ≠ 5) || !s.m.ringDrained (ringKey kind n) r) = true := by simpa using h
  change execRingDrainDone kind n s = _
  simp only [execRingDrainDone, run_next, hr, hstays, if_true]
  rw [settle_quiet hq]

/-- A drained ring is FREE, and its RING_DESTROY is answered. -/
theorem ringDrainDone_frees {s : State} {kind : Fin 4} {n : Fin 65536} {r : Ring} {c : Cmd}
    (hr : s.m.ring (ringKey kind n) = some r) (h5 : r.state = 5) (hd : s.m.ringDrained (ringKey kind n) r = true)
    (hc : r.destroy = some c) :
    exec (.ringDrainDone kind n) s = .next (s.ends ((s.m.freeRing (ringKey kind n)).reply c {})) := by
  change execRingDrainDone kind n s = _
  simp [execRingDrainDone, run_next, hr, h5, hd, hc, State.ends]

/-! ### RING_MODIFY and RING_QUERY (R424, R425) -/

section
variable {s : State} {c : Cmd} {k : Nat} {r : Ring} (hq : Quiet s) (hmay : mayRun s.m c 0x0203 [targetObj c])
  (ht : s.m.target c = some (k, r))
include hq hmay ht

/-- A new GROUP of a SEND ring. -/
theorem ringModify_group (hk : k < 65536) (hmask : leAt (c.val 0x102) 0 1 = 1) (hg : leAt (c.val 0x102) 1 1 ≤ 63) :
    exec (.ringModify c) s =
      .next (s.put ((s.m.putRing k { r with group := leAt (c.val 0x102) 1 1 }).reply (asOp c 0x0203) {})) := by
  refine run_done_unitless rfl hmay ?_ (by simpa [Quiet] using hq) (.inr stOk_not_failing)
  simp [ht, hmask, bit, Nat.div_eq_of_lt hk, Nat.not_lt.mpr hg]

/-- A GROUP out of its range. -/
theorem ringModify_badGroup (hmask : leAt (c.val 0x102) 0 1 = 1) (hg : 63 < leAt (c.val 0x102) 1 1) :
    exec (.ringModify c) s = .next (s.put (s.m.reply (asOp c 0x0203) (badTlv (c.pos 0x102) 1))) := by
  refine run_fails (m' := s.m) hmay ?_ hq rfl (.inl rfl)
  simp [ht, hmask, bit, hg]

variable (hmask : leAt (c.val 0x102) 0 1 = 16) (hlo : 6 ≤ leAt (c.val 0x102) 8 1) (hhi : leAt (c.val 0x102) 8 1 ≤ 16)
  (halign : leAt (c.val 0x102) 16 8 % min (32 * 2 ^ leAt (c.val 0x102) 8 1) 4096 = 0)
include hmask hlo hhi halign

/-- A new place and size of an empty ring: its counts start again. -/
theorem ringModify_moves (he : r.entries = []) (hp : r.produced = r.consumed) (hr : r.read = r.consumed) :
    exec (.ringModify c) s = .next (s.put ((s.m.putRing k
      { r with log2 := leAt (c.val 0x102) 8 1, addr := leAt (c.val 0x102) 16 8, produced := 0, read := 0, consumed := 0, eseq := 0
      }).reply (asOp c 0x0203) {})) := by
  refine run_done_unitless rfl hmay ?_ (by simpa [Quiet] using hq) (.inr stOk_not_failing)
  simp [ht, hmask, bit, Nat.not_lt.mpr hlo, Nat.not_lt.mpr hhi, halign, he, hp, hr]

/-- A ring that is not empty stays where it is. -/
theorem ringModify_notEmpty (hp : r.produced ≠ r.consumed) :
    exec (.ringModify c) s = .next (s.put (s.m.reply (asOp c 0x0203) (badTlv (c.pos 0x102) 2))) := by
  refine run_fails (m' := s.m) hmay ?_ hq rfl (.inl rfl)
  simp [ht, hmask, bit, Nat.not_lt.mpr hlo, Nat.not_lt.mpr hhi, halign, hp]

end

/-- The stored word and the counts of a ring. -/
theorem ringQuery_answer {s : State} {c : Cmd} {k : Nat} {r : Ring} (hq : Quiet s) (hmay : mayRun s.m c 0x0204)
    (ht : s.m.target c = some (k, r)) :
    exec (.ringQuery c) s = .next (s.put (s.m.reply (asOp c 0x0204) (okWith [tlv 0x103 (leBytes 8 (s.m.ringWord k) ++
      leBytes 4 r.produced ++ leBytes 4 r.read ++ leBytes 4 r.consumed ++ leBytes 2 r.eseq ++ [0, 0])]))) := by
  refine run_done_unitless rfl hmay ?_ hq (.inr stOk_not_failing)
  simp [ht]

/-- RING_QUERY of no ring of the requester's owner. -/
theorem ringQuery_noTarget {s : State} {c : Cmd} (hq : Quiet s) (hmay : mayRun s.m c 0x0204) (ht : s.m.target c = none) :
    exec (.ringQuery c) s = .next (s.put (s.m.reply (asOp c 0x0204) c.bad)) := by
  refine run_fails (m' := s.m) hmay ?_ hq rfl (.inl rfl)
  simp [ht]

/-! ### SUMMARY_SET (R404) -/

section
variable {s : State} {c : Cmd} {o : Nat} {v : List Byte} (hq : Quiet s) (hmay : mayRun s.m c 0x0205 (s.m.ownerObjs c))
  (ho : s.m.cmdOwner c = some o) (hv : c.val 0x100 = v) (hsto : (decide (o < 4096) && s.m.isStorage o) = false)
include hq hmay ho hv hsto

/-- VALID 0: the owner has no summary line. -/
theorem summarySet_off (hon : bit (leAt v 12 4) 0 = false) :
    exec (.summarySet c) s = .next (s.put (((s.m.modOwner o fun x => { x with summary := none, last := none }).setSumEn o
      false).reply (asOp c 0x0205) {})) := by
  refine run_done_unitless rfl hmay ?_ (by simpa [Quiet] using hq) (.inr stOk_not_failing)
  simp only [ho, hv, hsto, hon]
  rfl

/-- VALID 1 with a line on its boundary: the owner's summary line is there, and none of it has been read. -/
theorem summarySet_on (hon : bit (leAt v 12 4) 0 = true) (halign : leAt v 0 8 % 64 = 0)
    (hpasid : s.m.pasidOk (s.m.ownerEp o) (leAt v 8 4) = true) :
    exec (.summarySet c) s = .next (s.put (((s.m.modOwner o fun x =>
      { x with summary := some (leAt v 0 8, pasidOf (leAt v 8 4)), last := none }).setSumEn o true).reply (asOp c 0x0205) {})) := by
  refine run_done_unitless rfl hmay ?_ (by simpa [Quiet] using hq) (.inr stOk_not_failing)
  simp [ho, hv, hsto, hon, halign, hpasid]

/-- A line off its boundary. -/
theorem summarySet_misaligned (hon : bit (leAt v 12 4) 0 = true) (halign : leAt v 0 8 % 64 ≠ 0) :
    exec (.summarySet c) s = .next (s.put (s.m.reply (asOp c 0x0205) c.bad)) := by
  refine run_fails (m' := s.m) hmay ?_ hq rfl (.inl rfl)
  simp [ho, hv, hsto, hon, halign]

end

/-! ### POLL_INTERVAL_SET (R407) -/

section
variable {s : State} {c : Cmd} {o : Nat} (hq : Quiet s) (hmay : mayRun s.m c 0x0206 (s.m.ownerObjs c))
  (ho : s.m.cmdOwner c = some o)
include hq hmay ho

/-- An interval in its range becomes the owner's K. -/
theorem pollIntervalSet_puts (hk : leAt (c.val 0x100) 0 1 ≤ 14) :
    exec (.pollIntervalSet c) s = .next (s.put ((s.m.setK o (leAt (c.val 0x100) 0 1)).reply (asOp c 0x0206) {})) := by
  refine run_done_unitless rfl hmay ?_ (by simpa [Quiet] using hq) (.inr stOk_not_failing)
  simp [ho, Nat.not_lt.mpr hk]

/-- An interval out of its range. -/
theorem pollIntervalSet_bad (hk : 14 < leAt (c.val 0x100) 0 1) :
    exec (.pollIntervalSet c) s = .next (s.put (s.m.reply (asOp c 0x0206) c.bad)) := by
  refine run_fails (m' := s.m) hmay ?_ hq rfl (.inl rfl)
  simp [ho, hk]

end

/-! ### The obligation -/

/-- Settles O47: each command by what its target or its owner is when it runs; a ring's end by the table of rings. -/
theorem ringCommands : Obligations.RingCommands := by
  unfold Obligations.RingCommands
  refine ⟨fun _ _ _ _ _ hq hmay ho hv hbad hpeer htake hn => ringCreate_takes hq hmay ho hv hbad hpeer htake hn,
    fun _ _ _ _ hq hmay ho hv => ⟨ringCreate_badRange hq hmay ho hv, ringCreate_badPeer hq hmay ho hv,
      ringCreate_noRoom hq hmay ho hv⟩,
    fun _ _ => ringCreate_noOwner,
    fun _ _ _ => Mod.ringNumber_lowest,
    fun m o v => ⟨rfl, rfl, rfl, rfl, rfl, rfl, rfl, fun hf => by simp [Mod.ringOf_state, hf],
      fun hf => by simp [Mod.ringOf_state, hf]⟩,
    fun _ _ => ringDestroy_noTarget,
    fun _ _ _ _ => ringDestroy_drains,
    fun _ _ _ _ hq hmay ht hk => ⟨ringDestroy_named hmay ht hq hk, ringDestroy_frozen hmay ht hq⟩,
    fun _ _ _ _ hn => ⟨_, Mod.ring_drainRing_send hn, rfl, rfl, rfl⟩,
    fun _ _ _ _ => ringDrainDone_idle,
    fun _ _ _ _ _ => ringDrainDone_frees,
    fun m k => ⟨m.ring_freeRing k, fun _ => m.ring_freeRing_ne⟩,
    ?modify,
    fun _ _ _ _ hq hmay ht hmask hlo hhi halign =>
      ⟨ringModify_moves hq hmay ht hmask hlo hhi halign, ringModify_notEmpty hq hmay ht hmask hlo hhi halign⟩,
    fun _ _ _ _ => ringQuery_answer,
    fun _ _ => ringQuery_noTarget,
    ?summary, ?poll⟩
  case modify =>
    rintro s c n _ r hq hmay ht hn hmask rfl
    exact ⟨ringModify_group hq hmay ht hn hmask, ringModify_badGroup hq hmay ht hmask⟩
  case summary =>
    intro s c o v hq hmay ho hv hno
    have hsto : (decide (o < 4096) && s.m.isStorage o) = false := by
      rcases hno with ⟨-, hs⟩ | hpf
      · simp [hs]
      · simp [Nat.not_lt.mpr hpf]
    exact ⟨summarySet_off hq hmay ho hv hsto, summarySet_on hq hmay ho hv hsto, summarySet_misaligned hq hmay ho hv hsto⟩
  case poll =>
    rintro s c o _ hq hmay ho rfl
    exact ⟨pollIntervalSet_puts hq hmay ho, pollIntervalSet_bad hq hmay ho⟩

end Sys2Proof.Machine
end
